-- ==== Sys2Proof/Word.lean ====
section
/-! DEFINITION. The word types of the block: a register word is 32 bits (R4), a packet is a list of bytes (R5). -/

namespace Sys2Proof

/-- A register word (R4). -/
abbrev Word := BitVec 32

/-- One byte of a packet, an item or a record (R5). -/
abbrev Byte := BitVec 8

end Sys2Proof
end

