-- ==== Sys2Proof/Payload.lean ====
section
/-! DEFINITION. What the commands carry: the operand types of the rows of spec/opcode_table.json, as plain data. -/

namespace Sys2Proof

/-- The carrier of a Cheda packet (R273) with the host's address: raw EtherType 0x88B5, UDP over IPv4, UDP over IPv6
(with the address of the unit that the packet named). -/
inductive Carrier where
  | raw
  | ip4 (host : Nat) (udp : Nat)
  | ip6 (host : Nat) (here : Nat) (udp : Nat)
  deriving DecidableEq, Repr

/-- Where a reply goes (R275): the port (0 MAC_A, 1 MAC_B), the source MAC, the VLAN tag (TCI) of the packet, its carrier. -/
structure Addr where
  port : Nat
  mac : Nat
  tag : Option Nat
  carrier : Carrier
  deriving DecidableEq, Repr

/-- Who sends a host item: session slot (0: opening, 1-16), the packet's sequence, the item's tag, the address replies
go to, and the PTP time at which the command frame arrived (R330). -/
structure ItemSrc where
  slot : Nat
  seq : Nat
  tag : Nat
  addr : Addr
  rxTs : Nat
  deriving DecidableEq, Repr

/-- One host item as a packet carries it (R278). -/
structure RawItem where
  op : Nat
  tag : Nat
  par : List Byte
  deriving DecidableEq, Repr

/-- One hop of a route (R121): tile, input and output port, the element of the route's cell in each stage, cross bits. -/
structure Hop where
  tile : Nat
  inp : Nat
  out : Nat
  lines : List Nat
  cross : Nat
  deriving DecidableEq, Repr

/-- What one mirror record carries (R345, R346).  `entry`: a circuit entry's words; `cell`: a cell record's words;
`loopSp`: a loop's SP; `tuple`: the accounting tuple of an item (HOST_ID, SEQUENCE, TAG, OPCODE, CSN, status);
`protTime`: PROTECT_IN edge served; `staged`: an item staged in a COMMIT_SET; `coefSet`: a coefficient set's words;
`draftWords`: words of a draft slot (0 ACTIVE, 1 STAGED) from a word index; `activation`: the swap with its beat boundary;
`gateList`: port and the GATE_LIST_WRITE parameters; `reg`: a register word; `piece`: phase, lock boundary S, N, and the new
route (DESIGN CHOICE, assumption 20: the peer needs it to resume);
`loops`: INTEG and SP of consecutive loops; `dacCode`: the ACTIVE code of a SHARED channel; `tec`: a TEC integrator; `table`: the
256 bins of a treadle table with BIN_WRITES; `tableClear`; `region`: words of the shared SRAM from a byte offset; `mark`: a closing record.
Its bytes are those of `Machine.bodyBytes`. -/
inductive MirBody where
  | entry (words : List Nat)
  | cell (words : List Nat)
  | loopSp (sp : Nat)
  | tuple (hostId seq tag op csn status : Nat)
  | protTime (pin : Nat) (time : Nat)
  | staged (op : Nat) (par : List Byte)
  | coefSet (words : List Nat)
  | draftWords (slot first : Nat) (words : List Nat)
  | activation (pick : Nat)
  | gateList (par : List Byte)
  | reg (value : Nat)
  | piece (phase start n : Nat) (new : List Hop)
  | loops (vals : List (Nat × Nat))
  | dacCode (code : Nat)
  | tec (integ : Nat)
  | table (bins : List Nat) (writes : Nat)
  | tableClear
  | region (words : List Nat)
  | mark
  deriving DecidableEq, Repr

/-- A mirror record (R346): TYPE, VERSION, OBJECT, CLOSE, RETRY, body. -/
structure MirRec where
  typ : Nat
  version : Nat
  obj : Nat
  close : Bool
  retry : Bool
  body : MirBody
  deriving DecidableEq, Repr

/-- A move that Shuttle plans (R131, R132): the circuit ID and its new route. -/
structure MoveProp where
  id : Nat
  route : List Hop
  deriving DecidableEq, Repr

/-- What Shuttle's search answered for a command when no route exists without moves (R131 steps 3 and 4): the moves and the
route; and which of several equally good paths it took in each tile (`pick`). -/
structure PlanProp where
  pick : Nat
  moves : List MoveProp
  route : List Hop
  deriving DecidableEq, Repr

/-- What a sense frame holds (R178, R179): whether the header's CRC passed, the eight header words, the endpoint-flag words, then by block
(port, stages 0-14) whether it arrived complete with its CRC right, the due samples as (loop, first sample, second sample): MB and MX for
a TH loop, input and output monitor for a port; whether the tail passed, the thermal samples by port-group index, the echo codes in
order. -/
structure SenseFrame where
  crcOk : Bool
  words : List Nat
  flags : List Nat
  blocks : List (Bool × List (Nat × Nat × Nat))
  tailOk : Bool
  thermal : List Nat
  echo : List Nat
  deriving DecidableEq, Repr

/-- What is seen of a lane that is judged (R186): its number (SNS0 to SNS3, DRV0, DRV1), whether it holds block lock, and the invalid sync
headers of each of the last four picks. -/
structure LaneReport where
  lane : Nat
  lock : Bool
  bad : List Nat
  deriving DecidableEq, Repr

/-- What training a link measured (R172): consecutive valid sync headers by lane (SNS0 to SNS3, DRV0, DRV1), lane-to-lane skew in ns toward
the Kyotil and toward the tile, the marker round trips in ps, TURN_NS and SNS_LAT_NS as the tile reports them, and the header words of the
sense frame that answered LISTEN, none where none did. -/
structure TrainResult where
  heads : List Nat
  skewIn : Nat
  skewOut : Nat
  trips : List Nat
  turn : Nat
  snsLat : Nat
  ident : List Nat
  deriving DecidableEq, Repr

/-- What the sweep of one cell measured (R431): phase in units of 2π / 65536 at the 17 codes of PTAB, ratios at the bar
and cross targets, the fitted fringe offset in the same phase units, the fitted heater time constant in ns, FC phase of
one FC_START unit against nominal (UQ2.14), FC phase of a full pulse in units of π / 1024. -/
structure CellMeas where
  cell : Nat
  phases : List Nat
  yBar : Int
  yCross : Int
  offset : Nat
  tau : Nat
  fcEff : Nat
  fcPulse : Nat
  deriving DecidableEq, Repr

/-- What port calibration measured for one port: the VOA start code and MON_OFFSET (R431). -/
structure PortMeas where
  port : Nat
  voaStart : Nat
  monOffset : Nat
  deriving DecidableEq, Repr

end Sys2Proof
end

