-- ==== Sys2Proof/Syntax.lean ====
section
/-! DEFINITION. The commands: one constructor for each row of spec/opcode_table.json, with what the row needs from outside the block.
A register row carries the word written, with the index of the register; a timer or boundary row carries the index it concerns; a row
whose inputs come from analog hardware or from a design the spec leaves open carries what that hardware answered. -/

namespace Sys2Proof

/-- A command to the block. -/
inductive Instr where
  /-- POWER_ON_RESET (R419): Release of POR_N (or the internal rail reset): straps are captured, VID is driven for 0.80 V, every block
  is reset and the unit enters RESOLVING and start-up stage 1. -/
  | powerOnReset (samples : List Nat)
  /-- RESET_N (R419): Assertion and release of RESET_N reset the unit as POR_N does, apart from the rail conditions. -/
  | resetN (samples : List Nat)
  /-- RAIL_UNDERVOLTAGE (R442): A rail monitor sees a rail below its low limit, raises RAIL_UV, and below the reset level holds the
  unit as under POR_N. -/
  | railUndervoltage (rail : Nat) (level : Nat)
  /-- VID_NOT_REACHED (R419): The core supply has not reached 0.80 V within 5 ms of reset, so VID_NOT_REACHED is raised and the unit
  waits on. -/
  | vidNotReached
  /-- VID_STEP (R444): Supply moves the VID code by 10 mV toward its target, at least 1 ms after the last move, and reads the pins
  back. -/
  | vidStep (pinsOk : Bool)
  /-- SECURE_BOOT (R420): Stage 2: Marl is mounted, the firmware slots are verified, an image starts, the boot configuration is loaded
  and the DAC internal clear is released. -/
  | secureBoot (configGood : Bool)
  /-- SELF_TEST (R423): Stage 3 runs the SRAM, engine, Loam, Sieve and DAC tests; a failure raises SELFTEST_FAIL and stops start-up. -/
  | selfTest (failed : Nat) (bursts : List Nat) (cals : List (Int × Int))
  /-- GO (R439): A write of START_CTRL.GO ends a start-up hold. -/
  | go (v : Nat)
  /-- TILE_DISCOVERY (R424): Stage 5 discovers tiles against the draft, waiting up to DISCOVER_S. -/
  | tileDiscovery
  /-- DISCOVER_TIMEOUT (R424): DISCOVER_S expires before every tile of the draft is discovered, and start-up moves on. -/
  | discoverTimeout
  /-- TILE_WAKE (R428): Stage 7, or a later FENCED transition: the target and park entries are written and each cell is raised to
  PARK_CODE as the rise buckets allow. -/
  | tileWake (t : Nat)
  /-- THERMAL_SETTLED (R429): The tile temperature has stayed within STABLE_MC for STABLE_S, so cell calibration may begin. -/
  | thermalSettled (t : Nat)
  /-- CAL_DEFERRED (R429): STABLE_MAX_S expires without settling; the tile's calibration is deferred and the tile stays FENCED. -/
  | calDeferred (t : Nat)
  /-- CAL_PASS (R431): A calibration pass lights its cells with CAL_SOURCE and sweeps, fits targets, heater response and FC for each,
  then returns them to PARKED. -/
  | calPass (t : Nat) (q : Nat) (cells : List CellMeas) (ports : List PortMeas) (wit : Nat)
  /-- CALIBRATION_END (R433): A calibration completes or is aborted; on completion the entries and records are written and the new
  generation is saved. -/
  | calibrationEnd (t : Nat)
  /-- ABORT (R433): A write of CAL_CTRL.ABORT aborts the running calibration. -/
  | abort (v : Nat)
  /-- SAVE (R433): A write of CAL_CTRL.SAVE saves the calibration generation, taking LOOPCFG from the loops at one pick boundary. -/
  | save (v : Nat)
  /-- LOOPS_ENABLE (R434): Stage 9 waits for the band, loads the loop fields and treadle tables, sets EN = 1 on the TH loops and
  activates the tile when AUTO_ACTIVATE = 1. -/
  | loopsEnable (t : Nat)
  /-- BOOT_OK (R417): The unit reaches READY or READY_STANDBY and Boot raises BOOT_OK. -/
  | bootOk
  /-- PICK_BOUNDARY (R13): The timebase division expires, the 64-bit pick number increments, and the work placed at the boundary is
  done (at beat boundaries, the beat work too). -/
  | pickBoundary (slack : List Nat)
  /-- BOUNDARY_MARKER (R170): FLIGHT_PS before each boundary the marker with the pick number is launched on both drive lanes. -/
  | boundaryMarker (t : Nat)
  /-- SENSE_FRAME (R178): A sense frame arrives from a tile and its blocks are checked, unpacked and handed to the engines, with the
  header judged for acknowledgement, claims, status and echo. -/
  | senseFrame (t : Nat) (lanes : List (List Nat))
  /-- TILE_OFFLINE_TIMEOUT (R108): 50 ms pass without an acknowledged drive frame, the tile goes OFFLINE and every cell parks. -/
  | tileOfflineTimeout (t : Nat)
  /-- LOOP_STEP (R61): An engine steps a due loop once its samples are present: full step, tracking, back-calculation, VOA step or
  hold, with treadle learning. -/
  | loopStep (l : Nat)
  /-- SWITCH_MAX_EXPIRY (R105): SWITCH_MAX picks pass in SWITCH, the cell enters SETTLE anyway, and WIDE is set. -/
  | switchMaxExpiry (c : Nat)
  /-- SETTLE_END (R106): The predicted FC share falls to π/1024 or below, FC is sent as zero and the cell enters HOLD. -/
  | settleEnd (c : Nat)
  /-- CELL_FAULT_QUIET (R98): Every cause of a cell fault has been absent for the quiet period, so the cell leaves FAULTED. -/
  | cellFaultQuiet (c : Nat)
  /-- LOSS_TRIP (R146): The egress power falls below SP − TRIP_DB for TRIP_PICKS steps and an AUTO protection switch is triggered. -/
  | lossTrip (l : Nat)
  /-- CHUNK_CUTOFF (R177): A drive-frame chunk closes at its cutoff; loops not handed over are omitted and treated as late. -/
  | chunkCutoff (t : Nat) (c : Nat) (slack : Nat)
  /-- LINK_TRAIN (R172): A weft link trains through lock, deskew, flight and identity, and ends UP, DEGRADED or DOWN. -/
  | linkTrain (t : Nat) (result : TrainResult)
  /-- LANE_FAIL (R186): A lane loses block lock or sees too many bad headers, and SNS_MASK, DT and TILE_CAP are changed. -/
  | laneFail (t : Nat) (lane : LaneReport)
  /-- LANE_RETRAIN (R186): Every 100 ms a failed lane is retrained; a lane that passes rejoins at a beat boundary. -/
  | laneRetrain (t : Nat) (passed : Nat)
  /-- LINK_DOWN (R187): A weft link goes DOWN, drive frames stop and the link is retrained at once. -/
  | linkDown (t : Nat)
  /-- LINK_RETRAIN_TIMER (R187): Every 100 ms a DOWN link is retrained again. -/
  | linkRetrainTimer (t : Nat)
  /-- RETRAIN (R190): A write of WEFT_CTRL.RETRAIN drops the link and retrains it. -/
  | retrain (t : Nat) (v : Nat)
  /-- BURST (R190): A write of WEFT_CTRL.BURST sends ECHO_BURST in the next drive frame. -/
  | burst (t : Nat) (v : Nat)
  /-- TRACKER_UPDATE (R82): Every 1/16 nominal period a SUPPLY tracker mixes its window, corrects phase and frequency, and judges
  lock. Its error, amplitude, frequency and phase shift are computed: the places for them carry nothing. -/
  | trackerUpdate (n : Nat) (err amp freq shift : Unit)
  /-- TRACKER_SOURCE_LOSS (R82): More than 1 ms passes between valid words, which counts as loss of source. -/
  | trackerSourceLoss (n : Nat)
  /-- TRACKER_LOST (R83): COAST_MAX periods pass in COAST and the tracker becomes LOST, stopping correction. -/
  | trackerLost (n : Nat)
  /-- TRK_CFG_WRITE (R83): A write of TRK_CFG changes mode, source or fundamental, with the tracker transitions and table clears they
  cause. -/
  | trkCfgWrite (n : Nat) (v : Nat)
  /-- TRK_BASE_HI_WRITE (R84): A write of TRK_BASE_HI brings the SYNTH base into effect and jumps a SYNTH phase. -/
  | trkBaseHiWrite (n : Nat) (v : Nat)
  /-- TREADLE_MIRROR_SEND (R93): The mirror sweep sends a changed table, or a clear record, to the peer. -/
  | treadleMirrorSend
  /-- TREADLE_SAVE_DONE (R95): A treadle save commits its generation through the journal, or ends aborted or in error. -/
  | treadleSaveDone (result : Nat)
  /-- TRD_SAVE (R95): A write of TRD_CTRL.SAVE starts a save of every table. -/
  | trdSave (v : Nat)
  /-- PICK_CFG_WRITE (R53): A write of PICK_CFG requests a new pick rate and beat length, or is refused. -/
  | pickCfgWrite (v : Nat)
  /-- PICK_NUM_READ (R53): A read of PICK_NUM_LO latches PICK_NUM_HI and the PTP time of that boundary. -/
  | pickNumRead
  /-- CHECK (R51): A write of DRAFT_CTRL.CHECK runs checks 1–14 against STAGED. -/
  | check (v : Nat)
  /-- COMMIT_POINT (R126): The head command in commit order is checked against the live table, written, mirrored and placed in the
  frames for the next boundary. -/
  | commitPoint (prop : PlanProp)
  /-- SHUTTLE_PLAN (R135): Shuttle plans a route and move plan for a command up to RUNAHEAD commands ahead. -/
  | shuttlePlan (no : Nat) (prop : PlanProp)
  /-- TIMED_COMMIT_DUE (R149): A timed command reaches the commit point of its boundary, on time or late. -/
  | timedCommitDue (prop : PlanProp)
  /-- PROTECT_IN_EDGE (R147): A PROTECT_IN level change is seen and debounced. -/
  | protectInEdge (n : Nat) (high : Bool) (delay : Nat)
  /-- PROTECT_DEBOUNCE (R147): A pin holds its asserted level for DEBOUNCE_NS and triggers the group's protection switch. -/
  | protectDebounce (n : Nat)
  /-- RESTORATION (R150): A DARK circuit with RESTORE = 1 is recommitted once its tiles are ACTIVE and no cell of it is FAULTED. -/
  | restoration (e : Nat) (pick : Nat)
  /-- PIECE_LOCK_TIMEOUT (R144): Lock is not declared within LOCK_MAX beats, or is lost, and the piece aborts or falls back to a dark
  piece. -/
  | pieceLockTimeout (e : Nat)
  /-- RAMP_STEP (R157): A warm, undo or re-centring ramp applies its next code at a boundary, or waits for the rise budget. -/
  | rampStep (c : Nat)
  /-- RESERVATION_TIMEOUT (R163): A reservation reaches TIMEOUT_MS and its cells are undone. -/
  | reservationTimeout (handle : Nat)
  /-- RA_WARM_TIMEOUT (R163): A run-ahead plan reaches RA_WARM_MS from its first admission and its cells are undone. -/
  | raWarmTimeout (no : Nat)
  /-- TILTH_HOLDOFF_EXPIRY (R163): HOLDOFF_MS passes after a tile fault clears and admission in the tile resumes. -/
  | tilthHoldoffExpiry (t : Nat)
  /-- SIEVE_WORD (R194): A converter's filter produces an output word on its grid, writes it to the ring, feeds the trackers and
  advances the scan. -/
  | sieveWord (k : Nat) (vs : List Int) (limit : Bool)
  /-- SIEVE_BG_INTERVAL (R193): At the end of each 2^18-sample interval the background estimates are formed and the trims step. -/
  | sieveBgInterval (k : Nat) (est : List Int) (rms : Nat)
  /-- CAL (R200): A write of SV_CTRL.CAL starts a foreground calibration once queued injections complete. -/
  | cal (k : Nat) (v : Nat)
  /-- SIEVE_CAL_DONE (R200): Foreground calibration ends, sets or keeps the corrections, and the scan resumes. -/
  | sieveCalDone (k : Nat) (zero : Int) (ref : Int)
  /-- RUN (R198): A write of SV_CTRL.RUN starts or stops the scan at a word boundary. -/
  | run (k : Nat) (v : Nat)
  /-- SV_SCAN_WRITE (R198): A write of SV_SCAN_n, SV_DWELL_n or SV_SCAN_LEN takes effect on the scan as R198 states. -/
  | svScanWrite (k : Nat) (reg : Nat) (v : Nat)
  /-- INJECT_GO (R199): A write of SV_INJ.GO queues an injected conversion, or is refused when the queue is full. -/
  | injectGo (k : Nat) (v : Nat)
  /-- INJECTION_START (R199): The head injection suspends the scan at a word boundary, or a PAIRED one at the next 25.6 µs instant. -/
  | injectionStart (k : Nat)
  /-- WITNESS_ROUND (R204): At each WIT_PERIOD_MS the checker selects a witness endpoint on the next tile and requests an injection. -/
  | witnessRound
  /-- XCHK_PERIODIC (R206): Every XCHK_MS a paired cross check runs on XCHK_INPUT, with a reference check when it fails. -/
  | xchkPeriodic
  /-- DAC_CODE_WRITE (R213): A DAC_CODE write passes the input FIFO into PENDING, or is refused by ownership. -/
  | dacCodeWrite (c : Nat) (v : Nat)
  /-- DAC_STROBE (R212): A DAC_STROBE write loads the SOFT groups it names. -/
  | dacStrobe (v : Nat)
  /-- DAC_LOAD_PIN (R212): A rising edge on DAC_LOAD<g> loads a PIN group on the third DAC clock edge. -/
  | dacLoadPin (g : Nat) (high : Bool)
  /-- RANGE (R214): A write of a new RANGE clears the channel's codes and starts RANGING. -/
  | range (c : Nat) (v : Nat)
  /-- RANGING_END (R214): RANGING ends and pending writes are loaded. -/
  | rangingEnd (c : Nat)
  /-- DAC_CLR_N (R215): DAC_CLR_N is asserted or released, forcing or freeing the enabled channels. -/
  | dacClrN (low : Bool)
  /-- DAC_BUFFER_OT (R218): An output buffer's temperature flag sets or clears, applying OT_POLICY. -/
  | dacBufferOt (c : Nat) (hot : Bool)
  /-- OT_REDRIVE (R218): 1 ms after the flag clears, a buffer with OT_POLICY = 1 drives again. -/
  | otRedrive (c : Nat)
  /-- SHARED_DRIVE_START (R217): At the 8th pick boundary after entry to ACTIVE, SHARED channels start to drive. -/
  | sharedDriveStart
  /-- SINE_ENABLE (R220): EN written 0→1 starts a generator at PHASE0 on the channel's next load edge. -/
  | sineEnable (g : Nat) (v : Nat)
  /-- SINE_DISABLE (R220): EN written 1→0 lets the generator run on until its phase wraps. -/
  | sineDisable (g : Nat) (v : Nat)
  /-- SINE_STOP (R220): The phase wraps through zero after disable; the generator stops and ACTIVE takes the offset code. -/
  | sineStop (g : Nat)
  /-- SINE_PARAM_WRITE (R220): A write of FTW, AMP or OFFSET takes effect at the next DAC clock edge, phase continuous. -/
  | sineParamWrite (g : Nat) (reg : Nat) (v : Nat)
  /-- SINE_TABLE_WRITE (R220): A write to a sine table, refused with FIELD_OWNED while the generator runs. -/
  | sineTableWrite (g : Nat) (i : Nat) (v : Nat)
  /-- TEC_EN (R222): A write of TEC_EN starts or stops the TEC loop, starting from TEC_INTEG with no step. -/
  | tecEn (t : Nat) (v : Nat)
  /-- TEC_SAFE (R222): T has not been valid for HOLD_MS and TEC_SAFE is written to PENDING. -/
  | tecSafe (t : Nat)
  /-- THERM_SCAN (R229): A die sensor scan reads all 24 sensors, judges failures, H, the thresholds and the next scan period. -/
  | thermScan (temps : List Int) (errs : Nat)
  /-- THROTTLE_STEP (R231): At each THR_STEP_MS the throttle level rises or falls by one, with the level's actions. -/
  | throttleStep
  /-- SHUTDOWN_MARL_END (R233): A Marl page program running at shut-down finishes or is aborted. -/
  | shutdownMarlEnd
  /-- THERM_RESTART (R234): H has stayed below 105 °C for RESTART_S and the unit restarts with stored calibration. -/
  | thermRestart
  /-- THERMTRIP (R235): The analog comparator sees a sensor past 125 °C and holds the die as under POR_N until below 110 °C. -/
  | thermtrip (past : Bool)
  /-- THERM_RETIRE_WRITE (R226): A write of THERM_RETIRE retires or restores sensors, ending any substitution. -/
  | thermRetireWrite (v : Nat)
  /-- REFERENCE_BURST (R239): Each hour an engine runs a timed reference burst, giving its age factor. -/
  | referenceBurst (e : Nat) (ps : Nat)
  /-- SILT_HOURLY (R240): Each operating hour Silt records A and slack, refits the trend and projects end-of-life slack. -/
  | siltHourly
  /-- SILT_REPLAN (R242): Silt re-plans through loop moves, voltage raises and host requests. -/
  | siltReplan
  /-- REPLAN (R242): A write of SILT_CTRL.REPLAN starts a re-plan. -/
  | replan (v : Nat)
  /-- SILT_SAVE (R240): A write of SILT_CTRL.SAVE, or each 24 operating hours, saves the trend to Marl. -/
  | siltSave (v : Nat)
  /-- SILT_VOLTAGE_REMEASURE (R242): 100 ms after a voltage raise Silt re-measures with a reference burst. -/
  | siltVoltageRemeasure (ps : List Nat)
  /-- FRAME_RECEIVE (R252): A frame arrives on a host port and passes the receive stages to an RX queue or is dropped. -/
  | frameReceive (p : Nat) (room : Bool) (bytes : List Byte)
  /-- PAUSE_EXPIRY (R262): A received pause runs out and transmission may resume. -/
  | pauseExpiry (p : Nat)
  /-- PAUSE_REFRESH (R263): Half of PAUSE_TIME passes with the fill still high and the PAUSE frame is sent again. -/
  | pauseRefresh (p : Nat)
  /-- MAC_LINK_CHANGE (R251): A port's LINK falls or rises, with discards while it is down. -/
  | macLinkChange (p : Nat) (lock : Bool) (hiBer : Bool) (localF : Bool) (remoteF : Bool)
  /-- RULE_CTL_WRITE (R259): A write of RULE_CTL_n brings the rule's values into force together. -/
  | ruleCtlWrite (n : Nat) (v : Nat)
  /-- EGRESS_ENQUEUE (R307): A frame is admitted to an egress queue, pushes others out, or is dropped. -/
  | egressEnqueue (p : Nat) (q : Nat) (dst : Nat) (vid : Option Nat) (body : List Byte)
  /-- TX_OPPORTUNITY (R310): A port becomes idle and chooses its next frame by PAUSE, strict priority and DRR. -/
  | txOpportunity (p : Nat)
  /-- SHAPER_REFILL (R312): Every 1,000 ns of timebase each shaper bucket gains RATE bits. -/
  | shaperRefill
  /-- POLICER_REFILL (R317): Every 1,000 ns each policer bucket gains CIR or PIR bits. -/
  | policerRefill
  /-- GATE_ENTRY_CHANGE (R313): A gate-list entry interval ends and the next entry's gates take effect. -/
  | gateEntryChange (p : Nat)
  /-- GATE_LIST_START (R315): A committed gate list goes into operation at its START. -/
  | gateListStart (p : Nat)
  /-- PEER_FRAME_RECEIVE (R264): MAC_P receives a frame and passes 0x88B6 frames to Selvage or drops others. -/
  | peerFrameReceive (room : Bool) (bytes : List Byte)
  /-- TETHER_RECEIVE (R269): The tether receives a frame and passes valid 0x88B6 frames to Selvage. -/
  | tetherReceive (bytes : List Byte)
  /-- TETHER_TRANSMIT (R265): The tether sends a held frame under CSMA/CD or PLCA. -/
  | tetherTransmit
  /-- TETHER_COLLISION (R265): A collision starts back-off, or discards the frame after 16 attempts or a late collision. -/
  | tetherCollision (late : Bool)
  /-- TETHER_BACKOFF_EXPIRY (R265): The back-off wait ends and the frame is attempted again. -/
  | tetherBackoffExpiry
  /-- PLCA_BEACON_LOSS (R268): No beacon is seen for 4 × NODE_CNT × TO_TIMER and the port falls back to CSMA/CD. -/
  | plcaBeaconLoss
  /-- TETHER_HEARTBEAT_TIMER (R266): Every 100 µs (ACTIVE) or 1 ms a tether heartbeat is queued, superseding an unsent one. -/
  | tetherHeartbeatTimer
  /-- CHEDA_PACKET (R287): The parser takes a Cheda packet, checks header, session, auth and sequence, and takes its items. -/
  | chedaPacket
  /-- REPLY_SEND (R288): Every item has a final status or REPLY_WAIT expires, and the reply is sent in parts. -/
  | replySend (slot : Nat) (seq : Nat)
  /-- COMPLETION_SEND (R288): Within COMPLETE_WAIT after items become final a completion packet is sent. -/
  | completionSend (slot : Nat) (seq : Nat)
  /-- SESSION_OPEN (R283): Reserve a session slot and return the device nonce and serial. -/
  | sessionOpen (src : ItemSrc) (par : List Byte)
  /-- SESSION_PROVE (R283): Check the host's proof and open the session, returning the device proof. -/
  | sessionProve (src : ItemSrc) (par : List Byte)
  /-- SESSION_PROVE_TIMEOUT (R283): No proof within 1 s frees the OPENING slot. -/
  | sessionProveTimeout (slot : Nat)
  /-- KEY_LOCKOUT_EXPIRY (R283): A key locked for 60 s after eight failed proofs is released. -/
  | keyLockoutExpiry (key : Nat)
  /-- SESSION_CLOSE (R285): Close the session after its reply and discard its group items and transaction. -/
  | sessionClose (src : ItemSrc) (par : List Byte)
  /-- SESSION_IDLE_TIMEOUT (R285): IDLE_S passes without an authenticated packet and the session closes. -/
  | sessionIdleTimeout (slot : Nat)
  /-- NOP (R296): Echo the parameters as the result. -/
  | nop (src : ItemSrc) (par : List Byte)
  /-- ACCOUNT_QUERY (R289): Return ledger entries for a HOST_ID and range of sequences, with OLDEST. -/
  | accountQuery (src : ItemSrc) (par : List Byte)
  /-- EVENT_SUBSCRIBE (R300): Set the session's least event severity, or stop events. -/
  | eventSubscribe (src : ItemSrc) (par : List Byte)
  /-- EVENT_ACK (R371): Acknowledge the real or injected fault states of named sources. -/
  | eventAck (src : ItemSrc) (par : List Byte)
  /-- KEY_WRITE (R281): Write a key record through the Marl journal. -/
  | keyWrite (src : ItemSrc) (par : List Byte)
  /-- BEGIN_SET (R291): Open a transaction on the session. -/
  | beginSet (src : ItemSrc) (par : List Byte)
  /-- COMMIT_SET (R292): Enter commit order, check the staged items and place their writes in shadow with a CSN. -/
  | commitSet (src : ItemSrc) (par : List Byte)
  /-- ABORT_SET (R293): Discard the staged items of the transaction. -/
  | abortSet (src : ItemSrc) (par : List Byte)
  /-- TXN_IDLE_TIMEOUT (R293): No item of an open transaction is taken for TXN_IDLE_S and the transaction is discarded. -/
  | txnIdleTimeout
  /-- REG_READ (R294): Return consecutive register words. -/
  | regRead (src : ItemSrc) (par : List Byte)
  /-- REG_WRITE (R294): Write consecutive register words as one locked, all-or-nothing sequence. -/
  | regWrite (src : ItemSrc) (par : List Byte)
  /-- REG_MODIFY (R294): Read-modify-write one register word under a mask, locked. -/
  | regModify (src : ItemSrc) (par : List Byte)
  /-- REGISTER_WRITE (R7): A write to a register with no row of its own stores its fields under the access codes, taking effect where
  its rule says. -/
  | registerWrite (a : Nat) (v : Nat)
  /-- CIRCUIT_ESTABLISH (R122): Establish a new live circuit between two fabric ports. -/
  | circuitEstablish (src : ItemSrc) (par : List Byte)
  /-- CIRCUIT_RELEASE (R122): Park a circuit's route and free its entry and alternate. -/
  | circuitRelease (src : ItemSrc) (par : List Byte)
  /-- CIRCUIT_MIGRATE (R122): Move a circuit to a new route by piecing or plain commit. -/
  | circuitMigrate (src : ItemSrc) (par : List Byte)
  /-- ALT_ARM (R122): Plan and hold a protection alternate. -/
  | altArm (src : ItemSrc) (par : List Byte)
  /-- ALT_DISARM (R122): Free a circuit's alternate. -/
  | altDisarm (src : ItemSrc) (par : List Byte)
  /-- PROTECT_SWITCH (R146): Move named circuits, or a group, onto their alternates. -/
  | protectSwitch (src : ItemSrc) (par : List Byte)
  /-- GROUP_COMMIT (R124): Commit every held GROUP item of the session at one boundary. -/
  | groupCommit (src : ItemSrc) (par : List Byte)
  /-- CIRCUIT_READ (R121): Return one circuit-table entry. -/
  | circuitRead (src : ItemSrc) (par : List Byte)
  /-- CIRCUIT_RESERVE (R154): Plan a reservation route for warming and return a handle. -/
  | circuitReserve (src : ItemSrc) (par : List Byte)
  /-- RESERVE_CANCEL (R154): Cancel a reservation and undo its cells. -/
  | reserveCancel (src : ItemSrc) (par : List Byte)
  /-- PLAN_STATUS (R162): Report whether an alternate's or reservation's cells are all at target. -/
  | planStatus (src : ItemSrc) (par : List Byte)
  /-- PATH_READ (R69): Return one outer-loop path record. -/
  | pathRead (src : ItemSrc) (par : List Byte)
  /-- CELL_READ (R117): Return a cell-state record. -/
  | cellRead (src : ItemSrc) (par : List Byte)
  /-- CELL_FREEZE (R102): Freeze a cell, at once or after it reaches HOLD or PARKED. -/
  | cellFreeze (src : ItemSrc) (par : List Byte)
  /-- CELL_UNFREEZE (R102): Return a FROZEN cell to HOLD or PARKED. -/
  | cellUnfreeze (src : ItemSrc) (par : List Byte)
  /-- CELL_CAL (R103): Spot-calibrate one cell of an ACTIVE tile. -/
  | cellCal (src : ItemSrc) (par : List Byte)
  /-- TILE_ACTIVATE (R108): Take a calibrated FENCED tile to ACTIVE. -/
  | tileActivate (src : ItemSrc) (par : List Byte)
  /-- TILE_FENCE (R108): Take an ACTIVE tile without routes to FENCED. -/
  | tileFence (src : ItemSrc) (par : List Byte)
  /-- TILE_CALIBRATE (R108): Take a FENCED tile into CAL and calibrate it. -/
  | tileCalibrate (src : ItemSrc) (par : List Byte)
  /-- TILE_OFFLINE (R108): Take a FENCED tile OFFLINE. -/
  | tileOffline (src : ItemSrc) (par : List Byte)
  /-- LOOP_READ (R73): Return loop-state words. -/
  | loopRead (src : ItemSrc) (par : List Byte)
  /-- LOOP_WRITE (R295): Write loop-state fields under a mask, subject to ownership. -/
  | loopWrite (src : ItemSrc) (par : List Byte)
  /-- LOOP_MOVE (R76): Request a loop move to another engine slot at a beat boundary. -/
  | loopMove (src : ItemSrc) (par : List Byte)
  /-- COEF_READ (R70): Return coefficient-set words. -/
  | coefRead (src : ItemSrc) (par : List Byte)
  /-- COEF_WRITE (R72): Write a coefficient-set word to the shadow copy. -/
  | coefWrite (src : ItemSrc) (par : List Byte)
  /-- TREADLE_READ (R92): Return a loop's treadle table. -/
  | treadleRead (src : ItemSrc) (par : List Byte)
  /-- TREADLE_WRITE (R92): Write a loop's treadle table while TREADLE_EN = 0. -/
  | treadleWrite (src : ItemSrc) (par : List Byte)
  /-- TREADLE_CLEAR (R88): Clear the tables of a loop or class at the next beat boundary. -/
  | treadleClear (src : ItemSrc) (par : List Byte)
  /-- TREADLE_SAVE (R95): Save every treadle table to the older Marl generation. -/
  | treadleSave (src : ItemSrc) (par : List Byte)
  /-- DRAFT_READ (R37): Return words of a draft slot. -/
  | draftRead (src : ItemSrc) (par : List Byte)
  /-- DRAFT_WRITE (R37): Write words into the STAGED draft slot. -/
  | draftWrite (src : ItemSrc) (par : List Byte)
  /-- DRAFT_LOAD_PREDEFINED (R46): Load a predefined draft into STAGED. -/
  | draftLoadPredefined (src : ItemSrc) (par : List Byte)
  /-- DRAFT_ACTIVATE (R38): Stage the activation of STAGED, checked at COMMIT_SET. -/
  | draftActivate (src : ItemSrc) (par : List Byte)
  /-- COUNTER_READ (R392): Return counter values from the last snapshot. -/
  | counterRead (src : ItemSrc) (par : List Byte)
  /-- HISTO_READ (R392): Return a histogram unit from the last snapshot. -/
  | histoRead (src : ItemSrc) (par : List Byte)
  /-- STATS_CLEAR (R391): Clear named counters, histograms and loop minima at the next boundary. -/
  | statsClear (src : ItemSrc) (par : List Byte)
  /-- LOG_READ (R379): Return records of the Loam event log or the Marl fault log. -/
  | logRead (src : ItemSrc) (par : List Byte)
  /-- TRACE_READ (R410): Return or export trace or slack-history records. -/
  | traceRead (src : ItemSrc) (par : List Byte)
  /-- GATE_LIST_WRITE (R315): Stage a gate list for a host port, taking effect at its START. -/
  | gateListWrite (src : ItemSrc) (par : List Byte)
  /-- GATE_LIST_READ (R316): Return the gate list in operation or awaiting START. -/
  | gateListRead (src : ItemSrc) (par : List Byte)
  /-- TIME_STEP (R332): Probe, or step PTP time by offset, to an absolute time or by the measured offset. -/
  | timeStep (src : ItemSrc) (par : List Byte)
  /-- PAIR_STATUS (R360): Return the unit's pair state. -/
  | pairStatus (src : ItemSrc) (par : List Byte)
  /-- PAIR_HANDOVER (R361): Order a handover from the ACTIVE unit to its peer. -/
  | pairHandover (src : ItemSrc) (par : List Byte)
  /-- CONFIG_SAVE (R296): Save drafts, coefficient sets, gate lists and Marl registers. -/
  | configSave (src : ItemSrc) (par : List Byte)
  /-- FIRMWARE_WRITE (R422): Write image data into the staging area. -/
  | firmwareWrite (src : ItemSrc) (par : List Byte)
  /-- FIRMWARE_ACTIVATE (R422): Verify the staged image, write it to the idle slot and mark it preferred. -/
  | firmwareActivate (src : ItemSrc) (par : List Byte)
  /-- SYSTEM_RESET (R296): Reset the unit 1 ms after the reply leaves. -/
  | systemReset (src : ItemSrc) (par : List Byte)
  /-- DEBUG_UNLOCK (R422): Challenge, verify a signed response to unlock debug, or relock. -/
  | debugUnlock (src : ItemSrc) (par : List Byte)
  /-- EVENT_PACKET_SEND (R377): Pending records are sent in EVENT packets within 100 µs (MAJOR+) or 1 ms. -/
  | eventPacketSend
  /-- SUMMARY_SEND (R378): Shed counts are sent in a summary record, alone within 1 s if no packet goes sooner. -/
  | summarySend (slot : Nat)
  /-- REF_LOSS (R325): TB_10M_IN has no edge for 1 µs and the timebase PLL changes over to SDS_REFCLK. -/
  | refLoss
  /-- REF_RETURN (R325): TB_10M_IN has been valid for 10 s and the PLL returns to it at a pick boundary. -/
  | refReturn
  /-- REFCLK_LOSS (R447): SDS_REFCLK stops for 1 µs; SerDes lose lock and the timebase holds. -/
  | refclkLoss
  /-- PTP_MESSAGE (R329): A PTP message from RX queue 0 is processed by the ordinary clock and the servo measures. -/
  | ptpMessage
  /-- PPS_EDGE (R326): A rising edge on TB_PPS_IN is timestamped and measured in PPS mode. -/
  | ppsEdge (delay : Nat)
  /-- SERVO_HOLDOVER (R327): No Sync for 3 announce intervals, or no PPS for 3 s, puts the servo in HOLDOVER. -/
  | servoHoldover
  /-- PTP_MASTER_SEND (R329): As master the clock sends its Announce, Sync and delay messages at their intervals. -/
  | ptpMasterSend (kind : Nat)
  /-- RELOCK (R328): A write of TIME_CFG.RELOCK re-enables one automatic step. -/
  | relock (v : Nat)
  /-- SERVO_SRC_WRITE (R327): A write of TIME_CFG.SRC moves the servo to FREE or ACQUIRE. -/
  | servoSrcWrite (v : Nat)
  /-- TB_NS_READ (R337): A read of TB_NS_LO latches TB_NS_HI and PTP_NOW. -/
  | tbNsRead
  /-- PULSE_ARM (R336): A write of PULSE_START_HI or a nonzero MODE arms a timed pulse. -/
  | pulseArm (n : Nat) (cfg : Bool) (v : Nat)
  /-- PULSE_EDGE (R336): PTP time reaches a pulse's stated edge and the output changes level. -/
  | pulseEdge (n : Nat)
  /-- HEARTBEAT_P_TIMER (R342): Every 10 µs a heartbeat leaves on MAC_P. -/
  | heartbeatPTimer
  /-- HEARTBEAT (R342): A valid peer heartbeat arrives and updates the peer's path, role and state. -/
  | heartbeat (path : Nat) (bytes : List Byte)
  /-- CLAIM (R343): A peer CLAIM frame arrives and updates SEEN. -/
  | claim (path : Nat) (bytes : List Byte)
  /-- MIRROR (R346): A MIRROR frame arrives; records are held and applied when their version closes. Its bytes from the
  first after the EtherType: the header, the records, the padding. -/
  | mirror (head recs pad : List Byte)
  /-- ACK (R348): An ACK arrives and completes items whose versions are acknowledged. -/
  | ack (bytes : List Byte)
  /-- SYNC_REQ (R349): A SYNC_REQ arrives and the active unit takes a snapshot at its next beat boundary. -/
  | syncReq (bytes : List Byte)
  /-- SNAPSHOT_SEND (R349): At the beat boundary after SYNC_REQ the active unit sends the snapshot. -/
  | snapshotSend
  /-- P_LOST (R342): HB_MISS_P × 10 µs pass without a valid MAC_P frame, or LINK falls, and P_LOST holds. -/
  | pLost
  /-- T_LOST (R342): HB_MISS_T × I pass without a valid tether frame and T_LOST holds. -/
  | tLost
  /-- MIRROR_BATCH (R347): Every 16 picks the active unit sends a BATCH of loop INTEG and SP, DAC codes and TEC integrators. -/
  | mirrorBatch
  /-- MIRROR_RESEND (R348): Every 200 µs an unacknowledged version is resent, up to 5 times, then PEER_BEHIND is set. -/
  | mirrorResend
  /-- MIRROR_GAP_TIMEOUT (R346): A version is still missing 1 ms after a later one closed; the mirror goes BEHIND and sends SYNC_REQ. -/
  | mirrorGapTimeout
  /-- ROLE_RESOLUTION (R344): A RESOLVING unit reads tiles and heartbeats and claims, waits or takes STANDBY. -/
  | roleResolution
  /-- RESOLUTION_REREAD (R344): Every 20 ms a unit held by an unheard holder reads again; 20 ms without heartbeats lets it claim. -/
  | resolutionReread
  /-- FAILOVER (R352): A failover condition holds at a STANDBY unit, which claims the tiles and adopts the fabric. -/
  | failover
  /-- TAKEBACK_REQUEST (R355): The preferred standby's health conditions have held for TAKEBACK_S and it sets TB_REQ. -/
  | takebackRequest
  /-- LINK_HANDOVER (R354): The handover conditions for a lost weft link hold for LINK_HOLD_MS and the active unit starts a handover. -/
  | linkHandover
  /-- HANDOVER_AGREE (R356): The active unit's ledger empties, it enters HANDING and sets AGREED_PICK. -/
  | handoverAgree
  /-- HANDOVER_DECLINE (R356): The handover waits are not met within 1 s and the request is dropped. -/
  | handoverDecline
  /-- EVENT_GRANT (R373): A block's event arbiter grants an occurrence, which is recorded, escalated, counted and reported. -/
  | eventGrant (b : Nat)
  /-- EVENT_RECOVERY (R370): A source not held has been quiet for QUIET_MS and leaves its fault state. -/
  | eventRecovery (b : Nat) (src : Nat)
  /-- COALESCE_HOLD_EXPIRY (R376): COAL_MS after a record was sent, the next held record becomes sendable. -/
  | coalesceHoldExpiry (b : Nat) (src : Nat) (inj : Bool)
  /-- GO_INJECT (R374): A write of EV_INJECT.GO injects one occurrence of a source. -/
  | goInject (b : Nat) (v : Nat)
  /-- UNACK (R371): A write of 1 to an UNACK or INJ_UNACK bit acknowledges a source. -/
  | unack (b : Nat) (inj : Bool) (v : Nat)
  /-- VALID (R368): A write of 1 to EV_FIRST.VALID clears the first-fault record. -/
  | valid (b : Nat) (v : Nat)
  /-- COUNT_CLR (R368): A write of EV_CTRL.COUNT_CLR clears the fault counts at the next boundary. -/
  | countClr (b : Nat) (v : Nat)
  /-- PERF_SEL_WRITE (R383): A write of PERF_SEL_n changes what counter n counts from the next boundary. -/
  | perfSelWrite (n : Nat) (v : Nat)
  /-- PERF_CNT_READ (R387): A read of PERF_CNT_LO_n latches the high bits and OVF. -/
  | perfCntRead (n : Nat)
  /-- OVF (R386): A W1C write of a counter's OVF clears it. -/
  | ovf (n : Nat) (v : Nat)
  /-- HISTO_CFG_WRITE (R389): A write of HISTO_CFG_u takes effect at the next boundary and clears the unit. -/
  | histoCfgWrite (u : Nat) (v : Nat)
  /-- BOBBIN_SNAPSHOT (R393): Every BOB_BEATS beats a snapshot is taken and a BOBBIN dump is built and sent. -/
  | bobbinSnapshot
  /-- REED_REQUEST (R403): A master's request is granted by its target's arbiter under the path, window and ordering rules. -/
  | reedRequest (m : Nat) (addr : Nat) (write : Bool) (words : List Nat) (count : Nat) (lock : Bool) (unlock : Bool) (barrier : Bool)
  /-- REED_LOCK_TIMEOUT (R405): A locked sequence still open 10 µs after its first grant is ended and its writes discarded. -/
  | reedLockTimeout (t : Nat)
  /-- MASTER_RESET (R406): A master is reset mid-burst and its requests end as R406 states. -/
  | masterReset (m : Nat) (addr : Nat) (words : List Nat) (item : Option Nat)
  /-- REED_WIN_WRITE (R402): A write of a window register changes the window or is refused. -/
  | reedWinWrite (n : Nat) (ctl : Bool) (v : Nat)
  /-- DRAM_ERROR (R407): Loam corrects a single-bit error, or on an uncorrected one retires the row. -/
  | dramError (m : Nat) (addr : Nat) (corrected : Bool)
  /-- MARL_OPERATION_START (R414): Marl starts the next queued operation by rank as a journal transaction. -/
  | marlOperationStart
  /-- MARL_ROUND_DONE (R412): A Marl program or erase round completes and the next round, or the COMMIT, follows. -/
  | marlRoundDone (good : Bool)
  /-- MARL_LOG_FLUSH (R412): A log buffer fills a page or 1 s passes after its first record, and a transaction is committed. -/
  | marlLogFlush
  /-- REFCLK_RETURN (R447): SDS_REFCLK returns after an outage; the links retrain and the timebase PLL locks to it again without a
  break in TB. -/
  | refclkReturn
  /-- PLCA_BEACONS_RESUME (R268): PLCA beacons are seen again on the tether, PLCA_ACTIVE returns to 1 and the port leaves CSMA/CD
  fallback. -/
  | plcaBeaconsResume
  /-- STARVE (R403): A Reed request has waited 100 µs for a grant, and Reed raises STARVE. -/
  | starve (m : Nat) (t : Nat)
  /-- ORDER_HOLD_LONG (R404): A Reed request held by the ordering rules for more than 50 µs raises ORDER_HOLD_LONG. -/
  | orderHoldLong (m : Nat) (t : Nat)
  /-- HANDSHAKE_UNANSWERED (R380): A block's handshake goes unanswered for 10 ms and the block raises its XFER source. -/
  | handshakeUnanswered (b : Nat)
  /-- TRACE_EXPORT_END (R410): The last frame of a trace or slack export is handed to Sched; capture resumes, EXPORTING clears and the
  TRACE_READ item completes. -/
  | traceExportEnd
  /-- VREF_RANGE (R451): VREF_A or VREF_B moves outside 2.40–2.60 V and the converter raises VREF_RANGE while its words keep flowing. -/
  | vrefRange (k : Nat)
  deriving DecidableEq, Repr

end Sys2Proof
end

