-- ==== Sys2Proof/WellFormed.lean ====
section
/-! DEFINITION. Which commands are well formed: every index names an object of the block, every value fits its width.  The commands
carry no encoding of their own (the table gives no bits), so these are the bounds the chapters give their operands. -/

namespace Sys2Proof

/-- The address of an item: a host port, a MAC address, a VLAN tag. -/
def Addr.wf (a : Addr) : Bool := decide (a.port < 2) && decide (a.mac < 2 ^ 48) && a.tag.all (fun t => decide (t < 65536))

/-- Where an item comes from (R277, R278): session slot 0 - 16, a 32-bit sequence, a 16-bit tag. -/
def ItemSrc.wf (s : ItemSrc) : Bool := decide (s.slot < 17) && decide (s.seq < 2 ^ 32) && decide (s.tag < 65536) && s.addr.wf

/-- A training outcome (R172): one of four phases or none, six lanes. -/
def TrainResult.wf (r : TrainResult) : Bool :=
  decide (r.heads.length = 6) && (r.ident.isEmpty || decide (r.ident.length = 8)) && r.ident.all (fun w => decide (w < 2 ^ 32))

/-- A hop of a route (R121): a tile, two ports, a line for each of the 15 stages. -/
def Hop.wf (h : Hop) : Bool := decide (h.tile < 16) && decide (h.inp < 256) && decide (h.out < 256) && decide (h.cross < 2 ^ 15)

/-- A plan: every hop of it is one. -/
def PlanProp.wf (p : PlanProp) : Bool := p.route.all Hop.wf && p.moves.all (fun (m : MoveProp) => m.route.all Hop.wf)

/-- What the sense lanes brought (R169): at most four lanes of 64-bit blocks. -/
def lanesWf (ls : List (List Nat)) : Bool := decide (ls.length ≤ 4) && ls.all (fun bs => bs.all (fun b => decide (b < 2 ^ 64)))

/-- Whether a command is well formed. -/
def Instr.wf : Instr → Bool
  | .powerOnReset _ => true
  | .resetN _ => true
  | .railUndervoltage rail level => decide (rail < 12) && decide (level < 3)
  | .vidNotReached => true
  | .vidStep _ => true
  | .secureBoot _ => true
  | .selfTest failed _ _ => decide (failed < 2 ^ 32)
  | .go v => decide (v < 2 ^ 32)
  | .tileDiscovery => true
  | .discoverTimeout => true
  | .tileWake t => decide (t < 16)
  | .thermalSettled t => decide (t < 16)
  | .calDeferred t => decide (t < 16)
  | .calPass t q cells ports wit => decide (t < 16) && decide (q < 17) && cells.all (fun (m : CellMeas) => decide (m.cell < 61440) && decide (m.phases.length = 17)) && ports.all (fun (m : PortMeas) => decide (m.port < 256)) && decide (wit < 2 ^ 16)
  | .calibrationEnd t => decide (t < 16)
  | .abort v => decide (v < 2 ^ 32)
  | .save v => decide (v < 2 ^ 32)
  | .loopsEnable t => decide (t < 16)
  | .bootOk => true
  | .pickBoundary _ => true
  | .boundaryMarker t => decide (t < 16)
  | .senseFrame t lanes => decide (t < 16) && lanesWf lanes
  | .tileOfflineTimeout t => decide (t < 16)
  | .loopStep l => decide (l < 65536)
  | .switchMaxExpiry c => decide (c < 61440)
  | .settleEnd c => decide (c < 61440)
  | .cellFaultQuiet c => decide (c < 61440)
  | .lossTrip l => decide (l < 65536)
  | .chunkCutoff t c slack => decide (t < 16) && decide (c < 16) && decide (slack < 2 ^ 32)
  | .linkTrain t result => decide (t < 16) && result.wf
  | .laneFail t lane => decide (t < 16) && decide (lane.lane < 6) && decide (lane.bad.length ≤ 4)
  | .laneRetrain t passed => decide (t < 16) && decide (passed < 2 ^ 6)
  | .linkDown t => decide (t < 16)
  | .linkRetrainTimer t => decide (t < 16)
  | .retrain t v => decide (t < 16) && decide (v < 2 ^ 32)
  | .burst t v => decide (t < 16) && decide (v < 2 ^ 32)
  | .trackerUpdate n _ _ _ _ => decide (n < 4)
  | .trackerSourceLoss n => decide (n < 4)
  | .trackerLost n => decide (n < 4)
  | .trkCfgWrite n v => decide (n < 4) && decide (v < 2 ^ 32)
  | .trkBaseHiWrite n v => decide (n < 4) && decide (v < 2 ^ 32)
  | .treadleMirrorSend => true
  | .treadleSaveDone result => decide (result < 4)
  | .trdSave v => decide (v < 2 ^ 32)
  | .pickCfgWrite v => decide (v < 2 ^ 32)
  | .pickNumRead => true
  | .check v => decide (v < 2 ^ 32)
  | .commitPoint prop => prop.wf
  | .shuttlePlan no prop => decide (no < 2 ^ 32) && prop.wf
  | .timedCommitDue prop => prop.wf
  | .protectInEdge n _ delay => decide (n < 8) && decide (delay < 2 ^ 32)
  | .protectDebounce n => decide (n < 8)
  | .restoration e pick => decide (e < 1024) && decide (pick < 2 ^ 32)
  | .pieceLockTimeout e => decide (e < 1024)
  | .rampStep c => decide (c < 61440)
  | .reservationTimeout handle => decide (handle < 2 ^ 32)
  | .raWarmTimeout no => decide (no < 2 ^ 32)
  | .tilthHoldoffExpiry t => decide (t < 16)
  | .sieveWord k vs _ => decide (k < 2) && decide (vs.length ≤ 1024)
  | .sieveBgInterval k _ rms => decide (k < 2) && decide (rms < 2 ^ 16)
  | .cal k v => decide (k < 2) && decide (v < 2 ^ 32)
  | .sieveCalDone k _ _ => decide (k < 2)
  | .run k v => decide (k < 2) && decide (v < 2 ^ 32)
  | .svScanWrite k reg v => decide (k < 2) && decide (reg < 33) && decide (v < 2 ^ 32)
  | .injectGo k v => decide (k < 2) && decide (v < 2 ^ 32)
  | .injectionStart k => decide (k < 2)
  | .witnessRound => true
  | .xchkPeriodic => true
  | .dacCodeWrite c v => decide (c < 48) && decide (v < 2 ^ 32)
  | .dacStrobe v => decide (v < 2 ^ 32)
  | .dacLoadPin g _ => decide (g < 4)
  | .range c v => decide (c < 48) && decide (v < 2 ^ 32)
  | .rangingEnd c => decide (c < 48)
  | .dacClrN _ => true
  | .dacBufferOt c _ => decide (c < 48)
  | .otRedrive c => decide (c < 48)
  | .sharedDriveStart => true
  | .sineEnable g v => decide (g < 16) && decide (v < 2 ^ 32)
  | .sineDisable g v => decide (g < 16) && decide (v < 2 ^ 32)
  | .sineStop g => decide (g < 16)
  | .sineParamWrite g reg v => decide (g < 16) && decide (reg < 3) && decide (v < 2 ^ 32)
  | .sineTableWrite g i v => decide (g < 16) && decide (i < 512) && decide (v < 2 ^ 32)
  | .tecEn t v => decide (t < 16) && decide (v < 2 ^ 32)
  | .tecSafe t => decide (t < 16)
  | .thermScan _ errs => decide (errs < 2 ^ 24)
  | .throttleStep => true
  | .shutdownMarlEnd => true
  | .thermRestart => true
  | .thermtrip _ => true
  | .thermRetireWrite v => decide (v < 2 ^ 32)
  | .referenceBurst e ps => decide (e < 64) && decide (ps < 2 ^ 32)
  | .siltHourly => true
  | .siltReplan => true
  | .replan v => decide (v < 2 ^ 32)
  | .siltSave v => decide (v < 2 ^ 32)
  | .siltVoltageRemeasure _ => true
  | .frameReceive p _ _ => decide (p < 2)
  | .pauseExpiry p => decide (p < 2)
  | .pauseRefresh p => decide (p < 2)
  | .macLinkChange p _ _ _ _ => decide (p < 3)
  | .ruleCtlWrite n v => decide (n < 32) && decide (v < 2 ^ 32)
  | .egressEnqueue p q dst vid _ => decide (p < 2) && decide (q < 8) && decide (dst < 2 ^ 48) && vid.all (fun n => decide (n < 4096))
  | .txOpportunity p => decide (p < 2)
  | .shaperRefill => true
  | .policerRefill => true
  | .gateEntryChange p => decide (p < 2)
  | .gateListStart p => decide (p < 2)
  | .peerFrameReceive _ _ => true
  | .tetherReceive _ => true
  | .tetherTransmit => true
  | .tetherCollision _ => true
  | .tetherBackoffExpiry => true
  | .plcaBeaconLoss => true
  | .tetherHeartbeatTimer => true
  | .chedaPacket => true
  | .replySend slot seq => decide (slot < 17) && decide (seq < 2 ^ 32)
  | .completionSend slot seq => decide (slot < 17) && decide (seq < 2 ^ 32)
  | .sessionOpen src par => src.wf && decide (par.length < 65536)
  | .sessionProve src par => src.wf && decide (par.length < 65536)
  | .sessionProveTimeout slot => decide (slot < 17)
  | .keyLockoutExpiry key => decide (key < 2 ^ 16)
  | .sessionClose src par => src.wf && decide (par.length < 65536)
  | .sessionIdleTimeout slot => decide (slot < 17)
  | .nop src par => src.wf && decide (par.length < 65536)
  | .accountQuery src par => src.wf && decide (par.length < 65536)
  | .eventSubscribe src par => src.wf && decide (par.length < 65536)
  | .eventAck src par => src.wf && decide (par.length < 65536)
  | .keyWrite src par => src.wf && decide (par.length < 65536)
  | .beginSet src par => src.wf && decide (par.length < 65536)
  | .commitSet src par => src.wf && decide (par.length < 65536)
  | .abortSet src par => src.wf && decide (par.length < 65536)
  | .txnIdleTimeout => true
  | .regRead src par => src.wf && decide (par.length < 65536)
  | .regWrite src par => src.wf && decide (par.length < 65536)
  | .regModify src par => src.wf && decide (par.length < 65536)
  | .registerWrite a v => decide (a < 2 ^ 32) && decide (v < 2 ^ 32)
  | .circuitEstablish src par => src.wf && decide (par.length < 65536)
  | .circuitRelease src par => src.wf && decide (par.length < 65536)
  | .circuitMigrate src par => src.wf && decide (par.length < 65536)
  | .altArm src par => src.wf && decide (par.length < 65536)
  | .altDisarm src par => src.wf && decide (par.length < 65536)
  | .protectSwitch src par => src.wf && decide (par.length < 65536)
  | .groupCommit src par => src.wf && decide (par.length < 65536)
  | .circuitRead src par => src.wf && decide (par.length < 65536)
  | .circuitReserve src par => src.wf && decide (par.length < 65536)
  | .reserveCancel src par => src.wf && decide (par.length < 65536)
  | .planStatus src par => src.wf && decide (par.length < 65536)
  | .pathRead src par => src.wf && decide (par.length < 65536)
  | .cellRead src par => src.wf && decide (par.length < 65536)
  | .cellFreeze src par => src.wf && decide (par.length < 65536)
  | .cellUnfreeze src par => src.wf && decide (par.length < 65536)
  | .cellCal src par => src.wf && decide (par.length < 65536)
  | .tileActivate src par => src.wf && decide (par.length < 65536)
  | .tileFence src par => src.wf && decide (par.length < 65536)
  | .tileCalibrate src par => src.wf && decide (par.length < 65536)
  | .tileOffline src par => src.wf && decide (par.length < 65536)
  | .loopRead src par => src.wf && decide (par.length < 65536)
  | .loopWrite src par => src.wf && decide (par.length < 65536)
  | .loopMove src par => src.wf && decide (par.length < 65536)
  | .coefRead src par => src.wf && decide (par.length < 65536)
  | .coefWrite src par => src.wf && decide (par.length < 65536)
  | .treadleRead src par => src.wf && decide (par.length < 65536)
  | .treadleWrite src par => src.wf && decide (par.length < 65536)
  | .treadleClear src par => src.wf && decide (par.length < 65536)
  | .treadleSave src par => src.wf && decide (par.length < 65536)
  | .draftRead src par => src.wf && decide (par.length < 65536)
  | .draftWrite src par => src.wf && decide (par.length < 65536)
  | .draftLoadPredefined src par => src.wf && decide (par.length < 65536)
  | .draftActivate src par => src.wf && decide (par.length < 65536)
  | .counterRead src par => src.wf && decide (par.length < 65536)
  | .histoRead src par => src.wf && decide (par.length < 65536)
  | .statsClear src par => src.wf && decide (par.length < 65536)
  | .logRead src par => src.wf && decide (par.length < 65536)
  | .traceRead src par => src.wf && decide (par.length < 65536)
  | .gateListWrite src par => src.wf && decide (par.length < 65536)
  | .gateListRead src par => src.wf && decide (par.length < 65536)
  | .timeStep src par => src.wf && decide (par.length < 65536)
  | .pairStatus src par => src.wf && decide (par.length < 65536)
  | .pairHandover src par => src.wf && decide (par.length < 65536)
  | .configSave src par => src.wf && decide (par.length < 65536)
  | .firmwareWrite src par => src.wf && decide (par.length < 65536)
  | .firmwareActivate src par => src.wf && decide (par.length < 65536)
  | .systemReset src par => src.wf && decide (par.length < 65536)
  | .debugUnlock src par => src.wf && decide (par.length < 65536)
  | .eventPacketSend => true
  | .summarySend slot => decide (slot < 17)
  | .refLoss => true
  | .refReturn => true
  | .refclkLoss => true
  | .ptpMessage => true
  | .ppsEdge delay => decide (delay < 2 ^ 32)
  | .servoHoldover => true
  | .ptpMasterSend kind => decide (kind < 16)
  | .relock v => decide (v < 2 ^ 32)
  | .servoSrcWrite v => decide (v < 2 ^ 32)
  | .tbNsRead => true
  | .pulseArm n _ v => decide (n < 4) && decide (v < 2 ^ 32)
  | .pulseEdge n => decide (n < 4)
  | .heartbeatPTimer => true
  | .heartbeat path _ => decide (path < 2)
  | .claim path _ => decide (path < 2)
  | .mirror head recs pad => decide ((head ++ recs ++ pad).length ≤ 9216)
  | .ack _ => true
  | .syncReq _ => true
  | .snapshotSend => true
  | .pLost => true
  | .tLost => true
  | .mirrorBatch => true
  | .mirrorResend => true
  | .mirrorGapTimeout => true
  | .roleResolution => true
  | .resolutionReread => true
  | .failover => true
  | .takebackRequest => true
  | .linkHandover => true
  | .handoverAgree => true
  | .handoverDecline => true
  | .eventGrant b => decide (b < 45)
  | .eventRecovery b src => decide (b < 45) && decide (src < 16)
  | .coalesceHoldExpiry b src _ => decide (b < 45) && decide (src < 16)
  | .goInject b v => decide (b < 45) && decide (v < 2 ^ 32)
  | .unack b _ v => decide (b < 45) && decide (v < 2 ^ 32)
  | .valid b v => decide (b < 45) && decide (v < 2 ^ 32)
  | .countClr b v => decide (b < 45) && decide (v < 2 ^ 32)
  | .perfSelWrite n v => decide (n < 64) && decide (v < 2 ^ 32)
  | .perfCntRead n => decide (n < 64)
  | .ovf n v => decide (n < 64) && decide (v < 2 ^ 32)
  | .histoCfgWrite u v => decide (u < 35) && decide (v < 2 ^ 32)
  | .bobbinSnapshot => true
  | .reedRequest m addr _ words count _ _ _ => decide (m < 12) && decide (addr < 2 ^ 40) && words.all (fun n => decide (n < 2 ^ 32)) && decide (count < 2 ^ 16)
  | .reedLockTimeout t => decide (t < 10)
  | .masterReset m addr words _ => decide (m < 12) && decide (addr < 2 ^ 40) && words.all (fun n => decide (n < 2 ^ 32))
  | .reedWinWrite n _ v => decide (n < 16) && decide (v < 2 ^ 32)
  | .dramError m addr _ => decide (m < 12) && decide (addr < 2 ^ 40)
  | .marlOperationStart => true
  | .marlRoundDone _ => true
  | .marlLogFlush => true
  | .refclkReturn => true
  | .plcaBeaconsResume => true
  | .starve m t => decide (m < 12) && decide (t < 10)
  | .orderHoldLong m t => decide (m < 12) && decide (t < 10)
  | .handshakeUnanswered b => decide (b < 45)
  | .traceExportEnd => true
  | .vrefRange k => decide (k < 2)

end Sys2Proof
end

