-- ==== Sys2Proof/Decode.lean ====
section
/-! DEFINITION. Words that spell a command by the bits of spec/opcode_table.json: no row of the table gives any (every row's `fields` is
empty), so no word spells a command. -/

namespace Sys2Proof

/-- The command that a word spells by the table's bits. -/
def decodeTableWord (_nbits _w : Nat) : Option Instr := none

end Sys2Proof
end

