-- ==== Sys2Proof/Config.lean ====
section
/-! DEFINITION. The free values: what the spec leaves open.  Each is an opaque constant applied to a counter of the state
or to the operands it depends on; nothing can be proved of its value (assumption 1). -/

namespace Sys2Proof.Config

/-- A fresh value each time: the n-th value drawn.  Drawn for nonces, back-off slots, arbitrary choices and every result
the spec does not state. -/
opaque freeNat : Nat → Nat

/-- Whether a staged firmware image of a length verifies (R420 step 2): signature and digest are outside the model. -/
opaque imageGood : List (Nat × Nat) → Nat → Bool

/-- VERSION in the header of a staged image, whose layout the spec does not give. -/
opaque imageVersion : List (Nat × Nat) → Nat

/-- SECURITY_VER in the header of a staged image. -/
opaque imageSecVer : List (Nat × Nat) → Nat

/-- Whether a signature verifies under Quaram's debug key over a challenge and serial (R422). -/
opaque debugSigGood : List Byte → List Byte → Bool

/-- What a tracker's second-order loop answers for its bandwidth BW, its fundamental, its frequency (µHz) and a phase error in 1/16 bin
(R82 gives the loop no gains): the correction of the phase, in 2^-32 turns, and the frequency before it is confined to ±5 %. -/
opaque trackerLoop : Nat → Nat → Nat → Int → Int × Int

end Sys2Proof.Config
end

