-- ==== Sys2Proof/Machine/RegMap.lean ====
section
/-! DEFINITION. The register map of the block: one address per register of the spec's register tables (`R.…`), one
descriptor per field (`F.…`: address, highest and lowest bit, reset value) and the table of rows that the register
items use (`regTable`).  Every entry is a row of a register table of spec/ (the rule is named beside it). -/

namespace Sys2Proof.Machine

/-- A field of a register or of a record in on-die SRAM: the byte address of its word, its bits [hi:lo], its reset value. -/
structure Fld where
  addr : Nat
  hi : Nat
  lo : Nat
  rst : Nat
  deriving DecidableEq, Repr

/-- The access codes of R7. -/
inductive Acc where
  | rw | ro | w1c | wo | sc
  deriving DecidableEq, Repr

/-- One field of a register row: low bit, width, access (R7), reset value, and for a field whose Reset column says
"Marl" (R8) the value it takes at secure boot when it was never stored. -/
structure FRow where
  lo : Nat
  width : Nat
  acc : Acc
  rst : Nat
  marl : Option Nat
  deriving DecidableEq, Repr

/-- One register row: its first address, its array dimensions (stride, count; widest stride first), its fields. -/
structure RRow where
  base : Nat
  dims : List (Nat × Nat)
  fields : List FRow
  deriving DecidableEq, Repr

/-- R319/R320: queues 0 and 1 are strict at reset. -/
def eqStrictReset (q : Nat) : Nat := if q < 2 then 1 else 0
/-- R320: LIMIT_KIB at reset by queue. -/
def eqLimitReset (q : Nat) : Nat := [4, 16, 32, 16, 24, 12, 12, 12].getD q 0
/-- R320: QUANTUM at reset by queue. -/
def eqQuantumReset (q : Nat) : Nat := [2304, 2304, 9216, 4608, 9216, 2304, 2304, 2304].getD q 0
/-- R320: PCP at reset by queue. -/
def eqPcpReset (q : Nat) : Nat := [7, 6, 5, 4, 2, 1, 1, 0].getD q 0
/-- R260: the rule table at reset, QUEUE by rule. -/
def ruleQueueReset (n : Nat) : Nat := [0, 0, 0, 2, 2, 1, 1, 1].getD n 0
/-- R260: rules that match EtherType. -/
def ruleMEtypeReset (n : Nat) : Nat := [1, 0, 0, 0, 1, 1, 0, 0].getD n 0
/-- R260: rules that match a UDP port. -/
def ruleMUdpReset (n : Nat) : Nat := [0, 1, 1, 1, 0, 0, 0, 0].getD n 0
/-- R260: rules that match IP version and protocol. -/
def ruleMIpReset (n : Nat) : Nat := [0, 0, 0, 0, 0, 0, 1, 1].getD n 0
/-- R260: EtherType values of the rules. -/
def ruleEtypeReset (n : Nat) : Nat := [0x88F7, 0, 0, 0, 0x88B5, 0x0806, 0, 0].getD n 0
/-- R260: IPV of the rules. -/
def ruleIpvReset (n : Nat) : Nat := [0, 0, 0, 0, 0, 0, 0, 1].getD n 0
/-- R260: PROTO of the rules. -/
def ruleProtoReset (n : Nat) : Nat := [0, 0, 0, 0, 0, 0, 1, 58].getD n 0
/-- R260: UDP destination ports of the rules. -/
def ruleUdpReset (n : Nat) : Nat := [0, 319, 320, 47102, 0, 0, 0, 0].getD n 0

namespace R
/-- DRAFT_ACTIVE_ID (R50). -/
abbrev DRAFT_ACTIVE_ID : Nat := 0xc0800
/-- DRAFT_ACTIVE_VER (R50). -/
abbrev DRAFT_ACTIVE_VER : Nat := 0xc0804
/-- DRAFT_STAGED_ID (R50). -/
abbrev DRAFT_STAGED_ID : Nat := 0xc0808
/-- DRAFT_STAGED_VER (R50). -/
abbrev DRAFT_STAGED_VER : Nat := 0xc080c
/-- DRAFT_CHECK (R50). -/
abbrev DRAFT_CHECK : Nat := 0xc0810
/-- DRAFT_CTRL (R50). -/
abbrev DRAFT_CTRL : Nat := 0xc0814
/-- PICK_CFG (R53). -/
abbrev PICK_CFG : Nat := 0x280400
/-- PICK_STAT (R53). -/
abbrev PICK_STAT : Nat := 0x280404
/-- PICK_NUM_LO (R53). -/
abbrev PICK_NUM_LO : Nat := 0x280408
/-- PICK_NUM_HI (R53). -/
abbrev PICK_NUM_HI : Nat := 0x28040c
/-- ENG_STAT (R78). -/
abbrev ENG_STAT (k : Nat) (e : Nat) : Nat := 0x50400 + 0x10000 * k + 0x10 * e
/-- ENG_SLACK (R78). -/
abbrev ENG_SLACK (k : Nat) (e : Nat) : Nat := 0x50404 + 0x10000 * k + 0x10 * e
/-- ENG_OVERRUN (R78). -/
abbrev ENG_OVERRUN (k : Nat) (e : Nat) : Nat := 0x50408 + 0x10000 * k + 0x10 * e
/-- ENG_RATE (R78). -/
abbrev ENG_RATE (k : Nat) (e : Nat) : Nat := 0x5040c + 0x10000 * k + 0x10 * e
/-- CLASS_SHED (R78). -/
abbrev CLASS_SHED : Nat := 0x50800
/-- CLASS_CAP (R78). -/
abbrev CLASS_CAP : Nat := 0x50804
/-- CLASS_TCAP (R78). -/
abbrev CLASS_TCAP : Nat := 0x50808
/-- TILE_CAP (R78). -/
abbrev TILE_CAP : Nat := 0x5080c
/-- TRK_CFG (R96). -/
abbrev TRK_CFG (n : Nat) : Nat := 0x90400 + 0x20 * n
/-- TRK_LIM (R96). -/
abbrev TRK_LIM (n : Nat) : Nat := 0x90404 + 0x20 * n
/-- TRK_BASE_LO (R96). -/
abbrev TRK_BASE_LO (n : Nat) : Nat := 0x90408 + 0x20 * n
/-- TRK_BASE_HI (R96). -/
abbrev TRK_BASE_HI (n : Nat) : Nat := 0x9040c + 0x20 * n
/-- TRK_STAT (R96). -/
abbrev TRK_STAT (n : Nat) : Nat := 0x90410 + 0x20 * n
/-- TRK_FREQ (R96). -/
abbrev TRK_FREQ (n : Nat) : Nat := 0x90414 + 0x20 * n
/-- TRK_AMP (R96). -/
abbrev TRK_AMP (n : Nat) : Nat := 0x90418 + 0x20 * n
/-- TRK_PHASE (R96). -/
abbrev TRK_PHASE (n : Nat) : Nat := 0x9041c + 0x20 * n
/-- TRD_CTRL (R96). -/
abbrev TRD_CTRL : Nat := 0x90500
/-- TRD_STAT (R96). -/
abbrev TRD_STAT : Nat := 0x90504
/-- TRD_MIRROR (R96). -/
abbrev TRD_MIRROR : Nat := 0x90508
/-- TRD_SWEEP (R96). -/
abbrev TRD_SWEEP : Nat := 0x9050c
/-- TRD_DIRTY (R96). -/
abbrev TRD_DIRTY : Nat := 0x90510
/-- CELL_CFG (R116). -/
abbrev CELL_CFG : Nat := 0xc0900
/-- MODE_STAT (R116). -/
abbrev MODE_STAT : Nat := 0xc0904
/-- TILE_MODE_t (R116). -/
abbrev TILE_MODE (t : Nat) : Nat := 0xc0a00 + 0x4 * t
/-- CIRC_CFG (R151). -/
abbrev CIRC_CFG : Nat := 0xc0400
/-- CIRC_STAT (R151). -/
abbrev CIRC_STAT : Nat := 0xc0404
/-- PIECE_CFG (R151). -/
abbrev PIECE_CFG : Nat := 0xc0408
/-- PIECE_STAT (R151). -/
abbrev PIECE_STAT : Nat := 0xc040c
/-- PROT_CFG (R151). -/
abbrev PROT_CFG : Nat := 0xc0410
/-- PROT_STAT (R151). -/
abbrev PROT_STAT : Nat := 0xc0414
/-- FC_BUDGET (R151). -/
abbrev FC_BUDGET : Nat := 0xc0418
/-- SPREAD_STAT (R151). -/
abbrev SPREAD_STAT : Nat := 0xc041c
/-- TIMED_STAT (R151). -/
abbrev TIMED_STAT : Nat := 0xc0420
/-- SHTL_CFG (R151). -/
abbrev SHTL_CFG : Nat := 0xa0400
/-- SHTL_STAT (R151). -/
abbrev SHTL_STAT : Nat := 0xa0404
/-- TILTH_CFG (R166). -/
abbrev TILTH_CFG : Nat := 0xb0400
/-- TILTH_PWR (R166). -/
abbrev TILTH_PWR : Nat := 0xb0404
/-- TILTH_LIM (R166). -/
abbrev TILTH_LIM : Nat := 0xb0408
/-- TILTH_TMO (R166). -/
abbrev TILTH_TMO : Nat := 0xb040c
/-- TILTH_STAT (R166). -/
abbrev TILTH_STAT : Nat := 0xb0410
/-- TILTH_PLANS (R166). -/
abbrev TILTH_PLANS : Nat := 0xb0414
/-- TILTH_CNT (R166). -/
abbrev TILTH_CNT : Nat := 0xb0418
/-- TILTH_HITS (R166). -/
abbrev TILTH_HITS : Nat := 0xb041c
/-- TILTH_UNDO_A (R166). -/
abbrev TILTH_UNDO_A : Nat := 0xb0420
/-- TILTH_UNDO_B (R166). -/
abbrev TILTH_UNDO_B : Nat := 0xb0424
/-- TILTH_UNDO_C (R166). -/
abbrev TILTH_UNDO_C : Nat := 0xb0428
/-- TILTH_UNDO_D (R166). -/
abbrev TILTH_UNDO_D : Nat := 0xb042c
/-- TILTH_TILE_t (R166). -/
abbrev TILTH_TILE (t : Nat) : Nat := 0xb0440 + 0x4 * t
/-- WEFT_CTRL (R189). -/
abbrev WEFT_CTRL (k : Nat) : Nat := 0xd0400 + 0x10000 * k
/-- WEFT_STAT (R189). -/
abbrev WEFT_STAT (k : Nat) : Nat := 0xd0404 + 0x10000 * k
/-- WEFT_FLIGHT (R189). -/
abbrev WEFT_FLIGHT (k : Nat) : Nat := 0xd0408 + 0x10000 * k
/-- WEFT_IDENT (R189). -/
abbrev WEFT_IDENT (k : Nat) : Nat := 0xd040c + 0x10000 * k
/-- WEFT_CLAIM (R189). -/
abbrev WEFT_CLAIM (k : Nat) : Nat := 0xd0410 + 0x10000 * k
/-- WEFT_ERR_A (R189). -/
abbrev WEFT_ERR_A (k : Nat) : Nat := 0xd0414 + 0x10000 * k
/-- WEFT_ERR_B (R189). -/
abbrev WEFT_ERR_B (k : Nat) : Nat := 0xd0418 + 0x10000 * k
/-- WEFT_LANE (R189). -/
abbrev WEFT_LANE (k : Nat) : Nat := 0xd041c + 0x10000 * k
/-- WEFT_SLACK (R189). -/
abbrev WEFT_SLACK (k : Nat) : Nat := 0xd0420 + 0x10000 * k
/-- WEFT_WIT (R189). -/
abbrev WEFT_WIT (k : Nat) : Nat := 0xd0424 + 0x10000 * k
/-- SV_CTRL (R208). -/
abbrev SV_CTRL (k : Nat) : Nat := 0x1d0400 + 0x10000 * k
/-- SV_STAT (R208). -/
abbrev SV_STAT (k : Nat) : Nat := 0x1d0404 + 0x10000 * k
/-- SV_INJ (R208). -/
abbrev SV_INJ (k : Nat) : Nat := 0x1d0408 + 0x10000 * k
/-- SV_INJ_RES (R208). -/
abbrev SV_INJ_RES (k : Nat) : Nat := 0x1d040c + 0x10000 * k
/-- SV_CAL (R208). -/
abbrev SV_CAL (k : Nat) : Nat := 0x1d0410 + 0x10000 * k
/-- SV_BG (R208). -/
abbrev SV_BG (k : Nat) : Nat := 0x1d0414 + 0x10000 * k
/-- SV_RING (R208). -/
abbrev SV_RING (k : Nat) : Nat := 0x1d0418 + 0x10000 * k
/-- SV_SCAN_n (R208). -/
abbrev SV_SCAN (k : Nat) (n : Nat) : Nat := 0x1d0420 + 0x10000 * k + 0x4 * n
/-- SV_DWELL_n (R208). -/
abbrev SV_DWELL (k : Nat) (n : Nat) : Nat := 0x1d0460 + 0x10000 * k + 0x4 * n
/-- SV_SCAN_LEN (R208). -/
abbrev SV_SCAN_LEN (k : Nat) : Nat := 0x1d04a0 + 0x10000 * k
/-- SV_LAST_i (R208). -/
abbrev SV_LAST (k : Nat) (i : Nat) : Nat := 0x1d0500 + 0x10000 * k + 0x4 * i
/-- WIT_CFG (R208). -/
abbrev WIT_CFG : Nat := 0x1d0600
/-- WIT_BANDS (R208). -/
abbrev WIT_BANDS : Nat := 0x1d0604
/-- XCHK_CFG (R208). -/
abbrev XCHK_CFG : Nat := 0x1d0608
/-- WIT_CTRL (R208). -/
abbrev WIT_CTRL : Nat := 0x1d060c
/-- WIT_CAL_t (R208). -/
abbrev WIT_CAL (t : Nat) : Nat := 0x1d0640 + 0x4 * t
/-- WIT_STAT_t (R208). -/
abbrev WIT_STAT (t : Nat) : Nat := 0x1d0680 + 0x4 * t
/-- DAC_CH_CFG_c (R223). -/
abbrev DAC_CH_CFG (c : Nat) : Nat := 0x1f0400 + 0x10 * c
/-- DAC_CODE_c (R223). -/
abbrev DAC_CODE (c : Nat) : Nat := 0x1f0404 + 0x10 * c
/-- DAC_CLR_CODE_c (R223). -/
abbrev DAC_CLR_CODE (c : Nat) : Nat := 0x1f0408 + 0x10 * c
/-- DAC_CH_STAT_c (R223). -/
abbrev DAC_CH_STAT (c : Nat) : Nat := 0x1f040c + 0x10 * c
/-- DAC_LOAD_CFG (R223). -/
abbrev DAC_LOAD_CFG : Nat := 0x1f0800
/-- DAC_STROBE (R223). -/
abbrev DAC_STROBE : Nat := 0x1f0804
/-- DAC_STAT (R223). -/
abbrev DAC_STAT : Nat := 0x1f0808
/-- DAC_OT_LO (R223). -/
abbrev DAC_OT_LO : Nat := 0x1f080c
/-- DAC_OT_HI (R223). -/
abbrev DAC_OT_HI : Nat := 0x1f0810
/-- TEC_CFG_t (R223). -/
abbrev TEC_CFG (t : Nat) : Nat := 0x1f0900 + 0x20 * t
/-- TEC_SET_t (R223). -/
abbrev TEC_SET (t : Nat) : Nat := 0x1f0904 + 0x20 * t
/-- TEC_LIM_t (R223). -/
abbrev TEC_LIM (t : Nat) : Nat := 0x1f0908 + 0x20 * t
/-- TEC_GAIN_t (R223). -/
abbrev TEC_GAIN (t : Nat) : Nat := 0x1f090c + 0x20 * t
/-- TEC_INTEG_t (R223). -/
abbrev TEC_INTEG (t : Nat) : Nat := 0x1f0910 + 0x20 * t
/-- TEC_STAT_t (R223). -/
abbrev TEC_STAT (t : Nat) : Nat := 0x1f0914 + 0x20 * t
/-- SINE_CFG_s (R223). -/
abbrev SINE_CFG (s : Nat) : Nat := 0x1f0c00 + 0x10 * s
/-- SINE_FTW_s (R223). -/
abbrev SINE_FTW (s : Nat) : Nat := 0x1f0c04 + 0x10 * s
/-- SINE_AMP_s (R223). -/
abbrev SINE_AMP (s : Nat) : Nat := 0x1f0c08 + 0x10 * s
/-- SINE_PHASE0_s (R223). -/
abbrev SINE_PHASE0 (s : Nat) : Nat := 0x1f0c0c + 0x10 * s
/-- THERM_STAT (R246). -/
abbrev THERM_STAT : Nat := 0x200400
/-- THERM_CFG (R246). -/
abbrev THERM_CFG : Nat := 0x200404
/-- THERM_RETIRE (R246). -/
abbrev THERM_RETIRE : Nat := 0x200408
/-- THERM_FAIL (R246). -/
abbrev THERM_FAIL : Nat := 0x20040c
/-- THERM_CNT (R246). -/
abbrev THERM_CNT : Nat := 0x200410
/-- BAND_CFG (R246). -/
abbrev BAND_CFG : Nat := 0x200414
/-- THERM_SENS_n (R246). -/
abbrev THERM_SENS (n : Nat) : Nat := 0x200480 + 0x4 * n
/-- TILE_TEMP_t (R246). -/
abbrev TILE_TEMP (t : Nat) : Nat := 0x200500 + 0x4 * t
/-- TT_CAL_t (R246). -/
abbrev TT_CAL (t : Nat) : Nat := 0x200540 + 0x4 * t
/-- SILT_CFG (R246). -/
abbrev SILT_CFG : Nat := 0x210400
/-- SILT_EOL (R246). -/
abbrev SILT_EOL : Nat := 0x210404
/-- SILT_HOURS (R246). -/
abbrev SILT_HOURS : Nat := 0x210408
/-- SILT_STAT (R246). -/
abbrev SILT_STAT : Nat := 0x21040c
/-- SILT_VID (R246). -/
abbrev SILT_VID : Nat := 0x210410
/-- SILT_ASK (R246). -/
abbrev SILT_ASK : Nat := 0x210414
/-- SILT_CTRL (R246). -/
abbrev SILT_CTRL : Nat := 0x210418
/-- SILT_CELL (R246). -/
abbrev SILT_CELL : Nat := 0x21041c
/-- SILT_DRIFT (R246). -/
abbrev SILT_DRIFT : Nat := 0x210420
/-- SILT_ENG_e (R246). -/
abbrev SILT_ENG (e : Nat) : Nat := 0x210800 + 0x4 * e
/-- MAC_CTRL (R270). -/
abbrev MAC_CTRL (k : Nat) : Nat := 0x220400 + 0x10000 * k
/-- MAC_STAT (R270). -/
abbrev MAC_STAT (k : Nat) : Nat := 0x220404 + 0x10000 * k
/-- MAC_ADDR_LO (R270). -/
abbrev MAC_ADDR_LO (k : Nat) : Nat := 0x220408 + 0x10000 * k
/-- MAC_ADDR_HI (R270). -/
abbrev MAC_ADDR_HI (k : Nat) : Nat := 0x22040c + 0x10000 * k
/-- PAUSE_CFG (R270). -/
abbrev PAUSE_CFG (k : Nat) : Nat := 0x220410 + 0x10000 * k
/-- PAUSE_STAT (R270). -/
abbrev PAUSE_STAT (k : Nat) : Nat := 0x220414 + 0x10000 * k
/-- RX_OK (R270). -/
abbrev RX_OK (k : Nat) : Nat := 0x220418 + 0x10000 * k
/-- TX_OK (R270). -/
abbrev TX_OK (k : Nat) : Nat := 0x22041c + 0x10000 * k
/-- RX_DROP_A (R270). -/
abbrev RX_DROP_A (k : Nat) : Nat := 0x220420 + 0x10000 * k
/-- RX_DROP_B (R270). -/
abbrev RX_DROP_B (k : Nat) : Nat := 0x220424 + 0x10000 * k
/-- RX_DROP_C (R270). -/
abbrev RX_DROP_C (k : Nat) : Nat := 0x220428 + 0x10000 * k
/-- RX_DROP_D (R270). -/
abbrev RX_DROP_D (k : Nat) : Nat := 0x22042c + 0x10000 * k
/-- RX_DROP_E (R270). -/
abbrev RX_DROP_E (k : Nat) : Nat := 0x220430 + 0x10000 * k
/-- RX_DROP_F (R270). -/
abbrev RX_DROP_F (k : Nat) : Nat := 0x220434 + 0x10000 * k
/-- TX_DROP (R270). -/
abbrev TX_DROP (k : Nat) : Nat := 0x220438 + 0x10000 * k
/-- RULE_CTL_n (R270). -/
abbrev RULE_CTL (n : Nat) : Nat := 0x220800 + 0x10 * n
/-- RULE_L2_n (R270). -/
abbrev RULE_L2 (n : Nat) : Nat := 0x220804 + 0x10 * n
/-- RULE_L3_n (R270). -/
abbrev RULE_L3 (n : Nat) : Nat := 0x220808 + 0x10 * n
/-- RULE_HITS_n (R270). -/
abbrev RULE_HITS (n : Nat) : Nat := 0x22080c + 0x10 * n
/-- RX_DEFAULT (R270). -/
abbrev RX_DEFAULT : Nat := 0x220a00
/-- RXQ_q (R270). -/
abbrev RXQ (q : Nat) : Nat := 0x220a20 + 0x4 * q
/-- TETH_CTRL (R272). -/
abbrev TETH_CTRL : Nat := 0x250400
/-- TETH_STAT (R272). -/
abbrev TETH_STAT : Nat := 0x250404
/-- TETH_ADDR_LO (R272). -/
abbrev TETH_ADDR_LO : Nat := 0x250408
/-- TETH_ADDR_HI (R272). -/
abbrev TETH_ADDR_HI : Nat := 0x25040c
/-- TETH_CNT_A (R272). -/
abbrev TETH_CNT_A : Nat := 0x250410
/-- TETH_CNT_B (R272). -/
abbrev TETH_CNT_B : Nat := 0x250414
/-- TETH_CNT_C (R272). -/
abbrev TETH_CNT_C : Nat := 0x250418
/-- TETH_CNT_D (R272). -/
abbrev TETH_CNT_D : Nat := 0x25041c
/-- CHEDA_CFG (R303). -/
abbrev CHEDA_CFG : Nat := 0x2a0400
/-- CHEDA_TMO (R303). -/
abbrev CHEDA_TMO : Nat := 0x2a0404
/-- CHEDA_IP4_p (R303). -/
abbrev CHEDA_IP4 (p : Nat) : Nat := 0x2a0408 + 0x4 * p
/-- CHEDA_IP6_p_n (R303). -/
abbrev CHEDA_IP6 (p : Nat) (w : Nat) : Nat := 0x2a0410 + 0x10 * p + 0x4 * w
/-- CHEDA_STAT (R303). -/
abbrev CHEDA_STAT : Nat := 0x2a0430
/-- CHEDA_CNT_A (R303). -/
abbrev CHEDA_CNT_A : Nat := 0x2a0434
/-- CHEDA_CNT_B (R303). -/
abbrev CHEDA_CNT_B : Nat := 0x2a0438
/-- CHEDA_CNT_C (R303). -/
abbrev CHEDA_CNT_C : Nat := 0x2a043c
/-- CHEDA_CNT_D (R303). -/
abbrev CHEDA_CNT_D : Nat := 0x2a0440
/-- CHEDA_CNT_E (R303). -/
abbrev CHEDA_CNT_E : Nat := 0x2a0444
/-- EQ_CFG_p_q (R319). -/
abbrev EQ_CFG (p : Nat) (q : Nat) : Nat := 0x260400 + 0x100 * p + 0x20 * q
/-- EQ_SHAPE_p_q (R319). -/
abbrev EQ_SHAPE (p : Nat) (q : Nat) : Nat := 0x260404 + 0x100 * p + 0x20 * q
/-- EQ_TAG_p_q (R319). -/
abbrev EQ_TAG (p : Nat) (q : Nat) : Nat := 0x260408 + 0x100 * p + 0x20 * q
/-- EQ_STAT_p_q (R319). -/
abbrev EQ_STAT (p : Nat) (q : Nat) : Nat := 0x26040c + 0x100 * p + 0x20 * q
/-- EQ_DROP_p_q (R319). -/
abbrev EQ_DROP (p : Nat) (q : Nat) : Nat := 0x260410 + 0x100 * p + 0x20 * q
/-- EQ_TX_p_q (R319). -/
abbrev EQ_TX (p : Nat) (q : Nat) : Nat := 0x260414 + 0x100 * p + 0x20 * q
/-- GCL_STAT_p (R319). -/
abbrev GCL_STAT (p : Nat) : Nat := 0x260600 + 0x20 * p
/-- GCL_START_LO_p (R319). -/
abbrev GCL_START_LO (p : Nat) : Nat := 0x260604 + 0x20 * p
/-- GCL_START_HI_p (R319). -/
abbrev GCL_START_HI (p : Nat) : Nat := 0x260608 + 0x20 * p
/-- GCL_CYCLES_p (R319). -/
abbrev GCL_CYCLES (p : Nat) : Nat := 0x26060c + 0x20 * p
/-- GCL_DROP_p (R319). -/
abbrev GCL_DROP (p : Nat) : Nat := 0x260610 + 0x20 * p
/-- POL_CFG_q (R321). -/
abbrev POL_CFG (q : Nat) : Nat := 0x270400 + 0x20 * q
/-- POL_RATE_q (R321). -/
abbrev POL_RATE (q : Nat) : Nat := 0x270404 + 0x20 * q
/-- POL_CBS_q (R321). -/
abbrev POL_CBS (q : Nat) : Nat := 0x270408 + 0x20 * q
/-- POL_EBS_q (R321). -/
abbrev POL_EBS (q : Nat) : Nat := 0x27040c + 0x20 * q
/-- POL_GREEN_q (R321). -/
abbrev POL_GREEN (q : Nat) : Nat := 0x270410 + 0x20 * q
/-- POL_YELLOW_q (R321). -/
abbrev POL_YELLOW (q : Nat) : Nat := 0x270414 + 0x20 * q
/-- POL_RED_q (R321). -/
abbrev POL_RED (q : Nat) : Nat := 0x270418 + 0x20 * q
/-- POL_DROP_q (R321). -/
abbrev POL_DROP (q : Nat) : Nat := 0x27041c + 0x20 * q
/-- TIME_CFG (R337). -/
abbrev TIME_CFG : Nat := 0x280500
/-- SERVO_CFG (R337). -/
abbrev SERVO_CFG : Nat := 0x280504
/-- SERVO_LIM (R337). -/
abbrev SERVO_LIM : Nat := 0x280508
/-- PTP_PRIO (R337). -/
abbrev PTP_PRIO : Nat := 0x28050c
/-- TIME_STAT (R337). -/
abbrev TIME_STAT : Nat := 0x280510
/-- OFFSET_NOW (R337). -/
abbrev OFFSET_NOW : Nat := 0x280514
/-- FREQ_ADJ (R337). -/
abbrev FREQ_ADJ : Nat := 0x280518
/-- PATH_DELAY (R337). -/
abbrev PATH_DELAY : Nat := 0x28051c
/-- TB_NS_LO (R337). -/
abbrev TB_NS_LO : Nat := 0x280520
/-- TB_NS_HI (R337). -/
abbrev TB_NS_HI : Nat := 0x280524
/-- PTP_NOW_LO (R337). -/
abbrev PTP_NOW_LO : Nat := 0x280528
/-- PTP_NOW_HI (R337). -/
abbrev PTP_NOW_HI : Nat := 0x28052c
/-- PTP_OFS_LO (R337). -/
abbrev PTP_OFS_LO : Nat := 0x280530
/-- PTP_OFS_HI (R337). -/
abbrev PTP_OFS_HI : Nat := 0x280534
/-- PICK_PTP_LO (R337). -/
abbrev PICK_PTP_LO : Nat := 0x280538
/-- PICK_PTP_HI (R337). -/
abbrev PICK_PTP_HI : Nat := 0x28053c
/-- TS_CORR_p (R337). -/
abbrev TS_CORR (p : Nat) : Nat := 0x280540 + 0x4 * p
/-- PPS_CFG (R337). -/
abbrev PPS_CFG : Nat := 0x280548
/-- PPS_TS_LO (R337). -/
abbrev PPS_TS_LO : Nat := 0x28054c
/-- PPS_TS_HI (R337). -/
abbrev PPS_TS_HI : Nat := 0x280550
/-- PTP_CNT (R337). -/
abbrev PTP_CNT : Nat := 0x280554
/-- PULSE_CFG_n (R337). -/
abbrev PULSE_CFG (n : Nat) : Nat := 0x280600 + 0x20 * n
/-- PULSE_START_LO_n (R337). -/
abbrev PULSE_START_LO (n : Nat) : Nat := 0x280604 + 0x20 * n
/-- PULSE_START_HI_n (R337). -/
abbrev PULSE_START_HI (n : Nat) : Nat := 0x280608 + 0x20 * n
/-- PULSE_PERIOD_n (R337). -/
abbrev PULSE_PERIOD (n : Nat) : Nat := 0x28060c + 0x20 * n
/-- PULSE_WIDTH_n (R337). -/
abbrev PULSE_WIDTH (n : Nat) : Nat := 0x280610 + 0x20 * n
/-- PULSE_STAT_n (R337). -/
abbrev PULSE_STAT (n : Nat) : Nat := 0x280614 + 0x20 * n
/-- SLV_CFG (R362). -/
abbrev SLV_CFG : Nat := 0x290400
/-- SLV_TMO (R362). -/
abbrev SLV_TMO : Nat := 0x290404
/-- SLV_STAT (R362). -/
abbrev SLV_STAT : Nat := 0x290408
/-- SLV_CLAIM (R362). -/
abbrev SLV_CLAIM : Nat := 0x29040c
/-- SLV_SEEN (R362). -/
abbrev SLV_SEEN : Nat := 0x290410
/-- SLV_CSN (R362). -/
abbrev SLV_CSN : Nat := 0x290414
/-- SLV_ACKED (R362). -/
abbrev SLV_ACKED : Nat := 0x290418
/-- SLV_AGREED_LO (R362). -/
abbrev SLV_AGREED_LO : Nat := 0x29041c
/-- SLV_AGREED_HI (R362). -/
abbrev SLV_AGREED_HI : Nat := 0x290420
/-- SLV_HEALTH (R362). -/
abbrev SLV_HEALTH : Nat := 0x290424
/-- SLV_CNT_A (R362). -/
abbrev SLV_CNT_A : Nat := 0x290428
/-- SLV_CNT_B (R362). -/
abbrev SLV_CNT_B : Nat := 0x29042c
/-- SLV_CNT_C (R362). -/
abbrev SLV_CNT_C : Nat := 0x290430
/-- SLV_CNT_D (R362). -/
abbrev SLV_CNT_D : Nat := 0x290434
/-- EV_STATUS (R367). -/
abbrev EV_STATUS (k : Nat) : Nat := 0x0 + 0x10000 * k
/-- EV_INJ_STATUS (R367). -/
abbrev EV_INJ_STATUS (k : Nat) : Nat := 0x4 + 0x10000 * k
/-- EV_LEVEL_LO (R367). -/
abbrev EV_LEVEL_LO (k : Nat) : Nat := 0x8 + 0x10000 * k
/-- EV_LEVEL_HI (R367). -/
abbrev EV_LEVEL_HI (k : Nat) : Nat := 0xc + 0x10000 * k
/-- EV_MASK (R367). -/
abbrev EV_MASK (k : Nat) : Nat := 0x10 + 0x10000 * k
/-- EV_QUIET (R367). -/
abbrev EV_QUIET (k : Nat) : Nat := 0x14 + 0x10000 * k
/-- EV_INJECT (R367). -/
abbrev EV_INJECT (k : Nat) : Nat := 0x18 + 0x10000 * k
/-- EV_INJ_ARG (R367). -/
abbrev EV_INJ_ARG (k : Nat) : Nat := 0x1c + 0x10000 * k
/-- EV_FIRST (R367). -/
abbrev EV_FIRST (k : Nat) : Nat := 0x20 + 0x10000 * k
/-- EV_FIRST_PICK_LO (R367). -/
abbrev EV_FIRST_PICK_LO (k : Nat) : Nat := 0x24 + 0x10000 * k
/-- EV_FIRST_PICK_HI (R367). -/
abbrev EV_FIRST_PICK_HI (k : Nat) : Nat := 0x28 + 0x10000 * k
/-- EV_FIRST_OBJ (R367). -/
abbrev EV_FIRST_OBJ (k : Nat) : Nat := 0x2c + 0x10000 * k
/-- EV_FIRST_VAL (R367). -/
abbrev EV_FIRST_VAL (k : Nat) : Nat := 0x30 + 0x10000 * k
/-- EV_CTRL (R367). -/
abbrev EV_CTRL (k : Nat) : Nat := 0x34 + 0x10000 * k
/-- EV_INJ_CNT (R367). -/
abbrev EV_INJ_CNT (k : Nat) : Nat := 0x38 + 0x10000 * k
/-- EV_COUNT_s (R367). -/
abbrev EV_COUNT (k : Nat) (s : Nat) : Nat := 0x40 + 0x10000 * k + 0x4 * s
/-- PERF_SEL_n (R396). -/
abbrev PERF_SEL (n : Nat) : Nat := 0x2b0400 + 0x10 * n
/-- PERF_CNT_LO_n (R396). -/
abbrev PERF_CNT_LO (n : Nat) : Nat := 0x2b0404 + 0x10 * n
/-- PERF_CNT_HI_n (R396). -/
abbrev PERF_CNT_HI (n : Nat) : Nat := 0x2b0408 + 0x10 * n
/-- BOB_CFG (R396). -/
abbrev BOB_CFG : Nat := 0x2b0800
/-- BOB_LIST_LEN (R396). -/
abbrev BOB_LIST_LEN : Nat := 0x2b0804
/-- BOB_SEQ (R396). -/
abbrev BOB_SEQ : Nat := 0x2b0808
/-- BOB_CNT (R396). -/
abbrev BOB_CNT : Nat := 0x2b080c
/-- HISTO_STAT (R396). -/
abbrev HISTO_STAT : Nat := 0x2b0810
/-- HISTO_CFG_u (R396). -/
abbrev HISTO_CFG (u : Nat) : Nat := 0x2b0900 + 0x4 * u
/-- BOB_LIST_i (R396). -/
abbrev BOB_LIST (i : Nat) : Nat := 0x2b2000 + 0x4 * i
/-- REED_WIN_BASE_n (R415). -/
abbrev REED_WIN_BASE (n : Nat) : Nat := 0x20400 + 0x10 * n
/-- REED_WIN_CTL_n (R415). -/
abbrev REED_WIN_CTL (n : Nat) : Nat := 0x20404 + 0x10 * n
/-- REED_ERR_LO (R415). -/
abbrev REED_ERR_LO : Nat := 0x20500
/-- REED_ERR_HI (R415). -/
abbrev REED_ERR_HI : Nat := 0x20504
/-- TRACE_CTL (R415). -/
abbrev TRACE_CTL : Nat := 0x30400
/-- TRACE_STAT (R415). -/
abbrev TRACE_STAT : Nat := 0x30404
/-- TRACE_LOOP_k (R415). -/
abbrev TRACE_LOOP (k : Nat) : Nat := 0x30500 + 0x4 * k
/-- MARL_STAT (R415). -/
abbrev MARL_STAT : Nat := 0x40400
/-- MARL_WEAR (R415). -/
abbrev MARL_WEAR : Nat := 0x40404
/-- BOOT_STAT (R438). -/
abbrev BOOT_STAT : Nat := 0x10400
/-- BOOT_VER (R438). -/
abbrev BOOT_VER : Nat := 0x10404
/-- SUP_RISE (R438). -/
abbrev SUP_RISE : Nat := 0x2c0400
/-- SUP_RISE_STAT (R438). -/
abbrev SUP_RISE_STAT : Nat := 0x2c0404
/-- START_CFG (R438). -/
abbrev START_CFG : Nat := 0x2c0408
/-- START_CTRL (R438). -/
abbrev START_CTRL : Nat := 0x2c040c
/-- CAL_NOM_t (R438). -/
abbrev CAL_NOM (t : Nat) : Nat := 0x2c0440 + 0x4 * t
/-- CAL_PTC_t (R438). -/
abbrev CAL_PTC (t : Nat) : Nat := 0x2c0480 + 0x4 * t
/-- CAL_CFG (R438). -/
abbrev CAL_CFG : Nat := 0xc0b00
/-- CAL_CTRL (R438). -/
abbrev CAL_CTRL : Nat := 0xc0b04
/-- CAL_STAT (R438). -/
abbrev CAL_STAT : Nat := 0xc0b08
/-- CAL_HELD (R438). -/
abbrev CAL_HELD : Nat := 0xc0b0c
end R

namespace F
/-- DRAFT_ACTIVE_ID.VAL (R50). -/
abbrev DRAFT_ACTIVE_ID.VAL : Fld := ⟨R.DRAFT_ACTIVE_ID, 31, 0, 0⟩
/-- DRAFT_ACTIVE_VER.VAL (R50). -/
abbrev DRAFT_ACTIVE_VER.VAL : Fld := ⟨R.DRAFT_ACTIVE_VER, 31, 0, 0⟩
/-- DRAFT_STAGED_ID.VAL (R50). -/
abbrev DRAFT_STAGED_ID.VAL : Fld := ⟨R.DRAFT_STAGED_ID, 31, 0, 0⟩
/-- DRAFT_STAGED_VER.VAL (R50). -/
abbrev DRAFT_STAGED_VER.VAL : Fld := ⟨R.DRAFT_STAGED_VER, 31, 0, 0⟩
/-- DRAFT_CHECK.PASS (R50). -/
abbrev DRAFT_CHECK.PASS : Fld := ⟨R.DRAFT_CHECK, 0, 0, 0⟩
/-- DRAFT_CHECK.LIVE_RUN (R50). -/
abbrev DRAFT_CHECK.LIVE_RUN : Fld := ⟨R.DRAFT_CHECK, 1, 1, 0⟩
/-- DRAFT_CHECK.FIRST_FAIL (R50). -/
abbrev DRAFT_CHECK.FIRST_FAIL : Fld := ⟨R.DRAFT_CHECK, 15, 8, 0⟩
/-- DRAFT_CTRL.CHECK (R50). -/
abbrev DRAFT_CTRL.CHECK : Fld := ⟨R.DRAFT_CTRL, 0, 0, 0⟩
/-- PICK_CFG.RATE (R53). -/
abbrev PICK_CFG.RATE : Fld := ⟨R.PICK_CFG, 1, 0, 2⟩
/-- PICK_CFG.BEAT (R53). -/
abbrev PICK_CFG.BEAT : Fld := ⟨R.PICK_CFG, 6, 4, 2⟩
/-- PICK_STAT.RATE_NOW (R53). -/
abbrev PICK_STAT.RATE_NOW : Fld := ⟨R.PICK_STAT, 1, 0, 2⟩
/-- PICK_STAT.BEAT_NOW (R53). -/
abbrev PICK_STAT.BEAT_NOW : Fld := ⟨R.PICK_STAT, 6, 4, 2⟩
/-- PICK_STAT.PENDING (R53). -/
abbrev PICK_STAT.PENDING : Fld := ⟨R.PICK_STAT, 8, 8, 0⟩
/-- PICK_NUM_LO.VAL (R53). -/
abbrev PICK_NUM_LO.VAL : Fld := ⟨R.PICK_NUM_LO, 31, 0, 0⟩
/-- PICK_NUM_HI.VAL (R53). -/
abbrev PICK_NUM_HI.VAL : Fld := ⟨R.PICK_NUM_HI, 31, 0, 0⟩
/-- ENG_STAT.LOOPS (R78). -/
abbrev ENG_STAT.LOOPS (k : Nat) (e : Nat) : Fld := ⟨R.ENG_STAT k e, 10, 0, 1024⟩
/-- ENG_STAT.STEPPED (R78). -/
abbrev ENG_STAT.STEPPED (k : Nat) (e : Nat) : Fld := ⟨R.ENG_STAT k e, 26, 16, 0⟩
/-- ENG_SLACK.SLACK_MIN (R78). -/
abbrev ENG_SLACK.SLACK_MIN (k : Nat) (e : Nat) : Fld := ⟨R.ENG_SLACK k e, 15, 0, 0⟩
/-- ENG_SLACK.SLACK_LAST (R78). -/
abbrev ENG_SLACK.SLACK_LAST (k : Nat) (e : Nat) : Fld := ⟨R.ENG_SLACK k e, 31, 16, 0⟩
/-- ENG_OVERRUN.COUNT (R78). -/
abbrev ENG_OVERRUN.COUNT (k : Nat) (e : Nat) : Fld := ⟨R.ENG_OVERRUN k e, 31, 0, 0⟩
/-- ENG_RATE.MSTEPS (R78). -/
abbrev ENG_RATE.MSTEPS (k : Nat) (e : Nat) : Fld := ⟨R.ENG_RATE k e, 15, 0, 0⟩
/-- CLASS_SHED.SHED (R78). -/
abbrev CLASS_SHED.SHED : Fld := ⟨R.CLASS_SHED, 15, 0, 0⟩
/-- CLASS_CAP.CAP_c (R78). -/
abbrev CLASS_CAP.CAP (c : Nat) : Fld := ⟨R.CLASS_CAP, 2 * c + 1, 2 * c, 3⟩
/-- CLASS_TCAP.TCAP_c (R78). -/
abbrev CLASS_TCAP.TCAP (c : Nat) : Fld := ⟨R.CLASS_TCAP, 2 * c + 1, 2 * c, 3⟩
/-- TILE_CAP.CAP_t (R78). -/
abbrev TILE_CAP.CAP (t : Nat) : Fld := ⟨R.TILE_CAP, 2 * t + 1, 2 * t, 3⟩
/-- TRK_CFG.FUND (R96). -/
abbrev TRK_CFG.FUND (n : Nat) : Fld := ⟨R.TRK_CFG n, 1, 0, 0⟩
/-- TRK_CFG.SRC (R96). -/
abbrev TRK_CFG.SRC (n : Nat) : Fld := ⟨R.TRK_CFG n, 3, 2, 0⟩
/-- TRK_CFG.MODE (R96). -/
abbrev TRK_CFG.MODE (n : Nat) : Fld := ⟨R.TRK_CFG n, 5, 4, 0⟩
/-- TRK_CFG.BW (R96). -/
abbrev TRK_CFG.BW (n : Nat) : Fld := ⟨R.TRK_CFG n, 7, 6, 0⟩
/-- TRK_CFG.COAST_MAX (R96). -/
abbrev TRK_CFG.COAST_MAX (n : Nat) : Fld := ⟨R.TRK_CFG n, 15, 8, 0⟩
/-- TRK_CFG.LOCK_PER (R96). -/
abbrev TRK_CFG.LOCK_PER (n : Nat) : Fld := ⟨R.TRK_CFG n, 19, 16, 0⟩
/-- TRK_LIM.LOCK_TOL (R96). -/
abbrev TRK_LIM.LOCK_TOL (n : Nat) : Fld := ⟨R.TRK_LIM n, 7, 0, 0⟩
/-- TRK_LIM.AMP_MIN (R96). -/
abbrev TRK_LIM.AMP_MIN (n : Nat) : Fld := ⟨R.TRK_LIM n, 29, 16, 0⟩
/-- TRK_BASE_LO.BASE_LO (R96). -/
abbrev TRK_BASE_LO.BASE_LO (n : Nat) : Fld := ⟨R.TRK_BASE_LO n, 31, 0, 0⟩
/-- TRK_BASE_HI.BASE_HI (R96). -/
abbrev TRK_BASE_HI.BASE_HI (n : Nat) : Fld := ⟨R.TRK_BASE_HI n, 31, 0, 0⟩
/-- TRK_STAT.STATE (R96). -/
abbrev TRK_STAT.STATE (n : Nat) : Fld := ⟨R.TRK_STAT n, 2, 0, 0⟩
/-- TRK_STAT.BIN (R96). -/
abbrev TRK_STAT.BIN (n : Nat) : Fld := ⟨R.TRK_STAT n, 15, 8, 0⟩
/-- TRK_STAT.PHASE_ERR (R96). -/
abbrev TRK_STAT.PHASE_ERR (n : Nat) : Fld := ⟨R.TRK_STAT n, 31, 16, 0⟩
/-- TRK_FREQ.FREQ (R96). -/
abbrev TRK_FREQ.FREQ (n : Nat) : Fld := ⟨R.TRK_FREQ n, 31, 0, 0⟩
/-- TRK_AMP.AMP (R96). -/
abbrev TRK_AMP.AMP (n : Nat) : Fld := ⟨R.TRK_AMP n, 15, 0, 0⟩
/-- TRK_AMP.UNLOCKS (R96). -/
abbrev TRK_AMP.UNLOCKS (n : Nat) : Fld := ⟨R.TRK_AMP n, 31, 16, 0⟩
/-- TRK_PHASE.PHASE (R96). -/
abbrev TRK_PHASE.PHASE (n : Nat) : Fld := ⟨R.TRK_PHASE n, 31, 0, 0⟩
/-- TRD_CTRL.SAVE (R96). -/
abbrev TRD_CTRL.SAVE : Fld := ⟨R.TRD_CTRL, 0, 0, 0⟩
/-- TRD_STAT.SAVE_RESULT (R96). -/
abbrev TRD_STAT.SAVE_RESULT : Fld := ⟨R.TRD_STAT, 1, 0, 0⟩
/-- TRD_STAT.GEN (R96). -/
abbrev TRD_STAT.GEN : Fld := ⟨R.TRD_STAT, 2, 2, 0⟩
/-- TRD_STAT.LOAD_ZEROED (R96). -/
abbrev TRD_STAT.LOAD_ZEROED : Fld := ⟨R.TRD_STAT, 31, 16, 0⟩
/-- TRD_MIRROR.RATE (R96). -/
abbrev TRD_MIRROR.RATE : Fld := ⟨R.TRD_MIRROR, 7, 0, 10⟩
/-- TRD_SWEEP.SWEEP_MS (R96). -/
abbrev TRD_SWEEP.SWEEP_MS : Fld := ⟨R.TRD_SWEEP, 15, 0, 0⟩
/-- TRD_DIRTY.DIRTY (R96). -/
abbrev TRD_DIRTY.DIRTY : Fld := ⟨R.TRD_DIRTY, 16, 0, 0⟩
/-- CELL_CFG.ARRIVE_TOL (R116). -/
abbrev CELL_CFG.ARRIVE_TOL : Fld := ⟨R.CELL_CFG, 7, 0, 6⟩
/-- CELL_CFG.SWITCH_MAX (R116). -/
abbrev CELL_CFG.SWITCH_MAX : Fld := ⟨R.CELL_CFG, 15, 8, 16⟩
/-- CELL_CFG.FAULT_MISS (R116). -/
abbrev CELL_CFG.FAULT_MISS : Fld := ⟨R.CELL_CFG, 23, 16, 64⟩
/-- CELL_CFG.FAULT_SAT (R116). -/
abbrev CELL_CFG.FAULT_SAT : Fld := ⟨R.CELL_CFG, 27, 24, 4⟩
/-- CELL_CFG.FAULT_LIT (R116). -/
abbrev CELL_CFG.FAULT_LIT : Fld := ⟨R.CELL_CFG, 28, 28, 0⟩
/-- CELL_CFG.FAULT_DARK (R116). -/
abbrev CELL_CFG.FAULT_DARK : Fld := ⟨R.CELL_CFG, 29, 29, 1⟩
/-- MODE_STAT.WIDE_CNT (R116). -/
abbrev MODE_STAT.WIDE_CNT : Fld := ⟨R.MODE_STAT, 15, 0, 0⟩
/-- MODE_STAT.HOSAT_CNT (R116). -/
abbrev MODE_STAT.HOSAT_CNT : Fld := ⟨R.MODE_STAT, 31, 16, 0⟩
/-- TILE_MODE_t.MODE (R116). -/
abbrev TILE_MODE.MODE (t : Nat) : Fld := ⟨R.TILE_MODE t, 2, 0, 0⟩
/-- TILE_MODE_t.PREV (R116). -/
abbrev TILE_MODE.PREV (t : Nat) : Fld := ⟨R.TILE_MODE t, 6, 4, 0⟩
/-- TILE_MODE_t.CAL_VALID (R116). -/
abbrev TILE_MODE.CAL_VALID (t : Nat) : Fld := ⟨R.TILE_MODE t, 8, 8, 0⟩
/-- TILE_MODE_t.HOLDOVERS (R116). -/
abbrev TILE_MODE.HOLDOVERS (t : Nat) : Fld := ⟨R.TILE_MODE t, 31, 16, 0⟩
/-- CIRC_CFG.HOLDOVER_WAIT (R151). -/
abbrev CIRC_CFG.HOLDOVER_WAIT : Fld := ⟨R.CIRC_CFG, 0, 0, 1⟩
/-- CIRC_CFG.ALT_PRIORITY (R151). -/
abbrev CIRC_CFG.ALT_PRIORITY : Fld := ⟨R.CIRC_CFG, 1, 1, 1⟩
/-- CIRC_CFG.LATE_POLICY (R151). -/
abbrev CIRC_CFG.LATE_POLICY : Fld := ⟨R.CIRC_CFG, 2, 2, 0⟩
/-- CIRC_CFG.TRIP_DB (R151). -/
abbrev CIRC_CFG.TRIP_DB : Fld := ⟨R.CIRC_CFG, 15, 8, 30⟩
/-- CIRC_CFG.TRIP_PICKS (R151). -/
abbrev CIRC_CFG.TRIP_PICKS : Fld := ⟨R.CIRC_CFG, 23, 16, 4⟩
/-- CIRC_STAT.LIVE (R151). -/
abbrev CIRC_STAT.LIVE : Fld := ⟨R.CIRC_STAT, 10, 0, 0⟩
/-- CIRC_STAT.ARMED (R151). -/
abbrev CIRC_STAT.ARMED : Fld := ⟨R.CIRC_STAT, 26, 16, 0⟩
/-- PIECE_CFG.PIECE_PICKS (R151). -/
abbrev PIECE_CFG.PIECE_PICKS : Fld := ⟨R.PIECE_CFG, 6, 0, 32⟩
/-- PIECE_CFG.LOCK_TOL (R151). -/
abbrev PIECE_CFG.LOCK_TOL : Fld := ⟨R.PIECE_CFG, 13, 8, 20⟩
/-- PIECE_CFG.LOCK_MAX (R151). -/
abbrev PIECE_CFG.LOCK_MAX : Fld := ⟨R.PIECE_CFG, 23, 16, 64⟩
/-- PIECE_CFG.DARK_FALLBACK (R151). -/
abbrev PIECE_CFG.DARK_FALLBACK : Fld := ⟨R.PIECE_CFG, 24, 24, 1⟩
/-- PIECE_STAT.COH_CNT (R151). -/
abbrev PIECE_STAT.COH_CNT : Fld := ⟨R.PIECE_STAT, 15, 0, 0⟩
/-- PIECE_STAT.PHASE_ERR (R151). -/
abbrev PIECE_STAT.PHASE_ERR : Fld := ⟨R.PIECE_STAT, 23, 16, 0⟩
/-- PIECE_STAT.RUNNING (R151). -/
abbrev PIECE_STAT.RUNNING : Fld := ⟨R.PIECE_STAT, 31, 24, 0⟩
/-- PROT_CFG.PIN_EN (R151). -/
abbrev PROT_CFG.PIN_EN : Fld := ⟨R.PROT_CFG, 7, 0, 0⟩
/-- PROT_CFG.PIN_POL (R151). -/
abbrev PROT_CFG.PIN_POL : Fld := ⟨R.PROT_CFG, 15, 8, 0⟩
/-- PROT_CFG.DEBOUNCE_NS (R151). -/
abbrev PROT_CFG.DEBOUNCE_NS : Fld := ⟨R.PROT_CFG, 31, 16, 200⟩
/-- PROT_STAT.PIN_LEVEL (R151). -/
abbrev PROT_STAT.PIN_LEVEL : Fld := ⟨R.PROT_STAT, 7, 0, 0⟩
/-- PROT_STAT.PROT_CNT (R151). -/
abbrev PROT_STAT.PROT_CNT : Fld := ⟨R.PROT_STAT, 31, 16, 0⟩
/-- FC_BUDGET.EBUDGET (R151). -/
abbrev FC_BUDGET.EBUDGET : Fld := ⟨R.FC_BUDGET, 15, 0, 1600⟩
/-- SPREAD_STAT.LAST_SPREAD (R151). -/
abbrev SPREAD_STAT.LAST_SPREAD : Fld := ⟨R.SPREAD_STAT, 7, 0, 0⟩
/-- SPREAD_STAT.MAX_SPREAD (R151). -/
abbrev SPREAD_STAT.MAX_SPREAD : Fld := ⟨R.SPREAD_STAT, 15, 8, 0⟩
/-- SPREAD_STAT.OVERDRAW_CNT (R151). -/
abbrev SPREAD_STAT.OVERDRAW_CNT : Fld := ⟨R.SPREAD_STAT, 31, 16, 0⟩
/-- TIMED_STAT.PENDING (R151). -/
abbrev TIMED_STAT.PENDING : Fld := ⟨R.TIMED_STAT, 6, 0, 0⟩
/-- TIMED_STAT.LATE_CNT (R151). -/
abbrev TIMED_STAT.LATE_CNT : Fld := ⟨R.TIMED_STAT, 31, 16, 0⟩
/-- SHTL_CFG.RUNAHEAD (R151). -/
abbrev SHTL_CFG.RUNAHEAD : Fld := ⟨R.SHTL_CFG, 5, 0, 32⟩
/-- SHTL_CFG.REARR_MAX (R151). -/
abbrev SHTL_CFG.REARR_MAX : Fld := ⟨R.SHTL_CFG, 11, 8, 8⟩
/-- SHTL_STAT.PLANNED (R151). -/
abbrev SHTL_STAT.PLANNED : Fld := ⟨R.SHTL_STAT, 5, 0, 0⟩
/-- SHTL_STAT.REPLAN_CNT (R151). -/
abbrev SHTL_STAT.REPLAN_CNT : Fld := ⟨R.SHTL_STAT, 31, 16, 0⟩
/-- TILTH_CFG.EN (R166). -/
abbrev TILTH_CFG.EN : Fld := ⟨R.TILTH_CFG, 0, 0, 1⟩
/-- TILTH_CFG.RA_EN (R166). -/
abbrev TILTH_CFG.RA_EN : Fld := ⟨R.TILTH_CFG, 1, 1, 1⟩
/-- TILTH_CFG.RSV_EN (R166). -/
abbrev TILTH_CFG.RSV_EN : Fld := ⟨R.TILTH_CFG, 2, 2, 1⟩
/-- TILTH_CFG.ALT_WARM (R166). -/
abbrev TILTH_CFG.ALT_WARM : Fld := ⟨R.TILTH_CFG, 15, 8, 255⟩
/-- TILTH_CFG.ALT_WARM_NG (R166). -/
abbrev TILTH_CFG.ALT_WARM_NG : Fld := ⟨R.TILTH_CFG, 16, 16, 1⟩
/-- TILTH_CFG.WARM_PICKS (R166). -/
abbrev TILTH_CFG.WARM_PICKS : Fld := ⟨R.TILTH_CFG, 23, 17, 32⟩
/-- TILTH_CFG.UNDO_PICKS (R166). -/
abbrev TILTH_CFG.UNDO_PICKS : Fld := ⟨R.TILTH_CFG, 30, 24, 32⟩
/-- TILTH_PWR.TOTAL_MW (R166). -/
abbrev TILTH_PWR.TOTAL_MW : Fld := ⟨R.TILTH_PWR, 15, 0, 8000⟩
/-- TILTH_PWR.TILE_MW (R166). -/
abbrev TILTH_PWR.TILE_MW : Fld := ⟨R.TILTH_PWR, 31, 16, 1000⟩
/-- TILTH_LIM.XT_PAIRS (R166). -/
abbrev TILTH_LIM.XT_PAIRS : Fld := ⟨R.TILTH_LIM, 7, 0, 18⟩
/-- TILTH_LIM.HOLDOFF_MS (R166). -/
abbrev TILTH_LIM.HOLDOFF_MS : Fld := ⟨R.TILTH_LIM, 31, 16, 1000⟩
/-- TILTH_TMO.RA_WARM_MS (R166). -/
abbrev TILTH_TMO.RA_WARM_MS : Fld := ⟨R.TILTH_TMO, 15, 0, 100⟩
/-- TILTH_TMO.RSV_DEF_MS (R166). -/
abbrev TILTH_TMO.RSV_DEF_MS : Fld := ⟨R.TILTH_TMO, 31, 16, 1000⟩
/-- TILTH_STAT.WARM_CELLS (R166). -/
abbrev TILTH_STAT.WARM_CELLS : Fld := ⟨R.TILTH_STAT, 15, 0, 0⟩
/-- TILTH_STAT.PWR_MW (R166). -/
abbrev TILTH_STAT.PWR_MW : Fld := ⟨R.TILTH_STAT, 31, 16, 0⟩
/-- TILTH_PLANS.RSV_HELD (R166). -/
abbrev TILTH_PLANS.RSV_HELD : Fld := ⟨R.TILTH_PLANS, 8, 0, 0⟩
/-- TILTH_PLANS.ALT_ARMED (R166). -/
abbrev TILTH_PLANS.ALT_ARMED : Fld := ⟨R.TILTH_PLANS, 26, 16, 0⟩
/-- TILTH_CNT.WARM_CNT (R166). -/
abbrev TILTH_CNT.WARM_CNT : Fld := ⟨R.TILTH_CNT, 31, 0, 0⟩
/-- TILTH_HITS.FAST (R166). -/
abbrev TILTH_HITS.FAST : Fld := ⟨R.TILTH_HITS, 15, 0, 0⟩
/-- TILTH_HITS.PARTIAL (R166). -/
abbrev TILTH_HITS.PARTIAL : Fld := ⟨R.TILTH_HITS, 31, 16, 0⟩
/-- TILTH_UNDO_A.CANCEL (R166). -/
abbrev TILTH_UNDO_A.CANCEL : Fld := ⟨R.TILTH_UNDO_A, 15, 0, 0⟩
/-- TILTH_UNDO_A.TIMEOUT (R166). -/
abbrev TILTH_UNDO_A.TIMEOUT : Fld := ⟨R.TILTH_UNDO_A, 31, 16, 0⟩
/-- TILTH_UNDO_B.CONFLICT (R166). -/
abbrev TILTH_UNDO_B.CONFLICT : Fld := ⟨R.TILTH_UNDO_B, 15, 0, 0⟩
/-- TILTH_UNDO_B.CHAIN (R166). -/
abbrev TILTH_UNDO_B.CHAIN : Fld := ⟨R.TILTH_UNDO_B, 31, 16, 0⟩
/-- TILTH_UNDO_C.TILE_FAULT (R166). -/
abbrev TILTH_UNDO_C.TILE_FAULT : Fld := ⟨R.TILTH_UNDO_C, 15, 0, 0⟩
/-- TILTH_UNDO_C.ROLE (R166). -/
abbrev TILTH_UNDO_C.ROLE : Fld := ⟨R.TILTH_UNDO_C, 31, 16, 0⟩
/-- TILTH_UNDO_D.BUDGET (R166). -/
abbrev TILTH_UNDO_D.BUDGET : Fld := ⟨R.TILTH_UNDO_D, 15, 0, 0⟩
/-- TILTH_TILE_t.WARM (R166). -/
abbrev TILTH_TILE.WARM (t : Nat) : Fld := ⟨R.TILTH_TILE t, 11, 0, 0⟩
/-- TILTH_TILE_t.PAIRS (R166). -/
abbrev TILTH_TILE.PAIRS (t : Nat) : Fld := ⟨R.TILTH_TILE t, 19, 12, 0⟩
/-- TILTH_TILE_t.MW (R166). -/
abbrev TILTH_TILE.MW (t : Nat) : Fld := ⟨R.TILTH_TILE t, 31, 20, 0⟩
/-- WEFT_CTRL.RETRAIN (R189). -/
abbrev WEFT_CTRL.RETRAIN (k : Nat) : Fld := ⟨R.WEFT_CTRL k, 0, 0, 0⟩
/-- WEFT_CTRL.BURST (R189). -/
abbrev WEFT_CTRL.BURST (k : Nat) : Fld := ⟨R.WEFT_CTRL k, 1, 1, 0⟩
/-- WEFT_CTRL.LANE_DIS (R189). -/
abbrev WEFT_CTRL.LANE_DIS (k : Nat) : Fld := ⟨R.WEFT_CTRL k, 13, 8, 0⟩
/-- WEFT_STAT.LINK (R189). -/
abbrev WEFT_STAT.LINK (k : Nat) : Fld := ⟨R.WEFT_STAT k, 2, 0, 0⟩
/-- WEFT_STAT.SNS_OK (R189). -/
abbrev WEFT_STAT.SNS_OK (k : Nat) : Fld := ⟨R.WEFT_STAT k, 7, 4, 0⟩
/-- WEFT_STAT.DRV_OK (R189). -/
abbrev WEFT_STAT.DRV_OK (k : Nat) : Fld := ⟨R.WEFT_STAT k, 9, 8, 0⟩
/-- WEFT_STAT.DT (R189). -/
abbrev WEFT_STAT.DT (k : Nat) : Fld := ⟨R.WEFT_STAT k, 13, 12, 0⟩
/-- WEFT_STAT.HOLDER_SILENT (R189). -/
abbrev WEFT_STAT.HOLDER_SILENT (k : Nat) : Fld := ⟨R.WEFT_STAT k, 14, 14, 0⟩
/-- WEFT_STAT.RETRAINS (R189). -/
abbrev WEFT_STAT.RETRAINS (k : Nat) : Fld := ⟨R.WEFT_STAT k, 31, 16, 0⟩
/-- WEFT_FLIGHT.FLIGHT_PS (R189). -/
abbrev WEFT_FLIGHT.FLIGHT_PS (k : Nat) : Fld := ⟨R.WEFT_FLIGHT k, 15, 0, 0⟩
/-- WEFT_FLIGHT.SNS_LAT_NS (R189). -/
abbrev WEFT_FLIGHT.SNS_LAT_NS (k : Nat) : Fld := ⟨R.WEFT_FLIGHT k, 31, 16, 0⟩
/-- WEFT_IDENT.PART (R189). -/
abbrev WEFT_IDENT.PART (k : Nat) : Fld := ⟨R.WEFT_IDENT k, 15, 0, 0⟩
/-- WEFT_IDENT.REV (R189). -/
abbrev WEFT_IDENT.REV (k : Nat) : Fld := ⟨R.WEFT_IDENT k, 23, 16, 0⟩
/-- WEFT_IDENT.PORT (R189). -/
abbrev WEFT_IDENT.PORT (k : Nat) : Fld := ⟨R.WEFT_IDENT k, 24, 24, 0⟩
/-- WEFT_IDENT.VALID (R189). -/
abbrev WEFT_IDENT.VALID (k : Nat) : Fld := ⟨R.WEFT_IDENT k, 31, 31, 0⟩
/-- WEFT_CLAIM.CLAIM_HELD (R189). -/
abbrev WEFT_CLAIM.CLAIM_HELD (k : Nat) : Fld := ⟨R.WEFT_CLAIM k, 31, 0, 0⟩
/-- WEFT_ERR_A.SENSE_LOST (R189). -/
abbrev WEFT_ERR_A.SENSE_LOST (k : Nat) : Fld := ⟨R.WEFT_ERR_A k, 15, 0, 0⟩
/-- WEFT_ERR_A.DRIVE_MISSED (R189). -/
abbrev WEFT_ERR_A.DRIVE_MISSED (k : Nat) : Fld := ⟨R.WEFT_ERR_A k, 31, 16, 0⟩
/-- WEFT_ERR_B.CLAIM_REJ (R189). -/
abbrev WEFT_ERR_B.CLAIM_REJ (k : Nat) : Fld := ⟨R.WEFT_ERR_B k, 15, 0, 0⟩
/-- WEFT_ERR_B.LATE_SAMPLES (R189). -/
abbrev WEFT_ERR_B.LATE_SAMPLES (k : Nat) : Fld := ⟨R.WEFT_ERR_B k, 31, 16, 0⟩
/-- WEFT_LANE.FAIL_CNT (R189). -/
abbrev WEFT_LANE.FAIL_CNT (k : Nat) : Fld := ⟨R.WEFT_LANE k, 29, 0, 0⟩
/-- WEFT_SLACK.SLACK_MIN (R189). -/
abbrev WEFT_SLACK.SLACK_MIN (k : Nat) : Fld := ⟨R.WEFT_SLACK k, 15, 0, 0⟩
/-- WEFT_SLACK.OMITTED (R189). -/
abbrev WEFT_SLACK.OMITTED (k : Nat) : Fld := ⟨R.WEFT_SLACK k, 31, 16, 0⟩
/-- WEFT_WIT.WITNESS (R189). -/
abbrev WEFT_WIT.WITNESS (k : Nat) : Fld := ⟨R.WEFT_WIT k, 31, 0, 0⟩
/-- SV_CTRL.RUN (R208). -/
abbrev SV_CTRL.RUN (k : Nat) : Fld := ⟨R.SV_CTRL k, 0, 0, 0⟩
/-- SV_CTRL.BG_EN (R208). -/
abbrev SV_CTRL.BG_EN (k : Nat) : Fld := ⟨R.SV_CTRL k, 1, 1, 1⟩
/-- SV_CTRL.CAL (R208). -/
abbrev SV_CTRL.CAL (k : Nat) : Fld := ⟨R.SV_CTRL k, 2, 2, 0⟩
/-- SV_STAT.SCAN_IDX (R208). -/
abbrev SV_STAT.SCAN_IDX (k : Nat) : Fld := ⟨R.SV_STAT k, 3, 0, 0⟩
/-- SV_STAT.SETTLING (R208). -/
abbrev SV_STAT.SETTLING (k : Nat) : Fld := ⟨R.SV_STAT k, 4, 4, 0⟩
/-- SV_STAT.CAL_RESULT (R208). -/
abbrev SV_STAT.CAL_RESULT (k : Nat) : Fld := ⟨R.SV_STAT k, 6, 5, 0⟩
/-- SV_STAT.INJ_PEND (R208). -/
abbrev SV_STAT.INJ_PEND (k : Nat) : Fld := ⟨R.SV_STAT k, 10, 8, 0⟩
/-- SV_STAT.INJ_DROP (R208). -/
abbrev SV_STAT.INJ_DROP (k : Nat) : Fld := ⟨R.SV_STAT k, 31, 16, 0⟩
/-- SV_INJ.INPUT (R208). -/
abbrev SV_INJ.INPUT (k : Nat) : Fld := ⟨R.SV_INJ k, 4, 0, 0⟩
/-- SV_INJ.GAIN (R208). -/
abbrev SV_INJ.GAIN (k : Nat) : Fld := ⟨R.SV_INJ k, 6, 5, 0⟩
/-- SV_INJ.ORDER (R208). -/
abbrev SV_INJ.ORDER (k : Nat) : Fld := ⟨R.SV_INJ k, 9, 8, 0⟩
/-- SV_INJ.DECIM (R208). -/
abbrev SV_INJ.DECIM (k : Nat) : Fld := ⟨R.SV_INJ k, 14, 12, 0⟩
/-- SV_INJ.NOTCH (R208). -/
abbrev SV_INJ.NOTCH (k : Nat) : Fld := ⟨R.SV_INJ k, 25, 16, 0⟩
/-- SV_INJ.PAIRED (R208). -/
abbrev SV_INJ.PAIRED (k : Nat) : Fld := ⟨R.SV_INJ k, 30, 30, 0⟩
/-- SV_INJ.GO (R208). -/
abbrev SV_INJ.GO (k : Nat) : Fld := ⟨R.SV_INJ k, 31, 31, 0⟩
/-- SV_INJ_RES.WORD (R208). -/
abbrev SV_INJ_RES.WORD (k : Nat) : Fld := ⟨R.SV_INJ_RES k, 31, 0, 0⟩
/-- SV_CAL.OFFSET_CORR (R208). -/
abbrev SV_CAL.OFFSET_CORR (k : Nat) : Fld := ⟨R.SV_CAL k, 15, 0, 0⟩
/-- SV_CAL.GAIN_CORR (R208). -/
abbrev SV_CAL.GAIN_CORR (k : Nat) : Fld := ⟨R.SV_CAL k, 31, 16, 0⟩
/-- SV_BG.BG_MIN (R208). -/
abbrev SV_BG.BG_MIN (k : Nat) : Fld := ⟨R.SV_BG k, 15, 0, 64⟩
/-- SV_BG.CONVERGED (R208). -/
abbrev SV_BG.CONVERGED (k : Nat) : Fld := ⟨R.SV_BG k, 16, 16, 0⟩
/-- SV_BG.DISCARDS (R208). -/
abbrev SV_BG.DISCARDS (k : Nat) : Fld := ⟨R.SV_BG k, 31, 24, 0⟩
/-- SV_RING.RING_WR (R208). -/
abbrev SV_RING.RING_WR (k : Nat) : Fld := ⟨R.SV_RING k, 9, 0, 0⟩
/-- SV_RING.RING_RD (R208). -/
abbrev SV_RING.RING_RD (k : Nat) : Fld := ⟨R.SV_RING k, 25, 16, 0⟩
/-- SV_RING.OVERRUN (R208). -/
abbrev SV_RING.OVERRUN (k : Nat) : Fld := ⟨R.SV_RING k, 31, 31, 0⟩
/-- SV_SCAN_n.INPUT (R208). -/
abbrev SV_SCAN.INPUT (k : Nat) (n : Nat) : Fld := ⟨R.SV_SCAN k n, 4, 0, 0⟩
/-- SV_SCAN_n.GAIN (R208). -/
abbrev SV_SCAN.GAIN (k : Nat) (n : Nat) : Fld := ⟨R.SV_SCAN k n, 6, 5, 0⟩
/-- SV_SCAN_n.ORDER (R208). -/
abbrev SV_SCAN.ORDER (k : Nat) (n : Nat) : Fld := ⟨R.SV_SCAN k n, 9, 8, 0⟩
/-- SV_SCAN_n.DECIM (R208). -/
abbrev SV_SCAN.DECIM (k : Nat) (n : Nat) : Fld := ⟨R.SV_SCAN k n, 14, 12, 0⟩
/-- SV_SCAN_n.NOTCH (R208). -/
abbrev SV_SCAN.NOTCH (k : Nat) (n : Nat) : Fld := ⟨R.SV_SCAN k n, 25, 16, 0⟩
/-- SV_DWELL_n.DWELL (R208). -/
abbrev SV_DWELL.DWELL (k : Nat) (n : Nat) : Fld := ⟨R.SV_DWELL k n, 15, 0, 0⟩
/-- SV_SCAN_LEN.LEN (R208). -/
abbrev SV_SCAN_LEN.LEN (k : Nat) : Fld := ⟨R.SV_SCAN_LEN k, 4, 0, 0⟩
/-- SV_LAST_i.WORD (R208). -/
abbrev SV_LAST.WORD (k : Nat) (i : Nat) : Fld := ⟨R.SV_LAST k i, 31, 0, 0⟩
/-- WIT_CFG.WIT_CONV (R208). -/
abbrev WIT_CFG.WIT_CONV : Fld := ⟨R.WIT_CFG, 0, 0, 1⟩
/-- WIT_CFG.WIT_EN (R208). -/
abbrev WIT_CFG.WIT_EN : Fld := ⟨R.WIT_CFG, 1, 1, 0⟩
/-- WIT_CFG.GAIN (R208). -/
abbrev WIT_CFG.GAIN : Fld := ⟨R.WIT_CFG, 3, 2, 0⟩
/-- WIT_CFG.ORDER (R208). -/
abbrev WIT_CFG.ORDER : Fld := ⟨R.WIT_CFG, 5, 4, 1⟩
/-- WIT_CFG.DECIM (R208). -/
abbrev WIT_CFG.DECIM : Fld := ⟨R.WIT_CFG, 10, 8, 1⟩
/-- WIT_CFG.CONFIRM (R208). -/
abbrev WIT_CFG.CONFIRM : Fld := ⟨R.WIT_CFG, 15, 12, 3⟩
/-- WIT_CFG.WIT_PERIOD_MS (R208). -/
abbrev WIT_CFG.WIT_PERIOD_MS : Fld := ⟨R.WIT_CFG, 31, 16, 10⟩
/-- WIT_BANDS.WIT_BAND (R208). -/
abbrev WIT_BANDS.WIT_BAND : Fld := ⟨R.WIT_BANDS, 15, 0, 64⟩
/-- WIT_BANDS.GND_BAND (R208). -/
abbrev WIT_BANDS.GND_BAND : Fld := ⟨R.WIT_BANDS, 31, 16, 64⟩
/-- XCHK_CFG.XCHK_INPUT (R208). -/
abbrev XCHK_CFG.XCHK_INPUT : Fld := ⟨R.XCHK_CFG, 4, 0, 20⟩
/-- XCHK_CFG.XCHK_BAND (R208). -/
abbrev XCHK_CFG.XCHK_BAND : Fld := ⟨R.XCHK_CFG, 15, 8, 32⟩
/-- XCHK_CFG.REF_BAND (R208). -/
abbrev XCHK_CFG.REF_BAND : Fld := ⟨R.XCHK_CFG, 23, 16, 48⟩
/-- XCHK_CFG.XCHK_MS (R208). -/
abbrev XCHK_CFG.XCHK_MS : Fld := ⟨R.XCHK_CFG, 31, 24, 0⟩
/-- WIT_CTRL.HOLD (R208). -/
abbrev WIT_CTRL.HOLD : Fld := ⟨R.WIT_CTRL, 0, 0, 0⟩
/-- WIT_CAL_t.WIT_SCALE_t (R208). -/
abbrev WIT_CAL.WIT_SCALE (t : Nat) : Fld := ⟨R.WIT_CAL t, 15, 0, 0⟩
/-- WIT_CAL_t.WIT_OFS_t (R208). -/
abbrev WIT_CAL.WIT_OFS (t : Nat) : Fld := ⟨R.WIT_CAL t, 31, 16, 0⟩
/-- WIT_STAT_t.ROUNDS (R208). -/
abbrev WIT_STAT.ROUNDS (t : Nat) : Fld := ⟨R.WIT_STAT t, 15, 0, 0⟩
/-- WIT_STAT_t.FAILS (R208). -/
abbrev WIT_STAT.FAILS (t : Nat) : Fld := ⟨R.WIT_STAT t, 23, 16, 0⟩
/-- WIT_STAT_t.CLASS (R208). -/
abbrev WIT_STAT.CLASS (t : Nat) : Fld := ⟨R.WIT_STAT t, 26, 24, 0⟩
/-- DAC_CH_CFG_c.RANGE (R223). -/
abbrev DAC_CH_CFG.RANGE (c : Nat) : Fld := ⟨R.DAC_CH_CFG c, 1, 0, 0⟩
/-- DAC_CH_CFG_c.GROUP (R223). -/
abbrev DAC_CH_CFG.GROUP (c : Nat) : Fld := ⟨R.DAC_CH_CFG c, 5, 4, (c % 16) / 4⟩
/-- DAC_CH_CFG_c.CLR_SEL (R223). -/
abbrev DAC_CH_CFG.CLR_SEL (c : Nat) : Fld := ⟨R.DAC_CH_CFG c, 8, 8, 0⟩
/-- DAC_CH_CFG_c.CLR_EN (R223). -/
abbrev DAC_CH_CFG.CLR_EN (c : Nat) : Fld := ⟨R.DAC_CH_CFG c, 9, 9, 0⟩
/-- DAC_CH_CFG_c.SHARED (R223). -/
abbrev DAC_CH_CFG.SHARED (c : Nat) : Fld := ⟨R.DAC_CH_CFG c, 10, 10, 0⟩
/-- DAC_CH_CFG_c.OT_POLICY (R223). -/
abbrev DAC_CH_CFG.OT_POLICY (c : Nat) : Fld := ⟨R.DAC_CH_CFG c, 11, 11, 0⟩
/-- DAC_CODE_c.PENDING (R223). -/
abbrev DAC_CODE.PENDING (c : Nat) : Fld := ⟨R.DAC_CODE c, 15, 0, 0⟩
/-- DAC_CODE_c.ACTIVE (R223). -/
abbrev DAC_CODE.ACTIVE (c : Nat) : Fld := ⟨R.DAC_CODE c, 31, 16, 0⟩
/-- DAC_CLR_CODE_c.CLR_CODE (R223). -/
abbrev DAC_CLR_CODE.CLR_CODE (c : Nat) : Fld := ⟨R.DAC_CLR_CODE c, 15, 0, 0⟩
/-- DAC_CH_STAT_c.RANGING (R223). -/
abbrev DAC_CH_STAT.RANGING (c : Nat) : Fld := ⟨R.DAC_CH_STAT c, 0, 0, 0⟩
/-- DAC_CH_STAT_c.OT (R223). -/
abbrev DAC_CH_STAT.OT (c : Nat) : Fld := ⟨R.DAC_CH_STAT c, 1, 1, 0⟩
/-- DAC_CH_STAT_c.OT_STICKY (R223). -/
abbrev DAC_CH_STAT.OT_STICKY (c : Nat) : Fld := ⟨R.DAC_CH_STAT c, 2, 2, 0⟩
/-- DAC_CH_STAT_c.FORCED (R223). -/
abbrev DAC_CH_STAT.FORCED (c : Nat) : Fld := ⟨R.DAC_CH_STAT c, 3, 3, 0⟩
/-- DAC_CH_STAT_c.DRIVING (R223). -/
abbrev DAC_CH_STAT.DRIVING (c : Nat) : Fld := ⟨R.DAC_CH_STAT c, 4, 4, 0⟩
/-- DAC_CH_STAT_c.PEND (R223). -/
abbrev DAC_CH_STAT.PEND (c : Nat) : Fld := ⟨R.DAC_CH_STAT c, 5, 5, 0⟩
/-- DAC_CH_STAT_c.OT_CNT (R223). -/
abbrev DAC_CH_STAT.OT_CNT (c : Nat) : Fld := ⟨R.DAC_CH_STAT c, 31, 16, 0⟩
/-- DAC_LOAD_CFG.SRC_g (R223). -/
abbrev DAC_LOAD_CFG.SRC (g : Nat) : Fld := ⟨R.DAC_LOAD_CFG, 4 * g + 1, 4 * g, 0⟩
/-- DAC_STROBE.STROBE (R223). -/
abbrev DAC_STROBE.STROBE : Fld := ⟨R.DAC_STROBE, 3, 0, 0⟩
/-- DAC_STAT.CLR_INT (R223). -/
abbrev DAC_STAT.CLR_INT : Fld := ⟨R.DAC_STAT, 0, 0, 1⟩
/-- DAC_STAT.CLR_PIN (R223). -/
abbrev DAC_STAT.CLR_PIN : Fld := ⟨R.DAC_STAT, 1, 1, 0⟩
/-- DAC_STAT.LOAD_LVL (R223). -/
abbrev DAC_STAT.LOAD_LVL : Fld := ⟨R.DAC_STAT, 7, 4, 0⟩
/-- DAC_STAT.PIN_LOADS (R223). -/
abbrev DAC_STAT.PIN_LOADS : Fld := ⟨R.DAC_STAT, 31, 16, 0⟩
/-- DAC_OT_LO.OT (R223). -/
abbrev DAC_OT_LO.OT : Fld := ⟨R.DAC_OT_LO, 31, 0, 0⟩
/-- DAC_OT_HI.OT (R223). -/
abbrev DAC_OT_HI.OT : Fld := ⟨R.DAC_OT_HI, 15, 0, 0⟩
/-- TEC_CFG_t.TEC_EN (R223). -/
abbrev TEC_CFG.TEC_EN (t : Nat) : Fld := ⟨R.TEC_CFG t, 0, 0, 0⟩
/-- TEC_CFG_t.TEC_POL (R223). -/
abbrev TEC_CFG.TEC_POL (t : Nat) : Fld := ⟨R.TEC_CFG t, 1, 1, 0⟩
/-- TEC_CFG_t.HOLD_MS (R223). -/
abbrev TEC_CFG.HOLD_MS (t : Nat) : Fld := ⟨R.TEC_CFG t, 15, 8, 100⟩
/-- TEC_CFG_t.TEC_SAFE (R223). -/
abbrev TEC_CFG.TEC_SAFE (t : Nat) : Fld := ⟨R.TEC_CFG t, 31, 16, 32768⟩
/-- TEC_SET_t.TEC_SET (R223). -/
abbrev TEC_SET.TEC_SET (t : Nat) : Fld := ⟨R.TEC_SET t, 15, 0, 6400⟩
/-- TEC_LIM_t.U_MIN (R223). -/
abbrev TEC_LIM.U_MIN (t : Nat) : Fld := ⟨R.TEC_LIM t, 15, 0, 32768⟩
/-- TEC_LIM_t.U_MAX (R223). -/
abbrev TEC_LIM.U_MAX (t : Nat) : Fld := ⟨R.TEC_LIM t, 31, 16, 32767⟩
/-- TEC_GAIN_t.KP_T (R223). -/
abbrev TEC_GAIN.KP_T (t : Nat) : Fld := ⟨R.TEC_GAIN t, 15, 0, 0⟩
/-- TEC_GAIN_t.KI_T (R223). -/
abbrev TEC_GAIN.KI_T (t : Nat) : Fld := ⟨R.TEC_GAIN t, 31, 16, 0⟩
/-- TEC_INTEG_t.TEC_INTEG (R223). -/
abbrev TEC_INTEG.TEC_INTEG (t : Nat) : Fld := ⟨R.TEC_INTEG t, 31, 0, 0⟩
/-- TEC_STAT_t.TEMP (R223). -/
abbrev TEC_STAT.TEMP (t : Nat) : Fld := ⟨R.TEC_STAT t, 15, 0, 0⟩
/-- TEC_STAT_t.HELD (R223). -/
abbrev TEC_STAT.HELD (t : Nat) : Fld := ⟨R.TEC_STAT t, 16, 16, 0⟩
/-- TEC_STAT_t.SAT (R223). -/
abbrev TEC_STAT.SAT (t : Nat) : Fld := ⟨R.TEC_STAT t, 17, 17, 0⟩
/-- TEC_STAT_t.SAFE (R223). -/
abbrev TEC_STAT.SAFE (t : Nat) : Fld := ⟨R.TEC_STAT t, 18, 18, 0⟩
/-- TEC_STAT_t.HOLD_CNT (R223). -/
abbrev TEC_STAT.HOLD_CNT (t : Nat) : Fld := ⟨R.TEC_STAT t, 31, 24, 0⟩
/-- SINE_CFG_s.EN (R223). -/
abbrev SINE_CFG.EN (s : Nat) : Fld := ⟨R.SINE_CFG s, 0, 0, 0⟩
/-- SINE_CFG_s.RUN (R223). -/
abbrev SINE_CFG.RUN (s : Nat) : Fld := ⟨R.SINE_CFG s, 1, 1, 0⟩
/-- SINE_FTW_s.FTW (R223). -/
abbrev SINE_FTW.FTW (s : Nat) : Fld := ⟨R.SINE_FTW s, 31, 0, 0⟩
/-- SINE_AMP_s.AMP (R223). -/
abbrev SINE_AMP.AMP (s : Nat) : Fld := ⟨R.SINE_AMP s, 15, 0, 0⟩
/-- SINE_AMP_s.OFFSET (R223). -/
abbrev SINE_AMP.OFFSET (s : Nat) : Fld := ⟨R.SINE_AMP s, 31, 16, 0⟩
/-- SINE_PHASE0_s.PHASE0 (R223). -/
abbrev SINE_PHASE0.PHASE0 (s : Nat) : Fld := ⟨R.SINE_PHASE0 s, 31, 0, 0⟩
/-- THERM_STAT.HOT (R246). -/
abbrev THERM_STAT.HOT : Fld := ⟨R.THERM_STAT, 15, 0, 0⟩
/-- THERM_STAT.HOT_SENS (R246). -/
abbrev THERM_STAT.HOT_SENS : Fld := ⟨R.THERM_STAT, 20, 16, 0⟩
/-- THERM_STAT.SUBST (R246). -/
abbrev THERM_STAT.SUBST : Fld := ⟨R.THERM_STAT, 21, 21, 0⟩
/-- THERM_STAT.WARN (R246). -/
abbrev THERM_STAT.WARN : Fld := ⟨R.THERM_STAT, 22, 22, 0⟩
/-- THERM_STAT.THROTTLE (R246). -/
abbrev THERM_STAT.THROTTLE : Fld := ⟨R.THERM_STAT, 23, 23, 0⟩
/-- THERM_STAT.SCAN (R246). -/
abbrev THERM_STAT.SCAN : Fld := ⟨R.THERM_STAT, 25, 24, 0⟩
/-- THERM_STAT.LEVEL (R246). -/
abbrev THERM_STAT.LEVEL : Fld := ⟨R.THERM_STAT, 30, 28, 0⟩
/-- THERM_STAT.LOWSENS (R246). -/
abbrev THERM_STAT.LOWSENS : Fld := ⟨R.THERM_STAT, 31, 31, 0⟩
/-- THERM_CFG.THR_STEP_MS (R246). -/
abbrev THERM_CFG.THR_STEP_MS : Fld := ⟨R.THERM_CFG, 7, 0, 10⟩
/-- THERM_CFG.THR_FALL (R246). -/
abbrev THERM_CFG.THR_FALL : Fld := ⟨R.THERM_CFG, 15, 8, 5⟩
/-- THERM_CFG.SHUT_RESTART (R246). -/
abbrev THERM_CFG.SHUT_RESTART : Fld := ⟨R.THERM_CFG, 16, 16, 1⟩
/-- THERM_CFG.RESTART_S (R246). -/
abbrev THERM_CFG.RESTART_S : Fld := ⟨R.THERM_CFG, 31, 24, 10⟩
/-- THERM_RETIRE.RETIRE (R246). -/
abbrev THERM_RETIRE.RETIRE : Fld := ⟨R.THERM_RETIRE, 23, 0, 0⟩
/-- THERM_FAIL.FAILED (R246). -/
abbrev THERM_FAIL.FAILED : Fld := ⟨R.THERM_FAIL, 23, 0, 0⟩
/-- THERM_CNT.THROTTLES (R246). -/
abbrev THERM_CNT.THROTTLES : Fld := ⟨R.THERM_CNT, 15, 0, 0⟩
/-- THERM_CNT.SHUTDOWNS (R246). -/
abbrev THERM_CNT.SHUTDOWNS : Fld := ⟨R.THERM_CNT, 31, 16, 0⟩
/-- BAND_CFG.BAND_T1 (R246). -/
abbrev BAND_CFG.BAND_T1 : Fld := ⟨R.BAND_CFG, 7, 0, 40⟩
/-- BAND_CFG.BAND_T2 (R246). -/
abbrev BAND_CFG.BAND_T2 : Fld := ⟨R.BAND_CFG, 15, 8, 60⟩
/-- BAND_CFG.BAND_T3 (R246). -/
abbrev BAND_CFG.BAND_T3 : Fld := ⟨R.BAND_CFG, 23, 16, 75⟩
/-- BAND_CFG.TILE_WARN_C (R246). -/
abbrev BAND_CFG.TILE_WARN_C : Fld := ⟨R.BAND_CFG, 31, 24, 85⟩
/-- THERM_SENS_n.TEMP (R246). -/
abbrev THERM_SENS.TEMP (n : Nat) : Fld := ⟨R.THERM_SENS n, 15, 0, 0⟩
/-- THERM_SENS_n.VALID (R246). -/
abbrev THERM_SENS.VALID (n : Nat) : Fld := ⟨R.THERM_SENS n, 16, 16, 0⟩
/-- THERM_SENS_n.FAILED (R246). -/
abbrev THERM_SENS.FAILED (n : Nat) : Fld := ⟨R.THERM_SENS n, 17, 17, 0⟩
/-- THERM_SENS_n.RETIRED (R246). -/
abbrev THERM_SENS.RETIRED (n : Nat) : Fld := ⟨R.THERM_SENS n, 18, 18, 0⟩
/-- TILE_TEMP_t.TEMP (R246). -/
abbrev TILE_TEMP.TEMP (t : Nat) : Fld := ⟨R.TILE_TEMP t, 15, 0, 0⟩
/-- TILE_TEMP_t.BAND (R246). -/
abbrev TILE_TEMP.BAND (t : Nat) : Fld := ⟨R.TILE_TEMP t, 17, 16, 0⟩
/-- TILE_TEMP_t.VALID (R246). -/
abbrev TILE_TEMP.VALID (t : Nat) : Fld := ⟨R.TILE_TEMP t, 18, 18, 0⟩
/-- TILE_TEMP_t.NVALID (R246). -/
abbrev TILE_TEMP.NVALID (t : Nat) : Fld := ⟨R.TILE_TEMP t, 28, 20, 0⟩
/-- TT_CAL_t.TT_SLOPE (R246). -/
abbrev TT_CAL.TT_SLOPE (t : Nat) : Fld := ⟨R.TT_CAL t, 15, 0, 0⟩
/-- TT_CAL_t.TT_OFS (R246). -/
abbrev TT_CAL.TT_OFS (t : Nat) : Fld := ⟨R.TT_CAL t, 31, 16, 0⟩
/-- SILT_CFG.EN (R246). -/
abbrev SILT_CFG.EN : Fld := ⟨R.SILT_CFG, 0, 0, 1⟩
/-- SILT_CFG.VID_AUTO (R246). -/
abbrev SILT_CFG.VID_AUTO : Fld := ⟨R.SILT_CFG, 1, 1, 1⟩
/-- SILT_CFG.SLACK_TARGET (R246). -/
abbrev SILT_CFG.SLACK_TARGET : Fld := ⟨R.SILT_CFG, 15, 8, 15⟩
/-- SILT_CFG.MOVE_MAX (R246). -/
abbrev SILT_CFG.MOVE_MAX : Fld := ⟨R.SILT_CFG, 23, 16, 64⟩
/-- SILT_CFG.HEADROOM_MIN (R246). -/
abbrev SILT_CFG.HEADROOM_MIN : Fld := ⟨R.SILT_CFG, 31, 24, 10⟩
/-- SILT_EOL.EOL_HOURS (R246). -/
abbrev SILT_EOL.EOL_HOURS : Fld := ⟨R.SILT_EOL, 31, 0, 0⟩
/-- SILT_HOURS.HOURS (R246). -/
abbrev SILT_HOURS.HOURS : Fld := ⟨R.SILT_HOURS, 31, 0, 0⟩
/-- SILT_STAT.STEP (R246). -/
abbrev SILT_STAT.STEP : Fld := ⟨R.SILT_STAT, 1, 0, 0⟩
/-- SILT_STAT.BELOW (R246). -/
abbrev SILT_STAT.BELOW : Fld := ⟨R.SILT_STAT, 4, 4, 0⟩
/-- SILT_STAT.LEAST_PROJ (R246). -/
abbrev SILT_STAT.LEAST_PROJ : Fld := ⟨R.SILT_STAT, 31, 16, 0⟩
/-- SILT_VID.VID_MV (R246). -/
abbrev SILT_VID.VID_MV : Fld := ⟨R.SILT_VID, 9, 0, 0⟩
/-- SILT_VID.VID_CEIL (R246). -/
abbrev SILT_VID.VID_CEIL : Fld := ⟨R.SILT_VID, 25, 16, 900⟩
/-- SILT_ASK.ASK_c (R246). -/
abbrev SILT_ASK.ASK (c : Nat) : Fld := ⟨R.SILT_ASK, 2 * c + 1, 2 * c, 3⟩
/-- SILT_CTRL.SAVE (R246). -/
abbrev SILT_CTRL.SAVE : Fld := ⟨R.SILT_CTRL, 0, 0, 0⟩
/-- SILT_CTRL.REPLAN (R246). -/
abbrev SILT_CTRL.REPLAN : Fld := ⟨R.SILT_CTRL, 1, 1, 0⟩
/-- SILT_CTRL.CELL_SEL (R246). -/
abbrev SILT_CTRL.CELL_SEL : Fld := ⟨R.SILT_CTRL, 31, 16, 0⟩
/-- SILT_CELL.D_NOW (R246). -/
abbrev SILT_CELL.D_NOW : Fld := ⟨R.SILT_CELL, 15, 0, 0⟩
/-- SILT_CELL.HEADROOM (R246). -/
abbrev SILT_CELL.HEADROOM : Fld := ⟨R.SILT_CELL, 27, 16, 0⟩
/-- SILT_CELL.DRIFT (R246). -/
abbrev SILT_CELL.DRIFT : Fld := ⟨R.SILT_CELL, 28, 28, 0⟩
/-- SILT_CELL.RECENTRED (R246). -/
abbrev SILT_CELL.RECENTRED : Fld := ⟨R.SILT_CELL, 29, 29, 0⟩
/-- SILT_CELL.NO_DATA (R246). -/
abbrev SILT_CELL.NO_DATA : Fld := ⟨R.SILT_CELL, 30, 30, 1⟩
/-- SILT_CELL.NO_ROOM (R246). -/
abbrev SILT_CELL.NO_ROOM : Fld := ⟨R.SILT_CELL, 31, 31, 0⟩
/-- SILT_DRIFT.FLAGGED (R246). -/
abbrev SILT_DRIFT.FLAGGED : Fld := ⟨R.SILT_DRIFT, 15, 0, 0⟩
/-- SILT_DRIFT.RECENTRED (R246). -/
abbrev SILT_DRIFT.RECENTRED : Fld := ⟨R.SILT_DRIFT, 31, 16, 0⟩
/-- SILT_ENG_e.A_NOW (R246). -/
abbrev SILT_ENG.A_NOW (e : Nat) : Fld := ⟨R.SILT_ENG e, 15, 0, 0⟩
/-- SILT_ENG_e.PROJ (R246). -/
abbrev SILT_ENG.PROJ (e : Nat) : Fld := ⟨R.SILT_ENG e, 31, 16, 0⟩
/-- MAC_CTRL.TX_EN (R270). -/
abbrev MAC_CTRL.TX_EN (k : Nat) : Fld := ⟨R.MAC_CTRL k, 0, 0, 1⟩
/-- MAC_CTRL.RX_EN (R270). -/
abbrev MAC_CTRL.RX_EN (k : Nat) : Fld := ⟨R.MAC_CTRL k, 1, 1, 1⟩
/-- MAC_CTRL.PAUSE_RX_EN (R270). -/
abbrev MAC_CTRL.PAUSE_RX_EN (k : Nat) : Fld := ⟨R.MAC_CTRL k, 2, 2, 1⟩
/-- MAC_CTRL.PAUSE_TX_EN (R270). -/
abbrev MAC_CTRL.PAUSE_TX_EN (k : Nat) : Fld := ⟨R.MAC_CTRL k, 3, 3, 0⟩
/-- MAC_CTRL.VLAN_ACCEPT (R270). -/
abbrev MAC_CTRL.VLAN_ACCEPT (k : Nat) : Fld := ⟨R.MAC_CTRL k, 5, 4, 0⟩
/-- MAC_CTRL.UDP0_ACCEPT (R270). -/
abbrev MAC_CTRL.UDP0_ACCEPT (k : Nat) : Fld := ⟨R.MAC_CTRL k, 6, 6, 1⟩
/-- MAC_CTRL.MCAST_EN (R270). -/
abbrev MAC_CTRL.MCAST_EN (k : Nat) : Fld := ⟨R.MAC_CTRL k, 11, 8, 7⟩
/-- MAC_CTRL.TX_MAX (R270). -/
abbrev MAC_CTRL.TX_MAX (k : Nat) : Fld := ⟨R.MAC_CTRL k, 29, 16, 1522⟩
/-- MAC_STAT.LINK (R270). -/
abbrev MAC_STAT.LINK (k : Nat) : Fld := ⟨R.MAC_STAT k, 0, 0, 0⟩
/-- MAC_STAT.BLOCK_LOCK (R270). -/
abbrev MAC_STAT.BLOCK_LOCK (k : Nat) : Fld := ⟨R.MAC_STAT k, 1, 1, 0⟩
/-- MAC_STAT.HI_BER (R270). -/
abbrev MAC_STAT.HI_BER (k : Nat) : Fld := ⟨R.MAC_STAT k, 2, 2, 0⟩
/-- MAC_STAT.LOCAL_FAULT (R270). -/
abbrev MAC_STAT.LOCAL_FAULT (k : Nat) : Fld := ⟨R.MAC_STAT k, 3, 3, 0⟩
/-- MAC_STAT.REMOTE_FAULT (R270). -/
abbrev MAC_STAT.REMOTE_FAULT (k : Nat) : Fld := ⟨R.MAC_STAT k, 4, 4, 0⟩
/-- MAC_STAT.TX_PAUSED (R270). -/
abbrev MAC_STAT.TX_PAUSED (k : Nat) : Fld := ⟨R.MAC_STAT k, 5, 5, 0⟩
/-- MAC_STAT.LINK_DOWNS (R270). -/
abbrev MAC_STAT.LINK_DOWNS (k : Nat) : Fld := ⟨R.MAC_STAT k, 31, 16, 0⟩
/-- MAC_ADDR_LO.ADDR_LO (R270). -/
abbrev MAC_ADDR_LO.ADDR_LO (k : Nat) : Fld := ⟨R.MAC_ADDR_LO k, 31, 0, 0⟩
/-- MAC_ADDR_HI.ADDR_HI (R270). -/
abbrev MAC_ADDR_HI.ADDR_HI (k : Nat) : Fld := ⟨R.MAC_ADDR_HI k, 15, 0, 0⟩
/-- PAUSE_CFG.PAUSE_TIME (R270). -/
abbrev PAUSE_CFG.PAUSE_TIME (k : Nat) : Fld := ⟨R.PAUSE_CFG k, 15, 0, 65535⟩
/-- PAUSE_CFG.XOFF_KIB (R270). -/
abbrev PAUSE_CFG.XOFF_KIB (k : Nat) : Fld := ⟨R.PAUSE_CFG k, 23, 16, 160⟩
/-- PAUSE_CFG.XON_KIB (R270). -/
abbrev PAUSE_CFG.XON_KIB (k : Nat) : Fld := ⟨R.PAUSE_CFG k, 31, 24, 96⟩
/-- PAUSE_STAT.PAUSE_RX (R270). -/
abbrev PAUSE_STAT.PAUSE_RX (k : Nat) : Fld := ⟨R.PAUSE_STAT k, 15, 0, 0⟩
/-- PAUSE_STAT.PAUSE_TX (R270). -/
abbrev PAUSE_STAT.PAUSE_TX (k : Nat) : Fld := ⟨R.PAUSE_STAT k, 31, 16, 0⟩
/-- RX_OK.COUNT (R270). -/
abbrev RX_OK.COUNT (k : Nat) : Fld := ⟨R.RX_OK k, 31, 0, 0⟩
/-- TX_OK.COUNT (R270). -/
abbrev TX_OK.COUNT (k : Nat) : Fld := ⟨R.TX_OK k, 31, 0, 0⟩
/-- RX_DROP_A.RUNT (R270). -/
abbrev RX_DROP_A.RUNT (k : Nat) : Fld := ⟨R.RX_DROP_A k, 15, 0, 0⟩
/-- RX_DROP_A.OVERSIZE (R270). -/
abbrev RX_DROP_A.OVERSIZE (k : Nat) : Fld := ⟨R.RX_DROP_A k, 31, 16, 0⟩
/-- RX_DROP_B.FCS (R270). -/
abbrev RX_DROP_B.FCS (k : Nat) : Fld := ⟨R.RX_DROP_B k, 15, 0, 0⟩
/-- RX_DROP_B.ADDR (R270). -/
abbrev RX_DROP_B.ADDR (k : Nat) : Fld := ⟨R.RX_DROP_B k, 31, 16, 0⟩
/-- RX_DROP_C.VLAN (R270). -/
abbrev RX_DROP_C.VLAN (k : Nat) : Fld := ⟨R.RX_DROP_C k, 15, 0, 0⟩
/-- RX_DROP_C.MACCTL (R270). -/
abbrev RX_DROP_C.MACCTL (k : Nat) : Fld := ⟨R.RX_DROP_C k, 31, 16, 0⟩
/-- RX_DROP_D.IP_ERR (R270). -/
abbrev RX_DROP_D.IP_ERR (k : Nat) : Fld := ⟨R.RX_DROP_D k, 15, 0, 0⟩
/-- RX_DROP_D.UDP_ERR (R270). -/
abbrev RX_DROP_D.UDP_ERR (k : Nat) : Fld := ⟨R.RX_DROP_D k, 31, 16, 0⟩
/-- RX_DROP_E.FRAG (R270). -/
abbrev RX_DROP_E.FRAG (k : Nat) : Fld := ⟨R.RX_DROP_E k, 15, 0, 0⟩
/-- RX_DROP_E.FILTER (R270). -/
abbrev RX_DROP_E.FILTER (k : Nat) : Fld := ⟨R.RX_DROP_E k, 31, 16, 0⟩
/-- RX_DROP_F.QFULL (R270). -/
abbrev RX_DROP_F.QFULL (k : Nat) : Fld := ⟨R.RX_DROP_F k, 15, 0, 0⟩
/-- RX_DROP_F.FIFO (R270). -/
abbrev RX_DROP_F.FIFO (k : Nat) : Fld := ⟨R.RX_DROP_F k, 31, 16, 0⟩
/-- TX_DROP.LINKDOWN (R270). -/
abbrev TX_DROP.LINKDOWN (k : Nat) : Fld := ⟨R.TX_DROP k, 15, 0, 0⟩
/-- RULE_CTL_n.EN (R270). -/
abbrev RULE_CTL.EN (n : Nat) : Fld := ⟨R.RULE_CTL n, 0, 0, if n < 8 then 1 else 0⟩
/-- RULE_CTL_n.PORT_A (R270). -/
abbrev RULE_CTL.PORT_A (n : Nat) : Fld := ⟨R.RULE_CTL n, 1, 1, if n < 8 then 1 else 0⟩
/-- RULE_CTL_n.PORT_B (R270). -/
abbrev RULE_CTL.PORT_B (n : Nat) : Fld := ⟨R.RULE_CTL n, 2, 2, if n < 8 then 1 else 0⟩
/-- RULE_CTL_n.QUEUE (R270). -/
abbrev RULE_CTL.QUEUE (n : Nat) : Fld := ⟨R.RULE_CTL n, 6, 4, ruleQueueReset n⟩
/-- RULE_CTL_n.DROP (R270). -/
abbrev RULE_CTL.DROP (n : Nat) : Fld := ⟨R.RULE_CTL n, 7, 7, 0⟩
/-- RULE_CTL_n.M_TAG (R270). -/
abbrev RULE_CTL.M_TAG (n : Nat) : Fld := ⟨R.RULE_CTL n, 8, 8, 0⟩
/-- RULE_CTL_n.TAG (R270). -/
abbrev RULE_CTL.TAG (n : Nat) : Fld := ⟨R.RULE_CTL n, 9, 9, 0⟩
/-- RULE_CTL_n.M_VID (R270). -/
abbrev RULE_CTL.M_VID (n : Nat) : Fld := ⟨R.RULE_CTL n, 10, 10, 0⟩
/-- RULE_CTL_n.M_PCP (R270). -/
abbrev RULE_CTL.M_PCP (n : Nat) : Fld := ⟨R.RULE_CTL n, 11, 11, 0⟩
/-- RULE_CTL_n.M_ETYPE (R270). -/
abbrev RULE_CTL.M_ETYPE (n : Nat) : Fld := ⟨R.RULE_CTL n, 12, 12, ruleMEtypeReset n⟩
/-- RULE_CTL_n.M_IPV (R270). -/
abbrev RULE_CTL.M_IPV (n : Nat) : Fld := ⟨R.RULE_CTL n, 13, 13, ruleMIpReset n⟩
/-- RULE_CTL_n.M_PROTO (R270). -/
abbrev RULE_CTL.M_PROTO (n : Nat) : Fld := ⟨R.RULE_CTL n, 14, 14, ruleMIpReset n⟩
/-- RULE_CTL_n.M_UDP (R270). -/
abbrev RULE_CTL.M_UDP (n : Nat) : Fld := ⟨R.RULE_CTL n, 15, 15, ruleMUdpReset n⟩
/-- RULE_L2_n.VID (R270). -/
abbrev RULE_L2.VID (n : Nat) : Fld := ⟨R.RULE_L2 n, 11, 0, 0⟩
/-- RULE_L2_n.PCP (R270). -/
abbrev RULE_L2.PCP (n : Nat) : Fld := ⟨R.RULE_L2 n, 14, 12, 0⟩
/-- RULE_L2_n.ETYPE (R270). -/
abbrev RULE_L2.ETYPE (n : Nat) : Fld := ⟨R.RULE_L2 n, 31, 16, ruleEtypeReset n⟩
/-- RULE_L3_n.IPV (R270). -/
abbrev RULE_L3.IPV (n : Nat) : Fld := ⟨R.RULE_L3 n, 0, 0, ruleIpvReset n⟩
/-- RULE_L3_n.PROTO (R270). -/
abbrev RULE_L3.PROTO (n : Nat) : Fld := ⟨R.RULE_L3 n, 15, 8, ruleProtoReset n⟩
/-- RULE_L3_n.UDP_DPORT (R270). -/
abbrev RULE_L3.UDP_DPORT (n : Nat) : Fld := ⟨R.RULE_L3 n, 31, 16, ruleUdpReset n⟩
/-- RULE_HITS_n.HITS (R270). -/
abbrev RULE_HITS.HITS (n : Nat) : Fld := ⟨R.RULE_HITS n, 31, 0, 0⟩
/-- RX_DEFAULT.QUEUE (R270). -/
abbrev RX_DEFAULT.QUEUE : Fld := ⟨R.RX_DEFAULT, 2, 0, 1⟩
/-- RX_DEFAULT.DROP (R270). -/
abbrev RX_DEFAULT.DROP : Fld := ⟨R.RX_DEFAULT, 3, 3, 1⟩
/-- RXQ_q.DEPTH (R270). -/
abbrev RXQ.DEPTH (q : Nat) : Fld := ⟨R.RXQ q, 9, 0, 128⟩
/-- RXQ_q.FILL (R270). -/
abbrev RXQ.FILL (q : Nat) : Fld := ⟨R.RXQ q, 25, 16, 0⟩
/-- TETH_CTRL.EN (R272). -/
abbrev TETH_CTRL.EN : Fld := ⟨R.TETH_CTRL, 0, 0, 1⟩
/-- TETH_CTRL.PLCA_EN (R272). -/
abbrev TETH_CTRL.PLCA_EN : Fld := ⟨R.TETH_CTRL, 1, 1, 0⟩
/-- TETH_CTRL.PLCA_ID (R272). -/
abbrev TETH_CTRL.PLCA_ID : Fld := ⟨R.TETH_CTRL, 4, 2, 0⟩
/-- TETH_CTRL.NODE_CNT (R272). -/
abbrev TETH_CTRL.NODE_CNT : Fld := ⟨R.TETH_CTRL, 11, 8, 2⟩
/-- TETH_CTRL.TO_TIMER (R272). -/
abbrev TETH_CTRL.TO_TIMER : Fld := ⟨R.TETH_CTRL, 23, 16, 32⟩
/-- TETH_STAT.PLCA_ACTIVE (R272). -/
abbrev TETH_STAT.PLCA_ACTIVE : Fld := ⟨R.TETH_STAT, 0, 0, 0⟩
/-- TETH_ADDR_LO.ADDR_LO (R272). -/
abbrev TETH_ADDR_LO.ADDR_LO : Fld := ⟨R.TETH_ADDR_LO, 31, 0, 0⟩
/-- TETH_ADDR_HI.ADDR_HI (R272). -/
abbrev TETH_ADDR_HI.ADDR_HI : Fld := ⟨R.TETH_ADDR_HI, 15, 0, 0⟩
/-- TETH_CNT_A.TX_OK (R272). -/
abbrev TETH_CNT_A.TX_OK : Fld := ⟨R.TETH_CNT_A, 15, 0, 0⟩
/-- TETH_CNT_A.RX_OK (R272). -/
abbrev TETH_CNT_A.RX_OK : Fld := ⟨R.TETH_CNT_A, 31, 16, 0⟩
/-- TETH_CNT_B.COLLISIONS (R272). -/
abbrev TETH_CNT_B.COLLISIONS : Fld := ⟨R.TETH_CNT_B, 15, 0, 0⟩
/-- TETH_CNT_B.LATE (R272). -/
abbrev TETH_CNT_B.LATE : Fld := ⟨R.TETH_CNT_B, 31, 16, 0⟩
/-- TETH_CNT_C.EXCESSIVE (R272). -/
abbrev TETH_CNT_C.EXCESSIVE : Fld := ⟨R.TETH_CNT_C, 15, 0, 0⟩
/-- TETH_CNT_C.SUPERSEDED (R272). -/
abbrev TETH_CNT_C.SUPERSEDED : Fld := ⟨R.TETH_CNT_C, 31, 16, 0⟩
/-- TETH_CNT_D.RX_ERR (R272). -/
abbrev TETH_CNT_D.RX_ERR : Fld := ⟨R.TETH_CNT_D, 15, 0, 0⟩
/-- TETH_CNT_D.RX_OTHER (R272). -/
abbrev TETH_CNT_D.RX_OTHER : Fld := ⟨R.TETH_CNT_D, 31, 16, 0⟩
/-- CHEDA_CFG.UDP_PORT (R303). -/
abbrev CHEDA_CFG.UDP_PORT : Fld := ⟨R.CHEDA_CFG, 15, 0, 47102⟩
/-- CHEDA_CFG.REPLY_WAIT (R303). -/
abbrev CHEDA_CFG.REPLY_WAIT : Fld := ⟨R.CHEDA_CFG, 23, 16, 10⟩
/-- CHEDA_CFG.COMPLETE_WAIT (R303). -/
abbrev CHEDA_CFG.COMPLETE_WAIT : Fld := ⟨R.CHEDA_CFG, 31, 24, 5⟩
/-- CHEDA_TMO.IDLE_S (R303). -/
abbrev CHEDA_TMO.IDLE_S : Fld := ⟨R.CHEDA_TMO, 15, 0, 60⟩
/-- CHEDA_TMO.TXN_IDLE_S (R303). -/
abbrev CHEDA_TMO.TXN_IDLE_S : Fld := ⟨R.CHEDA_TMO, 31, 16, 10⟩
/-- CHEDA_IP4_p.ADDR (R303). -/
abbrev CHEDA_IP4.ADDR (p : Nat) : Fld := ⟨R.CHEDA_IP4 p, 31, 0, 0⟩
/-- CHEDA_IP6_p_n.ADDR (R303). -/
abbrev CHEDA_IP6.ADDR (p : Nat) (w : Nat) : Fld := ⟨R.CHEDA_IP6 p w, 31, 0, 0⟩
/-- CHEDA_STAT.SESSIONS (R303). -/
abbrev CHEDA_STAT.SESSIONS : Fld := ⟨R.CHEDA_STAT, 4, 0, 0⟩
/-- CHEDA_STAT.TXN_OPEN (R303). -/
abbrev CHEDA_STAT.TXN_OPEN : Fld := ⟨R.CHEDA_STAT, 8, 8, 0⟩
/-- CHEDA_STAT.TXN_SESSION (R303). -/
abbrev CHEDA_STAT.TXN_SESSION : Fld := ⟨R.CHEDA_STAT, 20, 16, 0⟩
/-- CHEDA_CNT_A.BAD_PACKET (R303). -/
abbrev CHEDA_CNT_A.BAD_PACKET : Fld := ⟨R.CHEDA_CNT_A, 15, 0, 0⟩
/-- CHEDA_CNT_A.AUTH_FAIL (R303). -/
abbrev CHEDA_CNT_A.AUTH_FAIL : Fld := ⟨R.CHEDA_CNT_A, 31, 16, 0⟩
/-- CHEDA_CNT_B.DUPLICATES (R303). -/
abbrev CHEDA_CNT_B.DUPLICATES : Fld := ⟨R.CHEDA_CNT_B, 15, 0, 0⟩
/-- CHEDA_CNT_B.STALE (R303). -/
abbrev CHEDA_CNT_B.STALE : Fld := ⟨R.CHEDA_CNT_B, 31, 16, 0⟩
/-- CHEDA_CNT_C.ITEMS (R303). -/
abbrev CHEDA_CNT_C.ITEMS : Fld := ⟨R.CHEDA_CNT_C, 31, 0, 0⟩
/-- CHEDA_CNT_D.PROOF_FAIL (R303). -/
abbrev CHEDA_CNT_D.PROOF_FAIL : Fld := ⟨R.CHEDA_CNT_D, 15, 0, 0⟩
/-- CHEDA_CNT_D.BAD_DST (R303). -/
abbrev CHEDA_CNT_D.BAD_DST : Fld := ⟨R.CHEDA_CNT_D, 31, 16, 0⟩
/-- CHEDA_CNT_E.COMPLETIONS (R303). -/
abbrev CHEDA_CNT_E.COMPLETIONS : Fld := ⟨R.CHEDA_CNT_E, 15, 0, 0⟩
/-- CHEDA_CNT_E.REFERRED (R303). -/
abbrev CHEDA_CNT_E.REFERRED : Fld := ⟨R.CHEDA_CNT_E, 31, 16, 0⟩
/-- EQ_CFG_p_q.STRICT (R319). -/
abbrev EQ_CFG.STRICT (p : Nat) (q : Nat) : Fld := ⟨R.EQ_CFG p q, 0, 0, eqStrictReset q⟩
/-- EQ_CFG_p_q.LIMIT_KIB (R319). -/
abbrev EQ_CFG.LIMIT_KIB (p : Nat) (q : Nat) : Fld := ⟨R.EQ_CFG p q, 11, 4, eqLimitReset q⟩
/-- EQ_CFG_p_q.QUANTUM (R319). -/
abbrev EQ_CFG.QUANTUM (p : Nat) (q : Nat) : Fld := ⟨R.EQ_CFG p q, 31, 16, eqQuantumReset q⟩
/-- EQ_SHAPE_p_q.RATE (R319). -/
abbrev EQ_SHAPE.RATE (p : Nat) (q : Nat) : Fld := ⟨R.EQ_SHAPE p q, 13, 0, 0⟩
/-- EQ_SHAPE_p_q.BURST (R319). -/
abbrev EQ_SHAPE.BURST (p : Nat) (q : Nat) : Fld := ⟨R.EQ_SHAPE p q, 31, 16, 18432⟩
/-- EQ_TAG_p_q.TAG_EN (R319). -/
abbrev EQ_TAG.TAG_EN (p : Nat) (q : Nat) : Fld := ⟨R.EQ_TAG p q, 0, 0, 0⟩
/-- EQ_TAG_p_q.VID (R319). -/
abbrev EQ_TAG.VID (p : Nat) (q : Nat) : Fld := ⟨R.EQ_TAG p q, 15, 4, 0⟩
/-- EQ_TAG_p_q.PCP (R319). -/
abbrev EQ_TAG.PCP (p : Nat) (q : Nat) : Fld := ⟨R.EQ_TAG p q, 18, 16, eqPcpReset q⟩
/-- EQ_STAT_p_q.FILL (R319). -/
abbrev EQ_STAT.FILL (p : Nat) (q : Nat) : Fld := ⟨R.EQ_STAT p q, 17, 0, 0⟩
/-- EQ_STAT_p_q.GATE (R319). -/
abbrev EQ_STAT.GATE (p : Nat) (q : Nat) : Fld := ⟨R.EQ_STAT p q, 24, 24, 1⟩
/-- EQ_STAT_p_q.SHAPED (R319). -/
abbrev EQ_STAT.SHAPED (p : Nat) (q : Nat) : Fld := ⟨R.EQ_STAT p q, 25, 25, 0⟩
/-- EQ_DROP_p_q.TAIL (R319). -/
abbrev EQ_DROP.TAIL (p : Nat) (q : Nat) : Fld := ⟨R.EQ_DROP p q, 15, 0, 0⟩
/-- EQ_DROP_p_q.PUSHED (R319). -/
abbrev EQ_DROP.PUSHED (p : Nat) (q : Nat) : Fld := ⟨R.EQ_DROP p q, 31, 16, 0⟩
/-- EQ_TX_p_q.COUNT (R319). -/
abbrev EQ_TX.COUNT (p : Nat) (q : Nat) : Fld := ⟨R.EQ_TX p q, 31, 0, 0⟩
/-- GCL_STAT_p.ENTRY (R319). -/
abbrev GCL_STAT.ENTRY (p : Nat) : Fld := ⟨R.GCL_STAT p, 5, 0, 0⟩
/-- GCL_STAT_p.OPER (R319). -/
abbrev GCL_STAT.OPER (p : Nat) : Fld := ⟨R.GCL_STAT p, 8, 8, 0⟩
/-- GCL_STAT_p.AWAIT (R319). -/
abbrev GCL_STAT.AWAIT (p : Nat) : Fld := ⟨R.GCL_STAT p, 9, 9, 0⟩
/-- GCL_STAT_p.LATE_CNT (R319). -/
abbrev GCL_STAT.LATE_CNT (p : Nat) : Fld := ⟨R.GCL_STAT p, 31, 16, 0⟩
/-- GCL_START_LO_p.START_LO (R319). -/
abbrev GCL_START_LO.START_LO (p : Nat) : Fld := ⟨R.GCL_START_LO p, 31, 0, 0⟩
/-- GCL_START_HI_p.START_HI (R319). -/
abbrev GCL_START_HI.START_HI (p : Nat) : Fld := ⟨R.GCL_START_HI p, 31, 0, 0⟩
/-- GCL_CYCLES_p.CYCLES (R319). -/
abbrev GCL_CYCLES.CYCLES (p : Nat) : Fld := ⟨R.GCL_CYCLES p, 31, 0, 0⟩
/-- GCL_DROP_p.NOFIT (R319). -/
abbrev GCL_DROP.NOFIT (p : Nat) : Fld := ⟨R.GCL_DROP p, 15, 0, 0⟩
/-- POL_CFG_q.MODE (R321). -/
abbrev POL_CFG.MODE (q : Nat) : Fld := ⟨R.POL_CFG q, 1, 0, 0⟩
/-- POL_CFG_q.AWARE (R321). -/
abbrev POL_CFG.AWARE (q : Nat) : Fld := ⟨R.POL_CFG q, 2, 2, 0⟩
/-- POL_CFG_q.YELLOW_FILL (R321). -/
abbrev POL_CFG.YELLOW_FILL (q : Nat) : Fld := ⟨R.POL_CFG q, 25, 16, 512⟩
/-- POL_RATE_q.CIR (R321). -/
abbrev POL_RATE.CIR (q : Nat) : Fld := ⟨R.POL_RATE q, 13, 0, 0⟩
/-- POL_RATE_q.PIR (R321). -/
abbrev POL_RATE.PIR (q : Nat) : Fld := ⟨R.POL_RATE q, 29, 16, 0⟩
/-- POL_CBS_q.CBS (R321). -/
abbrev POL_CBS.CBS (q : Nat) : Fld := ⟨R.POL_CBS q, 31, 0, 18432⟩
/-- POL_EBS_q.EBS (R321). -/
abbrev POL_EBS.EBS (q : Nat) : Fld := ⟨R.POL_EBS q, 31, 0, 18432⟩
/-- POL_GREEN_q.COUNT (R321). -/
abbrev POL_GREEN.COUNT (q : Nat) : Fld := ⟨R.POL_GREEN q, 31, 0, 0⟩
/-- POL_YELLOW_q.COUNT (R321). -/
abbrev POL_YELLOW.COUNT (q : Nat) : Fld := ⟨R.POL_YELLOW q, 31, 0, 0⟩
/-- POL_RED_q.COUNT (R321). -/
abbrev POL_RED.COUNT (q : Nat) : Fld := ⟨R.POL_RED q, 31, 0, 0⟩
/-- POL_DROP_q.YELLOW_DROP (R321). -/
abbrev POL_DROP.YELLOW_DROP (q : Nat) : Fld := ⟨R.POL_DROP q, 15, 0, 0⟩
/-- POL_DROP_q.RED_DROP (R321). -/
abbrev POL_DROP.RED_DROP (q : Nat) : Fld := ⟨R.POL_DROP q, 31, 16, 0⟩
/-- TIME_CFG.SRC (R337). -/
abbrev TIME_CFG.SRC : Fld := ⟨R.TIME_CFG, 1, 0, 0⟩
/-- TIME_CFG.REF_AUTO (R337). -/
abbrev TIME_CFG.REF_AUTO : Fld := ⟨R.TIME_CFG, 4, 4, 1⟩
/-- TIME_CFG.PTP_PORT (R337). -/
abbrev TIME_CFG.PTP_PORT : Fld := ⟨R.TIME_CFG, 8, 8, 0⟩
/-- TIME_CFG.PTP_FALLBACK (R337). -/
abbrev TIME_CFG.PTP_FALLBACK : Fld := ⟨R.TIME_CFG, 9, 9, 1⟩
/-- TIME_CFG.SLAVE_ONLY (R337). -/
abbrev TIME_CFG.SLAVE_ONLY : Fld := ⟨R.TIME_CFG, 12, 12, 1⟩
/-- TIME_CFG.DELAY_MECH (R337). -/
abbrev TIME_CFG.DELAY_MECH : Fld := ⟨R.TIME_CFG, 13, 13, 0⟩
/-- TIME_CFG.TRANSPORT (R337). -/
abbrev TIME_CFG.TRANSPORT : Fld := ⟨R.TIME_CFG, 15, 14, 0⟩
/-- TIME_CFG.DOMAIN (R337). -/
abbrev TIME_CFG.DOMAIN : Fld := ⟨R.TIME_CFG, 23, 16, 0⟩
/-- TIME_CFG.RELOCK (R337). -/
abbrev TIME_CFG.RELOCK : Fld := ⟨R.TIME_CFG, 31, 31, 0⟩
/-- SERVO_CFG.SLEW_PPB (R337). -/
abbrev SERVO_CFG.SLEW_PPB : Fld := ⟨R.SERVO_CFG, 17, 0, 200000⟩
/-- SERVO_CFG.BIG_NS (R337). -/
abbrev SERVO_CFG.BIG_NS : Fld := ⟨R.SERVO_CFG, 31, 20, 1000⟩
/-- SERVO_LIM.STEP_MIN_NS (R337). -/
abbrev SERVO_LIM.STEP_MIN_NS : Fld := ⟨R.SERVO_LIM, 15, 0, 1000⟩
/-- SERVO_LIM.LOCK_NS (R337). -/
abbrev SERVO_LIM.LOCK_NS : Fld := ⟨R.SERVO_LIM, 31, 16, 100⟩
/-- PTP_PRIO.PRIORITY1 (R337). -/
abbrev PTP_PRIO.PRIORITY1 : Fld := ⟨R.PTP_PRIO, 7, 0, 128⟩
/-- PTP_PRIO.PRIORITY2 (R337). -/
abbrev PTP_PRIO.PRIORITY2 : Fld := ⟨R.PTP_PRIO, 15, 8, 128⟩
/-- PTP_PRIO.LOG_SYNC (R337). -/
abbrev PTP_PRIO.LOG_SYNC : Fld := ⟨R.PTP_PRIO, 19, 16, 0xD⟩
/-- PTP_PRIO.LOG_ANNOUNCE (R337). -/
abbrev PTP_PRIO.LOG_ANNOUNCE : Fld := ⟨R.PTP_PRIO, 23, 20, 1⟩
/-- PTP_PRIO.LOG_DELAY_REQ (R337). -/
abbrev PTP_PRIO.LOG_DELAY_REQ : Fld := ⟨R.PTP_PRIO, 27, 24, 0⟩
/-- TIME_STAT.SERVO (R337). -/
abbrev TIME_STAT.SERVO : Fld := ⟨R.TIME_STAT, 2, 0, 0⟩
/-- TIME_STAT.REF (R337). -/
abbrev TIME_STAT.REF : Fld := ⟨R.TIME_STAT, 4, 4, 0⟩
/-- TIME_STAT.PORT_STATE (R337). -/
abbrev TIME_STAT.PORT_STATE : Fld := ⟨R.TIME_STAT, 11, 8, 1⟩
/-- TIME_STAT.STEP_DONE (R337). -/
abbrev TIME_STAT.STEP_DONE : Fld := ⟨R.TIME_STAT, 12, 12, 0⟩
/-- TIME_STAT.STEP_PEND (R337). -/
abbrev TIME_STAT.STEP_PEND : Fld := ⟨R.TIME_STAT, 13, 13, 0⟩
/-- TIME_STAT.UTC_OFFSET (R337). -/
abbrev TIME_STAT.UTC_OFFSET : Fld := ⟨R.TIME_STAT, 31, 16, 0⟩
/-- OFFSET_NOW.OFFSET (R337). -/
abbrev OFFSET_NOW.OFFSET : Fld := ⟨R.OFFSET_NOW, 31, 0, 0⟩
/-- FREQ_ADJ.ADJ (R337). -/
abbrev FREQ_ADJ.ADJ : Fld := ⟨R.FREQ_ADJ, 31, 0, 0⟩
/-- PATH_DELAY.DELAY (R337). -/
abbrev PATH_DELAY.DELAY : Fld := ⟨R.PATH_DELAY, 31, 0, 0⟩
/-- TB_NS_LO.VAL (R337). -/
abbrev TB_NS_LO.VAL : Fld := ⟨R.TB_NS_LO, 31, 0, 0⟩
/-- TB_NS_HI.VAL (R337). -/
abbrev TB_NS_HI.VAL : Fld := ⟨R.TB_NS_HI, 31, 0, 0⟩
/-- PTP_NOW_LO.VAL (R337). -/
abbrev PTP_NOW_LO.VAL : Fld := ⟨R.PTP_NOW_LO, 31, 0, 0⟩
/-- PTP_NOW_HI.VAL (R337). -/
abbrev PTP_NOW_HI.VAL : Fld := ⟨R.PTP_NOW_HI, 31, 0, 0⟩
/-- PTP_OFS_LO.VAL (R337). -/
abbrev PTP_OFS_LO.VAL : Fld := ⟨R.PTP_OFS_LO, 31, 0, 0⟩
/-- PTP_OFS_HI.VAL (R337). -/
abbrev PTP_OFS_HI.VAL : Fld := ⟨R.PTP_OFS_HI, 31, 0, 0⟩
/-- PICK_PTP_LO.VAL (R337). -/
abbrev PICK_PTP_LO.VAL : Fld := ⟨R.PICK_PTP_LO, 31, 0, 0⟩
/-- PICK_PTP_HI.VAL (R337). -/
abbrev PICK_PTP_HI.VAL : Fld := ⟨R.PICK_PTP_HI, 31, 0, 0⟩
/-- TS_CORR_p.RX_CORR (R337). -/
abbrev TS_CORR.RX_CORR (p : Nat) : Fld := ⟨R.TS_CORR p, 15, 0, 0⟩
/-- TS_CORR_p.TX_CORR (R337). -/
abbrev TS_CORR.TX_CORR (p : Nat) : Fld := ⟨R.TS_CORR p, 31, 16, 0⟩
/-- PPS_CFG.PPS_OFS_NS (R337). -/
abbrev PPS_CFG.PPS_OFS_NS : Fld := ⟨R.PPS_CFG, 31, 0, 0⟩
/-- PPS_TS_LO.VAL (R337). -/
abbrev PPS_TS_LO.VAL : Fld := ⟨R.PPS_TS_LO, 31, 0, 0⟩
/-- PPS_TS_HI.VAL (R337). -/
abbrev PPS_TS_HI.VAL : Fld := ⟨R.PPS_TS_HI, 31, 0, 0⟩
/-- PTP_CNT.IGNORED (R337). -/
abbrev PTP_CNT.IGNORED : Fld := ⟨R.PTP_CNT, 15, 0, 0⟩
/-- PTP_CNT.STEPS (R337). -/
abbrev PTP_CNT.STEPS : Fld := ⟨R.PTP_CNT, 31, 16, 0⟩
/-- PULSE_CFG_n.MODE (R337). -/
abbrev PULSE_CFG.MODE (n : Nat) : Fld := ⟨R.PULSE_CFG n, 1, 0, 0⟩
/-- PULSE_CFG_n.POL (R337). -/
abbrev PULSE_CFG.POL (n : Nat) : Fld := ⟨R.PULSE_CFG n, 2, 2, 1⟩
/-- PULSE_START_LO_n.START (R337). -/
abbrev PULSE_START_LO.START (n : Nat) : Fld := ⟨R.PULSE_START_LO n, 31, 0, 0⟩
/-- PULSE_START_HI_n.START (R337). -/
abbrev PULSE_START_HI.START (n : Nat) : Fld := ⟨R.PULSE_START_HI n, 31, 0, 0⟩
/-- PULSE_PERIOD_n.PERIOD_NS (R337). -/
abbrev PULSE_PERIOD.PERIOD_NS (n : Nat) : Fld := ⟨R.PULSE_PERIOD n, 31, 0, 1000000000⟩
/-- PULSE_WIDTH_n.WIDTH_NS (R337). -/
abbrev PULSE_WIDTH.WIDTH_NS (n : Nat) : Fld := ⟨R.PULSE_WIDTH n, 31, 0, 1000⟩
/-- PULSE_STAT_n.PULSES (R337). -/
abbrev PULSE_STAT.PULSES (n : Nat) : Fld := ⟨R.PULSE_STAT n, 15, 0, 0⟩
/-- PULSE_STAT_n.LATE (R337). -/
abbrev PULSE_STAT.LATE (n : Nat) : Fld := ⟨R.PULSE_STAT n, 31, 16, 0⟩
/-- SLV_CFG.PAIR_ID (R362). -/
abbrev SLV_CFG.PAIR_ID : Fld := ⟨R.SLV_CFG, 15, 0, 0⟩
/-- SLV_CFG.HB_MISS_P (R362). -/
abbrev SLV_CFG.HB_MISS_P : Fld := ⟨R.SLV_CFG, 19, 16, 2⟩
/-- SLV_CFG.HB_MISS_T (R362). -/
abbrev SLV_CFG.HB_MISS_T : Fld := ⟨R.SLV_CFG, 23, 20, 3⟩
/-- SLV_CFG.SILENT_MIN (R362). -/
abbrev SLV_CFG.SILENT_MIN : Fld := ⟨R.SLV_CFG, 27, 24, 1⟩
/-- SLV_CFG.TAKEBACK_EN (R362). -/
abbrev SLV_CFG.TAKEBACK_EN : Fld := ⟨R.SLV_CFG, 28, 28, 1⟩
/-- SLV_CFG.LINK_HANDOVER (R362). -/
abbrev SLV_CFG.LINK_HANDOVER : Fld := ⟨R.SLV_CFG, 29, 29, 1⟩
/-- SLV_TMO.TAKEBACK_S (R362). -/
abbrev SLV_TMO.TAKEBACK_S : Fld := ⟨R.SLV_TMO, 15, 0, 30⟩
/-- SLV_TMO.LINK_HOLD_MS (R362). -/
abbrev SLV_TMO.LINK_HOLD_MS : Fld := ⟨R.SLV_TMO, 23, 16, 5⟩
/-- SLV_TMO.HANDOVER_LEAD (R362). -/
abbrev SLV_TMO.HANDOVER_LEAD : Fld := ⟨R.SLV_TMO, 27, 24, 1⟩
/-- SLV_STAT.ROLE (R362). -/
abbrev SLV_STAT.ROLE : Fld := ⟨R.SLV_STAT, 2, 0, 0⟩
/-- SLV_STAT.PEER_ROLE (R362). -/
abbrev SLV_STAT.PEER_ROLE : Fld := ⟨R.SLV_STAT, 6, 4, 7⟩
/-- SLV_STAT.MIRROR (R362). -/
abbrev SLV_STAT.MIRROR : Fld := ⟨R.SLV_STAT, 9, 8, 0⟩
/-- SLV_STAT.P_LOST (R362). -/
abbrev SLV_STAT.P_LOST : Fld := ⟨R.SLV_STAT, 12, 12, 1⟩
/-- SLV_STAT.T_LOST (R362). -/
abbrev SLV_STAT.T_LOST : Fld := ⟨R.SLV_STAT, 13, 13, 1⟩
/-- SLV_STAT.SILENT (R362). -/
abbrev SLV_STAT.SILENT : Fld := ⟨R.SLV_STAT, 14, 14, 0⟩
/-- SLV_STAT.PEER_BEHIND (R362). -/
abbrev SLV_STAT.PEER_BEHIND : Fld := ⟨R.SLV_STAT, 15, 15, 0⟩
/-- SLV_STAT.UNIT_ID (R362). -/
abbrev SLV_STAT.UNIT_ID : Fld := ⟨R.SLV_STAT, 16, 16, 0⟩
/-- SLV_STAT.PREFER (R362). -/
abbrev SLV_STAT.PREFER : Fld := ⟨R.SLV_STAT, 17, 17, 0⟩
/-- SLV_STAT.HANDOVER (R362). -/
abbrev SLV_STAT.HANDOVER : Fld := ⟨R.SLV_STAT, 18, 18, 0⟩
/-- SLV_CLAIM.CLAIM (R362). -/
abbrev SLV_CLAIM.CLAIM : Fld := ⟨R.SLV_CLAIM, 31, 0, 0⟩
/-- SLV_SEEN.SEEN (R362). -/
abbrev SLV_SEEN.SEEN : Fld := ⟨R.SLV_SEEN, 31, 0, 0⟩
/-- SLV_CSN.CSN (R362). -/
abbrev SLV_CSN.CSN : Fld := ⟨R.SLV_CSN, 31, 0, 0⟩
/-- SLV_ACKED.ACK_CSN (R362). -/
abbrev SLV_ACKED.ACK_CSN : Fld := ⟨R.SLV_ACKED, 31, 0, 0⟩
/-- SLV_AGREED_LO.AGREED_LO (R362). -/
abbrev SLV_AGREED_LO.AGREED_LO : Fld := ⟨R.SLV_AGREED_LO, 31, 0, 0⟩
/-- SLV_AGREED_HI.AGREED_HI (R362). -/
abbrev SLV_AGREED_HI.AGREED_HI : Fld := ⟨R.SLV_AGREED_HI, 31, 0, 0⟩
/-- SLV_HEALTH.HEALTH_S (R362). -/
abbrev SLV_HEALTH.HEALTH_S : Fld := ⟨R.SLV_HEALTH, 15, 0, 0⟩
/-- SLV_HEALTH.LINKS_UP (R362). -/
abbrev SLV_HEALTH.LINKS_UP : Fld := ⟨R.SLV_HEALTH, 31, 16, 0⟩
/-- SLV_CNT_A.FAILOVERS (R362). -/
abbrev SLV_CNT_A.FAILOVERS : Fld := ⟨R.SLV_CNT_A, 15, 0, 0⟩
/-- SLV_CNT_A.HANDOVERS (R362). -/
abbrev SLV_CNT_A.HANDOVERS : Fld := ⟨R.SLV_CNT_A, 31, 16, 0⟩
/-- SLV_CNT_B.P_LOSSES (R362). -/
abbrev SLV_CNT_B.P_LOSSES : Fld := ⟨R.SLV_CNT_B, 15, 0, 0⟩
/-- SLV_CNT_B.T_LOSSES (R362). -/
abbrev SLV_CNT_B.T_LOSSES : Fld := ⟨R.SLV_CNT_B, 31, 16, 0⟩
/-- SLV_CNT_C.RESYNCS (R362). -/
abbrev SLV_CNT_C.RESYNCS : Fld := ⟨R.SLV_CNT_C, 15, 0, 0⟩
/-- SLV_CNT_C.RESENDS (R362). -/
abbrev SLV_CNT_C.RESENDS : Fld := ⟨R.SLV_CNT_C, 31, 16, 0⟩
/-- SLV_CNT_D.BAD_FRAMES (R362). -/
abbrev SLV_CNT_D.BAD_FRAMES : Fld := ⟨R.SLV_CNT_D, 15, 0, 0⟩
/-- SLV_CNT_D.DECLINED (R362). -/
abbrev SLV_CNT_D.DECLINED : Fld := ⟨R.SLV_CNT_D, 31, 16, 0⟩
/-- EV_STATUS.ACTIVE (R367). -/
abbrev EV_STATUS.ACTIVE (k : Nat) : Fld := ⟨R.EV_STATUS k, 15, 0, 0⟩
/-- EV_STATUS.UNACK (R367). -/
abbrev EV_STATUS.UNACK (k : Nat) : Fld := ⟨R.EV_STATUS k, 31, 16, 0⟩
/-- EV_INJ_STATUS.INJ_ACTIVE (R367). -/
abbrev EV_INJ_STATUS.INJ_ACTIVE (k : Nat) : Fld := ⟨R.EV_INJ_STATUS k, 15, 0, 0⟩
/-- EV_INJ_STATUS.INJ_UNACK (R367). -/
abbrev EV_INJ_STATUS.INJ_UNACK (k : Nat) : Fld := ⟨R.EV_INJ_STATUS k, 31, 16, 0⟩
/-- EV_LEVEL_LO.LEVEL_s (R367). -/
abbrev EV_LEVEL_LO.LEVEL (k : Nat) (s : Nat) : Fld := ⟨R.EV_LEVEL_LO k, 4 * s + 2, 4 * s, 7⟩
/-- EV_LEVEL_HI.LEVEL_s (R367), s = 8 to 15. -/
abbrev EV_LEVEL_HI.LEVEL (k : Nat) (s : Nat) : Fld := ⟨R.EV_LEVEL_HI k, 4 * (s - 8) + 2, 4 * (s - 8), 7⟩
/-- EV_MASK.REPORT_MASK (R367). -/
abbrev EV_MASK.REPORT_MASK (k : Nat) : Fld := ⟨R.EV_MASK k, 15, 0, 0⟩
/-- EV_MASK.ALERT_MASK (R367). -/
abbrev EV_MASK.ALERT_MASK (k : Nat) : Fld := ⟨R.EV_MASK k, 31, 16, 0⟩
/-- EV_QUIET.QUIET_MS (R367). -/
abbrev EV_QUIET.QUIET_MS (k : Nat) : Fld := ⟨R.EV_QUIET k, 15, 0, 1000⟩
/-- EV_QUIET.ALERT_SEV (R367). -/
abbrev EV_QUIET.ALERT_SEV (k : Nat) : Fld := ⟨R.EV_QUIET k, 18, 16, 2⟩
/-- EV_QUIET.COAL_MS (R367). -/
abbrev EV_QUIET.COAL_MS (k : Nat) : Fld := ⟨R.EV_QUIET k, 31, 24, 10⟩
/-- EV_INJECT.SOURCE (R367). -/
abbrev EV_INJECT.SOURCE (k : Nat) : Fld := ⟨R.EV_INJECT k, 3, 0, 0⟩
/-- EV_INJECT.GO (R367). -/
abbrev EV_INJECT.GO (k : Nat) : Fld := ⟨R.EV_INJECT k, 31, 31, 0⟩
/-- EV_INJ_ARG.ARG (R367). -/
abbrev EV_INJ_ARG.ARG (k : Nat) : Fld := ⟨R.EV_INJ_ARG k, 31, 0, 0⟩
/-- EV_FIRST.SOURCE (R367). -/
abbrev EV_FIRST.SOURCE (k : Nat) : Fld := ⟨R.EV_FIRST k, 3, 0, 0⟩
/-- EV_FIRST.SEV (R367). -/
abbrev EV_FIRST.SEV (k : Nat) : Fld := ⟨R.EV_FIRST k, 6, 4, 0⟩
/-- EV_FIRST.VALID (R367). -/
abbrev EV_FIRST.VALID (k : Nat) : Fld := ⟨R.EV_FIRST k, 7, 7, 0⟩
/-- EV_FIRST.CLASS (R367). -/
abbrev EV_FIRST.CLASS (k : Nat) : Fld := ⟨R.EV_FIRST k, 15, 8, 0⟩
/-- EV_FIRST_PICK_LO.PICK (R367). -/
abbrev EV_FIRST_PICK_LO.PICK (k : Nat) : Fld := ⟨R.EV_FIRST_PICK_LO k, 31, 0, 0⟩
/-- EV_FIRST_PICK_HI.PICK (R367). -/
abbrev EV_FIRST_PICK_HI.PICK (k : Nat) : Fld := ⟨R.EV_FIRST_PICK_HI k, 31, 0, 0⟩
/-- EV_FIRST_OBJ.OBJECT (R367). -/
abbrev EV_FIRST_OBJ.OBJECT (k : Nat) : Fld := ⟨R.EV_FIRST_OBJ k, 31, 0, 0⟩
/-- EV_FIRST_VAL.VALUE (R367). -/
abbrev EV_FIRST_VAL.VALUE (k : Nat) : Fld := ⟨R.EV_FIRST_VAL k, 31, 0, 0⟩
/-- EV_CTRL.COUNT_CLR (R367). -/
abbrev EV_CTRL.COUNT_CLR (k : Nat) : Fld := ⟨R.EV_CTRL k, 0, 0, 0⟩
/-- EV_INJ_CNT.INJECTED (R367). -/
abbrev EV_INJ_CNT.INJECTED (k : Nat) : Fld := ⟨R.EV_INJ_CNT k, 15, 0, 0⟩
/-- EV_COUNT_s.OCCUR (R367). -/
abbrev EV_COUNT.OCCUR (k : Nat) (s : Nat) : Fld := ⟨R.EV_COUNT k s, 15, 0, 0⟩
/-- EV_COUNT_s.RECOVER (R367). -/
abbrev EV_COUNT.RECOVER (k : Nat) (s : Nat) : Fld := ⟨R.EV_COUNT k s, 31, 16, 0⟩
/-- PERF_SEL_n.EVENT (R396). -/
abbrev PERF_SEL.EVENT (n : Nat) : Fld := ⟨R.PERF_SEL n, 7, 0, 0⟩
/-- PERF_SEL_n.MODE (R396). -/
abbrev PERF_SEL.MODE (n : Nat) : Fld := ⟨R.PERF_SEL n, 9, 8, 3⟩
/-- PERF_SEL_n.POL (R396). -/
abbrev PERF_SEL.POL (n : Nat) : Fld := ⟨R.PERF_SEL n, 12, 12, 0⟩
/-- PERF_SEL_n.QUAL (R396). -/
abbrev PERF_SEL.QUAL (n : Nat) : Fld := ⟨R.PERF_SEL n, 21, 16, 63⟩
/-- PERF_CNT_LO_n.COUNT_LO (R396). -/
abbrev PERF_CNT_LO.COUNT_LO (n : Nat) : Fld := ⟨R.PERF_CNT_LO n, 31, 0, 0⟩
/-- PERF_CNT_HI_n.COUNT_HI (R396). -/
abbrev PERF_CNT_HI.COUNT_HI (n : Nat) : Fld := ⟨R.PERF_CNT_HI n, 15, 0, 0⟩
/-- PERF_CNT_HI_n.OVF (R396). -/
abbrev PERF_CNT_HI.OVF (n : Nat) : Fld := ⟨R.PERF_CNT_HI n, 31, 31, 0⟩
/-- BOB_CFG.BOB_BEATS (R396). -/
abbrev BOB_CFG.BOB_BEATS : Fld := ⟨R.BOB_CFG, 15, 0, 0⟩
/-- BOB_CFG.BOB_SESSION (R396). -/
abbrev BOB_CFG.BOB_SESSION : Fld := ⟨R.BOB_CFG, 20, 16, 0⟩
/-- BOB_CFG.HISTO_EN (R396). -/
abbrev BOB_CFG.HISTO_EN : Fld := ⟨R.BOB_CFG, 24, 24, 0⟩
/-- BOB_LIST_LEN.LEN (R396). -/
abbrev BOB_LIST_LEN.LEN : Fld := ⟨R.BOB_LIST_LEN, 11, 0, 0⟩
/-- BOB_SEQ.DUMP_SEQ (R396). -/
abbrev BOB_SEQ.DUMP_SEQ : Fld := ⟨R.BOB_SEQ, 31, 0, 0⟩
/-- BOB_CNT.SKIP (R396). -/
abbrev BOB_CNT.SKIP : Fld := ⟨R.BOB_CNT, 15, 0, 0⟩
/-- BOB_CNT.DROP (R396). -/
abbrev BOB_CNT.DROP : Fld := ⟨R.BOB_CNT, 31, 16, 0⟩
/-- HISTO_STAT.SHED (R396). -/
abbrev HISTO_STAT.SHED : Fld := ⟨R.HISTO_STAT, 0, 0, 0⟩
/-- HISTO_CFG_u.SHIFT (R396). -/
abbrev HISTO_CFG.SHIFT (u : Nat) : Fld := ⟨R.HISTO_CFG u, 3, 0, 0⟩
/-- HISTO_CFG_u.INPUT (R396). -/
abbrev HISTO_CFG.INPUT (u : Nat) : Fld := ⟨R.HISTO_CFG u, 12, 8, 16⟩
/-- HISTO_CFG_u.BASE (R396). -/
abbrev HISTO_CFG.BASE (u : Nat) : Fld := ⟨R.HISTO_CFG u, 31, 16, 0⟩
/-- BOB_LIST_i.ADDR (R396). -/
abbrev BOB_LIST.ADDR (i : Nat) : Fld := ⟨R.BOB_LIST i, 31, 0, 0⟩
/-- REED_WIN_BASE_n.BASE (R415). -/
abbrev REED_WIN_BASE.BASE (n : Nat) : Fld := ⟨R.REED_WIN_BASE n, 27, 0, 0⟩
/-- REED_WIN_CTL_n.SIZE_LOG2 (R415). -/
abbrev REED_WIN_CTL.SIZE_LOG2 (n : Nat) : Fld := ⟨R.REED_WIN_CTL n, 5, 0, 0⟩
/-- REED_WIN_CTL_n.MASTERS (R415). -/
abbrev REED_WIN_CTL.MASTERS (n : Nat) : Fld := ⟨R.REED_WIN_CTL n, 27, 16, 0⟩
/-- REED_WIN_CTL_n.READ (R415). -/
abbrev REED_WIN_CTL.READ (n : Nat) : Fld := ⟨R.REED_WIN_CTL n, 28, 28, 0⟩
/-- REED_WIN_CTL_n.WRITE (R415). -/
abbrev REED_WIN_CTL.WRITE (n : Nat) : Fld := ⟨R.REED_WIN_CTL n, 29, 29, 0⟩
/-- REED_WIN_CTL_n.EN (R415). -/
abbrev REED_WIN_CTL.EN (n : Nat) : Fld := ⟨R.REED_WIN_CTL n, 31, 31, 0⟩
/-- REED_ERR_LO.ADDR_LO (R415). -/
abbrev REED_ERR_LO.ADDR_LO : Fld := ⟨R.REED_ERR_LO, 31, 0, 0⟩
/-- REED_ERR_HI.ADDR_HI (R415). -/
abbrev REED_ERR_HI.ADDR_HI : Fld := ⟨R.REED_ERR_HI, 7, 0, 0⟩
/-- REED_ERR_HI.MASTER (R415). -/
abbrev REED_ERR_HI.MASTER : Fld := ⟨R.REED_ERR_HI, 19, 16, 0⟩
/-- REED_ERR_HI.TARGET (R415). -/
abbrev REED_ERR_HI.TARGET : Fld := ⟨R.REED_ERR_HI, 27, 24, 0⟩
/-- TRACE_CTL.EN (R415). -/
abbrev TRACE_CTL.EN : Fld := ⟨R.TRACE_CTL, 0, 0, 0⟩
/-- TRACE_STAT.EXPORTING (R415). -/
abbrev TRACE_STAT.EXPORTING : Fld := ⟨R.TRACE_STAT, 0, 0, 0⟩
/-- TRACE_STAT.TRACE_LOST (R415). -/
abbrev TRACE_STAT.TRACE_LOST : Fld := ⟨R.TRACE_STAT, 31, 16, 0⟩
/-- TRACE_LOOP_k.LOOP (R415). -/
abbrev TRACE_LOOP.LOOP (k : Nat) : Fld := ⟨R.TRACE_LOOP k, 15, 0, 0⟩
/-- TRACE_LOOP_k.EN (R415). -/
abbrev TRACE_LOOP.EN (k : Nat) : Fld := ⟨R.TRACE_LOOP k, 31, 31, 0⟩
/-- MARL_STAT.QUEUED (R415). -/
abbrev MARL_STAT.QUEUED : Fld := ⟨R.MARL_STAT, 3, 0, 0⟩
/-- MARL_STAT.BUSY (R415). -/
abbrev MARL_STAT.BUSY : Fld := ⟨R.MARL_STAT, 4, 4, 0⟩
/-- MARL_STAT.SPARES (R415). -/
abbrev MARL_STAT.SPARES : Fld := ⟨R.MARL_STAT, 17, 8, 0⟩
/-- MARL_STAT.ROLLBACKS (R415). -/
abbrev MARL_STAT.ROLLBACKS : Fld := ⟨R.MARL_STAT, 31, 24, 0⟩
/-- MARL_WEAR.MAX_ERASE (R415). -/
abbrev MARL_WEAR.MAX_ERASE : Fld := ⟨R.MARL_WEAR, 31, 0, 0⟩
/-- BOOT_STAT.STAGE (R438). -/
abbrev BOOT_STAT.STAGE : Fld := ⟨R.BOOT_STAT, 3, 0, 1⟩
/-- BOOT_STAT.WAIT (R438). -/
abbrev BOOT_STAT.WAIT : Fld := ⟨R.BOOT_STAT, 6, 4, 0⟩
/-- BOOT_STAT.SLOT (R438). -/
abbrev BOOT_STAT.SLOT : Fld := ⟨R.BOOT_STAT, 8, 8, 0⟩
/-- BOOT_STAT.FALLBACK (R438). -/
abbrev BOOT_STAT.FALLBACK : Fld := ⟨R.BOOT_STAT, 9, 9, 0⟩
/-- BOOT_STAT.WARM (R438). -/
abbrev BOOT_STAT.WARM : Fld := ⟨R.BOOT_STAT, 10, 10, 0⟩
/-- BOOT_STAT.RECOVERY (R438). -/
abbrev BOOT_STAT.RECOVERY : Fld := ⟨R.BOOT_STAT, 11, 11, 0⟩
/-- BOOT_STAT.ELAPSED (R438). -/
abbrev BOOT_STAT.ELAPSED : Fld := ⟨R.BOOT_STAT, 31, 16, 0⟩
/-- BOOT_VER.VERSION (R438). -/
abbrev BOOT_VER.VERSION : Fld := ⟨R.BOOT_VER, 31, 0, 0⟩
/-- SUP_RISE.RISE_ALL (R438). -/
abbrev SUP_RISE.RISE_ALL : Fld := ⟨R.SUP_RISE, 15, 0, 0⟩
/-- SUP_RISE.RISE_TILE (R438). -/
abbrev SUP_RISE.RISE_TILE : Fld := ⟨R.SUP_RISE, 31, 16, 0⟩
/-- SUP_RISE_STAT.WAITS (R438). -/
abbrev SUP_RISE_STAT.WAITS : Fld := ⟨R.SUP_RISE_STAT, 15, 0, 0⟩
/-- SUP_RISE_STAT.WAKE_MS (R438). -/
abbrev SUP_RISE_STAT.WAKE_MS : Fld := ⟨R.SUP_RISE_STAT, 31, 16, 0⟩
/-- START_CFG.AUTO (R438). -/
abbrev START_CFG.AUTO : Fld := ⟨R.START_CFG, 0, 0, 0⟩
/-- START_CFG.FORCE_CAL (R438). -/
abbrev START_CFG.FORCE_CAL : Fld := ⟨R.START_CFG, 1, 1, 0⟩
/-- START_CFG.AUTO_ACTIVATE (R438). -/
abbrev START_CFG.AUTO_ACTIVATE : Fld := ⟨R.START_CFG, 2, 2, 0⟩
/-- START_CFG.DISCOVER_S (R438). -/
abbrev START_CFG.DISCOVER_S : Fld := ⟨R.START_CFG, 7, 4, 0⟩
/-- START_CFG.STABLE_S (R438). -/
abbrev START_CFG.STABLE_S : Fld := ⟨R.START_CFG, 15, 8, 0⟩
/-- START_CFG.STABLE_MAX_S (R438). -/
abbrev START_CFG.STABLE_MAX_S : Fld := ⟨R.START_CFG, 23, 16, 0⟩
/-- START_CFG.STABLE_MC (R438). -/
abbrev START_CFG.STABLE_MC : Fld := ⟨R.START_CFG, 31, 24, 0⟩
/-- START_CTRL.GO (R438). -/
abbrev START_CTRL.GO : Fld := ⟨R.START_CTRL, 0, 0, 0⟩
/-- CAL_NOM_t.PPI (R438). -/
abbrev CAL_NOM.PPI (t : Nat) : Fld := ⟨R.CAL_NOM t, 15, 0, 0⟩
/-- CAL_NOM_t.FCE (R438). -/
abbrev CAL_NOM.FCE (t : Nat) : Fld := ⟨R.CAL_NOM t, 31, 16, 0⟩
/-- CAL_PTC_t.PTC (R438). -/
abbrev CAL_PTC.PTC (t : Nat) : Fld := ⟨R.CAL_PTC t, 15, 0, 0⟩
/-- CAL_CFG.DWELL (R438). -/
abbrev CAL_CFG.DWELL : Fld := ⟨R.CAL_CFG, 7, 0, 16⟩
/-- CAL_CFG.FAIL_MAX (R438). -/
abbrev CAL_CFG.FAIL_MAX : Fld := ⟨R.CAL_CFG, 15, 8, 0⟩
/-- CAL_CFG.VOA_START_DB (R438). -/
abbrev CAL_CFG.VOA_START_DB : Fld := ⟨R.CAL_CFG, 23, 16, 6⟩
/-- CAL_CTRL.ABORT (R438). -/
abbrev CAL_CTRL.ABORT : Fld := ⟨R.CAL_CTRL, 0, 0, 0⟩
/-- CAL_CTRL.SAVE (R438). -/
abbrev CAL_CTRL.SAVE : Fld := ⟨R.CAL_CTRL, 1, 1, 0⟩
/-- CAL_STAT.TILE (R438). -/
abbrev CAL_STAT.TILE : Fld := ⟨R.CAL_STAT, 3, 0, 0⟩
/-- CAL_STAT.PASS (R438). -/
abbrev CAL_STAT.PASS : Fld := ⟨R.CAL_STAT, 7, 4, 0⟩
/-- CAL_STAT.RUNNING (R438). -/
abbrev CAL_STAT.RUNNING : Fld := ⟨R.CAL_STAT, 8, 8, 0⟩
/-- CAL_STAT.FAILS (R438). -/
abbrev CAL_STAT.FAILS : Fld := ⟨R.CAL_STAT, 31, 16, 0⟩
/-- CAL_HELD.HELD (R438). -/
abbrev CAL_HELD.HELD : Fld := ⟨R.CAL_HELD, 15, 0, 0⟩
/-- CAL_HELD.SHADOW (R438). -/
abbrev CAL_HELD.SHADOW : Fld := ⟨R.CAL_HELD, 31, 16, 0⟩
/-- COEF.KP (R70). -/
abbrev COEF.KP (n : Nat) : Fld := ⟨0x010C0000 + 0x100 * n + 0x0, 15, 0, 0⟩
/-- COEF.KD (R70). -/
abbrev COEF.KD (n : Nat) : Fld := ⟨0x010C0000 + 0x100 * n + 0x0, 31, 16, 0⟩
/-- COEF.KI (R70). -/
abbrev COEF.KI (n : Nat) : Fld := ⟨0x010C0000 + 0x100 * n + 0x4, 15, 0, 0⟩
/-- COEF.KAW (R70). -/
abbrev COEF.KAW (n : Nat) : Fld := ⟨0x010C0000 + 0x100 * n + 0x4, 31, 16, 0⟩
/-- COEF.KF (R70). -/
abbrev COEF.KF (n : Nat) : Fld := ⟨0x010C0000 + 0x100 * n + 0x8, 15, 0, 0⟩
/-- COEF.DESIGN_RATE (R70). -/
abbrev COEF.DESIGN_RATE (n : Nat) : Fld := ⟨0x010C0000 + 0x100 * n + 0x8, 17, 16, 2⟩
/-- COEF.OUTER_GAIN (R70). -/
abbrev COEF.OUTER_GAIN (n : Nat) : Fld := ⟨0x010C0000 + 0x100 * n + 0xc, 15, 0, 0⟩
/-- COEF.OUTER_STEP_MAX (R70). -/
abbrev COEF.OUTER_STEP_MAX (n : Nat) : Fld := ⟨0x010C0000 + 0x100 * n + 0xc, 23, 16, 0⟩
/-- COEF.DITHER_AMP (R70). -/
abbrev COEF.DITHER_AMP (n : Nat) : Fld := ⟨0x010C0000 + 0x100 * n + 0x10, 3, 0, 0⟩
/-- COEF.DITHER_LAG (R70). -/
abbrev COEF.DITHER_LAG (n : Nat) : Fld := ⟨0x010C0000 + 0x100 * n + 0x10, 6, 4, 0⟩
/-- COEF.XT_WEIGHT (R70). -/
abbrev COEF.XT_WEIGHT (n : Nat) : Fld := ⟨0x010C0000 + 0x100 * n + 0x10, 31, 16, 0⟩
/-- COEF.RATIO_FLOOR (R70). -/
abbrev COEF.RATIO_FLOOR (n : Nat) : Fld := ⟨0x010C0000 + 0x100 * n + 0x14, 14, 0, 0⟩
/-- COEF.LOS_FLOOR (R70). -/
abbrev COEF.LOS_FLOOR (n : Nat) : Fld := ⟨0x010C0000 + 0x100 * n + 0x14, 29, 16, 0⟩
/-- COEF.LGAIN (R89). -/
abbrev COEF.LGAIN (n : Nat) : Fld := ⟨0x010C0000 + 0x100 * n + 0x40, 15, 0, 0⟩
/-- COEF.FORGET (R89). -/
abbrev COEF.FORGET (n : Nat) : Fld := ⟨0x010C0000 + 0x100 * n + 0x40, 31, 16, 0⟩
/-- COEF.QF (R89). -/
abbrev COEF.QF (n : Nat) : Fld := ⟨0x010C0000 + 0x100 * n + 0x44, 15, 0, 0⟩
/-- COEF.LEAD (R89). -/
abbrev COEF.LEAD (n : Nat) : Fld := ⟨0x010C0000 + 0x100 * n + 0x44, 20, 16, 0⟩
/-- COEF.Q_BYPASS (R89). -/
abbrev COEF.Q_BYPASS (n : Nat) : Fld := ⟨0x010C0000 + 0x100 * n + 0x44, 24, 24, 0⟩
/-- COEF.C_LIMIT (R89). -/
abbrev COEF.C_LIMIT (n : Nat) : Fld := ⟨0x010C0000 + 0x100 * n + 0x48, 15, 0, 0⟩
/-- COEF.LEARN_FREEZE (R89). -/
abbrev COEF.LEARN_FREEZE (n : Nat) : Fld := ⟨0x010C0000 + 0x100 * n + 0x48, 16, 16, 0⟩
/-- LOOP.EN (R73). -/
abbrev LOOP.EN (l : Nat) : Fld := ⟨0x02000000 + 0x80 * l + 0x0, 0, 0, 0⟩
/-- LOOP.GAIN_NEG (R73). -/
abbrev LOOP.GAIN_NEG (l : Nat) : Fld := ⟨0x02000000 + 0x80 * l + 0x0, 1, 1, 0⟩
/-- LOOP.OUTER_EN (R73). -/
abbrev LOOP.OUTER_EN (l : Nat) : Fld := ⟨0x02000000 + 0x80 * l + 0x0, 2, 2, 0⟩
/-- LOOP.CLASS (R73). -/
abbrev LOOP.CLASS (l : Nat) : Fld := ⟨0x02000000 + 0x80 * l + 0x0, 7, 4, 0⟩
/-- LOOP.TREADLE_SEL (R73). -/
abbrev LOOP.TREADLE_SEL (l : Nat) : Fld := ⟨0x02000000 + 0x80 * l + 0x0, 9, 8, 0⟩
/-- LOOP.TREADLE_EN (R73). -/
abbrev LOOP.TREADLE_EN (l : Nat) : Fld := ⟨0x02000000 + 0x80 * l + 0x0, 10, 10, 0⟩
/-- LOOP.SP (R73). -/
abbrev LOOP.SP (l : Nat) : Fld := ⟨0x02000000 + 0x80 * l + 0x4, 15, 0, 0⟩
/-- LOOP.SP_NOM (R73). -/
abbrev LOOP.SP_NOM (l : Nat) : Fld := ⟨0x02000000 + 0x80 * l + 0x4, 31, 16, 0⟩
/-- LOOP.SP_RANGE (R73). -/
abbrev LOOP.SP_RANGE (l : Nat) : Fld := ⟨0x02000000 + 0x80 * l + 0x8, 15, 0, 0⟩
/-- LOOP.MON_OFFSET (R73). -/
abbrev LOOP.MON_OFFSET (l : Nat) : Fld := ⟨0x02000000 + 0x80 * l + 0x8, 31, 16, 0⟩
/-- LOOP.U_MIN (R73). -/
abbrev LOOP.U_MIN (l : Nat) : Fld := ⟨0x02000000 + 0x80 * l + 0xc, 15, 0, 32768⟩
/-- LOOP.U_MAX (R73). -/
abbrev LOOP.U_MAX (l : Nat) : Fld := ⟨0x02000000 + 0x80 * l + 0xc, 31, 16, 32767⟩
/-- LOOP.PARK_CODE (R73). -/
abbrev LOOP.PARK_CODE (l : Nat) : Fld := ⟨0x02000000 + 0x80 * l + 0x10, 15, 0, 0⟩
/-- LOOP.CODE (R73). -/
abbrev LOOP.CODE (l : Nat) : Fld := ⟨0x02000000 + 0x80 * l + 0x10, 31, 16, 0⟩
/-- LOOP.INTEG (R73). -/
abbrev LOOP.INTEG (l : Nat) : Fld := ⟨0x02000000 + 0x80 * l + 0x14, 31, 0, 0⟩
/-- LOOP.DSTATE (R73). -/
abbrev LOOP.DSTATE (l : Nat) : Fld := ⟨0x02000000 + 0x80 * l + 0x18, 31, 0, 0⟩
/-- LOOP.AW_RESID (R73). -/
abbrev LOOP.AW_RESID (l : Nat) : Fld := ⟨0x02000000 + 0x80 * l + 0x1c, 31, 0, 0⟩
/-- LOOP.Y_PREV (R73). -/
abbrev LOOP.Y_PREV (l : Nat) : Fld := ⟨0x02000000 + 0x80 * l + 0x20, 15, 0, 0⟩
/-- LOOP.ERR (R73). -/
abbrev LOOP.ERR (l : Nat) : Fld := ⟨0x02000000 + 0x80 * l + 0x20, 31, 16, 0⟩
/-- LOOP.ERR_MIN (R73). -/
abbrev LOOP.ERR_MIN (l : Nat) : Fld := ⟨0x02000000 + 0x80 * l + 0x24, 15, 0, 32767⟩
/-- LOOP.ERR_MAX (R73). -/
abbrev LOOP.ERR_MAX (l : Nat) : Fld := ⟨0x02000000 + 0x80 * l + 0x24, 31, 16, 32768⟩
/-- LOOP.SAT (R73). -/
abbrev LOOP.SAT (l : Nat) : Fld := ⟨0x02000000 + 0x80 * l + 0x28, 0, 0, 0⟩
/-- LOOP.RATIO_LOW (R73). -/
abbrev LOOP.RATIO_LOW (l : Nat) : Fld := ⟨0x02000000 + 0x80 * l + 0x28, 1, 1, 0⟩
/-- LOOP.LOS (R73). -/
abbrev LOOP.LOS (l : Nat) : Fld := ⟨0x02000000 + 0x80 * l + 0x28, 2, 2, 0⟩
/-- LOOP.MOVING (R73). -/
abbrev LOOP.MOVING (l : Nat) : Fld := ⟨0x02000000 + 0x80 * l + 0x28, 3, 3, 0⟩
/-- LOOP.OVERRUN_CNT (R73). -/
abbrev LOOP.OVERRUN_CNT (l : Nat) : Fld := ⟨0x02000000 + 0x80 * l + 0x28, 15, 8, 0⟩
/-- LOOP.MISS_CNT (R73). -/
abbrev LOOP.MISS_CNT (l : Nat) : Fld := ⟨0x02000000 + 0x80 * l + 0x28, 31, 16, 0⟩
/-- LOOP.DITHER_ROW (R73). -/
abbrev LOOP.DITHER_ROW (l : Nat) : Fld := ⟨0x02000000 + 0x80 * l + 0x2c, 5, 0, 0⟩
/-- LOOP.PATH (R73). -/
abbrev LOOP.PATH (l : Nat) : Fld := ⟨0x02000000 + 0x80 * l + 0x2c, 31, 16, 65535⟩
/-- LOOP.ACC (R90). -/
abbrev LOOP.ACC (l : Nat) : Fld := ⟨0x02000000 + 0x80 * l + 0x40, 31, 0, 0⟩
/-- LOOP.ACC_N (R90). -/
abbrev LOOP.ACC_N (l : Nat) : Fld := ⟨0x02000000 + 0x80 * l + 0x44, 7, 0, 0⟩
/-- LOOP.CUR_BIN (R90). -/
abbrev LOOP.CUR_BIN (l : Nat) : Fld := ⟨0x02000000 + 0x80 * l + 0x44, 15, 8, 0⟩
/-- LOOP.QSTATE (R90). -/
abbrev LOOP.QSTATE (l : Nat) : Fld := ⟨0x02000000 + 0x80 * l + 0x44, 31, 16, 0⟩
/-- LOOP.C_LAST (R90). -/
abbrev LOOP.C_LAST (l : Nat) : Fld := ⟨0x02000000 + 0x80 * l + 0x48, 15, 0, 0⟩
/-- LOOP.APPLIED (R90). -/
abbrev LOOP.APPLIED (l : Nat) : Fld := ⟨0x02000000 + 0x80 * l + 0x48, 16, 16, 0⟩
/-- LOOP.LEARNED (R90). -/
abbrev LOOP.LEARNED (l : Nat) : Fld := ⟨0x02000000 + 0x80 * l + 0x48, 17, 17, 0⟩
/-- LOOP.CLR_PEND (R90). -/
abbrev LOOP.CLR_PEND (l : Nat) : Fld := ⟨0x02000000 + 0x80 * l + 0x48, 18, 18, 0⟩
/-- LOOP.BIN_WRITES (R90). -/
abbrev LOOP.BIN_WRITES (l : Nat) : Fld := ⟨0x02000000 + 0x80 * l + 0x4c, 31, 0, 0⟩
/-- LOOP.SKIPPED (R90). -/
abbrev LOOP.SKIPPED (l : Nat) : Fld := ⟨0x02000000 + 0x80 * l + 0x50, 15, 0, 0⟩
/-- CELL.MODE (R117). -/
abbrev CELL.MODE (c : Nat) : Fld := ⟨0x010C4000 + 0x10 * c + 0x0, 3, 0, 0⟩
/-- CELL.PREV_MODE (R117). -/
abbrev CELL.PREV_MODE (c : Nat) : Fld := ⟨0x010C4000 + 0x10 * c + 0x0, 7, 4, 0⟩
/-- CELL.LIT (R117). -/
abbrev CELL.LIT (c : Nat) : Fld := ⟨0x010C4000 + 0x10 * c + 0x0, 8, 8, 0⟩
/-- CELL.ALT (R117). -/
abbrev CELL.ALT (c : Nat) : Fld := ⟨0x010C4000 + 0x10 * c + 0x0, 9, 9, 0⟩
/-- CELL.HOST_FROZEN (R117). -/
abbrev CELL.HOST_FROZEN (c : Nat) : Fld := ⟨0x010C4000 + 0x10 * c + 0x0, 10, 10, 0⟩
/-- CELL.WIDE (R117). -/
abbrev CELL.WIDE (c : Nat) : Fld := ⟨0x010C4000 + 0x10 * c + 0x0, 11, 11, 0⟩
/-- CELL.FREEZE_PEND (R117). -/
abbrev CELL.FREEZE_PEND (c : Nat) : Fld := ⟨0x010C4000 + 0x10 * c + 0x0, 12, 12, 0⟩
/-- CELL.CIRCUIT (R117). -/
abbrev CELL.CIRCUIT (c : Nat) : Fld := ⟨0x010C4000 + 0x10 * c + 0x0, 31, 16, 0⟩
/-- CELL.TARGET_CODE (R117). -/
abbrev CELL.TARGET_CODE (c : Nat) : Fld := ⟨0x010C4000 + 0x10 * c + 0x4, 15, 0, 0⟩
/-- CELL.FC_CODE (R117). -/
abbrev CELL.FC_CODE (c : Nat) : Fld := ⟨0x010C4000 + 0x10 * c + 0x4, 31, 16, 0⟩
/-- CELL.MODE_PICKS (R117). -/
abbrev CELL.MODE_PICKS (c : Nat) : Fld := ⟨0x010C4000 + 0x10 * c + 0x8, 15, 0, 0⟩
/-- CELL.FAULT_CAUSE (R117). -/
abbrev CELL.FAULT_CAUSE (c : Nat) : Fld := ⟨0x010C4000 + 0x10 * c + 0x8, 23, 16, 0⟩
/-- CELL.ENTRY_PICK (R117). -/
abbrev CELL.ENTRY_PICK (c : Nat) : Fld := ⟨0x010C4000 + 0x10 * c + 0xc, 31, 0, 0⟩
/-- CIR.ID (R121). -/
abbrev CIR.ID (e : Nat) : Fld := ⟨0x01000000 + 0x100 * e + 0x0, 15, 0, 0⟩
/-- CIR.STATE (R121). -/
abbrev CIR.STATE (e : Nat) : Fld := ⟨0x01000000 + 0x100 * e + 0x0, 18, 16, 0⟩
/-- CIR.SETTLED (R121). -/
abbrev CIR.SETTLED (e : Nat) : Fld := ⟨0x01000000 + 0x100 * e + 0x0, 20, 20, 0⟩
/-- CIR.BROKEN (R121). -/
abbrev CIR.BROKEN (e : Nat) : Fld := ⟨0x01000000 + 0x100 * e + 0x0, 21, 21, 0⟩
/-- CIR.DEGRADED (R121). -/
abbrev CIR.DEGRADED (e : Nat) : Fld := ⟨0x01000000 + 0x100 * e + 0x0, 22, 22, 0⟩
/-- CIR.IN_PORT (R121). -/
abbrev CIR.IN_PORT (e : Nat) : Fld := ⟨0x01000000 + 0x100 * e + 0x4, 9, 0, 0⟩
/-- CIR.OUT_PORT (R121). -/
abbrev CIR.OUT_PORT (e : Nat) : Fld := ⟨0x01000000 + 0x100 * e + 0x4, 25, 16, 0⟩
/-- CIR.VOA_TARGET (R121). -/
abbrev CIR.VOA_TARGET (e : Nat) : Fld := ⟨0x01000000 + 0x100 * e + 0x8, 15, 0, 0⟩
/-- CIR.NO_DARK (R121). -/
abbrev CIR.NO_DARK (e : Nat) : Fld := ⟨0x01000000 + 0x100 * e + 0x8, 16, 16, 0⟩
/-- CIR.AUTO (R121). -/
abbrev CIR.AUTO (e : Nat) : Fld := ⟨0x01000000 + 0x100 * e + 0x8, 17, 17, 0⟩
/-- CIR.KEEP (R121). -/
abbrev CIR.KEEP (e : Nat) : Fld := ⟨0x01000000 + 0x100 * e + 0x8, 18, 18, 0⟩
/-- CIR.RESTORE (R121). -/
abbrev CIR.RESTORE (e : Nat) : Fld := ⟨0x01000000 + 0x100 * e + 0x8, 19, 19, 1⟩
/-- CIR.PROT_GROUP (R121). -/
abbrev CIR.PROT_GROUP (e : Nat) : Fld := ⟨0x01000000 + 0x100 * e + 0x8, 22, 20, 0⟩
/-- CIR.GROUP_VALID (R121). -/
abbrev CIR.GROUP_VALID (e : Nat) : Fld := ⟨0x01000000 + 0x100 * e + 0x8, 23, 23, 0⟩
/-- CIR.CSN (R121). -/
abbrev CIR.CSN (e : Nat) : Fld := ⟨0x01000000 + 0x100 * e + 0xc, 31, 0, 0⟩
/-- CIR.COMMIT_PICK (R121). -/
abbrev CIR.COMMIT_PICK (e : Nat) : Fld := ⟨0x01000000 + 0x100 * e + 0x10, 31, 0, 0⟩
/-- CIR.HANDOVER_PICKS (R121). -/
abbrev CIR.HANDOVER_PICKS (e : Nat) : Fld := ⟨0x01000000 + 0x100 * e + 0x14, 15, 0, 0⟩
/-- CIR.SPREAD (R121). -/
abbrev CIR.SPREAD (e : Nat) : Fld := ⟨0x01000000 + 0x100 * e + 0x14, 23, 16, 0⟩
/-- CIR.DELAY_PS (R121). -/
abbrev CIR.DELAY_PS (e : Nat) : Fld := ⟨0x01000000 + 0x100 * e + 0x18, 31, 0, 0⟩
/-- CIR.PIECES_COH (R121). -/
abbrev CIR.PIECES_COH (e : Nat) : Fld := ⟨0x01000000 + 0x100 * e + 0x1c, 15, 0, 0⟩
/-- CIR.PIECES_DARK (R121). -/
abbrev CIR.PIECES_DARK (e : Nat) : Fld := ⟨0x01000000 + 0x100 * e + 0x1c, 31, 16, 0⟩
/-- PATH.CIRCUIT (R69). -/
abbrev PATH.CIRCUIT (p : Nat) : Fld := ⟨0x011B4000 + 0x80 * p + 0x0, 15, 0, 0⟩
/-- PATH.LIT (R69). -/
abbrev PATH.LIT (p : Nat) : Fld := ⟨0x011B4000 + 0x80 * p + 0x0, 16, 16, 0⟩
/-- PATH.SUSPENDED (R69). -/
abbrev PATH.SUSPENDED (p : Nat) : Fld := ⟨0x011B4000 + 0x80 * p + 0x0, 17, 17, 0⟩
/-- PATH.CELLS (R69). -/
abbrev PATH.CELLS (p : Nat) : Fld := ⟨0x011B4000 + 0x80 * p + 0x0, 23, 18, 0⟩
/-- PATH.GROUPS (R69). -/
abbrev PATH.GROUPS (p : Nat) : Fld := ⟨0x011B4000 + 0x80 * p + 0x4, 3, 0, 0⟩
/-- PATH.TURN (R69). -/
abbrev PATH.TURN (p : Nat) : Fld := ⟨0x011B4000 + 0x80 * p + 0x4, 11, 8, 0⟩
/-- PATH.PENDING (R69). -/
abbrev PATH.PENDING (p : Nat) : Fld := ⟨0x011B4000 + 0x80 * p + 0x4, 16, 16, 0⟩
/-- PATH.BEAT_START (R69). -/
abbrev PATH.BEAT_START (p : Nat) : Fld := ⟨0x011B4000 + 0x80 * p + 0x8, 31, 0, 0⟩
/-- PATH.CLAMP_CNT (R69). -/
abbrev PATH.CLAMP_CNT (p : Nat) : Fld := ⟨0x011B4000 + 0x80 * p + 0xc, 15, 0, 0⟩
/-- PATH.UPDATES (R69). -/
abbrev PATH.UPDATES (p : Nat) : Fld := ⟨0x011B4000 + 0x80 * p + 0xc, 31, 16, 0⟩
/-- PATH.J_LAST (R69). -/
abbrev PATH.J_LAST (p : Nat) : Fld := ⟨0x011B4000 + 0x80 * p + 0x10, 15, 0, 0⟩
/-- PATH.RESUMES (R69). -/
abbrev PATH.RESUMES (p : Nat) : Fld := ⟨0x011B4000 + 0x80 * p + 0x10, 31, 16, 0⟩
/-- PATH.LOOP_i, one half-word each (R69). -/
abbrev PATH.LOOP (p i : Nat) : Fld := ⟨0x011B4000 + 0x80 * p + 0x20 + 4 * (i / 2), 16 * (i % 2) + 15, 16 * (i % 2), 0⟩
/-- Hop h of circuit entry e: TILE (R121). -/
abbrev CIR.HOP_TILE (e h : Nat) : Fld := ⟨0x01000000 + 0x100 * e + 0x40 + 0x18 * h, 3, 0, 0⟩
/-- Hop h: VALID. -/
abbrev CIR.HOP_VALID (e h : Nat) : Fld := ⟨0x01000000 + 0x100 * e + 0x40 + 0x18 * h, 4, 4, 0⟩
/-- Hop h: IN, the tile input port. -/
abbrev CIR.HOP_IN (e h : Nat) : Fld := ⟨0x01000000 + 0x100 * e + 0x40 + 0x18 * h, 15, 8, 0⟩
/-- Hop h: OUT, the tile output port. -/
abbrev CIR.HOP_OUT (e h : Nat) : Fld := ⟨0x01000000 + 0x100 * e + 0x40 + 0x18 * h, 23, 16, 0⟩
/-- Hop h: LINE_j, one byte per stage. -/
abbrev CIR.HOP_LINE (e h j : Nat) : Fld := ⟨0x01000000 + 0x100 * e + 0x40 + 0x18 * h + 4 + 4 * (j / 4), 8 * (j % 4) + 7, 8 * (j % 4), 0⟩
/-- Hop h: CROSS, one bit per stage. -/
abbrev CIR.HOP_CROSS (e h : Nat) : Fld := ⟨0x01000000 + 0x100 * e + 0x40 + 0x18 * h + 0x14, 14, 0, 0⟩
end F

/-- Rows of the register tables, part 0. -/
def regTable0 : List RRow := [
  ⟨0xc0800, [], [⟨0, 32, .ro, 0, none⟩]⟩ /- DRAFT_ACTIVE_ID R50 -/,
  ⟨0xc0804, [], [⟨0, 32, .ro, 0, none⟩]⟩ /- DRAFT_ACTIVE_VER R50 -/,
  ⟨0xc0808, [], [⟨0, 32, .ro, 0, none⟩]⟩ /- DRAFT_STAGED_ID R50 -/,
  ⟨0xc080c, [], [⟨0, 32, .ro, 0, none⟩]⟩ /- DRAFT_STAGED_VER R50 -/,
  ⟨0xc0810, [], [⟨0, 1, .ro, 0, none⟩, ⟨1, 1, .ro, 0, none⟩, ⟨8, 8, .ro, 0, none⟩]⟩ /- DRAFT_CHECK R50 -/,
  ⟨0xc0814, [], [⟨0, 1, .sc, 0, none⟩]⟩ /- DRAFT_CTRL R50 -/,
  ⟨0x280400, [], [⟨0, 2, .rw, 2, none⟩, ⟨4, 3, .rw, 2, none⟩]⟩ /- PICK_CFG R53 -/,
  ⟨0x280404, [], [⟨0, 2, .ro, 2, none⟩, ⟨4, 3, .ro, 2, none⟩, ⟨8, 1, .ro, 0, none⟩]⟩ /- PICK_STAT R53 -/,
  ⟨0x280408, [], [⟨0, 32, .ro, 0, none⟩]⟩ /- PICK_NUM_LO R53 -/,
  ⟨0x28040c, [], [⟨0, 32, .ro, 0, none⟩]⟩ /- PICK_NUM_HI R53 -/,
  ⟨0x50400, [(0x10000, 4), (0x10, 16)], [⟨0, 11, .ro, 1024, none⟩, ⟨16, 11, .ro, 0, none⟩]⟩ /- ENG_STAT R78 -/,
  ⟨0x50404, [(0x10000, 4), (0x10, 16)], [⟨0, 16, .ro, 0, none⟩, ⟨16, 16, .ro, 0, none⟩]⟩ /- ENG_SLACK R78 -/,
  ⟨0x50408, [(0x10000, 4), (0x10, 16)], [⟨0, 32, .ro, 0, none⟩]⟩ /- ENG_OVERRUN R78 -/,
  ⟨0x5040c, [(0x10000, 4), (0x10, 16)], [⟨0, 16, .ro, 0, none⟩]⟩ /- ENG_RATE R78 -/,
  ⟨0x50800, [], [⟨0, 16, .rw, 0, none⟩]⟩ /- CLASS_SHED R78 -/,
  ⟨0x50804, [], [⟨0, 2, .rw, 3, none⟩, ⟨2, 2, .rw, 3, none⟩, ⟨4, 2, .rw, 3, none⟩, ⟨6, 2, .rw, 3, none⟩, ⟨8, 2, .rw, 3, none⟩, ⟨10, 2, .rw, 3, none⟩, ⟨12, 2, .rw, 3, none⟩, ⟨14, 2, .rw, 3, none⟩, ⟨16, 2, .rw, 3, none⟩, ⟨18, 2, .rw, 3, none⟩, ⟨20, 2, .rw, 3, none⟩, ⟨22, 2, .rw, 3, none⟩, ⟨24, 2, .rw, 3, none⟩, ⟨26, 2, .rw, 3, none⟩, ⟨28, 2, .rw, 3, none⟩, ⟨30, 2, .rw, 3, none⟩]⟩ /- CLASS_CAP R78 -/,
  ⟨0x50808, [], [⟨0, 2, .ro, 3, none⟩, ⟨2, 2, .ro, 3, none⟩, ⟨4, 2, .ro, 3, none⟩, ⟨6, 2, .ro, 3, none⟩, ⟨8, 2, .ro, 3, none⟩, ⟨10, 2, .ro, 3, none⟩, ⟨12, 2, .ro, 3, none⟩, ⟨14, 2, .ro, 3, none⟩, ⟨16, 2, .ro, 3, none⟩, ⟨18, 2, .ro, 3, none⟩, ⟨20, 2, .ro, 3, none⟩, ⟨22, 2, .ro, 3, none⟩, ⟨24, 2, .ro, 3, none⟩, ⟨26, 2, .ro, 3, none⟩, ⟨28, 2, .ro, 3, none⟩, ⟨30, 2, .ro, 3, none⟩]⟩ /- CLASS_TCAP R78 -/,
  ⟨0x5080c, [], [⟨0, 2, .ro, 3, none⟩, ⟨2, 2, .ro, 3, none⟩, ⟨4, 2, .ro, 3, none⟩, ⟨6, 2, .ro, 3, none⟩, ⟨8, 2, .ro, 3, none⟩, ⟨10, 2, .ro, 3, none⟩, ⟨12, 2, .ro, 3, none⟩, ⟨14, 2, .ro, 3, none⟩, ⟨16, 2, .ro, 3, none⟩, ⟨18, 2, .ro, 3, none⟩, ⟨20, 2, .ro, 3, none⟩, ⟨22, 2, .ro, 3, none⟩, ⟨24, 2, .ro, 3, none⟩, ⟨26, 2, .ro, 3, none⟩, ⟨28, 2, .ro, 3, none⟩, ⟨30, 2, .ro, 3, none⟩]⟩ /- TILE_CAP R78 -/,
  ⟨0x90400, [(0x20, 4)], [⟨0, 2, .rw, 0, some 2⟩, ⟨2, 2, .rw, 0, some 0⟩, ⟨4, 2, .rw, 0, some 0⟩, ⟨6, 2, .rw, 0, some 1⟩, ⟨8, 8, .rw, 0, some 8⟩, ⟨16, 4, .rw, 0, some 4⟩]⟩ /- TRK_CFG R96 -/,
  ⟨0x90404, [(0x20, 4)], [⟨0, 8, .rw, 0, some 16⟩, ⟨16, 14, .rw, 0, some 512⟩]⟩ /- TRK_LIM R96 -/,
  ⟨0x90408, [(0x20, 4)], [⟨0, 32, .rw, 0, some 0⟩]⟩ /- TRK_BASE_LO R96 -/,
  ⟨0x9040c, [(0x20, 4)], [⟨0, 32, .rw, 0, some 0⟩]⟩ /- TRK_BASE_HI R96 -/,
  ⟨0x90410, [(0x20, 4)], [⟨0, 3, .ro, 0, none⟩, ⟨8, 8, .ro, 0, none⟩, ⟨16, 16, .ro, 0, none⟩]⟩ /- TRK_STAT R96 -/,
  ⟨0x90414, [(0x20, 4)], [⟨0, 32, .ro, 0, none⟩]⟩ /- TRK_FREQ R96 -/,
  ⟨0x90418, [(0x20, 4)], [⟨0, 16, .ro, 0, none⟩, ⟨16, 16, .ro, 0, none⟩]⟩ /- TRK_AMP R96 -/,
  ⟨0x9041c, [(0x20, 4)], [⟨0, 32, .ro, 0, none⟩]⟩ /- TRK_PHASE R96 -/,
  ⟨0x90500, [], [⟨0, 1, .sc, 0, none⟩]⟩ /- TRD_CTRL R96 -/,
  ⟨0x90504, [], [⟨0, 2, .ro, 0, none⟩, ⟨2, 1, .ro, 0, some 0⟩, ⟨16, 16, .ro, 0, none⟩]⟩ /- TRD_STAT R96 -/,
  ⟨0x90508, [], [⟨0, 8, .rw, 10, none⟩]⟩ /- TRD_MIRROR R96 -/,
  ⟨0x9050c, [], [⟨0, 16, .ro, 0, none⟩]⟩ /- TRD_SWEEP R96 -/]

/-- Rows of the register tables, part 1. -/
def regTable1 : List RRow := [
  ⟨0x90510, [], [⟨0, 17, .ro, 0, none⟩]⟩ /- TRD_DIRTY R96 -/,
  ⟨0xc0900, [], [⟨0, 8, .rw, 6, none⟩, ⟨8, 8, .rw, 16, none⟩, ⟨16, 8, .rw, 64, none⟩, ⟨24, 4, .rw, 4, none⟩, ⟨28, 1, .rw, 0, none⟩, ⟨29, 1, .rw, 1, none⟩]⟩ /- CELL_CFG R116 -/,
  ⟨0xc0904, [], [⟨0, 16, .ro, 0, none⟩, ⟨16, 16, .ro, 0, none⟩]⟩ /- MODE_STAT R116 -/,
  ⟨0xc0a00, [(0x4, 16)], [⟨0, 3, .ro, 0, none⟩, ⟨4, 3, .ro, 0, none⟩, ⟨8, 1, .ro, 0, some 0⟩, ⟨16, 16, .ro, 0, none⟩]⟩ /- TILE_MODE_t R116 -/,
  ⟨0xc0400, [], [⟨0, 1, .rw, 1, none⟩, ⟨1, 1, .rw, 1, none⟩, ⟨2, 1, .rw, 0, none⟩, ⟨8, 8, .rw, 30, none⟩, ⟨16, 8, .rw, 4, none⟩]⟩ /- CIRC_CFG R151 -/,
  ⟨0xc0404, [], [⟨0, 11, .ro, 0, none⟩, ⟨16, 11, .ro, 0, none⟩]⟩ /- CIRC_STAT R151 -/,
  ⟨0xc0408, [], [⟨0, 7, .rw, 32, none⟩, ⟨8, 6, .rw, 20, none⟩, ⟨16, 8, .rw, 64, none⟩, ⟨24, 1, .rw, 1, none⟩]⟩ /- PIECE_CFG R151 -/,
  ⟨0xc040c, [], [⟨0, 16, .ro, 0, none⟩, ⟨16, 8, .ro, 0, none⟩, ⟨24, 8, .ro, 0, none⟩]⟩ /- PIECE_STAT R151 -/,
  ⟨0xc0410, [], [⟨0, 8, .rw, 0, none⟩, ⟨8, 8, .rw, 0, none⟩, ⟨16, 16, .rw, 200, none⟩]⟩ /- PROT_CFG R151 -/,
  ⟨0xc0414, [], [⟨0, 8, .ro, 0, none⟩, ⟨16, 16, .ro, 0, none⟩]⟩ /- PROT_STAT R151 -/,
  ⟨0xc0418, [], [⟨0, 16, .rw, 1600, none⟩]⟩ /- FC_BUDGET R151 -/,
  ⟨0xc041c, [], [⟨0, 8, .ro, 0, none⟩, ⟨8, 8, .ro, 0, none⟩, ⟨16, 16, .ro, 0, none⟩]⟩ /- SPREAD_STAT R151 -/,
  ⟨0xc0420, [], [⟨0, 7, .ro, 0, none⟩, ⟨16, 16, .ro, 0, none⟩]⟩ /- TIMED_STAT R151 -/,
  ⟨0xa0400, [], [⟨0, 6, .rw, 32, none⟩, ⟨8, 4, .rw, 8, none⟩]⟩ /- SHTL_CFG R151 -/,
  ⟨0xa0404, [], [⟨0, 6, .ro, 0, none⟩, ⟨16, 16, .ro, 0, none⟩]⟩ /- SHTL_STAT R151 -/,
  ⟨0xb0400, [], [⟨0, 1, .rw, 1, none⟩, ⟨1, 1, .rw, 1, none⟩, ⟨2, 1, .rw, 1, none⟩, ⟨8, 8, .rw, 255, none⟩, ⟨16, 1, .rw, 1, none⟩, ⟨17, 7, .rw, 32, none⟩, ⟨24, 7, .rw, 32, none⟩]⟩ /- TILTH_CFG R166 -/,
  ⟨0xb0404, [], [⟨0, 16, .rw, 8000, none⟩, ⟨16, 16, .rw, 1000, none⟩]⟩ /- TILTH_PWR R166 -/,
  ⟨0xb0408, [], [⟨0, 8, .rw, 18, none⟩, ⟨16, 16, .rw, 1000, none⟩]⟩ /- TILTH_LIM R166 -/,
  ⟨0xb040c, [], [⟨0, 16, .rw, 100, none⟩, ⟨16, 16, .rw, 1000, none⟩]⟩ /- TILTH_TMO R166 -/,
  ⟨0xb0410, [], [⟨0, 16, .ro, 0, none⟩, ⟨16, 16, .ro, 0, none⟩]⟩ /- TILTH_STAT R166 -/,
  ⟨0xb0414, [], [⟨0, 9, .ro, 0, none⟩, ⟨16, 11, .ro, 0, none⟩]⟩ /- TILTH_PLANS R166 -/,
  ⟨0xb0418, [], [⟨0, 32, .ro, 0, none⟩]⟩ /- TILTH_CNT R166 -/,
  ⟨0xb041c, [], [⟨0, 16, .ro, 0, none⟩, ⟨16, 16, .ro, 0, none⟩]⟩ /- TILTH_HITS R166 -/,
  ⟨0xb0420, [], [⟨0, 16, .ro, 0, none⟩, ⟨16, 16, .ro, 0, none⟩]⟩ /- TILTH_UNDO_A R166 -/,
  ⟨0xb0424, [], [⟨0, 16, .ro, 0, none⟩, ⟨16, 16, .ro, 0, none⟩]⟩ /- TILTH_UNDO_B R166 -/,
  ⟨0xb0428, [], [⟨0, 16, .ro, 0, none⟩, ⟨16, 16, .ro, 0, none⟩]⟩ /- TILTH_UNDO_C R166 -/,
  ⟨0xb042c, [], [⟨0, 16, .ro, 0, none⟩]⟩ /- TILTH_UNDO_D R166 -/,
  ⟨0xb0440, [(0x4, 16)], [⟨0, 12, .ro, 0, none⟩, ⟨12, 8, .ro, 0, none⟩, ⟨20, 12, .ro, 0, none⟩]⟩ /- TILTH_TILE_t R166 -/,
  ⟨0xd0400, [(0x10000, 16)], [⟨0, 1, .sc, 0, none⟩, ⟨1, 1, .sc, 0, none⟩, ⟨8, 6, .rw, 0, none⟩]⟩ /- WEFT_CTRL R189 -/,
  ⟨0xd0404, [(0x10000, 16)], [⟨0, 3, .ro, 0, none⟩, ⟨4, 4, .ro, 0, none⟩, ⟨8, 2, .ro, 0, none⟩, ⟨12, 2, .ro, 0, none⟩, ⟨14, 1, .ro, 0, none⟩, ⟨16, 16, .ro, 0, none⟩]⟩ /- WEFT_STAT R189 -/]

/-- Rows of the register tables, part 2. -/
def regTable2 : List RRow := [
  ⟨0xd0408, [(0x10000, 16)], [⟨0, 16, .ro, 0, none⟩, ⟨16, 16, .ro, 0, none⟩]⟩ /- WEFT_FLIGHT R189 -/,
  ⟨0xd040c, [(0x10000, 16)], [⟨0, 16, .ro, 0, none⟩, ⟨16, 8, .ro, 0, none⟩, ⟨24, 1, .ro, 0, none⟩, ⟨31, 1, .ro, 0, none⟩]⟩ /- WEFT_IDENT R189 -/,
  ⟨0xd0410, [(0x10000, 16)], [⟨0, 32, .ro, 0, none⟩]⟩ /- WEFT_CLAIM R189 -/,
  ⟨0xd0414, [(0x10000, 16)], [⟨0, 16, .ro, 0, none⟩, ⟨16, 16, .ro, 0, none⟩]⟩ /- WEFT_ERR_A R189 -/,
  ⟨0xd0418, [(0x10000, 16)], [⟨0, 16, .ro, 0, none⟩, ⟨16, 16, .ro, 0, none⟩]⟩ /- WEFT_ERR_B R189 -/,
  ⟨0xd041c, [(0x10000, 16)], [⟨0, 30, .ro, 0, none⟩]⟩ /- WEFT_LANE R189 -/,
  ⟨0xd0420, [(0x10000, 16)], [⟨0, 16, .ro, 0, none⟩, ⟨16, 16, .ro, 0, none⟩]⟩ /- WEFT_SLACK R189 -/,
  ⟨0xd0424, [(0x10000, 16)], [⟨0, 32, .ro, 0, none⟩]⟩ /- WEFT_WIT R189 -/,
  ⟨0x1d0400, [(0x10000, 2)], [⟨0, 1, .rw, 0, none⟩, ⟨1, 1, .rw, 1, none⟩, ⟨2, 1, .sc, 0, none⟩]⟩ /- SV_CTRL R208 -/,
  ⟨0x1d0404, [(0x10000, 2)], [⟨0, 4, .ro, 0, none⟩, ⟨4, 1, .ro, 0, none⟩, ⟨5, 2, .ro, 0, none⟩, ⟨8, 3, .ro, 0, none⟩, ⟨16, 16, .ro, 0, none⟩]⟩ /- SV_STAT R208 -/,
  ⟨0x1d0408, [(0x10000, 2)], [⟨0, 5, .rw, 0, none⟩, ⟨5, 2, .rw, 0, none⟩, ⟨8, 2, .rw, 0, none⟩, ⟨12, 3, .rw, 0, none⟩, ⟨16, 10, .rw, 0, none⟩, ⟨30, 1, .rw, 0, none⟩, ⟨31, 1, .sc, 0, none⟩]⟩ /- SV_INJ R208 -/,
  ⟨0x1d040c, [(0x10000, 2)], [⟨0, 32, .ro, 0, none⟩]⟩ /- SV_INJ_RES R208 -/,
  ⟨0x1d0410, [(0x10000, 2)], [⟨0, 16, .ro, 0, some 0⟩, ⟨16, 16, .ro, 0, some 0⟩]⟩ /- SV_CAL R208 -/,
  ⟨0x1d0414, [(0x10000, 2)], [⟨0, 16, .rw, 64, none⟩, ⟨16, 1, .ro, 0, none⟩, ⟨24, 8, .ro, 0, none⟩]⟩ /- SV_BG R208 -/,
  ⟨0x1d0418, [(0x10000, 2)], [⟨0, 10, .ro, 0, none⟩, ⟨16, 10, .rw, 0, none⟩, ⟨31, 1, .w1c, 0, none⟩]⟩ /- SV_RING R208 -/,
  ⟨0x1d0420, [(0x10000, 2), (0x4, 16)], [⟨0, 5, .rw, 0, none⟩, ⟨5, 2, .rw, 0, none⟩, ⟨8, 2, .rw, 0, none⟩, ⟨12, 3, .rw, 0, none⟩, ⟨16, 10, .rw, 0, none⟩]⟩ /- SV_SCAN_n R208 -/,
  ⟨0x1d0460, [(0x10000, 2), (0x4, 16)], [⟨0, 16, .rw, 0, none⟩]⟩ /- SV_DWELL_n R208 -/,
  ⟨0x1d04a0, [(0x10000, 2)], [⟨0, 5, .rw, 0, none⟩]⟩ /- SV_SCAN_LEN R208 -/,
  ⟨0x1d0500, [(0x10000, 2), (0x4, 28)], [⟨0, 32, .ro, 0, none⟩]⟩ /- SV_LAST_i R208 -/,
  ⟨0x1d0600, [], [⟨0, 1, .rw, 1, none⟩, ⟨1, 1, .rw, 0, none⟩, ⟨2, 2, .rw, 0, none⟩, ⟨4, 2, .rw, 1, none⟩, ⟨8, 3, .rw, 1, none⟩, ⟨12, 4, .rw, 3, none⟩, ⟨16, 16, .rw, 10, none⟩]⟩ /- WIT_CFG R208 -/,
  ⟨0x1d0604, [], [⟨0, 16, .rw, 64, none⟩, ⟨16, 16, .rw, 64, none⟩]⟩ /- WIT_BANDS R208 -/,
  ⟨0x1d0608, [], [⟨0, 5, .rw, 20, none⟩, ⟨8, 8, .rw, 32, none⟩, ⟨16, 8, .rw, 48, none⟩, ⟨24, 8, .rw, 0, none⟩]⟩ /- XCHK_CFG R208 -/,
  ⟨0x1d060c, [], [⟨0, 1, .rw, 0, none⟩]⟩ /- WIT_CTRL R208 -/,
  ⟨0x1d0640, [(0x4, 16)], [⟨0, 16, .rw, 0, some 0⟩, ⟨16, 16, .rw, 0, some 0⟩]⟩ /- WIT_CAL_t R208 -/,
  ⟨0x1d0680, [(0x4, 16)], [⟨0, 16, .ro, 0, none⟩, ⟨16, 8, .ro, 0, none⟩, ⟨24, 3, .ro, 0, none⟩]⟩ /- WIT_STAT_t R208 -/,
  ⟨0x1f0400, [(0x10, 48)], [⟨0, 2, .rw, 0, some 0⟩, ⟨4, 2, .rw, 0, none⟩, ⟨8, 1, .rw, 0, some 0⟩, ⟨9, 1, .rw, 0, some 0⟩, ⟨10, 1, .rw, 0, some 0⟩, ⟨11, 1, .rw, 0, none⟩]⟩ /- DAC_CH_CFG_c R223 -/,
  ⟨0x1f0404, [(0x10, 48)], [⟨0, 16, .rw, 0, none⟩, ⟨16, 16, .ro, 0, none⟩]⟩ /- DAC_CODE_c R223 -/,
  ⟨0x1f0408, [(0x10, 48)], [⟨0, 16, .rw, 0, some 0⟩]⟩ /- DAC_CLR_CODE_c R223 -/,
  ⟨0x1f040c, [(0x10, 48)], [⟨0, 1, .ro, 0, none⟩, ⟨1, 1, .ro, 0, none⟩, ⟨2, 1, .w1c, 0, none⟩, ⟨3, 1, .ro, 0, none⟩, ⟨4, 1, .ro, 0, none⟩, ⟨5, 1, .ro, 0, none⟩, ⟨16, 16, .ro, 0, none⟩]⟩ /- DAC_CH_STAT_c R223 -/,
  ⟨0x1f0800, [], [⟨0, 2, .rw, 0, none⟩, ⟨4, 2, .rw, 0, none⟩, ⟨8, 2, .rw, 0, none⟩, ⟨12, 2, .rw, 0, none⟩]⟩ /- DAC_LOAD_CFG R223 -/]

/-- Rows of the register tables, part 3. -/
def regTable3 : List RRow := [
  ⟨0x1f0804, [], [⟨0, 4, .wo, 0, none⟩]⟩ /- DAC_STROBE R223 -/,
  ⟨0x1f0808, [], [⟨0, 1, .ro, 1, none⟩, ⟨1, 1, .ro, 0, none⟩, ⟨4, 4, .ro, 0, none⟩, ⟨16, 16, .ro, 0, none⟩]⟩ /- DAC_STAT R223 -/,
  ⟨0x1f080c, [], [⟨0, 32, .ro, 0, none⟩]⟩ /- DAC_OT_LO R223 -/,
  ⟨0x1f0810, [], [⟨0, 16, .ro, 0, none⟩]⟩ /- DAC_OT_HI R223 -/,
  ⟨0x1f0900, [(0x20, 16)], [⟨0, 1, .rw, 0, none⟩, ⟨1, 1, .rw, 0, none⟩, ⟨8, 8, .rw, 100, none⟩, ⟨16, 16, .rw, 32768, none⟩]⟩ /- TEC_CFG_t R223 -/,
  ⟨0x1f0904, [(0x20, 16)], [⟨0, 16, .rw, 6400, none⟩]⟩ /- TEC_SET_t R223 -/,
  ⟨0x1f0908, [(0x20, 16)], [⟨0, 16, .rw, 32768, none⟩, ⟨16, 16, .rw, 32767, none⟩]⟩ /- TEC_LIM_t R223 -/,
  ⟨0x1f090c, [(0x20, 16)], [⟨0, 16, .rw, 0, none⟩, ⟨16, 16, .rw, 0, none⟩]⟩ /- TEC_GAIN_t R223 -/,
  ⟨0x1f0910, [(0x20, 16)], [⟨0, 32, .rw, 0, none⟩]⟩ /- TEC_INTEG_t R223 -/,
  ⟨0x1f0914, [(0x20, 16)], [⟨0, 16, .ro, 0, none⟩, ⟨16, 1, .ro, 0, none⟩, ⟨17, 1, .ro, 0, none⟩, ⟨18, 1, .ro, 0, none⟩, ⟨24, 8, .ro, 0, none⟩]⟩ /- TEC_STAT_t R223 -/,
  ⟨0x1f0c00, [(0x10, 16)], [⟨0, 1, .rw, 0, none⟩, ⟨1, 1, .ro, 0, none⟩]⟩ /- SINE_CFG_s R223 -/,
  ⟨0x1f0c04, [(0x10, 16)], [⟨0, 32, .rw, 0, none⟩]⟩ /- SINE_FTW_s R223 -/,
  ⟨0x1f0c08, [(0x10, 16)], [⟨0, 16, .rw, 0, none⟩, ⟨16, 16, .rw, 0, none⟩]⟩ /- SINE_AMP_s R223 -/,
  ⟨0x1f0c0c, [(0x10, 16)], [⟨0, 32, .rw, 0, none⟩]⟩ /- SINE_PHASE0_s R223 -/,
  ⟨0x200400, [], [⟨0, 16, .ro, 0, none⟩, ⟨16, 5, .ro, 0, none⟩, ⟨21, 1, .ro, 0, none⟩, ⟨22, 1, .ro, 0, none⟩, ⟨23, 1, .ro, 0, none⟩, ⟨24, 2, .ro, 0, none⟩, ⟨28, 3, .ro, 0, none⟩, ⟨31, 1, .ro, 0, none⟩]⟩ /- THERM_STAT R246 -/,
  ⟨0x200404, [], [⟨0, 8, .rw, 10, none⟩, ⟨8, 8, .rw, 5, none⟩, ⟨16, 1, .rw, 1, none⟩, ⟨24, 8, .rw, 10, none⟩]⟩ /- THERM_CFG R246 -/,
  ⟨0x200408, [], [⟨0, 24, .rw, 0, some 0⟩]⟩ /- THERM_RETIRE R246 -/,
  ⟨0x20040c, [], [⟨0, 24, .ro, 0, none⟩]⟩ /- THERM_FAIL R246 -/,
  ⟨0x200410, [], [⟨0, 16, .ro, 0, none⟩, ⟨16, 16, .ro, 0, some 0⟩]⟩ /- THERM_CNT R246 -/,
  ⟨0x200414, [], [⟨0, 8, .rw, 40, none⟩, ⟨8, 8, .rw, 60, none⟩, ⟨16, 8, .rw, 75, none⟩, ⟨24, 8, .rw, 85, none⟩]⟩ /- BAND_CFG R246 -/,
  ⟨0x200480, [(0x4, 24)], [⟨0, 16, .ro, 0, none⟩, ⟨16, 1, .ro, 0, none⟩, ⟨17, 1, .ro, 0, none⟩, ⟨18, 1, .ro, 0, none⟩]⟩ /- THERM_SENS_n R246 -/,
  ⟨0x200500, [(0x4, 16)], [⟨0, 16, .ro, 0, none⟩, ⟨16, 2, .ro, 0, none⟩, ⟨18, 1, .ro, 0, none⟩, ⟨20, 9, .ro, 0, none⟩]⟩ /- TILE_TEMP_t R246 -/,
  ⟨0x200540, [(0x4, 16)], [⟨0, 16, .rw, 0, some 10486⟩, ⟨16, 16, .rw, 0, some 0⟩]⟩ /- TT_CAL_t R246 -/,
  ⟨0x210400, [], [⟨0, 1, .rw, 1, none⟩, ⟨1, 1, .rw, 1, none⟩, ⟨8, 8, .rw, 15, none⟩, ⟨16, 8, .rw, 64, none⟩, ⟨24, 8, .rw, 10, none⟩]⟩ /- SILT_CFG R246 -/,
  ⟨0x210404, [], [⟨0, 32, .rw, 0, some 175200⟩]⟩ /- SILT_EOL R246 -/,
  ⟨0x210408, [], [⟨0, 32, .ro, 0, some 0⟩]⟩ /- SILT_HOURS R246 -/,
  ⟨0x21040c, [], [⟨0, 2, .ro, 0, none⟩, ⟨4, 1, .ro, 0, none⟩, ⟨16, 16, .ro, 0, none⟩]⟩ /- SILT_STAT R246 -/,
  ⟨0x210410, [], [⟨0, 10, .rw, 0, some 0⟩, ⟨16, 10, .rw, 900, none⟩]⟩ /- SILT_VID R246 -/,
  ⟨0x210414, [], [⟨0, 2, .ro, 3, none⟩, ⟨2, 2, .ro, 3, none⟩, ⟨4, 2, .ro, 3, none⟩, ⟨6, 2, .ro, 3, none⟩, ⟨8, 2, .ro, 3, none⟩, ⟨10, 2, .ro, 3, none⟩, ⟨12, 2, .ro, 3, none⟩, ⟨14, 2, .ro, 3, none⟩, ⟨16, 2, .ro, 3, none⟩, ⟨18, 2, .ro, 3, none⟩, ⟨20, 2, .ro, 3, none⟩, ⟨22, 2, .ro, 3, none⟩, ⟨24, 2, .ro, 3, none⟩, ⟨26, 2, .ro, 3, none⟩, ⟨28, 2, .ro, 3, none⟩, ⟨30, 2, .ro, 3, none⟩]⟩ /- SILT_ASK R246 -/,
  ⟨0x210418, [], [⟨0, 1, .sc, 0, none⟩, ⟨1, 1, .sc, 0, none⟩, ⟨16, 16, .rw, 0, none⟩]⟩ /- SILT_CTRL R246 -/]

/-- Rows of the register tables, part 4. -/
def regTable4 : List RRow := [
  ⟨0x21041c, [], [⟨0, 16, .ro, 0, none⟩, ⟨16, 12, .ro, 0, none⟩, ⟨28, 1, .ro, 0, none⟩, ⟨29, 1, .ro, 0, none⟩, ⟨30, 1, .ro, 1, none⟩, ⟨31, 1, .ro, 0, none⟩]⟩ /- SILT_CELL R246 -/,
  ⟨0x210420, [], [⟨0, 16, .ro, 0, none⟩, ⟨16, 16, .ro, 0, none⟩]⟩ /- SILT_DRIFT R246 -/,
  ⟨0x210800, [(0x4, 64)], [⟨0, 16, .ro, 0, none⟩, ⟨16, 16, .ro, 0, none⟩]⟩ /- SILT_ENG_e R246 -/,
  ⟨0x220400, [(0x10000, 3)], [⟨0, 1, .rw, 1, none⟩, ⟨1, 1, .rw, 1, none⟩, ⟨2, 1, .rw, 1, none⟩, ⟨3, 1, .rw, 0, none⟩, ⟨4, 2, .rw, 0, none⟩, ⟨6, 1, .rw, 1, none⟩, ⟨8, 4, .rw, 7, none⟩, ⟨16, 14, .rw, 1522, none⟩]⟩ /- MAC_CTRL R270 -/,
  ⟨0x220404, [(0x10000, 3)], [⟨0, 1, .ro, 0, none⟩, ⟨1, 1, .ro, 0, none⟩, ⟨2, 1, .ro, 0, none⟩, ⟨3, 1, .ro, 0, none⟩, ⟨4, 1, .ro, 0, none⟩, ⟨5, 1, .ro, 0, none⟩, ⟨16, 16, .ro, 0, none⟩]⟩ /- MAC_STAT R270 -/,
  ⟨0x220408, [(0x10000, 3)], [⟨0, 32, .rw, 0, some 0⟩]⟩ /- MAC_ADDR_LO R270 -/,
  ⟨0x22040c, [(0x10000, 3)], [⟨0, 16, .rw, 0, some 0⟩]⟩ /- MAC_ADDR_HI R270 -/,
  ⟨0x220410, [(0x10000, 3)], [⟨0, 16, .rw, 65535, none⟩, ⟨16, 8, .rw, 160, none⟩, ⟨24, 8, .rw, 96, none⟩]⟩ /- PAUSE_CFG R270 -/,
  ⟨0x220414, [(0x10000, 3)], [⟨0, 16, .ro, 0, none⟩, ⟨16, 16, .ro, 0, none⟩]⟩ /- PAUSE_STAT R270 -/,
  ⟨0x220418, [(0x10000, 3)], [⟨0, 32, .ro, 0, none⟩]⟩ /- RX_OK R270 -/,
  ⟨0x22041c, [(0x10000, 3)], [⟨0, 32, .ro, 0, none⟩]⟩ /- TX_OK R270 -/,
  ⟨0x220420, [(0x10000, 3)], [⟨0, 16, .ro, 0, none⟩, ⟨16, 16, .ro, 0, none⟩]⟩ /- RX_DROP_A R270 -/,
  ⟨0x220424, [(0x10000, 3)], [⟨0, 16, .ro, 0, none⟩, ⟨16, 16, .ro, 0, none⟩]⟩ /- RX_DROP_B R270 -/,
  ⟨0x220428, [(0x10000, 3)], [⟨0, 16, .ro, 0, none⟩, ⟨16, 16, .ro, 0, none⟩]⟩ /- RX_DROP_C R270 -/,
  ⟨0x22042c, [(0x10000, 3)], [⟨0, 16, .ro, 0, none⟩, ⟨16, 16, .ro, 0, none⟩]⟩ /- RX_DROP_D R270 -/,
  ⟨0x220430, [(0x10000, 3)], [⟨0, 16, .ro, 0, none⟩, ⟨16, 16, .ro, 0, none⟩]⟩ /- RX_DROP_E R270 -/,
  ⟨0x220434, [(0x10000, 3)], [⟨0, 16, .ro, 0, none⟩, ⟨16, 16, .ro, 0, none⟩]⟩ /- RX_DROP_F R270 -/,
  ⟨0x220438, [(0x10000, 3)], [⟨0, 16, .ro, 0, none⟩]⟩ /- TX_DROP R270 -/,
  ⟨0x220800, [(0x10, 32)], [⟨0, 1, .rw, 0, none⟩, ⟨1, 1, .rw, 0, none⟩, ⟨2, 1, .rw, 0, none⟩, ⟨4, 3, .rw, 0, none⟩, ⟨7, 1, .rw, 0, none⟩, ⟨8, 1, .rw, 0, none⟩, ⟨9, 1, .rw, 0, none⟩, ⟨10, 1, .rw, 0, none⟩, ⟨11, 1, .rw, 0, none⟩, ⟨12, 1, .rw, 0, none⟩, ⟨13, 1, .rw, 0, none⟩, ⟨14, 1, .rw, 0, none⟩, ⟨15, 1, .rw, 0, none⟩]⟩ /- RULE_CTL_n R270 -/,
  ⟨0x220804, [(0x10, 32)], [⟨0, 12, .rw, 0, none⟩, ⟨12, 3, .rw, 0, none⟩, ⟨16, 16, .rw, 0, none⟩]⟩ /- RULE_L2_n R270 -/,
  ⟨0x220808, [(0x10, 32)], [⟨0, 1, .rw, 0, none⟩, ⟨8, 8, .rw, 0, none⟩, ⟨16, 16, .rw, 0, none⟩]⟩ /- RULE_L3_n R270 -/,
  ⟨0x22080c, [(0x10, 32)], [⟨0, 32, .ro, 0, none⟩]⟩ /- RULE_HITS_n R270 -/,
  ⟨0x220a00, [], [⟨0, 3, .rw, 1, none⟩, ⟨3, 1, .rw, 1, none⟩]⟩ /- RX_DEFAULT R270 -/,
  ⟨0x220a20, [(0x4, 8)], [⟨0, 10, .rw, 128, none⟩, ⟨16, 10, .ro, 0, none⟩]⟩ /- RXQ_q R270 -/,
  ⟨0x250400, [], [⟨0, 1, .rw, 1, none⟩, ⟨1, 1, .rw, 0, none⟩, ⟨2, 3, .rw, 0, none⟩, ⟨8, 4, .rw, 2, none⟩, ⟨16, 8, .rw, 32, none⟩]⟩ /- TETH_CTRL R272 -/,
  ⟨0x250404, [], [⟨0, 1, .ro, 0, none⟩]⟩ /- TETH_STAT R272 -/,
  ⟨0x250408, [], [⟨0, 32, .rw, 0, some 0⟩]⟩ /- TETH_ADDR_LO R272 -/,
  ⟨0x25040c, [], [⟨0, 16, .rw, 0, some 0⟩]⟩ /- TETH_ADDR_HI R272 -/,
  ⟨0x250410, [], [⟨0, 16, .ro, 0, none⟩, ⟨16, 16, .ro, 0, none⟩]⟩ /- TETH_CNT_A R272 -/,
  ⟨0x250414, [], [⟨0, 16, .ro, 0, none⟩, ⟨16, 16, .ro, 0, none⟩]⟩ /- TETH_CNT_B R272 -/]

/-- Rows of the register tables, part 5. -/
def regTable5 : List RRow := [
  ⟨0x250418, [], [⟨0, 16, .ro, 0, none⟩, ⟨16, 16, .ro, 0, none⟩]⟩ /- TETH_CNT_C R272 -/,
  ⟨0x25041c, [], [⟨0, 16, .ro, 0, none⟩, ⟨16, 16, .ro, 0, none⟩]⟩ /- TETH_CNT_D R272 -/,
  ⟨0x2a0400, [], [⟨0, 16, .rw, 47102, none⟩, ⟨16, 8, .rw, 10, none⟩, ⟨24, 8, .rw, 5, none⟩]⟩ /- CHEDA_CFG R303 -/,
  ⟨0x2a0404, [], [⟨0, 16, .rw, 60, none⟩, ⟨16, 16, .rw, 10, none⟩]⟩ /- CHEDA_TMO R303 -/,
  ⟨0x2a0408, [(0x4, 2)], [⟨0, 32, .rw, 0, some 0⟩]⟩ /- CHEDA_IP4_p R303 -/,
  ⟨0x2a0410, [(0x10, 2), (0x4, 4)], [⟨0, 32, .rw, 0, some 0⟩]⟩ /- CHEDA_IP6_p_n R303 -/,
  ⟨0x2a0430, [], [⟨0, 5, .ro, 0, none⟩, ⟨8, 1, .ro, 0, none⟩, ⟨16, 5, .ro, 0, none⟩]⟩ /- CHEDA_STAT R303 -/,
  ⟨0x2a0434, [], [⟨0, 16, .ro, 0, none⟩, ⟨16, 16, .ro, 0, none⟩]⟩ /- CHEDA_CNT_A R303 -/,
  ⟨0x2a0438, [], [⟨0, 16, .ro, 0, none⟩, ⟨16, 16, .ro, 0, none⟩]⟩ /- CHEDA_CNT_B R303 -/,
  ⟨0x2a043c, [], [⟨0, 32, .ro, 0, none⟩]⟩ /- CHEDA_CNT_C R303 -/,
  ⟨0x2a0440, [], [⟨0, 16, .ro, 0, none⟩, ⟨16, 16, .ro, 0, none⟩]⟩ /- CHEDA_CNT_D R303 -/,
  ⟨0x2a0444, [], [⟨0, 16, .ro, 0, none⟩, ⟨16, 16, .ro, 0, none⟩]⟩ /- CHEDA_CNT_E R303 -/,
  ⟨0x260400, [(0x100, 2), (0x20, 8)], [⟨0, 1, .rw, 0, none⟩, ⟨4, 8, .rw, 0, none⟩, ⟨16, 16, .rw, 0, none⟩]⟩ /- EQ_CFG_p_q R319 -/,
  ⟨0x260404, [(0x100, 2), (0x20, 8)], [⟨0, 14, .rw, 0, none⟩, ⟨16, 16, .rw, 18432, none⟩]⟩ /- EQ_SHAPE_p_q R319 -/,
  ⟨0x260408, [(0x100, 2), (0x20, 8)], [⟨0, 1, .rw, 0, none⟩, ⟨4, 12, .rw, 0, none⟩, ⟨16, 3, .rw, 0, none⟩]⟩ /- EQ_TAG_p_q R319 -/,
  ⟨0x26040c, [(0x100, 2), (0x20, 8)], [⟨0, 18, .ro, 0, none⟩, ⟨24, 1, .ro, 1, none⟩, ⟨25, 1, .ro, 0, none⟩]⟩ /- EQ_STAT_p_q R319 -/,
  ⟨0x260410, [(0x100, 2), (0x20, 8)], [⟨0, 16, .ro, 0, none⟩, ⟨16, 16, .ro, 0, none⟩]⟩ /- EQ_DROP_p_q R319 -/,
  ⟨0x260414, [(0x100, 2), (0x20, 8)], [⟨0, 32, .ro, 0, none⟩]⟩ /- EQ_TX_p_q R319 -/,
  ⟨0x260600, [(0x20, 2)], [⟨0, 6, .ro, 0, none⟩, ⟨8, 1, .ro, 0, none⟩, ⟨9, 1, .ro, 0, none⟩, ⟨16, 16, .ro, 0, none⟩]⟩ /- GCL_STAT_p R319 -/,
  ⟨0x260604, [(0x20, 2)], [⟨0, 32, .ro, 0, none⟩]⟩ /- GCL_START_LO_p R319 -/,
  ⟨0x260608, [(0x20, 2)], [⟨0, 32, .ro, 0, none⟩]⟩ /- GCL_START_HI_p R319 -/,
  ⟨0x26060c, [(0x20, 2)], [⟨0, 32, .ro, 0, none⟩]⟩ /- GCL_CYCLES_p R319 -/,
  ⟨0x260610, [(0x20, 2)], [⟨0, 16, .ro, 0, none⟩]⟩ /- GCL_DROP_p R319 -/,
  ⟨0x270400, [(0x20, 8)], [⟨0, 2, .rw, 0, none⟩, ⟨2, 1, .rw, 0, none⟩, ⟨16, 10, .rw, 512, none⟩]⟩ /- POL_CFG_q R321 -/,
  ⟨0x270404, [(0x20, 8)], [⟨0, 14, .rw, 0, none⟩, ⟨16, 14, .rw, 0, none⟩]⟩ /- POL_RATE_q R321 -/,
  ⟨0x270408, [(0x20, 8)], [⟨0, 32, .rw, 18432, none⟩]⟩ /- POL_CBS_q R321 -/,
  ⟨0x27040c, [(0x20, 8)], [⟨0, 32, .rw, 18432, none⟩]⟩ /- POL_EBS_q R321 -/,
  ⟨0x270410, [(0x20, 8)], [⟨0, 32, .ro, 0, none⟩]⟩ /- POL_GREEN_q R321 -/,
  ⟨0x270414, [(0x20, 8)], [⟨0, 32, .ro, 0, none⟩]⟩ /- POL_YELLOW_q R321 -/,
  ⟨0x270418, [(0x20, 8)], [⟨0, 32, .ro, 0, none⟩]⟩ /- POL_RED_q R321 -/]

/-- Rows of the register tables, part 6. -/
def regTable6 : List RRow := [
  ⟨0x27041c, [(0x20, 8)], [⟨0, 16, .ro, 0, none⟩, ⟨16, 16, .ro, 0, none⟩]⟩ /- POL_DROP_q R321 -/,
  ⟨0x280500, [], [⟨0, 2, .rw, 0, none⟩, ⟨4, 1, .rw, 1, none⟩, ⟨8, 1, .rw, 0, none⟩, ⟨9, 1, .rw, 1, none⟩, ⟨12, 1, .rw, 1, none⟩, ⟨13, 1, .rw, 0, none⟩, ⟨14, 2, .rw, 0, none⟩, ⟨16, 8, .rw, 0, none⟩, ⟨31, 1, .sc, 0, none⟩]⟩ /- TIME_CFG R337 -/,
  ⟨0x280504, [], [⟨0, 18, .rw, 200000, none⟩, ⟨20, 12, .rw, 1000, none⟩]⟩ /- SERVO_CFG R337 -/,
  ⟨0x280508, [], [⟨0, 16, .rw, 1000, none⟩, ⟨16, 16, .rw, 100, none⟩]⟩ /- SERVO_LIM R337 -/,
  ⟨0x28050c, [], [⟨0, 8, .rw, 128, none⟩, ⟨8, 8, .rw, 128, none⟩, ⟨16, 4, .rw, 0xD, none⟩, ⟨20, 4, .rw, 1, none⟩, ⟨24, 4, .rw, 0, none⟩]⟩ /- PTP_PRIO R337 -/,
  ⟨0x280510, [], [⟨0, 3, .ro, 0, none⟩, ⟨4, 1, .ro, 0, none⟩, ⟨8, 4, .ro, 1, none⟩, ⟨12, 1, .ro, 0, none⟩, ⟨13, 1, .ro, 0, none⟩, ⟨16, 16, .ro, 0, none⟩]⟩ /- TIME_STAT R337 -/,
  ⟨0x280514, [], [⟨0, 32, .ro, 0, none⟩]⟩ /- OFFSET_NOW R337 -/,
  ⟨0x280518, [], [⟨0, 32, .ro, 0, none⟩]⟩ /- FREQ_ADJ R337 -/,
  ⟨0x28051c, [], [⟨0, 32, .ro, 0, none⟩]⟩ /- PATH_DELAY R337 -/,
  ⟨0x280520, [], [⟨0, 32, .ro, 0, none⟩]⟩ /- TB_NS_LO R337 -/,
  ⟨0x280524, [], [⟨0, 32, .ro, 0, none⟩]⟩ /- TB_NS_HI R337 -/,
  ⟨0x280528, [], [⟨0, 32, .ro, 0, none⟩]⟩ /- PTP_NOW_LO R337 -/,
  ⟨0x28052c, [], [⟨0, 32, .ro, 0, none⟩]⟩ /- PTP_NOW_HI R337 -/,
  ⟨0x280530, [], [⟨0, 32, .ro, 0, none⟩]⟩ /- PTP_OFS_LO R337 -/,
  ⟨0x280534, [], [⟨0, 32, .ro, 0, none⟩]⟩ /- PTP_OFS_HI R337 -/,
  ⟨0x280538, [], [⟨0, 32, .ro, 0, none⟩]⟩ /- PICK_PTP_LO R337 -/,
  ⟨0x28053c, [], [⟨0, 32, .ro, 0, none⟩]⟩ /- PICK_PTP_HI R337 -/,
  ⟨0x280540, [(0x4, 2)], [⟨0, 16, .rw, 0, none⟩, ⟨16, 16, .rw, 0, none⟩]⟩ /- TS_CORR_p R337 -/,
  ⟨0x280548, [], [⟨0, 32, .rw, 0, none⟩]⟩ /- PPS_CFG R337 -/,
  ⟨0x28054c, [], [⟨0, 32, .ro, 0, none⟩]⟩ /- PPS_TS_LO R337 -/,
  ⟨0x280550, [], [⟨0, 32, .ro, 0, none⟩]⟩ /- PPS_TS_HI R337 -/,
  ⟨0x280554, [], [⟨0, 16, .ro, 0, none⟩, ⟨16, 16, .ro, 0, none⟩]⟩ /- PTP_CNT R337 -/,
  ⟨0x280600, [(0x20, 4)], [⟨0, 2, .rw, 0, none⟩, ⟨2, 1, .rw, 1, none⟩]⟩ /- PULSE_CFG_n R337 -/,
  ⟨0x280604, [(0x20, 4)], [⟨0, 32, .rw, 0, none⟩]⟩ /- PULSE_START_LO_n R337 -/,
  ⟨0x280608, [(0x20, 4)], [⟨0, 32, .rw, 0, none⟩]⟩ /- PULSE_START_HI_n R337 -/,
  ⟨0x28060c, [(0x20, 4)], [⟨0, 32, .rw, 1000000000, none⟩]⟩ /- PULSE_PERIOD_n R337 -/,
  ⟨0x280610, [(0x20, 4)], [⟨0, 32, .rw, 1000, none⟩]⟩ /- PULSE_WIDTH_n R337 -/,
  ⟨0x280614, [(0x20, 4)], [⟨0, 16, .ro, 0, none⟩, ⟨16, 16, .ro, 0, none⟩]⟩ /- PULSE_STAT_n R337 -/,
  ⟨0x290400, [], [⟨0, 16, .rw, 0, some 0⟩, ⟨16, 4, .rw, 2, none⟩, ⟨20, 4, .rw, 3, none⟩, ⟨24, 4, .rw, 1, none⟩, ⟨28, 1, .rw, 1, none⟩, ⟨29, 1, .rw, 1, none⟩]⟩ /- SLV_CFG R362 -/,
  ⟨0x290404, [], [⟨0, 16, .rw, 30, none⟩, ⟨16, 8, .rw, 5, none⟩, ⟨24, 4, .rw, 1, none⟩]⟩ /- SLV_TMO R362 -/]

/-- Rows of the register tables, part 7. -/
def regTable7 : List RRow := [
  ⟨0x290408, [], [⟨0, 3, .ro, 0, none⟩, ⟨4, 3, .ro, 7, none⟩, ⟨8, 2, .ro, 0, none⟩, ⟨12, 1, .ro, 1, none⟩, ⟨13, 1, .ro, 1, none⟩, ⟨14, 1, .ro, 0, none⟩, ⟨15, 1, .ro, 0, none⟩, ⟨16, 1, .ro, 0, none⟩, ⟨17, 1, .ro, 0, none⟩, ⟨18, 1, .ro, 0, none⟩]⟩ /- SLV_STAT R362 -/,
  ⟨0x29040c, [], [⟨0, 32, .ro, 0, none⟩]⟩ /- SLV_CLAIM R362 -/,
  ⟨0x290410, [], [⟨0, 32, .ro, 0, none⟩]⟩ /- SLV_SEEN R362 -/,
  ⟨0x290414, [], [⟨0, 32, .ro, 0, none⟩]⟩ /- SLV_CSN R362 -/,
  ⟨0x290418, [], [⟨0, 32, .ro, 0, none⟩]⟩ /- SLV_ACKED R362 -/,
  ⟨0x29041c, [], [⟨0, 32, .ro, 0, none⟩]⟩ /- SLV_AGREED_LO R362 -/,
  ⟨0x290420, [], [⟨0, 32, .ro, 0, none⟩]⟩ /- SLV_AGREED_HI R362 -/,
  ⟨0x290424, [], [⟨0, 16, .ro, 0, none⟩, ⟨16, 16, .ro, 0, none⟩]⟩ /- SLV_HEALTH R362 -/,
  ⟨0x290428, [], [⟨0, 16, .ro, 0, none⟩, ⟨16, 16, .ro, 0, none⟩]⟩ /- SLV_CNT_A R362 -/,
  ⟨0x29042c, [], [⟨0, 16, .ro, 0, none⟩, ⟨16, 16, .ro, 0, none⟩]⟩ /- SLV_CNT_B R362 -/,
  ⟨0x290430, [], [⟨0, 16, .ro, 0, none⟩, ⟨16, 16, .ro, 0, none⟩]⟩ /- SLV_CNT_C R362 -/,
  ⟨0x290434, [], [⟨0, 16, .ro, 0, none⟩, ⟨16, 16, .ro, 0, none⟩]⟩ /- SLV_CNT_D R362 -/,
  ⟨0x0, [(0x10000, 45)], [⟨0, 16, .ro, 0, none⟩, ⟨16, 16, .w1c, 0, none⟩]⟩ /- EV_STATUS R367 -/,
  ⟨0x4, [(0x10000, 45)], [⟨0, 16, .ro, 0, none⟩, ⟨16, 16, .w1c, 0, none⟩]⟩ /- EV_INJ_STATUS R367 -/,
  ⟨0x8, [(0x10000, 45)], [⟨0, 3, .ro, 7, none⟩, ⟨4, 3, .ro, 7, none⟩, ⟨8, 3, .ro, 7, none⟩, ⟨12, 3, .ro, 7, none⟩, ⟨16, 3, .ro, 7, none⟩, ⟨20, 3, .ro, 7, none⟩, ⟨24, 3, .ro, 7, none⟩, ⟨28, 3, .ro, 7, none⟩]⟩ /- EV_LEVEL_LO R367 -/,
  ⟨0xc, [(0x10000, 45)], [⟨0, 3, .ro, 7, none⟩, ⟨4, 3, .ro, 7, none⟩, ⟨8, 3, .ro, 7, none⟩, ⟨12, 3, .ro, 7, none⟩, ⟨16, 3, .ro, 7, none⟩, ⟨20, 3, .ro, 7, none⟩, ⟨24, 3, .ro, 7, none⟩, ⟨28, 3, .ro, 7, none⟩]⟩ /- EV_LEVEL_HI R367 -/,
  ⟨0x10, [(0x10000, 45)], [⟨0, 16, .rw, 0, none⟩, ⟨16, 16, .rw, 0, none⟩]⟩ /- EV_MASK R367 -/,
  ⟨0x14, [(0x10000, 45)], [⟨0, 16, .rw, 1000, none⟩, ⟨16, 3, .rw, 2, none⟩, ⟨24, 8, .rw, 10, none⟩]⟩ /- EV_QUIET R367 -/,
  ⟨0x18, [(0x10000, 45)], [⟨0, 4, .rw, 0, none⟩, ⟨31, 1, .sc, 0, none⟩]⟩ /- EV_INJECT R367 -/,
  ⟨0x1c, [(0x10000, 45)], [⟨0, 32, .rw, 0, none⟩]⟩ /- EV_INJ_ARG R367 -/,
  ⟨0x20, [(0x10000, 45)], [⟨0, 4, .ro, 0, none⟩, ⟨4, 3, .ro, 0, none⟩, ⟨7, 1, .w1c, 0, none⟩, ⟨8, 8, .ro, 0, none⟩]⟩ /- EV_FIRST R367 -/,
  ⟨0x24, [(0x10000, 45)], [⟨0, 32, .ro, 0, none⟩]⟩ /- EV_FIRST_PICK_LO R367 -/,
  ⟨0x28, [(0x10000, 45)], [⟨0, 32, .ro, 0, none⟩]⟩ /- EV_FIRST_PICK_HI R367 -/,
  ⟨0x2c, [(0x10000, 45)], [⟨0, 32, .ro, 0, none⟩]⟩ /- EV_FIRST_OBJ R367 -/,
  ⟨0x30, [(0x10000, 45)], [⟨0, 32, .ro, 0, none⟩]⟩ /- EV_FIRST_VAL R367 -/,
  ⟨0x34, [(0x10000, 45)], [⟨0, 1, .sc, 0, none⟩]⟩ /- EV_CTRL R367 -/,
  ⟨0x38, [(0x10000, 45)], [⟨0, 16, .ro, 0, none⟩]⟩ /- EV_INJ_CNT R367 -/,
  ⟨0x40, [(0x10000, 45), (0x4, 16)], [⟨0, 16, .ro, 0, none⟩, ⟨16, 16, .ro, 0, none⟩]⟩ /- EV_COUNT_s R367 -/,
  ⟨0x2b0400, [(0x10, 64)], [⟨0, 8, .rw, 0, none⟩, ⟨8, 2, .rw, 3, none⟩, ⟨12, 1, .rw, 0, none⟩, ⟨16, 6, .rw, 63, none⟩]⟩ /- PERF_SEL_n R396 -/,
  ⟨0x2b0404, [(0x10, 64)], [⟨0, 32, .ro, 0, none⟩]⟩ /- PERF_CNT_LO_n R396 -/]

/-- Rows of the register tables, part 8. -/
def regTable8 : List RRow := [
  ⟨0x2b0408, [(0x10, 64)], [⟨0, 16, .ro, 0, none⟩, ⟨31, 1, .w1c, 0, none⟩]⟩ /- PERF_CNT_HI_n R396 -/,
  ⟨0x2b0800, [], [⟨0, 16, .rw, 0, none⟩, ⟨16, 5, .rw, 0, none⟩, ⟨24, 1, .rw, 0, none⟩]⟩ /- BOB_CFG R396 -/,
  ⟨0x2b0804, [], [⟨0, 12, .rw, 0, none⟩]⟩ /- BOB_LIST_LEN R396 -/,
  ⟨0x2b0808, [], [⟨0, 32, .ro, 0, none⟩]⟩ /- BOB_SEQ R396 -/,
  ⟨0x2b080c, [], [⟨0, 16, .ro, 0, none⟩, ⟨16, 16, .ro, 0, none⟩]⟩ /- BOB_CNT R396 -/,
  ⟨0x2b0810, [], [⟨0, 1, .ro, 0, none⟩]⟩ /- HISTO_STAT R396 -/,
  ⟨0x2b0900, [(0x4, 35)], [⟨0, 4, .rw, 0, none⟩, ⟨8, 5, .rw, 16, none⟩, ⟨16, 16, .rw, 0, none⟩]⟩ /- HISTO_CFG_u R396 -/,
  ⟨0x2b2000, [(0x4, 2048)], [⟨0, 32, .rw, 0, none⟩]⟩ /- BOB_LIST_i R396 -/,
  ⟨0x20400, [(0x10, 16)], [⟨0, 28, .rw, 0, some 0⟩]⟩ /- REED_WIN_BASE_n R415 -/,
  ⟨0x20404, [(0x10, 16)], [⟨0, 6, .rw, 0, some 0⟩, ⟨16, 12, .rw, 0, some 0⟩, ⟨28, 1, .rw, 0, some 0⟩, ⟨29, 1, .rw, 0, some 0⟩, ⟨31, 1, .rw, 0, some 0⟩]⟩ /- REED_WIN_CTL_n R415 -/,
  ⟨0x20500, [], [⟨0, 32, .ro, 0, none⟩]⟩ /- REED_ERR_LO R415 -/,
  ⟨0x20504, [], [⟨0, 8, .ro, 0, none⟩, ⟨16, 4, .ro, 0, none⟩, ⟨24, 4, .ro, 0, none⟩]⟩ /- REED_ERR_HI R415 -/,
  ⟨0x30400, [], [⟨0, 1, .rw, 0, none⟩]⟩ /- TRACE_CTL R415 -/,
  ⟨0x30404, [], [⟨0, 1, .ro, 0, none⟩, ⟨16, 16, .ro, 0, none⟩]⟩ /- TRACE_STAT R415 -/,
  ⟨0x30500, [(0x4, 64)], [⟨0, 16, .rw, 0, none⟩, ⟨31, 1, .rw, 0, none⟩]⟩ /- TRACE_LOOP_k R415 -/,
  ⟨0x40400, [], [⟨0, 4, .ro, 0, none⟩, ⟨4, 1, .ro, 0, none⟩, ⟨8, 10, .ro, 0, some 0⟩, ⟨24, 8, .ro, 0, none⟩]⟩ /- MARL_STAT R415 -/,
  ⟨0x40404, [], [⟨0, 32, .ro, 0, some 0⟩]⟩ /- MARL_WEAR R415 -/,
  ⟨0x10400, [], [⟨0, 4, .ro, 1, none⟩, ⟨4, 3, .ro, 0, none⟩, ⟨8, 1, .ro, 0, none⟩, ⟨9, 1, .ro, 0, none⟩, ⟨10, 1, .ro, 0, none⟩, ⟨11, 1, .ro, 0, none⟩, ⟨16, 16, .ro, 0, none⟩]⟩ /- BOOT_STAT R438 -/,
  ⟨0x10404, [], [⟨0, 32, .ro, 0, none⟩]⟩ /- BOOT_VER R438 -/,
  ⟨0x2c0400, [], [⟨0, 16, .rw, 0, some 400⟩, ⟨16, 16, .rw, 0, some 80⟩]⟩ /- SUP_RISE R438 -/,
  ⟨0x2c0404, [], [⟨0, 16, .ro, 0, none⟩, ⟨16, 16, .ro, 0, none⟩]⟩ /- SUP_RISE_STAT R438 -/,
  ⟨0x2c0408, [], [⟨0, 1, .rw, 0, some 1⟩, ⟨1, 1, .rw, 0, some 0⟩, ⟨2, 1, .rw, 0, some 1⟩, ⟨4, 4, .rw, 0, some 2⟩, ⟨8, 8, .rw, 0, some 5⟩, ⟨16, 8, .rw, 0, some 60⟩, ⟨24, 8, .rw, 0, some 50⟩]⟩ /- START_CFG R438 -/,
  ⟨0x2c040c, [], [⟨0, 1, .sc, 0, none⟩]⟩ /- START_CTRL R438 -/,
  ⟨0x2c0440, [(0x4, 16)], [⟨0, 16, .rw, 0, some 2000⟩, ⟨16, 16, .rw, 0, some 1200⟩]⟩ /- CAL_NOM_t R438 -/,
  ⟨0x2c0480, [(0x4, 16)], [⟨0, 16, .rw, 0, some 0⟩]⟩ /- CAL_PTC_t R438 -/,
  ⟨0xc0b00, [], [⟨0, 8, .rw, 16, none⟩, ⟨8, 8, .rw, 0, none⟩, ⟨16, 8, .rw, 6, none⟩]⟩ /- CAL_CFG R438 -/,
  ⟨0xc0b04, [], [⟨0, 1, .sc, 0, none⟩, ⟨1, 1, .sc, 0, none⟩]⟩ /- CAL_CTRL R438 -/,
  ⟨0xc0b08, [], [⟨0, 4, .ro, 0, none⟩, ⟨4, 4, .ro, 0, none⟩, ⟨8, 1, .ro, 0, none⟩, ⟨16, 16, .ro, 0, none⟩]⟩ /- CAL_STAT R438 -/,
  ⟨0xc0b0c, [], [⟨0, 16, .ro, 0, some 0⟩, ⟨16, 16, .ro, 0, some 0⟩]⟩ /- CAL_HELD R438 -/]

/-- Every row of the register tables. -/
def regTable : List RRow := regTable0 ++ regTable1 ++ regTable2 ++ regTable3 ++ regTable4 ++ regTable5 ++ regTable6 ++ regTable7 ++ regTable8

/-- Fields of one COEF record: word offset, low bit, width, host-writable, reset value. -/
def coefFields : List (Nat × Nat × Nat × Bool × Nat) := [
  (0x0, 0, 16, true, 0),
  (0x0, 16, 16, true, 0),
  (0x4, 0, 16, true, 0),
  (0x4, 16, 16, true, 0),
  (0x8, 0, 16, true, 0),
  (0x8, 16, 2, true, 2),
  (0xc, 0, 16, true, 0),
  (0xc, 16, 8, true, 0),
  (0x10, 0, 4, true, 0),
  (0x10, 4, 3, true, 0),
  (0x10, 16, 16, true, 0),
  (0x14, 0, 15, true, 0),
  (0x14, 16, 14, true, 0),
  (0x40, 0, 16, true, 0),
  (0x40, 16, 16, true, 0),
  (0x44, 0, 16, true, 0),
  (0x44, 16, 5, true, 0),
  (0x44, 24, 1, true, 0),
  (0x48, 0, 16, true, 0),
  (0x48, 16, 1, true, 0)]

/-- Fields of one LOOP record: word offset, low bit, width, host-writable, reset value. -/
def loopFields : List (Nat × Nat × Nat × Bool × Nat) := [
  (0x0, 0, 1, true, 0),
  (0x0, 1, 1, true, 0),
  (0x0, 2, 1, true, 0),
  (0x0, 4, 4, true, 0),
  (0x0, 8, 2, true, 0),
  (0x0, 10, 1, true, 0),
  (0x4, 0, 16, true, 0),
  (0x4, 16, 16, true, 0),
  (0x8, 0, 16, true, 0),
  (0x8, 16, 16, true, 0),
  (0xc, 0, 16, true, 32768),
  (0xc, 16, 16, true, 32767),
  (0x10, 0, 16, true, 0),
  (0x10, 16, 16, false, 0),
  (0x14, 0, 32, true, 0),
  (0x18, 0, 32, true, 0),
  (0x1c, 0, 32, true, 0),
  (0x20, 0, 16, true, 0),
  (0x20, 16, 16, false, 0),
  (0x24, 0, 16, false, 32767),
  (0x24, 16, 16, false, 32768),
  (0x28, 0, 1, false, 0),
  (0x28, 1, 1, false, 0),
  (0x28, 2, 1, false, 0),
  (0x28, 3, 1, false, 0),
  (0x28, 8, 8, false, 0),
  (0x28, 16, 16, false, 0),
  (0x2c, 0, 6, false, 0),
  (0x2c, 16, 16, false, 65535),
  (0x40, 0, 32, false, 0),
  (0x44, 0, 8, false, 0),
  (0x44, 8, 8, false, 0),
  (0x44, 16, 16, false, 0),
  (0x48, 0, 16, false, 0),
  (0x48, 16, 1, false, 0),
  (0x48, 17, 1, false, 0),
  (0x48, 18, 1, false, 0),
  (0x4c, 0, 32, false, 0),
  (0x50, 0, 16, false, 0)]

/-- Fields of one CELL record: word offset, low bit, width, host-writable, reset value. -/
def cellFields : List (Nat × Nat × Nat × Bool × Nat) := [
  (0x0, 0, 4, false, 0),
  (0x0, 4, 4, false, 0),
  (0x0, 8, 1, false, 0),
  (0x0, 9, 1, false, 0),
  (0x0, 10, 1, false, 0),
  (0x0, 11, 1, false, 0),
  (0x0, 12, 1, false, 0),
  (0x0, 16, 16, false, 0),
  (0x4, 0, 16, false, 0),
  (0x4, 16, 16, false, 0),
  (0x8, 0, 16, false, 0),
  (0x8, 16, 8, false, 0),
  (0xc, 0, 32, false, 0)]

/-- Fields of one CIR record: word offset, low bit, width, host-writable, reset value. -/
def cirFields : List (Nat × Nat × Nat × Bool × Nat) := [
  (0x0, 0, 16, false, 0),
  (0x0, 16, 3, false, 0),
  (0x0, 20, 1, false, 0),
  (0x0, 21, 1, false, 0),
  (0x0, 22, 1, false, 0),
  (0x4, 0, 10, false, 0),
  (0x4, 16, 10, false, 0),
  (0x8, 0, 16, false, 0),
  (0x8, 16, 1, false, 0),
  (0x8, 17, 1, false, 0),
  (0x8, 18, 1, false, 0),
  (0x8, 19, 1, false, 1),
  (0x8, 20, 3, false, 0),
  (0x8, 23, 1, false, 0),
  (0xc, 0, 32, false, 0),
  (0x10, 0, 32, false, 0),
  (0x14, 0, 16, false, 0),
  (0x14, 16, 8, false, 0),
  (0x18, 0, 32, false, 0),
  (0x1c, 0, 16, false, 0),
  (0x1c, 16, 16, false, 0)]

/-- Fields of one PATH record: word offset, low bit, width, host-writable, reset value. -/
def pathFields : List (Nat × Nat × Nat × Bool × Nat) := [
  (0x0, 0, 16, false, 0),
  (0x0, 16, 1, false, 0),
  (0x0, 17, 1, false, 0),
  (0x0, 18, 6, false, 0),
  (0x4, 0, 4, false, 0),
  (0x4, 8, 4, false, 0),
  (0x4, 16, 1, false, 0),
  (0x8, 0, 32, false, 0),
  (0xc, 0, 16, false, 0),
  (0xc, 16, 16, false, 0),
  (0x10, 0, 16, false, 0),
  (0x10, 16, 16, false, 0)]

end Sys2Proof.Machine
end

