-- ==== Sys2Proof/Machine/State.lean ====
section
/-! DEFINITION. The state of the block, as plain data: every register field and SRAM record field that is not at its
reset value (`Dev.mem`), the state the chapters describe beside the registers, and the queue of waiting commands. -/

namespace Sys2Proof.Machine

/-! ## Events (chapter 17) -/

/-- An occurrence presented to a block's event arbiter and not granted yet (R373): source, a severity given in place of
the stated one (R365), OBJECT, VALUE, injected, and the pick and PTP time at which it was detected. -/
structure Occ where
  src : Nat
  sev : Option Nat
  obj : Nat
  val : Nat
  inj : Bool
  pick : Nat
  time : Nat
  deriving DecidableEq, Repr

/-- A pending record (R376) or a logged one (R379), with the fields of R301.  `since`: TB at which it became pending;
`hold`: TB until which it is held after the last send. -/
structure EvRec where
  block : Nat
  src : Nat
  sev : Nat
  coal : Bool
  recov : Bool
  esc : Bool
  inj : Bool
  cls : Nat
  count : Nat
  pick : Nat
  time : Nat
  obj : Nat
  val : Nat
  since : Nat
  hold : Nat
  deriving DecidableEq, Repr

/-- What a source keeps beside its registers, once for real and once for injected occurrences: TB from which its quiet
period runs (R370), whether it was held when last looked at, the last send (TB, level), the last DETAIL, and its level
(7: none; the real one is also in EV_LEVEL). -/
structure SrcS where
  quietFrom : Nat := 0
  held : Bool := false
  sent : Option (Nat × Nat) := none
  obj : Nat := 0
  val : Nat := 0
  lvl : Nat := 7
  deriving DecidableEq, Repr

/-- The event arbiters, the pending records and the logs.  Keys of `waiting` and `rot` are blocks; keys of `src` are
block × 32 + 16 × injected + source. -/
structure EvS where
  waiting : List (Nat × List Occ) := []
  rot : List (Nat × Nat) := []
  src : List (Nat × SrcS) := []
  pend : List EvRec := []
  logNext : Nat := 0
  log : List EvRec := []
  clearPend : List Nat := []
  /-- Pick [63:32] of the first fault, by block, which a read of EV_FIRST_PICK_LO latches (R367). -/
  firstHi : List (Nat × Nat) := []
  deriving DecidableEq, Repr

/-! ## Counters, histograms, dumps (chapter 18) -/

/-- One counter: what is in force of PERF_SEL (R383), the 48-bit count, OVF. -/
structure Ctr where
  mode : Nat := 3
  ev : Nat := 0
  pol : Nat := 0
  qual : Nat := 63
  val : Nat := 0
  ovf : Bool := false
  deriving DecidableEq, Repr

/-- One histogram unit (R389): what is in force of HISTO_CFG, the bins (sparse), SAMPLES, OVF, CLEAR_PICK. -/
structure Histo where
  shift : Nat := 0
  input : Nat := 16
  base : Nat := 0
  bins : List (Nat × Nat) := []
  samples : Nat := 0
  ovf : Bool := false
  clearPick : Nat := 0
  deriving DecidableEq, Repr

/-- A snapshot (R382): its boundary, the counters and units as they stood. -/
structure Snap where
  pick : Nat := 0
  time : Nat := 0
  ctrs : List (Nat × Ctr) := []
  histos : List (Nat × Histo) := []
  shed : Bool := false
  /-- The list words. -/
  words : List Nat := []
  deriving DecidableEq, Repr

/-- A taken STATS_CLEAR that waits for its boundary (R391). -/
structure ClearReq where
  scope : Nat
  classes : Nat
  cmask : Nat
  umask : Nat
  item : Nat
  deriving DecidableEq, Repr

/-- Perf: counters, units, the last snapshot, pending selections (counter or unit numbers), pending clears, the signal
levels sampled by EDGE and LEVEL (R385; a listed signal is high). -/
structure PerfS where
  ctrs : List (Nat × Ctr) := []
  histos : List (Nat × Histo) := []
  snap : Snap := {}
  /-- The dump still to be built: DUMP_SEQ and its snapshot (R393). -/
  dump : Option (Nat × Snap) := none
  selPend : List Nat := []
  cfgPend : List Nat := []
  clears : List ClearReq := []
  high : List Nat := [17, 18, 19]
  binLatch : List (Nat × Nat) := []
  seq : Nat := 0
  deriving DecidableEq, Repr

/-! ## Time (chapter 15) and the pick (chapters 01, 03) -/

/-- A step that waits for its boundary S (R332): MODE, VALUE, the item to complete (none: automatic). -/
structure PendStep where
  at_ : Nat
  mode : Nat
  value : Int
  item : Option Nat
  deriving DecidableEq, Repr

/-- One timed pulse (R336): armed, the PTP time of its next rising edge, the TB of the running pulse's falling edge. -/
structure Pulse where
  armed : Bool := false
  next : Nat := 0
  fallTb : Option Nat := none
  deriving DecidableEq, Repr

/-- A master heard in Announce messages (R329): sourcePortIdentity, what it announces, TB at which it was last heard. -/
structure Master where
  src : Nat
  prio1 : Nat
  cls : Nat
  acc : Nat
  var : Nat
  prio2 : Nat
  gm : Nat
  steps : Nat
  utc : Nat
  heardTb : Nat
  /-- Announce messages heard, up to 2 (a foreign master qualifies at the second). -/
  seen : Nat
  deriving DecidableEq, Repr

/-- The timebase, PTP and PPS state. -/
structure TimeS where
  /-- TB, ns (R323). -/
  tb : Nat := 0
  /-- OFFSET, ns (R323). -/
  ofs : Int := 0
  step : Option PendStep := none
  /-- The last measured offset since reset (R332). -/
  meas : Option Int := none
  lockRun : Nat := 0
  adjs : List Int := []
  lastSync : Nat := 0
  lastPps : Nat := 0
  /-- TB of the last PPS edge accepted (R446). -/
  ppsTb : Option Nat := none
  refOkSince : Option Nat := none
  refclk : Bool := true
  pulses : List (Nat × Pulse) := []
  /-- Port in use after a fallback (R329). -/
  portNow : Option Nat := none
  masters : List Master := []
  /-- A two-step Sync awaiting its Follow_Up: sequence, t2, correction. -/
  syncWait : Option (Nat × Nat × Int) := none
  /-- t1 and t2 of the last Sync, corrected. -/
  syncTs : Option (Int × Nat) := none
  /-- TB of the last delay request. -/
  lastDelay : Option Nat := none
  /-- t3 of the delay request in flight with its sequence. -/
  delayReq : Option (Nat × Nat) := none
  seqSync : Nat := 0
  seqAnn : Nat := 0
  seqDelay : Nat := 0
  /-- An event message just sent, whose timestamp goes out in a follow-up: type, sequence, timestamp, destination requestor. -/
  txEvent : Option (Nat × Nat × Nat × Nat) := none
  /-- A two-step Pdelay_Resp that awaits its follow-up: sequence, t2, t4, correction. -/
  pdelay : Option (Nat × Nat × Nat × Int) := none
  /-- Identity of the master in use. -/
  parent : Option Nat := none
  deriving DecidableEq, Repr

/-- The pick: number, rate and beat in force, boundary from which the rate counts (c of R324) and its TB. -/
structure PickS where
  num : Nat := 0
  rate : Nat := 2
  beat : Nat := 2
  chgPick : Nat := 0
  chgTb : Nat := 20000
  /-- Boundary at which a written PICK_CFG takes effect (R54). -/
  due : Option Nat := none
  /-- True once boundary 0 has fallen. -/
  started : Bool := false
  deriving DecidableEq, Repr

/-! ## Cheda (chapter 13) -/

/-- A key record (R281). -/
structure KeyRec where
  key : List Byte
  maxPriv : Nat
  perm : Nat
  deriving DecidableEq, Repr

/-- The counts of the summary record of a session (R302, R378). -/
structure Shed where
  trace : Nat := 0
  histo : Nat := 0
  bulk : Nat := 0
  event : Nat := 0
  coal : Nat := 0
  deriving DecidableEq, Repr

/-- A session slot in use (R283-R286). -/
structure Session where
  opening : Bool
  closing : Bool
  keyId : Nat
  priv : Nat
  ctrRead : Bool
  hostId : Nat
  takeover : Bool
  hostNonce : List Byte
  devNonce : List Byte
  sk : List Byte
  openTb : Nat
  lastTb : Nat
  addr : Addr
  /-- Hs and the accepted sequences of its window. -/
  hs : Option Nat
  acc : List Nat
  minSev : Nat
  evSeq : Nat
  shed : Shed
  deriving DecidableEq, Repr

/-- An item taken (R287): its number, who sent it, opcode, HOST_ID, index in its packet, final status once reached (none:
PENDING), whether REFER was given, result bytes, CSN, whether a reply or completion has carried its final status, TB of it. -/
structure ItemRec where
  id : Nat
  src : ItemSrc
  op : Nat
  hostId : Nat
  fin : Option Nat
  refer : Bool
  result : List Byte
  csn : Nat
  told : Bool
  finTb : Nat
  /-- TB at which it was taken. -/
  takenTb : Nat
  /-- Held back from effect: inside a transaction (staged), or a held GROUP item. -/
  staged : Bool
  /-- True once the item passed its commit point (R290). -/
  committed : Bool
  deriving DecidableEq, Repr

/-- A reply under construction or sent (R286, R288): slot, sequence, the item numbers in order, sent. -/
structure ReplyRec where
  slot : Nat
  seq : Nat
  addr : Addr
  items : List Nat
  sent : Bool
  lastTb : Nat
  /-- A duplicate asked for the reply again before it was sent, or a stale reply is due. -/
  stale : Bool
  deriving DecidableEq, Repr

/-- A staged item of a transaction: the item, opcode, parameters (R291). -/
structure Staged where
  item : Nat
  op : Nat
  par : List Byte
  deriving DecidableEq, Repr

/-- The open transaction. -/
structure Txn where
  slot : Nat
  staged : List Staged
  lastTb : Nat
  /-- COMMIT_SET has been accepted, with its item. -/
  commit : Option Nat
  deriving DecidableEq, Repr

/-- A COMMIT_SET past its commit point (R292): session slot, staged items, its item, CSN, and the beat boundary at which its writes
take effect, once it has completed. -/
structure SetDue where
  slot : Nat
  staged : List Staged
  commit : Nat
  csn : Nat
  effect : Option Nat
  deriving DecidableEq, Repr

/-- A ledger entry (R289). -/
structure LedgerRec where
  hostId : Nat
  seq : Nat
  tag : Nat
  op : Nat
  status : Nat
  unit : Nat
  csn : Nat
  item : Option Nat
  deriving DecidableEq, Repr

/-- Cheda: sessions by slot, key failures and locks by KEY_ID, items, replies, ledger, transaction. -/
structure ChedaS where
  sessions : List (Nat × Session) := []
  fails : List (Nat × List Nat) := []
  locked : List (Nat × Nat) := []
  nextItem : Nat := 0
  items : List ItemRec := []
  replies : List ReplyRec := []
  ledger : List LedgerRec := []
  ledgerDropped : Nat := 0
  txn : Option Txn := none
  setDue : Option SetDue := none
  icmp : List (Nat × List Nat) := []
  deriving DecidableEq, Repr

/-! ## Reed, Loam (chapter 19) -/

/-- A Reed request (R403, R404). -/
structure ReedReq where
  master : Nat
  addr : Nat
  write : Bool
  words : List Nat
  count : Nat
  lock : Bool
  unlock : Bool
  barrier : Bool
  sinceTb : Nat
  starved : Bool
  longHeld : Bool
  deriving DecidableEq, Repr

/-- A lock held on a target (R405): master, writes collected, words of the sequence so far, TB of the first grant. -/
structure ReedLock where
  master : Nat
  writes : List (Nat × Nat)
  words : Nat
  sinceTb : Nat
  deriving DecidableEq, Repr

/-- The end of a request: master, address, error, words read. -/
structure ReedDone where
  master : Nat
  addr : Nat
  error : Bool
  words : List Nat
  deriving DecidableEq, Repr

/-- Reed: waiting requests in the order issued, locks and last-granted master by target, the last
response, items that a core's reset has run again once (R406). -/
structure ReedS where
  waiting : List ReedReq := []
  locks : List (Nat × ReedLock) := []
  rot : List (Nat × Nat) := []
  done : Option ReedDone := none
  rerun : List Nat := []
  deriving DecidableEq, Repr

/-- A trace record (R409). -/
structure TraceRec where
  pick : Nat
  loop : Nat
  code : Nat
  err : Nat
  y : Nat
  corr : Nat
  flags : Nat
  mode : Nat
  deriving DecidableEq, Repr

/-- A slack-history record (R408). -/
structure SlackRec where
  pick : Nat
  engines : List (Nat × Nat)
  links : List (Nat × Nat)
  deriving DecidableEq, Repr

/-- A trace or slack export under way (R410). -/
structure Export where
  src : Nat
  slot : Nat
  start : Nat
  count : Nat
  item : Nat
  pick : Nat
  time : Nat
  deriving DecidableEq, Repr

/-- Loam (R407-R410): the rings (oldest first) with the index of the next record, the export, retired rows. -/
structure LoamS where
  trace : List TraceRec := []
  traceNext : Nat := 0
  slack : List SlackRec := []
  slackNext : Nat := 0
  export_ : Option Export := none
  retired : List Nat := []
  deriving DecidableEq, Repr

/-! ## Drafts (chapter 02) -/

/-- The two slots, as word index and nonzero word; an activation that waits for its swap (R38). -/
structure DraftS where
  active : List (Nat × Nat) := []
  staged : List (Nat × Nat) := []
  swapDue : Bool := false
  deriving DecidableEq, Repr

/-! ## Loops (chapters 03, 04) -/

/-- The coefficients a step uses, already scaled (R57), as signed or unsigned integers of their formats. -/
structure Coef where
  kp : Int
  ki : Int
  kd : Int
  kf : Int
  kaw : Int
  deriving DecidableEq, Repr

/-- What a loop keeps beside its 128 bytes: the pick of its last step, the coefficients of that step (R71), a
back-calculation due with its drive code (R62), the correction change to fold (R85), the tracker epoch it has folded, the
runs of R101, whether it holds for loss of signal (R65). -/
structure LoopAux where
  stepped : Option Nat := none
  coef : Option Coef := none
  back : Option Nat := none
  fold : Bool := false
  epoch : Nat := 0
  lowRun : Nat := 0
  satBeats : Nat := 0
  satSeen : Nat := 0
  satAll : Bool := true
  enSeen : Bool := false
  deriving DecidableEq, Repr

/-- An accepted move (R76): loop, engine, slot, the item or none (Silt). -/
structure Move where
  loop : Nat
  engine : Nat
  slot : Nat
  item : Option Nat
  deriving DecidableEq, Repr

/-- Loops: auxiliary state by loop; writes that wait for the next pick boundary (field key, value) with the items to
complete (R19); coefficient writes of the beat (R72) and their items; moves; slots that no longer hold their reset
loop (engine × 1024 + slot; `none` is empty); caps and lit cells as they stood at the last beat boundary (R56).
`before`: by loop changed since the pick boundary, its stored fields as they stood there, which a read returns (R19). -/
structure LoopS where
  aux : List (Nat × LoopAux) := []
  shadow : List (Nat × Nat) := []
  shadowItems : List Nat := []
  coefShadow : List (Nat × Nat) := []
  coefItems : List Nat := []
  moves : List Move := []
  slots : List (Nat × Option Nat) := []
  classCap : List Nat := []
  classTcap : List Nat := []
  tileCap : List Nat := []
  litBeat : List Nat := []
  before : List (Nat × List (Nat × Nat)) := []
  /-- Steps by engine in the pick under way and in the beat under way (R78). -/
  engPick : List (Nat × Nat) := []
  engBeat : List (Nat × Nat) := []
  deriving DecidableEq, Repr

/-- One tracker: the configuration in force, the epoch of correction changes (R85), consecutive updates (1/16 periods) that met
the lock criteria, TB of entry to COAST, TB of the last valid word (or of the start of acquisition), whether the gap since was found to be a loss of source, the valid words of the last nominal
period (TB, code, the tracker's phase there), TB from which its updates count and their number, PHASE at the next
boundary, the corrections of the phase since the last one, a write of TRK_CFG that waits for the beat boundary, the BASE pair that a write of BASE_HI brings there, the transition that waits for the next one. -/
structure Trk where
  fund : Nat := 0
  src : Nat := 0
  mode : Nat := 0
  base : Nat := 0
  epoch : Nat := 0
  lockRun : Nat := 0
  coastTb : Nat := 0
  lastWord : Nat := 0
  lost : Bool := false
  words : List (Nat × Int × Nat) := []
  updTb : Nat := 0
  updNo : Nat := 0
  next : Nat := 0
  corr : Int := 0
  pend : Bool := false
  pendBase : Option Nat := none
  /-- A configuration just loaded by secure boot takes effect at the next pick boundary (R83). -/
  soon : Bool := false
  goes : Option Nat := none
  deriving DecidableEq, Repr

/-- A pending clear of tables (R88): the loops named; for a class that unlisted loops belong to, all others but those
excepted. -/
structure ClrReq where
  loops : List Nat
  others : Bool
  but : List Nat
  item : Option Nat
  deriving DecidableEq, Repr

/-- A treadle generation (R95): bins, each tracker's FUND, TREADLE_SEL of each loop that is not 0. -/
structure TrdGen where
  bins : List (Nat × Nat) := []
  funds : List Nat := []
  sels : List (Nat × Nat) := []
  deriving DecidableEq, Repr

/-- A treadle save under way (R95): its item, if an item asked for it, and the generation it writes, copied as it stood at one pick
boundary. -/
structure TrdSave where
  item : Option Nat
  gen : TrdGen
  deriving DecidableEq, Repr

/-- Treadle: trackers, tables (loop × 256 + bin, 16-bit value), table writes of the pick, clears, tables awaiting mirror
with those that wait as a clear, the sweep position; by table changed by learning since the pick boundary, its stored bins as they stood
there, which a read returns (R19), and the clears that waited there, which CLR_PEND shows (R88). `write`: by loop, the bins with their
values, and the item. -/
structure TrdS where
  trk : List (Nat × Trk) := []
  bins : List (Nat × Nat) := []
  write : List (Nat × List (Nat × Nat) × Nat) := []
  clears : List ClrReq := []
  clearsAt : List ClrReq := []
  dirty : List Nat := []
  dirtyClear : List Nat := []
  sweepAt : Nat := 0
  sweepFrom : Option Nat := none
  save : Option TrdSave := none
  before : List (Nat × List (Nat × Nat)) := []
  deriving DecidableEq, Repr

/-! ## Cells (chapter 05) -/

/-- What a trigger does to a cell at the next boundary (R98).  `fault cause`; `tileFault`: fenced for a fatal fault;
`tilePark`; `offline`; `adopt code fc`: adoption from an echo; `adoptUndo code`; `commit cross`: onto a live route toward a
state; `park`: leaves every live route; `pieceStart sp`; `pieceEnd sp`; `freeze item`; `unfreeze item`; `calStart`;
`calEnd`; `undo cause`; `undone`; `warm code cross owner`; `arrive`; `settled`; `clear`: the quiet period ended. -/
inductive CellAct where
  | fault (cause : Nat)
  | tileFault
  | tilePark
  | offline
  | adopt (code fc : Nat)
  | adoptUndo (code : Nat)
  | commit (cross : Bool)
  | park
  | pieceStart (sp : Nat)
  | pieceEnd (sp : Nat)
  | freeze (item : Nat)
  | unfreeze (item : Nat)
  | calStart
  | calEnd
  | undo (cause : Nat)
  | undone
  | warm (code : Nat) (cross : Bool) (owner : Nat)
  | arrive (wide : Bool)
  | settled
  | clear
  deriving DecidableEq, Repr

/-- A trigger that waits for the next boundary: cell, rank of R100, act. -/
structure CellTrig where
  cell : Nat
  rank : Nat
  act : CellAct
  deriving DecidableEq, Repr

/-- What a cell keeps beside its record: the feed-forward model of its heater (power in 10 µW × 2^16 at TB `t0`, target
power, commanded change), the state it holds or goes to, SP before a piece, standing causes of a fault, TB from which its
quiet period runs, whether the drive was held, items that wait on it, adoption still due after holdover, the pick of entry
to the mode, the record as it stood at entry to WARM (R104), whether the last step met ARRIVE_TOL, steps in SETTLE. -/
structure CellAux where
  h0 : Nat := 0
  t0 : Nat := 0
  target : Nat := 0
  change : Nat := 0
  model : Bool := false
  cross : Bool := false
  causes : List Nat := []
  quietFrom : Nat := 0
  held : Bool := false
  freezeItems : List Nat := []
  calItem : Option Nat := none
  adopt : Bool := false
  entry : Nat := 0
  saved : List Nat := []
  near : Bool := false
  steps : Nat := 0
  /-- The cell has reached HOLD since it last entered SWITCH or PARKED (R121). -/
  reached : Bool := false
  /-- Boundary of the cell's last transition: it takes at most one at a boundary (R99). -/
  moved : Option Nat := none
  deriving DecidableEq, Repr

/-- Cells: auxiliary state, triggers of the pick. -/
structure CellS where
  aux : List (Nat × CellAux) := []
  pend : List CellTrig := []
  deriving DecidableEq, Repr

/-- A tile transition that waits for the next boundary (R108): tile, mode, the items that complete with it. -/
structure TileTrig where
  tile : Nat
  mode : Nat
  fatal : Bool
  items : List Nat
  deriving DecidableEq, Repr

/-! ## Calibration records (R430) -/

/-- LOOPCFG. -/
structure LoopCfg where
  cls : Nat
  sel : Nat
  trdEn : Bool
  gainNeg : Bool
  outerEn : Bool
  spNom : Nat
  spRange : Nat
  uMin : Nat
  uMax : Nat
  deriving DecidableEq, Repr

/-- One cell's calibration record. -/
structure CalRec where
  ptab : List Nat
  bar : List Nat
  cross : List Nat
  derived : Nat
  park : Nat
  yBar : Nat
  yCross : Nat
  p2pi : Nat
  tau : Nat
  fcEff : Nat
  fcE : Nat
  cfg : Option LoopCfg
  failed : Bool
  shadow : Bool
  deriving DecidableEq, Repr

/-- One port's record. -/
structure PortCal where
  voaStart : Nat
  monOffset : Nat
  cfg : Option LoopCfg
  deriving DecidableEq, Repr

/-- A tile's header. -/
structure CalHead where
  part : Nat
  rev : Nat
  band : Nat
  pick : Nat
  witCal : Nat
  deriving DecidableEq, Repr

/-- A cell in a calibration pass (R431): its measurements (none: the sweep gave none), the step it is at (0 enters CAL, 1 sweep, 2 heater
response, 3 FC, 4 records and entries, 5 return), the point of that step, and the picks left at it. -/
structure CalJob where
  cell : Nat
  meas : Option CellMeas
  step : Nat
  point : Nat
  left : Nat
  deriving DecidableEq, Repr

/-- A calibration under way: tile (or one cell), passes done, the item, cells failed, mode before; the pass under way: its cells still
at work, and for the port group what was measured (R431). -/
structure CalRun where
  tile : Nat
  cell : Option Nat
  pass : Nat
  item : Option Nat
  fails : Nat
  aborted : Bool
  stage8 : Bool
  lit : Bool := false
  work : List CalJob := []
  ports : List PortMeas := []
  wit : Nat := 0
  deriving DecidableEq, Repr

/-- A set of calibration records: by cell, by tile × 256 + port, by tile. -/
structure CalSet where
  cells : List (Nat × CalRec) := []
  ports : List (Nat × PortCal) := []
  heads : List (Nat × CalHead) := []
  deriving DecidableEq, Repr

/-- Calibration: records in SRAM, runs. -/
structure CalS where
  recs : CalSet := {}
  runs : List CalRun := []
  deriving DecidableEq, Repr

/-! ## Circuits, Shuttle, pieces (chapter 06) -/

/-- What a command of the commit order does. -/
inductive CmdKind where
  | establish | release | migrate | altArm | altDisarm | protect | group | commitSet | move | restore | dark | replanAlt
  deriving DecidableEq, Repr

/-- The parameters of a circuit item (R297), parsed. -/
structure CirPar where
  id : Nat
  flags : Nat
  inPort : Nat
  outPort : Nat
  voa : Nat
  via : Nat
  rsv : Nat
  time : Nat
  route : List Hop
  deriving DecidableEq, Repr

/-- A plan (R131, R135): route, moves still to carry out, basis. -/
structure Plan where
  route : List Hop
  moves : List (Nat × List Hop)
  basis : Nat
  warmTb : Option Nat
  viaAlt : Bool
  deriving DecidableEq, Repr

/-- A member of a group: item, kind, parameters. -/
structure GroupMem where
  item : Nat
  kind : CmdKind
  par : CirPar
  deriving DecidableEq, Repr

/-- A command in commit order: number, item, kind, parameters, members of a group, commit boundary if timed, plan, moves
planned and dark moves done, whether it was late, whether it waits for HOLDOVER. -/
structure Cmd where
  no : Nat
  item : Option Nat
  kind : CmdKind
  par : CirPar
  members : List GroupMem
  at_ : Option Nat
  plan : Option Plan
  planFailed : Option Nat
  moves : Nat
  darkMoves : Nat
  late : Bool
  overridden : Bool
  waited : List Nat
  /-- The plans of a group's members, by item (R135). -/
  mplans : List (Nat × Plan) := []
  deriving DecidableEq, Repr

/-- Every plan that a command holds. -/
def Cmd.plansHeld (c : Cmd) : List Plan := c.plan.toList ++ c.mplans.map (fun (m : Nat × Plan) => m.2)

/-- A command holds a plan. -/
def Cmd.planned (c : Cmd) : Bool := c.plan.isSome || !c.mplans.isEmpty

/-- What an output VOA carries (R64): the circuit's entry, ID and CSN, the loop that holds its input monitor, whether the tile is its
last. -/
structure VoaUse where
  entry : Nat
  id : Nat
  csn : Nat
  inLoop : Nat
  last : Bool
  deriving DecidableEq, Repr

/-- Drives placed for a boundary (R128, R137): boundary, live entry, cell acts; VOA loops whose code follows R64, egress VOA
loops that open at their start code, SP written under R129 (loop, SP), and what the VOAs carry until then (R64). -/
structure Due where
  at_ : Nat
  entry : Nat
  acts : List CellTrig
  voas : List Nat
  opens : List Nat
  sps : List (Nat × Nat)
  was : List (Nat × VoaUse) := []
  /-- The FC charge, pJ, and whether a protection switch placed them (R137). -/
  charge : Nat := 0
  prot : Bool := false
  deriving DecidableEq, Repr

/-- A piece (R140): entry, its command's item, old and new route, split cell, join cells, phase (0 A, 1 B, 2 C), n, the
boundary of the first commit and of lock, N, trim, beats within LOCK_TOL, beats in lock, the estimate, paused. -/
structure Piece where
  entry : Nat
  item : Option Nat
  isMove : Bool
  cmd : Nat
  old : List Hop
  new : List Hop
  split : Nat
  joinNew : Nat
  joinOld : Nat
  phase : Nat
  n : Nat
  start : Nat
  lockAt : Nat
  len : Nat
  trim : Int
  good : Nat
  bad : Nat
  beats : Nat
  est : Nat
  paused : Bool
  csn : Nat
  spSplit : Nat
  spJoin : Nat
  joinIn : Bool
  deriving DecidableEq, Repr

/-- A completion that waits on SETTLED and acknowledgement (R122): item, what it waits for (0 every entry settled, 1 the commit
boundary, 2 the end of the piece), entries, result so far. -/
structure CirWait where
  item : Nat
  mode : Nat
  entries : List Nat
  csn : Nat
  pick : Nat
  moves : Nat
  flags : Nat
  count : Nat
  deriving DecidableEq, Repr

/-- A pin of PROTECT_IN: the level last seen (high), TB since when, its debounced asserted state, whether it has triggered since it was last
deasserted, whether its switch has been carried out, PTP time of the edge. -/
structure ProtPin where
  level : Bool := false
  sinceTb : Nat := 0
  deb : Bool := false
  triggered : Bool := false
  served : Bool := false
  edge : Nat := 0
  deriving DecidableEq, Repr

/-- What the outer loop keeps of one pick of a path (R67): pick, output-monitor sample, leak of each cell in path order; none
where the endpoint delivered no sample within 8 picks. -/
structure OuterPick where
  pick : Nat
  pout : Option Nat
  leaks : List (Option Nat)
  deriving DecidableEq, Repr

/-- A correlation of a path (R67): group, first pick, the beat length it dithers under, its cells as (cell, Walsh row, DITHER_LAG). -/
structure OuterJob where
  group : Nat
  first : Nat
  n : Nat
  cells : List (Nat × Nat × Nat)
  deriving DecidableEq, Repr

/-- The outer loop of one path: running (not suspended), the correlations open with the cells not yet written, picks kept. -/
structure OuterS where
  running : Bool := false
  jobs : List OuterJob := []
  hist : List OuterPick := []
  deriving DecidableEq, Repr

/-- The Circuit unit and Shuttle. -/
structure CirS where
  csn : Nat := 0
  nextCmd : Nat := 1
  queue : List Cmd := []
  prot : List Cmd := []
  held : List (Nat × List GroupMem) := []
  due : List Due := []
  pieces : List Piece := []
  waits : List CirWait := []
  pins : List (Nat × ProtPin) := []
  /-- Energy (pJ) already charged for the boundaries still to come, by boundary. -/
  fcUsed : List (Nat × Nat) := []
  /-- Boundary of the last slice of the last commit. -/
  lastSlice : Nat := 0
  /-- Consecutive low steps by VOA loop for the loss trip (R146). -/
  trips : List (Nat × Nat) := []
  /-- The outer loop by path record. -/
  outer : List (Nat × OuterS) := []
  /-- The boundary at which the entries of a commit apply after a missed frame, by live entry (R184). -/
  applied : List (Nat × Nat) := []
  deriving DecidableEq, Repr

/-! ## Tilth (chapter 07) -/

/-- A ledger entry (R155): owner plan (kind × 2^64 + number), target code and state, the ramp (start, end, step, length),
undoing with its cause. -/
structure Led where
  owner : Nat
  target : Nat
  cross : Bool
  start : Nat
  stop : Nat
  i : Nat
  len : Nat
  undoing : Option Nat
  waiting : Bool
  /-- Pick in which the ramp last took a step. -/
  last : Nat := 0
  deriving DecidableEq, Repr

/-- A reservation (R154). -/
structure Rsv where
  handle : Nat
  inPort : Nat
  outPort : Nat
  via : Option Nat
  untilTb : Nat
  route : List Hop
  deriving DecidableEq, Repr

/-- Tilth: ledger by cell, reservations oldest first, hold-off ends by tile (none: the cause stands), what is in force of
the registers, whether admission is stopped for a take-back. -/
structure TilthS where
  led : List (Nat × Led) := []
  rsv : List Rsv := []
  holdoff : List (Nat × Option Nat) := []
  stopped : Bool := false
  armedOrder : List Nat := []
  deriving DecidableEq, Repr

/-! ## Weft links (chapter 08) -/

/-- An entry of a drive frame's chunk (R174, R175). -/
inductive Entry where
  | short (delta : Nat)
  | long (code : Nat)
  | fc (sw cross : Bool) (start decay : Nat)
  deriving DecidableEq, Repr

/-- A drive frame as built (R173): the header, the 64-bit mode commands, the entries by loop number. -/
structure DriveFrame where
  listen : Bool
  tile : Nat
  band : Nat
  rate : Nat
  claimOnly : Bool
  claim : Nat
  pick : Nat
  snsMask : Nat
  dt : Nat
  modes : List Nat
  entries : List (Nat × Entry)
  deriving DecidableEq, Repr

/-- One link beside its registers. -/
structure Link where
  /-- Mode commands that wait for a frame, oldest first, as 64-bit words. -/
  modeQ : List Nat := []
  /-- FC entries for the next boundary, by cell. -/
  fcQ : List (Nat × Entry) := []
  /-- Codes handed over in this pick by loop. -/
  codes : List (Nat × Nat) := []
  /-- Chunks closed in this pick. -/
  closed : List Nat := []
  /-- The frame last launched. -/
  sent : Option DriveFrame := none
  /-- Codes of the frame last launched, by loop. -/
  sentCodes : List (Nat × Nat) := []
  /-- The boundary marker last launched (R170): its instant in units of 62.5 ps of TB, and its block. -/
  marker : Option (Nat × Nat) := none
  /-- Every cell of the tile is adopted from its echo (R112); `seen`: those adopted. -/
  adopting : Bool := false
  seen : List Nat := []
  /-- The calibration source is on (R176). -/
  source : Bool := false
  /-- Codes the tile holds, by loop, as acknowledged; newest code sent by loop. -/
  ref : List (Nat × Nat) := []
  resend : Bool := false
  unacked : Nat := 0
  ackTb : Option Nat := none
  heard : Bool := false
  /-- Newest sample by key (loop × 2 + which), with its pick. -/
  samples : List (Nat × Nat × Nat) := []
  late : List Nat := []
  /-- Newest echo by drive index, with its pick. -/
  echo : List (Nat × Nat × Nat) := []
  thermal : List (Nat × Nat) := []
  fatal : Bool := false
  claimRej : Bool := false
  flags : List Nat := []
  /-- Lanes that work (bits 0-5), lanes that rejoin at the beat. -/
  lanes : Nat := 0
  rejoin : Nat := 0
  dt : Nat := 0
  mask : Nat := 0
  trained : Bool := false
  /-- TB at which the last training began, and at which a failed lane was last retrained or first failed (R186, R187). -/
  trainTb : Nat := 0
  laneTb : Nat := 0
  /-- The words of the sense header last heard (R179). -/
  head : List Nat := []
  /-- The tile was taken OFFLINE by an item or by its role: it stays there until its link trains again or its role changes. -/
  barred : Bool := false
  /-- Target and park entries written to the tile: cell-local index × 16 + band × 4 + slot, and the code. -/
  entries : List (Nat × Nat) := []
  burst : Bool := false
  /-- The rise bucket of the tile (R427), in 10 µW units; it starts full. -/
  bucket : Int := 40000
  wake : List Nat := []
  wakeTb : Nat := 0
  wakeQueued : Bool := false
  wakeFor : Option Nat := none
  wakeItems : List Nat := []
  slackBeat : Option Nat := none
  /-- Pick in which the sense header last brought WITNESS. -/
  witPick : Option Nat := none
  /-- APPLIED_PICK last echoed. -/
  applied : Nat := 0
  deriving DecidableEq, Repr

/-- The sixteen links, pending tile transitions, the module's rise bucket, cells whose change waits (R427). -/
structure WeftS where
  links : List (Nat × Link) := []
  tileTrig : List TileTrig := []
  bucket : Int := 200000
  waited : List Nat := []
  deriving DecidableEq, Repr

/-! ## What Marl and the fuses hold through resets (chapters 04, 11, 13, 17, 19, 20) -/

/-- A firmware image in a slot (R420): what its header says, and whether signature and digest verify. -/
structure Image where
  version : Nat
  secVer : Nat
  good : Bool
  deriving DecidableEq, Repr

/-- Silt's record of one engine for one operating hour (R240): hour, A (of 2^-16 of the age-0 figure), slack ns. -/
structure SiltRec where
  hour : Nat
  age : Nat
  slack : Nat
  deriving DecidableEq, Repr

/-- A cell's drift (R243, R244): D, weekly records, flagged, re-centred, no room, headroom in 0.1 %. -/
structure Drift where
  now : Nat := 0
  recs : List (Nat × Nat) := []
  flagged : Bool := false
  recentred : Bool := false
  noRoom : Bool := false
  head : Nat := 0
  /-- The re-centring waits for the cell to leave WARM or CAL (R114). -/
  waits : Bool := false
  deriving DecidableEq, Repr

/-- What survives every reset.  `regs`: stored values of the fields whose Reset is Marl; `active`, `staged`, `coefs`, `gates`:
the last CONFIG_SAVE; `keys`: the key records (R281); `cal`: the stored calibration generation; `wear`: erases by region;
`open_`: journal transactions without a COMMIT record; `fuse`: the security version counter. -/
structure NvS where
  trd : List (Nat × TrdGen) := []
  trdCur : Nat := 0
  regs : List (Nat × Nat) := []
  active : List (Nat × Nat) := []
  staged : List (Nat × Nat) := []
  coefs : List (Nat × Nat) := []
  gates : List (Nat × List Byte) := []
  keys : List (Nat × KeyRec) := [(0, { key := List.replicate 32 0, maxPriv := 2, perm := 1 })]
  cal : CalSet := {}
  /-- The generation of calibration records before the current one (R23). -/
  calOld : CalSet := {}
  faultLog : List EvRec := []
  faultNext : Nat := 0
  slots : List (Nat × Image) := [(0, { version := 1, secVer := 0, good := true })]
  preferred : Nat := 0
  fuse : Nat := 0
  serial : Nat := 0
  spares : Nat := 312
  wear : List (Nat × Nat) := []
  open_ : Nat := 0
  /-- Operating hours, the ageing history and the cells' drift as last saved (R240, R243). -/
  hours : Nat := 0
  silt : List (Nat × List SiltRec) := []
  drift : List (Nat × Drift) := []
  deriving DecidableEq, Repr

/-! ## Marl (R411 - R414) -/

/-- What a Marl operation writes. -/
inductive MarlKind where
  | faultLog
  | key (id : Nat) (rec_ : Option KeyRec)
  | config
  | cal
  | treadle
  | silt
  | image (slot : Nat) (img : Image)
  deriving DecidableEq, Repr

/-- A Marl operation: its rank (R414), what it writes, the item it completes. -/
structure MarlOp where
  rank : Nat
  kind : MarlKind
  item : Option Nat
  deriving DecidableEq, Repr

/-- An operation under way (R412): its step (0 OPEN, 1 erase, 2 data, 3 COMMIT) and the rounds of the step left. -/
structure MarlRun where
  op : MarlOp
  step : Nat
  left : Nat
  deriving DecidableEq, Repr

/-- Marl: operations waiting in request order, the one whose rounds run, the lower-ranked one it was placed into, the
buffer of persistent records with the TB of its first. -/
structure MarlS where
  queue : List MarlOp := []
  run : Option MarlRun := none
  below : Option MarlRun := none
  buf : List EvRec := []
  bufTb : Nat := 0
  deriving DecidableEq, Repr
/-! ## Start-up (chapter 20) -/

/-- One tile's start-up: its stage (7 wake, 8 calibration, 9 loops; none once it ended), TB at the end of its wake, temperature
readings since then (TB, Q8.8 °C), settled, deferred (R429). -/
structure TileStart where
  stage : Nat
  wakeEnd : Option Nat := none
  temps : List (Nat × Int) := []
  settled : Bool := false
  deferred : Bool := false
  deriving DecidableEq, Repr

/-- Start-up: TB of the reset, whether a hold of R439 waits for GO, the stages of the tiles under way, whether any tile was
calibrated, links that have trained or failed once, whether BOOT_OK was raised, the reset that a reply awaits (TB), the
staging area's length known and the image by byte, the challenge of DEBUG_UNLOCK, debug unlocked. -/
structure BootS where
  held : Bool := false
  tiles : List (Nat × TileStart) := []
  calibrated : Bool := false
  tried : List Nat := []
  okRaised : Bool := false
  resetAt : Option Nat := none
  staging : List (Nat × Nat) := []
  challenge : Option (List Byte) := none
  unlocked : Bool := false
  image : Option Image := none
  /-- TB at which the stage under way began. -/
  stageTb : Nat := 0
  /-- WAIT as it stands again when a hold of R439 ends. -/
  waitNext : Nat := 0
  /-- STAGED takes the stored STAGED once the stored ACTIVE has been swapped in (R425). -/
  restoreStaged : Bool := false
  /-- The boot configuration failed its CRC (R420). -/
  crcBad : Bool := false
  /-- The core supply was reported late (R419). -/
  vidLate : Bool := false
  /-- A FIRMWARE_ACTIVATE with BOOT_NOW: the unit resets 1 ms after the packet that carries its OK left (R422). -/
  bootNow : Option Nat := none
  deriving DecidableEq, Repr

/-! ## Host ports, peer port, tether (chapter 12), egress and policing (chapter 14) -/

/-- A frame that waits to be sent (R305): its size under R253, destination address, tag (TCI), its content from the EtherType on
(without padding and FCS), the session slot whose summary counts its loss, whether the unit resets 1 ms after it left, the PROBE item that its transmit timestamp
completes (R332). -/
structure TxFrame where
  size : Nat
  dst : Nat
  tag : Option Nat
  body : List Byte
  slot : Nat := 0
  resets : Bool := false
  probe : Option Nat := none
  /-- The counts of the summary record it carries (R378). -/
  sum : Shed := {}
  deriving DecidableEq, Repr

/-- A frame in an RX queue (R257): arrival port, receive timestamp, whole frame from its destination address to its FCS. -/
structure RxFrame where
  port : Nat
  ts : Nat
  bytes : List Byte
  deriving DecidableEq, Repr

/-- The network edge: RX queues; rules in force (32 × three words, once brought into force); when a port's frame and gap
end, and when a received pause ends, in 0.1 ns of TB; PAUSE frames due with their time, TB of the last XOFF; the last frame sent by port; the
last frame passed to Selvage by path. -/
structure NetS where
  rxq : List (Nat × List RxFrame) := []
  rules : List (Nat × List Nat) := []
  busy : List (Nat × Nat) := []
  pausedTo : List (Nat × Nat) := []
  pauseDue : List (Nat × Nat) := []
  xoff : List (Nat × Nat) := []
  sent : List (Nat × List Byte) := []
  passed : List (Nat × List Byte) := []
  deriving DecidableEq, Repr

/-- A frame held in the tether's transmit buffer (R267): its bytes, the collisions it has met, the end of its back-off. -/
structure TethTx where
  frame : List Byte
  attempts : Nat := 0
  backTo : Option Nat := none
  deriving DecidableEq, Repr

/-- The tether: the held claim announcement and heartbeat, and when beacons were last seen to resume. -/
structure TethS where
  claim : Option TethTx := none
  heart : Option TethTx := none
  beacon : Option Nat := none
  deriving DecidableEq, Repr

/-- A gate list (R313): ENABLE, START, cycle, entries (gates, interval). -/
structure GateList where
  enable : Bool
  start : Nat
  cycle : Nat
  entries : List (Nat × Nat)
  deriving DecidableEq, Repr

/-- Sched, keyed port × 8 + queue or port: queues (head first), shaper tokens in bits and what is in force of EQ_SHAPE, DRR
deficits, pointers, whether the pointer's queue has had its quantum, lists in operation and awaiting, the last START read. -/
structure SchedS where
  queues : List (Nat × List TxFrame) := []
  tokens : List (Nat × Int) := []
  shape : List (Nat × Nat × Nat) := []
  deficit : List (Nat × Nat) := []
  ptr : List (Nat × Nat) := []
  fresh : List (Nat × Bool) := []
  /-- STRICT as the pointer found it at its last visit of the queue (R311). -/
  strict : List (Nat × Bool) := []
  oper : List (Nat × GateList) := []
  await : List (Nat × GateList) := []
  /-- The frame in transmission, by port: queue and size. -/
  sending : List (Nat × Nat × Nat) := []
  refillTb : Nat := 0
  deriving DecidableEq, Repr

/-- Police: by queue, tokens of the committed and the excess (or peak) bucket in bits, and what is in force: mode, aware, CIR,
PIR, CBS, EBS. -/
structure PolS where
  refillTb : Nat := 0
  tokens : List (Nat × Nat × Nat) := []
  force : List (Nat × List Nat) := []
  deriving DecidableEq, Repr
/-! ## Converters (chapter 09) -/

/-- What a conversion is set to (R194): input, GAIN, ORDER, DECIM, NOTCH. -/
structure SvCfg where
  input : Nat
  gain : Nat
  order : Nat
  decim : Nat
  notch : Nat
  deriving DecidableEq, Repr

/-- A queued injection (R199): its setting, PAIRED, whether this converter's SV_INJ asked for it, whether the checker did. -/
structure Inj where
  cfg : SvCfg
  paired : Bool
  host : Bool
  chk : Bool
  deriving DecidableEq, Repr

/-- One converter: RUN and scan length in force, the setting in force with the boundary from which its present window counts,
settling words left, valid words of the visit, whether the entry in force must settle again, SEQ, the queue, the injection under
way with the words still to come, how many queued injections a requested calibration waits for, the instant at which
it starts, the ring by entry (word and timestamp), the trims (four offsets, four gains, four delays), the trims moved in each of
the last eight intervals, whether the interval under way is spoilt; whether the running entry has been written and whether the scan has
been stopped and started again since its last boundary (R198); the samples in the filter, newest first. -/
structure Conv where
  run : Bool := false
  len : Nat := 0
  idx : Nat := 0
  cfg : Option SvCfg := none
  at_ : Nat := 0
  settle : Nat := 0
  cnt : Nat := 0
  seq : Nat := 0
  queue : List Inj := []
  inj : Option (Inj × Nat) := none
  calWait : Option Nat := none
  calAt : Option Nat := none
  ring : List (Nat × Nat × Nat) := []
  trims : List Int := []
  moved : List (List Nat) := []
  spoilt : Bool := false
  bgAt : Nat := 0
  touched : Bool := false
  restart : Bool := false
  hist : List Int := []
  deriving DecidableEq, Repr

/-- What the checker does (R204 - R207): `round`: a witness round; `cross`: the cross check of a diagnosis; `refs`: a
reference check; `ground`: the ground test; `periodic`: a cross check of XCHK_MS. -/
inductive ChkKind where
  | round | cross | refs | ground | periodic
  deriving DecidableEq, Repr

/-- A job of the checker: tile, local endpoint, the boundary at which its injection is asked for, whether it has been, the
injections still to be asked for (converter, input, PAIRED), the result words by converter with their picks, the reading and the expected
code of the failed round, for a diagnosis. -/
structure ChkJob where
  kind : ChkKind
  tile : Nat
  ep : Nat
  at_ : Nat
  asked : Bool := false
  todo : List (Nat × Nat × Bool) := []
  res : List (Nat × Nat × Nat) := []
  diag : Bool := false
  agreed : Int := 0
  code : Int := 0
  deriving DecidableEq, Repr

/-- The two converters and the plausibility checker: last tile in turn, last endpoint by tile, consecutive failures of the
tile, TB of the next round and of the next periodic cross check, the job. -/
structure SieveS where
  conv : List (Nat × Conv) := []
  turn : Nat := 15
  last : List (Nat × Nat) := []
  fails : Nat := 0
  roundTb : Nat := 0
  crossTb : Nat := 0
  job : Option ChkJob := none
  deriving DecidableEq, Repr

/-! ## DAC (chapter 10) -/

/-- A sine generator that runs: its phase at the TB of a DAC clock edge, whether it stops at the next wrap. -/
structure Gen where
  phase : Nat := 0
  since : Nat := 0
  ftw : Nat := 0
  ending : Bool := false
  deriving DecidableEq, Repr

/-- A TEC loop beside its registers: last output, clamped, TB since when T has not been valid. -/
structure TecAux where
  uLast : Int := 0
  sat : Bool := false
  invalid : Option Nat := none
  deriving DecidableEq, Repr

/-- What happens at a DAC clock edge (R212 - R214, R220): a channel loads on its own write; group g loads (on its pin); a generator
starts, or stops; the words of DAC_LOAD_CFG, of DAC_CH_CFG (RANGE and GROUP) and of a running generator take effect; a write of a code, or a
strobe, leaves the input FIFO. -/
inductive DacAct where
  | load (c : Nat)
  | group (g : Nat) (pin : Bool)
  | start (s : Nat)
  | stop (s : Nat)
  | src (v : Nat)
  | cfg (c v : Nat)
  | param (s reg v : Nat)
  | leave (c v : Nat)
  | strobe (mask : Nat)
  deriving DecidableEq, Repr

/-- The DAC: what waits for a DAC clock edge, by edge (TB) and at one edge in order; ends of RANGING by channel, generators that run and those that wait for their load edge, table entries that are
not at their reset value (generator × 1024 + entry), TEC loops, TB at which a buffer drives again, the pick of entry to
ACTIVE, SHARED channels drive, codes mirrored by channel. -/
structure DacS where
  agenda : List (Nat × DacAct) := []
  ranging : List (Nat × Nat) := []
  gens : List (Nat × Gen) := []
  genWait : List Nat := []
  table : List (Nat × Nat) := []
  tec : List (Nat × TecAux) := []
  redrive : List (Nat × Nat) := []
  entered : Option Nat := none
  sharedOn : Bool := false
  mirrored : List (Nat × Nat) := []
  deriving DecidableEq, Repr

/-! ## Therm, Silt, Supply (chapters 11, 21) -/

/-- Therm beside its registers: failed scans running and passing scans since failure, by sensor; last passing reading;
sensors substituted; the sensor that gave H at the last scan; H at the last throttle step and TB of the next; TB of the next
scan; TB since when H has been below 105 °C in shut-down; shut-down (0 none, 1 found, 2 fabric stopped, 3 blocks held) and its TB;
the comparator holds the die; THERMTRIP_N low; tiles whose warning is set; bands asked for; tiles whose band is known; the level
whose actions are in force since the last pick boundary. -/
structure ThermS where
  fails : List (Nat × Nat) := []
  passes : List (Nat × Nat) := []
  last : List (Nat × Int) := []
  subst : List Nat := []
  hot : Option Nat := none
  ref : Int := 0
  stepTb : Option Nat := none
  scanTb : Nat := 0
  belowTb : Option Nat := none
  shut : Nat := 0
  shutTb : Nat := 0
  trip : Bool := false
  tripPin : Bool := false
  warned : List Nat := []
  bandTo : List (Nat × Nat) := []
  bandKnown : List Nat := []
  levelPick : Nat := 0
  deriving DecidableEq, Repr

/-- A re-centring ramp (R245): start, end, steps done. -/
structure Ramp where
  start : Nat
  stop : Nat
  i : Nat
  last : Nat := 0
  deriving DecidableEq, Repr

/-- Silt beside its registers: operating time counted (ns of the hour under way), bursts of the hour by engine, age factor by
engine (2^-16), beats below target, a re-plan is due or under way with the TB of its re-measurement, hours in a row above
target + 20, drift by cell, cells measured in the beat under way (sum of codes, picks), re-centring ramps, the ageing history by engine and, from 64 on, by link (oldest first), burst rates by engine (steps/s), the least slack of each link in
the hour under way (ns). -/
structure SiltS where
  hourTb : Nat := 0
  bursts : List (Nat × List Nat) := []
  age : List (Nat × Nat) := []
  below : List (Nat × Nat) := []
  due : Bool := false
  replanning : Bool := false
  measTb : Option Nat := none
  above : Nat := 0
  drift : List (Nat × Drift) := []
  meas : Option (List (Nat × Nat × Nat)) := none
  measDue : Bool := false
  ramps : List (Nat × Ramp) := []
  hist : List (Nat × List SiltRec) := []
  rate : List (Nat × Nat) := []
  linkLeast : List (Nat × Nat) := []
  deriving DecidableEq, Repr

/-- Supply: the voltage the VID pins call for (mV), TB of the last move, the rails reported low, the internal rail reset holds
the module (R442). -/
structure SupS where
  vid : Nat := 800
  vidTb : Nat := 0
  low : List Nat := []
  held : Bool := false
  deriving DecidableEq, Repr

/-- Register writes that wait, as (address, word): for the next pick boundary (R362), for the next beat boundary (R166). -/
structure RegS where
  pick : List (Nat × Nat) := []
  beat : List (Nat × Nat) := []
  deriving DecidableEq, Repr

/-! ## The peer link (chapter 16) -/

/-- A frame kept for the peer: mirror versions sent and not acknowledged (R348): the records, sends so far, TB of the
last send, items that wait on its acknowledgement. -/
structure MirVer where
  config : Bool
  version : Nat
  recs : List MirRec
  resends : Nat
  lastTb : Nat
  items : List Nat
  deriving DecidableEq, Repr

/-- Selvage: versions, what the peer last said, what this unit holds aside, claims and handover. -/
structure SlvS where
  cfgVer : Nat := 0
  batchNo : Nat := 0
  trdGroup : Nat := 0
  unacked : List MirVer := []
  /-- The records sent in the present pick, newest last. -/
  sent : List MirRec := []
  /-- Items whose own effect is done and that wait only on acknowledgement: item, status, result (R348). -/
  waitAck : List (Nat × Nat × List Byte) := []
  hbSeqP : Nat := 0
  hbSeqT : Nat := 0
  /-- The instants of the last heartbeats on MAC_P and the tether; none before the first. -/
  hbTbP : Option Nat := none
  hbTbT : Option Nat := none
  clmSeqP : Nat := 0
  clmSeqT : Nat := 0
  /-- HB_SEQ of the last frame by path × 2 + kind. -/
  seenSeq : List (Nat × Nat) := []
  lastP : Nat := 0
  lastT : Nat := 0
  heardP : Bool := false
  heardT : Bool := false
  peerTether : Bool := false
  peerHflags : Nat := 0
  peerMirror : Nat := 0
  peerPick : Nat := 0
  peerCsn : Nat := 0
  peerLinks : Nat := 0
  peerHealth : Nat := 0
  peerAgreed : Nat := 0
  peerLevel : Nat := 0
  peerClaim : Nat := 0
  peerUnit : Nat := 0
  /-- Mirror records held aside until their version closes, last versions applied, gap since (TB). -/
  aside : List MirRec := []
  appliedCsn : Nat := 0
  appliedCfg : Nat := 0
  gapTb : Option Nat := none
  snapWanted : Bool := false
  snapDone : Bool := false
  snapDue : Bool := false
  batchSeen : List Nat := []
  everCopy : Bool := false
  restartBatch : Nat := 0
  /-- Tiles that have accepted the claim being raised. -/
  accepted : List Nat := []
  claiming : Bool := false
  silentSince : List (Nat × Nat) := []
  readAt : Nat := 0
  healthTb : Option Nat := none
  wantTb : Bool := false
  handItem : Option Nat := none
  handTb : Option Nat := none
  linkLostTb : List (Nat × Nat) := []
  agreed : Nat := 0
  adoptFrom : Bool := false
  /-- A heartbeat carried this unit's own UNIT_ID (R339). -/
  conflict : Bool := false
  /-- A role change for the next boundary: 1 failover, 2 handover to this unit. -/
  toClaim : Nat := 0
  /-- Lead of an ordered handover (units of 64 picks; 0 takes HANDOVER_LEAD). -/
  lead : Nat := 0
  /-- The snapshot taken at a beat boundary, until it is sent: CSN and records. -/
  snapTaken : Option (Nat × List MirRec) := none
  /-- A CONFIG version has been applied since the last snapshot. -/
  cfgSeen : Bool := false
  deriving DecidableEq, Repr

/-- Everything the block holds but the queue of waiting commands. -/
structure Dev where
  /-- Register fields and SRAM record fields, keyed address × 32 + low bit, sorted; an unlisted field reads as its reset value. -/
  mem : List (Nat × Nat) := []
  /-- Event arbiters, pending records, event log. -/
  ev : EvS := {}
  /-- Counters, histogram units, snapshot. -/
  perf : PerfS := {}
  /-- Timebase, PTP clock, pulses. -/
  time : TimeS := {}
  /-- The pick. -/
  pick : PickS := {}
  /-- Sessions, items, ledger, transaction. -/
  cheda : ChedaS := {}
  /-- The bus matrix. -/
  reed : ReedS := {}
  /-- The history store. -/
  loam : LoamS := {}
  /-- The draft slots. -/
  draft : DraftS := {}
  /-- Loops beside their 128 bytes. -/
  loop : LoopS := {}
  /-- Trackers and treadle tables. -/
  trd : TrdS := {}
  /-- Cells beside their records. -/
  cell : CellS := {}
  /-- Calibration. -/
  cal : CalS := {}
  /-- Commit order, plans, pieces, protection pins. -/
  cir : CirS := {}
  /-- The warm-cell ledger and reservations. -/
  tilth : TilthS := {}
  /-- The links. -/
  weft : WeftS := {}
  /-- The pair. -/
  slv : SlvS := {}
  /-- Model's own: how many free values have been drawn. -/
  free : Nat := 0
  /-- What Marl and the fuses hold through resets. -/
  nv : NvS := {}
  /-- Marl's operations. -/
  marl : MarlS := {}
  /-- Egress queues, shapers, gate lists. -/
  sched : SchedS := {}
  /-- Start-up. -/
  boot : BootS := {}
  /-- Host ports and peer port. -/
  net : NetS := {}
  /-- The tether. -/
  teth : TethS := {}
  /-- Ingress policers. -/
  pol : PolS := {}
  /-- The converters and the checker. -/
  sieve : SieveS := {}
  /-- DAC channels, generators, TEC loops. -/
  dac : DacS := {}
  /-- Die sensors, throttle, shut-down. -/
  therm : ThermS := {}
  /-- Ageing and margins. -/
  silt : SiltS := {}
  /-- Core voltage and rails. -/
  sup : SupS := {}
  /-- Register writes that wait for a boundary. -/
  regs : RegS := {}
  deriving DecidableEq, Repr

/-- The machine: the block, and the commands that wait, first in, first out. -/
structure State where
  pending : List Instr
  dev : Dev
  deriving DecidableEq, Repr

/-- The machine right after reset (R8): every field at its reset value, nothing listed, no command waiting.  A value the
spec does not state is the DESIGN CHOICE of assumption 2. -/
def State.reset : State := { pending := [], dev := {} }

/-- The reasons a step can stop with a fault.  No command of this block ends so: the manual gives every input, register
value and combination of events a stated result (00_scope.md, "How this manual binds"), and a value it leaves open is a
free value.  The type has no constructor. -/
inductive Fault where
  deriving DecidableEq, Repr

/-- The reasons a step can be refused. -/
inductive Refusal where
  /-- The command has no meaning in the model yet; its arm of `exec` answers so.  Safe. -/
  | notModelled (mnemonic : String)
  deriving DecidableEq, Repr

end Sys2Proof.Machine
end

