-- ==== Sys2Proof/Machine/Ops.lean ====
section
/-! DEFINITION. The named operations over the state: sparse maps, register and record fields, two's complement, byte order,
time and pick boundaries, occurrences of event sources and counted events. -/

namespace Sys2Proof.Machine

/-! ## Sparse maps in canonical form: keys strictly rising -/

/-- The entry of a key. -/
def AMap.find {α : Type} : List (Nat × α) → Nat → Option α
  | [], _ => none
  | (k', v) :: m, k => if k' = k then some v else AMap.find m k

/-- The entry of a key, or the given default. -/
def AMap.get {α : Type} (m : List (Nat × α)) (k : Nat) (d : α) : α := (AMap.find m k).getD d

/-- Puts a value at a key, in key order. -/
def AMap.put {α : Type} : List (Nat × α) → Nat → α → List (Nat × α)
  | [], k, v => [(k, v)]
  | (k', v') :: m, k, v =>
    if k < k' then (k, v) :: (k', v') :: m
    else if k = k' then (k, v) :: m
    else (k', v') :: AMap.put m k v

/-- Removes a key. -/
def AMap.del {α : Type} : List (Nat × α) → Nat → List (Nat × α)
  | [], _ => []
  | (k', v') :: m, k => if k' = k then AMap.del m k else (k', v') :: AMap.del m k

/-- Puts a value, or removes the key when the value is what an unlisted key reads as. -/
def AMap.set {α : Type} [DecidableEq α] (m : List (Nat × α)) (k : Nat) (v d : α) : List (Nat × α) :=
  if v = d then AMap.del m k else AMap.put m k v

/-- The canonical form: keys strictly rising. -/
def AMap.wf {α : Type} : List (Nat × α) → Bool
  | [] => true
  | [_] => true
  | (k, _) :: (k', v') :: m => decide (k < k') && AMap.wf ((k', v') :: m)

/-! ## Numbers -/

/-- Bits [hi:lo] of a number. -/
def bits (v hi lo : Nat) : Nat := v / 2 ^ lo % 2 ^ (hi - lo + 1)

/-- Bit n. -/
def bit (v n : Nat) : Bool := v / 2 ^ n % 2 = 1

/-- v with bits [hi:lo] replaced by x. -/
def putBits (v hi lo x : Nat) : Nat :=
  v - bits v hi lo * 2 ^ lo + x % 2 ^ (hi - lo + 1) * 2 ^ lo

/-- Sets or clears bit n. -/
def putBit (v n : Nat) (b : Bool) : Nat := putBits v n n (if b then 1 else 0)

/-- The signed number that w bits hold. -/
def toS (w v : Nat) : Int := if v % 2 ^ w < 2 ^ (w - 1) then ((v % 2 ^ w : Nat) : Int) else ((v % 2 ^ w : Nat) : Int) - (2 : Int) ^ w

/-- The w bits of a signed number, wrapping. -/
def ofS (w : Nat) (i : Int) : Nat := (i % (2 : Int) ^ w).toNat

/-- Saturates a signed number to w bits. -/
def satI (w : Nat) (i : Int) : Int := max (-(2 : Int) ^ (w - 1)) (min ((2 : Int) ^ (w - 1) - 1) i)

/-- The w bits of a signed number, saturating. -/
def satS (w : Nat) (i : Int) : Nat := ofS w (satI w i)

/-- Clamps to a range. -/
def clampI (lo hi i : Int) : Int := max lo (min hi i)

/-- Serial-number order modulo 2^32: a comes after b. -/
def serialAfter (a b : Nat) : Bool := let d := (a + 2 ^ 32 - b % 2 ^ 32) % 2 ^ 32; 0 < d && d < 2 ^ 31

/-- A number as n bytes, most significant first (R5). -/
def beBytes : Nat → Nat → List Byte
  | 0, _ => []
  | n + 1, v => BitVec.ofNat 8 (v / 256 ^ n) :: beBytes n v

/-- The number that bytes hold, most significant first (R5). -/
def beNat (bs : List Byte) : Nat := bs.foldl (fun a b => a * 256 + b.toNat) 0

/-- The big-endian number in `n` bytes from offset `off`. -/
def beAt (bs : List Byte) (off n : Nat) : Nat := beNat ((bs.drop off).take n)

/-- n zero bytes. -/
def zeros (n : Nat) : List Byte := List.replicate n 0

/-- The bits that are set in a mask of n bits, lowest first. -/
def bitsSet (mask n : Nat) : List Nat := (List.range n).filter (fun i => bit mask i)

/-! ## Fields -/

/-- The key of a field in `Dev.mem`. -/
def Fld.key (f : Fld) : Nat := f.addr * 32 + f.lo

/-- Reads a field: the value held, or its reset value. -/
def Dev.rd (d : Dev) (f : Fld) : Nat := AMap.get d.mem f.key f.rst

/-- Writes a field, cut to its width. -/
def Dev.wr (d : Dev) (f : Fld) (v : Nat) : Dev :=
  { d with mem := AMap.set d.mem f.key (v % 2 ^ (f.hi - f.lo + 1)) f.rst }

/-- A block writes a field of a loop's state: it stands before what the host wrote in the same pick (R74). -/
def Dev.wrLoop (d : Dev) (f : Fld) (v : Nat) : Dev :=
  { d.wr f v with loop := { d.loop with shadow := d.loop.shadow.filter (fun (kv : Nat × Nat) => decide (kv.1 ≠ f.key)) } }

/-- Reads a field as signed. -/
def Dev.rdS (d : Dev) (f : Fld) : Int := toS (f.hi - f.lo + 1) (d.rd f)

/-- Reads a one-bit field. -/
def Dev.flag (d : Dev) (f : Fld) : Bool := d.rd f = 1

/-- Writes a one-bit field. -/
def Dev.setFlag (d : Dev) (f : Fld) (b : Bool) : Dev := d.wr f (if b then 1 else 0)

/-- Adds to a counter that saturates at its width's top. -/
def Dev.bump (d : Dev) (f : Fld) (n : Nat) : Dev := d.wr f (min (d.rd f + n) (2 ^ (f.hi - f.lo + 1) - 1))

/-- Adds to a counter that wraps. -/
def Dev.bumpWrap (d : Dev) (f : Fld) (n : Nat) : Dev := d.wr f (d.rd f + n)

/-- Applies a step to each element in order. -/
def forEach {α β : Type} (l : List α) (f : α → β → β) (d : β) : β := l.foldl (fun d a => f a d) d

/-- Applies a step when a condition holds. -/
def Dev.when (d : Dev) (c : Bool) (f : Dev → Dev) : Dev := if c then f d else d

/-- Draws a fresh free value below a bound (R-less: the model's own, assumption 1). -/
def Dev.draw (d : Dev) (bound : Nat) : Nat × Dev := (Config.freeNat d.free % bound, { d with free := d.free + 1 })

/-- Draws n free bytes. -/
def Dev.drawBytes : Nat → Dev → List Byte × Dev
  | 0, d => ([], d)
  | n + 1, d =>
    let (v, d) := d.draw 256
    let (bs, d) := Dev.drawBytes n d
    (BitVec.ofNat 8 v :: bs, d)

/-! ## Time (R12, R323, R324) -/

/-- The divisor of a pick rate in ns (R12): 0 is 50 kHz, 3 is 400 kHz. -/
def divisor (rate : Nat) : Nat := [20000, 10000, 5000, 2500].getD rate 5000

/-- PTP time of a timebase instant (R323). -/
def Dev.ptpOf (d : Dev) (tb : Nat) : Nat := ((tb : Int) + d.time.ofs).toNat

/-- PTP time now. -/
def Dev.ptpNow (d : Dev) : Nat := d.ptpOf d.time.tb

/-- TB of boundary k under the rate in force (R324). -/
def Dev.tbOf (d : Dev) (k : Nat) : Nat := d.pick.chgTb + (k - d.pick.chgPick) * divisor d.pick.rate
/-- The boundary that comes next: boundary 0 is the first (R324). -/
def Dev.nextPick (d : Dev) : Nat := if d.pick.started then d.pick.num + 1 else 0
/-- The instant of the boundary that comes next. -/
def Dev.nextTb (d : Dev) : Nat := d.tbOf d.nextPick

/-- The beat length N in picks (R53). -/
def Dev.beatLen (d : Dev) : Nat := 4 * 2 ^ d.pick.beat

/-- Pick periods in ns. -/
def Dev.pickNs (d : Dev) : Nat := divisor d.pick.rate

/-- Picks that cover a time in ms, at least, from the next boundary. -/
def Dev.msNs (ms : Nat) : Nat := ms * 1000000

/-! ## Counted events (R383 - R387) -/

/-- Adds to a counter; past 48 bits it wraps and sets OVF (R386).  Answers whether it wrapped. -/
def Ctr.add (c : Ctr) (n : Nat) : Ctr × Bool :=
  if c.val + n < 2 ^ 48 then ({ c with val := c.val + n }, false)
  else ({ c with val := (c.val + n) % 2 ^ 48, ovf := true }, true)

/-- Presents an occurrence to a block's event arbiter (R373): what the arbiter has not acknowledged yet is one handshake (R458), and
the records of one handshake carry equal PICK and TIME, those of its first occurrence (assumption 88). -/
def Dev.present (d : Dev) (block : Nat) (o : Occ) : Dev :=
  let os := AMap.get d.ev.waiting block []
  let o := match os.head? with
    | some h => { o with pick := h.pick, time := h.time }
    | none => o
  { d with ev := { d.ev with waiting := AMap.put d.ev.waiting block (os ++ [o]) } }

/-- Presents a real occurrence.  A severity given here takes the place of the stated one (R365). -/
def Dev.raiseSev (d : Dev) (block src : Nat) (sev : Option Nat) (obj val : Nat) : Dev :=
  d.present block { src := src, sev := sev, obj := obj, val := val, inj := false, pick := d.pick.num, time := d.ptpNow }

/-- Presents an occurrence at the stated severity. -/
def Dev.raise (d : Dev) (block src obj val : Nat) : Dev := d.raiseSev block src none obj val

/-- Adds n to every counter whose number is in `ns`, raising COUNTER_WRAP (0x2B.0) for each wrap. -/
def Dev.addCtrs (d : Dev) (sel : Ctr → Bool) (n : Nat) : Dev :=
  d.perf.ctrs.foldl (fun d (kc : Nat × Ctr) =>
    if sel kc.2 then
      let (c, w) := (AMap.get d.perf.ctrs kc.1 {}).add n
      let d := { d with perf := { d.perf with ctrs := AMap.put d.perf.ctrs kc.1 c } }
      if w then d.raise 0x2B 0 kc.1 0 else d
    else d) d

/-- Counts n occurrences of an event number for an instance (R383): a counter with MODE EVENT counts the instance QUAL
names, or every instance with QUAL 63. -/
def Dev.countN (d : Dev) (num inst n : Nat) : Dev :=
  d.addCtrs (fun c => c.mode = 0 && c.ev = num && (c.qual = 63 || c.qual = inst)) n

/-- Counts one occurrence of an event with an instance. -/
def Dev.countQ (d : Dev) (num inst : Nat) : Dev := d.countN num inst 1

/-- Counts one occurrence of an event without an instance: QUAL is ignored (R383). -/
def Dev.count (d : Dev) (num : Nat) : Dev :=
  d.addCtrs (fun c => c.mode = 0 && c.ev = num) 1

/-- Whether a signal is asserted for a counter (R385). -/
def Ctr.asserted (c : Ctr) (high : Bool) : Bool := if c.pol = 0 then high else !high

/-- Changes the level of a signal, counting an edge into the asserted level (R383 mode EDGE). -/
def Dev.signal (d : Dev) (sig : Nat) (high : Bool) : Dev :=
  let was := d.perf.high.contains sig
  if was = high then d
  else
    let d := d.addCtrs (fun c => c.mode = 1 && c.ev = sig && c.asserted high) 1
    { d with perf := { d.perf with
        high := if high then d.perf.high ++ [sig] else d.perf.high.filter (· ≠ sig) } }

/-- A signal that pulses: one edge per happening (ticks). -/
def Dev.tick (d : Dev) (sig : Nat) : Dev := (d.signal sig true).signal sig false

/-- TB_10M_IN carries its clock: it is the reference, or it is valid again and waits to be it (R325). -/
def Dev.refClock (d : Dev) : Bool := !d.flag F.TIME_STAT.REF || d.time.refOkSince.isSome

/-- The ns up to an instant during which TB_10M_IN has been high: the first half of each 100 ns of the timebase (DESIGN CHOICE,
assumption 90). -/
def clockHigh (t : Nat) : Nat := t / 100 * 50 + min 50 (t % 100)

/-- What the counters of TB_10M_IN (R385) add while the clock runs from one instant to another: edges and ns at either level. -/
def Dev.clockCount (d : Dev) (was tb : Nat) : Dev :=
  let runs := d.refClock
  let sel := fun (m p : Nat) (c : Ctr) => runs && decide (c.ev = 22) && decide (c.mode = m) && decide (c.pol = p)
  let d := (d.addCtrs (sel 1 0) (tb / 100 - was / 100)).addCtrs (sel 1 1) ((tb + 50) / 100 - (was + 50) / 100)
  let n := clockHigh tb - clockHigh was
  (d.addCtrs (sel 2 0) n).addCtrs (sel 2 1) (tb - was - n)

/-- Lets the timebase run to an instant: LEVEL counters add the ns during which their signal is asserted (R383). -/
def Dev.advance (d : Dev) (tb : Nat) : Dev :=
  if tb ≤ d.time.tb then d
  else
    let was := d.time.tb
    let d := d.addCtrs (fun c => c.mode = 2 && c.ev < 23 && (c.ev ≠ 22 || !d.refClock) && c.asserted (d.perf.high.contains c.ev)) (tb - was)
    let d := d.clockCount was tb
    { d with time := { d.time with tb := tb } }

/-- Fires a timer at its due instant, when that lies before the next pick boundary: TB runs on to it (assumption 10). -/
def Dev.fire (d : Dev) (due : Nat) (f : Dev → Dev) : Dev :=
  if due < d.nextTb then f (d.advance (max due d.time.tb)) else d

/-- Every block but Therm, Marl and Supply is held in reset: thermal shut-down past 1 ms (R232), the comparator (R235), the internal
rail reset (R442). -/
def Dev.held (d : Dev) : Bool := d.therm.shut = 3 || d.therm.trip || d.sup.held

/-! ## Saturating helpers for records -/

/-- Keeps at most n of a list that grows at its end, dropping the oldest. -/
def keepLast {α : Type} (n : Nat) (l : List α) : List α := l.drop (l.length - n)

end Sys2Proof.Machine
end

