-- ==== Sys2Proof/Machine/Crypto.lean ====
section
/-! DEFINITION. The checksums and digests that the spec names by their standards: SHA-256 and HMAC-SHA-256 (R283, R284),
CRC-32 of IEEE 802.3 (R41), CRC-16 (R178). PRESUMED from those standards (assumption 3). -/

namespace Sys2Proof.Machine

/-! ## SHA-256 -/

/-- The greatest r below 2^bits whose e-th power is at most n, one bit after the other from the top. -/
def rootBits (e n : Nat) : Nat → Nat → Nat
  | 0, r => r
  | b + 1, r => rootBits e n b (if (r + 2 ^ b) ^ e ≤ n then r + 2 ^ b else r)

/-- The first n numbers from m on that no smaller prime of the list divides; the fuel bounds the search. -/
def primesFrom : Nat → Nat → List Nat → List Nat
  | 0, _, ps => ps
  | fuel + 1, m, ps => primesFrom fuel (m + 1) (if ps.all (fun p => m % p ≠ 0) then ps ++ [m] else ps)

/-- The 64 primes up to 311. -/
def shaPrimes : List Nat := primesFrom 310 2 []

/-- The standard's constant of a prime: the first 32 bits after the point of its e-th root. -/
def shaFrac (e p : Nat) : Nat := rootBits e (p * 2 ^ (32 * e)) 37 0 % 2 ^ 32

/-- The round constants: from the cube roots. -/
def shaKs : List Nat := shaPrimes.map (shaFrac 3)

/-- The initial hash value: from the square roots of the first eight primes. -/
def shaStart : List Nat := (shaPrimes.take 8).map (shaFrac 2)

/-- Rotates a 32-bit word right. -/
def rotr (x n : Nat) : Nat := x / 2 ^ n + x % 2 ^ n * 2 ^ (32 - n)

/-- The message schedule, newest word first: extends the 16 words of a block by n more. -/
def shaSchedule : Nat → List Nat → List Nat
  | 0, w => w
  | n + 1, w =>
    let w15 := w.getD 14 0
    let w2 := w.getD 1 0
    let s0 := (rotr w15 7 ^^^ rotr w15 18) ^^^ (w15 / 8)
    let s1 := (rotr w2 17 ^^^ rotr w2 19) ^^^ (w2 / 1024)
    shaSchedule n (((w.getD 15 0 + s0 + w.getD 6 0 + s1) % 2 ^ 32) :: w)

/-- The working variables of a round. -/
structure ShaV where
  a : Nat
  b : Nat
  c : Nat
  d : Nat
  e : Nat
  f : Nat
  g : Nat
  h : Nat

/-- One round. -/
def shaRound (v : ShaV) (kw : Nat) : ShaV :=
  let s1 := (rotr v.e 6 ^^^ rotr v.e 11) ^^^ rotr v.e 25
  let ch := (v.e &&& v.f) ^^^ ((2 ^ 32 - 1 - v.e) &&& v.g)
  let t1 := v.h + s1 + ch + kw
  let s0 := (rotr v.a 2 ^^^ rotr v.a 13) ^^^ rotr v.a 22
  let maj := ((v.a &&& v.b) ^^^ (v.a &&& v.c)) ^^^ (v.b &&& v.c)
  ⟨(t1 + s0 + maj) % 2 ^ 32, v.a, v.b, v.c, (v.d + t1) % 2 ^ 32, v.e, v.f, v.g⟩

/-- One block of 16 words. -/
def shaBlock (h : List Nat) (ws : List Nat) : List Nat :=
  let v : ShaV := ⟨h.getD 0 0, h.getD 1 0, h.getD 2 0, h.getD 3 0, h.getD 4 0, h.getD 5 0, h.getD 6 0, h.getD 7 0⟩
  let sched := (shaSchedule 48 ws.reverse).reverse
  let v := (List.zipWith (· + ·) sched shaKs).foldl shaRound v
  List.zipWith (fun x y => (x + y) % 2 ^ 32) h [v.a, v.b, v.c, v.d, v.e, v.f, v.g, v.h]

/-- Cuts bytes into big-endian words; the fuel bounds the number of words. -/
def shaWords : Nat → List Byte → List Nat
  | 0, _ => []
  | n + 1, bs => match bs with
    | [] => []
    | _ => beNat (bs.take 4) :: shaWords n (bs.drop 4)

/-- Runs n blocks of 16 words. -/
def shaBlocks : Nat → List Nat → List Nat → List Nat
  | 0, h, _ => h
  | n + 1, h, ws => shaBlocks n (shaBlock h (ws.take 16)) (ws.drop 16)

/-- SHA-256. -/
def sha256 (m : List Byte) : List Byte :=
  let len := m.length
  let pad := (119 - len % 64) % 64
  let p := m ++ [0x80] ++ zeros pad ++ beBytes 8 (8 * len)
  let n := p.length / 64
  (shaBlocks n shaStart (shaWords (16 * n) p)).flatMap (beBytes 4)

/-- HMAC-SHA-256. -/
def hmac256 (key m : List Byte) : List Byte :=
  let k := if key.length > 64 then sha256 key else key
  let k := k ++ zeros (64 - k.length)
  let inner := sha256 (k.map (· ^^^ 0x36) ++ m)
  sha256 (k.map (· ^^^ 0x5c) ++ inner)

/-! ## CRC -/

/-- One bit of a reflected CRC. -/
def crcBit (poly c : Nat) : Nat := if c % 2 = 1 then c / 2 ^^^ poly else c / 2

/-- n bits of a reflected CRC. -/
def crcBits (poly : Nat) : Nat → Nat → Nat
  | 0, c => c
  | n + 1, c => crcBits poly n (crcBit poly c)

/-- CRC-32 of IEEE 802.3. -/
def crc32 (bs : List Byte) : Nat :=
  (bs.foldl (fun c b => crcBits 0xEDB88320 8 (c ^^^ b.toNat)) 0xFFFFFFFF) ^^^ 0xFFFFFFFF

/-- One bit of the CRC-16 with polynomial 0x1021, most significant bit first. -/
def crc16Bit (c : Nat) (b : Bool) : Nat :=
  let out := decide (c / 2 ^ 15 % 2 = 1) != b
  let c := c * 2 % 2 ^ 16
  if out then c ^^^ 0x1021 else c

/-- The CRC-16 of a run of bits, from 0xFFFF (R178). -/
def crc16 (bs : List Bool) : Nat := bs.foldl crc16Bit 0xFFFF

/-- The bytes of an ASCII text, without terminator (R283). -/
def ascii (s : List Char) : List Byte := s.map (fun c => BitVec.ofNat 8 c.toNat)

end Sys2Proof.Machine
end

