-- ==== Sys2Proof/Machine/MirFrame.lean ====
section
/-! DEFINITION. The frames of the pair on MAC_P (R264, R340) and the bytes of a mirror record (R5, R346): its header, its body with
every word big-endian, the cutting of records into frames and their reading. -/

namespace Sys2Proof.Machine
open Sys2Proof

/-! ## Frames -/

/-- Station address of a port. -/
def Dev.station (d : Dev) (p : Nat) : Nat := d.rd (F.MAC_ADDR_HI.ADDR_HI p) * 2 ^ 32 + d.rd (F.MAC_ADDR_LO.ADDR_LO p)

/-- The bytes of a frame on the wire: header, tag, body, padding, FCS (R261). -/
def Dev.wireBytes (d : Dev) (p : Nat) (f : TxFrame) : List Byte :=
  let tag := match f.tag with
    | some t => beBytes 2 0x8100 ++ beBytes 2 t
    | none => []
  let b := beBytes 6 f.dst ++ beBytes 6 (d.station p) ++ tag ++ f.body
  let b := b ++ zeros (60 - b.length)
  b ++ (beBytes 4 (crc32 b)).reverse

/-- The header of a Selvage frame (R340). -/
def Dev.slvHead (d : Dev) (kind len : Nat) : List Byte :=
  beBytes 1 kind ++ beBytes 1 1 ++ beBytes 2 (d.rd F.SLV_CFG.PAIR_ID) ++
    beBytes 1 (d.rd F.SLV_STAT.UNIT_ID + d.rd F.SLV_STAT.PREFER * 2 + d.rd F.SLV_STAT.ROLE * 16) ++ [0] ++ beBytes 2 len

/-- A frame leaves on MAC_P (R264). -/
def Dev.sendP (d : Dev) (body : List Byte) : Dev :=
  let f : TxFrame := { size := max 64 (18 + body.length), dst := 0xFFFFFFFFFFFF, tag := none, body := beBytes 2 0x88B6 ++ body }
  if !d.flag (F.MAC_STAT.LINK 2) then d
  else (({ d with net := { d.net with sent := AMap.put d.net.sent 2 (d.wireBytes 2 f) } }).bumpWrap (F.TX_OK.COUNT 2) 1).countQ 0x51 2

/-! ## Record bodies (R5, R346) -/

/-- Words in ascending offset, each big-endian (R5). -/
def wordsBytes (ws : List Nat) : List Byte := ws.flatMap (beBytes 4)

/-- The first n big-endian numbers of w bytes. -/
def beList (w : Nat) : Nat → List Byte → List Nat
  | 0, _ => []
  | n + 1, bs => beNat (bs.take w) :: beList w n (bs.drop w)

/-- The words of a record body. -/
def bytesWords (bs : List Byte) : List Nat := beList 4 (bs.length / 4) bs

/-- A hop of a running piece's new route: tile, ports, the number of its stages, the elements, the cross bits (assumption 20). -/
def hopBytes (h : Hop) : List Byte :=
  beBytes 1 h.tile ++ beBytes 1 h.inp ++ beBytes 1 h.out ++ beBytes 1 h.lines.length ++ h.lines.flatMap (beBytes 1) ++
    zeros (16 - h.lines.length) ++ beBytes 4 h.cross

/-- Reads a hop of 24 bytes. -/
def bytesHop (bs : List Byte) : Hop :=
  { tile := beAt bs 0 1, inp := beAt bs 1 1, out := beAt bs 2 1, lines := beList 1 (min 16 (beAt bs 3 1)) (bs.drop 4), cross := beAt bs 20 4 }

/-- Reads n hops. -/
def bytesHops : Nat → List Byte → List Hop
  | 0, _ => []
  | n + 1, bs => bytesHop bs :: bytesHops n (bs.drop 24)

/-- What OBJECT names, in its bits [31:24] (assumption 89: R346 does not say how a record of a TYPE with several contents names its own). -/
def bodyKind : MirBody → Nat
  | .mark => 0
  | .entry _ => 1
  | .cell _ => 2
  | .loopSp _ => 3
  | .tuple _ _ _ _ _ _ => 4
  | .protTime _ _ => 5
  | .staged _ _ => 6
  | .coefSet _ => 7
  | .draftWords _ _ _ => 8
  | .activation _ => 9
  | .gateList _ => 10
  | .reg _ => 11
  | .piece _ _ _ _ => 12
  | .loops _ => 13
  | .dacCode _ => 14
  | .tec _ => 15
  | .table _ _ => 16
  | .tableClear => 17
  | .region _ => 18

/-- The body of a record as bytes: words big-endian, a treadle table as its 256 bins, bin 0 first (R5), then BIN_WRITES (R346), a
loop of a batch as INTEG, SP and two Reserved bytes (R347). -/
def bodyBytes : MirBody → List Byte
  | .mark => []
  | .entry ws => wordsBytes ws
  | .cell ws => wordsBytes ws
  | .loopSp sp => beBytes 2 sp
  | .tuple h s t o c st => beBytes 4 h ++ beBytes 4 s ++ beBytes 4 t ++ beBytes 2 o ++ beBytes 4 c ++ beBytes 2 st
  | .protTime pin time => beBytes 1 pin ++ beBytes 8 time
  | .staged op par => beBytes 2 op ++ par
  | .coefSet ws => wordsBytes ws
  | .draftWords slot first ws => beBytes 1 slot ++ beBytes 3 first ++ wordsBytes ws
  | .activation pick => beBytes 8 pick
  | .gateList par => par
  | .reg v => beBytes 4 v
  | .piece ph start n new => beBytes 1 ph ++ beBytes 8 start ++ beBytes 4 n ++ new.flatMap hopBytes
  | .loops vs => vs.flatMap (fun (is : Nat × Nat) => beBytes 4 is.1 ++ beBytes 2 is.2 ++ zeros 2)
  | .dacCode c => beBytes 2 c
  | .tec i => beBytes 4 i
  | .table bins writes => bins.flatMap (beBytes 2) ++ beBytes 4 writes
  | .tableClear => []
  | .region ws => wordsBytes ws

/-- Reads the body of a record of a kind; none where the kind is not listed. -/
def bytesBody (kind : Nat) (bs : List Byte) : Option MirBody :=
  match kind with
  | 0 => some .mark
  | 1 => some (.entry (bytesWords bs))
  | 2 => some (.cell (bytesWords bs))
  | 3 => some (.loopSp (beAt bs 0 2))
  | 4 => some (.tuple (beAt bs 0 4) (beAt bs 4 4) (beAt bs 8 4) (beAt bs 12 2) (beAt bs 14 4) (beAt bs 18 2))
  | 5 => some (.protTime (beAt bs 0 1) (beAt bs 1 8))
  | 6 => some (.staged (beAt bs 0 2) (bs.drop 2))
  | 7 => some (.coefSet (bytesWords bs))
  | 8 => some (.draftWords (beAt bs 0 1) (beAt bs 1 3) (bytesWords (bs.drop 4)))
  | 9 => some (.activation (beAt bs 0 8))
  | 10 => some (.gateList bs)
  | 11 => some (.reg (beAt bs 0 4))
  | 12 => some (.piece (beAt bs 0 1) (beAt bs 1 8) (beAt bs 9 4) (bytesHops ((bs.length - 13) / 24) (bs.drop 13)))
  | 13 => some (.loops ((List.range (bs.length / 8)).map (fun i => (beAt bs (8 * i) 4, beAt bs (8 * i + 4) 2))))
  | 14 => some (.dacCode (beAt bs 0 2))
  | 15 => some (.tec (beAt bs 0 4))
  | 16 => some (.table (beList 2 256 bs) (beAt bs 512 4))
  | 17 => some .tableClear
  | 18 => some (.region (bytesWords bs))
  | _ => none

/-! ## Records and frames (R346) -/

/-- A mirror record: TYPE, RFLAGS, RLEN, VERSION, OBJECT, body. -/
def recBytes (r : MirRec) : List Byte :=
  let b := bodyBytes r.body
  beBytes 1 r.typ ++ beBytes 1 ((if r.close then 1 else 0) + (if r.retry then 2 else 0)) ++ beBytes 2 b.length ++ beBytes 4 r.version ++
    beBytes 4 (r.obj % 2 ^ 24 + bodyKind r.body * 2 ^ 24) ++ b

/-- Reads the record at the start of a run of bytes, with what follows it; none where the record is not whole. -/
def bytesRec (bs : List Byte) : Option (Option MirRec × List Byte) :=
  let n := beAt bs 2 2
  if bs.length < 12 + n then none
  else
    let o := beAt bs 8 4
    let r := (bytesBody (o / 2 ^ 24) ((bs.drop 12).take n)).map (fun (b : MirBody) =>
      ({ typ := beAt bs 0 1, version := beAt bs 4 4, obj := o % 2 ^ 24, close := bit (beAt bs 1 1) 0, retry := bit (beAt bs 1 1) 1
         body := b } : MirRec))
    some (r, bs.drop (12 + n))

/-- The records of a MIRROR frame's body; a record of a kind that is not listed is passed over.  The fuel bounds the records. -/
def bytesRecs : Nat → List Byte → List MirRec
  | 0, _ => []
  | n + 1, bs => match bytesRec bs with
    | some (some r, rest) => r :: bytesRecs n rest
    | some (none, rest) => bytesRecs n rest
    | none => []

/-- Cuts records into frame bodies of at most `cap` bytes; a record never spans two frames (R346).  `now` is the body being filled. -/
def mirPack (cap : Nat) : List (List Byte) → List Byte → List (List Byte)
  | [], now => if now.isEmpty then [] else [now]
  | r :: rs, now =>
    if now.isEmpty || now.length + r.length ≤ cap then mirPack cap rs (now ++ r) else now :: mirPack cap rs r

/-- The bytes of records that one MIRROR frame holds: TX_MAX of MAC_P less the 14 bytes of the Ethernet header, the 8 of the Selvage
header and the 4 of the FCS. -/
def Dev.mirCap (d : Dev) : Nat := min 9216 (max 1518 (d.rd (F.MAC_CTRL.TX_MAX 2))) - 26

/-- Mirror records leave in MIRROR frames on MAC_P (R346); `sent` keeps those of the present pick. -/
def Dev.sendRecs (d : Dev) (rs : List MirRec) : Dev :=
  forEach (mirPack d.mirCap (rs.map recBytes) []) (fun b (d : Dev) => d.sendP (d.slvHead 0x10 (8 + b.length) ++ b))
    { d with slv := { d.slv with sent := d.slv.sent ++ rs } }

end Sys2Proof.Machine
end

