-- ==== Sys2Proof/Machine/Role.lean ====
section
/-! DEFINITION. Numbers of cells, loops and endpoints (R26 - R36), modes and roles (R97), the peer's standing (R348), and
the items' final status (R287, R288). -/

namespace Sys2Proof.Machine

/-! ## Status codes (R299) -/

/-- OK. -/
abbrev St.ok : Nat := 0x0000
abbrev St.pending : Nat := 0x0001
abbrev St.refer : Nat := 0x0002
abbrev St.skipped : Nat := 0x0003
abbrev St.aborted : Nat := 0x0004
abbrev St.badOpcode : Nat := 0x0010
abbrev St.badLength : Nat := 0x0011
abbrev St.valueInvalid : Nat := 0x0012
abbrev St.privDenied : Nat := 0x0013
abbrev St.tooLarge : Nat := 0x0014
abbrev St.addrInvalid : Nat := 0x0015
abbrev St.busy : Nat := 0x0016
abbrev St.notInSet : Nat := 0x0017
abbrev St.noSet : Nat := 0x0018
abbrev St.txnFailed : Nat := 0x0019
abbrev St.roleStandby : Nat := 0x001A
abbrev St.roleLost : Nat := 0x001B
abbrev St.fieldOwned : Nat := 0x001C
abbrev St.modeRefused : Nat := 0x001D
abbrev St.epaInvalid : Nat := 0x001E
abbrev St.epaReadOnly : Nat := 0x001F
abbrev St.tileAbsent : Nat := 0x0020
abbrev St.tileBusy : Nat := 0x0021
abbrev St.tileNotActive : Nat := 0x0022
abbrev St.tileHoldover : Nat := 0x0023
abbrev St.tileOffline : Nat := 0x0024
abbrev St.cellFault : Nat := 0x0025
abbrev St.cellFrozen : Nat := 0x0026
abbrev St.circuitExists : Nat := 0x0030
abbrev St.circuitUnknown : Nat := 0x0031
abbrev St.portBusy : Nat := 0x0032
abbrev St.tableFull : Nat := 0x0033
abbrev St.noRoute : Nat := 0x0034
abbrev St.altConflict : Nat := 0x0035
abbrev St.nodeConflict : Nat := 0x0036
abbrev St.altBroken : Nat := 0x0037
abbrev St.darkRefused : Nat := 0x0038
abbrev St.pieceAborted : Nat := 0x0039
abbrev St.timePast : Nat := 0x003A
abbrev St.groupFailed : Nat := 0x003B
abbrev St.rsvUnknown : Nat := 0x003C
abbrev St.draftInvalid : Nat := 0x0040
abbrev St.marlError : Nat := 0x0041
abbrev St.sessionFull : Nat := 0x0042
abbrev St.keyUnknown : Nat := 0x0043
abbrev St.keyLocked : Nat := 0x0044
abbrev St.proofFailed : Nat := 0x0045
abbrev St.hostIdBusy : Nat := 0x0046

/-! ## Codes of modes and roles (R97) -/

abbrev Cm.parked : Nat := 0
abbrev Cm.hold : Nat := 1
abbrev Cm.switch : Nat := 2
abbrev Cm.settle : Nat := 3
abbrev Cm.warm : Nat := 4
abbrev Cm.piece : Nat := 5
abbrev Cm.cal : Nat := 6
abbrev Cm.frozen : Nat := 7
abbrev Cm.faulted : Nat := 8
abbrev Tm.offline : Nat := 0
abbrev Tm.fenced : Nat := 1
abbrev Tm.cal : Nat := 2
abbrev Tm.active : Nat := 3
abbrev Tm.holdover : Nat := 4
abbrev Pr.resolving : Nat := 0
abbrev Pr.standby : Nat := 1
abbrev Pr.claiming : Nat := 2
abbrev Pr.active : Nat := 3
abbrev Pr.handing : Nat := 4

/-- The unit's pair role. -/
def Dev.role (d : Dev) : Nat := d.rd F.SLV_STAT.ROLE

/-- Pair role ACTIVE. -/
def Dev.isActive (d : Dev) : Bool := d.role = Pr.active

/-- Pair role ACTIVE or HANDING: the unit controls the fabric. -/
def Dev.controls (d : Dev) : Bool := d.role = Pr.active || d.role = Pr.handing

/-- Tile mode. -/
def Dev.tileMode (d : Dev) (t : Nat) : Nat := d.rd (F.TILE_MODE.MODE t)

/-! ## Cells, loops, endpoints -/

/-- The cell-state record number of a cell (R117). -/
def cellNo (tile stage elem : Nat) : Nat := tile * 3840 + stage * 256 + elem

/-- Tile of a cell. -/
def cellTile (c : Nat) : Nat := c / 3840

/-- Stage of a cell. -/
def cellStage (c : Nat) : Nat := c % 3840 / 256

/-- Element of a cell. -/
def cellElem (c : Nat) : Nat := c % 256

/-- The cell's TH loop (R35). -/
def cellLoop (c : Nat) : Nat := cellTile c * 4096 + c % 3840

/-- Tile of a loop. -/
def loopTile (l : Nat) : Nat := l / 4096

/-- A loop is a VOA loop when its stage is 15 (R35). -/
def isVoa (l : Nat) : Bool := l % 4096 ≥ 3840

/-- The cell of a TH loop. -/
def loopCell (l : Nat) : Nat := loopTile l * 3840 + l % 4096

/-- The VOA loop of a tile's port. -/
def voaLoop (tile port : Nat) : Nat := tile * 4096 + 3840 + port

/-- The node partner of a cell (R26). -/
def partner (c : Nat) : Nat := if c % 2 = 0 then c + 1 else c - 1

/-- The endpoint address of a cell's endpoint of a kind (R33). -/
def cellEpa (c kind : Nat) : Nat := cellTile c * 65536 + cellStage c * 4096 + cellElem c * 4 + kind

/-- Adjacent cells (R29). -/
def adjacent (c : Nat) : List Nat :=
  let e := cellElem c
  let j := cellStage c
  (if e > 0 then [c - 1] else []) ++ (if e < 255 then [c + 1] else []) ++
  (if j > 0 then [c - 256] else []) ++ (if j < 14 then [c + 256] else [])

/-- Cell mode. -/
def Dev.cellMode (d : Dev) (c : Nat) : Nat := d.rd (F.CELL.MODE c)

/-- On a live route. -/
def Dev.lit (d : Dev) (c : Nat) : Bool := d.flag (F.CELL.LIT c)

/-- The wiring from output line L of stage j to stage j + 1 (R27). -/
def wire (j l : Nat) : Nat :=
  if j ≤ 6 then
    let k := 8 - j
    let hi := l / 2 ^ k * 2 ^ k
    let low := l % 2 ^ k
    hi + low / 2 + low % 2 * 2 ^ (k - 1)
  else
    let k := j - 5
    let hi := l / 2 ^ k * 2 ^ k
    let low := l % 2 ^ k
    hi + (low % 2 ^ (k - 1)) * 2 + low / 2 ^ (k - 1)

/-- The line on which light leaves a stage (R26). -/
def stageOut (line : Nat) (cross : Bool) : Nat := if cross then (if line % 2 = 0 then line + 1 else line - 1) else line

/-! ## Draft words -/

/-- A word of a draft image at a byte offset. -/
def draftWord (img : List (Nat × Nat)) (off : Nat) : Nat := AMap.get img (off / 4) 0

/-- ROLE of tile t (R42): 0 ABSENT, 1 INGRESS, 2 MIDDLE, 3 EGRESS, 4 SINGLE, 5 SPARE. -/
def draftRole (img : List (Nat × Nat)) (t : Nat) : Nat := bits (draftWord img (0x100 + 64 * t)) 2 0

/-- Role of a tile in the active draft. -/
def Dev.tileRole (d : Dev) (t : Nat) : Nat := draftRole d.draft.active t

/-- Tiles whose role in the active draft is not ABSENT. -/
def Dev.draftTiles (d : Dev) : List Nat := (List.range 16).filter (fun t => d.tileRole t ≠ 0)

/-- DRAFT_ID of ACTIVE. -/
def Dev.activeId (d : Dev) : Nat := draftWord d.draft.active 4

/-! ## The peer, and items -/

/-- The peer counts as in STANDBY (R348). -/
def Dev.peerStandby (d : Dev) : Bool :=
  !d.flag F.SLV_STAT.P_LOST && d.rd F.SLV_STAT.PEER_ROLE = Pr.standby && d.slv.peerMirror = 2 &&
  !d.flag F.SLV_STAT.PEER_BEHIND

/-- An item's record. -/
def Dev.item (d : Dev) (i : Nat) : Option ItemRec := d.cheda.items.find? (fun r => r.id = i)

/-- Changes an item's record. -/
def Dev.updItem (d : Dev) (i : Nat) (f : ItemRec → ItemRec) : Dev :=
  { d with cheda := { d.cheda with items := d.cheda.items.map (fun r => if r.id = i then f r else r) } }

/-- Gives an item its final status and result, once (R287); the ledger follows (R289). -/
def Dev.finish (d : Dev) (i status : Nat) (result : List Byte) : Dev :=
  match d.item i with
  | none => d
  | some r =>
    if r.fin.isSome then d
    else
      let d := d.updItem i (fun r => { r with fin := some status, result := result, finTb := d.time.tb, staged := false })
      let d := { d with cheda := { d.cheda with ledger := d.cheda.ledger.map (fun (e : LedgerRec) =>
        if e.item = some i then { e with status := status, csn := r.csn } else e) } }
      if status = St.ok then d.count 0x62 else d.count 0x63

/-- Finishes an item if there is one. -/
def Dev.finishOpt (d : Dev) (i : Option Nat) (status : Nat) (result : List Byte) : Dev :=
  match i with
  | some i => d.finish i status result
  | none => d

/-- Ends an item that waits only on the peer's acknowledgement: at once when the peer is not in STANDBY (R348). -/
def Dev.finishAcked (d : Dev) (i status : Nat) (result : List Byte) : Dev :=
  if d.peerStandby && (d.slv.unacked.any (fun v => v.items.contains i)) then
    { d with slv := { d.slv with waitAck := d.slv.waitAck ++ [(i, status, result)] } }
  else d.finish i status result

/-- Sends a CONFIG version of the mirror (R345) with the accounting tuple of the item that made the change.  Only the
unit that controls the fabric sends. -/
def Dev.mirrorConfig (d : Dev) (recs : List (Nat × MirBody)) (item : Option Nat) : Dev :=
  if !d.controls || recs.isEmpty then d
  else
    let ver := (d.slv.cfgVer + 1) % 2 ^ 32
    let tup : List (Nat × MirBody) := match item with
      | none => []
      | some i => match d.item i with
        | none => []
        | some r => [(0, .tuple r.hostId r.src.seq r.src.tag r.op 0 St.pending)]
    let rs : List MirRec := (recs ++ tup ++ [(0, MirBody.mark)]).map (fun (ob : Nat × MirBody) =>
      { typ := 2, version := ver, obj := ob.1, close := decide (ob.2 = MirBody.mark), retry := false, body := ob.2 })
    let v : MirVer := { config := true, version := ver, recs := rs, resends := 0, lastTb := d.time.tb, items := item.toList }
    let d := d.sendRecs rs
    let d := { d with slv := { d.slv with
      cfgVer := ver
      unacked := if d.peerStandby then d.slv.unacked ++ [v] else d.slv.unacked } }
    d.count 0x67

/-! ## Requests to Marl (R414) -/

/-- Publishes MARL_STAT and MARL_WEAR. -/
def Dev.marlStat (d : Dev) : Dev :=
  let d := (d.wr F.MARL_STAT.QUEUED (min 15 d.marl.queue.length)).setFlag F.MARL_STAT.BUSY d.marl.run.isSome
  let d := d.wr F.MARL_STAT.SPARES d.nv.spares
  d.wr F.MARL_WEAR.MAX_ERASE ((d.nv.wear.map (fun (kw : Nat × Nat) => kw.2)).foldl max 0)

/-- Queues a Marl operation in request order (R414). -/
def Dev.marlAsk (d : Dev) (rank : Nat) (kind : MarlKind) (item : Option Nat) : Dev :=
  let op : MarlOp := { rank := rank, kind := kind, item := item }
  ({ d with marl := { d.marl with queue := d.marl.queue ++ [op] } }).marlStat

end Sys2Proof.Machine
end

