-- ==== Sys2Proof/Machine/Draft.lean ====
section
/-! DEFINITION. Drafts (chapter 02): the image layout, the sixteen checks (R49), the predefined drafts (R46, R47), fabric
ports (R45), path delay (R52). -/

namespace Sys2Proof.Machine

/-- A draft image. -/
abbrev Img := List (Nat × Nat)

/-- Fibre record fields (R43) of tile t, output port p. -/
def fibreOff (t p : Nat) : Nat := 0x500 + 16 * (t * 256 + p)
def Img.fValid (g : Img) (t p : Nat) : Bool := bit (draftWord g (fibreOff t p)) 31
def Img.fSplit (g : Img) (t p : Nat) : Bool := bit (draftWord g (fibreOff t p)) 30
def Img.fTileA (g : Img) (t p : Nat) : Nat := bits (draftWord g (fibreOff t p)) 19 16
def Img.fPortA (g : Img) (t p : Nat) : Nat := bits (draftWord g (fibreOff t p)) 7 0
def Img.fDelayA (g : Img) (t p : Nat) : Nat := draftWord g (fibreOff t p + 4)
def Img.fTileB (g : Img) (t p : Nat) : Nat := bits (draftWord g (fibreOff t p + 8)) 19 16
def Img.fPortB (g : Img) (t p : Nat) : Nat := bits (draftWord g (fibreOff t p + 8)) 7 0
def Img.fDelayB (g : Img) (t p : Nat) : Nat := draftWord g (fibreOff t p + 12)

/-- Tile record fields (R42). -/
def Img.twin (g : Img) (t : Nat) : Nat := bits (draftWord g (0x100 + 64 * t)) 7 4
def Img.twinValid (g : Img) (t : Nat) : Bool := bit (draftWord g (0x100 + 64 * t)) 8
def Img.traversal (g : Img) (t : Nat) : Nat := draftWord g (0x104 + 64 * t)
def Img.skew (g : Img) (t : Nat) : Nat := draftWord g (0x108 + 64 * t)
def Img.part (g : Img) (t : Nat) : Nat := bits (draftWord g (0x10C + 64 * t)) 15 0
def Img.minRev (g : Img) (t : Nat) : Nat := bits (draftWord g (0x10C + 64 * t)) 23 16

/-- COH_LIMIT_PS of a tile input port (R44).  The port records are 8 bytes each. -/
def Img.cohLimit (g : Img) (t p : Nat) : Nat := draftWord g (0x10500 + 8 * (t * 256 + p))

/-- The little-endian bytes of a word. -/
def leWord (w : Nat) : List Byte := (beBytes 4 w).reverse

/-- The CRC-32 of an image (R40): bytes 0x0_0000-0x1_84FF with the CRC32 word taken as zero. -/
def Img.crc (g : Img) : Nat :=
  crc32 ((List.range (0x18500 / 4)).flatMap (fun i => leWord (if i = 4 then 0 else AMap.get g i 0)))

/-- Tiles and ports, and all pairs. -/
def tiles16 : List Nat := List.range 16
def ports256 : List Nat := List.range 256
def tilePorts : List (Nat × Nat) := tiles16.flatMap (fun t => ports256.map (fun p => (t, p)))

/-- The valid fibres of an image, as source tile and port. -/
def Img.fibres (g : Img) : List (Nat × Nat) := tilePorts.filter (fun tp => g.fValid tp.1 tp.2)

/-- Every input fed, as (destination tile, port, source tile, source port). -/
def Img.feeds (g : Img) : List (Nat × Nat × Nat × Nat) :=
  g.fibres.flatMap (fun tp =>
    (g.fTileA tp.1 tp.2, g.fPortA tp.1 tp.2, tp.1, tp.2) ::
      (if g.fSplit tp.1 tp.2 then [(g.fTileB tp.1 tp.2, g.fPortB tp.1 tp.2, tp.1, tp.2)] else []))

/-- How many tiles have a role. -/
def Img.roleCount (g : Img) (r : Nat) : Nat := (tiles16.filter (fun t => draftRole g t = r)).length

/-- A spare with TWIN in force for a middle tile. -/
def Img.isTwinOf (g : Img) (s m : Nat) : Bool := draftRole g s = 5 && g.twinValid s && g.twin s = m && draftRole g m = 2

/-- Checks 1-14 (R49). -/
def Img.check (g : Img) : Nat → Bool
  | 1 => bits (draftWord g 0) 15 0 = 1
  | 2 => draftWord g 0x10 = g.crc
  | 3 => draftWord g 4 ≠ 0 && draftWord g 4 ≠ 0xFFFFFFFF
  | 4 => tiles16.all (fun t => draftRole g t ≤ 5 && (bit (draftWord g 0x0C) t = decide (draftRole g t ≠ 0)) &&
      (draftRole g t = 5 || !g.twinValid t))
  | 5 => g.roleCount 4 = 0 || (g.roleCount 4 = 1 && g.roleCount 0 = 15 && g.fibres.isEmpty)
  | 6 => g.roleCount 4 ≠ 0 || (1 ≤ g.roleCount 1 && g.roleCount 1 ≤ 4 && 1 ≤ g.roleCount 2 && 1 ≤ g.roleCount 3 && g.roleCount 3 ≤ 4)
  | 7 => g.fibres.all (fun tp =>
      let r := draftRole g tp.1
      let runs := fun (b : Nat) => (r = 1 && b = 2) || (r = 2 && b = 3) || (r = 5 && b = 3)
      let b := draftRole g (g.fTileB tp.1 tp.2)
      runs (draftRole g (g.fTileA tp.1 tp.2)) && (!g.fSplit tp.1 tp.2 || runs b || ((r = 1 || r = 2 || r = 5) && b = 5)))
  | 8 => tilePorts.all (fun tp =>
      let r := draftRole g tp.1
      if g.fValid tp.1 tp.2 then r = 1 || r = 2 || r = 5
      else [0, 4, 8, 12].all (fun o => draftWord g (fibreOff tp.1 tp.2 + o) = 0))
  | 9 =>
    let fs := g.feeds
    fs.all (fun f => fs.all (fun h =>
      f = h || f.1 ≠ h.1 || f.2.1 ≠ h.2.1 ||
      (draftRole g f.1 = 3 && f.2.2.2 = h.2.2.2 && (g.isTwinOf f.2.2.1 h.2.2.1 || g.isTwinOf h.2.2.1 f.2.2.1))))
  | 10 => g.fibres.all (fun tp => !g.fSplit tp.1 tp.2 ||
      (draftRole g tp.1 = 1 && draftRole g (g.fTileA tp.1 tp.2) = 2 &&
        g.isTwinOf (g.fTileB tp.1 tp.2) (g.fTileA tp.1 tp.2) && g.fPortA tp.1 tp.2 = g.fPortB tp.1 tp.2))
  | 11 => tiles16.all (fun s => draftRole g s ≠ 5 ||
      (if g.twinValid s then
        let m := g.twin s
        draftRole g m = 2 &&
        (g.fibres.all (fun tp => g.fTileA tp.1 tp.2 ≠ m || (g.fSplit tp.1 tp.2 && g.fTileB tp.1 tp.2 = s))) &&
        (g.fibres.all (fun tp => !(g.fSplit tp.1 tp.2 && g.fTileB tp.1 tp.2 = s) || g.fTileA tp.1 tp.2 = m)) &&
        ports256.all (fun p => g.fValid m p = g.fValid s p &&
          (!g.fValid m p || (g.fTileA m p = g.fTileA s p && g.fPortA m p = g.fPortA s p)))
      else ports256.all (fun p => !g.fValid s p) && g.feeds.all (fun f => f.1 ≠ s)))
  | 12 => g.fibres.all (fun tp =>
      let ok := fun n => decide (1 ≤ n ∧ n ≤ 10000000)
      ok (g.fDelayA tp.1 tp.2) && (!g.fSplit tp.1 tp.2 || ok (g.fDelayB tp.1 tp.2)))
  | 13 => tiles16.all (fun t => draftRole g t = 0 ||
      (1 ≤ g.traversal t && g.traversal t ≤ 100000 && g.skew t ≤ g.traversal t))
  | 14 => tilePorts.all (fun tp => g.cohLimit tp.1 tp.2 = 0 || draftRole g tp.1 = 1 || draftRole g tp.1 = 4)
  | _ => true

/-- Check 15: every tile of the image has been discovered with a fitting part and revision. -/
def Dev.check15 (d : Dev) (g : Img) : Bool :=
  tiles16.all (fun t => draftRole g t = 0 ||
    (d.flag (F.WEFT_IDENT.VALID t) &&
      (g.part t = 0 || d.rd (F.WEFT_IDENT.PART t) = g.part t) && g.minRev t ≤ d.rd (F.WEFT_IDENT.REV t)))

/-- The circuit-table entries in use: live ones not FREE, alternates ARMED. -/
def Dev.usedEntries (d : Dev) : List Nat :=
  ((d.mem.filterMap (fun kv =>
    if 0x01000000 * 32 ≤ kv.1 && kv.1 < 0x01080000 * 32 then some ((kv.1 / 32 - 0x01000000) / 0x100) else none)).eraseDups).filter
    (fun e => d.rd (F.CIR.STATE e) ≠ 0)

/-- Check 16: every tile of a used route keeps its role and every fibre of it its destination. -/
def Dev.check16 (d : Dev) (g : Img) : Bool :=
  let a := d.draft.active
  d.usedEntries.all (fun e => [0, 1, 2].all (fun h =>
    !d.flag (F.CIR.HOP_VALID e h) ||
    (let t := d.rd (F.CIR.HOP_TILE e h)
     let p := d.rd (F.CIR.HOP_OUT e h)
     draftRole a t = draftRole g t &&
     (h = 2 || !d.flag (F.CIR.HOP_VALID e (h + 1)) ||
      (g.fValid t p = Img.fValid a t p && Img.fTileA a t p = g.fTileA t p && Img.fPortA a t p = g.fPortA t p &&
       Img.fSplit a t p = g.fSplit t p && Img.fTileB a t p = g.fTileB t p && Img.fPortB a t p = g.fPortB t p)))))

/-- The first failing check among the first n, or 0 (R49). -/
def Dev.firstFail (d : Dev) (g : Img) (n : Nat) : Nat :=
  match ((List.range n).map (· + 1)).find? (fun i => !(if i = 15 then d.check15 g else if i = 16 then d.check16 g else g.check i)) with
  | some i => i
  | none => 0

/-- Records the result of a run of checks in DRAFT_CHECK (R51). -/
def Dev.recordCheck (d : Dev) (live : Bool) (fail : Nat) : Dev :=
  ((d.setFlag F.DRAFT_CHECK.PASS (fail = 0)).setFlag F.DRAFT_CHECK.LIVE_RUN live).wr F.DRAFT_CHECK.FIRST_FAIL fail

/-- DRAFT_CTRL.CHECK: runs checks 1-14 against STAGED; the field clears when the run ends (R51, R8). -/
def Dev.draftCheck (d : Dev) : Dev := d.recordCheck false (d.firstFail d.draft.staged 14)

/-- The activation run of R38 step 1. -/
def Dev.draftActivationRun (d : Dev) : Dev × Bool :=
  let f := d.firstFail d.draft.staged 16
  (d.recordCheck true f, f = 0)

/-- The bits of a slot's word that are fields; the others are Reserved (R6, R41 - R44). -/
def draftMask (off : Nat) : Nat :=
  if off < 0x100 then (if off = 0 || off = 0x0C then 0xFFFF else if off = 4 || off = 8 || off = 0x10 then 0xFFFFFFFF else 0)
  else if off < 0x500 then
    (let o := (off - 0x100) % 64
     if o = 0 then 0x1F7 else if o = 4 || o = 8 then 0xFFFFFFFF else if o = 0x0C then 0xFFFFFF else 0)
  else if off < 0x10500 then
    (let o := (off - 0x500) % 16
     if o = 0 then 0xC00F00FF else if o = 8 then 0x000F00FF else 0xFFFFFFFF)
  else if off < 0x18500 then (if (off - 0x10500) % 8 = 0 then 0xFFFFFFFF else 0)
  else 0

/-- Writes words into a slot from a byte offset. -/
def Img.write (g : Img) (off : Nat) (ws : List Nat) : Img :=
  (ws.zipIdx).foldl (fun g wi => AMap.set g (off / 4 + wi.2) (wi.1 &&& draftMask (off + 4 * wi.2)) 0) g

/-- The fibres of Selvage-1024 (R47). -/
def selvageFibres : Img :=
  tilePorts.flatMap (fun tp =>
    let (t, p) := tp
    let w : Nat × Nat × Nat × Bool :=
      if t < 4 then (4 + p / 64, t * 64 + p % 64, 12 + p / 64, true)
      else if t < 8 then (8 + p / 64, (t - 4) * 64 + p % 64, 0, false)
      else (8 + p / 64, (t - 12) * 64 + p % 64, 0, false)
    if 8 ≤ t ∧ t < 12 then []
    else
      let i := fibreOff t p / 4
      (i, 2 ^ 31 + (if w.2.2.2 then 2 ^ 30 else 0) + w.1 * 65536 + w.2.1) ::
        (if w.2.2.2 then [(i + 2, w.2.2.1 * 65536 + w.2.1)] else []))

/-- A predefined draft without its CRC (R46). -/
def predefinedBody (id : Nat) : Img :=
  if id = 1 then [(0, 1), (1, 1), (2, 1), (3, 1), (0x100 / 4, 4)]
  else
    [(0, 1), (1, 2), (2, 1), (3, 0xFFFF)] ++
    tiles16.map (fun t => ((0x100 + 64 * t) / 4,
      if t < 4 then 1 else if t < 8 then 2 else if t < 12 then 3 else 5 + (t - 8) * 16 + 256)) ++ selvageFibres

/-- A predefined draft, with the CRC32 that matches it (R46). -/
def predefined (id : Nat) : Img :=
  let g := predefinedBody id
  AMap.set g 4 (Img.crc g) 0

/-! ## Fabric ports (R45) -/

/-- The tiles of a role in ascending order. -/
def Img.roleTiles (g : Img) (r : Nat) : List Nat := tiles16.filter (fun t => draftRole g t = r)

/-- The tile and input port of a fabric input number. -/
def Img.inPort (g : Img) (n : Nat) : Option (Nat × Nat) :=
  match g.roleTiles 4 with
  | t :: _ => if n < 256 then some (t, n) else none
  | [] => ((g.roleTiles 1)[n / 256]?).map (fun t => (t, n % 256))

/-- The tile and output port of a fabric output number. -/
def Img.outPort (g : Img) (n : Nat) : Option (Nat × Nat) :=
  match g.roleTiles 4 with
  | t :: _ => if n < 256 then some (t, n) else none
  | [] => ((g.roleTiles 3)[n / 256]?).map (fun t => (t, n % 256))

/-! ## Routes and path delay -/


/-- The fibre delay from a hop to the next (R52): destination A or B of the fibre record. -/
def Img.hopDelay (g : Img) (a b : Hop) : Nat :=
  if g.fTileA a.tile a.out = b.tile then g.fDelayA a.tile a.out else g.fDelayB a.tile a.out

/-- The path delay of a route (R52). -/
def Img.pathDelay (g : Img) (r : List Hop) : Nat :=
  (r.map (fun h => g.traversal h.tile)).sum + ((r.zip (r.drop 1)).map (fun ab => g.hopDelay ab.1 ab.2)).sum

/-- The cells of a hop with the state the route needs: (cell record number, cross). -/
def Hop.cells (h : Hop) : List (Nat × Bool) :=
  h.lines.zipIdx.map (fun lj => (cellNo h.tile lj.2 lj.1, bit h.cross lj.2))

/-- The cells of a route in path order (R66). -/
def routeCells (r : List Hop) : List (Nat × Bool) := r.flatMap Hop.cells

/-- The delay difference of two routes (R52). -/
def Img.delayDiff (g : Img) (r s : List Hop) : Nat :=
  let a := g.pathDelay r
  let b := g.pathDelay s
  let ts := ((r ++ s).map (fun h : Hop => h.tile)).eraseDups
  let differs := ts.filter (fun t =>
    ((r.filter (fun h => h.tile = t)).flatMap Hop.cells).map (·.1) ≠ ((s.filter (fun h => h.tile = t)).flatMap Hop.cells).map (·.1))
  (if a ≤ b then b - a else a - b) + (differs.map (fun t => g.skew t)).sum

end Sys2Proof.Machine
end

