-- ==== Sys2Proof/Machine/LoopLaw.lean ====
section
/-! DEFINITION. The arithmetic of the loops (R57 - R62, R64, R66, R85, R86): rounding, saturation, scaled coefficients,
the full step, back-calculation, the treadle filter.  Pure functions over signed integers. -/

namespace Sys2Proof.Machine

/-! ## Rounding and saturation (R59) -/

/-- Right shift by s, rounding half up. -/
def rsh (x : Int) (s : Nat) : Int := if s = 0 then x else (x + (2 : Int) ^ (s - 1)) / (2 : Int) ^ s

/-- floor(x / y + 1/2) for y > 0: a division rounded to the nearest, a tie going up (rule 4, rule 6). -/
def divRound (x : Int) (y : Nat) : Int := (2 * x + y) / (2 * (y : Int))

/-- Saturates to 16 bits signed. -/
def sat16 (x : Int) : Int := satI 16 x

/-- Saturates to 32 bits signed. -/
def sat32 (x : Int) : Int := satI 32 x

/-- A product with f fraction bits aligned to Q2.30: a left shift saturates, a right shift rounds half up (rule 1). -/
def align30 (x : Int) (f : Nat) : Int := sat32 (if f ≤ 30 then x * (2 : Int) ^ (30 - f) else rsh x (f - 30))

/-- A product with f fraction bits (f ≥ 15) aligned to Q1.15. -/
def align15 (x : Int) (f : Nat) : Int := sat16 (rsh x (f - 15))

/-- Q2.30 to Q1.15 (rule 3). -/
def q15 (x : Int) : Int := sat16 (rsh x 15)

/-! ## Sine -/

/-- n terms of the series of the sine, each from the one before it, in units of 2^-64. -/
def sinTerms (x2 : Nat) : Nat → Nat → Int → Int
  | 0, _, _ => 0
  | n + 1, k, term =>
    let t := -(term * x2 / ((2 : Int) ^ 64 * ((2 * k) * (2 * k + 1) : Nat)))
    t + sinTerms x2 n (k + 1) t

/-- The sine of a 32-bit phase (2^32 is a turn), in units of 2^-64. -/
def sinPhase (p : Nat) : Int :=
  let j := p % 2 ^ 31
  let q := if j ≤ 2 ^ 30 then j else 2 ^ 31 - j
  let x : Nat := 115904311329233965478 * q / 2 ^ 32
  let s := (x : Int) + sinTerms (x * x / 2 ^ 64) 14 1 x
  if p % 2 ^ 32 < 2 ^ 31 then s else -s

/-! ## Ratio, power -/

/-- The ratio of a TH loop (R60). -/
def ratio (mb mx : Nat) : Int := sat16 (divRound (32768 * ((mb : Int) - mx)) (mb + mx))

/-- Whether the ratio is invalid (R60). -/
def ratioInvalid (mb mx floor : Nat) : Bool := mb + mx < floor || mb + mx = 0

/-- Largest k in [lo, lo + 2^n) with 10^(2k-1) ≤ x^5120, by bisection (k = 0 qualifies). -/
def log10Search (x5120 : Nat) : Nat → Nat → Nat
  | 0, lo => lo
  | n + 1, lo =>
    let mid := lo + 2 ^ n
    if 10 ^ (2 * mid - 1) ≤ x5120 then log10Search x5120 n mid else log10Search x5120 n lo

/-- 10 log10(sample) in Q8.8, rounded to the nearest 2^-8 dB, a tie going upward (R64): the k with
k - 1/2 ≤ 2560 log10(sample) < k + 1/2. -/
def log10Q88 (sample : Nat) : Int := (log10Search (sample ^ 5120) 14 0 : Nat)

/-- The dither sign h_r(q) of Walsh row r at place q (R66): +1 when r AND q has an even bit count. -/
def walshSign (r q : Nat) : Int := if (bitsSet (r &&& q) 8).length % 2 = 0 then 1 else -1

/-! ## Coefficients (R57) -/

/-- value × 2^s, saturating to a range, a right shift rounding half up (R57, R59). -/
def scale (lo hi v s : Int) : Int :=
  clampI lo hi (if 0 ≤ s then v * (2 : Int) ^ s.toNat else rsh v (-s).toNat)

/-- The scaled coefficients of a set as read from its fields: s is DESIGN_RATE minus the code of the step rate. -/
def mkCoef (kp ki kd kf kaw s : Int) : Coef :=
  { kp := kp, ki := scale 0 65535 ki s, kd := scale (-32768) 32767 kd (-s), kf := kf, kaw := scale 0 65535 kaw s }

/-! ## The steps (R61, R62, R71, R85) -/

/-- The signed state a step reads and writes. -/
structure LoopSt where
  integ : Int
  dstate : Int
  aw : Int
  yPrev : Int
  deriving DecidableEq, Repr

/-- What a step answers: the new state, the output u (Q1.15), the code, the error, whether the output was clamped. -/
structure StepOut where
  st : LoopSt
  u : Int
  code : Nat
  err : Int
  sat : Bool
  deriving DecidableEq, Repr

/-- Clamps and finishes a step from its sum v.  SAT: the output differs from v, whether U_MIN, U_MAX or the saturation to Q1.15 clamped it
(R61: AW_RESID bleeds either). -/
def finishStep (integ dstate v y e uMin uMax : Int) : StepOut :=
  let q := q15 v
  let u := clampI uMin uMax q
  { st := { integ := integ, dstate := dstate, aw := sat32 (u * 32768 - v), yPrev := y }
    u := u, code := (u + 32768).toNat, err := e, sat := decide (u ≠ rsh v 15) }

/-- The sum of a full step before clamping (R61): the parts p, integ, dstate and v. -/
def fullSum (k : Coef) (s : LoopSt) (y e c : Int) : Int × Int × Int × Int :=
  let p := align30 (k.kp * e) 27
  let integ := sat32 (s.integ + align30 (k.ki * e) 31 + align30 (k.kaw * s.aw) 46)
  let rawD := align30 (k.kd * (s.yPrev - y)) 27
  let dstate := sat32 (s.dstate + align30 (k.kf * (rawD - s.dstate)) 46)
  (p, integ, dstate, sat32 (p + integ + dstate + c))

/-- The full step of R61 on measurement y, error e, correction c (Q2.30). -/
def fullStep (k : Coef) (s : LoopSt) (y e c uMin uMax : Int) : StepOut :=
  let (_, integ, dstate, v) := fullSum k s y e c
  finishStep integ dstate v y e uMin uMax

/-- The first step after a change of coefficients (R71): v with the old ones; p and DSTATE with the new ones; INTEG set so
that the output is the old one. -/
def bumplessStep (old k : Coef) (s : LoopSt) (y e c uMin uMax : Int) : StepOut :=
  let (_, _, _, v) := fullSum old s y e c
  let (p, _, dstate, _) := fullSum k s y e c
  finishStep (sat32 (v - p - dstate - c)) dstate v y e uMin uMax

/-- Back-calculation toward drive code D (R62).  SAT reports that INTEG saturated. -/
def backCalc (k : Coef) (y e c : Int) (code : Nat) (uMin uMax : Int) : StepOut :=
  let ut : Int := (code : Int) - 32768
  let p := align30 (k.kp * e) 27
  let want := ut * 32768 - p - c
  let integ := sat32 want
  if integ = want then
    { st := { integ := integ, dstate := 0, aw := 0, yPrev := y }, u := ut, code := code, err := e, sat := false }
  else
    let o := finishStep integ 0 (sat32 (p + integ + c)) y e uMin uMax
    { o with st := { o.st with aw := 0 }, sat := true }

/-- R85: the correction changed by other means; INTEG takes up the difference.  Answers INTEG and whether it saturated. -/
def foldCorrection (integ cLast c : Int) : Int × Bool :=
  let w := integ + cLast * 32768 - c
  (sat32 w, decide (sat32 w ≠ w))

/-- The Q filter (R86). -/
def qFilter (bypass : Bool) (qf qstate ebar : Int) : Int :=
  if bypass then ebar else sat16 (qstate + align15 (qf * (ebar - qstate)) 31)

/-- The learning update of one bin (R86). -/
def learnBin (w forget lgain qstate cLimit : Int) : Int :=
  clampI (-cLimit) cLimit (sat16 (w - align15 (forget * w) 31 + align15 (lgain * qstate) 31))

end Sys2Proof.Machine
end

