-- ==== Sys2Proof/Machine/Cells.lean ====
section
/-! DEFINITION. Cells: calibration records and the heater's feed-forward model (R128, R430, R433), the rise budget (R427),
the entries that a cell's change puts into the drive frame (R175, R176), and the mode transitions of R98 - R103, R110. -/

namespace Sys2Proof.Machine

/-! ## Calibration records (R430, R433) -/

/-- The nominal record of a tile (R433). -/
def Dev.nominalRec (d : Dev) (t : Nat) : CalRec :=
  let ppi := d.rd (F.CAL_NOM.PPI t)
  { ptab := (List.range 17).map (fun i => (divRound (2 * ppi * (if i = 16 then 0xFFFF else i * 0x1000) : Nat) 65536).toNat)
    bar := [0, 0, 0, 0], cross := [0x8000, 0x8000, 0x8000, 0x8000], derived := 0, park := 0
    yBar := 0x7FFF, yCross := 0x8000, p2pi := 2 * ppi, tau := 8029, fcEff := 16384
    fcE := min (d.rd (F.CAL_NOM.FCE t)) 1200, cfg := none, failed := false, shadow := false }

/-- A cell's record: the one held, or the nominal one. -/
def Dev.calRec (d : Dev) (c : Nat) : CalRec := (AMap.find d.cal.recs.cells c).getD (d.nominalRec (cellTile c))

/-- Heater power of a code, in 10 µW: linear between the points of PTAB (R430). -/
def CalRec.power (r : CalRec) (code : Nat) : Nat :=
  let i := min (code / 0x1000) 15
  let a := r.ptab.getD i 0
  let b := r.ptab.getD (i + 1) 0
  let w := if i = 15 then 0xFFF else 0x1000
  ((a : Int) + divRound (((b : Int) - a) * (code - i * 0x1000 : Nat)) w).toNat

/-- The code of a power by inverse interpolation (R430). -/
def CalRec.codeOf (r : CalRec) (p : Nat) : Nat :=
  match (List.range 16).find? (fun i => p ≤ r.ptab.getD (i + 1) 0) with
  | none => 0xFFFF
  | some i =>
    let a := r.ptab.getD i 0
    let b := r.ptab.getD (i + 1) 0
    let w := if i = 15 then 0xFFF else 0x1000
    if p ≤ a ∨ b ≤ a then i * 0x1000 else i * 0x1000 + (divRound (((p : Int) - a) * w) (b - a)).toNat

/-- The band of a tile's temperature in force. -/
def Dev.band (d : Dev) (t : Nat) : Nat := d.rd (F.TILE_TEMP.BAND t)

/-- The target code of a state in the tile's band (R153). -/
def Dev.targetCode (d : Dev) (c : Nat) (cross : Bool) : Nat :=
  let r := d.calRec c
  (if cross then r.cross else r.bar).getD (d.band (cellTile c)) 0

/-- PARK_CODE in force. -/
def Dev.parkCode (d : Dev) (c : Nat) : Nat := d.rd (F.LOOP.PARK_CODE (cellLoop c))

/-- The TH code in force. -/
def Dev.thCode (d : Dev) (c : Nat) : Nat := d.rd (F.LOOP.CODE (cellLoop c))

/-- The SP the Circuit unit writes for a state: YBAR or YCROSS. -/
def Dev.stateSp (d : Dev) (c : Nat) (cross : Bool) : Nat := if cross then (d.calRec c).yCross else (d.calRec c).yBar

/-- The DECAY index nearest a time constant (R175). -/
def decayIndex (tau : Nat) : Nat :=
  let ts := [6000, 6360, 6742, 7146, 7575, 8029, 8511, 9022]
  let dist := fun t : Nat => if t ≤ tau then tau - t else t - tau
  (List.range 8).foldl (fun best i => if dist (ts.getD i 0) < dist (ts.getD best 0) then i else best) 0

/-- The time constant of a DECAY index, ns (R175). -/
def decayTau (i : Nat) : Nat := [6000, 6360, 6742, 7146, 7575, 8029, 8511, 9022].getD i 8029

/-! ## The heater model (R105, R128) -/

/-- n terms of the Taylor series of e^-x with x and the result in units of 2^-64: terms k and above, given term k - 1. -/
def expTerms (x : Nat) : Nat → Nat → Int → Int
  | 0, _, _ => 0
  | n + 1, k, term =>
    let t := -(term * x / ((2 : Int) ^ 64 * (k : Int)))
    t + expTerms x n (k + 1) t

/-- Squares n times, in units of 2^-64. -/
def sqTimes : Nat → Nat → Nat
  | 0, v => v
  | n + 1, v => sqTimes n (v * v / 2 ^ 64)

/-- e^(-t / tau) in units of 2^-32. -/
def expNeg (t tau : Nat) : Nat :=
  if t ≥ 40 * tau then 0
  else
    let x := t * 2 ^ 64 / (tau * 256)
    sqTimes 8 ((2 : Int) ^ 64 + expTerms x 14 1 ((2 : Int) ^ 64)).toNat / 2 ^ 32

/-- A cell's auxiliary state. -/
def Dev.caux (d : Dev) (c : Nat) : CellAux := AMap.get d.cell.aux c {}

/-- Changes a cell's auxiliary state. -/
def Dev.updAux (d : Dev) (c : Nat) (f : CellAux → CellAux) : Dev :=
  { d with cell := { d.cell with aux := AMap.set d.cell.aux c (f (d.caux c)) {} } }

/-- Heater power that the model predicts at a timebase instant, in 10 µW × 2^16. -/
def Dev.heaterAt (d : Dev) (c tb : Nat) : Nat :=
  let a := d.caux c
  let r := d.calRec c
  if a.model then
    let e := expNeg (tb - a.t0) r.tau
    let t : Int := (a.target : Int) * 65536
    (t + ((a.h0 : Int) - t) * e / (2 : Int) ^ 32).toNat
  else r.power (d.thCode c) * 65536

/-- The predicted remaining lag at an instant, in 10 µW × 2^16. -/
def Dev.lagAt (d : Dev) (c tb : Nat) : Nat :=
  let a := d.caux c
  if a.model then
    let h := d.heaterAt c tb
    let t := a.target * 65536
    if h ≤ t then t - h else h - t
  else 0

/-- The predicted FC share at an instant in units of π / 1024, rounded up: the lag as a phase (φ = π p / PPI, R430). -/
def Dev.shareAt (d : Dev) (c tb : Nat) : Nat :=
  let ppi := max 1 ((d.calRec c).p2pi / 2)
  (d.lagAt c tb * 1024 + ppi * 65536 - 1) / (ppi * 65536)

/-- FC_START for a share: the share corrected by FC_EFF, at most 1,024 (R175, R430). -/
def Dev.fcStart (d : Dev) (c tb : Nat) : Nat :=
  let ppi := max 1 ((d.calRec c).p2pi / 2)
  let share := (divRound (d.lagAt c tb * 1024 : Nat) (ppi * 65536)).toNat
  min 1024 (divRound (share * 16384 : Nat) (max 1 (d.calRec c).fcEff)).toNat

/-- Sets the TH code in force at the present boundary, with the model running on toward it. -/
def Dev.moveTh (d : Dev) (c code : Nat) : Dev :=
  let now := d.time.tb
  let h := d.heaterAt c now
  let p := (d.calRec c).power code
  let d := d.updAux c (fun a => { a with h0 := h, t0 := now, target := p, model := true })
  d.wr (F.LOOP.CODE (cellLoop c)) code

/-- Sets the TH code without a model: the heater is taken as settled. -/
def Dev.putTh (d : Dev) (c code : Nat) : Dev :=
  (d.updAux c (fun a => { a with model := false })).wr (F.LOOP.CODE (cellLoop c)) code

/-- The model of an adopted cell (R106, R110): TH stands at the echoed code, and the heater lags behind it by the share that the echoed
FC_START covers. -/
def Dev.adoptModel (d : Dev) (c code fc : Nat) : Dev :=
  let r := d.calRec c
  let t := r.power code * 65536
  let ppi := max 1 (r.p2pi / 2)
  let lag := (divRound (divRound (fc * r.fcEff : Nat) 16384 * (ppi * 65536 : Nat)) 1024).toNat
  -- the heater still comes from the side of the other state's power
  let other := r.power (d.targetCode c (!(d.caux c).cross)) * 65536
  let h := if other ≤ t then t - min t lag else t + lag
  let change := if other ≤ t then t - other else other - t
  d.updAux c (fun a => { a with h0 := h, t0 := d.time.tb, target := r.power code, change := change / 65536, model := true })

/-! ## Links and frames -/

/-- A link's state. -/
def Dev.link (d : Dev) (t : Nat) : Link := AMap.get d.weft.links t {}

/-- Changes a link's state. -/
def Dev.updLink (d : Dev) (t : Nat) (f : Link → Link) : Dev :=
  { d with weft := { d.weft with links := AMap.set d.weft.links t (f (d.link t)) {} } }

/-- Places a TH code into the frame for the next boundary. -/
def Dev.sendCode (d : Dev) (l code : Nat) : Dev :=
  d.updLink (loopTile l) (fun k => { k with codes := AMap.put k.codes l code })

/-- Places an FC entry into the frame for the next boundary (R175); a cell takes at most one. -/
def Dev.sendFc (d : Dev) (c : Nat) (sw cross : Bool) (start : Nat) : Dev :=
  d.updLink (cellTile c) (fun k => { k with fcQ := AMap.put k.fcQ c (.fc sw cross start (decayIndex (d.calRec c).tau)) })

/-- Queues a mode command (R176). -/
def Dev.sendMode (d : Dev) (t word : Nat) : Dev := d.updLink t (fun k => { k with modeQ := k.modeQ ++ [word] })

/-- TARGET_WR (R176): cell index, band, slot (0 bar, 1 cross, 2 park), code. -/
def targetWr (idx band slot code : Nat) : Nat := 0x02 * 2 ^ 56 + idx * 2 ^ 38 + band * 2 ^ 36 + slot * 2 ^ 34 + code

/-- The park entry of a cell follows every change of PARK_CODE (R176). -/
def Dev.setPark (d : Dev) (c code : Nat) : Dev :=
  if d.parkCode c = code then d
  else (d.wrLoop (F.LOOP.PARK_CODE (cellLoop c)) code).sendMode (cellTile c) (targetWr (c % 3840) 0 2 code)

/-- The TARGET_WR commands of every park and target entry of a cell. -/
def Dev.entryCmds (d : Dev) (c : Nat) : List Nat :=
  let r := d.calRec c
  [0, 1, 2, 3].flatMap (fun b => [targetWr (c % 3840) b 0 (r.bar.getD b 0), targetWr (c % 3840) b 1 (r.cross.getD b 0)]) ++
    [targetWr (c % 3840) 0 2 (d.parkCode c)]

/-- Writes the park and target entries of cells of a tile. -/
def Dev.writeEntries (d : Dev) (t : Nat) (cells : List Nat) : Dev :=
  d.updLink t (fun k => { k with modeQ := k.modeQ ++ cells.flatMap d.entryCmds })

/-- The cells of a tile in stage-major order. -/
def cellsOf (t : Nat) : List Nat := (List.range 3840).map (fun i => t * 3840 + i)

/-- FC to zero: an entry with SW = 0 and FC_START = 0 when FC was on (R106, R175). -/
def Dev.fcOff (d : Dev) (c : Nat) : Dev :=
  if d.rd (F.CELL.FC_CODE c) = 0 then d
  else (d.wr (F.CELL.FC_CODE c) 0).sendFc c false (d.caux c).cross 0

/-! ## The rise budget (R427) -/

/-- RISE_ALL or RISE_TILE, 0 taken as 1. -/
def Dev.riseRate (d : Dev) (tile : Bool) : Nat := max 1 (d.rd (if tile then F.SUP_RISE.RISE_TILE else F.SUP_RISE.RISE_ALL))

/-- Refills the buckets at a boundary: rate × pick length, up to 50 µs of the rate (in 10 µW units). -/
def Dev.riseRefill (d : Dev) : Dev :=
  let ns := d.pickNs
  let fill := fun (rate : Nat) (b : Int) => min (((rate * 500 : Nat)) : Int) (b + ((rate * ns / 100 : Nat) : Int))
  let d := { d with weft := { d.weft with bucket := fill (d.riseRate false) d.weft.bucket } }
  (List.range 16).foldl (fun (d : Dev) t => d.updLink t (fun k => { k with bucket := fill (d.riseRate true) k.bucket })) d

/-- Charges a rise to both buckets. -/
def Dev.riseSpend (d : Dev) (t charge : Nat) : Dev :=
  if charge = 0 then d
  else
    let d := { d with weft := { d.weft with bucket := d.weft.bucket - charge } }
    d.updLink t (fun k => { k with bucket := k.bucket - charge })

/-- The rise of moving a cell's heater to a code: max(0, p(new) - p(old)). -/
def Dev.riseOf (d : Dev) (c code : Nat) : Nat := (d.calRec c).power code - (d.calRec c).power (d.thCode c)

/-- Whether a change of rank 3 to 5 fits: both buckets hold its charge, or both are full and it is larger than full. -/
def Dev.riseFits (d : Dev) (t charge : Nat) : Bool :=
  let m := d.weft.bucket
  let k := (d.link t).bucket
  let fm : Int := (d.riseRate false * 500 : Nat)
  let ft : Int := (d.riseRate true * 500 : Nat)
  (charge : Int) ≤ 0 || ((decide ((charge : Int) ≤ m) || (m = fm && fm < charge)) && (decide ((charge : Int) ≤ k) || (k = ft && ft < charge)))

/-- Tries to take a change of rank 3 to 5: charged and true, or counted once as waiting and false (R427). -/
def Dev.riseTry (d : Dev) (c code : Nat) : Dev × Bool :=
  let charge := d.riseOf c code
  if d.riseFits (cellTile c) charge then
    let d := d.riseSpend (cellTile c) charge
    ({ d with weft := { d.weft with waited := d.weft.waited.filter (· ≠ c) } }, true)
  else if d.weft.waited.contains c then (d, false)
  else
    let d := { d with weft := { d.weft with waited := d.weft.waited ++ [c] } }
    let d := d.bump F.SUP_RISE_STAT.WAITS 1
    (d.raise 0x2C 0 (cellTile c) (min (charge / 100) 0xFFFFFFFF), false)

/-! ## Mode changes -/

/-- Adds a trigger for the next boundary (R99). -/
def Dev.trigger (d : Dev) (cell rank : Nat) (act : CellAct) : Dev :=
  { d with cell := { d.cell with pend := d.cell.pend ++ [{ cell := cell, rank := rank, act := act }] } }

/-- Enters a cell mode at the present boundary; HOST_FROZEN holds in FROZEN only (R117).  WARM leaves no trace in the record (R104): it is
entered from PARKED and left to PARKED with PREV_MODE and ENTRY_PICK as they were, and any other mode entered from it has PARKED before it. -/
def Dev.setCellMode (d : Dev) (c m : Nat) : Dev :=
  let was := d.cellMode c
  let hidden := m = Cm.warm || (was = Cm.warm && m = Cm.parked)
  let d := d.wr (F.CELL.MODE c) m
  let d := if m = Cm.frozen then d else d.setFlag (F.CELL.HOST_FROZEN c) false
  let d := d.updAux c (fun a => { a with near := false, steps := 0, adopt := false, moved := some d.pick.num })
  if hidden then d
  else
    let d := (d.wr (F.CELL.PREV_MODE c) (if was = Cm.warm then Cm.parked else was)).wr (F.CELL.ENTRY_PICK c) d.pick.num
    d.updAux c (fun a => { a with entry := d.pick.num })

/-- Ends the items waiting for a freeze of the cell, with a status. -/
def Dev.endFreeze (d : Dev) (c status : Nat) : Dev :=
  let items := (d.caux c).freezeItems
  let d := (d.setFlag (F.CELL.FREEZE_PEND c) false).updAux c (fun a => { a with freezeItems := [] })
  items.foldl (fun d i => d.finish i status []) d

/-- Drops a cell from the Tilth ledger. -/
def Dev.unledger (d : Dev) (c : Nat) : Dev := { d with tilth := { d.tilth with led := AMap.del d.tilth.led c } }

/-- Marks a back-calculation due for the loop with drive code D (R62). -/
def Dev.dueBack (d : Dev) (l code : Nat) : Dev :=
  { d with loop := { d.loop with aux := AMap.set d.loop.aux l { AMap.get d.loop.aux l {} with back := some code } {} } }

/-- TH to PARK_CODE and FC to zero; the cell becomes PARKED. -/
def Dev.goParked (d : Dev) (c : Nat) : Dev :=
  let d := d.fcOff c
  let code := d.parkCode c
  let d := d.riseSpend (cellTile c) (d.riseOf c code)
  let d := (d.moveTh c code).sendCode (cellLoop c) code
  let d := ((d.unledger c).updAux c (fun x => { x with reached := false })).setCellMode c Cm.parked
  if d.flag (F.CELL.FREEZE_PEND c) then
    (d.caux c).freezeItems.foldl (fun (d : Dev) i => d.trigger c 5 (.freeze i)) d
  else d

/-- Enters SWITCH toward a state (R98, R128): TH to the target code of the state, the model restarted from the heater as it
is, FC with the remaining share, SP set to the state's ratio. -/
def Dev.goSwitch (d : Dev) (c : Nat) (cross : Bool) : Dev :=
  let m := d.cellMode c
  let r := d.calRec c
  let code := d.targetCode c cross
  let ref := if m = Cm.parked ∨ m = Cm.warm then d.parkCode c else d.thCode c
  let a := r.power ref
  let b := r.power code
  let d := d.riseSpend (cellTile c) (d.riseOf c code)
  let d := (d.moveTh c code).updAux c (fun x => { x with change := (if a ≤ b then b - a else a - b), cross := cross })
  let start := d.fcStart c d.time.tb
  let d := ((d.wr (F.CELL.TARGET_CODE c) code).wr (F.CELL.FC_CODE c) start).sendFc c true cross start
  let d := d.wr (F.LOOP.SP (cellLoop c)) (d.stateSp c cross)
  ((d.unledger c).updAux c (fun x => { x with reached := false })).setCellMode c Cm.switch

/-- Enters HOLD, with a freeze that waits applied at the boundary after (R102). -/
def Dev.goHold (d : Dev) (c : Nat) : Dev :=
  let d := (d.updAux c (fun a => { a with model := false, reached := true })).setCellMode c Cm.hold
  if d.flag (F.CELL.FREEZE_PEND c) then
    (d.caux c).freezeItems.foldl (fun (d : Dev) i => d.trigger c 5 (.freeze i)) d
  else d

/-- A lit cell takes policy FAULT_LIT, a dark one FAULT_DARK: true when TH is held (R101). -/
def Dev.faultHolds (d : Dev) (c : Nat) : Bool :=
  if d.lit c then d.rd F.CELL_CFG.FAULT_LIT = 0 else d.rd F.CELL_CFG.FAULT_DARK = 0

/-- Ends the spot calibration of a cell (R100, R101, R433): its item with a status, its run, the source. -/
def Dev.endSpot (d : Dev) (c status : Nat) : Dev :=
  let d := match (d.caux c).calItem with
    | some i => (d.finish i status []).updAux c (fun a => { a with calItem := none })
    | none => d
  match d.cal.runs.find? (fun (r : CalRun) => r.cell = some c) with
  | none => d
  | some r =>
    let d := { d with cal := { d.cal with runs := d.cal.runs.filter (fun (x : CalRun) => x.cell ≠ some c) } }
    let d := d.setFlag F.CAL_STAT.RUNNING (!d.cal.runs.isEmpty)
    if r.lit then (d.sendMode r.tile (0x04 * 2 ^ 56)).updLink r.tile (fun k => { k with source := false }) else d

/-- Becomes FAULTED (R101). -/
def Dev.goFaulted (d : Dev) (c cause : Nat) : Dev :=
  if d.cellMode c = Cm.faulted then d.updAux c (fun a => { a with quietFrom := d.time.tb })
  else
    let hold := d.faultHolds c
    let d := d.fcOff c
    let d := d.endFreeze c St.modeRefused
    let d := d.endSpot c St.aborted
    let code := d.parkCode c
    let d := if hold then d else ((d.riseSpend (cellTile c) (d.riseOf c code)).moveTh c code).sendCode (cellLoop c) code
    let d := (d.unledger c).setCellMode c Cm.faulted
    let d := d.wr (F.CELL.FAULT_CAUSE c) cause
    let d := d.updAux c (fun a => { a with held := hold, quietFrom := d.time.tb })
    let d := { d with tilth := { d.tilth with holdoff := AMap.put d.tilth.holdoff (cellTile c) none } }
    -- TILE_FAULT (R163): every WARM cell of the tile is undone
    let d := forEach (d.tilth.led.filter (fun (ce : Nat × Led) => cellTile ce.1 = cellTile c && ce.2.undoing.isNone))
      (fun (ce : Nat × Led) (d : Dev) => if d.cellMode ce.1 = Cm.warm then d.trigger ce.1 7 (.undo 4) else d) d
    (d.count 0x1C).raise 0x0C 0 (cellEpa c 0) cause

/-- A cell's act is possible in its mode: the From column of R98 (with R110, R112). -/
def Dev.actFits (d : Dev) (c : Nat) : CellAct → Bool
  | .fault _ | .tileFault | .tilePark | .offline => true
  | .adopt _ _ => let m := d.cellMode c; m = Cm.hold || m = Cm.switch || m = Cm.settle
  | .adoptUndo _ => let m := d.cellMode c; m = Cm.parked || m = Cm.warm
  | .commit _ => let m := d.cellMode c; m = Cm.parked || m = Cm.warm || m = Cm.hold || m = Cm.switch || m = Cm.settle
  | .park => let m := d.cellMode c; m = Cm.hold || m = Cm.switch || m = Cm.settle
  | .pieceStart _ => d.cellMode c = Cm.hold
  | .pieceEnd _ => d.cellMode c = Cm.piece
  | .freeze _ => let m := d.cellMode c; (m = Cm.parked || m = Cm.hold) && d.tileMode (cellTile c) ≠ Tm.offline
  | .unfreeze _ => d.cellMode c = Cm.frozen
  | .calStart => d.cellMode c = Cm.parked
  | .calEnd => d.cellMode c = Cm.cal
  | .undo _ => d.cellMode c = Cm.warm && (AMap.find d.tilth.led c).any (fun (e : Led) => e.undoing.isNone)
  | .undone => d.cellMode c = Cm.warm
  | .warm _ _ _ => d.cellMode c = Cm.parked
  | .arrive _ => d.cellMode c = Cm.switch
  | .settled => d.cellMode c = Cm.settle
  | .clear => d.cellMode c = Cm.faulted

/-- The words of a cell's record. -/
def Dev.cellWords (d : Dev) (c : Nat) : List Nat :=
  [d.rd (F.CELL.MODE c) + d.rd (F.CELL.PREV_MODE c) * 16 + d.rd (F.CELL.LIT c) * 256 + d.rd (F.CELL.ALT c) * 512 +
     d.rd (F.CELL.HOST_FROZEN c) * 1024 + d.rd (F.CELL.WIDE c) * 2048 + d.rd (F.CELL.FREEZE_PEND c) * 4096 +
     d.rd (F.CELL.CIRCUIT c) * 65536,
   d.rd (F.CELL.TARGET_CODE c) + d.rd (F.CELL.FC_CODE c) * 65536,
   min 65535 (d.pick.num - (d.caux c).entry) + d.rd (F.CELL.FAULT_CAUSE c) * 65536,
   d.rd (F.CELL.ENTRY_PICK c)]

/-- The record as it is reported: a WARM cell reads as it stood at entry to WARM (R104). -/
def Dev.cellReport (d : Dev) (c : Nat) : List Nat :=
  if d.cellMode c = Cm.warm then (d.caux c).saved else d.cellWords c

/-- Counts an undone cell by cause (R163): 0 CANCEL, 1 TIMEOUT, 2 CONFLICT, 3 CHAIN, 4 TILE_FAULT, 5 ROLE, 6 BUDGET. -/
def Dev.countUndo (d : Dev) (cause : Nat) : Dev :=
  let f := [F.TILTH_UNDO_A.CANCEL, F.TILTH_UNDO_A.TIMEOUT, F.TILTH_UNDO_B.CONFLICT, F.TILTH_UNDO_B.CHAIN,
    F.TILTH_UNDO_C.TILE_FAULT, F.TILTH_UNDO_C.ROLE].getD cause F.TILTH_UNDO_D.BUDGET
  (d.bump f 1).count (0x23 + cause)

/-- The undo ramp of a WARM cell (R157), from the code in force to PARK_CODE. -/
def Dev.startUndo (d : Dev) (c cause : Nat) : Dev :=
  let len := max 16 (min 64 (d.rd F.TILTH_CFG.UNDO_PICKS))
  match AMap.find d.tilth.led c with
  | none => d
  | some e =>
    if e.undoing.isSome then d
    else
      let e := { e with start := d.thCode c, stop := d.parkCode c, i := 0, len := len, undoing := some cause, waiting := false, last := d.pick.num }
      ({ d with tilth := { d.tilth with led := AMap.put d.tilth.led c e } }).countUndo cause

/-- Applies a cell's act at the present boundary. -/
def Dev.applyAct (d : Dev) (c : Nat) : CellAct → Dev
  | .fault cause => d.goFaulted c cause
  | .tileFault =>
    if d.lit c then d.goFaulted c 5
    else if d.cellMode c = Cm.parked ∨ d.cellMode c = Cm.warm then d
    else (d.updAux c (fun a => { a with causes := [] })).goParked c
  | .tilePark => if d.cellMode c = Cm.parked then d else d.goParked c
  | .offline =>
    let d := (d.endFreeze c St.modeRefused).updAux c (fun a => { a with causes := [] })
    -- an entry dropped without a ramp counts as undone by the tile (R163)
    let d := if (AMap.find d.tilth.led c).any (fun (e : Led) => e.undoing.isNone) then d.countUndo 4 else d
    let d := d.unledger c
    let d := (d.wr (F.CELL.FC_CODE c) 0).putTh c (d.parkCode c)
    let d := (d.setFlag (F.CELL.HOST_FROZEN c) false)
    if d.cellMode c = Cm.parked then d else d.setCellMode c Cm.parked
  | .adopt code fc =>
    -- the heater's lag is the one that the echoed FC covers; the entry resumes FC, or turns off what the tile held (R110, R181)
    let d := (d.putTh c code).adoptModel c code fc
    let d := (d.wr (F.CELL.FC_CODE c) fc).sendFc c false (d.caux c).cross fc
    (d.dueBack (cellLoop c) code).setCellMode c Cm.settle
  | .adoptUndo code =>
    let d := d.putTh c code
    if code = d.parkCode c ∧ d.cellMode c ≠ Cm.warm then d
    else
      -- TILE_FAULT on the return from HOLDOVER, ROLE after a claim; an undo that had begun goes on from the echoed code
      let was := AMap.find d.tilth.led c
      let begun := was.bind (fun (e : Led) => e.undoing)
      let cause := begun.getD (if d.cellMode c = Cm.warm then 4 else 5)
      let e : Led := { owner := 0, target := (was.map (fun (e : Led) => e.target)).getD code, cross := (was.map (fun (e : Led) => e.cross)).getD false
                       start := code, stop := d.parkCode c, i := 0
                       len := max 16 (min 64 (d.rd F.TILTH_CFG.UNDO_PICKS)), undoing := some cause, waiting := false }
      let d := if d.cellMode c = Cm.warm then d else d.updAux c (fun a => { a with saved := d.cellWords c })
      let d := { d with tilth := { d.tilth with led := AMap.put d.tilth.led c e } }
      let d := if begun.isSome then d else d.countUndo cause
      if d.cellMode c = Cm.warm then d else d.setCellMode c Cm.warm
  | .commit cross => d.goSwitch c cross
  | .park => d.goParked c
  | .pieceStart sp =>
    (d.wr (F.LOOP.SP (cellLoop c)) sp).setCellMode c Cm.piece
  | .pieceEnd sp => (d.wr (F.LOOP.SP (cellLoop c)) sp).goHold c
  | .freeze i =>
    let d := (d.setFlag (F.CELL.FREEZE_PEND c) false).updAux c (fun a => { a with freezeItems := a.freezeItems.filter (· ≠ i) })
    let d := (d.setFlag (F.CELL.HOST_FROZEN c) true).setCellMode c Cm.frozen
    d.finish i St.ok []
  | .unfreeze i =>
    let d := d.setFlag (F.CELL.HOST_FROZEN c) false
    let d := if d.lit c then (d.dueBack (cellLoop c) (d.thCode c)).goHold c else d.goParked c
    d.finish i St.ok []
  | .calStart => d.setCellMode c Cm.cal
  | .calEnd => (d.fcOff c).goParked c
  | .undo cause => d.startUndo c cause
  | .undone => d.goParked c
  | .warm code cross owner =>
    let d := d.updAux c (fun a => { a with saved := d.cellWords c, cross := cross })
    let e : Led := { owner := owner, target := code, cross := cross, start := d.thCode c, stop := code, i := 0
                     len := max 16 (min 64 (d.rd F.TILTH_CFG.WARM_PICKS)), undoing := none, waiting := false }
    let d := { d with tilth := { d.tilth with led := AMap.put d.tilth.led c e } }
    ((d.bumpWrap F.TILTH_CNT.WARM_CNT 1).count 0x20).setCellMode c Cm.warm
  | .arrive wide =>
    let code := d.thCode c
    let d := if wide then ((d.setFlag (F.CELL.WIDE c) true).bump F.MODE_STAT.WIDE_CNT 1).count 0x1D
             else d.setFlag (F.CELL.WIDE c) false
    (d.dueBack (cellLoop c) code).setCellMode c Cm.settle
  | .settled => (d.fcOff c).goHold c
  | .clear =>
    if d.lit c && (d.caux c).held then (d.dueBack (cellLoop c) (d.thCode c)).goHold c else d.goParked c

/-- A trigger can act at the present boundary: its cell is in a mode it acts on, and in a tile in HOLDOVER no cell changes mode but by a
fault, or by the tile's going OFFLINE (R110, R113). -/
def Dev.trigFits (d : Dev) (x : CellTrig) : Bool :=
  d.actFits x.cell x.act && (d.tileMode (cellTile x.cell) ≠ Tm.holdover ||
    (match x.act with
     | .fault _ | .offline => true
     | _ => false))

/-- A trigger comes again at the next boundary. -/
def Dev.again (d : Dev) (x : CellTrig) : Dev := { d with cell := { d.cell with pend := d.cell.pend ++ [x] } }

/-- A freeze or unfreeze that was outranked or does not fit the cell's mode (R100, R102): a freeze of a FROZEN cell and an unfreeze of
one that is not are done; a freeze of a FAULTED cell and of a cell of an OFFLINE tile is refused; any other is retried while its item
is open. -/
def Dev.retryFreeze (d : Dev) (x : CellTrig) : Dev :=
  let m := d.cellMode x.cell
  let open_ := fun (i : Nat) => (d.item i).any (fun (r : ItemRec) => r.fin.isNone)
  match x.act with
  | .freeze i =>
    if !open_ i then d
    else if m = Cm.frozen then d.finish i St.ok []
    else if m = Cm.faulted || d.tileMode (cellTile x.cell) = Tm.offline then d.finish i St.modeRefused []
    else d.again x
  | .unfreeze i => if m = Cm.frozen then d.again x else d.finish i St.ok []
  | _ => d

/-- A calibration start that was outranked or does not fit is refused (R100); in a tile's calibration the cell is left out. -/
def Dev.refuseCal (d : Dev) (c : Nat) : Dev :=
  let d := d.endSpot c St.modeRefused
  { d with cal := { d.cal with runs := d.cal.runs.map (fun (r : CalRun) =>
      if r.tile = cellTile c then { r with work := r.work.filter (fun (j : CalJob) => j.cell ≠ c) } else r) } }

/-- What becomes of a trigger that was outranked, or that does not fit (R100): freezes and calibration ends are retried; in a tile in
HOLDOVER, whose cells keep their modes (R110), what a commit or a piece placed waits for its return; the others are dropped. -/
def Dev.trigLost (d : Dev) (x : CellTrig) : Dev :=
  match x.act with
  | .freeze _ | .unfreeze _ => d.retryFreeze x
  | .calEnd => if d.cellMode x.cell = Cm.cal then d.again x else d
  | .commit _ | .park | .pieceStart _ | .pieceEnd _ | .adoptUndo _ | .clear =>
    if d.tileMode (cellTile x.cell) = Tm.holdover then d.again x else d
  | _ => d

/-- The triggers of one cell at a boundary: the best by rank that fits takes effect, the first of equals (R99, R100). -/
def Dev.cellTurn (d : Dev) (trigs : List CellTrig) (c : Nat) : Dev :=
  let mine := trigs.filter (fun (t : CellTrig) => t.cell = c)
  let best := (mine.filter d.trigFits).foldl (fun (b : Option CellTrig) (x : CellTrig) => match b with
    | some y => if x.rank < y.rank then some x else b
    | none => some x) none
  let lost := mine.filter (fun (x : CellTrig) => some x ≠ best)
  let d := if lost.any (fun (x : CellTrig) => x.act = .calStart) then d.refuseCal c else d
  let d := match best with
    | some x => d.applyAct c x.act
    | none => d
  lost.foldl (fun (d : Dev) (x : CellTrig) => d.trigLost x) d

/-- The triggers of the pick, one a cell (R99). -/
def Dev.applyTriggers (d : Dev) : Dev :=
  let trigs := d.cell.pend
  forEach ((trigs.map (fun (t : CellTrig) => t.cell)).eraseDups) (fun c (d : Dev) => d.cellTurn trigs c)
    { d with cell := { d.cell with pend := [] } }

end Sys2Proof.Machine
end

