-- ==== Sys2Proof/Machine/Routes.lean ====
section
/-! DEFINITION. Circuit-table entries as routes (R118 - R121), the ports and cells that are lit, path records (R69), and the
meters that several blocks feed: histogram units (R389, R390) and trace capture (R409). -/

namespace Sys2Proof.Machine

/-! ## Entries -/

/-- Hop h of an entry. -/
def Dev.hop (d : Dev) (e h : Nat) : Hop :=
  { tile := d.rd (F.CIR.HOP_TILE e h), inp := d.rd (F.CIR.HOP_IN e h), out := d.rd (F.CIR.HOP_OUT e h)
    lines := (List.range 15).map (fun j => d.rd (F.CIR.HOP_LINE e h j)), cross := d.rd (F.CIR.HOP_CROSS e h) }

/-- The route of an entry. -/
def Dev.route (d : Dev) (e : Nat) : List Hop :=
  ([0, 1, 2].filter (fun h => d.flag (F.CIR.HOP_VALID e h))).map (d.hop e)

/-- State of an entry (R120). -/
def Dev.eState (d : Dev) (e : Nat) : Nat := d.rd (F.CIR.STATE e)

/-- Circuit ID of an entry. -/
def Dev.eId (d : Dev) (e : Nat) : Nat := d.rd (F.CIR.ID e)

/-- Live entries not FREE, in index order. -/
def Dev.liveEntries (d : Dev) : List Nat := d.usedEntries.filter (fun e => decide (e < 0x400))

/-- Alternate entries ARMED. -/
def Dev.altEntries (d : Dev) : List Nat := d.usedEntries.filter (fun e => decide (0x400 ≤ e))

/-- The live entry of a circuit. -/
def Dev.liveOf (d : Dev) (id : Nat) : Option Nat := d.liveEntries.find? (fun e => d.eId e = id)

/-- The alternate entry of a circuit. -/
def Dev.altOf (d : Dev) (id : Nat) : Option Nat := d.altEntries.find? (fun e => d.eId e = id)

/-- The lowest free index of a half (R118). -/
def Dev.freeEntry (d : Dev) (alt : Bool) : Option Nat :=
  let used := d.usedEntries
  ((List.range 0x400).map (fun i => if alt then i + 0x400 else i)).find? (fun e => !used.contains e)

/-- Every lit route: the route of each live entry and, while a piece runs, its new route (R98, R120). -/
def Dev.litRoutes (d : Dev) : List (Nat × List Hop) :=
  d.liveEntries.map (fun e => (e, d.route e)) ++ d.cir.pieces.map (fun (p : Piece) => (p.entry, p.new))

/-- The routes of armed alternates. -/
def Dev.altRoutes (d : Dev) : List (Nat × List Hop) := d.altEntries.map (fun e => (e, d.route e))

/-- The lit circuit that leaves a tile at a port: its entry, and whether the tile is the circuit's last (R64). -/
def Dev.portUse (d : Dev) (t p : Nat) : Option (Nat × Bool) :=
  match d.litRoutes.find? (fun (er : Nat × List Hop) => er.2.any (fun h => h.tile = t && h.out = p)) with
  | none => none
  | some er => some (er.1, (er.2.getLast?.map (fun (h : Hop) => h.tile)) = some t)

/-- What the VOAs of a circuit's route carry. -/
def Dev.routeUses (d : Dev) (e : Nat) (r : List Hop) : List (Nat × VoaUse) :=
  let last := r.getLast?.map (fun (h : Hop) => h.tile)
  r.map (fun (h : Hop) => (voaLoop h.tile h.out,
    { entry := e, id := d.eId e, csn := d.rd (F.CIR.CSN e)
      inLoop := (r.head?.map (fun (h : Hop) => voaLoop h.tile h.inp)).getD 0, last := decide (last = some h.tile) }))

/-- What an output VOA carries in this pick (R64): a commit whose boundary has not come leaves it what it carried. -/
def Dev.voaUse (d : Dev) (l : Nat) : Option VoaUse :=
  match d.cir.due.find? (fun (u : Due) => u.voas.contains l) with
  | some u => AMap.find u.was l
  | none => (d.portUse (loopTile l) (l % 256)).bind (fun (x : Nat × Bool) => AMap.find (d.routeUses x.1 (d.route x.1)) l)

/-- The live entry whose lit route crosses a cell. -/
def Dev.entryOnCell (d : Dev) (c : Nat) : Option Nat :=
  (d.litRoutes.find? (fun (er : Nat × List Hop) => (routeCells er.2).any (fun cs => cs.1 = c))).map (·.1)

/-- Clears the hops of an entry and writes a route into them, with the path delay (R52). -/
def Dev.writeRoute (d : Dev) (e : Nat) (r : List Hop) : Dev :=
  let d := forEach [0, 1, 2] (fun h (d : Dev) =>
    let hop : Hop := (r[h]?).getD { tile := 0, inp := 0, out := 0, lines := [], cross := 0 }
    let d := (d.setFlag (F.CIR.HOP_VALID e h) (decide (h < r.length))).wr (F.CIR.HOP_TILE e h) hop.tile
    let d := ((d.wr (F.CIR.HOP_IN e h) hop.inp).wr (F.CIR.HOP_OUT e h) hop.out).wr (F.CIR.HOP_CROSS e h) hop.cross
    forEach (List.range 15) (fun j (d : Dev) => d.wr (F.CIR.HOP_LINE e h j) (hop.lines.getD j 0)) d) d
  d.wr (F.CIR.DELAY_PS e) (if r.isEmpty then 0 else Img.pathDelay d.draft.active r)

/-- The words of an entry (R121), first to last. -/
def Dev.entryWords (d : Dev) (e : Nat) : List Nat :=
  let w := fun (o : Nat) => (d.mem.foldl (fun (a : Nat) (kv : Nat × Nat) =>
    if kv.1 / 32 = 0x01000000 + 0x100 * e + o then a + kv.2 * 2 ^ (kv.1 % 32) else a) 0)
  let base := (List.range 64).map (fun i => w (4 * i))
  base.zipIdx.map (fun (xi : Nat × Nat) =>
    -- RESTORE resets to 1, so the map does not list it when it is 1
    if xi.2 = 2 then putBit xi.1 19 (d.flag (F.CIR.RESTORE e)) else xi.1)

/-- Writes the words of an entry. -/
def Dev.putEntryWords (d : Dev) (e : Nat) (ws : List Nat) : Dev :=
  let w := fun (o : Nat) => ws.getD (o / 4) 0
  let d := forEach cirFields (fun (f : Nat × Nat × Nat × Bool × Nat) (d : Dev) =>
    let (o, lo, width, _, rst) := f
    d.wr ⟨0x01000000 + 0x100 * e + o, lo + width - 1, lo, rst⟩ (bits (w o) (lo + width - 1) lo)) d
  forEach [0, 1, 2] (fun h (d : Dev) =>
    let b := 0x40 + 0x18 * h
    let d := ((d.wr (F.CIR.HOP_TILE e h) (w b)).wr (F.CIR.HOP_VALID e h) (w b / 16)).wr (F.CIR.HOP_IN e h) (w b / 256)
    let d := (d.wr (F.CIR.HOP_OUT e h) (w b / 65536)).wr (F.CIR.HOP_CROSS e h) (w (b + 0x14))
    forEach (List.range 15) (fun j (d : Dev) =>
      d.wr (F.CIR.HOP_LINE e h j) (w (b + 4 + j / 4 * 4) / 2 ^ (8 * (j % 4)))) d) d

/-- Returns an entry to FREE: every word at its reset value (R120). -/
def Dev.freeEntryAt (d : Dev) (e : Nat) : Dev :=
  { d with mem := d.mem.filter (fun kv => !(decide (kv.1 / 32 / 0x100 = (0x01000000 + 0x100 * e) / 0x100))) }

/-! ## Path records (R69) -/

/-- Marks the TH loops of a path's cells with its path record, or with none. -/
def Dev.setPath (d : Dev) (cells : List Nat) (p : Option Nat) : Dev :=
  forEach cells (fun c (d : Dev) => (d.wr (F.LOOP.PATH (cellLoop c)) (p.getD 0xFFFF)).wr (F.LOOP.DITHER_ROW (cellLoop c)) 0) d

/-- Writes CIRCUIT, CELLS and the loop list of a path record when a route is committed; the correlation in progress and
pending set-points are discarded and the path starts again with group 0 (R68, R69). -/
def Dev.writePath (d : Dev) (p id : Nat) (lit : Bool) (r : List Hop) : Dev :=
  let cells := (routeCells r).map (·.1)
  let d := ((d.wr (F.PATH.CIRCUIT p) id).setFlag (F.PATH.LIT p) lit).wr (F.PATH.CELLS p) cells.length
  let d := (d.wr (F.PATH.TURN p) 0).setFlag (F.PATH.PENDING p) false
  let d := forEach (List.range 48) (fun i (d : Dev) => d.wr (F.PATH.LOOP p i) ((cells[i]?.map cellLoop).getD 0)) d
  let d := if lit then d.setPath cells (some p) else d
  { d with cir := { d.cir with outer := AMap.del d.cir.outer p } }

/-- Clears a path record when its entry becomes FREE: its counts restart at zero. -/
def Dev.clearPath (d : Dev) (p : Nat) : Dev :=
  { d with
    mem := d.mem.filter (fun kv => !(decide (kv.1 / 32 / 0x80 = (F.PATH.CIRCUIT p).addr / 0x80)))
    cir := { d.cir with outer := AMap.del d.cir.outer p } }

/-! ## Which cells are lit and held for alternates -/

/-- Recomputes LIT, CIRCUIT and ALT of every cell from the table, for the cells named. -/
def Dev.relight (d : Dev) (cells : List Nat) : Dev :=
  let lit := d.litRoutes
  let alt := d.altRoutes
  forEach cells.eraseDups (fun c (d : Dev) =>
    let e := (lit.find? (fun (er : Nat × List Hop) => (routeCells er.2).any (fun cs => cs.1 = c))).map (·.1)
    let d := d.setFlag (F.CELL.LIT c) e.isSome
    let d := d.wr (F.CELL.CIRCUIT c) ((e.map d.eId).getD 0)
    d.setFlag (F.CELL.ALT c) (alt.any (fun (er : Nat × List Hop) => (routeCells er.2).any (fun cs => cs.1 = c)))) d

/-! ## Histograms and trace -/

/-- Throttle level (R230). -/
def Dev.throttle (d : Dev) : Nat := d.rd F.THERM_STAT.LEVEL

/-- The throttle level in force since the last pick boundary (R230, levels 1, 3 and 4). -/
def Dev.throttlePick (d : Dev) : Nat := d.therm.levelPick

/-- One sample into a bin of a unit; a bin or SAMPLES that reaches its top stays there, sets OVF and raises HISTO_OVF.  At
throttle level 1 or above no unit adds samples (R390). -/
def Dev.histo (d : Dev) (u b : Nat) : Dev :=
  if d.throttlePick ≥ 1 then d
  else
    let h := AMap.get d.perf.histos u {}
    let n := min (AMap.get h.bins b 0 + 1) (2 ^ 48 - 1)
    let s := min (h.samples + 1) (2 ^ 64 - 1)
    let o := n = 2 ^ 48 - 1 || s = 2 ^ 64 - 1
    let h' := { h with bins := AMap.put h.bins b n, samples := s, ovf := h.ovf || o }
    let d := { d with perf := { d.perf with histos := AMap.put d.perf.histos u h' } }
    if o && !h.ovf then d.raise 0x2B 4 u 0 else d

/-- SHIFT in force of a unit. -/
def Dev.histoShift (d : Dev) (u : Nat) : Nat := (AMap.get d.perf.histos u {}).shift

/-- The sample of a sense header that passes its CRC (R389, units 17 to 32): ns from the boundary of this pick, the sampling one, to its last
bit, which is the command's instant (DESIGN CHOICE, assumption 90), less BASE, shifted. -/
def Dev.headerHisto (d : Dev) (t : Nat) : Dev :=
  let h := AMap.get d.perf.histos (17 + t) {}
  d.histo (17 + t) (min 31 ((d.time.tb - d.tbOf d.pick.num - h.base) / 2 ^ h.shift))

/-- The sample of a word of a converter that is VALID and of the unit's INPUT (R389, units 33 and 34). -/
def Dev.wordHisto (d : Dev) (k input : Nat) (code : Int) : Dev :=
  if (AMap.get d.perf.histos (33 + k) {}).input = input then d.histo (33 + k) ((sat16 code + 32768).toNat / 2048) else d

/-- Records of the trace ring. -/
def traceCap : Nat := 134217728

/-- Trace capture of a step (R409): the loop is traced, capture is on, the throttle is below level 4; while an export of the
ring runs the step is counted in TRACE_LOST (R410). -/
def Dev.trace (d : Dev) (l code err y corr flags mode : Nat) : Dev :=
  if !d.flag F.TRACE_CTL.EN || d.throttlePick ≥ 4 then d
  else if !(List.range 64).any (fun k => d.flag (F.TRACE_LOOP.EN k) && d.rd (F.TRACE_LOOP.LOOP k) = l) then d
  else if (d.loam.export_.map (fun (x : Export) => x.src)) = some 0 then d.bump F.TRACE_STAT.TRACE_LOST 1
  else
    let r : TraceRec := { pick := d.pick.num % 2 ^ 32, loop := l, code := code, err := err, y := y, corr := corr
                          flags := flags, mode := mode }
    let d := { d with loam := { d.loam with
      trace := keepLast traceCap (d.loam.trace ++ [r]), traceNext := (d.loam.traceNext + 1) % 2 ^ 64 } }
    if d.loam.traceNext % traceCap = 1 && 1 < d.loam.traceNext then d.raise 0x03 5 0 0 else d

end Sys2Proof.Machine
end

