-- ==== Sys2Proof/Machine/WeftFrame.lean ====
section
/-! DEFINITION. The frames of a weft link as they travel (R169 - R176, R178): blocks dealt over lanes, the boundary marker, the bytes of a
drive frame, and what a sense frame's blocks hold. -/

namespace Sys2Proof.Machine

/-! ## Blocks and lanes (R169) -/

/-- n payload blocks of 64 bits cut from bytes, the last padded with zeros. -/
def cutBlocks : Nat → List Byte → List Nat
  | 0, _ => []
  | n + 1, bs => beNat (bs.take 8 ++ zeros (8 - min 8 bs.length)) :: cutBlocks n (bs.drop 8)

/-- A frame's payload blocks. -/
def blocks64 (bs : List Byte) : List Nat := cutBlocks ((bs.length + 7) / 8) bs

/-- Deals blocks to n lanes, one a lane in turn, the lowest lane first. -/
def dealBlocks (n : Nat) (bs : List Nat) : List (List Nat) :=
  (List.range n).map (fun j => (bs.zipIdx.filter (fun (bi : Nat × Nat) => bi.2 % n = j)).map (fun (bi : Nat × Nat) => bi.1))

/-- Gathers blocks from lanes in the order in which they were dealt; the first number bounds the rounds. -/
def gatherBlocks : Nat → List (List Nat) → List Nat
  | 0, _ => []
  | n + 1, ls => ls.filterMap List.head? ++ gatherBlocks n (ls.map List.tail)

/-- The bytes of the blocks that a frame's lanes carried. -/
def laneBytes (ls : List (List Nat)) : List Byte :=
  (gatherBlocks ((ls.map List.length).foldl max 0) ls).flatMap (beBytes 8)

/-! ## The boundary marker (R170) -/

/-- The marker's 64b/66b control block: block type 0x4B, the pick number [23:0], the weft marker code 0x0F, the rest zero.  The places of
the fields are those of an ordered-set block (PRESUMED, assumption 3). -/
def markerBlock (pick : Nat) : Nat := 0x4B * 2 ^ 56 + pick % 2 ^ 24 * 2 ^ 32 + 0x0F * 2 ^ 28

/-! ## The drive frame (R173 - R175) -/

/-- The pulse descriptor of an FC entry (R175). -/
def fcWord (sw cross : Bool) (start decay : Nat) : Nat :=
  (if sw then 2 ^ 15 else 0) + (if cross then 2 ^ 14 else 0) + start % 2 ^ 11 * 8 + decay % 8

/-- The chunk entry of a code against the code the tile holds (R174). -/
def codeEntry (held code : Nat) : Entry :=
  let delta : Int := (code : Int) - held
  if decide (-128 ≤ delta) && decide (delta ≤ 127) then .short (ofS 8 delta) else .long code

/-- Map code of an entry (R174). -/
def Entry.mapCode : Option Entry → Nat
  | none => 0
  | some (.short _) => 1
  | some (.long _) => 2
  | some (.fc _ _ _ _) => 3

/-- An entry's bytes. -/
def Entry.bytes : Entry → List Byte
  | .short x => beBytes 1 x
  | .long x => beBytes 2 x
  | .fc sw x s dc => beBytes 2 (fcWord sw x s dc)

/-- The bytes of a change map, four elements a byte, element 0 first. -/
def mapBytes : List Nat → List Byte
  | a :: b :: c :: e :: r => BitVec.ofNat 8 (a * 64 + b * 16 + c * 4 + e) :: mapBytes r
  | _ => []

/-- The order of the chunks in a frame. -/
def chunkOrder : List Nat := 15 :: List.range 15

/-- A chunk: the map of its 256 elements, then an entry for each nonzero code in element order. -/
def DriveFrame.chunk (f : DriveFrame) (c : Nat) : List Byte :=
  let es := (List.range 256).map (fun e => AMap.find f.entries (f.tile * 4096 + c * 256 + e))
  mapBytes (es.map Entry.mapCode) ++ (es.filterMap (fun e => e)).flatMap Entry.bytes

/-- The 128-bit header (R173). -/
def DriveFrame.header (f : DriveFrame) : List Byte :=
  beBytes 4 ((if f.listen then 0xD6 else 0xD5) * 2 ^ 24 + 2 ^ 20 + f.tile % 16 * 2 ^ 16 + f.band % 4 * 2 ^ 14 + f.rate % 4 * 2 ^ 12 +
    (if f.claimOnly then 2 ^ 9 else 0) + f.modes.length % 64) ++
  beBytes 4 f.claim ++ beBytes 4 f.pick ++ beBytes 4 (f.snsMask % 16 * 2 ^ 16 + f.dt % 4 * 2 ^ 20)

/-- A drive frame's bytes: header, mode commands, chunks unless it is CLAIM_ONLY or LISTEN, CRC-32. -/
def DriveFrame.bytes (f : DriveFrame) : List Byte :=
  let body := f.header ++ f.modes.flatMap (beBytes 8) ++ (if f.listen || f.claimOnly then [] else chunkOrder.flatMap f.chunk)
  body ++ beBytes 4 (crc32 body)

/-- What the two drive lanes carry of a frame (R169). -/
def DriveFrame.lanes (f : DriveFrame) : List (List Nat) := dealBlocks 2 (blocks64 f.bytes)

/-- Mode commands without operands (R176). -/
def echoBurst : Nat := 0x03 * 2 ^ 56
def parkAll : Nat := 0x05 * 2 ^ 56

/-! ## The sense frame (R178, R179) -/

/-- Bytes as bits, most significant first. -/
def byteBits (bs : List Byte) : List Bool := bs.flatMap (fun b => (List.range 8).map (fun i => b.getLsbD (7 - i)))

/-- A block of n bytes with its CRC-16 at the end: its payload as a number, where it is whole and its CRC is right. -/
def checkedBlock (n : Nat) (bs : List Byte) : Option Nat :=
  if bs.length = n && crc16 (byteBits (bs.take (n - 2))) = beNat (bs.drop (n - 2)) then some (beNat (bs.take (n - 2))) else none

/-- Sample i of n samples of 14 bits packed without gaps. -/
def packed14 (v n i : Nat) : Nat := v / 2 ^ (14 * (n - 1 - i)) % 2 ^ 14

/-- The elements of a chunk's row that are due in a pick under a divider (R178). -/
def dueElems (first pick div : Nat) : List Nat :=
  (List.range 256).filter (fun e => decide (((pick : Int) - ((first + e : Nat) : Int)) % (div : Int) = 0))

/-- The samples of a block: two of each due element; all first ones before all second ones for ports, else pairwise. -/
def blockSamples (first : Nat) (es : List Nat) (ports : Bool) (v : Nat) : List (Nat × Nat × Nat) :=
  let n := es.length
  es.zipIdx.map (fun (ei : Nat × Nat) =>
    if ports then (first + ei.1, packed14 v (2 * n) ei.2, packed14 v (2 * n) (n + ei.2))
    else (first + ei.1, packed14 v (2 * n) (2 * ei.2), packed14 v (2 * n) (2 * ei.2 + 1)))

/-- The port block and the stage blocks, in their order: whether each passed, with its samples; and what follows them. -/
def senseBlocks (t pick div : Nat) : List Nat → List Byte → List (Bool × List (Nat × Nat × Nat)) × List Byte
  | [], bs => ([], bs)
  | c :: cs, bs =>
    let first := t * 4096 + c * 256
    let es := dueElems first pick div
    let n := (28 * es.length + 16) / 8
    let rest := senseBlocks t pick div cs (bs.drop n)
    ((match checkedBlock n (bs.take n) with
      | some v => (true, blockSamples first es (decide (c = 15)) v)
      | none => (false, [])) :: rest.1, rest.2)

/-- What a sense frame of tile t holds, from the blocks of its lanes: a frame whose header fails its CRC, or is no sense frame of version 1,
is lost whole (R180). -/
def parseSense (t : Nat) (ls : List (List Nat)) : SenseFrame :=
  let bs := laneBytes ls
  let head := bs.take 64
  let words := (List.range 8).map (fun i => beAt head (4 * i) 4)
  let w0 := words.headD 0
  let ok := (checkedBlock 64 head).isSome && w0 / 2 ^ 20 = 0x5E1
  let blocks := senseBlocks t (words.getD 1 0) (2 ^ (w0 / 2 ^ 10 % 4)) chunkOrder (bs.drop 64)
  let therm := if w0 / 2 ^ 18 % 2 = 1 then 256 else 0
  let codes := words.getD 7 0 / 2 ^ 16 % 2 ^ 13
  let n := 448 * (therm / 256) + 2 * codes + 2
  let tail := checkedBlock n (blocks.2.take n)
  let v := tail.getD 0
  { crcOk := ok, words := words, flags := (List.range 7).map (fun i => beAt head (32 + 4 * i) 4), blocks := blocks.1, tailOk := tail.isSome
    thermal := (List.range therm).map (fun i => packed14 (v / 2 ^ (16 * codes)) 256 i)
    echo := (List.range codes).map (fun i => v / 2 ^ (16 * (codes - 1 - i)) % 2 ^ 16) }

end Sys2Proof.Machine
end

