-- ==== Sys2Proof/Machine/Loops.lean ====
section
/-! DEFINITION. The heddle engines' step of one loop (R14, R15, R53 - R65, R79 - R90), the outer loop (R66 - R69), engine
moves (R75, R76) and writes to loop state (R19, R74). -/

namespace Sys2Proof.Machine

/-! ## A loop's surroundings -/

/-- A loop's auxiliary state. -/
def Dev.laux (d : Dev) (l : Nat) : LoopAux := AMap.get d.loop.aux l {}

/-- Changes a loop's auxiliary state. -/
def Dev.updLaux (d : Dev) (l : Nat) (f : LoopAux → LoopAux) : Dev :=
  { d with loop := { d.loop with aux := AMap.set d.loop.aux l (f (d.laux l)) {} } }

/-- Number of the coefficient set a loop reads (R70). -/
def Dev.setNo (d : Dev) (l : Nat) : Nat := d.rd (F.LOOP.CLASS l) * 4 + d.band (loopTile l)

/-- Number of the set that carries the loop's treadle parameters (R89). -/
def Dev.clsSet (d : Dev) (l : Nat) : Nat := d.rd (F.LOOP.CLASS l) * 4

/-- RATE code of the effective step rate of a loop, under the caps of the last beat boundary (R56). -/
def Dev.stepRate (d : Dev) (l : Nat) : Nat :=
  let cls := d.rd (F.LOOP.CLASS l)
  let tcap := if d.loop.litBeat.contains l then 3 else d.loop.classTcap.getD cls 3
  min (min d.pick.rate (d.loop.tileCap.getD (loopTile l) 3)) (min tcap (d.loop.classCap.getD cls 3))

/-- Step divider (R56). -/
def Dev.stepDiv (d : Dev) (l : Nat) : Nat := 2 ^ (d.pick.rate - d.stepRate l)

/-- Whether a loop steps in this pick (R56). -/
def Dev.stepDue (d : Dev) (l : Nat) : Bool := ((d.pick.num : Int) - l) % (d.stepDiv l) = 0

/-- The coefficients that a loop's step uses (R57). -/
def Dev.coefNow (d : Dev) (l : Nat) : Coef :=
  let n := d.setNo l
  mkCoef (d.rdS (F.COEF.KP n)) (d.rd (F.COEF.KI n)) (d.rdS (F.COEF.KD n)) (d.rd (F.COEF.KF n)) (d.rd (F.COEF.KAW n))
    ((d.rd (F.COEF.DESIGN_RATE n) : Int) - d.stepRate l)

/-- A set whose gains are all zero (R70). -/
def Coef.allZero (k : Coef) : Bool := k.kp = 0 && k.ki = 0 && k.kd = 0 && k.kf = 0 && k.kaw = 0

/-- The tracker a loop names. -/
def Dev.trkOf (d : Dev) (l : Nat) : Nat := d.rd (F.LOOP.TREADLE_SEL l)

/-- A tracker's state beside its registers. -/
def Dev.trk (d : Dev) (n : Nat) : Trk := AMap.get d.trd.trk n {}

/-- Changes a tracker's state. -/
def Dev.updTrk (d : Dev) (n : Nat) (f : Trk → Trk) : Dev :=
  { d with trd := { d.trd with trk := AMap.set d.trd.trk n (f (d.trk n)) {} } }

/-- The bin value delivered to a step (R80): the stored bin of PHASE[k+1] clamped to C_LIMIT while LOCKED or COAST. -/
def Dev.binNow (d : Dev) (l : Nat) : Int :=
  let n := d.trkOf l
  let st := d.rd (F.TRK_STAT.STATE n)
  if st = 2 ∨ st = 3 then
    let lim : Int := d.rd (F.COEF.C_LIMIT (d.clsSet l))
    clampI (-lim) lim (toS 16 (AMap.get d.trd.bins (l * 256 + (d.trk n).next / 2 ^ 24) 0))
  else 0

/-- The correction of a step, Q1.15 (R61, R79). -/
def Dev.corrNow (d : Dev) (l : Nat) : Int := if d.flag (F.LOOP.TREADLE_EN l) then d.binNow l else 0

/-- The engine whose slot holds a loop (R75). -/
def Dev.engineOf (d : Dev) (l : Nat) : Nat :=
  match d.loop.slots.find? (fun (s : Nat × Option Nat) => s.2 = some l) with
  | some s => s.1 / 1024
  | none => l / 1024

/-- The heddle block of a loop's engine. -/
def Dev.heddle (d : Dev) (l : Nat) : Nat := 5 + d.engineOf l / 16

/-- A sample of a loop: MB or MX (TH), input or output monitor (VOA), with its pick. -/
def Dev.sample (d : Dev) (l which : Nat) : Option (Nat × Nat) := AMap.find (d.link (loopTile l)).samples (l * 2 + which)

/-- A sample taken in this pick. -/
def Dev.sampleNow (d : Dev) (l which : Nat) : Option Nat :=
  match d.sample l which with
  | some (v, k) => if k = d.pick.num then some v else none
  | none => none

/-- The newest sample, when at most 7 picks old. -/
def Dev.sampleRecent (d : Dev) (l which : Nat) : Option Nat :=
  match d.sample l which with
  | some (v, k) => if d.pick.num ≤ k + 7 then some v else none
  | none => none

/-- The signed state that a step reads. -/
def Dev.loopSt (d : Dev) (l : Nat) : LoopSt :=
  { integ := d.rdS (F.LOOP.INTEG l), dstate := d.rdS (F.LOOP.DSTATE l), aw := d.rdS (F.LOOP.AW_RESID l)
    yPrev := d.rdS (F.LOOP.Y_PREV l) }

/-! ## What a read returns (R19) -/

/-- Keeps a loop's state and table as the last pick boundary left them, before the first change of the pick. -/
def Dev.keepLoop (d : Dev) (l : Nat) : Dev :=
  if (AMap.find d.loop.before l).isSome then d
  else
    let lo := (0x02000000 + 0x80 * l) * 32
    let st := d.mem.filter (fun (kv : Nat × Nat) => decide (lo ≤ kv.1) && decide (kv.1 < lo + 0x80 * 32))
    let tb := d.trd.bins.filter (fun (kv : Nat × Nat) => decide (kv.1 / 256 = l))
    { d with
      loop := { d.loop with before := AMap.put d.loop.before l st }
      trd := { d.trd with before := AMap.put d.trd.before l tb } }

/-- A field of a loop at the last pick boundary. -/
def Dev.loopRd (d : Dev) (l : Nat) (f : Fld) : Nat :=
  match AMap.find d.loop.before l with
  | some m => AMap.get m f.key f.rst
  | none => d.rd f

/-- A bin of a loop's table at the last pick boundary. -/
def Dev.binRd (d : Dev) (l b : Nat) : Nat :=
  match AMap.find d.trd.before l with
  | some m => AMap.get m (l * 256 + b) 0
  | none => AMap.get d.trd.bins (l * 256 + b) 0

/-- The boundary has come: reads return the state as it now stands. -/
def Dev.readsFresh (d : Dev) : Dev :=
  { d with loop := { d.loop with before := [] }, trd := { d.trd with before := [] } }

/-! ## Learning (R86, R87) -/

/-- Writes a bin of a table and marks the table for the mirror. -/
def Dev.putBin (d : Dev) (l b : Nat) (v : Int) : Dev :=
  { d with trd := { d.trd with
      bins := AMap.set d.trd.bins (l * 256 + b) (ofS 16 v) 0
      dirty := if d.trd.dirty.contains l then d.trd.dirty else d.trd.dirty ++ [l]
      dirtyClear := d.trd.dirtyClear.filter (· ≠ l) } }

/-- Closes the open bin (R86). -/
def Dev.closeBin (d : Dev) (l : Nat) : Dev :=
  let n := d.clsSet l
  let accN := d.rd (F.LOOP.ACC_N l)
  if accN = 0 then
    if d.rd (F.COEF.LGAIN n) = 0 then d else ((d.bump (F.LOOP.SKIPPED l) 1).count 0x08)
  else
    let ebar := sat16 (divRound (d.rdS (F.LOOP.ACC l)) accN)
    let q := qFilter (d.flag (F.COEF.Q_BYPASS n)) (d.rd (F.COEF.QF n)) (d.rdS (F.LOOP.QSTATE l)) ebar
    let d := d.wr (F.LOOP.QSTATE l) (ofS 16 q)
    if d.rd (F.COEF.LGAIN n) = 0 then d
    else
      let t := (d.rd (F.LOOP.CUR_BIN l) + 256 - d.rd (F.COEF.LEAD n)) % 256
      let w := learnBin (toS 16 (AMap.get d.trd.bins (l * 256 + t) 0)) (d.rd (F.COEF.FORGET n)) (d.rd (F.COEF.LGAIN n)) q
        (d.rd (F.COEF.C_LIMIT n))
      ((d.putBin l t w).bumpWrap (F.LOOP.BIN_WRITES l) 1).count 0x07

/-- The bin work of a step (R80, R86): nothing while the tracker is OFF; else closes the bin the phase has left, opens the
new one and adds an eligible error. -/
def Dev.learn (d : Dev) (l : Nat) (eligible : Bool) (e : Int) : Dev :=
  let n := d.trkOf l
  let d := d.setFlag (F.LOOP.LEARNED l) eligible
  if d.rd (F.TRK_STAT.STATE n) = 0 then d
  else
    let b := d.rd (F.TRK_PHASE.PHASE n) / 2 ^ 24
    let d :=
      if b = d.rd (F.LOOP.CUR_BIN l) then d
      else (((d.closeBin l).wr (F.LOOP.CUR_BIN l) b).wr (F.LOOP.ACC l) 0).wr (F.LOOP.ACC_N l) 0
    if eligible then
      (d.wr (F.LOOP.ACC l) (ofS 32 (d.rdS (F.LOOP.ACC l) + e))).bump (F.LOOP.ACC_N l) 1
    else d

/-- The conditions of R87 that do not depend on the step: the tracker LOCKED, the class learning, the tile ACTIVE. -/
def Dev.mayLearn (d : Dev) (l : Nat) : Bool :=
  d.rd (F.TRK_STAT.STATE (d.trkOf l)) = 2 && d.flag (F.LOOP.TREADLE_EN l) &&
  !d.flag (F.COEF.LEARN_FREEZE (d.clsSet l)) && d.tileMode (loopTile l) = Tm.active

/-! ## The steps -/

/-- Marks a loop as stepped in this pick, on its engine. -/
def Dev.markStep (d : Dev) (l : Nat) : Dev :=
  let e := d.engineOf l
  let d := d.updLaux l (fun a => { a with stepped := some d.pick.num })
  { d with loop := { d.loop with engPick := AMap.put d.loop.engPick e (AMap.get d.loop.engPick e 0 + 1) } }

/-- The cell mode that a trace record carries: 0 for a VOA loop. -/
def Dev.traceMode (d : Dev) (l : Nat) : Nat := if isVoa l then 0 else d.cellMode (loopCell l)

/-- A held step (R15, R60, R185): the drive code and the loop state keep their values; MISS_CNT counts it.  SAT, LOS and RATIO_LOW keep
their values on a step held for lost samples, SAT also on a ratio-invalid and on a tracking step (DESIGN CHOICE, assumption 40: R73 gives
them for a step that computes). -/
def Dev.heldStep (d : Dev) (l : Nat) (counts : Bool) : Dev :=
  let d := if counts then d.bump (F.LOOP.MISS_CNT l) 1 else d
  let d := (d.count 0x05).setFlag (F.LOOP.APPLIED l) false
  let d := d.learn l false 0
  d.trace l (d.rd (F.LOOP.CODE l)) (d.rd (F.LOOP.ERR l)) (d.rd (F.LOOP.Y_PREV l)) (d.rd (F.LOOP.C_LAST l)) 2 (d.traceMode l)

/-- Raises a cell's fault for the next boundary and notes its cause as standing (R101). -/
def Dev.faultCell (d : Dev) (c cause : Nat) : Dev :=
  let d := d.updAux c (fun a => { a with causes := if a.causes.contains cause then a.causes else a.causes ++ [cause] })
  d.trigger c 1 (.fault cause)

/-- Runs of RATIO_LOW (cause 2 of R101). -/
def Dev.lowRun (d : Dev) (l : Nat) (low : Bool) : Dev :=
  let c := loopCell l
  let m := d.cellMode c
  if m = Cm.hold ∨ m = Cm.settle ∨ m = Cm.piece then
    let run := if low then (d.laux l).lowRun + 1 else 0
    let d := d.updLaux l (fun a => { a with lowRun := run })
    if low && max 1 (d.rd F.CELL_CFG.FAULT_MISS) ≤ run then d.faultCell c 2 else d
  else d.updLaux l (fun a => { a with lowRun := 0 })

/-- The back-calculation that a step owes: the drive code to start from (R62); none in a full step. -/
def Dev.backDue (d : Dev) (l : Nat) : Option Nat :=
  let a := d.laux l
  if a.enSeen then a.back else some (a.back.getD (d.rd (F.LOOP.CODE l)))

/-- A step that computes an output on measurement y and error e: back-calculation when due (R62), the bumpless step after a
change of coefficients (R71), else the full step (R61).  Answers the state and whether the output was clamped. -/
def Dev.outStep (d : Dev) (l : Nat) (y e : Int) : Dev × Bool :=
  let a := d.laux l
  let k := d.coefNow l
  let n := d.trkOf l
  let bin := d.corrNow l
  let c := bin * 32768
  let uMin := d.rdS (F.LOOP.U_MIN l)
  let uMax := d.rdS (F.LOOP.U_MAX l)
  let st := d.loopSt l
  let back := d.backDue l
  let folds := a.fold || decide (a.epoch ≠ (d.trk n).epoch)
  let fo := if folds then foldCorrection st.integ (d.rdS (F.LOOP.C_LAST l)) c else (st.integ, false)
  let st := { st with integ := fo.1 }
  let o : StepOut := match back with
    | some code => backCalc k y e c code uMin uMax
    | none => match a.coef with
      | some old => if old = k then fullStep k st y e c uMin uMax else bumplessStep old k st y e c uMin uMax
      | none => fullStep k st y e c uMin uMax
  let changed := decide (a.coef ≠ some k)
  let sat := o.sat || (back.isNone && fo.2)
  let d := ((d.wr (F.LOOP.INTEG l) (ofS 32 o.st.integ)).wr (F.LOOP.DSTATE l) (ofS 32 o.st.dstate)).wr (F.LOOP.AW_RESID l) (ofS 32 o.st.aw)
  let d := ((d.wr (F.LOOP.Y_PREV l) (ofS 16 o.st.yPrev)).wr (F.LOOP.ERR l) (ofS 16 o.err))
  let d := d.wr (F.LOOP.ERR_MIN l) (ofS 16 (min (d.rdS (F.LOOP.ERR_MIN l)) o.err))
  let d := d.wr (F.LOOP.ERR_MAX l) (ofS 16 (max (d.rdS (F.LOOP.ERR_MAX l)) o.err))
  let d := ((d.setFlag (F.LOOP.SAT l) sat).setFlag (F.LOOP.RATIO_LOW l) false).setFlag (F.LOOP.LOS l) false
  let d := (d.wr (F.LOOP.C_LAST l) (ofS 16 bin)).setFlag (F.LOOP.APPLIED l) (decide (bin ≠ 0))
  let d := if !isVoa l then d.riseSpend (loopTile l) (d.riseOf (loopCell l) o.code) else d
  let d := if d.rd (F.LOOP.CODE l) = o.code then d else d.sendCode l o.code
  let d := d.wr (F.LOOP.CODE l) o.code
  let d := d.updLaux l (fun a => { a with coef := some k, back := none, fold := false, epoch := (d.trk n).epoch, enSeen := true })
  let d := if back.isSome && sat then d.raise (d.heddle l) 3 (if isVoa l then l else cellEpa (loopCell l) 0) 0 else d
  let d := if changed && k.allZero then d.raise (d.heddle l) 6 l 0 else d
  let d := if changed && a.coef.isSome && back.isNone then d.raise (d.heddle l) 7 l (d.setNo l) else d
  let d := if sat then d.count 0x06 else d
  let cls := d.rd (F.LOOP.CLASS l)
  let d := d.histo cls (min 31 (o.err.natAbs / 2 ^ d.histoShift cls))
  (d.count 0x03, sat)

/-- The dither of a loop in this pick (R66); 1 LSB on the join cells of a piece (R141). -/
def Dev.ditherNow (d : Dev) (l : Nat) : Int :=
  let r := d.rd (F.LOOP.DITHER_ROW l)
  let amp := if d.cellMode (loopCell l) = Cm.piece then 1 else d.rd (F.COEF.DITHER_AMP (d.setNo l))
  if r = 0 then 0 else (amp : Int) * walshSign r (d.pick.num % d.beatLen)

/-- The error of a TH loop (R61). -/
def Dev.thError (d : Dev) (l : Nat) (y : Int) : Int :=
  let spe := sat16 (d.rdS (F.LOOP.SP l) + d.ditherNow l)
  if d.flag (F.LOOP.GAIN_NEG l) then sat16 (y - spe) else sat16 (spe - y)

/-- Runs of SAT over beats (cause 3 of R101): counted in HOLD and PIECE. -/
def Dev.satRun (d : Dev) (l : Nat) (sat : Bool) : Dev :=
  let m := d.cellMode (loopCell l)
  if m = Cm.hold ∨ m = Cm.piece then
    d.updLaux l (fun a => { a with satSeen := a.satSeen + 1, satAll := (a.satSeen = 0 || a.satAll) && sat })
  else d.updLaux l (fun a => { a with satSeen := 0, satAll := true, satBeats := 0 })

/-- A step without a ratio meets no arrival criterion: R105 asks for the ratio in the last step. -/
def Dev.farStep (d : Dev) (c : Nat) : Dev := if (d.caux c).near then d.updAux c (fun a => { a with near := false }) else d

/-- The step of a TH loop (R60 - R63). -/
def Dev.thStep (d : Dev) (l : Nat) : Dev :=
  let c := loopCell l
  let m := d.cellMode c
  let d := d.markStep l
  match d.sampleNow l 0, d.sampleNow l 1 with
  | some mb, some mx =>
    if ratioInvalid mb mx (d.rd (F.COEF.RATIO_FLOOR (d.setNo l))) then
      (((d.setFlag (F.LOOP.RATIO_LOW l) true).lowRun l true).farStep c).heldStep l true
    else
      let y := ratio mb mx
      let near := decide ((y - d.rdS (F.LOOP.SP l)).natAbs ≤ d.rd F.CELL_CFG.ARRIVE_TOL)
      if m = Cm.switch then
        let d := (d.wr (F.LOOP.Y_PREV l) (ofS 16 y)).setFlag (F.LOOP.RATIO_LOW l) false
        let d := ((d.updAux c (fun a => { a with near := near })).lowRun l false).satRun l false
        let d := (d.setFlag (F.LOOP.APPLIED l) false).count 0x03
        let d := d.learn l false 0
        d.trace l (d.rd (F.LOOP.CODE l)) (d.rd (F.LOOP.ERR l)) (ofS 16 y) (d.rd (F.LOOP.C_LAST l)) 0 m
      else
        let e := d.thError l y
        let full := (d.backDue l).isNone
        let r := d.outStep l y e
        let d := r.1.lowRun l false
        let first := m = Cm.settle && (d.caux c).steps = 0
        let d := if first && r.2 then (d.bump F.MODE_STAT.HOSAT_CNT 1) else d
        let d := d.updAux c (fun a => { a with steps := a.steps + 1 })
        let d := if full then d.satRun l r.2 else d
        let ok := full && m = Cm.hold && !r.2 && d.mayLearn l
        let d := d.learn l ok e
        d.trace l (d.rd (F.LOOP.CODE l)) (d.rd (F.LOOP.ERR l)) (ofS 16 y) (d.rd (F.LOOP.C_LAST l))
          ((if r.2 then 1 else 0) + (if ok then 8 else 0)) m
  | _, _ => (d.farStep c).heldStep l true

/-- Sets a VOA's code without a step (R64). -/
def Dev.voaFixed (d : Dev) (l code : Nat) : Dev :=
  let d := d.updLaux l (fun a => { a with enSeen := false })
  if d.rd (F.LOOP.CODE l) = code then d else (d.sendCode l code).wr (F.LOOP.CODE l) code

/-- The code of a VOA that is not stepping: 0x0000 on a dark port or a last tile with EN = 0, fully open elsewhere; none where
the loop steps (R64). -/
def Dev.voaStatic (d : Dev) (l : Nat) : Option Nat :=
  match d.portUse (loopTile l) (l % 256) with
  | none => some 0
  | some (_, false) => some (ofS 16 (d.rdS (F.LOOP.U_MAX l) + 0x8000))
  | some (_, true) => if d.flag (F.LOOP.EN l) then none else some 0

/-- Measured power of a port in Q8.8 dBm (R64). -/
def Dev.voaPower (d : Dev) (l sample : Nat) : Int := sat16 (d.rdS (F.LOOP.MON_OFFSET l) + log10Q88 sample)

/-- Consecutive steps of the loss trip (R146): P < SP - TRIP_DB with LOS = 0. -/
def Dev.tripRun (d : Dev) (l : Nat) (p : Int) : Dev :=
  let db := d.rd F.CIRC_CFG.TRIP_DB
  let low := db ≠ 0 && decide ((db : Int) * 256 < 10 * (d.rdS (F.LOOP.SP l) - p))
  let run := if low then AMap.get d.cir.trips l 0 + 1 else 0
  { d with cir := { d.cir with trips := AMap.set d.cir.trips l run 0 } }

/-- The step of a VOA loop (R64, R65). -/
def Dev.voaStep (d : Dev) (l : Nat) : Dev :=
  match d.voaUse l with
  | none => d.voaFixed l 0
  | some u =>
    if !u.last then d.voaFixed l (ofS 16 (d.rdS (F.LOOP.U_MAX l) + 0x8000))
    else if !d.flag (F.LOOP.EN l) then d.voaFixed l 0
    else
      let d := d.markStep l
      match d.sampleNow l 1, d.sampleRecent u.inLoop 0 with
      | some out, some inp =>
        if inp < d.rd (F.COEF.LOS_FLOOR (d.setNo l)) ∨ out = 0 then
          let was := d.flag (F.LOOP.LOS l)
          let d := d.setFlag (F.LOOP.LOS l) true
          let d := d.updLaux l (fun a => { a with back := some (d.rd (F.LOOP.CODE l)) })
          let d := { d with cir := { d.cir with trips := AMap.del d.cir.trips l } }
          let d := if was then d else d.raise (d.heddle l) 2 u.id u.csn
          d.heldStep l false
        else
          let p := d.voaPower l out
          let y := sat16 (p * 4)
          let err := sat16 ((d.rdS (F.LOOP.SP l) - p) * 4)
          let full := (d.backDue l).isNone
          let r := d.outStep l y err
          let d := r.1.tripRun l p
          let ok := full && !r.2 && d.mayLearn l
          let d := d.learn l ok err
          d.trace l (d.rd (F.LOOP.CODE l)) (d.rd (F.LOOP.ERR l)) (ofS 16 y) (d.rd (F.LOOP.C_LAST l))
            ((if r.2 then 1 else 0) + (if ok then 8 else 0)) 0
      | _, _ => d.heldStep l true

/-- The chunk of a loop (R174): 256 loops of one stage; 15 for the VOA loops. -/
def loopChunk (l : Nat) : Nat := l % 4096 / 256

/-- A step that reaches its engine after its chunk has closed is late: discarded, with no effect on the loop (R14, R177). -/
def Dev.stepOpen (d : Dev) (l : Nat) : Bool := !(d.link (loopTile l)).closed.contains (loopChunk l)

/-! ## The frame that the codes go into (R171, R177) -/

/-- A loop that a frame leaves out is counted (R177). -/
def Dev.omitted (d : Dev) (l : Nat) : Dev := (d.bump (F.WEFT_SLACK.OMITTED (loopTile l)) 1).countQ 0x35 (loopTile l)

/-- The frame deadline of the pick, in ps of TB (R171): the boundary less FLIGHT_PS and APPLY_GUARD. -/
def Dev.frameDeadline (d : Dev) (t : Nat) : Nat := d.tbOf (d.pick.num + 1) * 1000 - d.rd (F.WEFT_FLIGHT.FLIGHT_PS t) - 100000

/-- The FC entries that the next frame carries in a chunk, fixed at their commit points (R177). -/
def Dev.fcCount (d : Dev) (t c : Nat) : Nat :=
  let acts := (d.cir.due.filter (fun (u : Due) => decide (u.at_ ≤ d.pick.num + 1))).flatMap (fun (u : Due) => u.acts) ++ d.cell.pend
  ((acts.filter (fun (a : CellTrig) => cellTile a.cell = t && cellStage a.cell = c && (match a.act with
    | .commit _ | .settled | .adopt _ _ => true
    | _ => false))).map (fun (a : CellTrig) => a.cell)).eraseDups.length

/-- The bits that a chunk counts in reckoning cutoffs (R177): its map, 8 bits for each due loop, 16 for each FC entry. -/
def Dev.chunkBits (d : Dev) (t c : Nat) : Nat :=
  512 + 8 * ((List.range 256).filter (fun e => d.stepDue (t * 4096 + c * 256 + e))).length + 16 * d.fcCount t c

/-- The bits of a chunk and of every later one, with the CRC. -/
def Dev.bitsFrom (d : Dev) (t c : Nat) : Nat :=
  (((chunkOrder.dropWhile (fun x => decide (x ≠ c))).map (d.chunkBits t)).sum) + 32

/-- The cutoff of a chunk, TB in ns (R177): the deadline less what it and the later ones take at 31 Gbit/s, rounded down. -/
def Dev.cutoff (d : Dev) (t c : Nat) : Nat := (d.frameDeadline t * 31 - d.bitsFrom t c * 1000) / 31000

/-- Whether the entry of a code handed over now leaves the projected end of the frame at or before the frame deadline (R177): a SHORT
entry is in the reckoning of the cutoff; a LONG one adds to it.  The first test holds for any content of the frame. -/
def Dev.entryFits (d : Dev) (l code : Nat) : Bool :=
  let t := loopTile l
  let k := d.link t
  let long := fun (lc : Nat × Nat) => match codeEntry (AMap.get k.ref lc.1 0) lc.2 with
    | .long _ => true
    | _ => false
  let ends := fun (n : Nat) => decide (d.time.tb * 31000 + n * 1000 ≤ d.frameDeadline t * 31)
  !long (l, code) || ends (16 * (512 + 256 * 16) + 32) ||
    ends (d.bitsFrom t (loopChunk l) + 8 * ((k.codes.filter (fun (lc : Nat × Nat) => loopChunk lc.1 = loopChunk l && lc.1 ≠ l && long lc)).length + 1))

/-- The step of a due loop (R56, R63).  A unit that does not control the fabric steps no loop; nor does a loop of an
ABSENT tile or of a tile that is not ACTIVE; a loop steps at most once in a pick. -/
def Dev.stepLoop (d : Dev) (l : Nat) : Dev :=
  let t := loopTile l
  if 65536 ≤ l || !d.controls || d.tileRole t = 0 || d.tileMode t ≠ Tm.active || !d.stepOpen l ||
     (d.laux l).stepped = some d.pick.num || !d.stepDue l then d
  else if isVoa l then (d.keepLoop l).voaStep l
  else
    let m := d.cellMode (loopCell l)
    if d.flag (F.LOOP.EN l) && (m = Cm.hold || m = Cm.switch || m = Cm.settle || m = Cm.piece) then (d.keepLoop l).thStep l else d

/-- A late step (R14): counted, the loop keeps its values; Silt raises the pick overrun with a re-plan (R242). -/
def Dev.lateStep (d : Dev) (l slack : Nat) : Dev :=
  let e := d.engineOf l
  let d := d.keepLoop l
  let d := (d.bump (F.LOOP.OVERRUN_CNT l) 1).bump (F.ENG_OVERRUN.COUNT (e / 16) (e % 16)) 1
  let d := (d.count 0x04).raise 0x21 0 e slack
  let d := { d with silt := { d.silt with due := true } }
  d.trace l (d.rd (F.LOOP.CODE l)) (d.rd (F.LOOP.ERR l)) (d.rd (F.LOOP.Y_PREV l)) (d.rd (F.LOOP.C_LAST l)) 4 (d.traceMode l)

/-- LOOP_STEP (R61): the step, unless its entry does not fit the frame any more: then the step is late (R14, R177). -/
def Dev.loopStep (d : Dev) (l : Nat) : Dev :=
  let e := d.stepLoop l
  let new := AMap.find (e.link (loopTile l)).codes l
  if new = AMap.find (d.link (loopTile l)).codes l || new.all (d.entryFits l) then e
  else ((d.omitted l).lateStep l 0).updLaux l (fun a => { a with stepped := some d.pick.num })

/-- Beat work of R101 cause 3: a beat with counted steps adds to the run or breaks it. -/
def Dev.satBeat (d : Dev) : Dev :=
  forEach d.loop.aux (fun (la : Nat × LoopAux) (d : Dev) =>
    if la.2.satSeen = 0 || isVoa la.1 then d
    else
      let run := if la.2.satAll then la.2.satBeats + 1 else 0
      let d := d.updLaux la.1 (fun a => { a with satBeats := run, satSeen := 0, satAll := true })
      if max 1 (d.rd F.CELL_CFG.FAULT_SAT) ≤ run then d.faultCell (loopCell la.1) 3 else d) d

/-! ## The outer loop (R66 - R68) -/

/-- A path's outer-loop state. -/
def Dev.outer (d : Dev) (p : Nat) : OuterS := AMap.get d.cir.outer p {}

/-- Changes it. -/
def Dev.updOuter (d : Dev) (p : Nat) (f : OuterS → OuterS) : Dev :=
  { d with cir := { d.cir with outer := AMap.set d.cir.outer p (f (d.outer p)) {} } }

/-- Cells of a path record in path order. -/
def Dev.pathCells (d : Dev) (p : Nat) : List Nat :=
  (List.range (d.rd (F.PATH.CELLS p))).map (fun i => loopCell (d.rd (F.PATH.LOOP p i)))

/-- The suspensions of R68. -/
def Dev.outerStops (d : Dev) (p : Nat) : Bool :=
  let cells := d.pathCells p
  !d.flag (F.PATH.LIT p) || d.cir.pieces.any (fun (x : Piece) => x.entry = p) ||
  cells.any (fun c => d.cellMode c ≠ Cm.hold || d.tileMode (cellTile c) ≠ Tm.active)

/-- A cell that takes part in the outer loop (R68). -/
def Dev.outerCell (d : Dev) (c : Nat) : Bool :=
  d.flag (F.LOOP.OUTER_EN (cellLoop c)) && d.rd (F.COEF.DITHER_AMP (d.setNo (cellLoop c))) ≠ 0

/-- Dither groups of a path: CELLS ÷ (N − 1) rounded up (R69). -/
def Dev.pathGroups (d : Dev) (p : Nat) : Nat := (d.rd (F.PATH.CELLS p) + d.beatLen - 2) / (d.beatLen - 1)

/-- The cells of a group that take part, each with its Walsh row and its DITHER_LAG (R66, R67). -/
def Dev.groupCells (d : Dev) (p g : Nat) : List (Nat × Nat × Nat) :=
  let n := d.beatLen - 1
  ((((d.pathCells p).drop (g * n)).take n).zipIdx.filter (fun (ci : Nat × Nat) => d.outerCell ci.1)).map
    (fun (ci : Nat × Nat) => (ci.1, ci.2 + 1, d.rd (F.COEF.DITHER_LAG (d.setNo (cellLoop ci.1)))))

/-- Ends dithering on a path. -/
def Dev.ditherOff (d : Dev) (p : Nat) : Dev := forEach (d.pathCells p) (fun c (d : Dev) => d.wr (F.LOOP.DITHER_ROW (cellLoop c)) 0) d

/-- Suspends a path: the correlations and the set-points that wait are discarded (R68). -/
def Dev.outerSuspend (d : Dev) (p : Nat) : Dev :=
  let d := d.ditherOff p
  let d := (d.setFlag (F.PATH.SUSPENDED p) true).setFlag (F.PATH.PENDING p) false
  d.updOuter p (fun _ => {})

/-- The metric jq of a kept pick for one cell's weight, over a group of leaks (R67). -/
def outerMetric (xt pout : Nat) (leaks : List Nat) : Int :=
  sat16 ((pout : Int) * 2 - align15 ((xt : Int) * ((leaks.sum * 2 : Nat) : Int)) 31)

/-- What jq needs of a kept pick for a job's group: none where an endpoint had delivered no sample (R67). -/
def OuterJob_at (j : OuterJob) (r : OuterPick) : Option (Nat × List Nat) :=
  match r.pout, ((r.leaks.drop (j.group * (j.n - 1))).take (j.n - 1)).mapM id with
  | some po, some ls => some (po, ls)
  | _, _ => none

/-- Keeps the samples of the pick that ends for a running path (R67); J_LAST takes the metric of that pick, by the XT_WEIGHT of the last
cell whose correlation uses it (DESIGN CHOICE, assumption 41: each cell has a weight of its own). -/
def Dev.outerSample (d : Dev) (p : Nat) : Dev :=
  let k := d.pick.num
  let cells := d.pathCells p
  let pout := (Img.outPort d.draft.active (d.rd (F.CIR.OUT_PORT p))).bind (fun tp => d.sampleRecent (voaLoop tp.1 tp.2) 1)
  let leaks := cells.map (fun c => d.sampleRecent (cellLoop c) (if (d.caux c).cross then 0 else 1))
  let r : OuterPick := { pick := k, pout := pout, leaks := leaks }
  let d := d.updOuter p (fun o => { o with hist := keepLast (4 * 64) (o.hist ++ [r]) })
  forEach (d.outer p).jobs (fun (j : OuterJob) (d : Dev) =>
    let use := j.cells.filter (fun (c : Nat × Nat × Nat) => decide (j.first + c.2.2 ≤ k ∧ k < j.first + c.2.2 + j.n))
    match use.getLast?, OuterJob_at j r with
    | some c, some pl => d.wr (F.PATH.J_LAST p) (ofS 16 (outerMetric (d.rd (F.COEF.XT_WEIGHT (d.setNo (cellLoop c.1)))) pl.1 pl.2))
    | _, _ => d) d

/-- The metric inputs of a job's picks from `first` on: none when one of them misses a sample. -/
def Dev.outerWindow (d : Dev) (p : Nat) (j : OuterJob) (first n : Nat) : Option (List (Nat × List Nat)) :=
  (List.range n).mapM (fun q => ((d.outer p).hist.find? (fun (r : OuterPick) => r.pick = first + q)).bind (OuterJob_at j))

/-- The boundary at which a cell's set-point is written (R67): the end of the beat after the one in which the sample of its last pick is
stepped. -/
def Dev.cellDue (d : Dev) (j : OuterJob) (c : Nat × Nat × Nat) : Nat := ((j.first + j.n - 1 + c.2.2) / d.beatLen + 2) * d.beatLen

/-- Writes the set-point of one cell whose correlation is complete (R67). -/
def Dev.outerWrite (d : Dev) (p : Nat) (j : OuterJob) (c : Nat × Nat × Nat) : Dev :=
  let l := cellLoop c.1
  match d.outerWindow p j (j.first + c.2.2) j.n with
  | none => d
  | some win =>
    if !d.outerCell c.1 then d
    else
      let s := d.setNo l
      let xt := d.rd (F.COEF.XT_WEIGHT s)
      let js := win.map (fun (pl : Nat × List Nat) => outerMetric xt pl.1 pl.2)
      let gc : Int := (js.zipIdx.map (fun (jq : Int × Nat) => jq.1 * walshSign c.2.1 jq.2)).sum
      let raw := rsh (d.rdS (F.COEF.OUTER_GAIN s) * gc) (12 + Nat.log2 j.n)
      let m : Int := d.rd (F.COEF.OUTER_STEP_MAX s)
      let dc := clampI (-m) m raw
      let sp := d.rdS (F.LOOP.SP l)
      let nom := d.rdS (F.LOOP.SP_NOM l)
      let rng : Int := d.rd (F.LOOP.SP_RANGE l)
      let s1 := sat16 (sp + dc)
      let s2 := sat16 (clampI (nom - rng) (nom + rng) s1)
      let acted := decide (dc ≠ raw) || decide (s1 ≠ sp + dc) || decide (s2 ≠ s1)
      let d := d.wr (F.LOOP.SP l) (ofS 16 s2)
      if acted then (d.bump (F.PATH.CLAMP_CNT p) 1).raise (d.heddle l) 8 (d.eId p) (d.rd (F.CIR.CSN p)) else d

/-- What a job has come to at beat boundary k: discarded when a sample that its group needs is missing; else the set-points due are
written and the rest waits; UPDATES counts it when the last is written, a group without cells to write at its own boundary (DESIGN CHOICE,
assumption 41). -/
def Dev.outerJob (d : Dev) (p : Nat) (j : OuterJob) : Dev × Option OuterJob :=
  let k := d.pick.num
  let lags := j.cells.map (fun (c : Nat × Nat × Nat) => c.2.2)
  let lo := lags.foldl min (lags.headD 0)
  let hi := lags.foldl max 0
  let seen := min k (j.first + j.n + hi)
  if !j.cells.isEmpty && (d.outerWindow p j (j.first + lo) (seen - (j.first + lo))).isNone then (d, none)
  else if j.cells.isEmpty then
    if d.cellDue j (0, 0, 0) ≤ k then (d.bumpWrap (F.PATH.UPDATES p) 1, none) else (d, some j)
  else
    let due := j.cells.filter (fun c => decide (d.cellDue j c ≤ k))
    let rest := j.cells.filter (fun c => !decide (d.cellDue j c ≤ k))
    let d := forEach due (fun c (d : Dev) => d.outerWrite p j c) d
    if rest.isEmpty then (d.bumpWrap (F.PATH.UPDATES p) 1, none) else (d, some { j with cells := rest })

/-- Starts the dither of a group in the beat that begins (R66). -/
def Dev.outerTurn (d : Dev) (p g : Nat) : Dev :=
  let d := (d.ditherOff p).wr (F.PATH.TURN p) g
  let d := d.wr (F.PATH.BEAT_START p) d.pick.num
  let cs := d.groupCells p g
  let d := forEach cs (fun (c : Nat × Nat × Nat) (d : Dev) => d.wr (F.LOOP.DITHER_ROW (cellLoop c.1)) c.2.1) d
  d.updOuter p (fun o => { o with running := true, jobs := o.jobs ++ [{ group := g, first := d.pick.num, n := d.beatLen, cells := cs }] })

/-- PENDING (R69): a cell's correlation is complete and its set-point waits. -/
def Dev.outerPending (d : Dev) (p : Nat) : Dev :=
  d.setFlag (F.PATH.PENDING p) ((d.outer p).jobs.any (fun (j : OuterJob) =>
    j.cells.any (fun c => decide (j.first + j.n + c.2.2 ≤ d.pick.num))))

/-- The outer loop of one path at a pick boundary; the boundary's pick number is already in force.  A change of the beat length changes
the groups of the turns that follow, not the correlations begun. -/
def Dev.outerBoundary (d : Dev) (p : Nat) : Dev :=
  if d.outerStops p then
    if d.flag (F.PATH.SUSPENDED p) && !(d.outer p).running then d else d.outerSuspend p
  else if d.pick.num % d.beatLen ≠ 0 then
    if (d.outer p).running then d.outerPending p else d
  else if !(d.outer p).running then
    let d := if d.flag (F.PATH.SUSPENDED p) then (d.setFlag (F.PATH.SUSPENDED p) false).bump (F.PATH.RESUMES p) 1 else d
    d.outerTurn p 0
  else
    let r := (d.outer p).jobs.foldl (fun (acc : Dev × List OuterJob) (j : OuterJob) =>
      let x := acc.1.outerJob p j
      (x.1, acc.2 ++ x.2.toList)) (d, [])
    let d := r.1.updOuter p (fun o => { o with jobs := r.2 })
    (d.outerTurn p ((d.rd (F.PATH.TURN p) + 1) % max 1 (d.pathGroups p))).outerPending p

/-! ## Writes to loop state (R19, R74) -/

/-- The field of a loop at a word offset and low bit, with width, host-writable, reset value. -/
def loopField (off lo : Nat) : Option (Nat × Bool × Nat) :=
  (loopFields.find? (fun (f : Nat × Nat × Nat × Bool × Nat) => f.1 = off && f.2.1 = lo)).map (fun f => f.2.2)

/-- A loop field's value as it will stand at the next pick boundary. -/
def Dev.loopAhead (d : Dev) (f : Fld) : Nat := (AMap.find d.loop.shadow f.key).getD (d.rd f)

/-- R74: whether the host may write the field at (word offset, low bit) of a loop, with value v, now. -/
def Dev.loopMayWrite (d : Dev) (l off lo : Nat) : Bool :=
  let m := d.cellMode (loopCell l)
  let tm := d.tileMode (loopTile l)
  if isVoa l then
    match off, lo with
    | 0x00, _ | 0x04, 0 => true
    | 0x04, _ | 0x08, _ | 0x0C, _ => tm ≠ Tm.cal
    | 0x10, 0 => true
    | 0x14, _ | 0x18, _ | 0x1C, _ | 0x20, 0 => tm = Tm.fenced || tm = Tm.offline
    | _, _ => false
  else
    match off, lo with
    | 0x00, 0 | 0x00, 2 => m = Cm.parked || m = Cm.frozen || m = Cm.faulted
    | 0x00, _ => true
    | 0x04, 0 => d.loopAhead (F.LOOP.OUTER_EN l) = 0 && (m = Cm.hold || m = Cm.parked || m = Cm.frozen)
    | 0x04, _ | 0x08, _ | 0x0C, _ => m ≠ Cm.cal
    | 0x10, 0 => m ≠ Cm.cal && m ≠ Cm.warm
    | 0x14, _ | 0x18, _ | 0x1C, _ | 0x20, 0 => m = Cm.frozen
    | _, _ => false

/-- Requests a clear of one loop's table (R88). -/
def Dev.clearTableOf (d : Dev) (l : Nat) : Dev :=
  { d with trd := { d.trd with
      clears := d.trd.clears ++ [{ loops := [l], others := false, but := [], item := none }] } }

/-- Puts a raw value of a loop field. -/
def Dev.putLoopKey (d : Dev) (key v : Nat) : Dev :=
  let off := (key / 32 - 0x02000000) % 128
  let lo := key % 32
  match loopField off lo with
  | none => d
  | some (w, _, rst) => d.wr ⟨key / 32, lo + w - 1, lo, rst⟩ v

/-- Applies one write to a loop field at a pick boundary, with what follows from it: EN, TREADLE_EN, TREADLE_SEL, PARK_CODE. -/
def Dev.applyLoopWrite (d : Dev) (key v : Nat) : Dev :=
  let l := (key / 32 - 0x02000000) / 128
  let off := (key / 32 - 0x02000000) % 128
  let lo := key % 32
  if off = 0 ∧ lo = 0 then
    let d := d.putLoopKey key v
    if d.flag (F.LOOP.EN l) then d else d.updLaux l (fun a => { a with enSeen := false })
  else if off = 0 ∧ lo = 10 then
    if d.rd (F.LOOP.TREADLE_EN l) = v % 2 then d
    else (d.putLoopKey key v).updLaux l (fun a => { a with fold := true })
  else if off = 0 ∧ lo = 8 then
    if d.rd (F.LOOP.TREADLE_SEL l) = v % 4 then d
    else
      -- the changes of the old tracker that wait are folded; those of the new one before now are none of this loop's (R85)
      let behind := decide ((d.laux l).epoch ≠ (d.trk (d.trkOf l)).epoch)
      ((d.putLoopKey key v).updLaux l (fun a => { a with fold := a.fold || behind, epoch := (d.trk (v % 4)).epoch })).clearTableOf l
  else if off = 0x10 ∧ lo = 0 ∧ !isVoa l then
    let c := loopCell l
    let at_ := d.cellMode c = Cm.parked || (d.cellMode c = Cm.faulted && !(d.caux c).held)
    let d := d.setPark c (v % 65536)
    if at_ && d.tileMode (loopTile l) ≠ Tm.offline then
      let code := d.parkCode c
      ((d.riseSpend (cellTile c) (d.riseOf c code)).moveTh c code).sendCode l code
    else d
  else d.putLoopKey key v

/-- Applies the pick's writes to loop state (R19): all but CLASS, which waits for the beat boundary (R71). -/
def Dev.applyShadow (d : Dev) (beat : Bool) : Dev :=
  let isCls := fun (kv : Nat × Nat) => (kv.1 / 32 - 0x02000000) % 128 = 0 && kv.1 % 32 = 4
  let now := d.loop.shadow.filter (fun kv => beat || !isCls kv)
  let items := d.loop.shadowItems
  let d := { d with loop := { d.loop with shadow := d.loop.shadow.filter (fun kv => !(beat || !isCls kv)), shadowItems := [] } }
  let d := forEach now (fun (kv : Nat × Nat) (d : Dev) => d.applyLoopWrite kv.1 kv.2) d
  forEach items (fun i (d : Dev) => d.finishAcked i St.ok []) d

/-- Applies the beat's writes to coefficient sets together (R72). -/
def Dev.applyCoef (d : Dev) : Dev :=
  let ws := d.loop.coefShadow
  let items := d.loop.coefItems
  let d := { d with loop := { d.loop with coefShadow := [], coefItems := [] } }
  let d := forEach ws (fun (kv : Nat × Nat) (d : Dev) =>
    let off := kv.1 / 32 % 256
    match coefFields.find? (fun (f : Nat × Nat × Nat × Bool × Nat) => f.1 = off && f.2.1 = kv.1 % 32) with
    | none => d
    | some (_, lo, w, _, rst) => d.wr ⟨kv.1 / 32, lo + w - 1, lo, rst⟩ kv.2) d
  forEach items (fun i (d : Dev) => d.finishAcked i St.ok []) d

/-! ## Engine moves (R75, R76) -/

/-- The loop that a slot holds. -/
def Dev.slotLoop (d : Dev) (e s : Nat) : Option Nat := (AMap.find d.loop.slots (e * 1024 + s)).getD (some (e * 1024 + s))

/-- The slot that holds a loop. -/
def Dev.slotOf (d : Dev) (l : Nat) : Nat :=
  match d.loop.slots.find? (fun (s : Nat × Option Nat) => s.2 = some l) with
  | some s => s.1
  | none => l

/-- Puts a slot's content, in canonical form. -/
def Dev.putSlot (d : Dev) (s : Nat) (c : Option Nat) : Dev :=
  let n := fun (d : Dev) (e : Nat) => ((List.range 1024).filter (fun i => (d.slotLoop e i).isSome)).length
  let d := { d with loop := { d.loop with slots := AMap.set d.loop.slots s c (some s) } }
  d.wr (F.ENG_STAT.LOOPS (s / 1024 / 16) (s / 1024 % 16)) (n d (s / 1024))

/-- A loop whose move must wait: its cell is in SWITCH, SETTLE or PIECE (R76). -/
def Dev.moveWaits (d : Dev) (l : Nat) : Bool :=
  let m := d.cellMode (loopCell l)
  !isVoa l && (m = Cm.switch || m = Cm.settle || m = Cm.piece)

/-- Whether an accepted move can take effect: neither loop of the exchange waits. -/
def Dev.moveReady (d : Dev) (m : Move) : Bool :=
  !d.moveWaits m.loop && (match d.slotLoop m.engine m.slot with | some l => !d.moveWaits l | none => true)

/-- Carries out one move: exchanges the contents of two slots; state and tables go with the loop (R20, R75). -/
def Dev.doMove (d : Dev) (m : Move) : Dev :=
  let a := d.slotOf m.loop
  let b := m.engine * 1024 + m.slot
  let other := d.slotLoop m.engine m.slot
  let d := (d.putSlot b (some m.loop)).putSlot a other
  let d := (d.setFlag (F.LOOP.MOVING m.loop) false)
  let d := match other with | some l => d.setFlag (F.LOOP.MOVING l) false | none => d
  let d := ((d.count 0x0A).raise (d.heddle m.loop) 4 m.loop m.engine)
  d.finishOpt m.item St.ok []

/-- The moves of a beat boundary: at most 256, in the order accepted; one whose loop is busy waits (R76). -/
def Dev.applyMoves (d : Dev) : Dev :=
  let ready := (d.loop.moves.filter (fun m => d.moveReady m)).take 256
  let d := { d with loop := { d.loop with moves := d.loop.moves.filter (fun m => !ready.contains m) } }
  forEach ready (fun (m : Move) (d : Dev) => d.doMove m) d

/-- Accepts a move (R76): refused with BUSY when its loop or its slot is named by a pending one. -/
def Dev.acceptMove (d : Dev) (m : Move) : Option Dev :=
  let slots := fun (m : Move) => [d.slotOf m.loop, m.engine * 1024 + m.slot]
  if d.loop.moves.any (fun (x : Move) => (slots x).any (fun s => (slots m).contains s)) then none
  else
    let d := { d with loop := { d.loop with moves := d.loop.moves ++ [m] } }
    some ((d.keepLoop m.loop).setFlag (F.LOOP.MOVING m.loop) true)

/-! ## Beat and pick figures of the engines (R78, R56) -/

/-- Publishes the steps of the pick that ends. -/
def Dev.enginePick (d : Dev) : Dev :=
  let ps := d.loop.engPick
  let d := forEach (List.range 64) (fun e (d : Dev) =>
    let n := AMap.get ps e 0
    let d := d.wr (F.ENG_STAT.STEPPED (e / 16) (e % 16)) n
    if n = 0 then d
    else { d with loop := { d.loop with engBeat := AMap.put d.loop.engBeat e (AMap.get d.loop.engBeat e 0 + n) } }) d
  { d with loop := { d.loop with engPick := [] } }

/-- Publishes the step rate of the beat that ends, in M steps/s: the steps of the beat over its length in ns, rounded down (DESIGN CHOICE,
assumption 42: R78 gives no rounding). -/
def Dev.engineBeat (d : Dev) (ns : Nat) : Dev :=
  let bs := d.loop.engBeat
  let d := forEach (List.range 64) (fun e (d : Dev) =>
    d.wr (F.ENG_RATE.MSTEPS (e / 16) (e % 16)) (min 65535 (AMap.get bs e 0 * 1000 / ns))) d
  { d with loop := { d.loop with engBeat := [] } }

/-- Takes the caps of the beat that begins (R56) and which loops belong to lit cells and ports. -/
def Dev.takeCaps (d : Dev) : Dev :=
  let lit := d.litRoutes.flatMap (fun (er : Nat × List Hop) =>
    (routeCells er.2).map (fun cs => cellLoop cs.1) ++ er.2.map (fun (h : Hop) => voaLoop h.tile h.out))
  { d with loop := { d.loop with
      classCap := (List.range 16).map (fun c => d.rd (F.CLASS_CAP.CAP c))
      classTcap := (List.range 16).map (fun c => d.rd (F.CLASS_TCAP.TCAP c))
      tileCap := (List.range 16).map (fun t => d.rd (F.TILE_CAP.CAP t))
      litBeat := lit } }

end Sys2Proof.Machine
end

