-- ==== Sys2Proof/Machine/Treadle.lean ====
section
/-! DEFINITION. The supply-phase trackers (R80 - R85), table clears (R88), the table sweep to the peer (R93) and saves of the
tables (R95).  A tracker mixes the words of its own window; the answer of its second-order loop, to which the spec gives no gains, is a
free value. -/

namespace Sys2Proof.Machine

/-- Nominal fundamental in µHz (R81), rounded under R59 rule 6. -/
def nominalFreq (fund : Nat) : Nat := [16666667, 25000000, 50000000, 60000000].getD fund 50000000

/-- Nominal period in ns (R81). -/
def nominalPeriod (fund : Nat) : Nat := [60000000, 40000000, 20000000, 16666667].getD fund 20000000

/-- Cycles in 3 s (R84). -/
def synthCycles (fund : Nat) : Nat := [50, 75, 150, 180].getD fund 150

/-- PHASE of a SYNTH tracker at PTP time t (R84); the difference t - BASE wraps into the 3 s period. -/
def synthPhase (fund base t : Nat) : Nat :=
  (2 ^ 32 * ((((t : Int) - base) * synthCycles fund) % 3000000000).toNat / 3000000000) % 2 ^ 32

/-- Phase advance over some ns at a frequency in µHz, rounded down (DESIGN CHOICE, assumption 43: R80 gives no rounding). -/
def phaseAdvance (freq ns : Nat) : Nat := 2 ^ 32 * freq * ns / 1000000000000000

/-- Tracker state. -/
def Dev.trkState (d : Dev) (n : Nat) : Nat := d.rd (F.TRK_STAT.STATE n)

/-- Every loop that uses a tracker discards its open accumulation (R80). -/
def Dev.discardAcc (d : Dev) (n : Nat) : Dev :=
  { d with mem := d.mem.filter (fun kv =>
      let a := kv.1 / 32
      let off := (a - 0x02000000) % 128
      !(decide (0x02000000 ≤ a) && decide (a < 0x02800000) && (off = 0x40 || (off = 0x44 && kv.1 % 32 = 0)) &&
        d.trkOf ((a - 0x02000000) / 128) = n)) }

/-- A change of correction by other means than time (R85): the tracker's epoch moves on. -/
def Dev.newEpoch (d : Dev) (n : Nat) : Dev := d.updTrk n (fun t => { t with epoch := t.epoch + 1 })

/-- Enters a tracker state with the effects of R83: correction starting or stopping, accumulators, UNLOCKS and events. -/
def Dev.trkEnter (d : Dev) (n goal : Nat) : Dev :=
  let st := d.trkState n
  let corr := fun (s : Nat) => s = 2 || s = 3
  let d := d.wr (F.TRK_STAT.STATE n) goal
  let d := if st = 2 && goal ≠ 2 then d.discardAcc n else d
  let d := if corr st ≠ corr goal then d.newEpoch n else d
  let d := d.updTrk n (fun t => { t with lockRun := 0, coastTb := if goal = 3 then d.time.tb else t.coastTb })
  if goal = 3 ∨ goal = 4 then
    ((d.bump (F.TRK_AMP.UNLOCKS n) 1).count 0x09).raise 0x09 (if goal = 3 then n else 4 + n) n
      (ofS 32 (d.rdS (F.TRK_STAT.PHASE_ERR n)))
  else d

/-- Sets the phase of a SYNTH tracker now and at the next boundary. -/
def Dev.synthNow (d : Dev) (n : Nat) : Dev :=
  let t := d.trk n
  let p := synthPhase t.fund t.base d.ptpNow
  let q := synthPhase t.fund t.base (d.ptpNow + d.pickNs)
  let d := ((d.wr (F.TRK_PHASE.PHASE n) p).wr (F.TRK_STAT.BIN n) (p / 2 ^ 24)).wr (F.TRK_STAT.PHASE_ERR n) 0
  (d.wr (F.TRK_FREQ.FREQ n) (nominalFreq t.fund)).updTrk n (fun t => { t with next := q })

/-- The loops whose CTRL names tracker n, as a clear request: the loops listed in the map, and for tracker 0 all others. -/
def Dev.trkLoops (d : Dev) (n : Nat) : ClrReq :=
  let listed := (d.mem.filterMap (fun kv =>
    let a := kv.1 / 32
    if 0x02000000 ≤ a ∧ a < 0x02800000 ∧ (a - 0x02000000) % 128 = 0 ∧ kv.1 % 32 = 8 then some ((a - 0x02000000) / 128) else none))
  if n = 0 then { loops := [], others := true, but := listed, item := none }
  else { loops := listed.filter (fun l => d.trkOf l = n), others := false, but := [], item := none }

/-- Whether a clear request names a loop. -/
def ClrReq.names (r : ClrReq) (l : Nat) : Bool := r.loops.contains l || (r.others && !r.but.contains l)

/-- FUND as TRK_CFG was last written and waits for the beat boundary. -/
def Dev.fundNext (d : Dev) (n : Nat) : Nat :=
  match d.regs.beat.reverse.find? (fun (x : Nat × Nat) => x.1 = R.TRK_CFG n) with
  | some x => x.2 % 4
  | none => (d.trk n).fund

/-- The clears that wait for the beat boundary (R88): those asked for, and those of a FUND written with a new value. -/
def Dev.clearsWaiting (d : Dev) : List ClrReq :=
  d.trd.clears ++ ([0, 1, 2, 3].filter (fun n => (d.trk n).pend && d.fundNext n ≠ (d.trk n).fund)).map (fun n => d.trkLoops n)

/-- What CLR_PEND reads from this boundary on (R19, R90): the clears that wait at it. -/
def Dev.clearsShown (d : Dev) : Dev := { d with trd := { d.trd with clearsAt := d.clearsWaiting } }

/-- Applies one clear (R88): the bins, ACC, ACC_N and QSTATE go to zero; the loop folds the change at its next full step. -/
def Dev.applyClear (d : Dev) (r : ClrReq) : Dev :=
  -- every table cleared gets a clear record, also one that was zero (R93)
  let tables := if r.others then (List.range 65536).filter r.names else r.loops
  let d := { d with
    trd := { d.trd with
      bins := d.trd.bins.filter (fun kv => !r.names (kv.1 / 256))
      dirty := d.trd.dirty.filter (fun l => !r.names l) ++ tables
      dirtyClear := d.trd.dirtyClear.filter (fun l => !r.names l) ++ tables }
    mem := d.mem.filter (fun kv =>
      let a := kv.1 / 32
      let off := (a - 0x02000000) % 128
      let lo := kv.1 % 32
      !(decide (0x02000000 ≤ a) && decide (a < 0x02800000) && r.names ((a - 0x02000000) / 128) &&
        (off = 0x40 || (off = 0x44 && lo ≠ 8)))) }
  -- every loop that last added a correction folds its change
  let ls := if r.others then ((d.mem.filterMap (fun kv =>
      let a := kv.1 / 32
      if 0x02000000 ≤ a ∧ a < 0x02800000 ∧ (a - 0x02000000) % 128 = 0x48 ∧ kv.1 % 32 = 0 then some ((a - 0x02000000) / 128) else none)).filter r.names)
    else r.loops
  let d := forEach ls (fun l (d : Dev) => d.updLaux l (fun a => { a with fold := true })) d
  d.finishOpt r.item St.ok []

/-- The clears of a beat boundary (R88); a learning write of the ended pick loses to the clear. -/
def Dev.applyClears (d : Dev) : Dev :=
  let rs := d.trd.clears
  forEach rs (fun (r : ClrReq) (d : Dev) => d.applyClear r) { d with trd := { d.trd with clears := [] } }

/-- A tracker's configuration written before this beat takes effect (R96) with the transitions of R83. -/
def Dev.trkConfig (d : Dev) (n : Nat) : Dev :=
  let t := d.trk n
  if !t.pend && t.pendBase.isNone then d
  else
    let fund := if t.pend then d.rd (F.TRK_CFG.FUND n) else t.fund
    let src := if t.pend then d.rd (F.TRK_CFG.SRC n) else t.src
    let mode := if t.pend then d.rd (F.TRK_CFG.MODE n) else t.mode
    let base := t.pendBase.getD t.base
    let st := d.trkState n
    let d := d.updTrk n (fun t => { t with fund := fund, src := src, mode := mode, base := base, pend := false, pendBase := none, soon := false
                                           goes := if mode ≠ t.mode ∨ fund ≠ t.fund ∨ src ≠ t.src then none else t.goes })
    let d := if fund ≠ t.fund then d.applyClear (d.trkLoops n) else d
    let restart := fun (d : Dev) =>
      let d := (d.trkEnter n 1).wr (F.TRK_FREQ.FREQ n) (nominalFreq fund)
      d.updTrk n (fun t => { t with lastWord := d.time.tb, lost := false, words := [], updTb := d.time.tb, updNo := 0, corr := 0 })
    if mode ≠ t.mode then
      if mode = 0 then
        let d := (d.trkEnter n 0).wr (F.TRK_FREQ.FREQ n) 0
        d.wr (F.TRK_STAT.PHASE_ERR n) 0
      else if mode = 1 then restart d
      else
        let d := if st = 2 ∨ st = 3 then (d.newEpoch n).discardAcc n else d
        (d.trkEnter n 2).synthNow n
    else if mode = 1 then
      if fund ≠ t.fund ∨ src ≠ t.src then restart d else d
    else if mode = 2 then
      if fund ≠ t.fund ∨ base ≠ t.base then (d.newEpoch n).synthNow n else d
    else d

/-- A tracker at pick boundary k: a configuration just loaded, the transition that waits, then the phases published (R80, R83). -/
def Dev.trkBoundary (d : Dev) (n : Nat) : Dev :=
  let d := if (d.trk n).soon then d.trkConfig n else d
  let d := match (d.trk n).goes with
    | some s => (d.updTrk n (fun t => { t with goes := none })).trkEnter n s
    | none => d
  let t := d.trk n
  if d.trkState n = 0 then d
  else if t.mode = 2 then d.synthNow n
  else
    -- what the loop corrected in the pick acts from this boundary: PHASE[k + 1] as published stays through pick k (R80)
    let p := (((t.next : Int) + t.corr) % (2 : Int) ^ 32).toNat
    let d := (d.wr (F.TRK_PHASE.PHASE n) p).wr (F.TRK_STAT.BIN n) (p / 2 ^ 24)
    d.updTrk n (fun t => { t with corr := 0, next := (p + phaseAdvance (d.rd (F.TRK_FREQ.FREQ n)) d.pickNs) % 2 ^ 32 })

/-- The words of a window mixed with the sine and the cosine of the tracker's phase (R82). -/
def mixWords (ws : List (Nat × Int × Nat)) : Int × Int :=
  ((ws.map (fun (w : Nat × Int × Nat) => w.2.1 * sinPhase w.2.2)).foldl (· + ·) 0,
   (ws.map (fun (w : Nat × Int × Nat) => w.2.1 * sinPhase (w.2.2 + 2 ^ 30))).foldl (· + ·) 0)

/-- Whether the angle of (x, y) is at least a / 8192 of a turn, both taken in [0, 1) turns. -/
def angleGe (x y : Int) (a : Nat) : Bool :=
  let upper := decide (0 < y) || (decide (y = 0) && decide (0 ≤ x))
  let ahead := decide (0 ≤ sinPhase (a * 2 ^ 19 + 2 ^ 30) * y - sinPhase (a * 2 ^ 19) * x)
  if a < 4096 then !upper || ahead else !upper && ahead

/-- The angle of (x, y) in 1/8192 turns, rounded down, one bit after the other from the top. -/
def angleBits (x y : Int) : Nat → Nat → Nat
  | 0, a => a
  | n + 1, a => angleBits x y n (if angleGe x y (a + 2 ^ n) then a + 2 ^ n else a)

/-- The phase error of a window in 1/16 bin, 4,096 to a turn, to the nearest (R82; rounding DESIGN CHOICE, assumption 43): the source's
phase ahead of the tracker's counts as positive. -/
def mixErr (m : Int × Int) : Int :=
  let e := (angleBits m.1 m.2 13 0 + 1) / 2 % 4096
  if e < 2048 then e else (e : Int) - 4096

/-- The amplitude of a window of n words in LSB, to the nearest. -/
def mixAmp (m : Int × Int) (n : Nat) : Nat :=
  if n = 0 then 0 else (rootBits 2 (16 * (m.1 * m.1 + m.2 * m.2).toNat / (n * n * 2 ^ 128)) 40 0 + 1) / 2

/-- The words of the last nominal period. -/
def Dev.trkWindow (d : Dev) (n : Nat) : List (Nat × Int × Nat) :=
  (d.trk n).words.filter (fun (w : Nat × Int × Nat) => decide (d.time.tb < w.1 + nominalPeriod (d.trk n).fund))

/-- A SUPPLY tracker mixes its window, corrects phase and frequency and judges lock (R82, R83).  10,000 valid words a second are judged
over the window (DESIGN CHOICE, assumption 43). -/
def Dev.trackerMix (d : Dev) (n : Nat) : Dev :=
  let t := d.trk n
  let st := d.trkState n
  let ws := d.trkWindow n
  let m := mixWords ws
  let e := mixErr m
  let amp := mixAmp m ws.length
  let nom := nominalFreq t.fund
  let lo := nom - nom / 20
  let hi := nom + nom / 20
  let ans := Config.trackerLoop (d.rd (F.TRK_CFG.BW n)) t.fund (d.rd (F.TRK_FREQ.FREQ n)) e
  let inside := decide ((lo : Int) ≤ ans.2 ∧ ans.2 ≤ hi)
  let f := (max (lo : Int) (min hi ans.2)).toNat
  let tol : Nat := d.rd (F.TRK_LIM.LOCK_TOL n)
  let d := d.updTrk n (fun t => { t with words := ws, updNo := t.updNo + 1 })
  let d := (d.wr (F.TRK_STAT.PHASE_ERR n) (ofS 16 e)).wr (F.TRK_AMP.AMP n) (min amp 65535)
  let d := if inside then d else d.raise 0x09 11 n (ofS 32 e)
  let d := if st = 3 then d else (d.wr (F.TRK_FREQ.FREQ n) f).updTrk n (fun t => { t with corr := t.corr + ans.1 })
  let amOk := d.rd (F.TRK_LIM.AMP_MIN n) ≤ amp
  let rate := decide (10000 * nominalPeriod t.fund / 1000000000 ≤ ws.length)
  if st = 2 then
    if tol * 4 < e.natAbs ∨ !amOk ∨ !inside then d.updTrk n (fun t => { t with goes := some 3 }) else d
  else
    let ok := decide (e.natAbs ≤ tol) && amOk && inside && rate
    let run := if ok then t.lockRun + 1 else 0
    d.updTrk n (fun t => { t with lockRun := run, goes := if max 1 (d.rd (F.TRK_CFG.LOCK_PER n)) * 16 ≤ run then some 2 else t.goes })

/-- TRACKER_UPDATE (R82): every 1/16 of the nominal period, counted from the start of acquisition. -/
def Dev.trackerUpdate (d : Dev) (n : Nat) : Dev :=
  let t := d.trk n
  if 4 ≤ n || t.mode ≠ 1 || d.trkState n = 0 then d
  else d.fire (t.updTb + (t.updNo + 1) * nominalPeriod t.fund / 16) (fun d => d.trackerMix n)

/-- TRACKER_SOURCE_LOSS (R82): more than 1 ms between valid words. -/
def Dev.trackerSourceLoss (d : Dev) (n : Nat) : Dev :=
  let t := d.trk n
  let st := d.trkState n
  if 4 ≤ n || t.mode ≠ 1 || st = 0 || t.lost then d
  else d.fire (t.lastWord + 1000001) (fun d =>
      let d := (d.raise 0x1D 10 n 0).updTrk n (fun t => { t with lost := true })
      if st = 2 then d.updTrk n (fun t => { t with goes := some 3 })
      else d.updTrk n (fun t => { t with lockRun := 0 }))

/-- TRACKER_LOST (R83): COAST_MAX nominal periods in COAST. -/
def Dev.trackerLost (d : Dev) (n : Nat) : Dev :=
  let t := d.trk n
  if 4 ≤ n || d.trkState n ≠ 3 then d
  else d.fire (t.coastTb + max 1 (d.rd (F.TRK_CFG.COAST_MAX n)) * nominalPeriod t.fund) (fun d =>
    d.updTrk n (fun t => { t with goes := some 4 }))

/-- The phase of a tracker at an instant of the pick: that of the last boundary and the advance since. -/
def Dev.trkPhaseAt (d : Dev) (n : Nat) : Nat :=
  (d.rd (F.TRK_PHASE.PHASE n) + phaseAdvance (d.rd (F.TRK_FREQ.FREQ n)) (d.time.tb - d.tbOf d.pick.num)) % 2 ^ 32

/-- A valid word of Sieve A for a supply input reaches the trackers that follow it (R82). -/
def Dev.trackerWord (d : Dev) (input : Nat) (code : Int) : Dev :=
  forEach [0, 1, 2, 3] (fun n (d : Dev) =>
    let t := d.trk n
    if t.mode = 1 && t.src = input then
      let w := (d.time.tb, code, d.trkPhaseAt n)
      d.updTrk n (fun t => { t with
        lastWord := d.time.tb
        lost := false
        words := t.words.filter (fun (w : Nat × Int × Nat) => decide (d.time.tb < w.1 + nominalPeriod t.fund)) ++ [w] })
    else d) d

/-! ## Mirror sweep (R93) -/

/-- A loop's table as it stood at the last pick boundary (R93). -/
def Dev.tableOf (d : Dev) (l : Nat) : List Nat := (List.range 256).map (fun b => d.binRd l b)

/-- TREADLE_MIRROR_SEND: one group of up to 16 records of the tables changed since their last copy, in loop order from where
the sweep stands, closed by a record of no bytes (R93, R346).  RATE = 0 pauses the sweep. -/
def Dev.treadleMirrorSend (d : Dev) : Dev :=
  if !d.controls || d.rd F.TRD_MIRROR.RATE = 0 then d
  else
    let at_ := d.trd.sweepAt
    let begun := d.trd.sweepFrom.getD d.time.tb
    let ahead := (List.range 65536 |>.drop at_).filter (fun l => d.trd.dirty.contains l)
    let now := ahead.take 16
    let ver := (d.slv.trdGroup + 1) % 2 ^ 32
    let recs : List MirRec := now.map (fun l =>
      if d.trd.dirtyClear.contains l then
        { typ := 5, version := ver, obj := l, close := false, retry := false, body := .tableClear }
      else { typ := 4, version := ver, obj := l, close := false, retry := false
             body := .table (d.tableOf l) (d.loopRd l (F.LOOP.BIN_WRITES l)) })
    let d := if now.isEmpty then d
      else ({ d with slv := { d.slv with trdGroup := ver } }).sendRecs
        (recs ++ [({ typ := 4, version := ver, obj := 0, close := true, retry := false, body := .mark } : MirRec)])
    let d := { d with trd := { d.trd with
      dirty := d.trd.dirty.filter (fun l => !now.contains l)
      dirtyClear := d.trd.dirtyClear.filter (fun l => !now.contains l) } }
    if ahead.length ≤ 16 then
      -- the sweep has passed the last loop
      let ms := (d.time.tb - begun) / 1000000
      ({ d with trd := { d.trd with sweepAt := 0, sweepFrom := some d.time.tb } }).wr F.TRD_SWEEP.SWEEP_MS (min ms 65535)
    else { d with trd := { d.trd with sweepAt := (now.getLast?.getD at_) + 1, sweepFrom := some begun } }

/-! ## Saves (R95) -/

/-- Every table as it stood at the last pick boundary. -/
def Dev.binsKept (d : Dev) : List (Nat × Nat) :=
  d.trd.before.foldl (fun m (lt : Nat × List (Nat × Nat)) => lt.2.foldl (fun m (kv : Nat × Nat) => AMap.put m kv.1 kv.2) m)
    (d.trd.bins.filter (fun (kv : Nat × Nat) => (AMap.find d.trd.before (kv.1 / 256)).isNone))

/-- The generation that a save writes (R95): the tables as they stood at the last pick boundary, each tracker's FUND, each loop's
TREADLE_SEL. -/
def Dev.treadleGen (d : Dev) : TrdGen :=
  let sels := d.mem.filterMap (fun kv =>
    let a := kv.1 / 32
    if 0x02000000 ≤ a ∧ a < 0x02800000 ∧ (a - 0x02000000) % 128 = 0 ∧ kv.1 % 32 = 8 then some ((a - 0x02000000) / 128, kv.2) else none)
  { bins := d.binsKept, funds := [0, 1, 2, 3].map (fun n => (d.trk n).fund), sels := sels }

/-- Starts a save: refused while one runs; its pages wait in Marl's queue (R414 rank 3). -/
def Dev.treadleSaveStart (d : Dev) (item : Option Nat) : Option Dev :=
  if d.trd.save.isSome then none
  else some (({ d with trd := { d.trd with save := some { item := item, gen := d.treadleGen } } }).marlAsk 3 .treadle item)

/-- The older of the two generations: the one that is not current. -/
def Dev.treadleOlder (d : Dev) : Nat := 1 - d.rd F.TRD_STAT.GEN

/-- A save ends (R95): 1 its last page is committed through the journal, 2 aborted, 3 Marl error. -/
def Dev.treadleSaveEnds (d : Dev) (result : Nat) : Dev :=
  match d.trd.save with
  | none => d
  | some s =>
    let d := { d with trd := { d.trd with save := none } }
    let d := d.wr F.TRD_STAT.SAVE_RESULT result
    if result = 1 then
      let g := d.treadleOlder
      let d := { d with nv := { d.nv with trd := AMap.put d.nv.trd g s.gen, trdCur := g } }
      (d.wr F.TRD_STAT.GEN g).finishOpt s.item St.ok []
    else
      (d.raise 0x09 8 (d.treadleOlder) result).finishOpt s.item (if result = 2 then St.aborted else St.marlError) []

/-- Loads a tile's tables from the current generation (R95, R435): a loop whose saved FUND differs from the one now set for its
tracker is loaded as zero and counted. -/
def Dev.treadleLoad (d : Dev) (t : Nat) : Dev :=
  let g := AMap.get d.nv.trd (d.rd F.TRD_STAT.GEN) {}
  let good := fun (l : Nat) => g.funds.getD (AMap.get g.sels l 0) 0 = (d.trk (d.trkOf l)).fund
  let loops := (List.range 4096).map (· + 4096 * t)
  let zeroed := if (AMap.find d.nv.trd (d.rd F.TRD_STAT.GEN)).isSome then (loops.filter (fun l => !good l)).length else 0
  let keep := d.trd.bins.filter (fun kv => kv.1 / 256 / 4096 ≠ t)
  let load := g.bins.filter (fun kv => kv.1 / 256 / 4096 = t && good (kv.1 / 256))
  let d := { d with trd := { d.trd with bins := load.foldl (fun m kv => AMap.set m kv.1 kv.2 0) keep } }
  if zeroed = 0 then d else (d.bump F.TRD_STAT.LOAD_ZEROED zeroed).raise 0x09 9 t zeroed

end Sys2Proof.Machine
end

