-- ==== Sys2Proof/Machine/Shuttle.lean ====
section
/-! DEFINITION. Shuttle (R131 - R136): paths inside a tile, middle-stage choice, what routes must avoid, checks of a given
route.  Where the spec does not say which of several paths the search takes, the command's operand chooses. -/

namespace Sys2Proof.Machine

/-! ## Paths inside a tile -/

/-- The state of a stage on the way to output port q: the choice bits in stages 0-6; in stages 7-14 bit 0 of the output line
must be bit 14 - j of q (R27). -/
def pathCross (choice q j line : Nat) : Bool :=
  if j < 7 then bit choice j else decide (line % 2 = 1) ≠ bit q (14 - j)

/-- Follows a path from a line of stage j for n stages: lines and cross bits. -/
def pathFrom (choice q : Nat) : Nat → Nat → Nat → List (Nat × Bool)
  | 0, _, _ => []
  | n + 1, j, line =>
    let x := pathCross choice q j line
    (line, x) :: pathFrom choice q n (j + 1) (wire j (stageOut line x))

/-- The hop through a tile from input p to output q by one of the 128 paths. -/
def hopBy (tile p q choice : Nat) : Hop :=
  let cs := pathFrom choice q 15 0 p
  { tile := tile, inp := p, out := q, lines := cs.map (·.1)
    cross := (cs.zipIdx.map (fun (ci : (Nat × Bool) × Nat) => if ci.1.2 then 2 ^ ci.2 else 0)).sum }

/-- Whether a hop follows R27 from its input to its output port. -/
def Hop.follows (h : Hop) : Bool :=
  let step := fun (acc : Bool × Nat) (lj : Nat × Nat) =>
    let x := bit h.cross lj.2
    (acc.1 && decide (lj.1 = acc.2), if lj.2 < 14 then wire lj.2 (stageOut lj.1 x) else stageOut lj.1 x)
  let r := h.lines.zipIdx.foldl step (true, h.inp)
  decide (h.lines.length = 15) && r.1 && decide (r.2 = h.out)

/-! ## What a route must leave as it is -/

/-- How the planned circuit's own lit cells may be used: `same`: only in the state they hold (a LIVE circuit); `free`: in either
state (a DARK circuit, or the circuit's own alternate). -/
inductive OwnRule where
  | same | free
  deriving DecidableEq, Repr

/-- Cells to leave as they are: routes of other circuits, routes of armed alternates, and the own route. -/
structure Obst where
  others : List (List Hop)
  alts : List (List Hop)
  own : List Hop
  rule : OwnRule

/-- Whether a set of cells with states leaves a route's cells as they are and keeps R28. -/
def keepsRoute (cells : List (Nat × Bool)) (r : List Hop) : Bool :=
  let kept := routeCells r
  cells.all (fun cx => kept.all (fun kx => kx.1 ≠ cx.1 && (kx.1 ≠ partner cx.1 || kx.2 = cx.2)))

/-- How the new route of a LIVE circuit stands to its own lit route after a cell on line e in state x, `old` being the own cell of that
stage: 0 on it, 1 parted from it, 2 met again.  Own lit cells are used only in the state they hold (R131), but for the split cell, at
which the routes part; they meet again at the join node (R139), where the two cells of a node may differ. -/
def ownStep (ph : Nat) (old : Option (Nat × Bool)) (e : Nat) (x : Bool) : Option Nat :=
  match old with
  | none => if ph = 1 then some 1 else none
  | some (o, y) =>
    if ph = 1 then
      if o = e then none
      else if o / 2 = e / 2 && x ≠ y then some 2
      else some 1
    else if o ≠ e then none
    else if x = y then some ph
    else if ph = 0 then some 1
    else none

/-- The cells of a hop, stage by stage: line and state. -/
def Hop.states (h : Hop) : List (Nat × Bool) := h.lines.zipIdx.map (fun (lj : Nat × Nat) => (lj.1, bit h.cross lj.2))

/-- The same over a hop; routes that part or meet between tiles do so at a draft splitter or combiner (R139). -/
def ownHop (ph : Nat) (own : List Hop) (h : Hop) : Option Nat :=
  let o := own.find? (fun (k : Hop) => k.tile = h.tile)
  let start := if o.any (fun (k : Hop) => decide (k.inp = h.inp)) then (if ph = 0 then 0 else 2) else 1
  let old := (o.map Hop.states).getD []
  (Hop.states h).zipIdx.foldl (fun (acc : Option Nat) (cj : (Nat × Bool) × Nat) => acc.bind (fun p => ownStep p (old[cj.2]?) cj.1.1 cj.1.2)) (some start)

/-- Whether a whole route leaves the own lit cells as the rule demands. -/
def ownFits (rule : OwnRule) (own r : List Hop) : Bool :=
  match rule with
  | .free => true
  | .same =>
    match r.foldl (fun (acc : Option Nat) (h : Hop) => acc.bind (fun p => ownHop p own h)) (some 0) with
    | some p => p ≠ 1
    | none => false

/-- Availability of a cell for a change of state (R131): CAL and the partner of CAL are not available; FROZEN and FAULTED only
where the own route already holds the cell in that state. -/
def Dev.cellFree (d : Dev) (own : List (Nat × Bool)) (c : Nat) (x : Bool) : Bool :=
  let m := d.cellMode c
  m ≠ Cm.cal && d.cellMode (partner c) ≠ Cm.cal &&
  ((m ≠ Cm.frozen && m ≠ Cm.faulted) || own.contains (c, x))

/-- Whether a hop's path may be used. -/
def Dev.hopFits (d : Dev) (o : Obst) (withAlts : Bool) (h : Hop) : Bool :=
  let cells := Hop.cells h
  o.others.all (keepsRoute cells) && (!withAlts || o.alts.all (keepsRoute cells)) &&
  cells.all (fun cx => d.cellFree (routeCells o.own) cx.1 cx.2)

/-- The paths of a tile that fit. -/
def Dev.tilePaths (d : Dev) (o : Obst) (withAlts : Bool) (tile p q : Nat) : List Hop :=
  ((List.range 128).map (hopBy tile p q)).filter (d.hopFits o withAlts)

/-- A path in each tile of a sequence of tiles with their ports, from a standing to the own route (R131 step 2); of several in a tile
that leave the rest of the route possible the operand chooses. -/
def Dev.tileRoutes (d : Dev) (o : Obst) (withAlts : Bool) (pick : Nat) : List (Nat × Nat × Nat) → Nat → Option (List Hop)
  | [], ph => if o.rule = .same && ph = 1 then none else some []
  | tpq :: rest, ph =>
    let cs := (d.tilePaths o withAlts tpq.1 tpq.2.1 tpq.2.2).filterMap (fun (h : Hop) => match o.rule with
      | .free => some (h, 0)
      | .same => (ownHop ph o.own h).map (fun n => (h, n)))
    let tails := ((cs.map (fun (hn : Hop × Nat) => hn.2)).eraseDups).filterMap (fun n =>
      (Dev.tileRoutes d o withAlts pick rest n).map (fun r => (n, r)))
    let ok := cs.filterMap (fun (hn : Hop × Nat) => (AMap.find tails hn.2).map (fun r => hn.1 :: r))
    ok[pick % max 1 ok.length]?

/-! ## Middle-stage tile and trunks (R131 step 1) -/

/-- Destination port of a fibre from tile a, output p, at tile b: destination A, or B of a splitter. -/
def Img.trunkTo (g : Img) (a p b : Nat) : Option Nat :=
  if !g.fValid a p then none
  else if g.fTileA a p = b then some (g.fPortA a p)
  else if g.fSplit a p && g.fTileB a p = b then some (g.fPortB a p)
  else none

/-- Free trunks from tile a to tile b, as (output port, input port), lowest port first: used by no other circuit's route and no
alternate's. -/
def Dev.freeTrunks (d : Dev) (o : Obst) (a b : Nat) : List (Nat × Nat) :=
  let used := (o.others ++ o.alts).flatMap (fun r => r.map (fun (h : Hop) => (h.tile, h.out)))
  let usedIn := (o.others ++ o.alts).flatMap (fun r => r.map (fun (h : Hop) => (h.tile, h.inp)))
  (ports256.filterMap (fun p => (Img.trunkTo d.draft.active a p b).map (fun q => (p, q)))).filter
    (fun pq => !used.contains (a, pq.1) && !usedIn.contains (b, pq.2))

/-- The middle-stage tile with its two trunks. -/
def Dev.chooseMiddle (d : Dev) (o : Obst) (via : Option Nat) (a b : Nat) : Option (Nat × (Nat × Nat) × (Nat × Nat)) :=
  let ms := match via with
    | some v => if d.tileRole v = 2 ∨ d.tileRole v = 5 then [v] else []
    | none => Img.roleTiles d.draft.active 2
  let cs := ms.filterMap (fun m =>
    let t1 := d.freeTrunks o a m
    let t2 := d.freeTrunks o m b
    match t1, t2 with
    | x :: _, y :: _ => some (m, t1.length, t2.length, x, y)
    | _, _ => none)
  let better := fun (x y : Nat × Nat × Nat × (Nat × Nat) × (Nat × Nat)) =>
    let mx := min x.2.1 x.2.2.1
    let my := min y.2.1 y.2.2.1
    decide (my < mx) || (decide (mx = my) && (decide (y.2.1 + y.2.2.1 < x.2.1 + x.2.2.1)))
  match cs with
  | [] => none
  | c :: rest =>
    let b := rest.foldl (fun b x => if better x b then x else b) c
    some (b.1, b.2.2.2.1, b.2.2.2.2)

/-- A route without moves (R131 steps 1 and 2). -/
def Dev.planRoute (d : Dev) (o : Obst) (withAlts : Bool) (pick : Nat) (via : Option Nat) (inPort outPort : Nat) : Option (List Hop) :=
  match Img.inPort d.draft.active inPort, Img.outPort d.draft.active outPort with
  | some (a, p), some (b, q) =>
    if d.tileRole a = 4 then d.tileRoutes o withAlts pick [(a, p, q)] 0
    else
      match d.chooseMiddle o via a b with
      | none => none
      | some (m, t1, t2) => d.tileRoutes o withAlts pick [(a, p, t1.1), (m, t1.2, t2.1), (b, t2.2, q)] 0
  | _, _ => none

/-! ## Given routes (R134) -/

/-- Whether a route follows R27 and the active draft from its input end to its output end. -/
def Dev.routeFollows (d : Dev) (r : List Hop) (inPort outPort : Nat) : Bool :=
  let g := d.draft.active
  match r.head?, r.getLast? with
  | some a, some b =>
    Img.inPort g inPort = some (a.tile, a.inp) && Img.outPort g outPort = some (b.tile, b.out) &&
    r.all Hop.follows &&
    (r.zip (r.drop 1)).all (fun (hh : Hop × Hop) => Img.trunkTo g hh.1.tile hh.1.out hh.2.tile = some hh.2.inp) &&
    (r.length = 3 || (r.length = 1 && d.tileRole a.tile = 4))
  | _, _ => false

/-- Whether a route fits: every hop, and its trunks are not in use by another circuit or alternate. -/
def Dev.routeFits (d : Dev) (o : Obst) (withAlts : Bool) (r : List Hop) : Bool :=
  let busy := (o.others ++ (if withAlts then o.alts else [])).flatMap (fun r => r.map (fun (h : Hop) => (h.tile, h.out)))
  r.all (d.hopFits o withAlts) && ownFits o.rule o.own r && r.all (fun h => !busy.contains (h.tile, h.out))

/-! ## What stands when a command is planned (R135) -/

/-- The routes that stand before a command of circuit `id`, as the table stands: other circuits' lit routes; armed alternates
other than those in `but`; the circuit's own route. -/
def Dev.obst (d : Dev) (id : Nat) (rule : OwnRule) (butAlt : Option Nat) : Obst :=
  let own := (d.liveOf id).map d.route
  { others := (d.litRoutes.filter (fun (er : Nat × List Hop) => d.eId er.1 ≠ id)).map (·.2)
    alts := (d.altRoutes.filter (fun (er : Nat × List Hop) => some er.1 ≠ butAlt)).map (·.2)
    own := own.getD []
    rule := rule }

/-- Places a timed command among timed commands by its boundary, after those of the same one. -/
def placeTimed (cs : List Cmd) (c : Cmd) : List Cmd :=
  let before := fun (x : Cmd) => decide (x.at_.getD 0 ≤ c.at_.getD 0)
  cs.takeWhile before ++ [c] ++ cs.dropWhile before

/-- The waiting commands in commit order (R125): protection switches, timed commands whose boundary is next or past, the rest as they were
accepted, and the timed commands of later boundaries, whose place among the rest is open (assumption 45). -/
def Dev.commitOrder (d : Dev) : List Cmd :=
  let due := fun (c : Cmd) => c.at_.any (fun b => decide (b ≤ d.pick.num + 1))
  d.cir.prot ++ d.cir.queue.filter due ++ d.cir.queue.filter (fun (c : Cmd) => c.at_.isNone) ++
    (d.cir.queue.filter (fun (c : Cmd) => c.at_.isSome && !due c)).foldl placeTimed []

/-! ## Coherent or dark (R139) -/

/-- The split cell: the first cell at which the routes part: common to both, in different states. -/
def splitCell (old new : List Hop) : Option Nat :=
  let n := routeCells new
  ((routeCells old).find? (fun cx => n.any (fun (ny : Nat × Bool) => ny.1 = cx.1 && ny.2 ≠ cx.2))).map (·.1)

/-- The join node: the last node at which the routes meet, as (old-route cell, new-route cell): node partners of one tile and
stage whose output line is the same. -/
def joinCells (old new : List Hop) : Option (Nat × Nat) :=
  let n := routeCells new
  let js := (routeCells old).filterMap (fun cx =>
    match n.find? (fun (ny : Nat × Bool) => ny.1 = partner cx.1 && ny.2 ≠ cx.2) with
    | some ny => some (cx.1, ny.1)
    | none => none)
  js.getLast?

/-- The output port of a route's hop whose fabric output carries a lit circuit. -/
def Dev.litOut (d : Dev) (t p : Nat) : Bool := (d.portUse t p).isSome

/-- The four conditions of R139. -/
def Dev.coherent (d : Dev) (e : Nat) (old new : List Hop) : Bool :=
  let g := d.draft.active
  match splitCell old new, joinCells old new with
  | some s, some (jo, _) =>
    let part := partner s
    let outLine := (routeCells old).find? (fun cx => cx.1 = jo)
    let second := match outLine with
      | some (c, x) =>
        -- the node's other output line
        let out := stageOut (cellElem c) x
        let other := if out % 2 = 0 then out + 1 else out - 1
        if cellStage c < 14 then d.lit (cellNo (cellTile c) (cellStage c + 1) (wire (cellStage c) other))
        else d.litOut (cellTile c) other
      | none => true
    let lim := match Img.inPort g (d.rd (F.CIR.IN_PORT e)) with
      | some (t, p) => Img.cohLimit g t p
      | none => 0
    !d.lit part && !d.flag (F.CELL.ALT part) && !second && lim ≠ 0 && Img.delayDiff g old new ≤ lim
  | _, _ => false

/-! ## The sweep (R141) -/

/-- n terms of the series of cos x, x in units of 2^-32, result in units of 2^-32: terms k and above given the term before. -/
def cosTerms (x2 : Int) : Nat → Int → Int → Int
  | 0, _, _ => 0
  | n + 1, k, term =>
    let t := -(term * x2 / ((2 : Int) ^ 64 * ((2 * k - 1) * (2 * k))))
    t + cosTerms x2 n (k + 1) t

/-- cos(π n / N) in units of 2^-64; π to 64 fraction bits. -/
def cosPi (n len : Nat) : Int :=
  let half := 2 * n > len
  let m := if half then len - n else n
  let x : Int := (57952155664616982739 : Int) * m / (len : Int)
  let c := (2 : Int) ^ 64 + cosTerms (x * x / (2 : Int) ^ 64) 16 1 ((2 : Int) ^ 64)
  let c := if 2 * n = len then 0 else c
  if half then -c else c

/-- SP(n) = sat16(round(SP0 cos(π n / N))), SP0 rounded to ±32,768 (R141). -/
def sweepSp (positive : Bool) (n len : Nat) : Int :=
  sat16 (rsh ((if positive then 32768 else -32768) * cosPi n len) 64)

end Sys2Proof.Machine
end

