-- ==== Sys2Proof/Machine/Tilth.lean ====
section
/-! DEFINITION. Tilth (chapter 07): plans, admission, ramps, budgets, undo, reservations. -/

namespace Sys2Proof.Machine

/-- A plan that Tilth may warm (R153): owner code (kind × 2^64 + number), cells with states in path order, whether new cells
may still be admitted for it. -/
structure WarmPlan where
  owner : Nat
  cells : List (Nat × Bool)
  grows : Bool
  deriving DecidableEq, Repr

/-- Whether the alternate half's entry is enabled for warming. -/
def Dev.altWarmed (d : Dev) (e : Nat) : Bool :=
  (if d.flag (F.CIR.GROUP_VALID e) then bit (d.rd F.TILTH_CFG.ALT_WARM) (d.rd (F.CIR.PROT_GROUP e)) else d.flag F.TILTH_CFG.ALT_WARM_NG)

/-- A run-ahead plan whose warm lifetime has passed keeps no cell (R153). -/
def Dev.raExpired (d : Dev) (p : Plan) : Bool :=
  match p.warmTb with
  | some t => t + max 1 (d.rd F.TILTH_TMO.RA_WARM_MS) * 1000000 ≤ d.time.tb
  | none => false

/-- The plans in priority order (R153).  No cell is admitted for a BROKEN alternate, nor for the plan of the command at the commit point, the
first in commit order; what is warm for them stays. -/
def Dev.warmPlans (d : Dev) : List WarmPlan :=
  if !d.flag F.TILTH_CFG.EN then []
  else
    let alts := (d.tilth.armedOrder.filter (fun e => d.eState e = 4 && d.altWarmed e)).map (fun e =>
      ({ owner := 2 ^ 64 + e, cells := routeCells (d.route e), grows := !d.flag (F.CIR.BROKEN e) } : WarmPlan))
    let cmds := if d.flag F.TILTH_CFG.RA_EN then
        (d.commitOrder.zipIdx).flatMap (fun (ci : Cmd × Nat) =>
          (ci.1.plansHeld.filter (fun (p : Plan) => !d.raExpired p)).map (fun (p : Plan) =>
            ({ owner := 2 * 2 ^ 64 + ci.1.no, cells := routeCells p.route ++ p.moves.flatMap (fun m => routeCells m.2)
               grows := decide (ci.2 ≠ 0) } : WarmPlan)))
      else []
    let rsvs := if d.flag F.TILTH_CFG.RSV_EN then
        d.tilth.rsv.map (fun (r : Rsv) => ({ owner := 3 * 2 ^ 64 + r.handle, cells := routeCells r.route, grows := true } : WarmPlan))
      else []
    alts ++ cmds ++ rsvs

/-- Charge of a cell at a code, in 10 µW (R158). -/
def Dev.warmCharge (d : Dev) (c code : Nat) : Nat := (d.calRec c).power code - (d.calRec c).power (d.parkCode c)

/-- Sum of the charges of the ledger over chosen cells. -/
def Dev.ledSum (d : Dev) (sel : Nat → Led → Bool) : Nat :=
  ((d.tilth.led.filter (fun (ce : Nat × Led) => sel ce.1 ce.2)).map (fun (ce : Nat × Led) => d.warmCharge ce.1 ce.2.target)).sum

/-- Lit neighbours of a cell. -/
def Dev.litNear (d : Dev) (c : Nat) : List Nat := (adjacent c).filter d.lit

/-- Crosstalk pairs of a tile (R159). -/
def Dev.xtPairs (d : Dev) (t : Nat) : Nat :=
  ((d.tilth.led.filter (fun (ce : Nat × Led) => cellTile ce.1 = t)).map (fun (ce : Nat × Led) => (d.litNear ce.1).length)).sum

/-- WARM neighbours of a cell. -/
def Dev.warmNear (d : Dev) (c : Nat) : Nat := ((adjacent c).filter (fun x => (AMap.find d.tilth.led x).isSome)).length

/-- Hold-off in a tile (R163). -/
def Dev.heldOff (d : Dev) (t : Nat) : Bool := (AMap.find d.tilth.holdoff t).isSome

/-- A neighbour is moving by a commit: SWITCH, SETTLE or PIECE. -/
def Dev.movingNear (d : Dev) (c : Nat) : Bool :=
  (adjacent c).any (fun x => let m := d.cellMode x; m = Cm.switch || m = Cm.settle || m = Cm.piece)

/-- Both power budgets hold a further charge in a tile (R158); cells being undone count. -/
def Dev.powerFits (d : Dev) (t charge : Nat) : Bool :=
  d.ledSum (fun _ _ => true) + charge ≤ d.rd F.TILTH_PWR.TOTAL_MW * 100 &&
  d.ledSum (fun c _ => cellTile c = t) + charge ≤ d.rd F.TILTH_PWR.TILE_MW * 100

/-- Both crosstalk limits hold with a further WARM cell (R159). -/
def Dev.xtFits (d : Dev) (c : Nat) : Bool :=
  d.xtPairs (cellTile c) + (d.litNear c).length ≤ d.rd F.TILTH_LIM.XT_PAIRS &&
  (d.litNear c).all (fun x => decide (d.warmNear x + 1 ≤ 2))

/-- Whether a tile exceeds a crosstalk limit, so that its ramps beside lit cells run one at a time (R159). -/
def Dev.xtOver (d : Dev) (t : Nat) : Bool :=
  decide (d.rd F.TILTH_LIM.XT_PAIRS < d.xtPairs t) ||
  d.tilth.led.any (fun (ce : Nat × Led) => cellTile ce.1 = t && (d.litNear ce.1).any (fun x => decide (2 < d.warmNear x)))

/-- Ramp length (R157). -/
def Dev.warmPicks (d : Dev) : Nat := max 16 (min 64 (d.rd F.TILTH_CFG.WARM_PICKS))

/-- Code of step i of a ramp (R157, R59 rule 4). -/
def rampCode (start stop i w : Nat) : Nat := ((start : Int) + divRound (((stop : Int) - start) * i) w).toNat

/-- Starts a warm ramp toward a code from the code in force for an owner. -/
def Dev.warmTo (d : Dev) (c owner code : Nat) (cross : Bool) : Dev :=
  let e : Led := { owner := owner, target := code, cross := cross, start := d.thCode c, stop := code, i := 0, len := d.warmPicks
                   undoing := none, waiting := false, last := d.pick.num }
  ({ d with tilth := { d.tilth with led := AMap.put d.tilth.led c e } }).updAux c (fun a => { a with cross := cross })

/-- The plan for which a cell is kept warm: the first in priority order that wants it in that state (R153, R155). -/
def Dev.warmOwner (d : Dev) (c : Nat) (e : Led) : Option WarmPlan :=
  d.warmPlans.find? (fun (p : WarmPlan) => p.cells.contains (c, e.cross))

/-- The power charge of the cells that stay warm: all of them, and those of a tile (R158). -/
def Dev.keptSum (d : Dev) : Nat := d.ledSum (fun _ e => e.undoing.isNone)
def Dev.keptIn (d : Dev) (t : Nat) : Nat := d.ledSum (fun c e => cellTile c = t && e.undoing.isNone)

/-- Undoes reservation cells, the newest reservation first and its cells in reverse path order, until a cell of higher priority fits for
power; where the tile's budget alone is short, cells of that tile only (R158). -/
def Dev.makeRoom (d : Dev) (t charge : Nat) : Dev :=
  let cells := ((d.warmPlans.filter (fun (p : WarmPlan) => decide (p.owner / 2 ^ 64 = 3))).reverse.flatMap (fun (p : WarmPlan) =>
    (p.cells.reverse.map (·.1)).filter (fun c => match AMap.find d.tilth.led c with
      | some e => e.undoing.isNone && (d.warmOwner c e).any (fun (q : WarmPlan) => q.owner = p.owner)
      | none => false)))
  forEach cells (fun c (d : Dev) =>
    if d.rd F.TILTH_PWR.TOTAL_MW * 100 < d.keptSum + charge ||
       (d.rd F.TILTH_PWR.TILE_MW * 100 < d.keptIn t + charge && cellTile c = t) then d.startUndo c 6
    else d) d

/-- The place of an owner among the plans in priority order (R153); one that is no plan any more comes after all. -/
def Dev.planRank (d : Dev) (owner : Nat) : Nat :=
  let ps := d.warmPlans
  ps.findIdx (fun (p : WarmPlan) => p.owner = owner)

/-- A commit whose boundary is still to come changes the cell. -/
def Dev.commitTakes (d : Dev) (c : Nat) : Bool := d.cir.due.any (fun (u : Due) => u.acts.any (fun (x : CellTrig) => x.cell = c))

/-- The warm lifetime of a run-ahead plan runs from its first warm admission (R153). -/
def Dev.noteWarm (d : Dev) (owner : Nat) : Dev :=
  if owner / 2 ^ 64 ≠ 2 then d
  else
    let mark := fun (p : Plan) => { p with warmTb := some (p.warmTb.getD d.time.tb) }
    { d with cir := { d.cir with queue := d.cir.queue.map (fun (q : Cmd) =>
      if q.no = owner % 2 ^ 64 then { q with plan := q.plan.map mark, mplans := q.mplans.map (fun (m : Nat × Plan) => (m.1, mark m.2)) } else q) } }

/-- The first step of a cell's warm ramp fits the rise budget (R156). -/
def Dev.rampFits (d : Dev) (c code : Nat) : Bool :=
  d.riseFits (cellTile c) (d.riseOf c (rampCode (d.thCode c) code 1 d.warmPicks))

/-- Admission of one cell for one plan at a beat boundary (R155, R156): a cell that is WARM already is shared with the owner of higher
priority, taken over, or retargeted out of an undo. -/
def Dev.admitCell (d : Dev) (p : WarmPlan) (c : Nat) (x : Bool) : Dev :=
  let code := d.targetCode c x
  let t := cellTile c
  let closed := d.heldOff t || d.throttle ≥ 2 || d.movingNear c || !p.grows || d.tileMode t ≠ Tm.active ||
    (d.caux c).moved = some d.pick.num || d.cell.pend.any (fun (y : CellTrig) => y.cell = c) || d.commitTakes c
  match AMap.find d.tilth.led c with
  | some e =>
    let before := decide (d.planRank p.owner < d.planRank e.owner)
    if e.undoing.isNone && e.cross = x then
      if before then { d with tilth := { d.tilth with led := AMap.put d.tilth.led c { e with owner := p.owner } } } else d
    else if (e.undoing.isNone && !before) || closed then d
    else if !d.powerFits t (d.warmCharge c code - d.warmCharge c e.target) || d.xtOver t || !d.rampFits c code then d
    else (d.warmTo c p.owner code x).noteWarm p.owner
  | none =>
    if d.cellMode c ≠ Cm.parked || closed then d
    else
      let charge := d.warmCharge c code
      let d := if d.powerFits t charge then d else if p.owner < 3 * 2 ^ 64 then d.makeRoom t charge else d
      if !d.powerFits t charge || !d.xtFits c || !d.rampFits c code then d
      else ((d.applyAct c (.warm code x p.owner)).warmTo c p.owner code x).noteWarm p.owner

/-- Admission at a beat boundary: pair role ACTIVE only, not while a take-back empties the ledger (R156, R165). -/
def Dev.tilthAdmit (d : Dev) : Dev :=
  if !d.isActive || d.tilth.stopped then d
  else forEach d.warmPlans (fun (p : WarmPlan) (d : Dev) => forEach p.cells (fun (cx : Nat × Bool) (d : Dev) => d.admitCell p cx.1 cx.2) d) d

/-- Undo triggers (R163) for cells, at rank 7. -/
def Dev.undoCells (d : Dev) (cells : List Nat) (cause : Nat) : Dev :=
  forEach cells (fun c (d : Dev) => if d.cellMode c = Cm.warm then d.trigger c 7 (.undo cause) else d) d

/-- Whether an owner is a run-ahead plan whose warm lifetime has passed. -/
def Dev.ownerExpired (d : Dev) (owner : Nat) : Bool :=
  d.cir.queue.any (fun (q : Cmd) => decide (2 * 2 ^ 64 + q.no = owner) && q.plansHeld.any (fun (p : Plan) => d.raExpired p))

/-- Warm cells that no plan wants any more in the state they go to are undone; a cell that another plan shares changes its
owner; the cells of a plan whose lifetime passed count as TIMEOUT; those that a commit on its way takes are left to it (R155, R163,
R164). -/
def Dev.tilthSweep (d : Dev) (cause : Nat) : Dev :=
  forEach d.tilth.led (fun (ce : Nat × Led) (d : Dev) =>
    if ce.2.undoing.isSome || d.commitTakes ce.1 then d
    else match d.warmOwner ce.1 ce.2 with
      | some p =>
        if d.warmPlans.any (fun (q : WarmPlan) => q.owner = ce.2.owner && q.cells.contains (ce.1, ce.2.cross)) then d
        else { d with tilth := { d.tilth with led := AMap.put d.tilth.led ce.1 { ce.2 with owner := p.owner } } }
      | none => d.undoCells [ce.1] (if d.ownerExpired ce.2.owner then 1 else cause)) d

/-- Every WARM cell of a tile is undone and admission held off (R163, TILE_FAULT); in HOLDOVER the undo ramps start on return, and
OFFLINE drops the entries without ramps (R110). -/
def Dev.tilthTileFault (d : Dev) (t : Nat) : Dev :=
  let d := { d with tilth := { d.tilth with holdoff := AMap.put d.tilth.holdoff t none } }
  if d.tileMode t ≠ Tm.holdover ∧ d.tileMode t ≠ Tm.offline then
    d.undoCells ((d.tilth.led.filter (fun (ce : Nat × Led) => cellTile ce.1 = t && ce.2.undoing.isNone)).map (·.1)) 4
  else d

/-- Whether a cause that holds off a tile still stands: a FAULTED cell, a tile not ACTIVE, a Weft source of MAJOR or above. -/
def Dev.tileCause (d : Dev) (t : Nat) : Bool :=
  d.tileMode t ≠ Tm.active ||
  d.cell.aux.any (fun (ca : Nat × CellAux) => cellTile ca.1 = t && d.cellMode ca.1 = Cm.faulted) ||
  (List.range 16).any (fun s => bit (d.rd (F.EV_STATUS.ACTIVE (0x0D + t))) s &&
    (let l := (AMap.get d.ev.src ((0x0D + t) * 32 + s) ({} : SrcS)).lvl
     decide (2 ≤ l ∧ l ≤ 4)))

/-- At a boundary: a hold-off whose cause has cleared starts to run (R163). -/
def Dev.holdoffBoundary (d : Dev) : Dev :=
  forEach d.tilth.holdoff (fun (th : Nat × Option Nat) (d : Dev) =>
    if d.tileCause th.1 then { d with tilth := { d.tilth with holdoff := AMap.put d.tilth.holdoff th.1 none } }
    else match th.2 with
      | some _ => d
      | none =>
        let until_ := d.time.tb + d.rd F.TILTH_LIM.HOLDOFF_MS * 1000000
        { d with tilth := { d.tilth with holdoff := AMap.put d.tilth.holdoff th.1 (some until_) } }) d

/-- TILTH_HOLDOFF_EXPIRY: HOLDOFF_MS after the cause cleared, admission resumes. -/
def Dev.holdoffExpiry (d : Dev) (t : Nat) : Dev :=
  match AMap.find d.tilth.holdoff t with
  | some (some until_) =>
    if d.tileCause t then d
    else d.fire until_ (fun d => { d with tilth := { d.tilth with holdoff := AMap.del d.tilth.holdoff t } })
  | _ => d

/-- Undoes cells from the lowest priority upward, each plan's in reverse path order, until both sums fit a lowered budget (R158). -/
def Dev.tilthBudget (d : Dev) : Dev :=
  let order := d.warmPlans.reverse.flatMap (fun (p : WarmPlan) => (p.cells.reverse.map (·.1)).filter (fun c =>
    match AMap.find d.tilth.led c with
    | some e => e.undoing.isNone && (d.warmOwner c e).any (fun (q : WarmPlan) => q.owner = p.owner)
    | none => false))
  forEach order.eraseDups (fun c (d : Dev) =>
    if d.rd F.TILTH_PWR.TOTAL_MW * 100 < d.keptSum || d.rd F.TILTH_PWR.TILE_MW * 100 < d.keptIn (cellTile c) then d.startUndo c 6 else d) d

/-- A tile whose band has changed: WARM cells that hold or approach their target are retargeted (R157). -/
def Dev.tilthBand (d : Dev) (t : Nat) : Dev :=
  forEach d.tilth.led (fun (ce : Nat × Led) (d : Dev) =>
    if cellTile ce.1 = t && ce.2.undoing.isNone then d.warmTo ce.1 ce.2.owner (d.targetCode ce.1 ce.2.cross) ce.2.cross else d) d

/-- A ramp waits for its turn: the tile is over a limit, the cell is beside a lit one, and a lower-numbered cell beside a lit one
is still ramping (R159). -/
def Dev.rampTurn (d : Dev) (c : Nat) : Bool :=
  let t := cellTile c
  !(d.xtOver t && !(d.litNear c).isEmpty &&
    d.tilth.led.any (fun (ce : Nat × Led) => decide (ce.1 < c) && cellTile ce.1 = t && decide (ce.2.i < ce.2.len) && !(d.litNear ce.1).isEmpty))

/-- RAMP_STEP of a warm or undo ramp (R157): once in a pick, an undo in a FENCED tile included (R110); a step that raises power is charged at rank 4 and waits when it
does not fit; an undo that reaches PARK_CODE parks the cell at the boundary. -/
def Dev.rampStep (d : Dev) (c : Nat) : Dev :=
  match AMap.find d.tilth.led c with
  | none => d
  | some e =>
    if e.len ≤ e.i || e.last = d.pick.num + 1 || (d.tileMode (cellTile c) ≠ Tm.active && !(d.tileMode (cellTile c) = Tm.fenced && e.undoing.isSome)) ||
       !d.rampTurn c then d
    else
      let code := rampCode e.start e.stop (e.i + 1) e.len
      let go := if d.thCode c ≤ code then d.riseTry c code else (d, true)
      let d := go.1
      let put := fun (d : Dev) (e : Led) => ({ d with tilth := { d.tilth with led := AMap.put d.tilth.led c e } } : Dev)
      if !go.2 then put d { e with waiting := true, last := d.pick.num + 1 }
      else
        let d := (d.moveTh c code).sendCode (cellLoop c) code
        let d := put d { e with i := e.i + 1, waiting := false, last := d.pick.num + 1 }
        if e.undoing.isSome && e.i + 1 = e.len then d.trigger c 7 .undone else d

/-! ## Plan status and reservations -/

/-- A cell with a state holds its target: WARM at the target code of its band, or lit in that state already (R162). -/
def Dev.cellReady (d : Dev) (own : List (Nat × Bool)) (c : Nat) (x : Bool) : Bool :=
  own.contains (c, x) ||
  (match AMap.find d.tilth.led c with
   | some e => e.undoing.isNone && e.cross = x && decide (e.len ≤ e.i) && decide (d.thCode c = d.targetCode c x)
   | none => false)

/-- Plan status ARMED of a route (R162). -/
def Dev.planArmed (d : Dev) (own r : List Hop) : Bool := (routeCells r).all (fun cx => d.cellReady (routeCells own) cx.1 cx.2)

/-- Plan status of an armed alternate. -/
def Dev.altArmed (d : Dev) (e : Nat) : Bool :=
  d.planArmed (((d.liveOf (d.eId e)).map d.route).getD []) (d.route e)

/-- Discards a reservation (R154); its cells are undone. -/
def Dev.dropRsv (d : Dev) (handle cause : Nat) : Dev :=
  ({ d with tilth := { d.tilth with rsv := d.tilth.rsv.filter (fun (r : Rsv) => r.handle ≠ handle) } }).tilthSweep cause

/-- After a commit each reservation is replanned by the same rule; discarded when an end is in use or no route remains.  A route that
still stands on the tiles and trunks of the new plan is kept: which path the search takes in a tile is open. -/
def Dev.replanRsv (d : Dev) (pick : Nat) : Dev :=
  forEach d.tilth.rsv (fun (r : Rsv) (d : Dev) =>
    let o := d.obst 0 .free none
    let endUsed := d.liveEntries.any (fun e => d.rd (F.CIR.IN_PORT e) = r.inPort || d.rd (F.CIR.OUT_PORT e) = r.outPort)
    if endUsed then (d.dropRsv r.handle 2).raise 0x0A 9 r.handle 0
    else match d.planRoute o true pick r.via r.inPort r.outPort with
      | none => (d.dropRsv r.handle 2).raise 0x0A 9 r.handle 0
      | some rt =>
        let ports := fun (q : List Hop) => q.map (fun (h : Hop) => (h.tile, h.inp, h.out))
        if ports rt = ports r.route && d.routeFits o true r.route then d
        else ({ d with tilth := { d.tilth with rsv := d.tilth.rsv.map (fun (x : Rsv) =>
          if x.handle = r.handle then { x with route := rt } else x) } }).tilthSweep 2) d

/-- RESERVATION_TIMEOUT (R163). -/
def Dev.rsvTimeout (d : Dev) (handle : Nat) : Dev :=
  match d.tilth.rsv.find? (fun (r : Rsv) => r.handle = handle) with
  | some r => d.fire r.untilTb (fun d => d.dropRsv handle 1)
  | none => d

/-- RA_WARM_TIMEOUT (R163): the plan's cells are undone. -/
def Dev.raTimeout (d : Dev) (no : Nat) : Dev :=
  match ((d.cir.queue.find? (fun (q : Cmd) => q.no = no)).bind (fun (q : Cmd) => q.plansHeld.head?)).bind (fun (p : Plan) => p.warmTb) with
  | some t => d.fire (t + max 1 (d.rd F.TILTH_TMO.RA_WARM_MS) * 1000000) (fun d => d.tilthSweep 1)
  | none => d

/-- The ledger is dropped without ramps when the unit stops controlling the fabric (R112, R165); its cells stand as they were mirrored,
PARKED at PARK_CODE. -/
def Dev.tilthDiscard (d : Dev) : Dev :=
  let d := forEach d.tilth.led (fun (ce : Nat × Led) (d : Dev) =>
    let d := if ce.2.undoing.isNone then d.countUndo 5 else d
    if d.cellMode ce.1 = Cm.warm then (d.wr (F.CELL.MODE ce.1) Cm.parked).putTh ce.1 (d.parkCode ce.1) else d) d
  { d with tilth := { d.tilth with led := [], rsv := [], stopped := false } }

end Sys2Proof.Machine
end

