-- ==== Sys2Proof/Machine/Circuits.lean ====
section
/-! DEFINITION. The Circuit unit (chapter 06): commit order, checks at the commit point, commits, slices of the FC energy
budget, protection switches, restoration, broken routes. -/

namespace Sys2Proof.Machine

/-! ## Parameters (R297) and results (R298) -/

def CirPar.noDark (p : CirPar) : Bool := bit p.flags 4
def CirPar.restore (p : CirPar) : Bool := bit p.flags 5
def CirPar.auto (p : CirPar) : Bool := bit p.flags 6
def CirPar.keep (p : CirPar) : Bool := bit p.flags 7
def CirPar.groupValid (p : CirPar) : Bool := bit p.flags 8
def CirPar.protGroup (p : CirPar) : Nat := bits p.flags 11 9
def CirPar.byGroup (p : CirPar) : Bool := bit p.flags 12
def CirPar.viaTile (p : CirPar) : Option Nat := if bit p.flags 3 then some p.via else none

/-- The result of a circuit item (R298). -/
def cirResult (csn pick handover spread moves flags count : Nat) : List Byte :=
  beBytes 4 csn ++ beBytes 8 pick ++ beBytes 2 handover ++ beBytes 1 spread ++ beBytes 1 moves ++ beBytes 1 flags ++
  beBytes 1 0 ++ beBytes 2 count

/-- The result with no field that applies. -/
def cirNone : List Byte := cirResult 0 0 0 0 0 0 0

/-- What a command does at its commit point: it waits, having done what it says first; it needs a circuit moved, or the piece of an entry
ended, before it can commit; it fails with a status and writes nothing; it fails with the items of its members ended; or it commits. -/
inductive CRes where
  | wait (d : Dev)
  | move (m : MoveProp)
  | abort (e : Nat)
  | fail (status : Nat)
  | failed (d : Dev) (status : Nat)
  | ok (d : Dev)

/-! ## Energy slices (R137) -/

/-- FC_START of a cell that goes to a code at an instant. -/
def Dev.fcStartTo (d : Dev) (c code tb : Nat) : Nat :=
  let r := d.calRec c
  let h := d.heaterAt c tb
  let t := r.power code * 65536
  let lag := if h ≤ t then t - h else h - t
  let ppi := max 1 (r.p2pi / 2)
  let share := (divRound (lag * 1024 : Nat) (ppi * 65536)).toNat
  min 1024 (divRound (share * 16384 : Nat) (max 1 r.fcEff)).toNat

/-- FC charge of a cell's change in pJ: FC_E_CELL times the share of a half-turn in its start code. -/
def Dev.fcCharge (d : Dev) (c : Nat) (x : Bool) (tb : Nat) : Nat :=
  (d.calRec c).fcE * d.fcStartTo c (d.targetCode c x) tb / 1024

/-- The budget of a pick in pJ: EBUDGET × 10 nJ × (pick length ÷ 5 µs). -/
def Dev.fcBudget (d : Dev) : Nat := max 1 (d.rd F.FC_BUDGET.EBUDGET) * 2 * d.pickNs

/-- The first boundary from b on at which a charge fits, or at which it stands alone; `used` is what earlier commits charged. -/
def sliceAt (used : List (Nat × Nat)) (budget charge : Nat) : Nat → Nat → Nat
  | 0, b => b
  | n + 1, b =>
    let u := AMap.get used b 0
    if u = 0 || u + charge ≤ budget then b else sliceAt used budget charge n (b + 1)

/-- The boundary of a commit's slice.  A protection switch is charged first: it starts from the next boundary and reckons with other
protection switches only; any other commit never starts from a boundary before the last slice of the commit before it. -/
def Dev.slice (d : Dev) (charge : Nat) (isProt : Bool) : Dev × Nat :=
  let k := d.pick.num + 1
  let live := d.cir.fcUsed.filter (fun (bu : Nat × Nat) => decide (k ≤ bu.1))
  let first := d.cir.due.foldl (fun (m : List (Nat × Nat)) (u : Due) => if u.prot then AMap.set m u.at_ (AMap.get m u.at_ 0 + u.charge) 0 else m) []
  let b := if isProt then sliceAt first d.fcBudget charge (first.length + 1) k
    else sliceAt live d.fcBudget charge (live.length + 1) (max k d.cir.lastSlice)
  ({ d with cir := { d.cir with fcUsed := AMap.set live b (AMap.get live b 0 + charge) 0, lastSlice := max b d.cir.lastSlice } }, b)

/-- Notes the slice of an entry's commit (R137, R152). -/
def Dev.noteSlice (d : Dev) (e b s charge : Nat) : Dev :=
  let d := d.wr F.SPREAD_STAT.LAST_SPREAD (min s 255)
  let d := d.wr F.SPREAD_STAT.MAX_SPREAD (max (d.rd F.SPREAD_STAT.MAX_SPREAD) (min s 255))
  let d := if s = 0 then d else (d.countN 0x1A 0 1).raise 0x2C 2 0xFF (charge / 1000)
  if d.rd (F.CIR.STATE e) = 0 then d else (d.wr (F.CIR.COMMIT_PICK e) b).wr (F.CIR.SPREAD e) (min s 255)

/-- The drives that other commits had placed for a boundary move behind what a protection switch takes of its budget, the last first
(R137). -/
def Dev.makeWay (d : Dev) (b : Nat) : Dev :=
  forEach (d.cir.due.filter (fun (u : Due) => u.at_ = b && !u.prot && u.charge ≠ 0)).reverse (fun (u : Due) (d : Dev) =>
    if AMap.get d.cir.fcUsed b 0 ≤ d.fcBudget then d
    else
      let used := AMap.set d.cir.fcUsed b (AMap.get d.cir.fcUsed b 0 - u.charge) 0
      let b2 := sliceAt used d.fcBudget u.charge (used.length + 1) (b + 1)
      let s := d.rd (F.CIR.SPREAD u.entry) + (b2 - b)
      let d := { d with cir := { d.cir with
        due := d.cir.due.map (fun (x : Due) => if x = u then { x with at_ := b2 } else x)
        fcUsed := AMap.set used b2 (AMap.get used b2 0 + u.charge) 0
        lastSlice := max b2 d.cir.lastSlice
        pieces := d.cir.pieces.map (fun (p : Piece) => if p.entry = u.entry && p.start = b then { p with start := b2 } else p)
        waits := d.cir.waits.map (fun (w : CirWait) => if w.entries.contains u.entry && w.pick = b then { w with pick := b2 } else w) } }
      d.noteSlice u.entry b2 s u.charge) d

/-! ## Mirror of a commit (R345) -/

/-- Sends a COMMIT version with the accounting tuples of the items (R289). -/
def Dev.mirrorCommit (d : Dev) (csn : Nat) (recs : List (Nat × MirBody)) (items : List Nat) : Dev :=
  if !d.controls then d
  else
    let tup := items.filterMap (fun i => (d.item i).map (fun (r : ItemRec) =>
      ((0 : Nat), MirBody.tuple r.hostId r.src.seq r.src.tag r.op csn St.pending)))
    let rs : List MirRec := (recs ++ tup ++ [(0, MirBody.mark)]).map (fun (ob : Nat × MirBody) =>
      { typ := 1, version := csn, obj := ob.1, close := decide (ob.2 = MirBody.mark), retry := false, body := ob.2 })
    let v : MirVer := { config := false, version := csn, recs := rs, resends := 0, lastTb := d.time.tb, items := items }
    let d := d.sendRecs rs
    let d := { d with slv := { d.slv with
      unacked := if d.peerStandby then d.slv.unacked ++ [v] else d.slv.unacked } }
    let d := forEach items (fun i (d : Dev) => d.updItem i (fun r => { r with committed := true, csn := csn })) d
    d.count 0x67

/-- The record and SP of a cell as the commit leaves it (R104, R345): MODE, TARGET_CODE and SP that its drives bring at the commit
boundary.  A cell with no drive in waiting is reported as it stands. -/
def Dev.cellAfter (d : Dev) (c : Nat) : List Nat × Nat :=
  let us := d.cir.due.filter (fun (u : Due) => u.acts.any (fun (t : CellTrig) => t.cell = c))
  let now := d.cellReport c
  let sp := d.rd (F.LOOP.SP (cellLoop c))
  match us.getLast? with
  | none => (now, sp)
  | some u =>
    let put := fun (m code : Nat) => [putBits (putBits (now.headD 0) 7 4 (bits (now.headD 0) 3 0)) 3 0 m,
      putBits (now.getD 1 0) 15 0 code, bits (now.getD 2 0) 23 16 * 65536, u.at_ % 2 ^ 32]
    let fixed := fun (x : Nat) => (AMap.find (u.sps.filter (fun ls => ls.1 = cellLoop c)) (cellLoop c)).getD x
    match (u.acts.filter (fun (t : CellTrig) => t.cell = c)).getLast? with
    | some t => match t.act with
      | .commit x => (put Cm.switch (d.targetCode c x), fixed (d.stateSp c x))
      | .park => (put Cm.parked (bits (now.getD 1 0) 15 0), sp)
      | .pieceStart v => (put Cm.piece (bits (now.getD 1 0) 15 0), v)
      | _ => (now, sp)
    | none => (now, sp)

/-- The records of a commit: entries, the cells changed as the commit leaves them, their SP, the VOA SP. -/
def Dev.commitRecs (d : Dev) (entries cells : List Nat) (sps : List (Nat × Nat)) : List (Nat × MirBody) :=
  entries.map (fun e => (e, MirBody.entry (d.entryWords e))) ++
  cells.flatMap (fun c => let x := d.cellAfter c; [(c, MirBody.cell x.1), (cellLoop c, MirBody.loopSp x.2)]) ++
  sps.map (fun ls => (ls.1, MirBody.loopSp ls.2)) ++
  (d.cir.pins.filter (fun (np : Nat × ProtPin) => np.2.deb && np.2.served)).map (fun (np : Nat × ProtPin) =>
    (np.1, MirBody.protTime np.1 np.2.edge))

/-! ## The commit of a route -/

/-- Takes the next CSN (R125). -/
def Dev.nextCsn (d : Dev) : Dev :=
  ({ d with cir := { d.cir with csn := (d.cir.csn + 1) % 2 ^ 32 } }).count 0x10

/-- VOA loops of a route's output ports. -/
def routeVoas (r : List Hop) : List Nat := r.map (fun (h : Hop) => voaLoop h.tile h.out)

/-- The cells whose state a change of route alters, with the state they go to. -/
def changedCells (old new : List Hop) : List (Nat × Bool) :=
  let o := routeCells old
  (routeCells new).filter (fun cx => !o.contains cx)

/-- The old cells that leave the route. -/
def leavingCells (old new : List Hop) : List Nat :=
  let n := (routeCells new).map (·.1)
  ((routeCells old).map (·.1)).filter (fun c => !n.contains c)

/-- Counts a commit by how many of its changed cells took the fast path (R164). -/
def Dev.countHits (d : Dev) (changed : List (Nat × Bool)) : Dev :=
  let fast := changed.filter (fun cx => d.cellReady [] cx.1 cx.2)
  if changed.isEmpty || fast.isEmpty then d
  else if fast.length = changed.length then (d.bump F.TILTH_HITS.FAST 1).count 0x21
  else (d.bump F.TILTH_HITS.PARTIAL 1).count 0x22

/-- Places the drives of a change of route into the frames of its boundary (R126 stage 4, R128): answers the boundary and the slice.
`again`: cells of the old route that are committed cold with the rest (R150). -/
def Dev.placeDrives (d : Dev) (e : Nat) (old new : List Hop) (isProt : Bool) (sps : List (Nat × Nat)) (join again : List (Nat × Bool)) :
    Dev × Nat × Nat :=
  let changed := (changedCells old new).map (fun cx => (join.find? (fun (j : Nat × Bool) => j.1 = cx.1)).getD cx) ++ again
  let tb := d.tbOf (d.pick.num + 1)
  let charge := (changed.map (fun cx => d.fcCharge cx.1 cx.2 tb)).sum
  let (d, b) := d.slice charge isProt
  let rank := if isProt then 3 else 4
  let acts : List CellTrig := changed.map (fun cx => ({ cell := cx.1, rank := rank, act := .commit cx.2 } : CellTrig)) ++
    (leavingCells old new).map (fun c => ({ cell := c, rank := rank, act := .park } : CellTrig))
  let egress := (new.getLast?.map (fun (h : Hop) => voaLoop h.tile h.out)).toList
  let was := (old.getLast?.map (fun (h : Hop) => voaLoop h.tile h.out)).toList
  let u : Due := { at_ := b, entry := e, acts := acts, voas := (routeVoas old ++ routeVoas new).eraseDups
                   opens := egress.filter (fun l => !was.contains l), sps := sps, was := d.routeUses e old, charge := charge, prot := isProt }
  let d := { d with cir := { d.cir with due := d.cir.due ++ [u], applied := AMap.del d.cir.applied e } }
  (if isProt then d.makeWay b else d, b, b - (d.pick.num + 1))

/-- Places the drives and writes what the entry says of the commit: answers the boundary. -/
def Dev.placeRoute (d : Dev) (e : Nat) (old new : List Hop) (isProt : Bool) (sps : List (Nat × Nat)) (join again : List (Nat × Bool)) :
    Dev × Nat :=
  let x := d.placeDrives e old new isProt sps join again
  let charge := ((x.1.cir.due.getLast?.map (fun (u : Due) => u.charge)).getD 0)
  ((((x.1.noteSlice e x.2.1 x.2.2 charge).wr (F.CIR.CSN e) d.cir.csn).setFlag (F.CIR.SETTLED e) false), x.2.1)

/-- What follows every commit: cells relit, reservations replanned, warm cells that left every plan undone (R154, R163). -/
def Dev.afterCommit (d : Dev) (cells : List Nat) (pick : Nat) : Dev := ((d.relight cells).replanRsv pick).tilthSweep 2

/-! ## Checks at the commit point (R123) -/

/-- An end is used by another circuit or by another alternate (R119). -/
def Dev.endBusy (d : Dev) (id inPort outPort : Nat) : Bool :=
  d.usedEntries.any (fun e => d.eId e ≠ id && (d.rd (F.CIR.IN_PORT e) = inPort || d.rd (F.CIR.OUT_PORT e) = outPort))

/-- The transition of a tile that takes effect at the next boundary, of those of the pick: a fatal fault, then OFFLINE, then HOLDOVER, then
the first of the others (DESIGN CHOICE, assumption 38: R108 gives no order). -/
def Dev.tileNext (d : Dev) (t : Nat) : Option TileTrig :=
  let rank := fun (x : TileTrig) => if x.fatal then 0 else if x.mode = Tm.offline then 1 else if x.mode = Tm.holdover then 2 else 3
  (d.weft.tileTrig.filter (fun (x : TileTrig) => x.tile = t)).foldl (fun (b : Option TileTrig) (x : TileTrig) => match b with
    | some y => if rank x < rank y then some x else b
    | none => some x) none

/-- A tile's mode as it will stand at the next boundary: that of the transition of this pick that takes effect there (R100, R108). -/
def Dev.tileSoon (d : Dev) (t : Nat) : Nat :=
  match d.tileNext t with
  | some x => x.mode
  | none => d.tileMode t

/-- What the tiles that a command touches say of it (R127): a tile in HOLDOVER, or about to be, lets it wait (the second component) or
fails it; one that went OFFLINE while it waited fails it. -/
def Dev.touchStatus (d : Dev) (tiles : List Nat) (timed waited : Bool) : Nat × Bool :=
  if waited && tiles.any (fun t => d.tileMode t = Tm.offline) then (St.tileOffline, false)
  else if tiles.any (fun t => d.tileMode t = Tm.holdover || d.tileSoon t = Tm.holdover) then
    if d.flag F.CIRC_CFG.HOLDOVER_WAIT && !timed then (0, true) else (St.tileHoldover, false)
  else (0, false)

/-- The tiles of routes. -/
def routeTiles (r : List Hop) : List Nat := r.map (fun (h : Hop) => h.tile)

/-- The status of the tiles of a change of route: those of the new route must be ACTIVE (R123), those of both are touched. -/
def Dev.tilesStatus (d : Dev) (old r : List Hop) (timed waited : Bool) : Nat × Bool :=
  let ms := r.map (fun (h : Hop) => d.tileMode h.tile)
  let t := d.touchStatus (routeTiles (old ++ r)) timed waited
  if ms.any (fun m => decide (m = Tm.cal ∨ m = Tm.fenced)) then (St.tileNotActive, false)
  else if !waited && ms.contains Tm.offline then (St.tileNotActive, false)
  else t

/-- A cell's commit would be outranked at the next boundary by a cell fault or a tile-mode change (R100). -/
def Dev.outranked (d : Dev) (c : Nat) : Bool :=
  d.tileSoon (cellTile c) = Tm.fenced || d.tileSoon (cellTile c) = Tm.offline ||
  d.cell.pend.any (fun (t : CellTrig) => t.cell = c && decide (t.rank ≤ 2))

/-- The status of the cells a commit changes: faults and outranking triggers, freezes, EN = 0, calibration (R100, R102, R123). -/
def Dev.cellsStatus (d : Dev) (changed : List (Nat × Bool)) (route : List (Nat × Bool)) : Nat :=
  let cs := changed.map (·.1)
  if cs.any (fun c => d.cellMode c = Cm.faulted || d.outranked c) then St.cellFault
  else if cs.any (fun c => d.cellMode c = Cm.frozen) then St.cellFrozen
  else if route.any (fun cx => !d.flag (F.LOOP.EN (cellLoop cx.1))) || cs.any (fun c => d.cellMode c = Cm.cal) then St.modeRefused
  else St.ok

/-- A cell that would switch has a target entry that is not written to its tile yet (R433). -/
def Dev.entriesWait (d : Dev) (changed : List (Nat × Bool)) : Bool :=
  changed.any (fun cx =>
    let k := d.link (cellTile cx.1)
    (k.modeQ ++ (k.sent.map (fun (f : DriveFrame) => f.modes)).getD []).any (fun w =>
      w / 2 ^ 56 = 2 && w / 2 ^ 38 % 4096 = cx.1 % 3840 && w / 2 ^ 34 % 4 ≠ 2))

/-- Whether a given route may be used: it follows the draft, keeps R28 with other circuits, uses no cell in CAL (R134). -/
def Dev.explicitOk (d : Dev) (o : Obst) (r : List Hop) (inPort outPort : Nat) : Bool :=
  d.routeFollows r inPort outPort &&
  r.all (fun h => o.others.all (keepsRoute (Hop.cells h))) && ownFits o.rule o.own r &&
  r.all (fun h => !(o.others.flatMap (fun r => r.map (fun (h : Hop) => (h.tile, h.out)))).contains (h.tile, h.out)) &&
  (routeCells r).all (fun cx => d.cellMode cx.1 ≠ Cm.cal && d.cellMode (partner cx.1) ≠ Cm.cal)

/-- Alternates that a route cannot leave as they are (R133). -/
def Dev.altConflicts (d : Dev) (r : List Hop) (own : Option Nat) : List Nat :=
  d.altEntries.filter (fun a => some a ≠ own && !(r.all (fun h => keepsRoute (Hop.cells h) (d.route a))))

/-- A piece is refused where either route holds a cell that is FROZEN, FAULTED or in CAL, and in pair role HANDING (R113, R114). -/
def Dev.pieceRefused (d : Dev) (e : Nat) (r : List Hop) : Bool :=
  d.role = Pr.handing || (routeCells (d.route e) ++ routeCells r).any (fun cx =>
    let m := d.cellMode cx.1; m = Cm.frozen || m = Cm.faulted || m = Cm.cal)

/-- Checks a plan's moves in order on a copy of the table (R131 step 5, R132). -/
def Dev.movesOk : List MoveProp → Dev → Option Dev
  | [], d => some d
  | m :: ms, d =>
    match d.liveOf m.id with
    | none => none
    | some e =>
      let o := d.obst m.id .same none
      let old := d.route e
      if d.eState e = 1 && d.routeFollows m.route (d.rd (F.CIR.IN_PORT e)) (d.rd (F.CIR.OUT_PORT e)) && d.routeFits o true m.route &&
         decide (m.route ≠ old) && !d.pieceRefused e m.route && (d.coherent e old m.route || !d.flag (F.CIR.NO_DARK e)) then
        Dev.movesOk ms ((d.writeRoute e m.route).relight ((routeCells old ++ routeCells m.route).map (·.1)))
      else none

/-- Every path in each tile of a sequence, from a standing to the own route: the routes that a move could take (R131 step 3). -/
def Dev.allRoutes (d : Dev) (o : Obst) : List (Nat × Nat × Nat) → Nat → List (List Hop)
  | [], ph => if o.rule = .same && ph = 1 then [] else [[]]
  | tpq :: rest, ph =>
    (d.tilePaths o true tpq.1 tpq.2.1 tpq.2.2).flatMap (fun (h : Hop) =>
      let next := match o.rule with
        | .free => some 0
        | .same => ownHop ph o.own h
      match next with
      | some n => (Dev.allRoutes d o rest n).map (fun r => h :: r)
      | none => [])

/-- The routes that a LIVE circuit could be moved to: its tile's paths, or those through each middle-stage tile and spare twin (R131,
R145). -/
def Dev.moveRoutes (d : Dev) (e : Nat) : List (List Hop) :=
  let g := d.draft.active
  let o := d.obst (d.eId e) .same none
  match Img.inPort g (d.rd (F.CIR.IN_PORT e)), Img.outPort g (d.rd (F.CIR.OUT_PORT e)) with
  | some (a, p), some (b, q) =>
    if d.tileRole a = 4 then d.allRoutes o [(a, p, q)] 0
    else (Img.roleTiles g 2 ++ Img.roleTiles g 5).flatMap (fun v => match d.chooseMiddle o (some v) a b with
      | some (m, t1, t2) => d.allRoutes o [(a, p, t1.1), (m, t1.2, t2.1), (b, t2.2, q)] 0
      | none => [])
  | _, _ => []

/-- Looks for a rearrangement of at most n moves after which the goal gives a route (R131 steps 3 and 5): the moves in order, and the
route. -/
def Dev.searchMoves (id : Nat) (goal : Dev → Option (List Hop)) : Nat → Dev → Option (List MoveProp × List Hop)
  | 0, d => (goal d).map (fun r => ([], r))
  | n + 1, d =>
    match goal d with
    | some r => some ([], r)
    | none => (d.liveEntries.filter (fun e => d.eId e ≠ id)).findSome? (fun e => (d.moveRoutes e).findSome? (fun r =>
        let m : MoveProp := { id := d.eId e, route := r }
        (Dev.movesOk [m] d).bind (fun d2 => (Dev.searchMoves id goal n d2).map (fun x => (m :: x.1, x.2)))))

/-- Shuttle's plan for a command on a table: the given route, a route without moves, a rearrangement, or a route through alternates (R131,
R133, R134).  Of several rearrangements within REARR_MAX moves the operand chooses one; where it names none that holds, one with the fewest
moves is taken.  Answers the route, the moves and whether it goes through an alternate, or a status. -/
def Dev.planFor (d : Dev) (par : CirPar) (rule : OwnRule) (inPort outPort : Nat) (ownAlt : Option Nat) (prop : PlanProp) :
    Except Nat (List Hop × List MoveProp × Bool) :=
  let o := d.obst par.id rule ownAlt
  if !par.route.isEmpty then
    if d.explicitOk o par.route inPort outPort then .ok (par.route, [], !(d.altConflicts par.route ownAlt).isEmpty)
    else .error St.nodeConflict
  else
    let goal := fun (d : Dev) => d.planRoute (d.obst par.id rule ownAlt) true prop.pick par.viaTile inPort outPort
    match goal d with
    | some r => .ok (r, [], false)
    | none =>
      let most := d.rd F.SHTL_CFG.REARR_MAX
      let given : Option (List MoveProp × List Hop) :=
        if prop.moves.isEmpty || decide (most < prop.moves.length) || prop.moves.any (fun (m : MoveProp) => m.id = par.id) then none
        else (Dev.movesOk prop.moves d).bind (fun d2 =>
          if d2.routeFollows prop.route inPort outPort && d2.routeFits (d2.obst par.id rule ownAlt) true prop.route then some (prop.moves, prop.route)
          else none)
      match given.orElse (fun _ => (List.range most).findSome? (fun n => Dev.searchMoves par.id goal (n + 1) d)) with
      | some x => .ok (x.2, x.1, false)
      | none =>
        match d.planRoute { o with alts := [] } false prop.pick par.viaTile inPort outPort with
        | some r => .ok (r, [], true)
        | none => .error St.noRoute

/-- Replans the alternates that a committed route cannot share, or frees them with the loss of protection (R133). -/
def Dev.yieldAlts (d : Dev) (r : List Hop) (own : Option Nat) (pick : Nat) : Dev :=
  forEach (d.altConflicts r own) (fun a (d : Dev) =>
    let id := d.eId a
    let o := d.obst id .free (some a)
    let o := { o with others := r :: o.others }
    let old := (routeCells (d.route a)).map (·.1)
    match d.planRoute o true pick none (d.rd (F.CIR.IN_PORT a)) (d.rd (F.CIR.OUT_PORT a)) with
    | some nr =>
      let d := (d.nextCsn).writeRoute a nr
      let d := ((d.wr (F.CIR.CSN a) d.cir.csn).wr (F.CIR.COMMIT_PICK a) (d.pick.num + 1)).writePath a id false nr
      let d := d.mirrorCommit d.cir.csn (d.commitRecs [a] [] []) []
      (d.relight (old ++ (routeCells nr).map (·.1))).raise 0x0A 4 1 0
    | none =>
      let d := d.nextCsn
      let csn := d.cir.csn
      let d := ((d.freeEntryAt a).clearPath a).relight old
      let d := { d with tilth := { d.tilth with armedOrder := d.tilth.armedOrder.filter (· ≠ a) } }
      let d := d.mirrorCommit csn (d.commitRecs [a] [] []) []
      (d.raise 0x0C 3 id csn)) d

/-- Whether a held plan still holds on the live table (R135): its moves can be carried out in order, and its route fits once they
have been. -/
def Dev.planHolds (d : Dev) (p : Plan) (id : Nat) (rule : OwnRule) (ownAlt : Option Nat) : Bool :=
  match Dev.movesOk (p.moves.map (fun (m : Nat × List Hop) => { id := m.1, route := m.2 })) d with
  | some d' => d'.routeFits (d'.obst id rule ownAlt) (!p.viaAlt) p.route
  | none => false

/-! ## The commands -/

/-- Registers what an item waits for. -/
def Dev.waitFor (d : Dev) (item : Option Nat) (mode : Nat) (entries : List Nat) (pick moves flags count : Nat) : Dev :=
  match item with
  | none => d
  | some i => { d with cir := { d.cir with waits := d.cir.waits ++
      [{ item := i, mode := mode, entries := entries, csn := d.cir.csn, pick := pick, moves := moves, flags := flags, count := count }] } }

/-- Items of a command, for the accounting tuple. -/
def itemsOf (i : Option Nat) : List Nat := i.toList

/-- RFLAGS.LATE. -/
def lateFlag (late : Bool) : Nat := if late then 1 else 0

/-- Whether the rise of a set of changes fits both buckets (R138, R427). -/
def Dev.risesFit (d : Dev) (changed : List (Nat × Bool)) : Bool :=
  (changed.map (fun cx => cellTile cx.1)).eraseDups.all (fun t =>
    d.riseFits t (((changed.filter (fun cx => cellTile cx.1 = t)).map (fun cx => d.riseOf cx.1 (d.targetCode cx.1 cx.2))).sum)) &&
  decide ((((changed.map (fun cx => d.riseOf cx.1 (d.targetCode cx.1 cx.2))).sum : Nat) : Int) ≤ d.weft.bucket ∨ d.weft.bucket = (d.riseRate false * 500 : Nat))

/-- The commits whose boundary has come, before their drives are applied (R138, R164): one whose rise exceeds the budget left is counted and
reported, and its item says so; one that finds cells ready is counted. -/
def Dev.commitsMeet (d : Dev) (us : List Due) : Dev :=
  let changed := fun (u : Due) => u.acts.filterMap (fun (t : CellTrig) => match t.act with
    | .commit x => some (t.cell, x)
    | _ => none)
  (us.foldl (fun (acc : Dev × Dev) (u : Due) =>
    let ch := changed u
    let rise := fun (d : Dev) => ((ch.map (fun cx => d.riseOf cx.1 (d.targetCode cx.1 cx.2))).sum)
    -- the second component charges what the first will charge cell by cell
    let left := ch.foldl (fun (d : Dev) cx => d.riseSpend (cellTile cx.1) (d.riseOf cx.1 (d.targetCode cx.1 cx.2))) acc.2
    let d := acc.1.countHits ch
    if acc.2.risesFit ch then (d, left)
    else
      let d := ((d.bump F.SPREAD_STAT.OVERDRAW_CNT 1).count 0x1B).raise 0x2C 1 0xFF (min (rise d / 100) 0xFFFFFFFF)
      ({ d with cir := { d.cir with waits := d.cir.waits.map (fun (w : CirWait) =>
          if w.mode ≠ 1 && w.entries.contains u.entry then { w with flags := putBit w.flags 2 true } else w) } }, left)) (d, d)).1

/-- Commits an establish on a route (R126, R129). -/
def Dev.commitEstablish (d : Dev) (item : Option Nat) (par : CirPar) (r : List Hop) (moves : Nat) (late : Bool) (pick : Nat) : CRes :=
  match d.freeEntry false with
  | none => .fail St.tableFull
  | some e =>
    let changed := changedCells [] r
    let d := d.nextCsn
    let d := ((d.wr (F.CIR.ID e) par.id).wr (F.CIR.STATE e) 1).wr (F.CIR.IN_PORT e) par.inPort
    let d := ((d.wr (F.CIR.OUT_PORT e) par.outPort).wr (F.CIR.VOA_TARGET e) par.voa).setFlag (F.CIR.NO_DARK e) par.noDark
    let d := (d.setFlag (F.CIR.RESTORE e) par.restore).writeRoute e r
    let sps := (r.getLast?.map (fun (h : Hop) => (voaLoop h.tile h.out, par.voa))).toList
    let (d, b) := d.placeRoute e [] r false sps [] []
    let d := d.writePath e par.id true r
    let d := d.mirrorCommit d.cir.csn (d.commitRecs [e] (changed.map (·.1)) sps) (itemsOf item)
    let d := (d.waitFor item 0 [e] b moves (lateFlag late) 0).count 0x12
    .ok (d.afterCommit (changed.map (·.1)) pick)

/-- Aborts a piece (R144): the pre-piece set-points return, the new route's cells park. -/
def Dev.abortPiece (d : Dev) (p : Piece) (status : Nat) : Dev :=
  let d := { d with cir := { d.cir with pieces := d.cir.pieces.filter (fun (x : Piece) => x.entry ≠ p.entry)
                                        due := d.cir.due.filter (fun (u : Due) => u.entry ≠ p.entry) } }
  let d := d.trigger p.split 4 (.pieceEnd p.spSplit)
  let d := d.trigger p.joinOld 4 (.pieceEnd p.spJoin)
  -- a cell in PIECE goes to HOLD first and parks at the next boundary (R98)
  let inPiece := decide (d.cellMode p.joinNew = Cm.piece)
  let d := if inPiece then d.trigger p.joinNew 4 (.pieceEnd (d.rd (F.LOOP.SP (cellLoop p.joinNew)))) else d
  let d := d.wr (F.LOOP.DITHER_ROW (cellLoop p.joinNew)) 0
  let leave := leavingCells p.new p.old
  let d := forEach (leave.filter (fun c => !(inPiece && c = p.joinNew))) (fun c (d : Dev) => d.trigger c 4 .park) d
  let late : List CellTrig := if inPiece then [{ cell := p.joinNew, rank := 4, act := CellAct.park }] else []
  let d := d.relight (leave ++ (routeCells p.old).map (·.1))
  let d := d.wr (F.CIR.STATE p.entry) (if d.eState p.entry = 3 then 3 else 1)
  let d := (d.writePath p.entry (d.eId p.entry) true p.old)
  let gone : Due := { at_ := d.pick.num + 1, entry := p.entry, acts := [], voas := routeVoas p.new, opens := [], sps := []
                      was := d.routeUses p.entry p.new }
  let last : Due := { at_ := d.pick.num + 2, entry := p.entry, acts := late, voas := [], opens := [], sps := [] }
  let d := { d with cir := { d.cir with due := d.cir.due ++ [gone] ++ (if inPiece then [last] else []) } }
  let rec_ : MirRec := { typ := 6, version := p.csn, obj := p.entry, close := true, retry := false, body := MirBody.piece 4 p.lockAt p.len p.new }
  let d := if d.controls then d.sendRecs [rec_] else d
  let d := (d.count 0x18).raise 0x0C 11 (d.eId p.entry) p.csn
  let d := { d with cir := { d.cir with waits := d.cir.waits.filter (fun (w : CirWait) => !(w.mode = 2 && w.entries.contains p.entry)) } }
  match p.item with
  | some i => d.finishAcked i status (cirResult p.csn p.start 0 0 0 0 0)
  | none => d

/-- What a release takes out of the table: the circuit's entry and route, its alternate, and the cells of both. -/
structure Freed where
  entry : Nat
  id : Nat
  old : List Hop
  alt : Option Nat
  cells : List Nat
  uses : List (Nat × VoaUse)

/-- Whether a release may commit, on the tiles and cells of its route (R100, R127): a status, or to wait. -/
def Dev.releaseReady (d : Dev) (e : Nat) (timed waited : Bool) : Nat × Bool :=
  let r := d.route e
  let t := d.touchStatus (routeTiles r) timed waited
  if t.2 || t.1 ≠ 0 then t
  else if (routeCells r).any (fun cx => d.outranked cx.1) then (St.cellFault, false)
  else (0, false)

/-- Frees a circuit's entries (R122): the table as it stands once the release is done. -/
def Dev.freeCircuit (d : Dev) (e : Nat) : Dev × Freed :=
  let id := d.eId e
  let old := d.route e
  let alt := d.altOf id
  let cells := (routeCells old).map (·.1) ++ ((alt.map (fun a => (routeCells (d.route a)).map (·.1))).getD [])
  let f : Freed := { entry := e, id := id, old := old, alt := alt, cells := cells, uses := d.routeUses e old }
  let d := d.setPath ((routeCells old).map (·.1)) none
  let d := (d.freeEntryAt e).clearPath e
  let d := match alt with
    | some a =>
      let d := (d.freeEntryAt a).clearPath a
      { d with tilth := { d.tilth with armedOrder := d.tilth.armedOrder.filter (· ≠ a) } }
    | none => d
  (d.relight cells, f)

/-- Commits the release of a circuit whose entries are free (R122): a CSN, the parks, the mirror record. -/
def Dev.commitFreed (d : Dev) (f : Freed) (item : Option Nat) (late : Bool) (pick : Nat) : Dev :=
  let d := d.nextCsn
  let x := d.placeDrives f.entry f.old [] false [] [] []
  let b := x.2.1
  let d := x.1
  let d := { d with cir := { d.cir with due := d.cir.due.map (fun (u : Due) =>
    if u.entry = f.entry && u.at_ = b && u.was.isEmpty then { u with was := f.uses } else u) } }
  let d := d.noteSlice 0x400 b x.2.2 0
  let d := d.mirrorCommit d.cir.csn (d.commitRecs (f.entry :: f.alt.toList) ((routeCells f.old).map (·.1)) []) (itemsOf item)
  let d := (d.waitFor item 1 [] b 0 (lateFlag late) 0).count 0x13
  (d.tilthSweep 0).afterCommit f.cells pick

/-- Releases a circuit: the route parks, the entry and its alternate are freed (R122). -/
def Dev.commitRelease (d : Dev) (item : Option Nat) (par : CirPar) (late timed waited : Bool) (pick : Nat) : CRes :=
  match d.liveOf par.id with
  | none => .fail St.circuitUnknown
  | some e =>
    match d.cir.pieces.find? (fun (p : Piece) => p.entry = e) with
    | some p => .abort p.entry
    | none =>
      let s := d.releaseReady e timed waited
      if s.2 then .wait d
      else if s.1 ≠ 0 then .fail s.1
      else
        let x := d.freeCircuit e
        .ok (x.1.commitFreed x.2 item late pick)

/-- Moves a circuit onto a route by one commit: a dark piece (R143), a DARK circuit's migration, a restoration. -/
def Dev.commitPlain (d : Dev) (e : Nat) (r : List Hop) (item : Option Nat) (isProt : Bool) (sps : List (Nat × Nat)) (pick : Nat) :
    Dev × Nat :=
  let old := d.route e
  -- cells of the old route that are parked are committed cold with the rest
  let lit := (routeCells old).filter (fun cx => let m := d.cellMode cx.1; m = Cm.hold || m = Cm.switch || m = Cm.settle)
  let redo := (routeCells r).filter (fun cx => (routeCells old).contains cx && !lit.contains cx &&
    (d.cellMode cx.1 = Cm.parked || d.cellMode cx.1 = Cm.warm))
  let d := d.nextCsn
  let d := d.writeRoute e r
  let d := d.wr (F.CIR.STATE e) 1
  let db := d.placeRoute e old r isProt sps [] redo
  let d := db.1
  let b := db.2
  let d := d.setPath (leavingCells old r) none
  let d := d.writePath e (d.eId e) true r
  let cells := (routeCells old).map (·.1) ++ (routeCells r).map (·.1)
  let d := d.mirrorCommit d.cir.csn (d.commitRecs [e] cells.eraseDups sps) (itemsOf item)
  (d.afterCommit cells pick, b)

/-- A dark piece (R143). -/
def Dev.darkPiece (d : Dev) (e : Nat) (r : List Hop) (item : Option Nat) (overridden late : Bool) (moves pick : Nat) : Dev :=
  let (d, b) := d.commitPlain e r item false [] pick
  let d := ((d.bump (F.CIR.PIECES_DARK e) 1).count 0x17).raise 0x0C 8 (d.eId e) d.cir.csn
  let d := if overridden then d.raise 0x0C 9 (d.eId e) d.cir.csn else d
  d.waitFor item 0 [e] b moves (lateFlag late + 2 + (if overridden then 8 else 0)) 0

/-- Starts a coherent piece: phase A (R140). -/
def Dev.startCoherent (d : Dev) (e : Nat) (r : List Hop) (item : Option Nat) (isMove : Bool) (cmd pick : Nat) : CRes :=
  let old := d.route e
  match splitCell old r, joinCells old r with
  | some s, some (jo, jn) =>
    let n := max 16 (min 64 (d.rd F.PIECE_CFG.PIECE_PICKS))
    let changed := (changedCells old r).filter (fun cx => cx.1 ≠ s)
    if !d.risesFit changed then .wait d
    else
      let joCross := ((routeCells old).find? (fun cx => cx.1 = jo)).map (·.2) |>.getD false
      let d := d.nextCsn
      let spS := d.rd (F.LOOP.SP (cellLoop s))
      let spJ := d.rd (F.LOOP.SP (cellLoop jo))
      let pos := fun (v : Nat) => decide (0 ≤ toS 16 v)
      let p : Piece := { entry := e, item := item, isMove := isMove, cmd := cmd, old := old, new := r, split := s, joinNew := jn
                         joinOld := jo, phase := 0, n := 1, start := d.pick.num + 1, lockAt := 0, len := n, trim := 0, good := 0
                         bad := 0, beats := 0, est := 0, paused := false, csn := d.cir.csn, spSplit := spS, spJoin := spJ, joinIn := false }
      let db := d.placeRoute e old r false [] [(jn, joCross)] []
      let d := db.1
      let b := db.2
      let sp1 := fun (v : Nat) => ofS 16 (sweepSp (pos v) 1 n)
      let d := { d with cir := { d.cir with
        due := d.cir.due.map (fun (u : Due) => if u.entry = e && u.at_ = b then
          { u with
            acts := u.acts.filter (fun (t : CellTrig) => t.cell ≠ s && t.act ≠ CellAct.park) ++
              [({ cell := s, rank := 4, act := CellAct.pieceStart (sp1 spS) } : CellTrig), ({ cell := jo, rank := 4, act := CellAct.pieceStart (sp1 spJ) } : CellTrig)]
            sps := u.sps ++ [(cellLoop jn, sp1 spJ)] } else u)
        pieces := d.cir.pieces ++ [{ p with start := b }] } }
      let d := d.wr (F.CIR.STATE e) 2
      let d := d.mirrorCommit d.cir.csn (d.commitRecs [e] ((routeCells r).map (·.1)) []) (itemsOf item)
      let rec_ : MirRec := { typ := 6, version := d.cir.csn, obj := e, close := true, retry := false, body := MirBody.piece 0 0 n r }
      let d := d.sendRecs [rec_]
      let d := d.waitFor item 2 [e] b 0 0 0
      .ok (d.afterCommit ((routeCells r).map (·.1) ++ (routeCells old).map (·.1)) pick)
  | _, _ => .fail St.darkRefused

/-- Moves a LIVE circuit to a route by a piece (R139, R140, R143). -/
def Dev.commitPiece (d : Dev) (e : Nat) (r : List Hop) (item : Option Nat) (isMove late : Bool) (cmd pick : Nat) : CRes :=
  let old := d.route e
  let cells := (routeCells old ++ routeCells r).map (·.1)
  if d.pieceRefused e r then .fail St.modeRefused
  else if cells.any (fun c => let m := d.cellMode c; m = Cm.switch || m = Cm.settle) then .wait d
  else if d.coherent e old r then d.startCoherent e r item isMove cmd pick
  else if d.flag (F.CIR.NO_DARK e) then .fail St.darkRefused
  else if !d.risesFit (changedCells old r) then .wait d
  else .ok (d.darkPiece e r item false late 0 pick)

/-- Copies an alternate's protection flags. -/
def Dev.altFlags (d : Dev) (a : Nat) (auto keep groupValid : Bool) (group : Nat) : Dev :=
  (((d.setFlag (F.CIR.AUTO a) auto).setFlag (F.CIR.KEEP a) keep).setFlag (F.CIR.GROUP_VALID a) groupValid).wr (F.CIR.PROT_GROUP a) group

/-- Adds an internal protection switch of a circuit, ahead of every queued command (R125, R146). -/
def Dev.queueProtect (d : Dev) (id : Nat) : Dev :=
  if d.cir.prot.any (fun (c : Cmd) => c.par.id = id && !c.par.byGroup) then d
  else
    let par : CirPar := { id := id, flags := 0, inPort := 0, outPort := 0, voa := 0, via := 0, rsv := 0, time := 0, route := [] }
    let c : Cmd := { no := d.cir.nextCmd, item := none, kind := .protect, par := par, members := [], at_ := none, plan := none
                     planFailed := none, moves := 0, darkMoves := 0, late := false, overridden := false, waited := [] }
    { d with cir := { d.cir with prot := d.cir.prot ++ [c], nextCmd := d.cir.nextCmd + 1 } }

/-- Arms an alternate on a route (R122, R148). -/
def Dev.commitArm (d : Dev) (item : Option Nat) (par : CirPar) (r : List Hop) (late : Bool) (pick : Nat) : CRes :=
  match d.liveOf par.id with
  | none => .fail St.circuitUnknown
  | some e =>
    let oldAlt := d.altOf par.id
    match (match oldAlt with | some a => some a | none => d.freeEntry true) with
    | none => .fail St.tableFull
    | some a =>
      let before := (routeCells (d.route a)).map (·.1)
      let d := d.nextCsn
      let d := (((d.freeEntryAt a).wr (F.CIR.ID a) par.id).wr (F.CIR.STATE a) 4).wr (F.CIR.IN_PORT a) par.inPort
      let d := (d.wr (F.CIR.OUT_PORT a) par.outPort).altFlags a par.auto par.keep par.groupValid par.protGroup
      let d := ((d.writeRoute a r).wr (F.CIR.CSN a) d.cir.csn).wr (F.CIR.COMMIT_PICK a) (d.pick.num + 1)
      let d := d.writePath a par.id false r
      let d := { d with tilth := { d.tilth with armedOrder := d.tilth.armedOrder.filter (· ≠ a) ++ [a] } }
      let d := d.mirrorCommit d.cir.csn (d.commitRecs [a] [] []) (itemsOf item)
      let d := if d.eState e = 3 && par.auto then d.queueProtect par.id else d
      let d := d.afterCommit (before ++ (routeCells r).map (·.1)) pick
      match item with
      | some i => .ok (d.finishAcked i St.ok (cirResult d.cir.csn (d.pick.num + 1) 0 0 0 (lateFlag late) 0))
      | none => .ok d

/-- Frees an alternate. -/
def Dev.commitDisarm (d : Dev) (item : Option Nat) (par : CirPar) (late : Bool) (pick : Nat) : CRes :=
  match d.liveOf par.id, d.altOf par.id with
  | some _, some a =>
    let cells := (routeCells (d.route a)).map (·.1)
    let d := d.nextCsn
    let csn := d.cir.csn
    let d := (d.freeEntryAt a).clearPath a
    let d := { d with tilth := { d.tilth with armedOrder := d.tilth.armedOrder.filter (· ≠ a) } }
    let d := d.mirrorCommit csn (d.commitRecs [a] [] []) (itemsOf item)
    let d := (d.waitFor item 1 [] (d.pick.num + 1) 0 (lateFlag late) 0)
    .ok (((d.relight cells).tilthSweep 0).afterCommit cells pick)
  | _, _ => .fail St.circuitUnknown

/-- Whether a route is broken: a cell of it parked by fault policy, or a tile of it FENCED or OFFLINE (R120). -/
def Dev.routeBroken (d : Dev) (r : List Hop) : Bool :=
  (routeCells r).any (fun cx => d.cellMode cx.1 = Cm.faulted && !(d.caux cx.1).held) ||
  r.any (fun (h : Hop) => let m := d.tileMode h.tile; m = Tm.fenced || m = Tm.offline)

/-- Moves one circuit onto its alternate (R148): the alternate's route and ends become the circuit's. -/
def Dev.switchOne (d : Dev) (e a : Nat) (item : Option Nat) (pick : Nat) : Dev :=
  let id := d.eId e
  let old := d.route e
  let new := d.route a
  let keep := d.flag (F.CIR.KEEP a) && !d.routeBroken old
  let oin := d.rd (F.CIR.IN_PORT e)
  let oout := d.rd (F.CIR.OUT_PORT e)
  let nin := d.rd (F.CIR.IN_PORT a)
  let nout := d.rd (F.CIR.OUT_PORT a)
  let auto := d.flag (F.CIR.AUTO a)
  let gv := d.flag (F.CIR.GROUP_VALID a)
  let grp := d.rd (F.CIR.PROT_GROUP a)
  let voa := d.rd (F.CIR.VOA_TARGET e)
  let sps := if nout = oout then [] else (new.getLast?.map (fun (h : Hop) => (voaLoop h.tile h.out, voa))).toList
  let d := (d.wr (F.CIR.IN_PORT e) nin).wr (F.CIR.OUT_PORT e) nout
  let d :=
    if keep then
      let d := (d.writeRoute a old).wr (F.CIR.IN_PORT a) oin
      let d := (d.wr (F.CIR.OUT_PORT a) oout).altFlags a auto true gv grp
      (d.writePath a id false old)
    else
      let d := (d.freeEntryAt a).clearPath a
      { d with tilth := { d.tilth with armedOrder := d.tilth.armedOrder.filter (· ≠ a) } }
  let (d, b) := d.commitPlain e new item true sps pick
  let d := if keep then (d.wr (F.CIR.CSN a) d.cir.csn).wr (F.CIR.COMMIT_PICK a) b else d
  let d := d.relight ((routeCells old).map (·.1) ++ (routeCells new).map (·.1))
  ((d.bump F.PROT_STAT.PROT_CNT 1).count 0x14).raise 0x0C 5 id d.cir.csn

/-- The circuits that a protection command names: one, or every ARMED alternate of a group (R146). -/
def Dev.protTargets (d : Dev) (par : CirPar) : List (Nat × Nat) :=
  if par.byGroup then
    d.altEntries.filterMap (fun a =>
      if d.flag (F.CIR.GROUP_VALID a) && d.rd (F.CIR.PROT_GROUP a) = par.protGroup then
        (d.liveOf (d.eId a)).map (fun e => (e, a)) else none)
  else match d.liveOf par.id, d.altOf par.id with
    | some e, some a => [(e, a)]
    | _, _ => []

/-- A protection switch at its commit point: running pieces are aborted first; BROKEN alternates are skipped by a group or
automatic trigger (R146, R148). -/
def Dev.commitProtect (d : Dev) (item : Option Nat) (par : CirPar) (late waited : Bool) (timed : Bool) (pick : Nat) : CRes :=
  let ts := d.protTargets par
  if !par.byGroup && ts.isEmpty then .fail St.circuitUnknown
  else if !par.byGroup && item.isSome && ts.any (fun (ea : Nat × Nat) => d.flag (F.CIR.BROKEN ea.2)) then .fail St.altBroken
  else
    let good := ts.filter (fun (ea : Nat × Nat) => !d.flag (F.CIR.BROKEN ea.2))
    let d := forEach (ts.filter (fun (ea : Nat × Nat) => d.flag (F.CIR.BROKEN ea.2))) (fun (ea : Nat × Nat) (d : Dev) =>
      d.raise 0x0C 4 (d.eId ea.1) d.cir.csn) d
    match d.cir.pieces.find? (fun (p : Piece) => good.any (fun (ea : Nat × Nat) => ea.1 = p.entry)) with
    | some p => .abort p.entry
    | none =>
      let sts := good.map (fun (ea : Nat × Nat) =>
        let t := d.tilesStatus (d.route ea.1) (d.route ea.2) timed waited
        if t.2 then (0xFFFF : Nat) else if t.1 ≠ 0 then t.1
        else
          let ch := changedCells (d.route ea.1) (d.route ea.2)
          let s := d.cellsStatus ch (routeCells (d.route ea.2))
          if s = 0 && d.entriesWait ch then 0xFFFF else s)
      if sts.contains 0xFFFF then .wait d
      else match sts.find? (fun s => s ≠ 0) with
        | some s => if good.length = 1 then .fail s else
            -- a group switches every circuit that can be switched
            let ok := (good.zip sts).filter (fun x => x.2 = 0)
            let d := forEach ok (fun x (d : Dev) => d.switchOne x.1.1 x.1.2 item pick) d
            .ok (d.waitFor item 0 (ok.map (fun x => x.1.1)) (d.pick.num + 1) 0 (lateFlag late) ok.length)
        | none =>
          let d := forEach good (fun (ea : Nat × Nat) (d : Dev) => d.switchOne ea.1 ea.2 item pick) d
          .ok (d.waitFor item 0 (good.map (·.1)) (d.pick.num + 1) 0 (lateFlag late) good.length)

/-! ## One command at its commit point -/

/-- What a command needs at its commit point. -/
structure CmdIn where
  item : Option Nat
  kind : CmdKind
  par : CirPar
  plan : Option Plan
  timed : Bool
  late : Bool
  waited : Bool
  no : Nat
  prop : PlanProp
  moves : Nat

/-- Uses a held plan when it still holds, else plans anew (R135).  Answers route, moves, whether through an alternate. -/
def Dev.usePlan (d : Dev) (x : CmdIn) (rule : OwnRule) (inPort outPort : Nat) (ownAlt : Option Nat) :
    Except Nat (List Hop × List MoveProp × Bool) :=
  match x.plan with
  | some p =>
    if x.par.route.isEmpty && !p.viaAlt && d.routeFollows p.route inPort outPort && d.planHolds p x.par.id rule ownAlt then
      .ok (p.route, p.moves.map (fun (m : Nat × List Hop) => { id := m.1, route := m.2 }), false)
    else d.planFor x.par rule inPort outPort ownAlt x.prop
  | none => d.planFor x.par rule inPort outPort ownAlt x.prop

/-- The checks of tiles and cells before a change of route is committed; the second component: to wait. -/
def Dev.ready (d : Dev) (x : CmdIn) (old r : List Hop) : Nat × Bool :=
  let t := d.tilesStatus old r x.timed x.waited
  if t.2 then (0, true) else if t.1 ≠ 0 then (t.1, false)
  else
    let s := d.cellsStatus (changedCells old r) (routeCells r)
    (s, s = 0 && d.entriesWait (changedCells old r))

/-- What a planned route leads to: its first move, ALT_CONFLICT where it takes cells of an alternate and alternates come first (R133), or
the commit, for which such alternates yield. -/
def Dev.withPlan (d : Dev) (x : CmdIn) (own : Option Nat) (plan : Except Nat (List Hop × List MoveProp × Bool))
    (commit : Dev → List Hop → CRes) : CRes :=
  match plan with
  | .error s => .fail s
  | .ok (_, m :: _, _) => .move m
  | .ok (r, [], false) => commit d r
  | .ok (r, [], true) =>
    if d.flag F.CIRC_CFG.ALT_PRIORITY then .fail St.altConflict
    else match commit d r with
      | .ok _ => commit (d.yieldAlts r own x.prop.pick) r
      | c => c

/-- ESTABLISH at its commit point. -/
def Dev.doEstablish (d : Dev) (x : CmdIn) : CRes :=
  let par := x.par
  if (d.liveOf par.id).isSome then .fail St.circuitExists
  else if d.endBusy par.id par.inPort par.outPort then .fail St.portBusy
  else if (d.freeEntry false).isNone then .fail St.tableFull
  else d.withPlan x none (d.usePlan x .free par.inPort par.outPort none) (fun d r =>
    let s := d.ready x [] r
    if s.2 then .wait d
    else if s.1 ≠ 0 then .fail s.1
    else d.commitEstablish x.item par r x.moves x.late x.prop.pick)

/-- MIGRATE at its commit point: a piece for a LIVE circuit, one commit for a DARK one. -/
def Dev.doMigrate (d : Dev) (x : CmdIn) : CRes :=
  match d.liveOf x.par.id with
  | none => .fail St.circuitUnknown
  | some e =>
    if d.eState e = 2 then .wait d
    else
      let live := d.eState e = 1
      d.withPlan x none (d.usePlan x (if live then .same else .free) (d.rd (F.CIR.IN_PORT e)) (d.rd (F.CIR.OUT_PORT e)) none) (fun d r =>
        -- a piece is refused where either route holds a cell that is FROZEN, FAULTED or in CAL (R114)
        if live && d.pieceRefused e r then .fail St.modeRefused
        else
          let s := d.ready x (d.route e) r
          if s.2 then .wait d
          else if s.1 ≠ 0 then .fail s.1
          else if live then d.commitPiece e r x.item false x.late x.no x.prop.pick
          else
            let (d, b) := d.commitPlain e r x.item false [] x.prop.pick
            .ok (d.waitFor x.item 0 [e] b 0 (lateFlag x.late) 0))

/-- ALT_ARM at its commit point. -/
def Dev.doArm (d : Dev) (x : CmdIn) : CRes :=
  match d.liveOf x.par.id with
  | none => .fail St.circuitUnknown
  | some e =>
    let own := d.altOf x.par.id
    if d.endBusy x.par.id x.par.inPort x.par.outPort then .fail St.portBusy
    else if own.isNone && (d.freeEntry true).isNone then .fail St.tableFull
    else d.withPlan x own (d.usePlan x .free x.par.inPort x.par.outPort own) (fun d r =>
      let t := d.tilesStatus [] r x.timed x.waited
      let s := d.cellsStatus (changedCells (d.route e) r) []
      if t.2 then .wait d
      else if t.1 ≠ 0 then .fail t.1
      else if s ≠ 0 then .fail s
      else d.commitArm x.item x.par r x.late x.prop.pick)

/-- A circuit command at its commit point. -/
def Dev.doCmd (d : Dev) (x : CmdIn) : CRes :=
  match x.kind with
  | .establish => d.doEstablish x
  | .release => d.commitRelease x.item x.par x.late x.timed x.waited x.prop.pick
  | .migrate => d.doMigrate x
  | .altArm => d.doArm x
  | .altDisarm => d.commitDisarm x.item x.par x.late x.prop.pick
  | .protect => d.commitProtect x.item x.par x.late x.waited x.timed x.prop.pick
  | _ => .ok d

/-- Does first what a command needs before it can commit (R122, R132, R146): a move is a piece of the moved circuit, an internal command
with its own CSN; it waits where it touches a tile in HOLDOVER (R127). -/
def Dev.needs (d : Dev) (x : CmdIn) : CRes → CRes
  | .abort e =>
    match d.cir.pieces.find? (fun (p : Piece) => p.entry = e) with
    | some p => .wait (d.abortPiece p St.pieceAborted)
    | none => .wait d
  | .move m =>
    match d.liveOf m.id with
    | none => .fail St.noRoute
    | some e =>
      let t := d.touchStatus (routeTiles (d.route e ++ m.route)) x.timed x.waited
      if t.2 then .wait d
      else if t.1 ≠ 0 then .fail t.1
      else if (Dev.movesOk [m] d).isNone then .fail St.noRoute
      else match d.commitPiece e m.route none true false x.no x.prop.pick with
        | .ok d => .wait ((d.count 0x15).raise 0x0C 7 m.id d.cir.csn)
        | r => r
  | r => r

/-! ## Groups (R124) -/

/-- A group under way: the table as its members so far leave it, the releases whose entries are free, and where it stopped. -/
structure GroupRun where
  d : Dev
  freed : List (Nat × Freed)
  stop : Option (Nat × CRes)

/-- A release of a group is checked and its entries are freed before any other member is checked. -/
def GroupRun.free (x : CmdIn) (g : GroupRun) (m : GroupMem) : GroupRun :=
  if g.stop.isSome || m.kind ≠ .release then g
  else match g.d.liveOf m.par.id with
    | none => { g with stop := some (m.item, .fail St.circuitUnknown) }
    | some e =>
      if g.d.cir.pieces.any (fun (p : Piece) => p.entry = e) then { g with stop := some (m.item, .abort e) }
      else
        let s := g.d.releaseReady e x.timed x.waited
        if s.2 then { g with stop := some (m.item, .wait g.d) }
        else if s.1 ≠ 0 then { g with stop := some (m.item, .fail s.1) }
        else
          let f := g.d.freeCircuit e
          { g with d := f.1, freed := g.freed ++ [(m.item, f.2)] }

/-- A member of a group commits, in item order. -/
def GroupRun.member (x : CmdIn) (plans : List (Nat × Plan)) (g : GroupRun) (m : GroupMem) : GroupRun :=
  if g.stop.isSome then g
  else match AMap.find g.freed m.item with
    | some f => { g with d := g.d.commitFreed f (some m.item) x.late x.prop.pick }
    | none =>
      match g.d.doCmd { x with item := some m.item, kind := m.kind, par := m.par, plan := AMap.find plans m.item } with
      | .ok d => { g with d := d }
      | r => { g with stop := some (m.item, r) }

/-- A group's members, all or none: every release is done before any other check; commits and their CSNs come in item order. -/
def Dev.doGroup (d : Dev) (x : CmdIn) (plans : List (Nat × Plan)) (members : List GroupMem) : GroupRun :=
  members.foldl (GroupRun.member x plans) (members.foldl (GroupRun.free x) { d := d, freed := [], stop := none })

/-! ## Failure of a command, and its plan's end -/

/-- Discards the plans of the commands that a predicate names (R136), counted; their warm cells go with a cause. -/
def Dev.discardPlans (d : Dev) (sel : Cmd → Bool) (cause : Nat) : Dev :=
  let n := (d.cir.queue.filter (fun (c : Cmd) => c.planned && sel c)).length
  if n = 0 then d
  else
    let d := { d with cir := { d.cir with queue := d.cir.queue.map (fun (c : Cmd) => if sel c then { c with plan := none, mplans := [] } else c) } }
    let d := (d.bump F.SHTL_STAT.REPLAN_CNT n)
    (forEach (List.range n) (fun _ (d : Dev) => d.count 0x19) d).tilthSweep cause

/-- A command leaves commit order. -/
def Dev.dropCmd (d : Dev) (no : Nat) : Dev :=
  { d with cir := { d.cir with
    queue := d.cir.queue.filter (fun (c : Cmd) => c.no ≠ no)
    prot := d.cir.prot.filter (fun (c : Cmd) => c.no ≠ no) } }

/-- The reservations that a command's establishes name are consumed at its commit point, whatever the outcome (R154). -/
def Dev.consumeRsv (d : Dev) (c : Cmd) : Dev :=
  let own := if c.kind = .establish then [c.par.rsv] else []
  let used := own ++ (c.members.filter (fun (m : GroupMem) => m.kind = .establish)).map (fun (m : GroupMem) => m.par.rsv)
  { d with tilth := { d.tilth with rsv := d.tilth.rsv.filter (fun (r : Rsv) => !used.contains r.handle) } }

/-- A command fails at its commit point and leaves commit order; every plan later in it is discarded (R126, R136). -/
def Dev.cmdFailed (d : Dev) (c : Cmd) (status : Nat) : Dev :=
  let later := ((d.commitOrder.dropWhile (fun (q : Cmd) => q.no ≠ c.no)).drop 1).map (fun (q : Cmd) => q.no)
  let d := (((d.dropCmd c.no).consumeRsv c).count 0x11).finishOpt c.item status cirNone
  let d := forEach c.members (fun (m : GroupMem) (d : Dev) => d.finish m.item (if status = St.timePast then status else St.groupFailed) cirNone) d
  let d := if status = St.noRoute then d.raise 0x0A 0 0 0 else d
  (d.discardPlans (fun (q : Cmd) => later.contains q.no) 3).tilthSweep 3

/-- A timed command that is late is counted and reported with its circuit (R149). -/
def Dev.lateSeen (d : Dev) (id : Nat) : Dev := ((d.bump F.TIMED_STAT.LATE_CNT 1).count 0x1E).raise 0x0C 10 id d.cir.csn
def Dev.lateNow (d : Dev) (c : Cmd) : Dev := d.lateSeen c.par.id

/-- Adds a command to commit order (R125). -/
def Dev.enqueue (d : Dev) (item : Option Nat) (kind : CmdKind) (par : CirPar) (members : List GroupMem) (at_ : Option Nat) (late : Bool) : Dev :=
  let c : Cmd := { no := d.cir.nextCmd, item := item, kind := kind, par := par, members := members, at_ := at_, plan := none
                   planFailed := none, moves := 0, darkMoves := 0, late := late, overridden := false, waited := [] }
  let d := { d with cir := { d.cir with nextCmd := d.cir.nextCmd + 1 } }
  if kind = .protect && at_.isNone then { d with cir := { d.cir with prot := d.cir.prot ++ [c] } }
  else { d with cir := { d.cir with queue := d.cir.queue ++ [c] } }

/-! ## At the boundary -/

/-- Adds an act of a commit to those of its boundary: of several commits of one boundary that act on a cell, a lit cell takes the state of
the last that sets one, a cell that leaves every lit route parks, and a cell that goes back to the state it holds keeps it (R98, R124). -/
def Dev.mergeAct (d : Dev) (ts : List CellTrig) (t : CellTrig) : List CellTrig :=
  let route := fun (a : CellAct) => match a with
    | .park | .commit _ => true
    | _ => false
  let mine := ts.filter (fun (x : CellTrig) => x.cell = t.cell && route x.act)
  if !route t.act || mine.isEmpty then ts ++ [t]
  else
    let rest := ts.filter (fun (x : CellTrig) => !(x.cell = t.cell && route x.act))
    let m := d.cellMode t.cell
    let pick := (mine ++ [t]).filter (fun (x : CellTrig) => decide (x.act ≠ CellAct.park) = d.lit t.cell)
    let same := fun (x : CellTrig) => match x.act with
      | .commit y => (m = Cm.hold || m = Cm.switch || m = Cm.settle) && (d.caux t.cell).cross = y
      | _ => false
    match pick.getLast? with
    | none => rest ++ [t]
    | some x => if same x then rest else rest ++ [x]

/-- The drives placed for the boundary that has come (R128): acts, VOA codes, SP. -/
def Dev.applyDue (d : Dev) : Dev :=
  let now := d.cir.due.filter (fun (u : Due) => decide (u.at_ ≤ d.pick.num))
  let d := { d with cir := { d.cir with due := d.cir.due.filter (fun (u : Due) => decide (d.pick.num < u.at_)) } }
  forEach now (fun (u : Due) (d : Dev) =>
    let d := { d with cell := { d.cell with pend := u.acts.foldl (fun ts t => d.mergeAct ts t) d.cell.pend } }
    let d := forEach u.sps (fun ls (d : Dev) => d.wr (F.LOOP.SP ls.1) ls.2) d
    forEach u.voas (fun l (d : Dev) =>
      if u.opens.contains l && (d.voaStatic l).isNone then
        let port := AMap.find d.cal.recs.ports (loopTile l * 256 + l % 256)
        let code := (port.map (fun (p : PortCal) => p.voaStart)).getD 0
        ((d.sendCode l code).wr (F.LOOP.CODE l) code).dueBack l code
      else match d.voaStatic l with
        | some code => d.voaFixed l code
        | none => d) d) d

/-- SP values of a commit are written after the cells' own (an act of SWITCH writes the state's SP): the join cell of a piece
keeps SP(1). -/
def Dev.applyDueSp (d : Dev) (us : List Due) : Dev :=
  forEach us (fun (u : Due) (d : Dev) => forEach u.sps (fun ls (d : Dev) => d.wr (F.LOOP.SP ls.1) ls.2) d) d

/-- Route state after the cells' transitions: BROKEN, DEGRADED, DARK (R120, R150); a circuit that goes DARK switches to its AUTO
alternate, and a BROKEN one is skipped with an event (R146). -/
def Dev.routeStates (d : Dev) : Dev :=
  let d := forEach d.altEntries (fun a (d : Dev) =>
    let r := d.route a
    d.setFlag (F.CIR.BROKEN a) ((routeCells r).any (fun cx => d.cellMode cx.1 = Cm.faulted) ||
      r.any (fun (h : Hop) => d.tileMode h.tile ≠ Tm.active))) d
  forEach d.liveEntries (fun e (d : Dev) =>
    let r := d.route e
    let deg := (routeCells r).any (fun cx => d.cellMode cx.1 = Cm.faulted && (d.caux cx.1).held)
    let d := d.setFlag (F.CIR.DEGRADED e) deg
    if d.eState e = 1 && d.routeBroken r then
      let id := d.eId e
      let d := (d.wr (F.CIR.STATE e) 3).raise 0x0C 1 id (d.rd (F.CIR.CSN e))
      match d.altOf id with
      | some a =>
        if !d.flag (F.CIR.AUTO a) then d
        else if d.flag (F.CIR.BROKEN a) then d.raise 0x0C 4 id (d.rd (F.CIR.CSN e))
        else d.queueProtect id
      | none => d
    else d) d

/-- A cell of a route that has reached HOLD since the last commit: in HOLD, frozen from it, or past it and not switching. -/
def Dev.cellSettled (d : Dev) (c : Nat) : Bool :=
  let m := d.cellMode c
  m = Cm.hold || m = Cm.frozen || ((d.caux c).reached && m ≠ Cm.switch && m ≠ Cm.settle)

/-- SETTLED (R121): every cell of the route has reached HOLD since the commit.  HANDOVER_PICKS runs from the commit boundary, or from
the boundary at which entries that a missed frame carried apply (R184). -/
def Dev.settle (d : Dev) : Dev :=
  forEach d.liveEntries (fun e (d : Dev) =>
    if d.flag (F.CIR.SETTLED e) || d.eState e ≠ 1 || d.cir.due.any (fun (u : Due) => u.entry = e) then d
    else if (routeCells (d.route e)).all (fun cx => d.cellSettled cx.1) then
      let late := (AMap.find d.cir.applied e).map (fun (b : Nat) => d.pick.num - b)
      let n := min (late.getD (2 ^ 32)) ((d.pick.num + 2 ^ 32 - d.rd (F.CIR.COMMIT_PICK e)) % 2 ^ 32)
      let d := { d with cir := { d.cir with applied := AMap.del d.cir.applied e } }
      let d := (d.setFlag (F.CIR.SETTLED e) true).wr (F.CIR.HANDOVER_PICKS e) (min n 65535)
      d.histo 16 (min 31 (min n 65535 / 2 ^ d.histoShift 16))
    else d) d

/-- Whether a wait is over (R122); an entry that another commit has taken over no longer holds it. -/
def Dev.waitOver (d : Dev) (w : CirWait) : Bool :=
  match w.mode with
  | 1 => decide (w.pick ≤ d.pick.num)
  | 2 => w.entries.all (fun e => !d.cir.pieces.any (fun (p : Piece) => p.entry = e))
  | _ => decide (w.pick ≤ d.pick.num) && w.entries.all (fun e => d.eState e = 0 || d.flag (F.CIR.SETTLED e))

/-- Completes the items whose waits are over. -/
def Dev.endWaits (d : Dev) : Dev :=
  let done := d.cir.waits.filter (fun w => d.waitOver w)
  let d := { d with cir := { d.cir with waits := d.cir.waits.filter (fun w => !done.contains w) } }
  forEach done (fun (w : CirWait) (d : Dev) =>
    let e := w.entries.head?
    let h := (e.map (fun e => d.rd (F.CIR.HANDOVER_PICKS e))).getD 0
    let s := (e.map (fun e => d.rd (F.CIR.SPREAD e))).getD 0
    d.finishAcked w.item St.ok (cirResult w.csn w.pick h s w.moves w.flags w.count)) d

/-- RESTORATION (R150): a DARK circuit with RESTORE = 1, every tile ACTIVE, no cell FAULTED, no automatic switch of it on its way;
a cell that was frozen while PARKED cannot be committed cold (R102). -/
def Dev.restore (d : Dev) (e pick : Nat) : Dev :=
  let r := d.route e
  let viaAlt := d.cir.prot.any (fun (c : Cmd) => c.par.id = d.eId e && c.item.isNone && !c.par.byGroup)
  if !d.controls || 0x400 ≤ e || d.eState e ≠ 3 || !d.flag (F.CIR.RESTORE e) || viaAlt ||
     r.any (fun (h : Hop) => d.tileMode h.tile ≠ Tm.active) ||
     (routeCells r).any (fun cx => d.cellMode cx.1 = Cm.faulted ||
       (d.cellMode cx.1 = Cm.frozen && d.rd (F.CELL.PREV_MODE cx.1) = Cm.parked)) then d
  else
    let (d, _) := d.commitPlain e r none false [] pick
    (d.count 0x1F).raise 0x0C 2 (d.eId e) d.cir.csn

/-- LOSS_TRIP (R146). -/
def Dev.lossTrip (d : Dev) (l : Nat) : Dev :=
  if !d.controls || AMap.get d.cir.trips l 0 < max 1 (d.rd F.CIRC_CFG.TRIP_PICKS) then d
  else match d.portUse (loopTile l) (l % 256) with
    | some (e, true) =>
      let d := { d with cir := { d.cir with trips := AMap.del d.cir.trips l } }
      match d.altOf (d.eId e) with
      | some a =>
        if !d.flag (F.CIR.AUTO a) then d
        else
          let d := d.raise 0x0C 6 (d.eId e) (d.rd (F.CIR.CSN e))
          if d.flag (F.CIR.BROKEN a) then d.raise 0x0C 4 (d.eId e) (d.rd (F.CIR.CSN e)) else d.queueProtect (d.eId e)
      | none => d
    | _ => d

end Sys2Proof.Machine
end

