-- ==== Sys2Proof/Machine/Piecing.lean ====
section
/-! DEFINITION. Pieces under way (chapter 06, R140 - R145): lock, sweep, end, and the events that abort or pause one. -/

namespace Sys2Proof.Machine

/-- LOCK_TOL in force: 1 to 45 degrees. -/
def Dev.lockTol (d : Dev) : Nat := max 1 (min 45 (d.rd F.PIECE_CFG.LOCK_TOL))

/-- LOCK_MAX in force. -/
def Dev.lockMax (d : Dev) : Nat := max 1 (d.rd F.PIECE_CFG.LOCK_MAX)

/-- Replaces a piece. -/
def Dev.putPiece (d : Dev) (p : Piece) : Dev :=
  { d with cir := { d.cir with pieces := d.cir.pieces.map (fun (x : Piece) => if x.entry = p.entry then p else x) } }

/-- Removes a piece. -/
def Dev.dropPiece (d : Dev) (e : Nat) : Dev :=
  { d with cir := { d.cir with pieces := d.cir.pieces.filter (fun (x : Piece) => x.entry ≠ e) } }

/-- Sends a PIECE record (R345): phases 0 A, 1 B, 2 C, 3 D (the end); 4 an abort (assumption 20). -/
def Dev.mirrorPiece (d : Dev) (p : Piece) : Dev :=
  if !d.controls then d
  else
    let r : MirRec := { typ := 6, version := p.csn, obj := p.entry, close := true, retry := false
                        body := .piece p.phase p.lockAt p.len p.new }
    d.sendRecs [r]

/-- The state the new route asks of a cell. -/
def Piece.newState (p : Piece) (c : Nat) : Bool :=
  ((routeCells p.new).find? (fun (cx : Nat × Bool) => cx.1 = c)).elim false (·.2)

/-- SP of a swept cell at step n: the sweep from its pre-piece ratio rounded to ±32,768 (R141). -/
def Piece.sp (sp0 n len : Nat) (trim : Int) : Nat := ofS 16 (sat16 (sweepSp (decide (0 ≤ toS 16 sp0)) n len + trim))

/-- Writes the SP of the cells that slide (R141). -/
def Dev.writeSweep (d : Dev) (p : Piece) : Dev :=
  let d := d.wr (F.LOOP.SP (cellLoop p.split)) (Piece.sp p.spSplit p.n p.len 0)
  let j := Piece.sp p.spJoin p.n p.len p.trim
  let d := d.wr (F.LOOP.SP (cellLoop p.joinOld)) j
  d.wr (F.LOOP.SP (cellLoop p.joinNew)) j

/-- Dithers both join cells with Walsh row 1 while the lock runs (R141). -/
def Dev.lockDither (d : Dev) (p : Piece) : Dev :=
  (d.wr (F.LOOP.DITHER_ROW (cellLoop p.joinOld)) 1).wr (F.LOOP.DITHER_ROW (cellLoop p.joinNew)) 1

/-- The new-route join cell enters PIECE at the boundary after it reached HOLD (R98, R140); run before the boundary's
transitions, on the modes of the boundary before. -/
def Dev.pieceJoins (d : Dev) : Dev :=
  forEach d.cir.pieces (fun (p : Piece) (d : Dev) =>
    if p.joinIn || 3 ≤ p.phase || d.cellMode p.joinNew ≠ Cm.hold || d.role = Pr.handing then d
    else (d.trigger p.joinNew 4 (.pieceStart (Piece.sp p.spJoin p.n p.len p.trim))).putPiece { p with joinIn := true }) d

/-- Every new-route cell is in HOLD, or in PIECE where it slides; on the modes of the boundary before. -/
def Dev.pieceLit (d : Dev) (p : Piece) : Bool :=
  (routeCells p.new).all (fun cx => let m := d.cellMode cx.1; m = Cm.hold || m = Cm.piece)

/-- The egress output monitor over the beat that ends, correlated with the row that dithers the join cells (R141): sample by sample, the
sign being the one that stood DITHER_LAG picks before; none where a pick of the beat has no sample. -/
def Dev.lockCorr (d : Dev) (p : Piece) : Option Int :=
  let n := d.beatLen
  let lag := d.rd (F.COEF.DITHER_LAG (d.setNo (cellLoop p.joinOld)))
  let po := (List.range n).mapM (fun i =>
    ((d.outer p.entry).hist.find? (fun (r : OuterPick) => r.pick + n = d.pick.num + i)).bind (fun (r : OuterPick) => r.pout))
  po.map (fun vs => (vs.zipIdx.map (fun (vi : Nat × Nat) => (vi.1 : Int) * walshSign 1 ((vi.2 + lag * (n - 1)) % n))).sum)

/-- The lock's work of a beat: the trim moves toward the greater output by at most 4 LSB, how far is open; the phase-error estimate, in
degrees, has no rule in the spec.  Both are free values (assumption 1). -/
def Dev.phaseEstimate (d : Dev) (p : Piece) : Dev × Piece :=
  let x := d.draw 256
  let y := x.2.draw 5
  let dir : Int := match d.lockCorr p with
    | some c => if 0 < c then 1 else if c < 0 then -1 else 0
    | none => 0
  let d := y.2
  let est := x.1
  let tol := d.lockTol
  let p := { p with est := est, trim := p.trim + dir * y.1
                    good := if est ≤ tol then p.good + 1 else 0
                    bad := if est > 2 * tol then p.bad + 1 else 0 }
  (d.wr F.PIECE_STAT.PHASE_ERR (min 255 est), p)

/-- The sweep is over and the piece ends at this boundary (phase D): no tile of its routes is away, and no trigger of rank 1 or 2 meets
one of its cells. -/
def Dev.pieceOver (d : Dev) (p : Piece) : Bool :=
  let cells := (routeCells p.old ++ routeCells p.new).map (·.1)
  p.phase = 2 && decide (p.len ≤ p.n) && !p.paused && decide (p.bad < 2) &&
  !(p.old ++ p.new).any (fun (h : Hop) => d.tileMode h.tile = Tm.holdover) &&
  !d.cell.pend.any (fun (t : CellTrig) => decide (t.rank ≤ 2) && cells.contains t.cell)

/-- At S + N the split cell and the join cells leave PIECE with their final SP, and the old route's other cells park (R98, R140). -/
def Dev.pieceEnds (d : Dev) : Dev :=
  if !d.controls then d
  else
    forEach (d.cir.pieces.filter d.pieceOver) (fun (p : Piece) (d : Dev) =>
      let d := d.trigger p.split 4 (.pieceEnd (d.stateSp p.split (p.newState p.split)))
      let d := d.trigger p.joinNew 4 (.pieceEnd (d.stateSp p.joinNew (p.newState p.joinNew)))
      let d := d.trigger p.joinOld 4 (.pieceEnd (d.rd (F.LOOP.SP (cellLoop p.joinOld))))
      let d := forEach ((leavingCells p.old p.new).filter (· ≠ p.joinOld)) (fun c (d : Dev) => d.trigger c 4 .park) d
      d.putPiece { p with phase := 4 }) d

/-- The end of a piece at S + N (phase D), its cells having left PIECE: the entry takes the new route, and the old route's join cell parks
at the next boundary. -/
def Dev.endPiece (d : Dev) (p : Piece) : Dev :=
  let e := p.entry
  let b := d.pick.num
  let d := (d.dropPiece e).mirrorPiece { p with phase := 3 }
  let d := d.updAux p.split (fun a => { a with cross := p.newState p.split })
  let d := d.updAux p.joinNew (fun a => { a with cross := p.newState p.joinNew })
  let leave := leavingCells p.old p.new
  let d := d.trigger p.joinOld 4 .park
  let d := (d.setPath leave none).writeRoute e p.new
  let d := d.writePath e (d.eId e) true p.new
  let d := (d.wr (F.CIR.STATE e) 1).bump (F.CIR.PIECES_COH e) 1
  let d := ((d.bump F.PIECE_STAT.COH_CNT 1).count 0x16).setFlag (F.CIR.SETTLED e) false
  let gone : Due := { at_ := b + 1, entry := e, acts := [], voas := (routeVoas p.old ++ routeVoas p.new).eraseDups, opens := [], sps := [] }
  let d := { d with cir := { d.cir with due := d.cir.due ++ [gone] } }
  d.relight (leave ++ (routeCells p.new).map (·.1))

/-- One piece at a boundary, after the transitions (R140).  `beat`: the boundary is a beat boundary; `lit`: `pieceLit` on the
modes before them.  An abort that is due (R144) holds the sweep until PIECE_LOCK_TIMEOUT carries it out (assumption 21). -/
def Dev.pieceStep (d : Dev) (p : Piece) (beat lit : Bool) : Dev :=
  let tiles := (p.old ++ p.new).map (fun (h : Hop) => h.tile)
  let away := tiles.any (fun t => d.tileMode t = Tm.holdover)
  if away || d.role ≠ Pr.active && p.phase < 2 then d.putPiece { p with paused := decide (p.phase = 2) }
  else if p.phase = 0 then
    if beat && lit && p.joinIn then
      let p := { p with phase := 1, beats := 0, good := 0, bad := 0 }
      ((d.putPiece p).lockDither p).mirrorPiece p
    else d
  else if p.phase = 1 then
    let d := d.writeSweep p
    if !beat || decide (d.lockMax ≤ p.beats) then d
    else
      let x := d.phaseEstimate p
      let d := x.1
      let p : Piece := { x.2 with beats := p.beats + 1, bad := 0 }
      if decide (2 ≤ p.good) then
        let p := { p with phase := 2, lockAt := d.pick.num, n := 1, bad := 0 }
        ((d.putPiece p).writeSweep p).mirrorPiece p
      else (d.putPiece p).writeSweep p
  else if p.phase = 2 then
    let x := if beat then d.phaseEstimate p else (d, p)
    let d := x.1
    let p := x.2
    let was := p.paused
    let p := if was && beat && decide (p.est ≤ d.lockTol) && d.role = Pr.active then { p with paused := false } else p
    if was || decide (2 ≤ p.bad) || decide (p.len ≤ p.n) then (d.putPiece p).writeSweep p
    else
      let p := { p with n := p.n + 1 }
      (d.putPiece p).writeSweep p
  else d

/-- Ends a piece that keeps the new route: the sliding cells go to HOLD at the next boundary, and a dark piece commits for the
one after (R144). -/
def Dev.pieceToDark (d : Dev) (p : Piece) (overridden : Bool) : Dev :=
  let d := d.trigger p.split 4 (.pieceEnd p.spSplit)
  let d := d.trigger p.joinOld 4 (.pieceEnd p.spJoin)
  let d := if d.cellMode p.joinNew = Cm.piece then d.trigger p.joinNew 4 (.pieceEnd p.spJoin) else d
  let d := (d.count 0x18).raise 0x0C 11 (d.eId p.entry) p.csn
  d.putPiece { p with phase := 3, paused := overridden }

/-- The dark piece that follows an abort which keeps the new route: cells of it already in their state stay as they are. -/
def Dev.pieceDark (d : Dev) (p : Piece) : Dev :=
  let e := p.entry
  let d := d.dropPiece e
  let d := { d with cir := { d.cir with waits := d.cir.waits.filter (fun (w : CirWait) => !(w.mode = 2 && w.entries.contains e)) } }
  let moved := [p.split, p.joinNew]
  let d := d.darkPiece e p.new p.item p.paused false 0 0
  let keep := fun (t : CellTrig) =>
    match t.act with
    | .commit x => moved.contains t.cell || !(d.cellMode t.cell = Cm.hold && (d.caux t.cell).cross = x)
    | _ => true
  let due := d.cir.due.map (fun (u : Due) => if u.entry = e then { u with acts := u.acts.filter keep } else u)
  let queue := d.cir.queue.map (fun (c : Cmd) =>
    if p.isMove && c.no = p.cmd then { c with darkMoves := c.darkMoves + 1 } else c)
  { d with cir := { d.cir with due := due, queue := queue } }

/-- What a fault of a cell or a tile does to a piece (R144). -/
def Dev.pieceFault (d : Dev) (p : Piece) : Dev :=
  let bad := fun (c : Nat) => decide (d.cellMode c = Cm.faulted)
  let new := leavingCells p.new p.old
  let old := leavingCells p.old p.new
  let out := (p.old ++ p.new).any (fun (h : Hop) => let m := d.tileMode h.tile; m = Tm.fenced || m = Tm.offline)
  if 3 ≤ p.phase then d
  else if out || bad p.split || bad p.joinNew || bad p.joinOld then d.abortPiece p St.pieceAborted
  else if new.any bad then d.abortPiece p St.pieceAborted
  else if old.any bad then d.pieceToDark p (d.flag (F.CIR.NO_DARK p.entry))
  else d

/-- Every piece at a boundary, after the transitions. -/
def Dev.piecesBoundary (d : Dev) (beat : Bool) (lit : List Nat) : Dev :=
  forEach d.cir.pieces (fun (p0 : Piece) (d : Dev) =>
    match d.cir.pieces.find? (fun (x : Piece) => x.entry = p0.entry) with
    | none => d
    | some p =>
      if p.phase = 3 then d.pieceDark p
      else if p.phase = 4 then d.endPiece p
      else
        let d := d.pieceFault p
        match d.cir.pieces.find? (fun (x : Piece) => x.entry = p0.entry) with
        | some q => if q.phase = 3 then d else d.pieceStep q beat (lit.contains q.entry)
        | none => d) d

/-- PIECE_LOCK_TIMEOUT (R144): lock not declared within LOCK_MAX beats, or lost at two consecutive beat boundaries. -/
def Dev.pieceLockTimeout (d : Dev) (e : Nat) : Dev :=
  match d.cir.pieces.find? (fun (x : Piece) => x.entry = e) with
  | none => d
  | some p =>
    if (p.phase = 1 && d.lockMax ≤ p.beats) || (p.phase = 2 && decide (2 ≤ p.bad)) then
      if d.flag F.PIECE_CFG.DARK_FALLBACK && !d.flag (F.CIR.NO_DARK e) then d.pieceToDark p false
      else d.abortPiece p St.pieceAborted
    else d

end Sys2Proof.Machine
end

