-- ==== Sys2Proof/Machine/Weft.lean ====
section
/-! DEFINITION. Weft links to the tiles (chapter 08) and the tile modes (chapter 05, R108 - R110): training, lanes, drive
frames and their chunks, sense frames, acknowledgement, holdover, adoption from echoes. -/

namespace Sys2Proof.Machine

/-- The event block of a link (R379). -/
def weftBlock (t : Nat) : Nat := 0x0D + t

/-- OBJECT of a link's events (R366): the link and a mask of the lanes that failed. -/
def laneObj (t mask : Nat) : Nat := t % 256 * 256 + mask % 256

/-- A link that carries frames: UP or DEGRADED. -/
def Dev.linkUp (d : Dev) (t : Nat) : Bool := let s := d.rd (F.WEFT_STAT.LINK t); s = 2 || s = 3

/-! ## Lanes (R186) -/

/-- The count of working sense lanes in a lane mask (bits 0-3 sense, 4-5 drive). -/
def senseLanes (lanes : Nat) : Nat := (bitsSet lanes 4).length

/-- The cap in force for a number of working sense lanes, RATE encoding (R186). -/
def laneCap (n : Nat) : Nat := [0, 0, 1, 2, 3].getD n 3

/-- DT for a number of working sense lanes at a pick rate (R186). -/
def laneDt (n rate : Nat) : Nat := rate - min rate (laneCap n)

/-- Lanes that work and are not disabled by LANE_DIS. -/
def Dev.goodLanes (d : Dev) (t lanes : Nat) : Nat :=
  (bitsSet lanes 6).foldl (fun a i => if bit (d.rd (F.WEFT_CTRL.LANE_DIS t)) i then a else a + 2 ^ i) 0

/-- Whether lanes suffice for a link: both drive lanes and at least one sense lane. -/
def lanesSuffice (lanes : Nat) : Bool := bit lanes 4 && bit lanes 5 && decide (0 < senseLanes lanes)

/-- Publishes the lanes of a link that is up; the next frame carries its mask and divider, its TILE_CAP follows at the beat boundary
(R186). -/
def Dev.putLanes (d : Dev) (t lanes : Nat) : Dev :=
  let n := senseLanes lanes
  let dt := laneDt n d.pick.rate
  let d := d.updLink t (fun k => { k with lanes := lanes, mask := lanes % 16, dt := dt })
  let d := (d.wr (F.WEFT_STAT.SNS_OK t) (lanes % 16)).wr (F.WEFT_STAT.DRV_OK t) (lanes / 16)
  let was := d.rd (F.WEFT_STAT.LINK t)
  let d := d.wr (F.WEFT_STAT.LINK t) (if n = 4 then 2 else 3)
  if n < 4 && was ≠ 3 then d.raise (weftBlock t) 2 (laneObj t (63 - lanes)) 1 else d

/-- Cells of a tile with any record, loop code or auxiliary state that is not at its reset value, in number order. -/
def Dev.tileCells (d : Dev) (t : Nat) : List Nat :=
  let cellBase := 0x010C4000
  let inMem := d.mem.filterMap (fun (kv : Nat × Nat) =>
    let a := kv.1 / 32
    if 0x02000000 ≤ a && a < 0x02800000 then
      let l := (a - 0x02000000) / 128
      if loopTile l = t && !isVoa l then some (loopCell l) else none
    else if cellBase ≤ a && a < 0x011B4000 then
      let c := (a - cellBase) / 16
      if cellTile c = t then some c else none
    else none)
  let inAux := d.cell.aux.filterMap (fun (ca : Nat × CellAux) => if cellTile ca.1 = t then some ca.1 else none)
  (inMem ++ inAux).eraseDups.mergeSort

/-- Drops a link: drive frames stop (R187). -/
def Dev.linkDown (d : Dev) (t : Nat) : Dev :=
  if d.rd (F.WEFT_STAT.LINK t) = 0 then d
  else
    let was := d.linkUp t
    let d := d.wr (F.WEFT_STAT.LINK t) 0
    let d := if was then d.raise (weftBlock t) 1 (laneObj t (63 - (d.link t).lanes)) 1 else d
    d.updLink t (fun k => { k with sent := none, heard := false, trained := false })

/-- A training attempt starts (R172). -/
def Dev.trainStart (d : Dev) (t : Nat) : Dev := (d.wr (F.WEFT_STAT.LINK t) 1).updLink t (fun k => { k with trainTb := d.time.tb })

/-- A retraining attempt starts (R187): counted; the link trains again. -/
def Dev.retrainStart (d : Dev) (t : Nat) : Dev := ((d.linkDown t).bump (F.WEFT_STAT.RETRAINS t) 1).trainStart t

/-- The interval between two attempts at a link or a lane that is down (R186, R187). -/
def retrainNs : Nat := 100000000

/-- LINK_RETRAIN_TIMER (R187, R424): 100 ms after an attempt that failed, from start-up stage 4 on, a link that is DOWN is trained again. -/
def Dev.linkRetry (d : Dev) (t : Nat) : Dev :=
  if d.rd (F.WEFT_STAT.LINK t) ≠ 0 || decide (d.rd F.BOOT_STAT.STAGE < 4) then d
  else d.fire ((d.link t).trainTb + retrainNs) (fun d => d.retrainStart t)

/-- A lane fails (R186). -/
def Dev.laneFail (d : Dev) (t lane : Nat) : Dev :=
  let k := d.link t
  if !d.linkUp t || !bit k.lanes lane || 6 ≤ lane then d
  else
    let f : Fld := { F.WEFT_LANE.FAIL_CNT t with hi := 5 * lane + 4, lo := 5 * lane }
    let old := bits (d.rd (F.WEFT_LANE.FAIL_CNT t)) f.hi f.lo
    let d := d.wr (F.WEFT_LANE.FAIL_CNT t) (putBits (d.rd (F.WEFT_LANE.FAIL_CNT t)) f.hi f.lo (min 31 (old + 1)))
    let d := (d.countQ 0x37 t).raise (weftBlock t) 3 (laneObj t (2 ^ lane)) 1
    let d := if k.lanes = 63 then d.updLink t (fun k => { k with laneTb := d.time.tb }) else d
    let lanes := putBit k.lanes lane false
    if lanesSuffice lanes then d.putLanes t lanes
    else
      let d := (d.wr (F.WEFT_STAT.SNS_OK t) (lanes % 16)).wr (F.WEFT_STAT.DRV_OK t) (lanes / 16)
      (d.updLink t (fun k => { k with lanes := lanes })).retrainStart t

/-- LANE_FAIL (R186): a lane has lost block lock, or more than 16 invalid sync headers came in each of the last four picks. -/
def Dev.laneJudge (d : Dev) (t : Nat) (r : LaneReport) : Dev :=
  if !r.lock || (r.bad.length = 4 && r.bad.all (fun n => decide (16 < n))) then d.laneFail t r.lane else d

/-- LANE_RETRAIN (R186): failed lanes are retrained in the background every 100 ms; one that passes rejoins at a beat boundary. -/
def Dev.laneRetrain (d : Dev) (t passed : Nat) : Dev :=
  if !d.linkUp t || (d.link t).lanes = 63 then d
  else d.fire ((d.link t).laneTb + retrainNs) (fun d =>
    let back := (bitsSet (d.goodLanes t (passed % 64)) 6).filter (fun i => !bit (d.link t).lanes i)
    d.updLink t (fun k => { k with rejoin := back.foldl (fun a i => putBit a i true) k.rejoin, laneTb := d.time.tb }))

/-- TILE_CAP of every link that is up, at a beat boundary (R186). -/
def Dev.tileCaps (d : Dev) : Dev :=
  forEach (List.range 16) (fun t (d : Dev) =>
    if d.linkUp t then d.wr (F.TILE_CAP.CAP t) (laneCap (senseLanes (d.link t).lanes)) else d) d

/-- Lanes that rejoin at a beat boundary. -/
def Dev.laneRejoin (d : Dev) : Dev :=
  forEach (List.range 16) (fun t (d : Dev) =>
    let k := d.link t
    if k.rejoin = 0 || !d.linkUp t then d
    else
      let lanes := (bitsSet k.rejoin 6).foldl (fun a i => putBit a i true) k.lanes
      (d.putLanes t lanes).updLink t (fun k => { k with rejoin := 0 })) d

/-- The lanes that pass phase 1: 64 consecutive valid sync headers. -/
def trainLanes (r : TrainResult) : Nat :=
  (r.heads.take 6).zipIdx.foldl (fun a (hi : Nat × Nat) => if 64 ≤ hi.1 then a + 2 ^ hi.2 else a) 0

/-- FLIGHT_PS: half the mean of 256 round trips less TURN_NS, to the nearest ps (R59 rule 4). -/
def trainFlight (r : TrainResult) : Int := divRound (((r.trips.sum : Nat) : Int) - 256 * 1000 * r.turn) 512

/-- Whether a link passes the phases of R172 one by one. -/
def Dev.trainPasses (d : Dev) (t : Nat) (r : TrainResult) : Bool :=
  lanesSuffice (d.goodLanes t (trainLanes r)) && decide (r.skewIn ≤ 40) && decide (r.skewOut ≤ 40) &&
  r.trips.length = 256 && decide (0 ≤ trainFlight r) && decide (trainFlight r ≤ 60000) && decide (r.snsLat ≤ 150) && !r.ident.isEmpty

/-- LINK_TRAIN (R172): a link that trains ends UP or DEGRADED with its flight time and the identity that the answer to LISTEN holds, or DOWN
with the training-failure event. -/
def Dev.linkTrain (d : Dev) (t : Nat) (r : TrainResult) : Dev :=
  let d := d.setFlag (F.WEFT_CTRL.RETRAIN t) false
  let lanes := d.goodLanes t (trainLanes r)
  if d.trainPasses t r then
    let d := (d.wr (F.WEFT_FLIGHT.FLIGHT_PS t) (trainFlight r).toNat).wr (F.WEFT_FLIGHT.SNS_LAT_NS t) r.snsLat
    let w := r.ident.getD 6 0
    let d := (((d.wr (F.WEFT_IDENT.PART t) (bits w 15 0)).wr (F.WEFT_IDENT.REV t) (bits w 23 16)).wr (F.WEFT_IDENT.PORT t)
      (bits (r.ident.headD 0) 19 19)).setFlag (F.WEFT_IDENT.VALID t) true
    let d := d.putLanes t lanes
    d.updLink t (fun k => { k with trained := true, sent := none, heard := false, closed := [], barred := false, laneTb := d.time.tb })
  else
    let d := d.wr (F.WEFT_STAT.LINK t) 0
    (d.updLink t (fun k => { k with trained := false, sent := none })).raise (weftBlock t) 0 (laneObj t (63 - lanes)) 1

/-! ## Tile modes (R108) -/

/-- Adds a tile transition for the next boundary. -/
def Dev.tileTrigger (d : Dev) (t mode : Nat) (fatal : Bool) (items : List Nat) : Dev :=
  let x : TileTrig := { tile := t, mode := mode, fatal := fatal, items := items }
  { d with weft := { d.weft with tileTrig := d.weft.tileTrig ++ [x] } }

/-- The cells of a tile that are in CAL park at the boundary. -/
def Dev.parkCal (d : Dev) (t : Nat) : Dev :=
  forEach (d.tileCells t) (fun c (d : Dev) => if d.cellMode c = Cm.cal then d.trigger c 6 .calEnd else d) d

/-- Aborts a tile's calibration runs (R110, R433): the item ends with ABORTED, the calibration source goes off.  Cells in CAL keep
their mode here: in HOLDOVER they hold it (R113). -/
def Dev.abortRuns (d : Dev) (t : Nat) : Dev :=
  let runs := d.cal.runs.filter (fun (r : CalRun) => r.tile = t)
  let d := { d with cal := { d.cal with runs := d.cal.runs.filter (fun (r : CalRun) => r.tile ≠ t) } }
  let d := if runs.isEmpty then d else (d.setFlag F.CAL_STAT.RUNNING (!d.cal.runs.isEmpty))
  let d := forEach runs (fun (r : CalRun) (d : Dev) =>
    let d := match r.cell with
      | some c => d.updAux c (fun a => { a with calItem := none })
      | none => d
    d.finishOpt r.item St.aborted []) d
  if (d.link t).source then
    (d.sendMode t (0x04 * 2 ^ 56)).updLink t (fun k => { k with source := false })
  else d

/-- Aborts a tile's calibration; cells that were in CAL park. -/
def Dev.abortCal (d : Dev) (t : Nat) : Dev := (d.abortRuns t).parkCal t

/-- The cells of a tile that returns from HOLDOVER wait for their echoes (R110): those of the burst that has begun, none from before. -/
def Dev.awaitEcho (d : Dev) (t : Nat) : Dev :=
  let d := d.updLink t (fun k => { k with echo := [] })
  forEach (d.tileCells t) (fun c (d : Dev) =>
    let m := d.cellMode c
    if m = Cm.hold || m = Cm.switch || m = Cm.settle || m = Cm.warm then d.updAux c (fun a => { a with adopt := true }) else d) d

/-- Puts the VOAs of a tile at 0x0000 (R183). -/
def Dev.closeVoas (d : Dev) (t : Nat) : Dev :=
  forEach (List.range 256) (fun p (d : Dev) => if d.rd (F.LOOP.CODE (voaLoop t p)) = 0 then d else d.voaFixed (voaLoop t p) 0) d

/-- A tile mode travels to the peer, whose modes are those last mirrored (R112), as a CONFIG record of TILE_MODE_t (assumption 28). -/
def Dev.mirrorTile (d : Dev) (t : Nat) : Dev :=
  d.mirrorConfig [(R.TILE_MODE t, .reg (d.rd (F.TILE_MODE.MODE t) + 16 * d.rd (F.TILE_MODE.PREV t)))] none

/-- A tile transition at its boundary, before the cells' triggers (R108, R110). -/
def Dev.applyTile (d : Dev) (x : TileTrig) : Dev :=
  let t := x.tile
  let from_ := d.tileMode t
  if from_ = x.mode then forEach x.items (fun i (d : Dev) => d.finish i St.ok []) d
  else
    let d := (d.wr (F.TILE_MODE.PREV t) from_).wr (F.TILE_MODE.MODE t) x.mode
    let d :=
      if x.mode = Tm.holdover then
        let d := ((d.bump (F.TILE_MODE.HOLDOVERS t) 1).countQ 0x39 t).raise (weftBlock t) 6 t x.mode
        (d.abortRuns t).tilthTileFault t
      else if x.mode = Tm.offline then
        let d := if from_ = Tm.holdover then d.raise (weftBlock t) 7 t 0 else d
        let d := (d.abortCal t).tilthTileFault t
        let d := forEach (d.tileCells t) (fun c (d : Dev) => d.trigger c 2 .offline) d
        -- a tile that fell silent must accept the claim again before it is fenced; one taken OFFLINE stays (assumption 38)
        let d := if from_ = Tm.holdover then { d with slv := { d.slv with accepted := d.slv.accepted.filter (· ≠ t) } } else d
        -- the tile parks every cell at its park entry and closes its VOAs: by itself when it has fallen silent, else by PARK_ALL (R110, R183)
        let parks := fun (k : Link) => (d.tileCells t).filterMap (fun c =>
          let p := AMap.get k.entries (c % 3840 * 16 + 2) 0
          if p = 0 then none else some (cellLoop c, p))
        (d.closeVoas t).updLink t (fun k => { k with
          modeQ := if from_ = Tm.holdover then [] else [parkAll], fcQ := [], codes := [], wake := [], wakeFor := none, adopting := false
          ref := (parks k).foldl (fun m (lc : Nat × Nat) => AMap.put m lc.1 lc.2) [], entries := [], barred := decide (from_ = Tm.fenced) })
      else if x.mode = Tm.fenced && x.fatal then
        let d := d.tilthTileFault t
        forEach (d.tileCells t) (fun c (d : Dev) =>
          if d.lit c then d.faultCell c 5
          else if d.cellMode c = Cm.warm then d
          else d.trigger c 2 .tileFault) d
      else if from_ = Tm.holdover then (d.awaitEcho t).parkCal t
      else if x.mode = Tm.fenced && from_ = Tm.active then d.tilthTileFault t
      else if x.mode = Tm.active then
        forEach (d.tileCells t) (fun c (d : Dev) =>
          if (d.caux c).causes.contains 5 || (d.cellMode c = Cm.faulted && d.rd (F.CELL.FAULT_CAUSE c) = 5) then
            d.updAux c (fun a => { a with causes := a.causes.filter (· ≠ 5), quietFrom := d.time.tb })
          else d) d
      else d
    let d := d.mirrorTile t
    forEach x.items (fun i (d : Dev) => d.finish i St.ok []) d

/-- The tile transitions of the pick, one a tile; the items of the others are refused (assumption 38). -/
def Dev.applyTiles (d : Dev) : Dev :=
  let xs := d.weft.tileTrig
  let next := (xs.map (fun (x : TileTrig) => x.tile)).eraseDups.filterMap d.tileNext
  forEach next (fun (best : TileTrig) (d : Dev) =>
    let d := d.applyTile best
    forEach (xs.filter (fun (x : TileTrig) => x.tile = best.tile && x ≠ best)) (fun (x : TileTrig) (d : Dev) =>
      forEach x.items (fun i (d : Dev) => d.finish i St.modeRefused []) d) d)
    { d with weft := { d.weft with tileTrig := [] } }

/-- A tile of the draft that is discovered: its link up, its identity as the draft asks (R424). -/
def Dev.discovered (d : Dev) (g : Img) (t : Nat) : Bool :=
  d.linkUp t && d.flag (F.WEFT_IDENT.VALID t) && (g.part t = 0 || d.rd (F.WEFT_IDENT.PART t) = g.part t) &&
  decide (g.minRev t ≤ d.rd (F.WEFT_IDENT.REV t))

/-- Tiles that were OFFLINE before this boundary, whose link is trained, that are discovered, whose role is not ABSENT and that hold this
unit's claim become FENCED (R108); a tile taken OFFLINE by an item or its role waits for its link to train again or for its role to
change (assumption 38). -/
def Dev.fenceOffline (d : Dev) (off : List Nat) : Dev :=
  if !d.controls then d
  else
    forEach off (fun t (d : Dev) =>
      if d.tileMode t = Tm.offline && !(d.link t).barred && d.tileRole t ≠ 0 && d.discovered d.draft.active t && d.slv.accepted.contains t then
        d.applyTile { tile := t, mode := Tm.fenced, fatal := false, items := [] }
      else d) d

/-- TILE_OFFLINE_TIMEOUT (R108): 50 ms without an acknowledged frame. -/
def Dev.tileOfflineTimeout (d : Dev) (t : Nat) : Dev :=
  let due := ((d.link t).ackTb.getD 0) + 50000000
  if d.controls && d.tileMode t = Tm.holdover && decide (due < d.tbOf (d.pick.num + 1)) then
    (d.advance due).tileTrigger t Tm.offline false []
  else d

/-! ## The drive frame (R173 - R177) -/

/-- Loops of a chunk that were due with their samples and were not handed over before it closed. -/
def Dev.leftOut (d : Dev) (t c : Nat) : List Nat :=
  if !d.controls || d.tileMode t ≠ Tm.active || d.tileRole t = 0 then []
  else
    ((List.range 256).map (fun e => t * 4096 + c * 256 + e)).filter (fun l =>
      (d.laux l).stepped ≠ some d.pick.num && d.stepDue l && d.flag (F.LOOP.EN l) &&
      (if isVoa l then (match d.voaUse l with
          | some u => u.last && (d.sampleNow l 1).isSome
          | none => false)
       else
        let m := d.cellMode (loopCell l)
        (m = Cm.hold || m = Cm.switch || m = Cm.settle || m = Cm.piece) && (d.sampleNow l 0).isSome))

/-- A chunk closes: loops not handed over are left out, counted and late (R14).  `slack`: ns from its last hand-off to its cutoff. -/
def Dev.chunkClose (d : Dev) (t c slack : Nat) : Dev :=
  if !d.linkUp t || 16 ≤ c || (d.link t).closed.contains c then d
  else
    let d := forEach (d.leftOut t c) (fun l (d : Dev) => (d.omitted l).lateStep l 0) d
    d.updLink t (fun k => { k with
      closed := k.closed ++ [c]
      slackBeat := some (match k.slackBeat with
        | some s => min s slack
        | none => slack) })

/-- CHUNK_CUTOFF (R177): the chunk closes as soon as every due loop has handed over its code, at its cutoff else. -/
def Dev.chunkCutoff (d : Dev) (t c slack : Nat) : Dev :=
  if (d.leftOut t c).isEmpty then d.chunkClose t c slack else d.fire (d.cutoff t c) (fun d => d.chunkClose t c slack)

/-- Opcode of a mode command. -/
def modeOp (w : Nat) : Nat := w / 2 ^ 56

/-- Builds the frame that the tile of a link applies at the present boundary, from what the pick handed over and what the
boundary placed (R173 - R177, R184). -/
def Dev.buildFrame (d : Dev) (t : Nat) : Dev :=
  let k := d.link t
  let drive := d.controls || d.role = Pr.claiming || d.slv.claiming
  let handed := d.role = Pr.handing && decide (d.slv.agreed ≤ d.pick.num)
  let hold := d.role = Pr.claiming || d.slv.claiming || handed || d.tileMode t = Tm.holdover || d.tileMode t = Tm.offline
  let only := drive && hold
  let pick := d.pick.num % 2 ^ 32
  let modes := if !drive then [] else (if k.burst then [echoBurst] else []) ++ k.modeQ
  let fcs := if drive && !only then k.fcQ else []
  let held := fun (l : Nat) => AMap.get k.ref l 0
  -- a cell takes one entry a frame, and FC entries are never left out: a code beside one that only sets FC is (R175, R177)
  let waits := fun (l : Nat) => fcs.any (fun (ce : Nat × Entry) => cellLoop ce.1 = l && (match ce.2 with
    | .fc sw _ _ _ => !sw
    | _ => false))
  let swTo := fcs.filterMap (fun (ce : Nat × Entry) => match ce.2 with
    | .fc true _ _ _ => some (cellLoop ce.1, d.thCode ce.1)
    | _ => none)
  let isSw := fun (l : Nat) => swTo.any (fun (lc : Nat × Nat) => lc.1 = l)
  let again : List (Nat × Nat) := if k.resend then
      (d.tileCells t).map (fun c => (cellLoop c, d.thCode c)) ++
      (List.range 256).map (fun p => (voaLoop t p, d.rd (F.LOOP.CODE (voaLoop t p)))) else []
  let codes := again.foldl (fun m (lc : Nat × Nat) =>
    if lc.2 ≠ held lc.1 && (AMap.find m lc.1).isNone then AMap.put m lc.1 lc.2 else m) k.codes
  let go := if drive && !only then codes.filter (fun (lc : Nat × Nat) => !waits lc.1 && !isSw lc.1) else []
  let out := if drive && !only then codes.filter (fun (lc : Nat × Nat) => waits lc.1) else []
  let entries := go.map (fun (lc : Nat × Nat) => (lc.1, codeEntry (held lc.1) lc.2)) ++
    fcs.map (fun (ce : Nat × Entry) => (cellLoop ce.1, ce.2))
  let f : DriveFrame := { listen := !drive, tile := t, band := d.band t, rate := d.pick.rate, claimOnly := only
                          claim := if drive then d.rd F.SLV_CLAIM.CLAIM else 0, pick := pick, snsMask := k.mask, dt := k.dt
                          modes := modes.take 48, entries := entries }
  let d := if drive && k.burst then d.countQ 0x38 t else d
  let d := forEach out (fun (lc : Nat × Nat) (d : Dev) => d.omitted lc.1) d
  let d := (d.countQ 0x30 t).wr (F.WEFT_STAT.DT t) k.dt
  d.updLink t (fun k => { k with
    sent := some f
    sentCodes := go ++ swTo
    modeQ := modes.drop 48
    fcQ := if only then k.fcQ else []
    codes := []
    burst := if drive then false else k.burst
    -- what a CLAIM_ONLY frame could not carry goes with the drives that differ from what the tile holds (R184)
    resend := only && (k.resend || !k.codes.isEmpty)
    closed := []
    heard := false })

/-- The frames of every link that is up, at a boundary. -/
def Dev.buildFrames (d : Dev) : Dev :=
  forEach (List.range 16) (fun t (d : Dev) =>
    if d.linkUp t then d.buildFrame t
    else d.updLink t (fun k => { k with codes := [], fcQ := [], closed := [] })) d

/-- BOUNDARY_MARKER (R170): launched on both drive lanes FLIGHT_PS before the boundary, on the 62.5 ps lane interval at or before that instant
(DESIGN CHOICE, assumption 36: the rule names the interval, not the direction), with the pick number [23:0]. -/
def Dev.boundaryMarker (d : Dev) (t : Nat) : Dev :=
  if !d.linkUp t then d
  else
    let ps := d.tbOf (d.pick.num + 1) * 1000 - d.rd (F.WEFT_FLIGHT.FLIGHT_PS t)
    (d.advance (ps / 1000)).updLink t (fun k => { k with marker := some (ps * 2 / 125, markerBlock (d.pick.num + 1)) })

/-! ## Acknowledgement and loss (R184, R185) -/

/-- The frame in force was applied: its codes are the tile's, its TARGET_WR entries are written. -/
def Dev.ackFrame (d : Dev) (t : Nat) (f : DriveFrame) : Dev :=
  let wrs := f.modes.filter (fun w => modeOp w = 0x02)
  let k := d.link t
  let was := k.ackTb
  let d := d.updLink t (fun k => { k with
    ref := k.sentCodes.foldl (fun m (lc : Nat × Nat) => AMap.set m lc.1 lc.2 0) k.ref
    unacked := 0
    ackTb := some d.time.tb
    entries := wrs.foldl (fun m w => AMap.set m (bits w 49 38 * 16 + bits w 37 36 * 4 + bits w 35 34) (bits w 15 0) 0) k.entries })
  if d.tileMode t = Tm.holdover && (match was with
      | some tb => decide (d.time.tb ≤ tb + 50000000)
      | none => true) then
    let back := d.rd (F.TILE_MODE.PREV t)
    d.tileTrigger t (if back = Tm.active then Tm.active else Tm.fenced) false []
  else d

/-- FC_START of a resent entry: decayed by one pick, a tie going upward (R184). -/
def decayed (start decay ns : Nat) : Nat := (start * expNeg ns (decayTau decay) + 2 ^ 31) / 2 ^ 32

/-- The frame in force was not applied, or is not known to have been: its codes, FC entries and mode commands go again; two in
a row put the tile in HOLDOVER (R184). -/
def Dev.missFrame (d : Dev) (t : Nat) (f : DriveFrame) : Dev :=
  let fcs : List (Nat × Entry) := f.entries.filterMap (fun (le : Nat × Entry) => match le.2 with
    | .fc sw x s dc => some (loopCell le.1, .fc sw x (decayed s dc d.pickNs) dc)
    | _ => none)
  let late := (fcs.filterMap (fun (ce : Nat × Entry) => match ce.2 with
    | .fc true _ _ _ => d.entryOnCell ce.1
    | _ => none)).eraseDups
  let d := forEach late (fun e (d : Dev) => { d with cir := { d.cir with applied := AMap.put d.cir.applied e (d.pick.num + 1) } }) d
  let d := d.updLink t (fun k => { k with
    resend := true
    unacked := k.unacked + 1
    modeQ := f.modes ++ k.modeQ
    fcQ := fcs.foldl (fun m (ce : Nat × Entry) => if (AMap.find m ce.1).isSome then m else AMap.put m ce.1 ce.2) k.fcQ })
  let m := d.tileMode t
  if decide (2 ≤ (d.link t).unacked) && (m = Tm.active || m = Tm.cal || m = Tm.fenced) &&
     !d.weft.tileTrig.any (fun (x : TileTrig) => x.tile = t && x.mode = Tm.holdover) then
    d.tileTrigger t Tm.holdover false []
  else d

/-- Sense blocks lost (R185). -/
def Dev.senseLost (d : Dev) (t n : Nat) : Dev :=
  if n = 0 then d else ((d.bump (F.WEFT_ERR_A.SENSE_LOST t) n).countN 0x33 t n).raise (weftBlock t) 5 (laneObj t 0) 1

/-- A drive frame of this unit that asks for an acknowledgement. -/
def Dev.needsAck (d : Dev) (t : Nat) : Option DriveFrame :=
  match (d.link t).sent with
  | some f => if f.listen || f.claim = 0 then none else some f
  | none => none

/-- Links from which no sense frame came in the pick that ends: its blocks are lost and the frame counts as unacknowledged. A
link that is DOWN acknowledges nothing either. -/
def Dev.unheard (d : Dev) : Dev :=
  forEach (List.range 16) (fun t (d : Dev) =>
    let k := d.link t
    if k.heard then d
    else if d.linkUp t then
      match d.needsAck t with
      | some f => (d.senseLost t 18).missFrame t f
      | none => if k.sent.isSome then d.senseLost t 18 else d
    else
      let m := d.tileMode t
      if d.controls && (m = Tm.active || m = Tm.cal || m = Tm.fenced) then
        let d := d.updLink t (fun k => { k with unacked := k.unacked + 1 })
        if decide (2 ≤ (d.link t).unacked) then d.tileTrigger t Tm.holdover false [] else d
      else d) d

/-! ## Echo and adoption (R110, R112, R181) -/

/-- Drive index i of an echo as it stood: code and pick. -/
def Dev.echoOf (d : Dev) (t i : Nat) : Option (Nat × Nat) := AMap.find (d.link t).echo i

/-- Adopts a cell from its echoed codes, when both have arrived (R110, R112). -/
def Dev.adoptCell (d : Dev) (c : Nat) (all : Bool) : Dev :=
  let t := cellTile c
  match d.echoOf t (c % 3840), d.echoOf t (3840 + c % 3840) with
  | some (th, _), some (fc, _) =>
    let m := d.cellMode c
    let d := d.updAux c (fun a => { a with adopt := false })
    let fc := min 1024 ((fc + 16) / 32)
    if all && m = Cm.switch && th ≠ d.rd (F.CELL.TARGET_CODE c) then
      -- committed on the peer and never applied at the tile: switched again (R353)
      (d.putTh c th).trigger c 2 (.commit (d.caux c).cross)
    else if m = Cm.hold || m = Cm.switch || m = Cm.settle then d.trigger c 2 (.adopt th fc)
    else if m = Cm.warm || (all && m = Cm.parked && th ≠ d.parkCode c && (d.tileMode t = Tm.active || d.tileMode t = Tm.holdover)) then
      d.trigger c 2 (.adoptUndo th)
    else if all && (m = Cm.frozen || m = Cm.faulted || m = Cm.piece) then d.putTh c th
    else d
  | _, _ => d

/-- Echo codes of a sense frame: kept, and cells that wait for them are adopted. -/
def Dev.takeEcho (d : Dev) (t base : Nat) (codes : List Nat) : Dev :=
  let idx := codes.zipIdx.map (fun vi => ((base + vi.2) % 7936, vi.1))
  let pick := d.pick.num
  -- an echoed TH or VOA code is what the tile holds (R174, R181)
  let held := idx.filterMap (fun (iv : Nat × Nat) =>
    if iv.1 < 3840 then some (t * 4096 + iv.1, iv.2) else if 7680 ≤ iv.1 then some (voaLoop t (iv.1 - 7680), iv.2) else none)
  let d := d.updLink t (fun k => { k with
    echo := idx.foldl (fun m (iv : Nat × Nat) => AMap.put m iv.1 (iv.2, pick)) k.echo
    ref := held.foldl (fun m (lc : Nat × Nat) => AMap.set m lc.1 lc.2 0) k.ref })
  let k := d.link t
  forEach (idx.map (fun (iv : Nat × Nat) => iv.1)) (fun i (d : Dev) =>
    if 7680 ≤ i then d
    else
      let c := t * 3840 + i % 3840
      if (d.caux c).adopt then d.adoptCell c false
      else if k.adopting && !(d.link t).seen.contains c && (d.echoOf t (c % 3840)).isSome && (d.echoOf t (3840 + c % 3840)).isSome then
        (d.adoptCell c true).updLink t (fun k => { k with seen := k.seen ++ [c] })
      else d) d

/-! ## The sense frame (R178 - R180) -/

/-- Keeps the due samples of a block that arrived: those of a loop whose step of this pick has been taken came too late, and are discarded
and counted (R15, R185). -/
def Dev.takeSamples (d : Dev) (t : Nat) (xs : List (Nat × Nat × Nat)) : Dev :=
  let pick := d.pick.num
  let late := fun (l : Nat) => decide ((d.laux l).stepped = some pick)
  let n := (xs.filter (fun x => late x.1)).length
  let good := xs.filter (fun x => !late x.1)
  let d := if n = 0 then d else (d.bump (F.WEFT_ERR_B.LATE_SAMPLES t) n).countN 0x34 t n
  d.updLink t (fun k => { k with samples := good.foldl (fun m (x : Nat × Nat × Nat) =>
    AMap.put (AMap.put m (x.1 * 2) (x.2.1, pick)) (x.1 * 2 + 1) (x.2.2, pick)) k.samples })

/-- Endpoint flags (R179, R101 cause 1): a listed cell endpoint faults its cell, but in an OFFLINE tile, whose cells are PARKED only
(R113); with fewer than seven words listed, a cell that is not listed is no longer flagged. -/
def Dev.takeFlags (d : Dev) (t : Nat) (ws : List Nat) : Dev :=
  let cells := (ws.filterMap (fun w =>
    let e := bits w 15 0
    if e / 4096 = 15 then none else some (t * 3840 + e / 4096 * 256 + e % 4096 / 4))).eraseDups
  let cells := if d.tileMode t = Tm.offline then [] else cells
  let d := forEach cells (fun c (d : Dev) =>
    if (d.caux c).causes.contains 1 && d.cellMode c = Cm.faulted then d.updAux c (fun a => { a with quietFrom := d.time.tb }) else d.faultCell c 1) d
  let d := d.updLink t (fun k => { k with flags := ws })
  if 7 ≤ ws.length then d
  else
    forEach (d.cell.aux.filterMap (fun (ca : Nat × CellAux) =>
      if cellTile ca.1 = t && ca.2.causes.contains 1 && !cells.contains ca.1 then some ca.1 else none)) (fun c (d : Dev) =>
      d.updAux c (fun a => { a with causes := a.causes.filter (· ≠ 1), quietFrom := d.time.tb })) d

/-- The header of a sense frame that passed its CRC (R179): acknowledgement, claims, status. -/
def Dev.takeHeader (d : Dev) (t : Nat) (f : SenseFrame) : Dev :=
  let w := fun i => f.words.getD i 0
  let held := w 3
  let d := ((d.wr (F.WEFT_CLAIM.CLAIM_HELD t) held).wr (F.WEFT_WIT.WITNESS t) (w 5)).setFlag (F.WEFT_STAT.HOLDER_SILENT t) (bit (w 0) 16)
  let d := d.wr (F.WEFT_IDENT.PORT t) (bits (w 0) 19 19)
  let own := d.rd F.SLV_CLAIM.CLAIM
  let d := if held = own && own ≠ 0 && !d.slv.accepted.contains t && (d.controls || d.role = Pr.claiming || d.slv.claiming) then
      -- echoes from before the claim was accepted count for nothing (R112, R184)
      ({ d with slv := { d.slv with accepted := d.slv.accepted ++ [t] } }).updLink t (fun k => { k with echo := [] }) else d
  let d := if bit (w 0) 14 then
      ((d.bump (F.WEFT_ERR_B.CLAIM_REJ t) 1).countQ 0x36 t).raise (weftBlock t) 9 held (d.rd F.SLV_STAT.P_LOST + d.rd F.SLV_STAT.T_LOST * 2 + d.rd F.SLV_STAT.MIRROR * 256)
    else d
  let d := if bit (w 4) 0 && !(d.link t).fatal then d.raise (weftBlock t) 8 t (w 4 % 32) else d
  let d := d.updLink t (fun k => { k with
    claimRej := bit (w 0) 14
    witPick := some d.pick.num
    applied := w 2
    head := f.words
    fatal := bit (w 4) 0 })
  let d := if d.controls && bit (w 4) 0 && d.tileMode t = Tm.active &&
      !d.weft.tileTrig.any (fun (x : TileTrig) => x.tile = t && x.fatal) then d.tileTrigger t Tm.fenced true [] else d
  let d := forEach [0, 1] (fun i (d : Dev) => if bit (w 4) (8 + i) then d else d.laneFail t (4 + i)) d
  let d := if d.controls then d.takeFlags t (f.flags.take (bits (w 0) 2 0)) else d
  match d.needsAck t with
  | none => d
  | some s =>
    if w 2 = s.pick then d.ackFrame t s
    else
      let d := ((d.bump (F.WEFT_ERR_A.DRIVE_MISSED t) 1).countQ 0x32 t).raise (weftBlock t) 4 (laneObj t 0) 1
      d.missFrame t s

/-- What a sense frame brings to the link and the engines (R178 - R181, R185); a link that is down hears none, and a link hears
one a pick. -/
def Dev.senseFrame (d : Dev) (t : Nat) (f : SenseFrame) : Dev :=
  if !d.linkUp t || (d.link t).heard then d
  else
    let d := d.countQ 0x31 t
    if !f.crcOk then
      let d := (d.senseLost t 18).updLink t (fun k => { k with heard := true })
      match d.needsAck t with
      | some s => d.missFrame t s
      | none => d
    else
      let d := (d.updLink t (fun k => { k with heard := true })).headerHisto t
      let lost := (f.blocks.filter (fun b => !b.1)).length + (if f.tailOk then 0 else 1)
      let d := d.senseLost t lost
      let d := forEach f.blocks (fun (b : Bool × List (Nat × Nat × Nat)) (d : Dev) =>
        if b.1 then d.takeSamples t b.2 else d) d
      let d := d.takeHeader t f
      if f.tailOk then
        let d := d.takeEcho t (bits (f.words.getD 7 0) 12 0) (f.echo.take (bits (f.words.getD 7 0) 28 16))
        if bit (f.words.getD 0 0) 18 then
          d.updLink t (fun k => { k with thermal := f.thermal.zipIdx.map (fun (vi : Nat × Nat) => (vi.2, vi.1)) })
        else d
      else d

/-! ## CELL_FAULT_QUIET (R98, R101) -/

/-- Whether a cause of a cell fault still stands: a flagged endpoint, a tile that is not ACTIVE (cause 5). -/
def Dev.causeStands (d : Dev) (c : Nat) : Bool :=
  (d.caux c).causes.contains 1 ||
  (((d.caux c).causes.contains 5 || d.rd (F.CELL.FAULT_CAUSE c) = 5) && d.tileMode (cellTile c) ≠ Tm.active)

/-- The quiet period of a cell fault, ns: QUIET_MS of the Circuit block (R370). -/
def Dev.cellQuietNs (d : Dev) : Nat := 1000000 * max 1 (d.rd (F.EV_QUIET.QUIET_MS 0x0C))

/-- Every cause absent for the quiet period: the cell leaves FAULTED at the next boundary. -/
def Dev.cellFaultQuiet (d : Dev) (c : Nat) : Dev :=
  let a := d.caux c
  let due := a.quietFrom + d.cellQuietNs
  let m := d.tileMode (cellTile c)
  if d.cellMode c ≠ Cm.faulted || !d.controls || d.causeStands c || d.tbOf (d.pick.num + 1) ≤ due || m = Tm.holdover ||
     (d.lit c && a.held && m ≠ Tm.active) then d
  else
    let d := (d.advance due).updAux c (fun a => { a with causes := [] })
    d.trigger c 1 .clear

/-- SWITCH_MAX_EXPIRY (R105): the cell enters SETTLE at the boundary after SWITCH_MAX picks. -/
def Dev.switchMaxExpiry (d : Dev) (c : Nat) : Dev :=
  if d.controls && d.cellMode c = Cm.switch && d.tileMode (cellTile c) = Tm.active &&
     decide ((d.caux c).entry + max 1 (d.rd F.CELL_CFG.SWITCH_MAX) ≤ d.pick.num + 1) then
    d.trigger c 9 (.arrive true)
  else d

/-- SETTLE_END (R106): after at least one step, at the boundary after the predicted share falls to π/1024. -/
def Dev.settleEnd (d : Dev) (c : Nat) : Dev :=
  if d.controls && d.cellMode c = Cm.settle && d.tileMode (cellTile c) = Tm.active && decide (1 ≤ (d.caux c).steps) &&
     decide (d.shareAt c (d.tbOf (d.pick.num + 1)) ≤ 1) then
    d.trigger c 9 .settled
  else d

/-- Arrivals of the pick that ends (R105): cells in SWITCH whose last step met ARRIVE_TOL and whose predicted lag is at most 1/64
of the commanded change. -/
def Dev.arrivals (d : Dev) : Dev :=
  forEach d.cell.aux (fun (ca : Nat × CellAux) (d : Dev) =>
    let c := ca.1
    if d.cellMode c = Cm.switch && ca.2.near && decide (64 * d.lagAt c d.time.tb ≤ ca.2.change * 65536) &&
       d.tileMode (cellTile c) = Tm.active && d.controls &&
       !d.cell.pend.any (fun (t : CellTrig) => t.cell = c && t.act = .arrive true) then
      d.trigger c 9 (.arrive false)
    else d) d

end Sys2Proof.Machine
end

