-- ==== Sys2Proof/Machine/Marl.lean ====
section
/-! DEFINITION. Marl (chapter 19, R411 - R414): the queue of journal transactions, their rounds, and what each commits. -/

namespace Sys2Proof.Machine

/-- Every field key of the register tables whose Reset column says Marl, with the value it takes when it was never stored. -/
def marlFields : List (Nat × Nat) :=
  regTable.flatMap (fun (r : RRow) =>
    let fs := r.fields.filterMap (fun (f : FRow) => f.marl.map (fun v => (f.lo, v)))
    if fs.isEmpty then []
    else
      let bases := r.dims.foldl (fun (bs : List Nat) (sc : Nat × Nat) =>
        bs.flatMap (fun b => (List.range sc.2).map (fun i => b + sc.1 * i))) [r.base]
      bases.flatMap (fun b => fs.map (fun lv => (b * 32 + lv.1, lv.2))))

/-- Pages a transaction programs, and blocks it erases (R411, R412): half of its region for a two-generation region, one page of
the ring's next block for a ring (assumption 24). -/
def MarlKind.size : MarlKind → Nat × Nat
  | .faultLog => (1, 0)
  | .key _ _ => (4, 1)
  | .config => (512, 2)
  | .cal => (2048, 8)
  | .treadle => (2048, 8)
  | .silt => (1, 0)
  | .image _ _ => (4096, 16)

/-- The region whose blocks a transaction erases, for its wear count. -/
def MarlKind.region : MarlKind → Nat
  | .faultLog => 0
  | .key _ _ => 1
  | .config => 2
  | .cal => 3
  | .treadle => 4
  | .silt => 5
  | .image s _ => 6 + s

/-- The values of the Marl fields as they stand. -/
def Dev.marlRegs (d : Dev) : List (Nat × Nat) :=
  marlFields.map (fun kv => (kv.1, AMap.get d.mem kv.1 0))

/-- Coefficient-set words that are not at their reset value. -/
def Dev.coefMem (d : Dev) : List (Nat × Nat) :=
  d.mem.filter (fun (kv : Nat × Nat) => decide (0x010C0000 ≤ kv.1 / 32) && decide (kv.1 / 32 < 0x010C4000))

/-- A gate list as GATE_LIST_WRITE parameters. -/
def GateList.bytes (port : Nat) (g : GateList) : List Byte :=
  beBytes 1 port ++ beBytes 1 (if g.enable then 1 else 0) ++ beBytes 1 g.entries.length ++ [0] ++ beBytes 8 g.start ++
  beBytes 4 g.cycle ++ g.entries.flatMap (fun (e : Nat × Nat) => beBytes 1 e.1 ++ zeros 3 ++ beBytes 4 e.2)

/-- LOOPCFG of a loop as it stands (R430). -/
def Dev.loopCfg (d : Dev) (l : Nat) : LoopCfg :=
  { cls := d.rd (F.LOOP.CLASS l), sel := d.rd (F.LOOP.TREADLE_SEL l), trdEn := d.flag (F.LOOP.TREADLE_EN l)
    gainNeg := d.flag (F.LOOP.GAIN_NEG l), outerEn := d.flag (F.LOOP.OUTER_EN l), spNom := d.rd (F.LOOP.SP_NOM l)
    spRange := d.rd (F.LOOP.SP_RANGE l), uMin := d.rd (F.LOOP.U_MIN l), uMax := d.rd (F.LOOP.U_MAX l) }

/-- The calibration generation that a save writes: the records with LOOPCFG as the loops stand (R433). -/
def Dev.calGeneration (d : Dev) : CalSet :=
  let r := d.cal.recs
  { r with
    cells := r.cells.map (fun (c : Nat × CalRec) => (c.1, { c.2 with cfg := some (d.loopCfg (cellLoop c.1)) }))
    ports := r.ports.map (fun (p : Nat × PortCal) => (p.1, { p.2 with cfg := some (d.loopCfg (voaLoop (p.1 / 256) (p.1 % 256))) })) }

/-- Registers of the calibration that are stored with its generation. -/
def calRegKeys : List Nat :=
  ((F.CAL_HELD.HELD).key :: (F.CAL_HELD.SHADOW).key :: (List.range 16).map (fun t => (F.TILE_MODE.CAL_VALID t).key))

/-- Stores the present values of some Marl fields. -/
def Dev.storeKeys (d : Dev) (keys : List Nat) : Dev :=
  { d with nv := { d.nv with regs := keys.foldl (fun m k => AMap.put m k (AMap.get d.mem k 0)) d.nv.regs } }

/-- What a transaction brings into force at the end of its COMMIT round (R412), and the item it completes. -/
def Dev.marlCommit (d : Dev) (op : MarlOp) : Dev :=
  match op.kind with
  | .faultLog =>
    -- one page, 512 records; what waits beyond it waits for its own transaction
    let page := d.marl.buf.take 512
    let n := d.nv.faultNext + page.length
    let log := keepLast 4194304 (d.nv.faultLog ++ page)
    let wraps := decide (n / 4194304 ≠ d.nv.faultNext / 4194304)
    let d := { d with
      nv := { d.nv with faultLog := log, faultNext := n }
      marl := { d.marl with buf := d.marl.buf.drop 512, bufTb := d.time.tb } }
    if wraps then d.raise 0x00 10 0 0 else d
  | .key id r =>
    let d := { d with nv := { d.nv with keys := match r with
      | some r => AMap.put d.nv.keys id r
      | none => AMap.del d.nv.keys id } }
    (d.raise 0x2A 10 id 0).finishOpt op.item St.ok []
  | .config =>
    let d := { d with nv := { d.nv with
      regs := d.marlRegs.foldl (fun m (kv : Nat × Nat) => AMap.put m kv.1 kv.2) d.nv.regs
      active := d.draft.active
      staged := d.draft.staged
      coefs := d.coefMem
      gates := d.sched.oper.map (fun (pg : Nat × GateList) => (pg.1, pg.2.bytes pg.1)) } }
    d.finishOpt op.item St.ok []
  | .cal => ({ d with nv := { d.nv with cal := d.calGeneration, calOld := d.nv.cal } }).storeKeys calRegKeys
  | .treadle => d.treadleSaveEnds 1
  | .silt => { d with nv := { d.nv with silt := d.silt.hist, drift := d.silt.drift, hours := d.rd F.SILT_HOURS.HOURS } }
  | .image slot img =>
    let d := { d with nv := { d.nv with slots := AMap.put d.nv.slots slot img, preferred := slot } }
    let d := d.raise 0x01 10 slot img.version
    d.finishOpt op.item St.ok (beBytes 1 slot ++ zeros 3 ++ beBytes 4 img.version)

/-- A transaction ends in error: its item ends with MARL_ERROR, and what it wrote is not visible. -/
def Dev.marlFailed (d : Dev) (op : MarlOp) (status : Nat) : Dev :=
  match op.kind with
  | .treadle => d.treadleSaveEnds (if status = St.aborted then 2 else 3)
  | .image slot _ => (d.raise 0x01 9 slot 0).finishOpt op.item status []
  | .silt => d.raise 0x21 9 0 0
  | _ => d.finishOpt op.item status []

/-- MARL_OPERATION_START (R414): the next operation by rank starts; a rank-1 one may be placed between two rounds of another.
None starts from a thermal shut-down on (R232). -/
def Dev.marlStart (d : Dev) : Dev :=
  if d.therm.shut ≠ 0 then d else
  match d.marl.queue with
  | [] => d
  | q :: qs =>
    let op := qs.foldl (fun (b : MarlOp) (x : MarlOp) => if x.rank < b.rank then x else b) q
    let free := match d.marl.run with
      | none => true
      | some r => decide (op.rank = 1 ∧ 1 < r.op.rank) && d.marl.below.isNone
    if !free then d
    else
      let d := { d with
        marl := { d.marl with queue := d.marl.queue.erase op, run := some { op := op, step := 0, left := 1 }, below := d.marl.run }
        nv := { d.nv with open_ := d.nv.open_ + 1 } }
      d.marlStat

/-- Rounds of a step of a transaction: four planes at once. -/
def MarlKind.rounds (k : MarlKind) (step : Nat) : Nat :=
  if step = 1 then (k.size.2 + 3) / 4 else if step = 2 then (k.size.1 + 3) / 4 else 1

/-- The step after one whose rounds are done, passing over a step without rounds; none after COMMIT. -/
def MarlRun.next (r : MarlRun) : Option MarlRun :=
  if r.step = 0 then
    let n := r.op.kind.rounds 1
    some (if n = 0 then { r with step := 2, left := r.op.kind.rounds 2 } else { r with step := 1, left := n })
  else if r.step = 1 then some { r with step := 2, left := r.op.kind.rounds 2 }
  else if r.step = 2 then some { r with step := 3, left := 1 }
  else none

/-- Ends the running operation; the one it was placed into goes on. -/
def Dev.marlEndRun (d : Dev) : Dev :=
  { d with
    marl := { d.marl with run := d.marl.below, below := none }
    nv := { d.nv with open_ := d.nv.open_ - 1 } }

/-- MARL_ROUND_DONE (R412): a program or erase round completes, or fails and its block is replaced from the spares (R411). -/
def Dev.marlRound (d : Dev) (ok : Bool) : Dev :=
  match d.marl.run with
  | none => d
  | some r =>
    if ok then
      let d := if r.step = 1 then
        let g := r.op.kind.region
        { d with nv := { d.nv with wear := AMap.put d.nv.wear g (AMap.get d.nv.wear g 0 + (if r.left = 1 then 1 else 0)) } } else d
      -- from a shut-down on, an operation that needs further pages ends unfinished and rolls back at the next mount (R233)
      if d.therm.shut ≠ 0 && (1 < r.left || r.step ≠ 3) then ({ d with marl := { d.marl with run := none, below := none, queue := [] } }).marlStat
      else if 1 < r.left then ({ d with marl := { d.marl with run := some { r with left := r.left - 1 } } }).marlStat
      else match r.next with
        | some n => ({ d with marl := { d.marl with run := some n } }).marlStat
        | none => ((d.marlEndRun).marlCommit r.op).marlStat
    else
      let d := d.raise 0x04 (if r.step = 1 then 1 else 0) r.op.kind.region 0
      if d.nv.spares = 0 then (((d.marlEndRun).marlFailed r.op St.marlError)).marlStat
      else
        let n := d.nv.spares - 1
        let d := ({ d with nv := { d.nv with spares := n } }).raise 0x04 4 r.op.kind.region n
        let d := if n = 0 then d.raise 0x04 6 0 0 else if n < 32 then d.raise 0x04 5 n 0 else d
        d.marlStat

/-- TREADLE_SAVE_DONE (R95): 1 the COMMIT round of a treadle save completes, which brings its generation into force; 2 the save is
aborted, 3 it fails: its transaction ends without a COMMIT record. -/
def Dev.treadleSaveDone (d : Dev) (result : Nat) : Dev :=
  let mine := fun (r : MarlRun) => decide (r.op.kind = MarlKind.treadle)
  if d.trd.save.isNone then d
  else if result = 1 then if d.marl.run.any (fun (r : MarlRun) => mine r && r.step = 3 && r.left ≤ 1) then d.marlRound true else d
  else if result = 0 then d
  else
    let d := if d.marl.run.any mine then { d with marl := { d.marl with run := d.marl.below, below := none } } else d
    let d := { d with marl := { d.marl with
      below := d.marl.below.filter (fun r => !mine r)
      queue := d.marl.queue.filter (fun (o : MarlOp) => o.kind ≠ MarlKind.treadle) } }
    (d.treadleSaveEnds result).marlStat

/-- MARL_LOG_FLUSH (R412): a page of 16 KiB, 512 records, is full, or 1 s has passed since the first of them: a rank-1 transaction. -/
def Dev.marlFlush (d : Dev) : Dev :=
  if d.marl.buf.isEmpty || d.marl.queue.any (fun (o : MarlOp) => o.kind = .faultLog) then d
  else if d.marl.buf.length < 512 then d.fire (d.marl.bufTb + 1000000000) (fun d => d.marlAsk 1 .faultLog none)
  else d.marlAsk 1 .faultLog none

/-- Mount (R413): transactions without a COMMIT record are rolled back. -/
def Dev.marlMount (d : Dev) : Dev :=
  let n := d.nv.open_
  let d := { d with nv := { d.nv with open_ := 0 }, marl := {} }
  let d := d.wr F.MARL_STAT.ROLLBACKS (min n 255)
  (forEach (List.range n) (fun _ (d : Dev) => d.raise 0x04 7 0 0) d).marlStat

end Sys2Proof.Machine
end

