-- ==== Sys2Proof/Machine/Calib.lean ====
section
/-! DEFINITION. Tile wake and cell calibration (chapter 20, R427 - R433; spot calibration, R103). -/

namespace Sys2Proof.Machine

/-! ## Wake (R428) -/

/-- Writes PARK of the calibration record into PARK_CODE of every cell that has a record (R428). -/
def Dev.parkFromRecord (d : Dev) (t : Nat) : Dev :=
  forEach d.cal.recs.cells (fun (cr : Nat × CalRec) (d : Dev) =>
    if cellTile cr.1 = t then d.wrLoop (F.LOOP.PARK_CODE (cellLoop cr.1)) cr.2.park else d) d

/-- Starts a tile's wake: its park and target entries are queued; the cells to raise stand in stage-major order.  `then_` is the
mode that the tile enters when it has woken, if it waits for that; `record`: PARK_CODE is taken from the record first. -/
def Dev.startWake (d : Dev) (t : Nat) (then_ : Option Nat) (items : List Nat) (record : Bool) : Dev :=
  let d := if record then d.parkFromRecord t else d
  let d := d.writeEntries t (cellsOf t)
  d.updLink t (fun k => { k with wake := cellsOf t, wakeTb := d.time.tb, wakeQueued := false, wakeFor := then_, wakeItems := items })

/-- TILE_WAKE (R428): once the frames have taken every TARGET_WR of the tile, cells are raised to PARK_CODE in order as the buckets
allow; a cell at or above it is set at once.  When the last is done the tile's transition that waited for the wake takes effect at the next boundary. -/
def Dev.tileWake (d : Dev) (t : Nat) : Dev :=
  let k := d.link t
  if k.wake.isEmpty || !d.controls || d.tileMode t ≠ Tm.fenced || k.modeQ.any (fun w => w / 2 ^ 56 = 0x02) then d
  else
    -- the TH code in force is the echoed one, until the loop's own code is known
    let step := fun (acc : Dev × List Nat) (c : Nat) =>
      let d := acc.1
      if !acc.2.isEmpty then (d, acc.2 ++ [c])
      else
        let now := (d.echoOf t (c % 3840)).elim (d.thCode c) (·.1)
        let d := d.wr (F.LOOP.CODE (cellLoop c)) now
        let park := d.parkCode c
        if park ≤ now then
          (if park = now then d else (d.sendCode (cellLoop c) park).putTh c park, [])
        else
          let r := d.riseTry c park
          if r.2 then ((r.1.sendCode (cellLoop c) park).putTh c park, []) else (r.1, [c])
    let r := k.wake.foldl step (d, [])
    let d := r.1.updLink t (fun k => { k with wake := r.2 })
    if r.2.isEmpty then
      let ms := (d.time.tb - k.wakeTb + 999999) / 1000000
      let d := d.wr F.SUP_RISE_STAT.WAKE_MS (min 65535 ms)
      let d := { d with boot := { d.boot with tiles := d.boot.tiles.map (fun (ts : Nat × TileStart) =>
        if ts.1 = t && ts.2.stage = 7 then (t, { ts.2 with stage := 8, wakeEnd := some d.time.tb }) else ts) } }
      match k.wakeFor with
      | some m => (d.tileTrigger t m false k.wakeItems).updLink t (fun k => { k with wakeFor := none, wakeItems := [] })
      | none => d
    else if k.wakeQueued then d
    else (d.raise 0x2C 9 t 0).updLink t (fun k => { k with wakeQueued := true })

/-! ## Records from measurements (R430 - R432) -/

/-- PPI of a tile, and FCE at most 1,200. -/
def Dev.calPpi (d : Dev) (t : Nat) : Nat := d.rd (F.CAL_NOM.PPI t)
def Dev.calFce (d : Dev) (t : Nat) : Nat := min 1200 (d.rd (F.CAL_NOM.FCE t))

/-- Power of a phase in units of 2π / 65536: φ ÷ π × PPI (R430). -/
def phasePower (ppi phase : Nat) : Nat := (divRound ((phase * 2 * ppi : Nat) : Int) 65536).toNat

/-- Centre of band b in 0.5 °C (R432). -/
def Dev.bandCentre2 (d : Dev) (b : Nat) : Int :=
  let t1 : Int := d.rd F.BAND_CFG.BAND_T1
  let t2 : Int := d.rd F.BAND_CFG.BAND_T2
  let t3 : Int := d.rd F.BAND_CFG.BAND_T3
  match b with
  | 0 => 2 * t1 - 20
  | 1 => t1 + t2
  | 2 => t2 + t3
  | _ => 2 * t3 + 20

/-- The targets of one state for the four bands, from the power measured in band b0 (R432). -/
def Dev.bandTargets (d : Dev) (r : CalRec) (t b0 code p : Nat) : List Nat :=
  [0, 1, 2, 3].map (fun b =>
    if b = b0 then code
    else
      let shift := divRound (d.rdS (F.CAL_PTC.PTC t) * (d.bandCentre2 b - d.bandCentre2 b0)) 2
      r.codeOf ((p : Int) - shift).toNat)

/-- A cell fails its calibration (R431). -/
def measFails (m : CellMeas) : Bool :=
  decide (m.phases.getD 16 0 < 65536) || decide (m.yBar < 24576) || decide (-24576 < m.yCross) ||
  decide (m.tau < 4000) || decide (12000 < m.tau)

/-- The record that a cell's measurements give (R430 - R432). -/
def Dev.measRecord (d : Dev) (m : CellMeas) (shadow : Bool) : CalRec :=
  let t := cellTile m.cell
  let ppi := d.calPpi t
  let b0 := d.band t
  let r : CalRec := { d.nominalRec t with ptab := (List.range 17).map (fun i => phasePower ppi (m.phases.getD i 0)) }
  let pBar := phasePower ppi ((65536 - m.offset % 65536) % 65536)
  let pCross := phasePower ppi ((98304 - m.offset % 65536) % 65536)
  let bar := r.codeOf pBar
  let cross := r.codeOf pCross
  { r with
    bar := d.bandTargets r t b0 bar pBar
    cross := d.bandTargets r t b0 cross pCross
    derived := 15 - 2 ^ b0
    park := if pBar ≤ pCross then bar else cross
    yBar := ofS 16 (sat16 m.yBar)
    yCross := ofS 16 (sat16 m.yCross)
    p2pi := 2 * ppi
    tau := m.tau
    fcEff := m.fcEff
    fcE := min 1200 (if m.fcPulse = 0 then 1200 else (divRound ((d.calFce t * 1024 : Nat) : Int) m.fcPulse).toNat)
    failed := false
    shadow := shadow }

/-- Takes one cell's measurements: a failed cell keeps its record and counts (R431). -/
def Dev.takeMeas (d : Dev) (m : CellMeas) (shadow : Bool) : Dev × Bool :=
  let c := m.cell
  let was := d.calRec c
  let r := if measFails m then { was with failed := true, shadow := shadow } else d.measRecord m shadow
  ({ d with cal := { d.cal with recs := { d.cal.recs with cells := AMap.put d.cal.recs.cells c r } } }, measFails m)

/-- The pass of a cell (R431). -/
def calPassOf (c : Nat) : Nat := cellElem c % 8 + cellStage c % 2 * 8

/-! ## Runs -/

/-- Starts a calibration run. -/
def Dev.startCal (d : Dev) (r : CalRun) : Dev :=
  let d := { d with cal := { d.cal with runs := d.cal.runs ++ [r] } }
  (((d.setFlag F.CAL_STAT.RUNNING true).wr F.CAL_STAT.TILE r.tile).wr F.CAL_STAT.PASS 0).wr F.CAL_STAT.FAILS 0

/-- Changes a run. -/
def Dev.putRun (d : Dev) (r : CalRun) : Dev :=
  { d with cal := { d.cal with runs := d.cal.runs.map (fun (x : CalRun) => if x.tile = r.tile && x.cell = r.cell then r else x) } }

/-- CAL_SOURCE (R176). -/
def calSource (cell pass : Nat) (one en : Bool) : Nat :=
  0x04 * 2 ^ 56 + cell * 2 ^ 38 + (if one then 2 ^ 17 else 0) + (if en then 2 ^ 16 else 0) + pass

/-- What a port's calibration writes (R431). -/
def Dev.takePort (d : Dev) (t : Nat) (p : PortMeas) : Dev :=
  let was := (AMap.find d.cal.recs.ports (t * 256 + p.port)).bind (fun (x : PortCal) => x.cfg)
  let r : PortCal := { voaStart := p.voaStart, monOffset := p.monOffset, cfg := was }
  let d := { d with cal := { d.cal with recs := { d.cal.recs with ports := AMap.put d.cal.recs.ports (t * 256 + p.port) r } } }
  if d.isActive then d.wrLoop (F.LOOP.MON_OFFSET (voaLoop t p.port)) p.monOffset else d

/-- A completed calibration of a cell clears its drift records and flags (R243). -/
def Dev.driftClear (d : Dev) (c : Nat) : Dev :=
  let was := AMap.get d.silt.drift c {}
  let d := { d with silt := { d.silt with drift := AMap.del d.silt.drift c } }
  if was.flagged then d.wr F.SILT_DRIFT.FLAGGED (d.rd F.SILT_DRIFT.FLAGGED - 1) else d

/-! ## A pass under way (R431) -/

/-- DWELL in force: below 8 taken as 8 (R438). -/
def Dev.calDwell (d : Dev) : Nat := max 8 (d.rd F.CAL_CFG.DWELL)

/-- The code of point i of the sweep. -/
def sweepCode (i : Nat) : Nat := if 16 ≤ i then 0xFFFF else i * 0x1000

/-- The record that a job's measurements give; none where the cell fails. -/
def Dev.jobRec (d : Dev) (j : CalJob) : Option CalRec :=
  match j.meas with
  | some m => if measFails m then none else some (d.measRecord m false)
  | none => none

/-- TH of a cell in calibration moves to a code when the rise budgets hold its charge, at rank 5 (R427): false where it waits. -/
def Dev.calMove (d : Dev) (c code : Nat) : Dev × Bool :=
  let r := d.riseTry c code
  if r.2 then ((r.1.moveTh c code).sendCode (cellLoop c) code, true) else (r.1, false)

/-- The FC charge of a cell's full pulse goes into what the commits of this boundary have left of the FC budget (R431). -/
def Dev.calPulse (d : Dev) (c : Nat) : Dev × Bool :=
  let b := d.pick.num
  let used := AMap.get d.cir.fcUsed b 0
  let charge := d.calFce (cellTile c)
  if used ≠ 0 && decide (d.fcBudget < used + charge) then (d, false)
  else
    let d := { d with cir := { d.cir with fcUsed := AMap.set d.cir.fcUsed b (used + charge) 0 } }
    ((d.wr (F.CELL.FC_CODE c) 1024).sendFc c false (d.caux c).cross 1024, true)

/-- A TARGET_WR of the cell is not acknowledged yet (R176). -/
def Dev.targetsOpen (d : Dev) (c : Nat) : Bool :=
  let k := d.link (cellTile c)
  let mine := fun (w : Nat) => decide (w / 2 ^ 56 = 0x02) && decide (w / 2 ^ 38 % 4096 = c % 3840)
  k.modeQ.any mine || (decide (k.unacked ≠ 0) && ((k.sent.map (fun (f : DriveFrame) => f.modes)).getD []).any mine)

/-- Step 4 of a cell's job: the record is taken (a cell without measurements fails), PARK_CODE and the entries are written (R431, R433), and
the drift records of the cell are cleared (R243). -/
def Dev.calTake (d : Dev) (j : CalJob) : Dev × Bool :=
  let c := j.cell
  let d := d.fcOff c
  let r := match j.meas with
    | some m => d.takeMeas m false
    | none =>
      ({ d with cal := { d.cal with recs := { d.cal.recs with
          cells := AMap.put d.cal.recs.cells c { d.calRec c with failed := true, shadow := false } } } }, true)
  let d := (r.1.setPark c (r.1.calRec c).park).writeEntries (cellTile c) [c]
  (d.driftClear c, r.2)

/-- One cell of the pass at a pick boundary: the job as it goes on (none: the cell is done with), and whether the cell failed here. -/
def Dev.calJob (d : Dev) (j : CalJob) : Dev × Option CalJob × Bool :=
  let c := j.cell
  if d.cellMode c ≠ Cm.cal then (d, none, false)
  else if 0 < j.left then (d, some { j with left := j.left - 1 }, false)
  else
    let hold := d.calDwell - 1
    match j.step with
    | 0 | 1 =>
      let m := d.calMove c (sweepCode j.point)
      if !m.2 then (m.1, some { j with step := 1 }, false)
      else
        let d := m.1.updLink (cellTile c) (fun k => { k with burst := true })
        (d, some (if j.point < 16 then { j with step := 1, point := j.point + 1, left := hold } else { j with step := 2, point := 0, left := hold }), false)
    | 2 =>
      match d.jobRec j with
      | none => (d, some { j with step := 4 }, false)
      | some r =>
        let b := d.band (cellTile c)
        let bar := r.bar.getD b 0
        let other := if r.park = bar then r.cross.getD b 0 else bar
        let m := d.calMove c (if j.point = 0 then r.park else other)
        if !m.2 then (m.1, some j, false)
        else (m.1, some (if j.point = 0 then { j with point := 1, left := hold } else { j with step := 3, point := 0, left := 15 }), false)
    | 3 =>
      let m := d.calPulse c
      (m.1, some (if m.2 then { j with step := 4, left := hold } else j), false)
    | 4 =>
      let m := d.calTake j
      (m.1, some { j with step := 5, point := 0 }, m.2)
    | _ =>
      if d.targetsOpen c || j.point = 1 then (d, some j, false)
      else (d.trigger c 6 .calEnd, some { j with point := 1 }, false)

/-- The source goes on for a pass (R176); the cells named enter CAL at the next boundary. -/
def Dev.passOpen (d : Dev) (r : CalRun) (word : Nat) (cells : List Nat) : Dev :=
  let d := (d.sendMode r.tile word).updLink r.tile (fun k => { k with source := true })
  (forEach cells (fun c (d : Dev) => d.trigger c 6 .calStart) d).putRun { r with lit := true }

/-- The pass is over: the source goes off (R176). -/
def Dev.passEnds (d : Dev) (r : CalRun) : Dev :=
  let d := (d.sendMode r.tile (calSource 0 0 false false)).updLink r.tile (fun k => { k with source := false })
  d.putRun { r with lit := false, work := [], ports := [], pass := if r.cell.isSome then 17 else r.pass + 1 }

/-- A tile's header (R430). -/
def Dev.calHead (d : Dev) (t wit : Nat) : Dev :=
  let h : CalHead := { part := d.rd (F.WEFT_IDENT.PART t), rev := d.rd (F.WEFT_IDENT.REV t), band := d.band t, pick := d.pick.num, witCal := wit }
  { d with cal := { d.cal with recs := { d.cal.recs with heads := AMap.put d.cal.recs.heads t h } } }

/-- A pass under way at a pick boundary: its cells, or the port group, whose measurements are taken at once; it ends when the last cell has
left CAL.  A spot calibration whose cell has left CAL otherwise is aborted. -/
def Dev.passBoundary (d : Dev) (r : CalRun) : Dev :=
  let gone := r.cell.any (fun c => d.cellMode c ≠ Cm.cal) && r.pass ≠ 17 && r.work.all (fun (j : CalJob) => decide (j.step < 5))
  if gone then (r.cell.map (fun c => d.endSpot c St.aborted)).getD d
  else if !r.lit then d
  else if r.pass = 16 && r.cell.isNone then
    ((forEach r.ports (fun (p : PortMeas) (d : Dev) => d.takePort r.tile p) d).calHead r.tile r.wit).passEnds r
  else
    let x := r.work.foldl (fun (acc : Dev × List CalJob × Nat) (j : CalJob) =>
      let y := acc.1.calJob j
      (y.1, acc.2.1 ++ y.2.1.toList, acc.2.2 + if y.2.2 then 1 else 0)) (d, [], r.fails)
    let d := if x.2.2 = r.fails then x.1 else x.1.wr F.CAL_STAT.FAILS (min 65535 x.2.2)
    let r := { r with work := x.2.1, fails := x.2.2 }
    if r.work.isEmpty then d.passEnds r else d.putRun r

/-- The calibrations under way at a pick boundary (R431). -/
def Dev.calBoundary (d : Dev) : Dev := forEach d.cal.runs (fun (r : CalRun) (d : Dev) => if d.cal.runs.contains r then d.passBoundary r else d) d

/-- CAL_PASS (R431): pass q of a tile's run begins, with what its cells and ports will measure; the boundaries that follow carry it out.
Every PARKED cell of the pass takes part, in stage-major order.  A unit in STANDBY that watches the peer's calibration computes the same
records and marks them SHADOW (R433). -/
def Dev.calPass (d : Dev) (t q : Nat) (cells : List CellMeas) (ports : List PortMeas) (wit : Nat) : Dev :=
  let mine := cells.filter (fun (m : CellMeas) => cellTile m.cell = t && calPassOf m.cell = q)
  if d.role = Pr.standby then
    if q < 16 then forEach mine (fun m (d : Dev) => (d.takeMeas m true).1) d
    else (forEach ports (fun p (d : Dev) => d.takePort t p) d).calHead t wit
  else
    match d.cal.runs.find? (fun (r : CalRun) => r.tile = t && decide (r.pass = q)) with
    | none => d
    | some r =>
      let ready := match r.cell with
        | some c => d.cellMode c = Cm.cal
        | none => d.tileMode t = Tm.cal
      if !d.isActive || !ready || r.lit then d
      else
        let job := fun (c : Nat) =>
          ({ cell := c, meas := mine.find? (fun (m : CellMeas) => m.cell = c), step := 0, point := 0, left := 0 } : CalJob)
        match r.cell with
        | some c => d.passOpen { r with work := [job c] } (calSource (c % 3840) 0 true true) []
        | none =>
          let d := (d.wr F.CAL_STAT.TILE t).wr F.CAL_STAT.PASS q
          if q = 16 then d.passOpen { r with ports := ports, wit := wit } (calSource 0 16 false true) []
          else
            let cs := ((List.range 3840).map (fun i => t * 3840 + i)).filter (fun c => calPassOf c = q && d.cellMode c = Cm.parked)
            d.passOpen { r with work := cs.map job } (calSource 0 q false true) cs

/-- Sets a bit of one of the masks that CAL_HELD shows. -/
def Dev.holdCal (d : Dev) (t : Nat) (shadow : Bool) : Dev :=
  let d := d.wr F.CAL_HELD.HELD (putBit (d.rd F.CAL_HELD.HELD) t true)
  d.wr F.CAL_HELD.SHADOW (putBit (d.rd F.CAL_HELD.SHADOW) t shadow)

/-- CALIBRATION_END (R433): a run whose passes are done ends; the records are saved at rank 3.  On a unit in STANDBY the shadow
records are saved to its own Marl. -/
def Dev.calibrationEnd (d : Dev) (t : Nat) : Dev :=
  if d.role = Pr.standby then
    if (AMap.find d.cal.recs.heads t).isSome then (d.holdCal t true).marlAsk 3 .cal none else d
  else
    match d.cal.runs.find? (fun (r : CalRun) => r.tile = t && r.pass = 17) with
    | none => d
    | some r =>
      let d := { d with cal := { d.cal with runs := d.cal.runs.filter (fun (x : CalRun) => x ≠ r) } }
      let d := d.setFlag F.CAL_STAT.RUNNING (!d.cal.runs.isEmpty)
      let d := match r.cell with
        | some _ => d
        | none =>
          let d := d.setFlag (F.TILE_MODE.CAL_VALID t) (decide (r.fails ≤ d.rd F.CAL_CFG.FAIL_MAX))
          let d := d.holdCal t false
          let d := { d with boot := { d.boot with
            calibrated := true
            tiles := d.boot.tiles.map (fun (ts : Nat × TileStart) =>
              if ts.1 = t && ts.2.stage = 8 then (t, { ts.2 with stage := if r.fails ≤ d.rd F.CAL_CFG.FAIL_MAX then 9 else 8 }) else ts) } }
          d.tileTrigger t Tm.fenced false []
      (d.marlAsk 3 .cal none).finishOpt r.item St.ok []

/-- ABORT (R433): running calibrations end; calibrated cells keep their records in SRAM, nothing is saved. -/
def Dev.calAbort (d : Dev) : Dev :=
  let ts := (d.cal.runs.map (fun (r : CalRun) => r.tile)).eraseDups
  forEach ts (fun t (d : Dev) =>
    let d := d.abortCal t
    if d.tileMode t = Tm.cal then d.tileTrigger t Tm.fenced false [] else d) d

/-- SAVE (R433): the generation is saved, with LOOPCFG from the loops. -/
def Dev.calSave (d : Dev) : Dev := d.marlAsk 3 .cal none

/-- The conditions of a spot calibration (R103). -/
def Dev.spotAllowed (d : Dev) (c : Nat) : Bool :=
  let p := partner c
  let plans := d.cir.queue.flatMap (fun (q : Cmd) => q.plansHeld.map (fun (x : Plan) =>
    (routeCells x.route ++ x.moves.flatMap (fun (m : Nat × List Hop) => routeCells m.2)).map (·.1)))
  let free := fun (x : Nat) => d.cellMode x = Cm.parked && !d.lit x && !d.flag (F.CELL.ALT x) && !plans.any (fun l => l.contains x)
  d.isActive && d.tileMode (cellTile c) = Tm.active && free c && free p && (adjacent c ++ adjacent p).all (fun x => !d.lit x)

end Sys2Proof.Machine
end

