-- ==== Sys2Proof/Machine/Egress.lean ====
section
/-! DEFINITION. Egress scheduling (chapter 14, R305 - R316) and what the host ports send (chapter 12, R261 - R263): frames on the
wire, buffer admission, shapers, gate lists, the choice of the next frame. -/

namespace Sys2Proof.Machine

/-! ## Frames on the wire -/

/-- The ones' complement sum of 16-bit words. -/
def onesSum : List Byte → Nat
  | [] => 0
  | [a] => a.toNat * 256
  | a :: b :: l => a.toNat * 256 + b.toNat + onesSum l

/-- The Internet checksum of a sum. -/
def foldSum (s : Nat) : Nat :=
  let s := s % 65536 + s / 65536
  let s := s % 65536 + s / 65536
  65535 - (s % 65536 + s / 65536)

/-- The UDP checksum over a pseudo-header: a computed 0x0000 is sent as 0xFFFF (R261). -/
def udpSum (pseudo udp : List Byte) : Nat :=
  let c := foldSum (onesSum pseudo + onesSum udp)
  if c = 0 then 0xFFFF else c

/-- A UDP datagram with its checksum. -/
def udpBytes (pseudo : List Byte) (src dst : Nat) (payload : List Byte) : List Byte :=
  let len := 8 + payload.length
  let head := beBytes 2 src ++ beBytes 2 dst ++ beBytes 2 len
  let c := udpSum pseudo (head ++ [0, 0] ++ payload)
  head ++ beBytes 2 c ++ payload

/-- An IPv4 packet with its header checksum (R261).  Fields the manual does not name: no options, identification 0, TTL 64
(PRESUMED, assumption 3). -/
def ip4Bytes (proto src dst : Nat) (payload : List Byte) : List Byte :=
  let a := beBytes 2 0x4500 ++ beBytes 2 (20 + payload.length) ++ beBytes 4 0 ++ beBytes 1 64 ++ beBytes 1 proto
  let b := beBytes 4 src ++ beBytes 4 dst
  a ++ beBytes 2 (foldSum (onesSum (a ++ b))) ++ b ++ payload

/-- An IPv6 packet (hop limit 64 for UDP and echo, 255 for neighbour advertisements). -/
def ip6Bytes (next hop src dst : Nat) (payload : List Byte) : List Byte :=
  beBytes 4 0x60000000 ++ beBytes 2 payload.length ++ beBytes 1 next ++ beBytes 1 hop ++ beBytes 16 src ++ beBytes 16 dst ++ payload

/-- The content, from the EtherType on, of a Cheda packet to a host (R273, R275). -/
def Dev.chedaBody (d : Dev) (a : Addr) (payload : List Byte) : List Byte :=
  let port := if d.rd F.CHEDA_CFG.UDP_PORT = 0 then 47102 else d.rd F.CHEDA_CFG.UDP_PORT
  match a.carrier with
  | .raw => beBytes 2 0x88B5 ++ payload
  | .ip4 host udp =>
    let src := d.rd (F.CHEDA_IP4.ADDR a.port)
    let pseudo := beBytes 4 src ++ beBytes 4 host ++ beBytes 2 17 ++ beBytes 2 (8 + payload.length)
    beBytes 2 0x0800 ++ ip4Bytes 17 src host (udpBytes pseudo port udp payload)
  | .ip6 host here udp =>
    let pseudo := beBytes 16 here ++ beBytes 16 host ++ beBytes 4 (8 + payload.length) ++ beBytes 4 17
    beBytes 2 0x86DD ++ ip6Bytes 17 64 here host (udpBytes pseudo port udp payload)

/-- The tag of a frame of a queue (R306): `vid` is the VID of the packet that is answered, if it was tagged. -/
def Dev.txTag (d : Dev) (p q : Nat) (vid : Option Nat) : Option Nat :=
  let pcp := d.rd (F.EQ_TAG.PCP p q) * 8192
  if 1 ≤ q && q ≤ 3 then vid.map (fun v => pcp + v % 4096)
  else if d.flag (F.EQ_TAG.TAG_EN p q) then some (pcp + d.rd (F.EQ_TAG.VID p q)) else none

/-- A frame for a queue: its size counts the tag and the padding to 64 bytes (R253, R261). -/
def Dev.mkFrame (d : Dev) (p q dst : Nat) (vid : Option Nat) (body : List Byte) : TxFrame :=
  let tag := d.txTag p q vid
  { size := max 64 (12 + (if tag.isSome then 4 else 0) + body.length + 4), dst := dst, tag := tag, body := body }

/-- The frames of a queue, head first. -/
def Dev.egress (d : Dev) (p q : Nat) : List TxFrame := AMap.get d.sched.queues (p * 8 + q) []

/-- Bytes of a queue, the frame in transmission with them. -/
def Dev.egFill (d : Dev) (p q : Nat) : Nat :=
  ((d.egress p q).map (fun (f : TxFrame) => f.size)).sum + (match AMap.find d.sched.sending p with
    | some (r, s) => if r = q && decide (d.time.tb * 10 < AMap.get d.net.busy p 0) then s else 0
    | none => 0)

/-- Replaces the frames of a queue and publishes its fill; a queue that empties has its DEFICIT set to zero, and the pointer moves on from
it (R311). -/
def Dev.putEgress (d : Dev) (p q : Nat) (fs : List TxFrame) : Dev :=
  let on := fs.isEmpty && AMap.get d.sched.fresh p false && decide (AMap.get d.sched.ptr p 0 = q)
  let d := { d with sched := { d.sched with
    queues := AMap.set d.sched.queues (p * 8 + q) fs []
    deficit := if fs.isEmpty then AMap.del d.sched.deficit (p * 8 + q) else d.sched.deficit
    ptr := if on then AMap.set d.sched.ptr p ((q + 1) % 8) 0 else d.sched.ptr
    fresh := if on then AMap.set d.sched.fresh p false false else d.sched.fresh } }
  d.wr (F.EQ_STAT.FILL p q) (d.egFill p q)

/-- LIMIT_KIB in bytes. -/
def Dev.egLimit (d : Dev) (p q : Nat) : Nat := min 128 (d.rd (F.EQ_CFG.LIMIT_KIB p q)) * 1024

/-- Room for s more bytes in the port's buffer for queue q. -/
def Dev.egRoom (d : Dev) (p q s : Nat) : Bool :=
  let total := ((List.range 8).map (fun q => d.egFill p q)).sum
  let reserve := if q = 1 then 0 else d.egLimit p 1 - d.egFill p 1
  decide (total + s + reserve ≤ 131072)

/-- The queues a frame may push out of, in order (R308). -/
def pushOrder : Nat → List Nat
  | 1 => [6, 5, 7, 3, 4, 2]
  | 0 => [6, 5, 7]
  | 2 => [6, 5, 7]
  | 3 => [6, 5, 7]
  | 4 => [6, 5, 7]
  | 7 => [6, 5]
  | 5 => [6]
  | _ => []

/-- The events and counts of one dropped frame (R302, R309). -/
def Dev.egDropped (d : Dev) (p q : Nat) (f : TxFrame) : Dev :=
  let shed := fun (d : Dev) (own : Bool) (g : Shed → Shed) =>
    { d with cheda := { d.cheda with sessions := d.cheda.sessions.map (fun (ks : Nat × Session) =>
      if (if own then decide (ks.1 = f.slot) else decide (ks.2.addr.port = p)) then (ks.1, { ks.2 with shed := g ks.2.shed }) else ks) } }
  let d := d.countQ 0x53 p
  match q with
  | 6 => (shed d false (fun s => { s with trace := s.trace + 1 })).raise 0x26 3 (p * 8 + q) 1
  | 5 => (shed d false (fun s => { s with histo := s.histo + 1 })).raise 0x26 3 (p * 8 + q) 1
  | 7 => (shed d false (fun s => { s with bulk := s.bulk + 1 })).raise 0x26 3 (p * 8 + q) 1
  | 3 => (shed d true (fun s => { s with event := s.event + 1 })).raise 0x26 4 (p * 8 + q) 1
  | 1 => (shed d true (fun s => { s with event := s.event + 1 })).raise 0x26 0 (p * 8 + q) 1
  | _ => d.raise 0x26 0 (p * 8 + q) 1

/-- Removes the newest frames of a queue until a frame of s bytes for queue q fits: answers the frames removed. -/
def Dev.pushFrom : Nat → Dev → Nat → Nat → Nat → Nat → Dev
  | 0, d, _, _, _, _ => d
  | n + 1, d, p, v, q, s =>
    if d.egRoom p q s then d
    else match (d.egress p v).getLast? with
      | none => d
      | some f =>
        let d := (d.putEgress p v (d.egress p v).dropLast).bump (F.EQ_DROP.PUSHED p v) 1
        Dev.pushFrom n (d.egDropped p v f) p v q s

/-- Whether pushing out can make room (R308): the bytes of every frame that may be pushed out count as free. -/
def Dev.canPush (d : Dev) (p q s : Nat) : Bool :=
  let gain := ((pushOrder q).map (fun v => ((d.egress p v).map (fun (f : TxFrame) => f.size)).sum)).sum
  let total := ((List.range 8).map (fun q => d.egFill p q)).sum
  let reserve := if q = 1 then 0 else d.egLimit p 1 - d.egFill p 1
  decide (total + s + reserve ≤ 131072 + gain)

/-- Admits a frame to an egress queue, pushes others out, or drops it (R307, R308).  Answers whether it was admitted. -/
def Dev.enqueueTx (d : Dev) (p q : Nat) (f : TxFrame) : Dev × Bool :=
  let tail := fun (d : Dev) => ((d.bump (F.EQ_DROP.TAIL p q) 1).egDropped p q f, false)
  let s := f.size
  if q ≠ 1 && decide (d.egLimit p q < d.egFill p q + s) then tail d
  else if d.egRoom p q s then (d.putEgress p q (d.egress p q ++ [f]), true)
  else if !d.canPush p q s then tail d
  else
    let d := (pushOrder q).foldl (fun (d : Dev) v => Dev.pushFrom (d.egress p v).length d p v q s) d
    if d.egRoom p q s then (d.putEgress p q (d.egress p q ++ [f]), true) else tail d

/-- Sends a Cheda packet to a host on a queue. -/
def Dev.sendCheda (d : Dev) (a : Addr) (q slot : Nat) (payload : List Byte) (resets : Bool) (probe : Option Nat) : Dev × Bool :=
  let vid := a.tag.map (fun t => t % 4096)
  let f := d.mkFrame a.port q a.mac vid (d.chedaBody a payload)
  d.enqueueTx a.port q { f with slot := slot, resets := resets, probe := probe }

/-! ## Gate lists (R313 - R316) -/

/-- The entries of one cycle as (gates, ns): zero intervals skipped, the last lasting to the end, cut at the end of the cycle. -/
def GateList.segs (g : GateList) : List (Nat × Nat × Nat) :=
  let es := g.entries.zipIdx.filter (fun (e : (Nat × Nat) × Nat) => e.1.2 ≠ 0)
  let cut := es.foldl (fun (acc : List (Nat × Nat × Nat) × Nat) (e : (Nat × Nat) × Nat) =>
    let len := min e.1.2 (g.cycle - acc.2)
    if len = 0 then acc else (acc.1 ++ [(e.2, e.1.1, len)], acc.2 + len)) ([], 0)
  if cut.2 < g.cycle then
    match cut.1.getLast? with
    | some l => cut.1.dropLast ++ [(l.1, l.2.1, l.2.2 + (g.cycle - cut.2))]
    | none => match g.entries.getLast? with
      | some e => [(g.entries.length - 1, e.1, g.cycle)]
      | none => []
  else cut.1

/-- The segment at a phase of the cycle, and the ns left in it. -/
def segAt : List (Nat × Nat × Nat) → Nat → Option ((Nat × Nat × Nat) × Nat)
  | [], _ => none
  | s :: ss, ph => if ph < s.2.2 then some (s, s.2.2 - ph) else segAt ss (ph - s.2.2)

/-- The list in operation on a port, when it is enabled and has started. -/
def Dev.gates (d : Dev) (p : Nat) : Option GateList :=
  match AMap.find d.sched.oper p with
  | some g => if g.enable then some g else none
  | none => none

/-- The phase of PTP time t in a list's cycle. -/
def GateList.phase (g : GateList) (t : Nat) : Nat := (((t : Int) - g.start) % (g.cycle : Int)).toNat

/-- ns for which gate q stays open from PTP time t; none where no list holds it or the list never shuts it. -/
def Dev.gateRun (d : Dev) (p q t : Nat) : Option Nat :=
  match d.gates p with
  | none => none
  | some g =>
    let ss := g.segs
    match segAt ss (g.phase t) with
    | none => none
    | some (s, left) =>
      if !bit s.2.1 q then some 0
      else if ss.all (fun x => bit x.2.1 q) then none
      else
        let i := (ss.findIdx? (fun x => x = s)).getD 0
        let rest := ss.drop (i + 1) ++ ss ++ ss
        some (left + ((rest.takeWhile (fun x => bit x.2.1 q)).map (fun x => x.2.2)).sum)

/-- Whether gate q is open now. -/
def Dev.gateOpen (d : Dev) (p q : Nat) : Bool :=
  match d.gateRun p q d.ptpNow with
  | none => true
  | some n => decide (0 < n)

/-- ns on the wire of a frame with preamble and gap, in 0.1 ns (R314). -/
def wireTime (s : Nat) : Nat := (s + 20) * 8

/-- The greatest open window of a queue in a port's list (R314): none when nothing holds it. -/
def Dev.gateMax (d : Dev) (p q : Nat) : Option Nat :=
  match d.gates p with
  | none => none
  | some g =>
    let ss := g.segs
    if ss.all (fun x => bit x.2.1 q) then none
    else some ((((ss ++ ss).foldl (fun (acc : Nat × Nat) x =>
      if bit x.2.1 q then (acc.1 + x.2.2, max acc.2 (acc.1 + x.2.2)) else (0, acc.2)) (0, 0)).2))

/-- The head frame of a queue fits the gate (R314). -/
def Dev.gateFits (d : Dev) (p q s : Nat) : Bool :=
  match d.gateRun p q d.ptpNow with
  | none => true
  | some n => decide (wireTime s ≤ n * 10)

/-- The entry in force of a port's list (R313). -/
def Dev.gclEntry (d : Dev) (p : Nat) : Nat :=
  match d.gates p with
  | none => 0
  | some g => match segAt g.segs (g.phase d.ptpNow) with
    | some (s, _) => s.1
    | none => 0

/-- The cycles that a port's list has completed since its START. -/
def Dev.gclCycles (d : Dev) (p : Nat) : Nat :=
  match d.gates p with
  | none => d.rd (F.GCL_CYCLES.CYCLES p)
  | some g => (d.ptpNow - g.start) / g.cycle % 2 ^ 32

/-- Publishes what a port's list shows: entry in force, lists held, cycles done. -/
def Dev.gclStat (d : Dev) (p : Nat) : Dev :=
  let d := (d.setFlag (F.GCL_STAT.OPER p) (d.gates p).isSome).setFlag (F.GCL_STAT.AWAIT p) (AMap.find d.sched.await p).isSome
  let d := (d.wr (F.GCL_STAT.ENTRY p) (d.gclEntry p)).wr (F.GCL_CYCLES.CYCLES p) (d.gclCycles p)
  forEach (List.range 8) (fun q (d : Dev) => d.setFlag (F.EQ_STAT.GATE p q) (d.gateOpen p q)) d

/-- GATE_ENTRY_CHANGE (R313): the interval in force ends and the next entry's gates take effect. -/
def Dev.gateEntryChange (d : Dev) (p : Nat) : Dev :=
  match d.gates p with
  | none => d
  | some g =>
    match segAt g.segs (g.phase d.ptpNow) with
    | none => d
    | some (_, left) => d.fire (d.time.tb + left) (fun d => d.gclStat p)

/-- GATE_LIST_START (R315): the list that awaits goes into operation at its START; one with ENABLE = 0 leaves the port without. -/
def Dev.gateListStart (d : Dev) (p : Nat) : Dev :=
  match AMap.find d.sched.await p with
  | none => d
  | some g =>
    d.fire ((g.start : Int) - d.time.ofs).toNat (fun d =>
      let d := { d with sched := { d.sched with
        oper := if g.enable then AMap.put d.sched.oper p g else AMap.del d.sched.oper p
        await := AMap.del d.sched.await p } }
      (d.gclStat p).raise 0x26 5 p 1)

/-- Puts a list in place to await its START, chosen at PTP time `now` (R315).  Answers the START chosen. -/
def Dev.placeGates (d : Dev) (p : Nat) (g : GateList) : Dev × Nat :=
  let now := d.ptpNow
  let late := decide (g.start < now)
  let start := if late then
      let least := now + 2 * g.cycle
      g.start + (least - g.start + g.cycle - 1) / g.cycle * g.cycle
    else g.start
  let d := { d with sched := { d.sched with await := AMap.put d.sched.await p { g with start := start } } }
  let d := if late then (d.bump (F.GCL_STAT.LATE_CNT p) 1).raise 0x26 2 p 1 else d
  (d.gclStat p, start)

/-- Reads GATE_LIST_WRITE parameters (R316): the port and the list; none where a value is not allowed. -/
def parseGates (par : List Byte) : Option (Nat × GateList) :=
  let port := beAt par 0 1
  let n := beAt par 2 1
  let cycle := beAt par 12 4
  if 1 < port || n = 0 || 64 < n || cycle < 1000 || 1000000000 < cycle then none
  else some (port, { enable := bit (beAt par 1 1) 0, start := beAt par 4 8, cycle := cycle
                     entries := (List.range n).map (fun i => (beAt par (16 + 8 * i) 1, beAt par (20 + 8 * i) 4)) })

/-! ## Shapers (R312) -/

/-- What is in force of a queue's shaper: rate and burst. -/
def Dev.shapeOf (d : Dev) (p q : Nat) : Nat × Nat := AMap.get d.sched.shape (p * 8 + q) (0, 18432)

/-- SHAPER_REFILL: every 1,000 ns each bucket gains RATE bits, up to BURST × 8. -/
def Dev.shaperRefill (d : Dev) : Dev :=
  d.fire ((d.sched.refillTb / 1000 + 1) * 1000) (fun d =>
    let tb := d.time.tb
    let d := forEach (List.range 16) (fun i (d : Dev) =>
      let p := i / 8
      let q := i % 8
      let was := d.shapeOf p q
      let rate := min 10000 (d.rd (F.EQ_SHAPE.RATE p q))
      let burst := let b := d.rd (F.EQ_SHAPE.BURST p q); if b = 0 then 64 else b
      let cap : Int := (burst * 8 : Nat)
      let old := AMap.get d.sched.tokens i 0
      let now := if rate = 0 then 0 else if was.1 = 0 then cap else min cap (old + rate)
      let d := { d with sched := { d.sched with
        tokens := AMap.set d.sched.tokens i now 0
        shape := AMap.set d.sched.shape i (rate, burst) (0, 18432) } }
      d.setFlag (F.EQ_STAT.SHAPED p q) (decide (rate ≠ 0) && decide (now ≤ 0))) d
    { d with sched := { d.sched with refillTb := tb } })

/-! ## Choosing the next frame (R310, R311) -/

/-- A queue whose head frame may be sent now. -/
def Dev.egEligible (d : Dev) (p q : Nat) : Bool :=
  match d.egress p q with
  | [] => false
  | f :: _ => d.gateFits p q f.size &&
    ((d.shapeOf p q).1 = 0 || decide (0 < AMap.get d.sched.tokens (p * 8 + q) 0))

/-- Head frames that can never fit their gate are discarded (R314). -/
def Dev.dropNoFit (d : Dev) (p : Nat) : Dev :=
  forEach (List.range 8) (fun q (d : Dev) =>
    forEach (List.range (d.egress p q).length) (fun _ (d : Dev) =>
      match d.egress p q, d.gateMax p q with
      | f :: fs, some n =>
        if n * 10 < wireTime f.size then
          ((d.putEgress p q fs).bump (F.GCL_DROP.NOFIT p) 1).raise 0x26 1 (p * 8 + q) 1
        else d
      | _, _ => d) d) d

/-- STRICT of a queue as it is in force: a write takes effect at the next visit of the pointer to the queue (R311). -/
def Dev.egStrict (d : Dev) (p q : Nat) : Bool := AMap.get d.sched.strict (p * 8 + q) (decide (eqStrictReset q = 1))

/-- The pointer visits a queue. -/
def Dev.visit (d : Dev) (p q : Nat) : Dev :=
  { d with sched := { d.sched with
    strict := AMap.set d.sched.strict (p * 8 + q) (d.flag (F.EQ_CFG.STRICT p q)) (decide (eqStrictReset q = 1)) } }

/-- Deficit round robin: the queue to send from, with the deficits and the pointer as they then stand. -/
def Dev.drr : Nat → Dev → Nat → Dev × Option Nat
  | 0, d, _ => (d, none)
  | n + 1, d, p =>
    let q := AMap.get d.sched.ptr p 0
    let stays := AMap.get d.sched.fresh p false
    let d := if stays then d else d.visit p q
    let next := fun (d : Dev) => { d with sched := { d.sched with
      ptr := AMap.set d.sched.ptr p ((q + 1) % 8) 0, fresh := AMap.set d.sched.fresh p false false } }
    if d.egStrict p q || !d.egEligible p q then Dev.drr n (next d) p
    else
      let key := p * 8 + q
      let def_ := AMap.get d.sched.deficit key 0 + (if stays then 0 else max 64 (d.rd (F.EQ_CFG.QUANTUM p q)))
      let d := { d with sched := { d.sched with
        deficit := AMap.set d.sched.deficit key def_ 0, fresh := AMap.set d.sched.fresh p true false } }
      match d.egress p q with
      | f :: fs =>
        if f.size ≤ def_ then
          ({ d with sched := { d.sched with deficit := AMap.set d.sched.deficit key (if fs.isEmpty then 0 else def_ - f.size) 0 } }, some q)
        else Dev.drr n (next d) p
      | [] => Dev.drr n (next d) p

/-- The lowest-numbered STRICT queue that is eligible. -/
def Dev.strictQueue (d : Dev) (p : Nat) : Option Nat := (List.range 8).find? (fun q => d.egStrict p q && d.egEligible p q)

/-- The queue that sends next (R310 steps 2 and 3). -/
def Dev.chooseQueue (d : Dev) (p : Nat) : Dev × Option Nat :=
  match d.strictQueue p with
  | some q => (d, some q)
  | none =>
    if (List.range 8).any (fun q => d.egEligible p q) then
      let r := Dev.drr 2400 d p
      if r.2.isSome then r else (r.1, r.1.strictQueue p)
    else (d, none)

/-- A port can send: link up, no remote fault, TX_EN (R251). -/
def Dev.portSends (d : Dev) (p : Nat) : Bool :=
  d.flag (F.MAC_STAT.LINK p) && !d.flag (F.MAC_STAT.REMOTE_FAULT p) && d.flag (F.MAC_CTRL.TX_EN p)

/-- The transmit timestamp of a frame that begins to leave (R330). -/
def Dev.txTs (d : Dev) (p : Nat) : Nat := ((d.ptpNow : Int) + d.rdS (F.TS_CORR.TX_CORR p)).toNat

/-- The PTP message of a frame's content, when it carries one. -/
def ptpPart (body : List Byte) : Option (List Byte) :=
  let et := beAt body 0 2
  if et = 0x88F7 then some (body.drop 2)
  else if et = 0x0800 && (beAt body 24 2 = 319 || beAt body 24 2 = 320) then some (body.drop 30)
  else if et = 0x86DD && (beAt body 44 2 = 319 || beAt body 44 2 = 320) then some (body.drop 50)
  else none

/-- Timestamps written back as a frame leaves (R330): a delay request's own, an event message's for its follow-up, a PROBE's for
its completion (R332). -/
def Dev.txStamped (d : Dev) (p : Nat) (f : TxFrame) : Dev :=
  let ts := d.txTs p
  let d := match f.probe with
    | some i => match d.item i with
      | some r => d.finish i St.ok (r.result ++ beBytes 8 ts)
      | none => d
    | none => d
  match ptpPart f.body with
  | none => d
  | some m =>
    let kind := beAt m 0 1 % 16
    let seq := beAt m 30 2
    if kind = 1 || kind = 2 then { d with time := { d.time with delayReq := some (seq, ts) } }
    else if kind = 0 || kind = 3 then { d with time := { d.time with txEvent := some (kind, seq, ts, beAt m 44 10) } }
    else d

/-- The counts that remain when a summary that carries `s` starts to leave (R378). -/
def Shed.less (x s : Shed) : Shed :=
  { trace := x.trace - s.trace, histo := x.histo - s.histo, bulk := x.bulk - s.bulk, event := x.event - s.event, coal := x.coal - s.coal }

/-- Starts a frame on a port. -/
def Dev.startTx (d : Dev) (p q : Nat) (f : TxFrame) : Dev :=
  let tb := d.time.tb
  let d := { d with
    net := { d.net with
      busy := AMap.put d.net.busy p (tb * 10 + wireTime f.size)
      sent := AMap.put d.net.sent p (d.wireBytes p f) }
    sched := { d.sched with sending := AMap.put d.sched.sending p (q, f.size) } }
  let d := ((d.bumpWrap (F.TX_OK.COUNT p) 1).bumpWrap (F.EQ_TX.COUNT p q) 1).countQ 0x51 p
  let d := if (d.shapeOf p q).1 = 0 then d
    else { d with sched := { d.sched with
      tokens := AMap.set d.sched.tokens (p * 8 + q) (AMap.get d.sched.tokens (p * 8 + q) 0 - ((f.size + 20) * 8 : Nat)) 0 } }
  let d := if f.sum = ({} : Shed) then d
    else { d with cheda := { d.cheda with sessions := d.cheda.sessions.map (fun (ks : Nat × Session) =>
      if ks.1 = f.slot then (ks.1, { ks.2 with shed := Shed.less ks.2.shed f.sum }) else ks) } }
  let d := if f.resets then { d with boot := { d.boot with resetAt := some (tb + wireTime f.size / 10 + 1000000) } } else d
  d.txStamped p f

/-- A PAUSE frame of the port's own (R263). -/
def Dev.startPause (d : Dev) (p time : Nat) : Dev :=
  let tb := d.time.tb
  let f : TxFrame := { size := 64, dst := 0x0180C2000001, tag := none, body := beBytes 2 0x8808 ++ beBytes 2 1 ++ beBytes 2 time }
  let d := { d with net := { d.net with
    busy := AMap.put d.net.busy p (tb * 10 + wireTime 64)
    sent := AMap.put d.net.sent p (d.wireBytes p f)
    pauseDue := AMap.del d.net.pauseDue p } }
  ((d.bump (F.PAUSE_STAT.PAUSE_TX p) 1).countQ 0x55 p).bumpWrap (F.TX_OK.COUNT p) 1

/-- TX_OPPORTUNITY (R310): the port becomes idle and sends its next frame; a received pause holds all but its own PAUSE frames. -/
def Dev.txOpportunity (d : Dev) (p : Nat) : Dev :=
  if 1 < p then d
  else
    let due := (AMap.get d.net.busy p 0 + 9) / 10
    d.fire (max due d.time.tb) (fun d =>
      let d := { d with sched := { d.sched with sending := AMap.del d.sched.sending p } }
      let d := forEach (List.range 8) (fun q (d : Dev) => d.wr (F.EQ_STAT.FILL p q) (d.egFill p q)) d
      match AMap.find d.net.pauseDue p with
      | some t => if d.portSends p then d.startPause p t else { d with net := { d.net with pauseDue := AMap.del d.net.pauseDue p } }
      | none =>
        if d.time.tb * 10 < AMap.get d.net.pausedTo p 0 then d
        else
          let r := (d.dropNoFit p).chooseQueue p
          let d := r.1
          match r.2 with
          | none => d
          | some q =>
            match d.egress p q with
            | [] => d
            | f :: fs =>
              let d := d.putEgress p q fs
              if d.portSends p then (d.startTx p q f).putEgress p q fs
              else ((d.bump (F.TX_DROP.LINKDOWN p) 1).countQ 0x53 p).raise (0x22 + p) 9 (p * 256) 1)

end Sys2Proof.Machine
end

