-- ==== Sys2Proof/Machine/Ports.lean ====
section
/-! DEFINITION. What the ports receive (chapter 12, R250 - R264), ingress policing (R317, R318), PAUSE, and the tether (R265 - R269). -/

namespace Sys2Proof.Machine

/-! ## A received frame -/

/-- A frame as the receive stages read it: addresses, first tag (TCI), EtherType under R255, the EtherType before any tag, the
bytes after the EtherType without the FCS. -/
structure Eth where
  dst : Nat
  src : Nat
  tag : Option Nat
  first : Nat
  etype : Nat
  body : List Byte
  deriving DecidableEq, Repr

/-- Reads a frame's header (R255). -/
def parseEth (bs : List Byte) : Eth :=
  let first := beAt bs 12 2
  let tagged := first = 0x8100
  let off := if tagged then 18 else 14
  { dst := beAt bs 0 6, src := beAt bs 6 6, tag := if tagged then some (beAt bs 14 2) else none, first := first
    etype := beAt bs (off - 2) 2, body := (bs.drop off).take (bs.length - 4 - off) }

/-- An IP packet that passed stage 7: version 6, protocol or first next header, addresses, payload. -/
structure IpP where
  v6 : Bool
  proto : Nat
  src : Nat
  dst : Nat
  l4 : List Byte
  deriving DecidableEq, Repr

/-- The answer of stage 7 (R256): not IP, good, or the counter of its failure. -/
inductive IpRes where
  | none
  | good (p : IpP)
  | ipErr
  | frag
  | udpErr
  deriving DecidableEq, Repr

/-- An IPv6 extension-header chain holds a Fragment header. -/
def hasFragment : Nat → Nat → List Byte → Bool
  | 0, _, _ => false
  | n + 1, next, bs =>
    if next = 44 then true
    else if next = 0 || next = 43 || next = 60 then hasFragment n (beAt bs 0 1) (bs.drop (8 + 8 * beAt bs 1 1))
    else if next = 51 then hasFragment n (beAt bs 0 1) (bs.drop (8 + 4 * beAt bs 1 1))
    else false

/-- The UDP checksum of a datagram is right. -/
def udpGood (pseudo l4 : List Byte) : Bool :=
  let len := beAt l4 4 2
  decide (8 ≤ len) && decide (len ≤ l4.length) && decide (foldSum (onesSum (pseudo ++ beBytes 2 len) + onesSum (l4.take len)) = 0)

/-- Stage 7 (R256). -/
def Dev.ipStage (d : Dev) (p : Nat) (e : Eth) : IpRes :=
  let b := e.body
  if e.etype = 0x0800 then
    let ihl := beAt b 0 1 % 16
    let total := beAt b 2 2
    if beAt b 0 1 / 16 ≠ 4 then .ipErr
    else if ihl < 5 || foldSum (onesSum (b.take (4 * ihl))) ≠ 0 || b.length < 4 * ihl then .ipErr
    else if b.length < total then .ipErr
    else if beAt b 6 2 % 16384 ≠ 0 then .frag
    else
      let ip : IpP := { v6 := false, proto := beAt b 9 1, src := beAt b 12 4, dst := beAt b 16 4
                        l4 := (b.drop (4 * ihl)).take (total - 4 * ihl) }
      let pseudo := (b.drop 12).take 8 ++ beBytes 2 17
      if ip.proto ≠ 17 then .good ip
      else if beAt ip.l4 6 2 = 0 then if d.flag (F.MAC_CTRL.UDP0_ACCEPT p) then .good ip else .udpErr
      else if udpGood pseudo ip.l4 then .good ip else .udpErr
  else if e.etype = 0x86DD then
    let len := beAt b 4 2
    if beAt b 0 1 / 16 ≠ 6 then .ipErr
    else if b.length < 40 + len then .ipErr
    else
      let ip : IpP := { v6 := true, proto := beAt b 6 1, src := beAt b 8 16, dst := beAt b 24 16, l4 := (b.drop 40).take len }
      if hasFragment 16 ip.proto ip.l4 then .frag
      else if ip.proto ≠ 17 then .good ip
      else if beAt ip.l4 6 2 = 0 then .udpErr
      else if udpGood ((b.drop 8).take 32 ++ beBytes 2 17) ip.l4 then .good ip else .udpErr
  else .none

/-- Stage 4 (R254). -/
def Dev.addrAccepted (d : Dev) (p dst : Nat) : Bool :=
  let m := if p = 2 then 0 else d.rd (F.MAC_CTRL.MCAST_EN p)
  dst = d.station p || dst = 0xFFFFFFFFFFFF || dst = 0x0180C2000001 ||
  (bit m 0 && dst = 0x011B19000000) || (bit m 1 && dst = 0x0180C200000E) ||
  (bit m 2 && dst / 2 ^ 32 = 0x3333) || (bit m 3 && dst / 2 ^ 23 = 0x01005E000000 / 2 ^ 23)

/-- Stage 6 (R255). -/
def Dev.vlanRefused (d : Dev) (p : Nat) (e : Eth) : Bool :=
  let acc := d.rd (F.MAC_CTRL.VLAN_ACCEPT p)
  e.first = 0x88A8 || e.first = 0x9100 ||
  (e.tag.isSome && (e.etype = 0x8100 || e.etype = 0x88A8 || e.etype = 0x9100)) ||
  (e.tag.isSome && acc = 1) || (e.tag.isNone && acc = 2)

/-! ## Filter rules (R258 - R260) -/

/-- The fields of a rule, in the order of R271: EN, PORT_A, PORT_B, QUEUE, DROP, M_TAG, TAG, M_VID, M_PCP, M_ETYPE, M_IPV,
M_PROTO, M_UDP, VID, PCP, ETYPE, IPV, PROTO, UDP_DPORT. -/
def ruleFields (n : Nat) : List Fld :=
  [F.RULE_CTL.EN n, F.RULE_CTL.PORT_A n, F.RULE_CTL.PORT_B n, F.RULE_CTL.QUEUE n, F.RULE_CTL.DROP n, F.RULE_CTL.M_TAG n,
   F.RULE_CTL.TAG n, F.RULE_CTL.M_VID n, F.RULE_CTL.M_PCP n, F.RULE_CTL.M_ETYPE n, F.RULE_CTL.M_IPV n, F.RULE_CTL.M_PROTO n,
   F.RULE_CTL.M_UDP n, F.RULE_L2.VID n, F.RULE_L2.PCP n, F.RULE_L2.ETYPE n, F.RULE_L3.IPV n, F.RULE_L3.PROTO n,
   F.RULE_L3.UDP_DPORT n]

/-- What is in force of a rule. -/
def Dev.rule (d : Dev) (n : Nat) : List Nat := AMap.get d.net.rules n ((ruleFields n).map (fun (f : Fld) => f.rst))

/-- RULE_CTL_WRITE (R259): the values of the rule's three registers come into force together. -/
def Dev.ruleInForce (d : Dev) (n : Nat) : Dev :=
  { d with net := { d.net with rules := AMap.put d.net.rules n ((ruleFields n).map (fun f => d.rd f)) } }

/-- Rule n matches a frame (R258). -/
def ruleMatches (r : List Nat) (p : Nat) (e : Eth) (ip : IpRes) : Bool :=
  let g := fun i => r.getD i 0
  let on := fun i => decide (g i = 1)
  on 0 && on (1 + p) &&
  (!on 5 || decide ((if e.tag.isSome then 1 else 0) = g 6)) &&
  (!on 7 || e.tag.any (fun t => decide (t % 4096 = g 13))) &&
  (!on 8 || e.tag.any (fun t => decide (t / 8192 = g 14))) &&
  (!on 9 || decide (e.etype = g 15)) &&
  (!on 10 || match ip with | .good x => decide ((if x.v6 then 1 else 0) = g 16) | _ => false) &&
  (!on 11 || match ip with | .good x => decide (x.proto = g 17) | _ => false) &&
  (!on 12 || match ip with | .good x => decide (x.proto = 17) && decide (beAt x.l4 2 2 = g 18) | _ => false)

/-! ## Policing (R317, R318) -/

/-- What is in force of a policer: mode, aware, CIR, PIR, CBS, EBS, YELLOW_FILL.  8 added to the mode: a write of MODE has come since. -/
def Dev.polForce (d : Dev) (q : Nat) : List Nat := AMap.get d.pol.force q [0, 0, 0, 0, 18432, 18432, 512]

/-- A write of MODE (R317): the buckets are filled at the next refill. -/
def Dev.polModeWritten (d : Dev) (q : Nat) : Dev :=
  let f := d.polForce q
  { d with pol := { d.pol with force := AMap.put d.pol.force q ((f.headD 0 % 8 + 8) :: f.drop 1) } }

/-- POLICER_REFILL: every 1,000 ns each bucket gains CIR or PIR bits; written fields take effect. -/
def Dev.policerRefill (d : Dev) : Dev :=
  d.fire ((d.pol.refillTb / 1000 + 1) * 1000) (fun d =>
    let tb := d.time.tb
    let d := forEach (List.range 8) (fun q (d : Dev) =>
      let was := d.polForce q
      let rate := fun (f : Fld) => min 10000 (d.rd f)
      let size := fun (f : Fld) => min 16777216 (d.rd f)
      let mode := d.rd (F.POL_CFG.MODE q)
      let now := [mode, d.rd (F.POL_CFG.AWARE q), rate (F.POL_RATE.CIR q), rate (F.POL_RATE.PIR q), size (F.POL_CBS.CBS q),
        size (F.POL_EBS.EBS q), min 512 (d.rd (F.POL_CFG.YELLOW_FILL q))]
      let cb := now.getD 4 0 * 8
      let eb := now.getD 5 0 * 8
      let old := AMap.get d.pol.tokens q (cb, eb)
      let c := old.1 + now.getD 2 0
      let tok :=
        if 8 ≤ was.headD 0 || was.headD 0 ≠ mode then (cb, eb)
        else if mode = 1 then (min cb c, min eb (old.2 + (c - cb)))
        else (min cb c, min eb (old.2 + now.getD 3 0))
      { d with pol := { d.pol with tokens := AMap.put d.pol.tokens q tok, force := AMap.put d.pol.force q now } }) d
    { d with pol := { d.pol with refillTb := tb } })

/-- The colour of a frame (0 green, 1 yellow, 2 red) and the buckets after it: RFC 2697 in MODE 1, RFC 2698 in MODE 2
(assumption 3); a CIR of 0 leaves no frame green. -/
def polMeter (f : List Nat) (tok : Nat × Nat) (pre s : Nat) : Nat × Nat × Nat :=
  let bitsN := s * 8
  let mode := f.headD 0 % 8
  let pre := if f.getD 1 0 = 1 then pre else 0
  let cir0 := f.getD 2 0 = 0
  if mode = 1 then
    if cir0 then (2, tok)
    else if pre = 0 && bitsN ≤ tok.1 then (0, tok.1 - bitsN, tok.2)
    else if bitsN ≤ tok.2 then (1, tok.1, tok.2 - bitsN)
    else (2, tok)
  else if mode = 2 then
    if tok.2 < bitsN then (2, tok)
    else if pre = 1 || tok.1 < bitsN || cir0 then (1, tok.1, tok.2 - bitsN)
    else (0, tok.1 - bitsN, tok.2 - bitsN)
  else (0, tok)

/-- A frame that carries a Cheda packet, and one that carries a PTP message. -/
def Dev.carries (d : Dev) (e : Eth) (ip : IpRes) : Bool × Bool :=
  let udp := match ip with
    | .good x => if x.proto = 17 then beAt x.l4 2 2 else 0
    | _ => 0
  (e.etype = 0x88B5 || decide (udp ≠ 0) && udp = d.rd F.CHEDA_CFG.UDP_PORT, e.etype = 0x88F7 || udp = 319 || udp = 320)

/-- The policer of queue q meters a frame: answers whether it goes on to the room test (R318). -/
def Dev.police (d : Dev) (q s fill : Nat) (e : Eth) (ip : IpRes) : Dev × Bool :=
  let f := d.polForce q
  let pre := match e.tag with
    | some t => if bit t 12 then 1 else 0
    | none => 0
  let r := polMeter f (AMap.get d.pol.tokens q (f.getD 4 0 * 8, f.getD 5 0 * 8)) pre s
  let d := { d with pol := { d.pol with tokens := AMap.put d.pol.tokens q r.2 } }
  let lost := fun (d : Dev) =>
    let k := d.carries e ip
    let d := if k.1 then d.raise 0x27 10 q 1 else d
    if k.2 then d.raise 0x27 11 q 1 else d
  if r.1 = 0 then (d.bumpWrap (F.POL_GREEN.COUNT q) 1, true)
  else if r.1 = 1 then
    let d := (d.bumpWrap (F.POL_YELLOW.COUNT q) 1).countQ 0x57 q
    if fill < f.getD 6 0 then (d, true)
    else (lost ((d.bump (F.POL_DROP.YELLOW_DROP q) 1).raise 0x27 8 q 1), false)
  else
    let d := (d.bumpWrap (F.POL_RED.COUNT q) 1).countQ 0x56 q
    (lost ((d.bump (F.POL_DROP.RED_DROP q) 1).raise 0x27 q q 1), false)

/-! ## RX queues and PAUSE -/

/-- The frames of an RX queue, oldest first. -/
def Dev.rxq (d : Dev) (q : Nat) : List RxFrame := AMap.get d.net.rxq q []

/-- Bytes held for a port in the RX queues (R263). -/
def Dev.rxHeld (d : Dev) (p : Nat) : Nat :=
  (d.net.rxq.map (fun (kq : Nat × List RxFrame) => ((kq.2.filter (fun (f : RxFrame) => f.port = p)).map (fun (f : RxFrame) => f.bytes.length)).sum)).sum

/-- XOFF and XON in bytes (R271). -/
def Dev.xoffBytes (d : Dev) (p : Nat) : Nat := min 184 (d.rd (F.PAUSE_CFG.XOFF_KIB p)) * 1024
def Dev.xonBytes (d : Dev) (p : Nat) : Nat :=
  let x := min 184 (d.rd (F.PAUSE_CFG.XOFF_KIB p))
  (if d.rd (F.PAUSE_CFG.XON_KIB p) < x then d.rd (F.PAUSE_CFG.XON_KIB p) else x - 1) * 1024

/-- PAUSE_TIME, 0 taken as 1. -/
def Dev.pauseTime (d : Dev) (p : Nat) : Nat := max 1 (d.rd (F.PAUSE_CFG.PAUSE_TIME p))

/-- Sends PAUSE as the fill of a port's receive buffer crosses its thresholds (R263). -/
def Dev.pauseCheck (d : Dev) (p : Nat) : Dev :=
  let fill := d.rxHeld p
  let off := AMap.find d.net.xoff p
  if !d.flag (F.MAC_CTRL.PAUSE_TX_EN p) then d
  else if off.isNone && d.xoffBytes p ≤ fill then
    { d with net := { d.net with xoff := AMap.put d.net.xoff p d.time.tb, pauseDue := AMap.put d.net.pauseDue p (d.pauseTime p) } }
  else if off.isSome && fill < d.xonBytes p then
    { d with net := { d.net with xoff := AMap.del d.net.xoff p, pauseDue := AMap.put d.net.pauseDue p 0 } }
  else d

/-- PAUSE_REFRESH: half of PAUSE_TIME has passed with the fill still at or above XON, so the PAUSE frame is sent again. -/
def Dev.pauseRefresh (d : Dev) (p : Nat) : Dev :=
  match AMap.find d.net.xoff p with
  | none => d
  | some t => d.fire (t + d.pauseTime p * 256 / 10) (fun d =>
      if !d.flag (F.MAC_CTRL.PAUSE_TX_EN p) || d.rxHeld p < d.xonBytes p then d
      else { d with net := { d.net with
        xoff := AMap.put d.net.xoff p d.time.tb
        pauseDue := AMap.put d.net.pauseDue p (d.pauseTime p) } })

/-- PAUSE_EXPIRY: a received pause runs out (R262). -/
def Dev.pauseExpiry (d : Dev) (p : Nat) : Dev :=
  match AMap.find d.net.pausedTo p with
  | none => d
  | some t => d.fire ((t + 9) / 10) (fun d =>
      { d with net := { d.net with pausedTo := AMap.del d.net.pausedTo p } }.setFlag (F.MAC_STAT.TX_PAUSED p) false)

/-- A received PAUSE frame is acted on (R262). -/
def Dev.takePause (d : Dev) (p quanta : Nat) : Dev :=
  let d := (d.bump (F.PAUSE_STAT.PAUSE_RX p) 1).countQ 0x54 p
  if quanta = 0 then
    { d with net := { d.net with pausedTo := AMap.del d.net.pausedTo p } }.setFlag (F.MAC_STAT.TX_PAUSED p) false
  else
    { d with net := { d.net with pausedTo := AMap.put d.net.pausedTo p (d.time.tb * 10 + quanta * 512) } }.setFlag
      (F.MAC_STAT.TX_PAUSED p) true

/-- Puts a frame into an RX queue. -/
def Dev.rxPut (d : Dev) (p q : Nat) (bs : List Byte) : Dev :=
  let f : RxFrame := { port := p, ts := ((d.ptpNow : Int) + d.rdS (F.TS_CORR.RX_CORR p)).toNat, bytes := bs }
  let d := { d with net := { d.net with rxq := AMap.put d.net.rxq q (d.rxq q ++ [f]) } }
  d.wr (F.RXQ.FILL q) (d.rxq q).length

/-- Takes the oldest frame of an RX queue. -/
def Dev.rxPop (d : Dev) (q : Nat) : Dev × Option RxFrame :=
  match d.rxq q with
  | [] => (d, none)
  | f :: fs =>
    let d := { d with net := { d.net with rxq := AMap.set d.net.rxq q fs [] } }
    let d := d.wr (F.RXQ.FILL q) fs.length
    (d.pauseCheck f.port, some f)

/-- A dropped frame: its stage's counter, the source of the port's block that names it, and RX_DROP. -/
def Dev.rxDrop (d : Dev) (p : Nat) (f : Fld) (src : Option Nat) : Dev :=
  let d := (d.bump f 1).countQ 0x52 p
  match src with
  | some s => d.raise (0x22 + p) s (if s = 10 then p else p * 256) 1
  | none => d

/-- The frame check sequence of a frame is right. -/
def fcsGood (bs : List Byte) : Bool :=
  let n := bs.length - 4
  decide (bs.drop n = (beBytes 4 (crc32 (bs.take n))).reverse)

/-- Stages 1 to 4 of R252 on a 10 Gbit/s port: the stage that failed is counted; true when the frame goes on. -/
def Dev.rxEarly (d : Dev) (p : Nat) (room : Bool) (bs : List Byte) : Dev × Bool :=
  let n := bs.length
  if n < 64 then (d.rxDrop p (F.RX_DROP_A.RUNT p) (some 8), false)
  else if 9216 < n then (d.rxDrop p (F.RX_DROP_A.OVERSIZE p) (some 7), false)
  else if !fcsGood bs then (d.rxDrop p (F.RX_DROP_B.FCS p) none, false)
  else if !room then (d.rxDrop p (F.RX_DROP_F.FIFO p) (some 4), false)
  else if !d.addrAccepted p (beAt bs 0 6) then (d.rxDrop p (F.RX_DROP_B.ADDR p) none, false)
  else (d, true)

/-- Where the rules send a frame (R258): the queue, or none for a drop; the hit is counted. -/
def Dev.steer (d : Dev) (p : Nat) (e : Eth) (ip : IpRes) : Dev × Option Nat :=
  match (List.range 32).find? (fun n => ruleMatches (d.rule n) p e ip) with
  | some n =>
    let r := d.rule n
    (d.bumpWrap (F.RULE_HITS.HITS n) 1, if r.getD 4 0 = 1 then none else some (r.getD 3 0))
  | none => (d, if d.flag F.RX_DEFAULT.DROP then none else some (d.rd F.RX_DEFAULT.QUEUE))

/-- DEPTH of an RX queue: 0 taken as 1, above 512 as 512. -/
def Dev.rxDepth (d : Dev) (q : Nat) : Nat := max 1 (min 512 (d.rd (F.RXQ.DEPTH q)))

/-- Stages 8 and 9 (R258, R318). -/
def Dev.rxLate (d : Dev) (p : Nat) (bs : List Byte) (e : Eth) (ip : IpRes) : Dev :=
  let n := bs.length
  let r := d.steer p e ip
  match r.2 with
  | none => r.1.rxDrop p (F.RX_DROP_E.FILTER p) (some 10)
  | some q =>
    let m := r.1.police q n (r.1.rxq q).length e ip
    let d := m.1
    if !m.2 then d.countQ 0x52 p
    else if d.rxDepth q ≤ (d.rxq q).length then d.rxDrop p (F.RX_DROP_F.QFULL p) (some 5)
    else (((d.rxPut p q bs).bumpWrap (F.RX_OK.COUNT p) 1).countQ 0x50 p).pauseCheck p

/-- FRAME_RECEIVE: a frame arrives on MAC_A (0) or MAC_B (1) and passes the stages of R252. -/
def Dev.frameReceive (d : Dev) (p : Nat) (room : Bool) (bs : List Byte) : Dev :=
  if 1 < p || !d.flag (F.MAC_CTRL.RX_EN p) then d
  else
    let r := d.rxEarly p room bs
    let d := r.1
    if !r.2 then d
    else
      let e := parseEth bs
      let ctl := e.etype = 0x8808
      let own := e.dst = 0x0180C2000001 || e.dst = d.station p
      if ctl then
        if beAt e.body 0 2 = 1 && own && d.flag (F.MAC_CTRL.PAUSE_RX_EN p) then d.takePause p (beAt e.body 2 2)
        else d.rxDrop p (F.RX_DROP_C.MACCTL p) none
      else if d.vlanRefused p e then d.rxDrop p (F.RX_DROP_C.VLAN p) none
      else
        match d.ipStage p e with
        | .ipErr => d.rxDrop p (F.RX_DROP_D.IP_ERR p) none
        | .frag => d.rxDrop p (F.RX_DROP_E.FRAG p) none
        | .udpErr => d.rxDrop p (F.RX_DROP_D.UDP_ERR p) none
        | ip => d.rxLate p bs e ip

/-- PEER_FRAME_RECEIVE (R264): MAC_P receives a frame and passes 0x88B6 frames to Selvage. -/
def Dev.peerFrame (d : Dev) (room : Bool) (bs : List Byte) : Dev :=
  if !d.flag (F.MAC_CTRL.RX_EN 2) then d
  else
    let r := d.rxEarly 2 room bs
    let d := r.1
    if !r.2 then d
    else
      let dst := beAt bs 0 6
      if beAt bs 12 2 = 0x8808 then d.rxDrop 2 (F.RX_DROP_C.MACCTL 2) none
      else if beAt bs 12 2 = 0x88B6 && (dst = d.station 2 || dst = 0xFFFFFFFFFFFF) then
        { (d.bumpWrap (F.RX_OK.COUNT 2) 1).countQ 0x50 2 with net := { d.net with passed := AMap.put d.net.passed 2 bs } }
      else d.rxDrop 2 (F.RX_DROP_E.FILTER 2) (some 10)

/-- MAC_LINK_CHANGE (R251): the PCS of a port changes; LINK follows block lock, hi_ber and local fault. -/
def Dev.macLink (d : Dev) (p : Nat) (lock hiBer localF remoteF : Bool) : Dev :=
  let was := d.flag (F.MAC_STAT.LINK p)
  let now := lock && !hiBer && !localF
  let d := if lock && !d.flag (F.MAC_STAT.BLOCK_LOCK p) then d.raise (0x22 + p) 11 (p * 256) 1 else d
  let d := if hiBer && !d.flag (F.MAC_STAT.HI_BER p) then d.raise (0x22 + p) 2 (p * 256) 1 else d
  let d := if remoteF && !d.flag (F.MAC_STAT.REMOTE_FAULT p) then d.raise (0x22 + p) 1 (p * 256) 1 else d
  let d := (((d.setFlag (F.MAC_STAT.BLOCK_LOCK p) lock).setFlag (F.MAC_STAT.HI_BER p) hiBer).setFlag (F.MAC_STAT.LOCAL_FAULT p)
    localF).setFlag (F.MAC_STAT.REMOTE_FAULT p) remoteF
  let d := d.setFlag (F.MAC_STAT.LINK p) now
  if was && !now then (d.bump (F.MAC_STAT.LINK_DOWNS p) 1).raise (0x22 + p) 0 (p * 256) 1 else d

/-! ## The tether (R265 - R269) -/

/-- The frame the tether would send next: the claim announcement before the heartbeat. -/
def Dev.tethNext (d : Dev) : Option (Nat × TethTx) :=
  match d.teth.claim, d.teth.heart with
  | some f, _ => some (0, f)
  | none, some f => some (1, f)
  | none, none => none

/-- Puts or drops the held frame of a kind: 0 claim announcement, 1 heartbeat. -/
def Dev.tethSet (d : Dev) (kind : Nat) (x : Option TethTx) : Dev :=
  { d with teth := { d.teth with
    claim := if kind = 0 then x else d.teth.claim
    heart := if kind = 1 then x else d.teth.heart } }

/-- Queues a frame on the tether (R267): a held frame of the kind is superseded, and the new one starts with no attempts. -/
def Dev.tethPut (d : Dev) (kind : Nat) (f : List Byte) : Dev :=
  if !d.flag F.TETH_CTRL.EN then d
  else
    let held := if kind = 0 then d.teth.claim else d.teth.heart
    let d := if held.isSome then ((d.bump F.TETH_CNT_C.SUPERSEDED 1).raise 0x25 5 (3 * 256) 1) else d
    d.tethSet kind (some { frame := f })

/-- TETHER_TRANSMIT (R265): the frame whose turn it is goes out whole, unless it is backing off. -/
def Dev.tetherTransmit (d : Dev) : Dev :=
  if !d.flag F.TETH_CTRL.EN then d
  else
    match d.tethNext with
    | none => d
    | some (kind, x) =>
      if x.backTo.isSome then d
      else
        let d := ((d.tethSet kind none).bumpWrap F.TETH_CNT_A.TX_OK 1).countQ 0x51 3
        { d with net := { d.net with sent := AMap.put d.net.sent 3 x.frame } }

/-- TETHER_COLLISION (R265): back-off, or the frame is discarded after 16 attempts or a late collision.  The number of slot
times is a free value below 2^k. -/
def Dev.tetherCollision (d : Dev) (late : Bool) : Dev :=
  if !d.flag F.TETH_CTRL.EN then d
  else
    match d.tethNext with
    | none => d
    | some (kind, x) =>
      if x.backTo.isSome then d
      else if late then ((d.tethSet kind none).bump F.TETH_CNT_B.LATE 1).raise 0x25 1 (3 * 256) 1
      else
        let n := x.attempts + 1
        let d := d.bump F.TETH_CNT_B.COLLISIONS 1
        if 16 ≤ n then ((d.tethSet kind none).bump F.TETH_CNT_C.EXCESSIVE 1).raise 0x25 0 (3 * 256) 1
        else
          let r := d.draw (2 ^ min n 10)
          r.2.tethSet kind (some { x with attempts := n, backTo := some (r.2.time.tb + r.1 * 51200) })

/-- TETHER_BACKOFF_EXPIRY (R265): the back-off of the frame whose turn it is ends. -/
def Dev.tetherBackoff (d : Dev) : Dev :=
  match d.tethNext with
  | none => d
  | some (kind, x) => match x.backTo with
    | none => d
    | some t => d.fire t (fun d => d.tethSet kind (some { x with backTo := none }))

/-- TETHER_RECEIVE (R269). -/
def Dev.tetherReceive (d : Dev) (bs : List Byte) : Dev :=
  if !d.flag F.TETH_CTRL.EN then d
  else if bs.length < 64 || 1522 < bs.length || !fcsGood bs then (d.bump F.TETH_CNT_D.RX_ERR 1).raise 0x25 3 (3 * 256) 1
  else if beAt bs 12 2 ≠ 0x88B6 then (d.bump F.TETH_CNT_D.RX_OTHER 1).raise 0x25 4 3 1
  else
    let d := (d.bumpWrap F.TETH_CNT_A.RX_OK 1).countQ 0x50 3
    { d with net := { d.net with passed := AMap.put d.net.passed 3 bs } }

/-- 4 × NODE_CNT × TO_TIMER bit times in ns (R268). -/
def Dev.plcaWait (d : Dev) : Nat := 400 * max 2 (min 8 (d.rd F.TETH_CTRL.NODE_CNT)) * max 1 (d.rd F.TETH_CTRL.TO_TIMER)

/-- PLCA_BEACON_LOSS: no beacon for that long; the port falls back to CSMA/CD (R268). -/
def Dev.plcaLoss (d : Dev) : Dev :=
  if !d.flag F.TETH_CTRL.PLCA_EN || !d.flag F.TETH_STAT.PLCA_ACTIVE then d
  else d.fire (d.teth.beacon.getD 0 + d.plcaWait) (fun d => (d.setFlag F.TETH_STAT.PLCA_ACTIVE false).raise 0x25 2 (3 * 256) 1)

/-- A write of TETH_CTRL: with the port or PLCA disabled PLCA is not in use (R268, R272; DEDUCED). -/
def Dev.plcaWritten (d : Dev) : Dev :=
  if d.flag F.TETH_CTRL.EN && d.flag F.TETH_CTRL.PLCA_EN then d else d.setFlag F.TETH_STAT.PLCA_ACTIVE false

/-- PLCA_BEACONS_RESUME (R268). -/
def Dev.plcaResume (d : Dev) : Dev :=
  if !d.flag F.TETH_CTRL.EN || !d.flag F.TETH_CTRL.PLCA_EN then d
  else { d.setFlag F.TETH_STAT.PLCA_ACTIVE true with teth := { d.teth with beacon := some d.time.tb } }

end Sys2Proof.Machine
end

