-- ==== Sys2Proof/Machine/Therm.lean ====
section
/-! DEFINITION. Therm (chapter 11, R225 - R237): die sensors, thresholds, throttle, shut-down, tile temperatures and bands. -/

namespace Sys2Proof.Machine

/-! ## Die sensors (R225 - R227) -/

/-- Fires a timer of a block that runs while the others are held in reset: then no pick boundary bounds it. -/
def Dev.fireHeld (d : Dev) (due : Nat) (f : Dev → Dev) : Dev :=
  if d.held then f (d.advance due) else d.fire due f

/-- The neighbours of a sensor in the 4 × 6 grid (R225). -/
def sensorNear (n : Nat) : List Nat :=
  (if 6 ≤ n then [n - 6] else []) ++ (if n < 18 then [n + 6] else []) ++
  (if 0 < n % 6 then [n - 1] else []) ++ (if n % 6 < 5 then [n + 1] else [])

/-- A sensor is valid: neither FAILED nor RETIRED (R226). -/
def Dev.sensValid (d : Dev) (n : Nat) : Bool := !d.flag (F.THERM_SENS.FAILED n) && !d.flag (F.THERM_SENS.RETIRED n)

/-- °C in Q8.8. -/
def degC (t : Int) : Int := t * 256

/-- A reading passes the scan (R226): in range, within 20 °C of the mean of its valid neighbours, no converter error. -/
def Dev.sensPass (d : Dev) (temps : List Int) (errs : Nat) (n : Nat) : Bool :=
  let r := temps.getD n 0
  let near := (sensorNear n).filter d.sensValid
  let sum := (near.map (fun m => temps.getD m 0)).foldl (· + ·) 0
  !bit errs n && decide (degC (-55) ≤ r) && decide (r ≤ degC 150) &&
  (near.isEmpty || decide ((r * near.length - sum).natAbs ≤ 20 * 256 * near.length))

/-- The reading that stands for a sensor: its last one that passed (DEDUCED, assumption 26). -/
def Dev.sensRead (d : Dev) (n : Nat) : Int := AMap.get d.therm.last n 0

/-- The valid sensors that have a reading. -/
def Dev.sensLive (d : Dev) : List Nat :=
  (List.range 24).filter (fun n => d.sensValid n && (AMap.find d.therm.last n).isSome)

/-- The greatest of some readings with its sensor, the lowest number of equals first. -/
def hottest (xs : List (Nat × Int)) : Option (Nat × Int) :=
  xs.foldl (fun (b : Option (Nat × Int)) (x : Nat × Int) => match b with
    | none => some x
    | some y => if y.2 < x.2 then some x else some y) none

/-- The substitute for a FAILED sensor (R227). -/
def Dev.substitute (d : Dev) (n : Nat) : Option Int :=
  let near := (sensorNear n).filter (fun m => d.sensLive.contains m)
  let from_ := if near.isEmpty then d.sensLive else near
  (hottest (from_.map (fun m => (m, d.sensRead m)))).map (fun x => x.2 + degC 6)

/-- H with the sensor that gives it (or the failed one that is substituted). -/
def Dev.hotNow (d : Dev) : Option (Nat × Int) :=
  hottest (d.sensLive.map (fun m => (m, d.sensRead m)) ++
    d.therm.subst.filterMap (fun m => (d.substitute m).map (fun t => (m, t))))

/-- H, Q8.8 °C. -/
def Dev.hot (d : Dev) : Int := d.rdS F.THERM_STAT.HOT

/-! ## Throttle (R230, R231) -/

/-- Changes the throttle level. -/
def Dev.setLevel (d : Dev) (n : Nat) : Dev :=
  let was := d.rd F.THERM_STAT.LEVEL
  if n = was then d else ((d.wr F.THERM_STAT.LEVEL n).count 0x46).raise 0x20 8 0 n

/-- THR_STEP_MS in ns. -/
def Dev.thrStepNs (d : Dev) : Nat := 1000000 * max 1 (d.rd F.THERM_CFG.THR_STEP_MS)

/-- The level neither falls nor the throttle releases while a substitution or the want of sensors stands (R227). -/
def Dev.thrHeld (d : Dev) : Bool := !d.therm.subst.isEmpty || d.flag F.THERM_STAT.LOWSENS

/-- THROTTLE_STEP (R231 rules 2 and 3). -/
def Dev.throttleStep (d : Dev) : Dev :=
  match d.therm.stepTb with
  | none => d
  | some t => d.fireHeld t (fun d =>
    let next := d.time.tb + d.thrStepNs
    let level := d.rd F.THERM_STAT.LEVEL
    if d.flag F.THERM_STAT.THROTTLE then
      let h := d.hot
      let fell := decide ((d.rd F.THERM_CFG.THR_FALL : Int) * 256 ≤ (d.therm.ref - h) * 10)
      let d := { d with therm := { d.therm with ref := h, stepTb := some next } }
      if fell then d else d.setLevel (min 6 (level + 1))
    else
      let d := { d with therm := { d.therm with stepTb := if level ≤ 1 && !d.thrHeld then none else some next } }
      if d.thrHeld then d else d.setLevel (level - 1))

/-! ## The scan (R228, R229) -/

/-- Shut-down found (R232, time 0): FATAL event, ALERT_N and THERMTRIP_N low, no Marl operation starts. -/
def Dev.shutFound (d : Dev) (n : Nat) (h : Int) : Dev :=
  let d := d.raise 0x20 2 n (ofS 32 h)
  let d := (d.bump F.THERM_CNT.SHUTDOWNS 1).signal 19 false
  let d := d.storeKeys [F.THERM_CNT.SHUTDOWNS.key]
  { d with therm := { d.therm with shut := 1, shutTb := d.time.tb, tripPin := true, belowTb := none } }

/-- Judges the sensors of a scan: three failures in a row FAIL one, a hundred passes restore one (R226, R227). -/
def Dev.judgeSensors (d : Dev) (pass : List Bool) : Dev :=
  forEach (List.range 24) (fun n (d : Dev) =>
    let ok := pass.getD n false
    let failed := d.flag (F.THERM_SENS.FAILED n)
    let fails := if ok then 0 else AMap.get d.therm.fails n 0 + 1
    let passes := if ok && failed then AMap.get d.therm.passes n 0 + 1 else 0
    let d := { d with therm := { d.therm with
      fails := AMap.set d.therm.fails n (min fails 3) 0, passes := AMap.set d.therm.passes n passes 0 } }
    if !failed && 3 ≤ fails then
      let d := (d.setFlag (F.THERM_SENS.FAILED n) true).raise 0x20 3 n (ofS 32 (d.rdS (F.THERM_SENS.TEMP n)))
      if d.therm.hot = some n && 0 < d.rd F.THERM_STAT.LEVEL && !d.flag (F.THERM_SENS.RETIRED n) then
        { d.raise 0x20 4 n (ofS 32 ((d.substitute n).getD d.hot)) with therm := { d.therm with subst := d.therm.subst ++ [n] } }
      else d
    else if failed && 100 ≤ passes then
      { d.setFlag (F.THERM_SENS.FAILED n) false with therm := { d.therm with
        subst := d.therm.subst.filter (· ≠ n), passes := AMap.del d.therm.passes n } }
    else d) d

/-- Publishes the sensor masks and H. -/
def Dev.publishHot (d : Dev) : Dev :=
  let d := forEach (List.range 24) (fun n (d : Dev) => d.setFlag (F.THERM_SENS.VALID n) (d.sensValid n)) d
  let d := d.wr F.THERM_FAIL.FAILED (((List.range 24).map (fun n => if d.flag (F.THERM_SENS.FAILED n) then 2 ^ n else 0)).sum)
  let d := d.setFlag F.THERM_STAT.SUBST (!d.therm.subst.isEmpty)
  match d.hotNow with
  | none => { d with therm := { d.therm with hot := none } }
  | some (n, h) =>
    let d := (d.wr F.THERM_STAT.HOT (satS 16 h)).wr F.THERM_STAT.HOT_SENS n
    { d with therm := { d.therm with hot := if d.therm.subst.contains n then none else some n } }

/-- LOWSENS: fewer than 12 valid sensors hold the level at 6 (R227). -/
def Dev.lowSensors (d : Dev) : Dev :=
  let low := decide (((List.range 24).filter d.sensValid).length < 12)
  let was := d.flag F.THERM_STAT.LOWSENS
  let d := d.setFlag F.THERM_STAT.LOWSENS low
  if low then (if was then d else d.raise 0x20 5 (d.rd F.THERM_STAT.HOT_SENS) (ofS 32 d.hot)).setLevel 6
  else if was && !d.flag F.THERM_STAT.THROTTLE then
    { d with therm := { d.therm with stepTb := some (d.time.tb + d.thrStepNs) } }
  else d

/-- Warning and throttle thresholds (R228, R231). -/
def Dev.thresholds (d : Dev) : Dev :=
  let h := d.hot
  let n := d.rd F.THERM_STAT.HOT_SENS
  let d := if !d.flag F.THERM_STAT.WARN then
      if degC 95 ≤ h then (d.setFlag F.THERM_STAT.WARN true).raise 0x20 0 n (ofS 32 h) else d
    else if h < degC 90 then d.setFlag F.THERM_STAT.WARN false else d
  if !d.flag F.THERM_STAT.THROTTLE then
    if degC 105 ≤ h then
      let d := ((d.setFlag F.THERM_STAT.THROTTLE true).bump F.THERM_CNT.THROTTLES 1).raise 0x20 1 n (ofS 32 h)
      let d := { d with therm := { d.therm with ref := h, stepTb := some (d.time.tb + d.thrStepNs) } }
      d.setLevel (max 1 (d.rd F.THERM_STAT.LEVEL))
    else d
  else if h < degC 100 && !d.thrHeld then
    { d.setFlag F.THERM_STAT.THROTTLE false with therm := { d.therm with stepTb := some (d.time.tb + d.thrStepNs) } }
  else d

/-- The code of the next scan period (R229). -/
def Dev.scanCode (d : Dev) : Nat :=
  let h := d.hot
  let levels := [degC 95, degC 105, degC 115] ++ (if d.flag F.THERM_STAT.WARN then [degC 90] else []) ++
    (if d.flag F.THERM_STAT.THROTTLE then [degC 100] else []) ++ (if d.therm.shut ≠ 0 then [degC 105] else [])
  let dist := (levels.map (fun (l : Int) => (h - l).natAbs)).foldl min (256 * 256)
  if 10 * 256 < dist then 0 else if 3 * 256 < dist then 1 else 2

/-- The scan period in ns. -/
def scanNs (code : Nat) : Nat := [1000000, 100000, 10000].getD code 1000000

/-- THERM_SCAN (R225 - R229): all 24 sensors are read, in Q8.8 °C, with the converter errors as a mask.  Shut-down comes first,
then failures and restorations, then the thresholds. -/
def Dev.thermScan (d : Dev) (temps : List Int) (errs : Nat) : Dev :=
  if d.therm.trip || d.sup.held then d
  else d.fireHeld d.therm.scanTb (fun d =>
    let d := d.count 0x45
    let pass := (List.range 24).map (fun n => d.sensPass temps errs n)
    let d := forEach (List.range 24) (fun n (d : Dev) =>
      let r := satI 16 (temps.getD n 0)
      let d := d.wr (F.THERM_SENS.TEMP n) (ofS 16 r)
      if pass.getD n false then { d with therm := { d.therm with last := AMap.put d.therm.last n r } } else d) d
    let d := match d.hotNow with
      | some (n, h) => if degC 115 ≤ h && d.therm.shut = 0 then d.shutFound n h else d
      | none => d
    let d := ((d.judgeSensors pass).publishHot.lowSensors).thresholds
    let below := decide (d.hot < degC 105)
    let code := d.scanCode
    let d := d.wr F.THERM_STAT.SCAN code
    { d with therm := { d.therm with
      scanTb := d.time.tb + scanNs code
      belowTb := if d.therm.shut = 0 || !below then none else some (d.therm.belowTb.getD d.time.tb) } })

/-- THERM_RETIRE_WRITE (R226): sensors are retired or restored at once; a substitution of a retired sensor ends. -/
def Dev.thermRetire (d : Dev) (mask : Nat) : Dev :=
  let d := d.wr F.THERM_RETIRE.RETIRE mask
  let d := forEach (List.range 24) (fun n (d : Dev) => d.setFlag (F.THERM_SENS.RETIRED n) (bit mask n)) d
  { d with therm := { d.therm with subst := d.therm.subst.filter (fun n => !bit mask n) } }.publishHot.lowSensors

/-! ## Shut-down (R232, R233) -/

/-- The page in progress ends (R233): finished while H stays below 120 °C, otherwise aborted.  An operation whose COMMIT page it
is ends complete; any other is left open and rolls back at the next mount. -/
def Dev.shutMarl (d : Dev) : Dev :=
  if d.therm.shut = 0 then d
  else
    match d.marl.run with
    | none => d
    | some r =>
      let hot := decide (degC 120 ≤ d.hot)
      let d := if hot then d.raise 0x04 10 r.op.kind.region (ofS 16 d.hot) else d
      if !hot && r.step = 3 && r.left ≤ 1 then d.marlRound true
      else ({ d with marl := { d.marl with run := none, below := none, queue := [] } }).marlStat

/-! ## Tile temperature and bands (R236, R237) -/

/-- A thermal sample as Q8.8 °C (tile). -/
def Dev.tileSample (d : Dev) (t x : Nat) : Int :=
  satI 16 (d.rdS (F.TT_CAL.TT_OFS t) + satI 16 (divRound ((x * d.rd (F.TT_CAL.TT_SLOPE t) : Nat) : Int) 4096))

/-- Inserts into a rising list. -/
def insertInt (x : Int) : List Int → List Int
  | [] => [x]
  | y :: ys => if x ≤ y then x :: y :: ys else y :: insertInt x ys

/-- Twice the median (of an even number: the sum of the middle two). -/
def median2 (xs : List Int) : Int :=
  let s := xs.foldl (fun l x => insertInt x l) []
  s.getD ((s.length - 1) / 2) 0 + s.getD (s.length / 2) 0

/-- The band of a temperature without hysteresis. -/
def Dev.bandFor (d : Dev) (t : Int) : Nat :=
  ([F.BAND_CFG.BAND_T1, F.BAND_CFG.BAND_T2, F.BAND_CFG.BAND_T3].filter (fun f => decide (degC (d.rd f) ≤ t))).length

/-- A threshold BAND_T(b), b = 1 to 3. -/
def Dev.bandT (d : Dev) (b : Nat) : Int :=
  degC (([0, d.rd F.BAND_CFG.BAND_T1, d.rd F.BAND_CFG.BAND_T2, d.rd F.BAND_CFG.BAND_T3].getD b 0 : Nat) : Int)

/-- Checks a valid tile temperature against the thresholds (R237); the first one after reset sets the band at once. -/
def Dev.checkBand (d : Dev) (t : Nat) (temp : Int) : Dev :=
  if !d.therm.bandKnown.contains t then
    { d.wr (F.TILE_TEMP.BAND t) (d.bandFor temp) with therm := { d.therm with bandKnown := d.therm.bandKnown ++ [t] } }
  else
    let b := d.band t
    if b < 3 && d.bandT (b + 1) ≤ temp then { d with therm := { d.therm with bandTo := AMap.put d.therm.bandTo t (b + 1) } }
    else if 0 < b && temp < d.bandT b - degC 2 then { d with therm := { d.therm with bandTo := AMap.put d.therm.bandTo t (b - 1) } }
    else d

/-- A tile's reading fails in this pick. -/
def Dev.tileReadingFails (d : Dev) (t : Nat) (n : Nat) : Dev :=
  ((d.setFlag (F.TILE_TEMP.VALID t) false).wr (F.TILE_TEMP.NVALID t) n)

/-- The tile temperature of a pick that carries thermal samples (R236): samples by port-group index, those the tile flags. -/
def Dev.tileTemp (d : Dev) (t : Nat) (samples : List Nat) (flagged : List Nat) : Dev :=
  let temps := samples.map (fun x => d.tileSample t (x % 2 ^ 14))
  let med := median2 temps
  let good := temps.zipIdx.filter (fun (x : Int × Nat) =>
    !flagged.contains (0xF003 + 4 * x.2) && decide ((2 * x.1 - med).natAbs ≤ 20 * 256))
  let n := good.length
  if n < 128 then (d.tileReadingFails t n).raise 0x20 6 t (d.tileMode t)
  else
    let mean := divRound ((good.map (fun (x : Int × Nat) => x.1)).foldl (· + ·) 0) n
    let top := hottest (good.map (fun (x : Int × Nat) => (x.2, x.1)))
    let d := ((d.wr (F.TILE_TEMP.TEMP t) (ofS 16 mean)).setFlag (F.TILE_TEMP.VALID t) true).wr (F.TILE_TEMP.NVALID t) n
    let warn : Int := degC (d.rd F.BAND_CFG.TILE_WARN_C)
    let d := match top with
      | none => d
      | some (p, h) =>
        if d.therm.warned.contains t then
          if h < warn - degC 2 then { d with therm := { d.therm with warned := d.therm.warned.filter (· ≠ t) } } else d
        else if warn < h then
          { d.raise 0x20 7 t p with therm := { d.therm with warned := d.therm.warned ++ [t] } }
        else d
    d.checkBand t mean

/-- Bands at a beat boundary (R237): each moves by at most one step; that of a tile in calibration waits for its end (R432). -/
def Dev.bandsBeat (d : Dev) : Dev :=
  let busy := fun (tb : Nat × Nat) => d.cal.runs.any (fun (r : CalRun) => r.tile = tb.1)
  let moves := d.therm.bandTo.filter (fun tb => !busy tb)
  let d := { d with therm := { d.therm with bandTo := d.therm.bandTo.filter busy } }
  forEach moves (fun (tb : Nat × Nat) (d : Dev) =>
    if d.band tb.1 = tb.2 then d
    else (((d.wr (F.TILE_TEMP.BAND tb.1) tb.2).countQ 0x47 tb.1).raise 0x20 9 tb.1 tb.2).tilthBand tb.1) d

/-- The class caps of the throttle at a beat boundary (R230, levels 5 and 6). -/
def Dev.thermCaps (d : Dev) : Dev :=
  let cap := if 6 ≤ d.throttle then 1 else if 5 ≤ d.throttle then 2 else 3
  forEach (List.range 16) (fun c (d : Dev) => d.wr (F.CLASS_TCAP.TCAP c) (if bit (d.rd F.CLASS_SHED.SHED) c then cap else 3)) d

end Sys2Proof.Machine
end

