-- ==== Sys2Proof/Machine/Silt.lean ====
section
/-! DEFINITION. Silt (chapter 11, R238 - R245): slack, ageing, re-planning, heater drift; Supply's core voltage (R444). -/

namespace Sys2Proof.Machine

/-! ## Arithmetic -/

/-- Fractional bits of log2 of a mantissa m in [2^32, 2^33), n of them. -/
def log2Frac : Nat → Nat → Nat
  | 0, _ => 0
  | n + 1, m =>
    let q := m * m / 2 ^ 32
    if q < 2 ^ 33 then log2Frac n q else 2 ^ n + log2Frac n (q / 2)

/-- log10 of n ≥ 1 in units of 2^-20, by 24 bits of log2 (DESIGN CHOICE of precision, assumption 27). -/
def log10Fix (n : Nat) : Nat :=
  let k := Nat.log2 n
  let l2 := k * 2 ^ 24 + log2Frac 24 (n * 2 ^ 32 / 2 ^ k)
  l2 * 1292913986 / 2 ^ 36

/-- The value at xe of the least-squares line through (x, y) pairs; none where the pairs do not fix it. -/
def fitAt (ps : List (Int × Int)) (xe : Int) : Option Int :=
  let n : Int := ps.length
  let sx := (ps.map (fun p => p.1)).foldl (· + ·) 0
  let sy := (ps.map (fun p => p.2)).foldl (· + ·) 0
  let sxx := (ps.map (fun p => p.1 * p.1)).foldl (· + ·) 0
  let sxy := (ps.map (fun p => p.1 * p.2)).foldl (· + ·) 0
  let den := n * sxx - sx * sx
  if den ≤ 0 then none
  else some ((sy * den + (n * sxy - sx * sy) * (n * xe - sx)) / (n * den))

/-- The step-rate table of R77 in steps/s: by voltage row, at 25, 85 and 105 °C. -/
def rateTable : List (List Int) :=
  [[1020000000, 950000000, 900000000], [1240000000, 1150000000, 1090000000], [1450000000, 1370000000, 1300000000],
   [1700000000, 1600000000, 1520000000], [1930000000, 1820000000, 1730000000], [2150000000, 2030000000, 1930000000]]

/-- A row of the table at a temperature (Q8.8 °C), interpolated linearly and extended beyond the table. -/
def rateAtTemp (row : List Int) (t : Int) : Int :=
  let a := row.getD 0 0
  let b := row.getD 1 0
  let c := row.getD 2 0
  if t < degC 85 then a + (b - a) * (t - degC 25) / degC 60 else b + (c - b) * (t - degC 85) / degC 20

/-- F(V, T) in steps/s (R239): V in mV. -/
def stepRateF (v : Nat) (t : Int) : Int :=
  let i := min 4 ((v - 650) / 50)
  let lo := rateAtTemp (rateTable.getD i []) t
  let hi := rateAtTemp (rateTable.getD (i + 1) []) t
  lo + (hi - lo) * ((v : Int) - 650 - 50 * i) / 50

/-! ## Core voltage (R444, R247) -/

/-- VID_MV: values outside 650–900 taken as the nearest limit. -/
def Dev.vidTarget (d : Dev) : Nat := if 2 ≤ d.therm.shut then 650 else max 650 (min 900 (d.rd F.SILT_VID.VID_MV))

/-- The code on the VID pins for the voltage now called for (R444). -/
def Dev.vidCode (d : Dev) : Nat := (d.sup.vid - 400 + 2) / 5

/-- VID_STEP: Supply moves the code by at most 10 mV toward its target, at least 1 ms after the last move, and reads the pins
back. -/
def Dev.vidStep (d : Dev) (pinsOk : Bool) : Dev :=
  let want := d.vidTarget
  let now := d.sup.vid
  if want = now || d.therm.trip || d.sup.held || d.rd F.BOOT_STAT.STAGE ≤ 2 && d.therm.shut = 0 then d
  else d.fireHeld (d.sup.vidTb + 1000000) (fun d =>
    let v := if now < want then min want (now + 10) else max want (now - 10)
    let d := { d with sup := { d.sup with vid := v, vidTb := d.time.tb } }
    let d := if pinsOk then d else d.raise 0x2C 11 0xFF v
    if v = want then d.raise 0x2C 3 0 v else d)

/-! ## Slack and ageing (R238 - R241) -/

/-- SLACK_TARGET in percent, below 5 taken as 5. -/
def Dev.slackTarget (d : Dev) : Nat := max 5 (d.rd F.SILT_CFG.SLACK_TARGET)

/-- An engine's slack register fields. -/
def Dev.engSlack (d : Dev) (e : Nat) : Nat := d.rd (F.ENG_SLACK.SLACK_MIN (e / 16) (e % 16))

/-- The slack of a pick, by engine (R78): published, and kept as the least of the beat. -/
def Dev.putSlack (d : Dev) (slack : List Nat) (first : Bool) : Dev :=
  forEach slack.zipIdx (fun (sx : Nat × Nat) (d : Dev) =>
    let s := min 65535 sx.1
    let b := sx.2 / 16
    let e := sx.2 % 16
    let d := d.wr (F.ENG_SLACK.SLACK_LAST b e) s
    d.wr (F.ENG_SLACK.SLACK_MIN b e) (if first then s else min s (d.rd (F.ENG_SLACK.SLACK_MIN b e)))) d

/-- Counts a beat of a source (engine, or 64 + link) whose slack fraction is below the target (R238). -/
def Dev.belowBeat (d : Dev) (key slackNs : Nat) : Dev :=
  if d.slackTarget * d.pickNs ≤ slackNs * 100 then { d with silt := { d.silt with below := AMap.del d.silt.below key } }
  else
    let n := AMap.get d.silt.below key 0 + 1
    let d := { d with silt := { d.silt with below := AMap.put d.silt.below key (min n 8), due := d.silt.due || n = 8 } }
    if n = 8 then d.raise 0x21 (if key < 64 then 1 else 11) (key % 64) slackNs else d

/-- The slack that the beat gives each source: an engine that stepped, 64 + a link that closed chunks. -/
def Dev.beatSlacks (d : Dev) : List (Nat × Nat) :=
  d.loop.engBeat.map (fun (es : Nat × Nat) => (es.1, d.engSlack es.1)) ++
  d.weft.links.filterMap (fun (tk : Nat × Link) => tk.2.slackBeat.map (fun s => (64 + tk.1, s)))

/-- Silt's beat: each source's slack is judged; one that was idle in the beat is not below (R238). The least slack of a link in the hour
is kept (R240). -/
def Dev.siltBeat (d : Dev) : Dev :=
  let src := d.beatSlacks
  let least := (src.filter (fun (x : Nat × Nat) => decide (64 ≤ x.1))).foldl (fun m (x : Nat × Nat) =>
    AMap.put m (x.1 - 64) (min x.2 (AMap.get m (x.1 - 64) x.2))) d.silt.linkLeast
  let d := { d with silt := { d.silt with linkLeast := least
                                          below := d.silt.below.filter (fun (kn : Nat × Nat) => src.any (fun (x : Nat × Nat) => x.1 = kn.1)) } }
  let d := forEach src (fun (x : Nat × Nat) (d : Dev) => d.belowBeat x.1 x.2) d
  d.setFlag F.SILT_STAT.BELOW (d.silt.below.any (fun (kn : Nat × Nat) => decide (8 ≤ kn.2)))

/-- The die sensor beside an engine (R225). -/
def engSensor (e : Nat) : Nat := 3 * e / 8

/-- REFERENCE_BURST (R239): an engine's burst of 4,096 steps took `ps`, which gives its rate and age factor. -/
def Dev.refBurst (d : Dev) (e ps : Nat) : Dev :=
  if 64 ≤ e || ps = 0 then d
  else
    let r : Nat := 4096 * 10 ^ 12 / ps
    let f := stepRateF d.sup.vid (d.sensRead (engSensor e))
    let a := if f ≤ 0 then 0 else (divRound ((r : Int) * 65536) f.toNat).toNat
    let d := { d with silt := { d.silt with
      age := AMap.put d.silt.age e a
      rate := AMap.put d.silt.rate e r
      bursts := AMap.put d.silt.bursts e (AMap.get d.silt.bursts e [] ++ [a]) } }
    d.wr (F.SILT_ENG.A_NOW e) (min 65535 ((a + 2) / 4))

/-- A_EOL of an engine in units of 2^-16 (R240): the projection, never above A now; 0.95 × A now early in life. -/
def Dev.ageEol (d : Dev) (e : Nat) : Nat :=
  let now := AMap.get d.silt.age e 65536
  let rs := AMap.get d.silt.hist e []
  let xs := rs.map (fun (r : SiltRec) => ((log10Fix (1 + r.hour) : Int), (r.age : Int)))
  let span : Int := match xs.head?, xs.getLast? with
    | some a, some b => b.1 - a.1
    | _, _ => 0
  if rs.length < 8 || span * 10 < 3 * 2 ^ 20 then now * 95 / 100
  else match fitAt xs (log10Fix (1 + d.rd F.SILT_EOL.EOL_HOURS)) with
    | some a => min now a.toNat
    | none => now * 95 / 100

/-- Steps per pick of an engine in eighths: those of the last pick, or its occupied slots at divider 1 when the unit is not ACTIVE
(R241). -/
def Dev.engLoad (d : Dev) (e : Nat) : Nat :=
  8 * (if d.isActive then d.rd (F.ENG_STAT.STEPPED (e / 16) (e % 16)) else d.rd (F.ENG_STAT.LOOPS (e / 16) (e % 16)))

/-- The growth term of an engine by end of life, in ps, at a load in eighths of a step (R241). -/
def Dev.growthPs (d : Dev) (e load : Nat) : Int :=
  let r : Nat := AMap.get d.silt.rate e 1600000000
  let w : Int := (load * 10 ^ 12 / (8 * r) : Nat)
  let f := stepRateF d.sup.vid (d.sensRead (engSensor e))
  let hot := stepRateF d.sup.vid (degC 105)
  let now : Int := ((AMap.get d.silt.age e 65536 : Nat) : Int)
  let eol : Int := d.ageEol e
  if hot ≤ 0 || eol ≤ 0 then w else w * (f * now - hot * eol) / (hot * eol)

/-- Slack of an engine in ps at a load other than the present one: the slack now, changed by the difference. -/
def Dev.presPs (d : Dev) (e load : Nat) : Int :=
  let r : Nat := AMap.get d.silt.rate e 1600000000
  (d.engSlack e : Int) * 1000 - (((load : Int) - d.engLoad e) * 10 ^ 12 / (8 * (r : Int)))

/-- Projected slack of an engine in ps at a load: the slack at that load less the growth. -/
def Dev.projPs (d : Dev) (e load : Nat) : Int :=
  d.presPs e load - d.growthPs e load

/-- A slack in ps as a fraction of the pick in 0.1 %. -/
def Dev.perMille (d : Dev) (ps : Int) : Int := divRound ps d.pickNs

/-- Engines that step loops. -/
def Dev.engUsed (d : Dev) : List Nat := (List.range 64).filter (fun e => decide (0 < d.engLoad e))

/-- Engines that serve loops of a tile: its own four and those that a move brought in. -/
def Dev.tileEngines (d : Dev) (t : Nat) : List Nat :=
  ([4 * t, 4 * t + 1, 4 * t + 2, 4 * t + 3] ++
    d.loop.slots.filterMap (fun (sl : Nat × Option Nat) => match sl.2 with
      | some l => if loopTile l = t then some (sl.1 / 1024) else none
      | none => none)).eraseDups

/-- Projected slack of a link in ps (R241), at loads of the engines. -/
def Dev.linkProjAt (d : Dev) (load : Nat → Nat) (t : Nat) : Int :=
  let g := match (d.tileEngines t).map (fun e => d.growthPs e (load e)) with
    | [] => 0
    | x :: xs => xs.foldl max x
  (d.rd (F.WEFT_SLACK.SLACK_MIN t) : Int) * 1000 - g

/-- Projected slack of a link in ps at the present loads (R241). -/
def Dev.linkProjPs (d : Dev) (t : Nat) : Int := d.linkProjAt d.engLoad t

/-- Links that carry frames. -/
def Dev.linksUsed (d : Dev) : List Nat := (List.range 16).filter d.linkUp

/-- Recomputes and publishes every projection; answers the list in 0.1 %. -/
def Dev.project (d : Dev) : Dev × List Int :=
  let es := d.engUsed.map (fun e => (e, d.perMille (d.projPs e (d.engLoad e))))
  let ls := d.linksUsed.map (fun t => d.perMille (d.linkProjPs t))
  let d := forEach es (fun (ep : Nat × Int) (d : Dev) => d.wr (F.SILT_ENG.PROJ ep.1) (satS 16 ep.2)) d
  let all := es.map (fun (ep : Nat × Int) => ep.2) ++ ls
  let least := match all with
    | [] => 0
    | x :: xs => xs.foldl min x
  (d.wr F.SILT_STAT.LEAST_PROJ (satS 16 least), all)

/-- The loads of the engines that step loops, in eighths. -/
def Dev.engLoads (d : Dev) : List (Nat × Nat) := d.engUsed.map (fun e => (e, d.engLoad e))

/-- Every projected and present slack reaches the target at the given loads of the engines. -/
def Dev.slackMet (d : Dev) (loads : List (Nat × Nat)) : Bool :=
  let goal : Int := d.slackTarget * 10
  loads.all (fun (el : Nat × Nat) =>
    decide (goal ≤ d.perMille (d.projPs el.1 el.2)) && decide (goal ≤ d.perMille (d.presPs el.1 el.2))) &&
  d.linksUsed.all (fun t =>
    decide (goal ≤ d.perMille (d.linkProjPs t)) && decide (goal ≤ d.perMille (d.rd (F.WEFT_SLACK.SLACK_MIN t) * 1000)))

/-! ## Re-planning (R242) -/

/-- A slot that a pending move names. -/
def Dev.slotMoves (d : Dev) (e s : Nat) : Bool :=
  d.loop.moves.any (fun (m : Move) => (m.engine = e && m.slot = s) || d.slotOf m.loop = e * 1024 + s)

/-- A slot of an engine whose loop has divider 1 and which no pending move names. -/
def Dev.fastSlot (d : Dev) (e : Nat) : Option (Nat × Nat) :=
  (List.range 1024).findSome? (fun s => match d.slotLoop e s with
    | some l => if d.stepDiv l = 1 && !d.slotMoves e s && d.flag (F.LOOP.EN l) then some (s, l) else none
    | none => none)

/-- The slot of an engine that costs it least, of those that no pending move names: an empty one, or the loop of the greatest divider; its
load in eighths. -/
def Dev.slowSlot (d : Dev) (e : Nat) : Option (Nat × Nat) :=
  ((List.range 1024).filter (fun s => !d.slotMoves e s)).foldl (fun (b : Option (Nat × Nat)) s =>
    let x := match d.slotLoop e s with
      | none => 0
      | some l => 8 / d.stepDiv l
    match b with
    | none => some (s, x)
    | some (_, y) => if x < y then some (s, x) else b) none

/-- Step 1: exchanges while each raises the least projected slack.  `loads` holds the engines' loads as planned. -/
def Dev.planMoves : Nat → Dev → List (Nat × Nat) → Dev × List (Nat × Nat)
  | 0, d, loads => (d, loads)
  | n + 1, d, loads =>
    let ranked := loads.map (fun (el : Nat × Nat) => (el.1, d.projPs el.1 el.2))
    let least := ranked.foldl (fun (b : Option (Nat × Int)) x => match b with
      | none => some x
      | some y => if x.2 < y.2 then some x else some y) none
    match least, hottest ranked with
    | some (l, pl), some (m, _) =>
      if l = m then (d, loads)
      else match d.fastSlot l, d.slowSlot m with
        | some (_, loop), some (s, x) =>
          if 8 ≤ x then (d, loads)
          else
            let ll := AMap.get loads l 0 + x - 8
            let lm := AMap.get loads m 0 + 8 - x
            let then_ := AMap.put (AMap.put loads l ll) m lm
            if then_.any (fun (el : Nat × Nat) => decide (d.projPs el.1 el.2 ≤ pl)) then (d, loads)
            else match d.acceptMove { loop := loop, engine := m, slot := s, item := none } with
              | some d => Dev.planMoves n d then_
              | none => (d, loads)
        | _, _ => (d, loads)
    | _, _ => (d, loads)

/-- The load of an engine in eighths when every sheddable class is capped at a rate. -/
def Dev.cappedLoad (d : Dev) (e cap : Nat) : Nat :=
  ((List.range 1024).map (fun s => match d.slotLoop e s with
    | some l =>
      if !d.flag (F.LOOP.EN l) || d.tileRole (loopTile l) = 0 then 0
      else
        let div := d.stepDiv l
        let want := 2 ^ (d.pick.rate - min d.pick.rate cap)
        8 / (if bit (d.rd F.CLASS_SHED.SHED) (d.rd (F.LOOP.CLASS l)) then max div want else div)
    | none => 0)).sum

/-- The engine of the least projected slack, with its present slack in ns (R366, class TIM). -/
def Dev.leastEngine (d : Dev) : Nat × Nat :=
  let e := (d.engUsed.foldl (fun (b : Option (Nat × Int)) e =>
    let p := d.projPs e (d.engLoad e)
    match b with
    | none => some (e, p)
    | some y => if p < y.2 then some (e, p) else some y) none).map (fun x => x.1)
  (e.getD 0, d.engSlack (e.getD 0))

/-- Step 3: SILT_ASK takes the highest cap of the sheddable classes that brings every projected slack to the target. -/
def Dev.askHost (d : Dev) : Dev :=
  let goal : Int := d.slackTarget * 10
  let fits := fun (cap : Nat) =>
    d.engUsed.all (fun e => decide (goal ≤ d.perMille (d.projPs e (d.cappedLoad e cap)))) &&
    d.linksUsed.all (fun t => decide (goal ≤ d.perMille (d.linkProjAt (fun e => d.cappedLoad e cap) t)))
  let cap := ([3, 2, 1, 0].find? fits).getD 0
  let d := forEach (List.range 16) (fun c (d : Dev) =>
    d.wr (F.SILT_ASK.ASK c) (if bit (d.rd F.CLASS_SHED.SHED) c then cap else 3)) d
  let d := (d.wr F.SILT_STAT.STEP 3).raise 0x21 4 d.leastEngine.1 d.leastEngine.2
  { d with silt := { d.silt with replanning := false, measTb := none } }

/-- VID_CEIL: at most 900 mV. -/
def Dev.vidCeil (d : Dev) : Nat := max 650 (min 900 (d.rd F.SILT_VID.VID_CEIL))

/-- Step 2: one raise of 10 mV, to be measured after 100 ms; at the ceiling, or where Silt may not raise, step 3. -/
def Dev.raiseVolts (d : Dev) : Dev :=
  let now := max 650 (min 900 (d.rd F.SILT_VID.VID_MV))
  if !d.flag F.SILT_CFG.VID_AUTO || d.throttle ≠ 0 then d.askHost
  else if d.vidCeil ≤ now then d.askHost
  else
    let v := min d.vidCeil (now + 10)
    let d := (d.wr F.SILT_VID.VID_MV v).wr F.SILT_STAT.STEP 2
    let d := if v = d.vidCeil then d.raise 0x21 3 d.leastEngine.1 d.leastEngine.2 else d
    { d with silt := { d.silt with measTb := some (d.time.tb + 100000000) } }

/-- SILT_REPLAN (R242): a re-plan that is due starts: moves first, then the voltage, then the host. -/
def Dev.siltReplan (d : Dev) : Dev :=
  if !d.silt.due || d.silt.replanning then d
  else
    let d := { d with silt := { d.silt with due := false } }
    if !d.isActive || !d.flag F.SILT_CFG.EN then d
    else
      let d := ((d.count 0x48).raise 0x21 2 0 0).wr F.SILT_STAT.STEP 1
      let d := { d with silt := { d.silt with replanning := true } }
      let r := Dev.planMoves (d.rd F.SILT_CFG.MOVE_MAX) d d.engLoads
      let d := r.1
      if d.slackMet r.2 then { d with silt := { d.silt with replanning := false } } else d.raiseVolts

/-- REPLAN: a write of SILT_CTRL.REPLAN starts a re-plan. -/
def Dev.replanNow (d : Dev) : Dev := ({ d with silt := { d.silt with due := true } }).siltReplan

/-- SILT_VOLTAGE_REMEASURE: 100 ms after a raise, reference bursts (ps by engine) are taken and the slack judged again. -/
def Dev.siltRemeasure (d : Dev) (ps : List Nat) : Dev :=
  match d.silt.measTb with
  | none => d
  | some t => d.fire t (fun d =>
    let d := { d with silt := { d.silt with measTb := none } }
    let d := forEach ps.zipIdx (fun (px : Nat × Nat) (d : Dev) => d.refBurst px.2 px.1) d
    let r := d.project
    if r.1.slackMet r.1.engLoads then { r.1 with silt := { r.1.silt with replanning := false } } else r.1.raiseVolts)

/-- SILT_SAVE: the trend goes to Marl at rank 4. -/
def Dev.siltSave (d : Dev) : Dev := d.marlAsk 4 .silt none

/-- The mean of a list, 0 when empty. -/
def meanNat (xs : List Nat) : Nat := xs.sum / xs.length

/-- A week's record of each measured cell (R243). -/
def Dev.driftWeek (d : Dev) (hour : Nat) : Dev :=
  { d with silt := { d.silt with drift := d.silt.drift.map (fun (cd : Nat × Drift) =>
    (cd.1, { cd.2 with recs := cd.2.recs ++ [(hour, cd.2.now)] })) } }

/-- SILT_HOURLY (R240, R242): an operating hour ends: it is counted in Marl, ages and slacks are recorded, the projections made, the heater drift
measured in the next beat, the trend saved each 24 hours, a re-plan started or the voltage lowered. -/
def Dev.siltHourly (d : Dev) : Dev :=
  d.fire (d.silt.hourTb + 3600000000000) (fun d =>
    let hour := d.rd F.SILT_HOURS.HOURS + 1
    let d := d.wr F.SILT_HOURS.HOURS hour
    let d := { d with nv := { d.nv with hours := hour } }
    let recE := d.silt.bursts.map (fun (eb : Nat × List Nat) => (eb.1, ({ hour := hour, age := meanNat eb.2, slack := d.engSlack eb.1 } : SiltRec)))
    let recL := d.silt.linkLeast.map (fun (ts : Nat × Nat) => (64 + ts.1, ({ hour := hour, age := 0, slack := ts.2 } : SiltRec)))
    let hist := (recE ++ recL).foldl (fun m (x : Nat × SiltRec) => AMap.put m x.1 (AMap.get m x.1 [] ++ [x.2])) d.silt.hist
    let d := { d with silt := { d.silt with hourTb := d.time.tb, bursts := [], linkLeast := [], hist := hist, measDue := true } }
    let d := if hour % 168 = 0 then d.driftWeek hour else d
    let d := if hour % 24 = 0 then d.siltSave else d
    let r := d.project
    let d := r.1
    let goal : Int := d.slackTarget * 10
    let low := r.2.any (fun p => decide (p < goal))
    let high := !r.2.isEmpty && r.2.all (fun p => decide (goal + 200 < p))
    let d := { d with silt := { d.silt with due := d.silt.due || low, above := if high then d.silt.above + 1 else 0 } }
    if 24 ≤ d.silt.above && d.flag F.SILT_CFG.EN && d.flag F.SILT_CFG.VID_AUTO && 650 < d.rd F.SILT_VID.VID_MV then
      let v := max 650 (min 900 (d.rd F.SILT_VID.VID_MV) - 10)
      { (d.wr F.SILT_VID.VID_MV v).raise 0x21 10 0 v with silt := { d.silt with above := 0 } }
    else d)

/-! ## Heater drift (R243 - R245) -/

/-- A cell whose drift may be measured: in HOLD, its output not clamped, no neighbour that moves or ramps. -/
def Dev.driftFit (d : Dev) (c : Nat) : Bool :=
  d.cellMode c = Cm.hold && !d.flag (F.LOOP.SAT (cellLoop c)) && !d.movingNear c &&
  !(adjacent c).any (fun x => (match AMap.find d.tilth.led x with
    | some e => decide (e.i < e.len)
    | none => false) || (AMap.find d.silt.ramps x).isSome)

/-- The headroom of a cell in 0.1 % at a projected drift (UQ2.14) (R244). -/
def Dev.headroom (d : Dev) (c dEol : Nat) : Nat :=
  let r := d.calRec c
  let cmax := (r.bar ++ r.cross).foldl max 0
  let code := r.codeOf (r.power cmax * dEol / 16384)
  let span := (toS 16 (d.rd (F.LOOP.U_MAX (cellLoop c))) + 32768).toNat
  if span = 0 then 0 else (max 0 (1000 - divRound ((code * 1000 : Nat) : Int) span)).toNat

/-- D projected to end of life: as R240, never below D now. -/
def Dev.driftEol (d : Dev) (x : Drift) : Nat :=
  let xs := x.recs.map (fun (hr : Nat × Nat) => ((log10Fix (1 + hr.1) : Int), (hr.2 : Int)))
  let span : Int := match xs.head?, xs.getLast? with
    | some a, some b => b.1 - a.1
    | _, _ => 0
  if x.recs.length < 8 || span * 10 < 3 * 2 ^ 20 then x.now
  else match fitAt xs (log10Fix (1 + d.rd F.SILT_EOL.EOL_HOURS)) with
    | some v => max x.now v.toNat
    | none => x.now

/-- Re-centres a cell's PARK_CODE one fringe lower, or sets NO_ROOM (R244, R245). -/
def Dev.recentre (d : Dev) (c : Nat) (x : Drift) : Dev × Drift :=
  let r := d.calRec c
  let park := d.parkCode c
  let p := r.power park
  let less := r.p2pi * x.now / 16384
  if p < less then (d, { x with noRoom := true })
  else
    let m := d.cellMode c
    if m = Cm.cal || m = Cm.warm then (d, { x with waits := true })
    else
      let x := { x with waits := false }
      let code := r.codeOf (p - less)
      let driven := m = Cm.parked || (m = Cm.faulted && d.thCode c = park)
      let d := d.setPark c code
      let d := if driven then
        { d with silt := { d.silt with ramps := AMap.put d.silt.ramps c { start := park, stop := code, i := 0 } } } else d
      (d.bump F.SILT_DRIFT.RECENTRED 1, { x with recentred := true })

/-- A cell's mean code of the beat gives its drift, and its headroom is judged.  The drift against a target of no power is not
stated: a free value. -/
def Dev.driftTake (d : Dev) (c mean : Nat) : Dev :=
  let r := d.calRec c
  let want := r.power (d.targetCode c (d.caux c).cross)
  let v := if want = 0 then d.draw 65536 else (min 65535 (divRound ((r.power mean * 16384 : Nat) : Int) want).toNat, d)
  let d := v.2
  let x : Drift := { AMap.get d.silt.drift c {} with now := v.1 }
  let x := { x with head := min 4095 (d.headroom c (d.driftEol x)) }
  let low := decide (x.head < d.rd F.SILT_CFG.HEADROOM_MIN * 10)
  let put := fun (d : Dev) (x : Drift) => ({ d with silt := { d.silt with drift := AMap.put d.silt.drift c x } } : Dev)
  if !low || x.flagged then put d x
  else
    let x := { x with flagged := true }
    let d := (d.raise 0x21 5 (cellEpa c 0) x.head).bump F.SILT_DRIFT.FLAGGED 1
    if d.flag F.SILT_CFG.EN then
      let r := d.recentre c x
      let d := if r.2.noRoom then r.1.raise 0x21 6 (cellEpa c 0) 0 else r.1
      put d r.2
    else put d x

/-- Re-centrings deferred for WARM and CAL come at the first boundary at which the cell is PARKED, FROZEN or FAULTED (R114). -/
def Dev.recentreWaits (d : Dev) : Dev :=
  forEach (d.silt.drift.filter (fun (cx : Nat × Drift) => cx.2.waits)) (fun (cx : Nat × Drift) (d : Dev) =>
    let m := d.cellMode cx.1
    if m = Cm.parked || m = Cm.frozen || m = Cm.faulted then
      let r := d.recentre cx.1 { cx.2 with waits := false }
      let d := if r.2.noRoom then r.1.raise 0x21 6 (cellEpa cx.1 0) 0 else r.1
      { d with silt := { d.silt with drift := AMap.put d.silt.drift cx.1 r.2 } }
    else d) d

/-- Drift measuring at a pick boundary: cells that no longer qualify drop out, the others add their code; at the end of the
beat each gives its drift, and an hour's measurement that is due begins. -/
def Dev.driftBoundary (d : Dev) (beat : Bool) : Dev :=
  let d := d.recentreWaits
  let d := match d.silt.meas with
    | none => d
    | some ms =>
      let ms := (ms.filter (fun (x : Nat × Nat × Nat) => d.driftFit x.1)).map (fun x => (x.1, x.2.1 + d.thCode x.1, x.2.2 + 1))
      if beat then
        let d := { d with silt := { d.silt with meas := none } }
        forEach ms (fun (x : Nat × Nat × Nat) (d : Dev) => d.driftTake x.1 (x.2.1 / x.2.2)) d
      else { d with silt := { d.silt with meas := some ms } }
  if beat && d.silt.measDue then
    let cells := (d.cal.recs.cells.map (fun (cr : Nat × CalRec) => cr.1)).filter d.driftFit
    { d with silt := { d.silt with measDue := false, meas := some (cells.map (fun c => (c, 0, 0))) } }
  else d

/-- A step of a re-centring ramp (R245): 64 picks, once in a pick; it waits to start beside a moving cell, or while a lit cell it is
beside has another ramp beside it. -/
def Dev.recentreStep (d : Dev) (c : Nat) : Dev :=
  match AMap.find d.silt.ramps c with
  | none => d
  | some r =>
    if !(d.cellMode c = Cm.parked || (d.cellMode c = Cm.faulted && d.thCode c = rampCode r.start r.stop r.i 64)) then { d with silt := { d.silt with ramps := AMap.del d.silt.ramps c } }
    else if r.last = d.pick.num + 1 then d
    else if r.i = 0 && (d.movingNear c || (d.litNear c).any (fun x =>
        (adjacent x).any (fun y => y ≠ c && (match AMap.find d.silt.ramps y with
          | some q => decide (0 < q.i)
          | none => false)))) then d
    else
      let code := rampCode r.start r.stop (r.i + 1) 64
      let d := (d.moveTh c code).sendCode (cellLoop c) code
      let ramps := if r.i + 1 = 64 then AMap.del d.silt.ramps c
        else AMap.put d.silt.ramps c { r with i := r.i + 1, last := d.pick.num + 1 }
      { d with silt := { d.silt with ramps := ramps } }

/-- RAMP_STEP: a warm, undo or re-centring ramp applies its next code (R157, R245). -/
def Dev.rampAny (d : Dev) (c : Nat) : Dev :=
  if (AMap.find d.silt.ramps c).isSome then d.recentreStep c else d.rampStep c

end Sys2Proof.Machine
end

