-- ==== Sys2Proof/Machine/Dac.lean ====
section
/-! DEFINITION. The DAC (chapter 10, R210 - R222): channels, loads, ranges, clear, SHARED channels, over-temperature, sine
generators, TEC loops. -/

namespace Sys2Proof.Machine

/-! ## DAC clock edges -/

/-- The n-th DAC clock edge (a multiple of 20 ns) after an instant. -/
def dacEdge (t n : Nat) : Nat := (t / 20 + n) * 20

/-- The order at one edge: loads, then what takes effect, then what leaves the FIFO, which that edge's loads do not include (R213). -/
def DacAct.rank : DacAct → Nat
  | .load _ | .group _ _ | .start _ | .stop _ => 0
  | .src _ | .cfg _ _ | .param _ _ _ => 1
  | .leave _ _ | .strobe _ => 2

/-- Puts an act at an edge, behind those of its rank. -/
def Dev.dacAt (d : Dev) (e : Nat) (a : DacAct) : Dev :=
  let first := fun (y : Nat × DacAct) => decide (y.1 < e) || (y.1 = e && decide (y.2.rank ≤ a.rank))
  { d with dac := { d.dac with agenda := d.dac.agenda.takeWhile first ++ (e, a) :: d.dac.agenda.dropWhile first } }

/-- A write of a code or a strobe enters the input FIFO; the FIFO's writes leave it in order, one a DAC clock edge (R213). -/
def Dev.dacFifo (d : Dev) (a : DacAct) : Dev :=
  let last := (d.dac.agenda.filterMap (fun (y : Nat × DacAct) => if y.2.rank = 2 then some y.1 else none)).foldl max 0
  d.dacAt (max (dacEdge d.time.tb 1) (last + 20)) a

/-- The clear code of a range (R211). -/
def clearCode (r : Nat) : Nat := if r ≤ 1 then 0 else 0x8000

/-- The load source of a channel's group. -/
def Dev.dacSrc (d : Dev) (c : Nat) : Nat := d.rd (F.DAC_LOAD_CFG.SRC (d.rd (F.DAC_CH_CFG.GROUP c)))

/-- The generator of a channel runs. -/
def Dev.genRuns (d : Dev) (c : Nat) : Bool := decide (32 ≤ c) && (AMap.find d.dac.gens (c - 32)).isSome

/-- Clear is asserted on a channel (R215). -/
def Dev.dacForced (d : Dev) (c : Nat) : Bool :=
  d.flag F.DAC_STAT.CLR_INT || (d.flag F.DAC_STAT.CLR_PIN && d.flag (F.DAC_CH_CFG.CLR_EN c))

/-- A channel's buffer is high-impedance (R219 rank 1). -/
def Dev.dacHiZ (d : Dev) (c : Nat) : Bool :=
  d.held || (d.flag (F.DAC_CH_CFG.SHARED c) && !d.dac.sharedOn) ||
  (d.flag (F.DAC_CH_CFG.OT_POLICY c) && (d.flag (F.DAC_CH_STAT.OT c) || (AMap.find d.dac.redrive c).isSome))

/-- The reset entry i of a sine table: round(32,767 sin(2πi / 1024)), by the series of the sine in units of 2^-64. -/
def sineReset (i : Nat) : Int :=
  let j := i % 512
  let q := if j ≤ 256 then j else 512 - j
  let x : Nat := 113187804032455044 * q
  let s := (x : Int) + sinTerms (x * x / 2 ^ 64) 14 1 x
  let v := (32767 * s + (2 : Int) ^ 63) / (2 : Int) ^ 64
  if i < 512 then v else -v

/-- An entry of generator s's table, as 16 bits. -/
def Dev.sineEntry (d : Dev) (s i : Nat) : Nat := AMap.get d.dac.table (s * 1024 + i) (ofS 16 (sineReset i))

/-- FTW taken: at most 1 MHz. -/
def Dev.sineFtw (d : Dev) (s : Nat) : Nat := min 0x051EB852 (d.rd (F.SINE_FTW.FTW s))

/-- The phase of a running generator at an instant. -/
def Gen.at_ (g : Gen) (tb : Nat) : Nat := (g.phase + g.ftw * ((tb - g.since) / 20)) % 2 ^ 32

/-- 0x8000 + OFFSET + AMP × entry, before saturation (R220). -/
def Dev.sineSum (d : Dev) (s entry : Nat) : Int :=
  0x8000 + d.rdS (F.SINE_AMP.OFFSET s) + sat16 (rsh ((d.rd (F.SINE_AMP.AMP s) : Int) * toS 16 entry) 16)

/-- The generator's code now. -/
def Dev.sineCode (d : Dev) (s : Nat) (g : Gen) : Nat :=
  (clampI 0 65535 (d.sineSum s (d.sineEntry s (g.at_ d.time.tb / 2 ^ 22)))).toNat

/-- What a channel drives: none is high-impedance (R219). -/
def Dev.ballOut (d : Dev) (c : Nat) : Option Nat :=
  if d.dacHiZ c then none
  else if d.dacForced c then
    some (if d.flag (F.DAC_CH_CFG.CLR_SEL c) then d.rd (F.DAC_CLR_CODE.CLR_CODE c) else clearCode (d.rd (F.DAC_CH_CFG.RANGE c)))
  else if d.flag (F.DAC_CH_STAT.RANGING c) then some (clearCode (d.rd (F.DAC_CH_CFG.RANGE c)))
  else match (if 32 ≤ c then AMap.find d.dac.gens (c - 32) else none) with
    | some g => some (d.sineCode (c - 32) g)
    | none => some (d.rd (F.DAC_CODE.ACTIVE c))

/-! ## Loading (R212, R213) -/

/-- Loads one channel when it was written since its last load and is neither RANGING nor driven by its generator. -/
def Dev.dacLoad (d : Dev) (c : Nat) : Dev :=
  if !d.flag (F.DAC_CH_STAT.PEND c) || d.flag (F.DAC_CH_STAT.RANGING c) || d.genRuns c then d
  else (d.wr (F.DAC_CODE.ACTIVE c) (d.rd (F.DAC_CODE.PENDING c))).setFlag (F.DAC_CH_STAT.PEND c) false

/-- A generator that waits starts at its channel's load edge t, at PHASE0 (R220). -/
def Dev.genStart (d : Dev) (s t : Nat) : Dev :=
  if !d.dac.genWait.contains s then d
  else
    let g : Gen := { phase := d.rd (F.SINE_PHASE0.PHASE0 s), since := t, ftw := d.sineFtw s, ending := false }
    let d := { d with dac := { d.dac with gens := AMap.put d.dac.gens s g, genWait := d.dac.genWait.filter (· ≠ s) } }
    let d := d.setFlag (F.SINE_CFG.RUN s) true
    let clips := (List.range 1024).any (fun i => let x := d.sineSum s (d.sineEntry s i); decide (x < 0) || decide (65535 < x))
    if clips then d.raise 0x1F 11 (32 + s) 0 else d

/-- A load of group g at edge t (R212). -/
def Dev.dacGroup (d : Dev) (g t : Nat) : Dev :=
  let cs := (List.range 48).filter (fun c => d.rd (F.DAC_CH_CFG.GROUP c) = g)
  let d := forEach cs (fun c (d : Dev) => d.dacLoad c) d
  let d := forEach cs (fun c (d : Dev) => if 32 ≤ c then d.genStart (c - 32) t else d) d
  d.countQ 0x44 g

/-- Puts a code into PENDING at instant t; an IMMEDIATE channel loads at the first edge after it. -/
def Dev.dacPut (d : Dev) (c v t : Nat) : Dev :=
  let d := (d.wr (F.DAC_CODE.PENDING c) v).setFlag (F.DAC_CH_STAT.PEND c) true
  if d.dacSrc c = 0 then d.dacAt (dacEdge t 1) (.load c) else d

/-- Waiting generators whose group is IMMEDIATE start at the next edge after t. -/
def Dev.gensWake (d : Dev) (t : Nat) : Dev :=
  forEach d.dac.genWait (fun s (d : Dev) => if d.dacSrc (32 + s) = 0 then d.dacAt (dacEdge t 1) (.start s) else d) d

/-- A new range takes effect at instant t: codes at its clear code, RANGING (R214). -/
def Dev.dacSetRange (d : Dev) (c r t : Nat) : Dev :=
  if d.rd (F.DAC_CH_CFG.RANGE c) = r then d
  else
    let k := clearCode r
    let d := (((d.wr (F.DAC_CH_CFG.RANGE c) r).wr (F.DAC_CODE.PENDING c) k).wr (F.DAC_CODE.ACTIVE c) k)
    let d := (d.setFlag (F.DAC_CH_STAT.PEND c) false).setFlag (F.DAC_CH_STAT.RANGING c) true
    { d with dac := { d.dac with ranging := AMap.put d.dac.ranging c (t + 20000) } }

/-- The generator stops: ACTIVE takes 0x8000 + OFFSET. -/
def Dev.genStop (d : Dev) (s : Nat) : Dev :=
  let d := { d with dac := { d.dac with gens := AMap.del d.dac.gens s } }
  (d.wr (F.DAC_CODE.ACTIVE (32 + s)) (clampI 0 65535 (0x8000 + d.rdS (F.SINE_AMP.OFFSET s))).toNat).setFlag (F.SINE_CFG.RUN s) false

/-- FTW (reg 0), AMP and OFFSET as a word (reg 1) or PHASE0 (reg 2) of a generator. -/
def Dev.sinePut (d : Dev) (s reg v : Nat) : Dev :=
  if reg = 0 then d.wr (F.SINE_FTW.FTW s) v
  else if reg = 1 then (d.wr (F.SINE_AMP.AMP s) (v % 65536)).wr (F.SINE_AMP.OFFSET s) (v / 65536)
  else d.wr (F.SINE_PHASE0.PHASE0 s) v

/-- A parameter of a running generator takes effect at edge t, its phase continuous (R220). -/
def Dev.sineTake (d : Dev) (s reg v t : Nat) : Dev :=
  let d := d.sinePut s reg v
  match AMap.find d.dac.gens s with
  | none => d
  | some g =>
    let g : Gen := { g with phase := g.at_ t, since := t, ftw := d.sineFtw s }
    let d := { d with dac := { d.dac with gens := AMap.put d.dac.gens s g } }
    if g.ending && g.ftw = 0 then d.genStop s else d

/-- One act at edge t. -/
def Dev.dacDo (d : Dev) (t : Nat) : DacAct → Dev
  | .load c => d.dacLoad c
  | .group g pin => let d := d.dacGroup g t; if pin then d.bump F.DAC_STAT.PIN_LOADS 1 else d
  | .start s => if d.dacSrc (32 + s) = 0 then d.genStart s t else d
  | .stop s => if (AMap.find d.dac.gens s).any (fun (g : Gen) => g.ending && g.ftw = 0) then d.genStop s else d
  | .src v => (forEach [0, 1, 2, 3] (fun g (d : Dev) => d.wr (F.DAC_LOAD_CFG.SRC g) (v / 16 ^ g % 4)) d).gensWake t
  | .cfg c v => ((d.dacSetRange c (bits v 1 0) t).wr (F.DAC_CH_CFG.GROUP c) (bits v 5 4)).gensWake t
  | .param s reg v => d.sineTake s reg v t
  | .leave c v => d.dacPut c v t
  | .strobe mask => forEach (bitsSet mask 4) (fun g (d : Dev) =>
      if d.rd (F.DAC_LOAD_CFG.SRC g) = 1 then d.dacAt (dacEdge t 1) (.group g false) else d.raise 0x1F 10 g 1) d

/-- At most n acts whose edge has come by t. -/
def Dev.dacRun (t : Nat) : Nat → Dev → Dev
  | 0, d => d
  | n + 1, d =>
    match d.dac.agenda with
    | [] => d
    | (e, a) :: rest =>
      if e ≤ t then Dev.dacRun t n (({ d with dac := { d.dac with agenda := rest } } : Dev).dacDo e a) else d

/-- The DAC clock has run up to instant t.  An act places at most 16 others, at a later edge. -/
def Dev.dacUpTo (d : Dev) (t : Nat) : Dev := Dev.dacRun t (17 * d.dac.agenda.length) d

/-- The DAC as the clock has left it by now. -/
def Dev.dacNow (d : Dev) : Dev := d.dacUpTo d.time.tb

/-- What reaches the ball of a channel now: none is high-impedance (R219). -/
def Dev.dacOut (d : Dev) (c : Nat) : Option Nat := d.dacNow.ballOut c

/-- The refusal of a host write of a channel's code (R210, R217). -/
def Dev.dacOwned (d : Dev) (c : Nat) : Nat :=
  let t := c % 16
  if d.flag (F.DAC_CH_CFG.SHARED c) && !d.isActive then St.roleStandby
  else if c < 16 then if d.flag (F.TEC_CFG.TEC_EN t) then St.fieldOwned else St.ok
  else if c < 32 then if d.tileMode t = Tm.active || d.tileMode t = Tm.holdover then St.modeRefused else St.ok
  else if d.genRuns c then St.fieldOwned else St.ok

/-- DAC_CODE_WRITE: the write enters the input FIFO, from which it goes into PENDING, or is refused. -/
def Dev.dacCode (d : Dev) (c v : Nat) : Dev × Nat :=
  if 48 ≤ c then (d, St.addrInvalid)
  else
    let st := d.dacOwned c
    if st ≠ St.ok then (d, st) else (d.dacFifo (.leave c v), St.ok)

/-- DAC_STROBE: a strobe enters the input FIFO; the SOFT groups it names load at the first edge after it leaves, a strobe of another group is
ignored. -/
def Dev.dacStrobe (d : Dev) (mask : Nat) : Dev := d.dacFifo (.strobe mask)

/-- DAC_LOAD_PIN: a level of DAC_LOAD<g>; a rising edge loads a PIN group on the third DAC clock edge. -/
def Dev.dacPin (d : Dev) (g : Nat) (high : Bool) : Dev :=
  if 4 ≤ g then d
  else
    let d := d.dacNow
    let lvl := d.rd F.DAC_STAT.LOAD_LVL
    let was := bit lvl g
    let d := (d.wr F.DAC_STAT.LOAD_LVL (putBit lvl g high)).signal (12 + g) high
    if was || !high || d.rd (F.DAC_LOAD_CFG.SRC g) ≠ 2 then d else d.dacAt (dacEdge d.time.tb 3) (.group g true)

/-- The loads of PICK groups at a pick boundary, before anything that leaves the FIFO at that edge (R213). -/
def Dev.dacBoundary (d : Dev) : Dev :=
  (forEach [0, 1, 2, 3] (fun g (d : Dev) => if d.rd (F.DAC_LOAD_CFG.SRC g) = 3 then d.dacGroup g d.time.tb else d) d).dacNow

/-! ## Ranges, clear, SHARED channels, over-temperature (R214 - R218) -/

/-- The refusal of a write of RANGE (R214, R217). -/
def Dev.rangeOwned (d : Dev) (c r : Nat) : Nat :=
  if d.flag (F.DAC_CH_CFG.SHARED c) && !d.isActive then St.roleStandby
  else if d.rd (F.DAC_CH_CFG.RANGE c) = r then St.ok
  else if (c < 16 && d.flag (F.TEC_CFG.TEC_EN c)) || d.genRuns c then St.fieldOwned
  else St.ok

/-- RANGING_END: at most 20 µs after it began; an IMMEDIATE group loads what was written meanwhile. -/
def Dev.rangingEnd (d : Dev) (c : Nat) : Dev :=
  let d := d.dacNow
  match AMap.find d.dac.ranging c with
  | none => d
  | some _ =>
    let d := { d.setFlag (F.DAC_CH_STAT.RANGING c) false with dac := { d.dac with ranging := AMap.del d.dac.ranging c } }
    if d.dacSrc c = 0 then d.dacLoad c else d

/-- Channels whose RANGING has lasted its 20 µs at a pick boundary end it there. -/
def Dev.rangingBoundary (d : Dev) : Dev :=
  forEach (d.dac.ranging.filter (fun (ct : Nat × Nat) => decide (ct.2 ≤ d.time.tb))) (fun (ct : Nat × Nat) (d : Dev) => d.rangingEnd ct.1) d

/-- DAC_CLR_N: the pin is asserted (held low for 2 clocks) or released. -/
def Dev.dacClrN (d : Dev) (low : Bool) : Dev :=
  let was := d.flag F.DAC_STAT.CLR_PIN
  let d := (d.setFlag F.DAC_STAT.CLR_PIN low).signal 17 (!low)
  if low && !was then d.raise 0x1F 4 0 1 else d

/-- DAC_BUFFER_OT: a buffer's temperature flag sets or clears (R218). -/
def Dev.dacOt (d : Dev) (c : Nat) (hot : Bool) : Dev :=
  if 48 ≤ c then d
  else
    let was := d.flag (F.DAC_CH_STAT.OT c)
    let d := d.setFlag (F.DAC_CH_STAT.OT c) hot
    let d := if c < 32 then d.wr F.DAC_OT_LO.OT (putBit (d.rd F.DAC_OT_LO.OT) c hot)
      else d.wr F.DAC_OT_HI.OT (putBit (d.rd F.DAC_OT_HI.OT) (c - 32) hot)
    let d := if hot && !was then
        (((d.setFlag (F.DAC_CH_STAT.OT_STICKY c) true).bump (F.DAC_CH_STAT.OT_CNT c) 1).raise 0x1F 0 c 0) else d
    if hot then { d with dac := { d.dac with redrive := AMap.del d.dac.redrive c } }
    else if was then { d with dac := { d.dac with redrive := AMap.put d.dac.redrive c (d.time.tb + 1000000) } } else d

/-- OT_REDRIVE: 1 ms after the flag cleared a buffer with OT_POLICY = 1 drives again. -/
def Dev.otRedrive (d : Dev) (c : Nat) : Dev :=
  match AMap.find d.dac.redrive c with
  | none => d
  | some t => d.fire t (fun d => { d with dac := { d.dac with redrive := AMap.del d.dac.redrive c } })

/-- The unit enters ACTIVE: SHARED channels take the mirrored code, or their clear code (R217). -/
def Dev.dacEnter (d : Dev) : Dev :=
  let d := forEach (List.range 48) (fun c (d : Dev) =>
    if d.flag (F.DAC_CH_CFG.SHARED c) then
      d.wr (F.DAC_CODE.ACTIVE c) (AMap.get d.dac.mirrored c (clearCode (d.rd (F.DAC_CH_CFG.RANGE c)))) else d) d
  { d with dac := { d.dac with entered := some d.pick.num, sharedOn := false } }

/-- The unit leaves ACTIVE and HANDING: SHARED channels go high-impedance (R217). -/
def Dev.dacLeave (d : Dev) : Dev := { d with dac := { d.dac with entered := none, sharedOn := false } }

/-- SHARED_DRIVE_START: from the 8th pick boundary after entry to ACTIVE the SHARED channels drive. -/
def Dev.sharedStart (d : Dev) : Dev :=
  match d.dac.entered with
  | some p => if d.controls && p + 8 ≤ d.pick.num then { d with dac := { d.dac with sharedOn := true } } else d
  | none => d

/-! ## Sine generators (R220) -/

/-- SINE_ENABLE: EN 0 → 1; the generator starts, or starts again, at the channel's next load edge. -/
def Dev.sineEnable (d : Dev) (s : Nat) : Dev :=
  if 16 ≤ s || d.flag (F.SINE_CFG.EN s) then d
  else
    let d := d.dacNow.setFlag (F.SINE_CFG.EN s) true
    let d := { d with dac := { d.dac with genWait := d.dac.genWait ++ [s] } }
    if d.dacSrc (32 + s) = 0 then d.dacAt (dacEdge d.time.tb 1) (.start s) else d

/-- SINE_DISABLE: EN 1 → 0; the generator runs until its phase next wraps; with FTW = 0 it stops at the next edge. -/
def Dev.sineDisable (d : Dev) (s : Nat) : Dev :=
  if 16 ≤ s || !d.flag (F.SINE_CFG.EN s) then d
  else
    let d := d.dacNow.setFlag (F.SINE_CFG.EN s) false
    let d := { d with dac := { d.dac with genWait := d.dac.genWait.filter (· ≠ s) } }
    match AMap.find d.dac.gens s with
    | none => d
    | some g =>
      let t := d.time.tb / 20 * 20
      let d := { d with dac := { d.dac with gens := AMap.put d.dac.gens s ({ g with phase := g.at_ t, since := t, ending := true } : Gen) } }
      if g.ftw = 0 then d.dacAt (dacEdge t 1) (.stop s) else d

/-- SINE_STOP: the phase wraps through zero after disable. -/
def Dev.sineStop (d : Dev) (s : Nat) : Dev :=
  let d := d.dacNow
  match AMap.find d.dac.gens s with
  | none => d
  | some g =>
    if !g.ending || g.ftw = 0 then d
    else d.fire (g.since + 20 * ((2 ^ 32 - g.phase + g.ftw - 1) / g.ftw)) (fun d => d.genStop s)

/-- SINE_PARAM_WRITE: FTW (reg 0), AMP and OFFSET as a word (reg 1) or PHASE0 (reg 2); a running generator takes them at the next DAC clock
edge. -/
def Dev.sineParam (d : Dev) (s reg v : Nat) : Dev :=
  if 16 ≤ s then d
  else
    let d := d.dacNow
    if (AMap.find d.dac.gens s).isSome then d.dacAt (dacEdge d.time.tb 1) (.param s reg v) else d.sinePut s reg v

/-- SINE_TABLE_WRITE: word i of generator s's table holds entries 2i and 2i + 1; refused while the generator runs. -/
def Dev.sineTable (d : Dev) (s i v : Nat) : Dev × Nat :=
  if 16 ≤ s || 512 ≤ i then (d, St.addrInvalid)
  else if (AMap.find d.dac.gens s).isSome then (d, St.fieldOwned)
  else
    let put := fun (m : List (Nat × Nat)) (k x : Nat) => AMap.set m (s * 1024 + k) x (ofS 16 (sineReset k))
    ({ d with dac := { d.dac with table := put (put d.dac.table (2 * i) (v % 65536)) (2 * i + 1) (v / 65536 % 65536) } }, St.ok)

/-! ## TEC loops (R221, R222) -/

/-- What a TEC loop keeps. -/
def Dev.tecAux (d : Dev) (t : Nat) : TecAux := AMap.get d.dac.tec t {}

def Dev.updTec (d : Dev) (t : Nat) (f : TecAux → TecAux) : Dev :=
  { d with dac := { d.dac with tec := AMap.put d.dac.tec t (f (d.tecAux t)) } }

/-- The loop holds its code and integrator. -/
def Dev.tecHold (d : Dev) (t : Nat) : Dev :=
  let was := d.flag (F.TEC_STAT.HELD t)
  let d := (d.setFlag (F.TEC_STAT.HELD t) true).bump (F.TEC_STAT.HOLD_CNT t) 1
  if was then d else d.raise 0x1F 1 t (ofS 32 (d.rdS (F.TILE_TEMP.TEMP t)))

/-- One step of the TEC loop of tile t at temperature T (R221). -/
def Dev.tecStep (d : Dev) (t : Nat) (temp : Int) : Dev :=
  if !d.flag (F.TEC_CFG.TEC_EN t) then d
  else if d.dacForced t || d.flag (F.DAC_CH_STAT.OT t) then d.tecHold t
  else
    let a := d.tecAux t
    let e0 := sat16 ((d.rdS (F.TEC_SET.TEC_SET t) - temp) * 16)
    let e := if d.flag (F.TEC_CFG.TEC_POL t) then sat16 (-e0) else e0
    let p := align30 ((d.rdS (F.TEC_GAIN.KP_T t)) * e) 27
    let hold := a.sat && decide (e.sign = a.uLast.sign)
    let integ0 := d.rdS (F.TEC_INTEG.TEC_INTEG t)
    let integ := if hold then integ0 else sat32 (integ0 + align30 ((d.rd (F.TEC_GAIN.KI_T t) : Int) * e) 31)
    let lo := d.rdS (F.TEC_LIM.U_MIN t)
    let hi := d.rdS (F.TEC_LIM.U_MAX t)
    let u := clampI lo hi (q15 (sat32 (p + integ)))
    let sat := decide (u = lo) || decide (u = hi)
    let d := d.wr (F.TEC_INTEG.TEC_INTEG t) (ofS 32 integ)
    let d := d.updTec t (fun x => { x with uLast := u, sat := sat })
    let d := if sat && !a.sat then d.raise 0x1F 3 t (ofS 32 temp) else d
    let d := (((d.wr (F.TEC_STAT.TEMP t) (ofS 16 temp)).setFlag (F.TEC_STAT.HELD t) false).setFlag (F.TEC_STAT.SAT t) sat).setFlag
      (F.TEC_STAT.SAFE t) false
    d.dacNow.dacPut t (u + 32768).toNat d.time.tb

/-- T of a tile is valid (R222). -/
def Dev.tecValid (d : Dev) (t : Nat) : Bool :=
  d.flag (F.TILE_TEMP.VALID t) && d.tileMode t ≠ Tm.holdover && d.tileMode t ≠ Tm.offline

/-- A pick in which T is not valid holds the loop. -/
def Dev.tecPick (d : Dev) : Dev :=
  forEach (List.range 16) (fun t (d : Dev) =>
    if !d.flag (F.TEC_CFG.TEC_EN t) then d
    else if d.tecValid t then d.updTec t (fun x => { x with invalid := none })
    else (d.tecHold t).updTec t (fun x => { x with invalid := some (x.invalid.getD d.time.tb) })) d

/-- TEC_SAFE: T has not been valid for HOLD_MS, so TEC_SAFE is written to PENDING once. -/
def Dev.tecSafe (d : Dev) (t : Nat) : Dev :=
  if 16 ≤ t || !d.flag (F.TEC_CFG.TEC_EN t) || d.flag (F.TEC_STAT.SAFE t) then d
  else match (d.tecAux t).invalid with
    | none => d
    | some s => d.fire (s + 1000000 * max 1 (d.rd (F.TEC_CFG.HOLD_MS t))) (fun d =>
        ((d.setFlag (F.TEC_STAT.SAFE t) true).raise 0x1F 2 t (ofS 32 (d.rdS (F.TILE_TEMP.TEMP t)))).dacNow.dacPut t (d.rd (F.TEC_CFG.TEC_SAFE t)) d.time.tb)

/-- TEC_EN: the loop starts from TEC_INTEG with no step of its own, or stops (R222). -/
def Dev.tecEnPut (d : Dev) (t : Nat) (on : Bool) : Dev :=
  let was := d.flag (F.TEC_CFG.TEC_EN t)
  let d := d.setFlag (F.TEC_CFG.TEC_EN t) on
  -- TEC_SAFE is in force only while the loop runs
  let d := if on = was then d else d.setFlag (F.TEC_STAT.SAFE t) false
  if on && !was then d.updTec t (fun _ => {}) else d

end Sys2Proof.Machine
end

