-- ==== Sys2Proof/Machine/Sieve.lean ====
section
/-! DEFINITION. Sieve A and Sieve B (chapter 09, R191 - R207): words, scan, injections, calibration, background correction, and
the plausibility checker. -/

namespace Sys2Proof.Machine

/-! ## Converters -/

/-- A converter (0 Sieve A, 1 Sieve B). -/
def Dev.conv (d : Dev) (k : Nat) : Conv := AMap.get d.sieve.conv k {}

def Dev.updConv (d : Dev) (k : Nat) (f : Conv → Conv) : Dev :=
  { d with sieve := { d.sieve with conv := AMap.put d.sieve.conv k (f (d.conv k)) } }

/-- The word grid of a setting, ns: R × 25 with R = 16 << DECIM, 7 taken as 6 (R194). -/
def SvCfg.grid (c : SvCfg) : Nat := 400 * 2 ^ min 6 c.decim

/-- The first instant of a grid at or after another. -/
def gridAt (grid t : Nat) : Nat := (t + grid - 1) / grid * grid

/-- Entry n of the scan list. -/
def Dev.scanCfg (d : Dev) (k n : Nat) : SvCfg :=
  { input := d.rd (F.SV_SCAN.INPUT k n), gain := d.rd (F.SV_SCAN.GAIN k n), order := d.rd (F.SV_SCAN.ORDER k n)
    decim := d.rd (F.SV_SCAN.DECIM k n), notch := d.rd (F.SV_SCAN.NOTCH k n) }

/-- SV_SCAN_LEN, above 16 taken as 16. -/
def Dev.scanLen (d : Dev) (k : Nat) : Nat := min 16 (d.rd (F.SV_SCAN_LEN.LEN k))

/-- Publishes SV_STAT. -/
def Dev.svStat (d : Dev) (k : Nat) : Dev :=
  let c := d.conv k
  ((d.wr (F.SV_STAT.SCAN_IDX k) c.idx).setFlag (F.SV_STAT.SETTLING k)
    (match c.inj with
      | some (_, left) => decide (1 < left)
      | none => c.cfg.isSome && decide (0 < c.settle))).wr (F.SV_STAT.INJ_PEND k) c.queue.length

/-- Entry n begins at a word boundary, on its own grid (R194): it settles and its filter restarts when its setting differs from the one
before, or when `fresh`. -/
def Dev.scanEnter (d : Dev) (k n b : Nat) (fresh : Bool) : Dev :=
  let g := d.scanCfg k n
  d.updConv k (fun c =>
    let c := { c with idx := n, cnt := 0, at_ := gridAt g.grid b, touched := false, restart := false }
    if fresh || c.cfg ≠ some g then { c with cfg := some g, settle := g.order + 2, hist := [] } else c)

/-- The scan starts with entry 0 at the first boundary of its own grid from `b` on (R198). -/
def Dev.scanStart (d : Dev) (k b : Nat) : Dev :=
  ((d.updConv k (fun c => { c with run := true, len := d.scanLen k })).scanEnter k 0 b true).svStat k

/-- What the scan does at a word boundary b at which it runs (R197, R198, R201 ranks 3 and 4): RUN, the length and a write of the
entry's own setting take effect; an entry that has delivered its valid words gives way to the next. -/
def Dev.scanBoundary (d : Dev) (k b : Nat) : Dev :=
  let c := d.conv k
  let len := d.scanLen k
  if !d.flag (F.SV_CTRL.RUN k) || len = 0 then
    (d.updConv k (fun c => { c with run := false, cfg := none, idx := 0, touched := false, restart := false })).svStat k
  else
    let d := d.updConv k (fun c => { c with len := len })
    let dwell := d.rd (F.SV_DWELL.DWELL k c.idx)
    let d :=
      if c.restart then d.scanEnter k 0 b true
      else if len ≤ c.idx then d.scanEnter k 0 b false
      else if c.touched then d.scanEnter k c.idx b true
      else if dwell ≠ 0 && dwell ≤ c.cnt then d.scanEnter k ((c.idx + 1) % len) b false
      else d.updConv k (fun c => { c with at_ := b })
    d.svStat k

/-- The scan resumes at boundary b after an injection or a calibration: the interrupted entry settles again and keeps its
count (R199); a scan that was not running starts when RUN asks for it. -/
def Dev.scanResume (d : Dev) (k b : Nat) : Dev :=
  match (d.conv k).cfg with
  | some g =>
    let at_ := gridAt g.grid b
    (d.updConv k (fun c => { c with settle := g.order + 2, hist := [], at_ := at_ })).scanBoundary k at_
  | none => if d.flag (F.SV_CTRL.RUN k) && 0 < d.scanLen k then d.scanStart k b else d.svStat k

/-- The calibration of a converter starts at the first multiple of 25.6 µs from `b` on once the injections it waits for are done (R200). -/
def Dev.calArm (d : Dev) (k b : Nat) : Dev :=
  let c := d.conv k
  if c.calWait = some 0 && c.calAt.isNone then
    d.updConv k (fun c => { c with calAt := some (gridAt 25600 b) })
  else d

/-- The converter is in its calibration at an instant. -/
def Conv.inCal (c : Conv) (t : Nat) : Bool := c.calAt.any (fun s => decide (s ≤ t))

/-- The setting whose words the converter makes now: that of an injection, or of the scan. -/
def Conv.now (c : Conv) : Option SvCfg :=
  match c.inj with
  | some (i, _) => some i.cfg
  | none => if c.run then c.cfg else none

/-- An output word (R195). -/
def svWord (data : Int) (input : Nat) (valid inj ovr : Bool) (seq : Nat) : Nat :=
  ofS 16 (sat16 data) + input * 2 ^ 16 + (if valid then 2 ^ 21 else 0) + (if inj then 2 ^ 22 else 0) +
  (if ovr then 2 ^ 23 else 0) + seq % 256 * 2 ^ 24

/-- Writes a word and the end of its window to the output ring (R202): when the writer reaches RING_RD the oldest entry is lost. -/
def Dev.ringPut (d : Dev) (k word end_ : Nat) : Dev :=
  let w := d.rd (F.SV_RING.RING_WR k)
  let d := d.updConv k (fun c => { c with ring := AMap.put c.ring w (word, end_ % 2 ^ 32) })
  let w := (w + 1) % 1024
  let d := d.wr (F.SV_RING.RING_WR k) w
  if w = d.rd (F.SV_RING.RING_RD k) then
    ((d.wr (F.SV_RING.RING_RD k) ((w + 1) % 1024)).setFlag (F.SV_RING.OVERRUN k) true).raise (0x1D + k) 2 (bits word 20 16) (word % 65536)
  else d

/-! ## The filter (R194) -/

/-- Sums of n consecutive samples, newest first; before its restart the filter has seen nothing. -/
def boxSums (n : Nat) : List Int → List Int
  | [] => []
  | x :: xs => ((x :: xs).take n).foldl (fun a v => a + v) 0 :: boxSums n xs

/-- m stages of a sinc filter of R samples. -/
def sincSums (r : Nat) : Nat → List Int → List Int
  | 0, xs => xs
  | m + 1, xs => sincSums r m (boxSums r xs)

/-- The samples of one word: R = 16 << DECIM (R194). -/
def SvCfg.decimation (c : SvCfg) : Nat := c.grid / 25

/-- The length of the notch: NOTCH + 1, above R taken as R. -/
def SvCfg.notchLen (c : SvCfg) : Nat := min (c.notch + 1) c.decimation

/-- The code of the word that ends with the newest sample: the mean of the last L samples, through ORDER + 1 sinc stages, over FS.
A sample counts in units of VREF × 2^−31. -/
def SvCfg.code (c : SvCfg) (samples : List Int) : Int :=
  let r := c.decimation
  divRound ((sincSums r (c.order + 1) (boxSums c.notchLen samples)).headD 0 * 2 ^ (15 + c.gain))
    (2 ^ 31 * c.notchLen * r ^ (c.order + 1))

/-- A sample reaches ±FS (R195). -/
def SvCfg.full (c : SvCfg) (v : Int) : Bool := decide (2 ^ 31 ≤ v.natAbs * 2 ^ c.gain)

/-- The samples that a word can still see once it and the one before it have been made: ORDER + 2 words of them. -/
def SvCfg.keeps (c : SvCfg) : Nat := (c.order + 2) * c.decimation

/-! ## Injections (R199) -/

/-- A refused injection request: counted and reported (R199). -/
def Dev.injDropped (d : Dev) (k input : Nat) : Dev := (d.bump (F.SV_STAT.INJ_DROP k) 1).raise (0x1D + k) 5 input 0

/-- Queues an injection on converter k, and on the other one when PAIRED; refused when a queue is full. -/
def Dev.inject (d : Dev) (k : Nat) (i : Inj) : Dev × Bool :=
  let ks := if i.paired then [0, 1] else [k]
  if ks.any (fun k => decide (4 ≤ (d.conv k).queue.length)) then
    (d.injDropped k i.cfg.input, false)
  else
    (forEach ks (fun j (d : Dev) => (d.updConv j (fun c => { c with
      queue := c.queue ++ [{ i with host := i.host && j = k }] })).svStat j) d, true)

/-- INJECT_GO: a write of SV_INJ; with GO it queues the request, or is refused and writes nothing
(R199, R209). -/
def Dev.injectGo (d : Dev) (k v : Nat) : Dev × Nat :=
  if 2 ≤ k then (d, St.addrInvalid)
  else if 30 ≤ v % 32 then (d, St.valueInvalid)
  else
    let i : Inj := { cfg := { input := v % 32, gain := bits v 6 5, order := bits v 9 8, decim := bits v 14 12, notch := bits v 25 16 }
                     paired := bit v 30, host := true, chk := false }
    let put := fun (d : Dev) =>
      ((((((d.wr (F.SV_INJ.INPUT k) i.cfg.input).wr (F.SV_INJ.GAIN k) i.cfg.gain).wr (F.SV_INJ.ORDER k) i.cfg.order).wr
        (F.SV_INJ.DECIM k) i.cfg.decim).wr (F.SV_INJ.NOTCH k) i.cfg.notch)).setFlag (F.SV_INJ.PAIRED k) i.paired
    -- GO has no effect while it reads 1 (R8)
    if !bit v 31 || d.flag (F.SV_INJ.GO k) then (put d, St.ok)
    else
      let r := d.inject k i
      if r.2 then ((put r.1).setFlag (F.SV_INJ.GO k) true, St.ok) else (r.1, St.busy)

/-- Whether injections of converter k may start: none runs, no calibration runs or waits with its queued injections done. -/
def Conv.injFree (c : Conv) (t : Nat) : Bool := c.inj.isNone && !c.inCal t && c.calWait ≠ some 0

/-- The word boundary at which converter k could start an injection now: the one it stands at, or the next of the injection's
own grid when no scan runs; none inside a word. -/
def Dev.injBoundary (d : Dev) (k grid : Nat) : Option Nat :=
  let c := d.conv k
  if c.run && c.cfg.isSome then if d.time.tb ≤ c.at_ then some c.at_ else none
  else some (gridAt grid d.time.tb)

/-- Takes the head injection of converter k from its queue and begins it at boundary b, on its own grid. -/
def Dev.injBegin (d : Dev) (k b : Nat) : Dev :=
  match (d.conv k).queue with
  | [] => d
  | i :: rest =>
    ((d.updConv k (fun c => { c with queue := rest, inj := some (i, i.cfg.order + 3), hist := [], at_ := gridAt i.cfg.grid b })).countQ
      0x42 k).svStat k

/-- The head injection of converter k is PAIRED and heads both queues, and both converters are free for it. -/
def Dev.pairHeads (d : Dev) (k t : Nat) : Bool :=
  match (d.conv k).queue, (d.conv (1 - k)).queue with
  | i :: _, j :: _ => i.paired && j.paired && j.cfg = i.cfg && (d.conv k).injFree t && (d.conv (1 - k)).injFree t
  | _, _ => false

/-- A converter stands at boundary b: its last word ended there, or it makes no words. -/
def Conv.standsAt (c : Conv) (b : Nat) : Bool := c.at_ = b || !(c.run && c.cfg.isSome)

/-- INJECTION_START: the head injection suspends the scan at a word boundary; a PAIRED one begins on both converters at a
multiple of 25.6 µs once it heads both queues. -/
def Dev.injectionStart (d : Dev) (k : Nat) : Dev :=
  let c := d.conv k
  match c.queue with
  | [] => d
  | i :: _ =>
    if !c.injFree d.time.tb then d
    else if !i.paired then
      match d.injBoundary k i.cfg.grid with
      | some b => d.injBegin k b
      | none => d
    else if !d.pairHeads k d.time.tb then d
    else match d.injBoundary k 25600, d.injBoundary (1 - k) 25600 with
      | some a, some b =>
        let m := max a b
        if m % 25600 = 0 && c.standsAt m && (d.conv (1 - k)).standsAt m then (d.injBegin k m).injBegin (1 - k) m else d
      | _, _ => d

/-- What acts on converter k at word boundary b, in the order of R201: a calibration whose injections are done, the head injection, then
`scan`: what is written to the scan and its move.  Before a PAIRED injection the first converter at the boundary stands there until the
other one ends its word. -/
def Dev.wordTurn (d : Dev) (k b : Nat) (scan : Dev → Dev) : Dev :=
  let stand := (d.updConv k (fun c => { c with at_ := b })).svStat k
  let c := d.conv k
  if c.calAt.any (fun t => decide (t ≤ b)) then stand
  else match c.queue with
    | [] => scan d
    | i :: _ =>
      if !c.injFree b then scan d
      else if !i.paired then d.injBegin k b
      else if b % 25600 ≠ 0 || !d.pairHeads k b then scan d
      else
        let o := d.conv (1 - k)
        if o.standsAt b then (d.injBegin k b).injBegin (1 - k) b
        else if o.at_ < b then stand
        else scan d

/-! ## Foreground calibration, background correction (R193, R200) -/

/-- CAL: a write of SV_CTRL.CAL starts a foreground calibration once the injections now queued are complete. -/
def Dev.svCal (d : Dev) (k : Nat) : Dev :=
  if 2 ≤ k || d.flag (F.SV_CTRL.CAL k) then d
  else
    let d := d.setFlag (F.SV_CTRL.CAL k) true
    (d.updConv k (fun c => { c with calWait := some (c.queue.length + (if c.inj.isSome then 1 else 0)) })).calArm k (d.time.tb + 1)

/-- What the averages of ZERO and REF give, as uncorrected codes in 1/16 LSB: new corrections, or the previous ones are kept when
they are out of range (R200). -/
def Dev.svCalTake (d : Dev) (k : Nat) (zero ref : Int) : Dev :=
  let span := ref - zero
  let gain : Int := if span ≤ 0 then 2 ^ 20 else divRound (24576 * 16 * 2 ^ 20) span.toNat - 2 ^ 20
  let ok := decide (zero.natAbs ≤ 256 * 16) && decide ((span - 24576 * 16).natAbs * 100 ≤ 2 * (24576 * 16))
  if ok then ((d.wr (F.SV_CAL.OFFSET_CORR k) (satS 16 (-zero))).wr (F.SV_CAL.GAIN_CORR k) (satS 16 gain)).wr (F.SV_STAT.CAL_RESULT k) 1
  else (d.wr (F.SV_STAT.CAL_RESULT k) 2).raise (0x1D + k) 0 (if 256 * 16 < zero.natAbs then 28 else 29)
    (ofS 32 (divRound (if 256 * 16 < zero.natAbs then zero else ref) 16))

/-- SIEVE_CAL_DONE: the foreground calibration ends; injections that waited for it run, then the scan resumes. -/
def Dev.svCalDone (d : Dev) (k : Nat) (zero ref : Int) : Dev :=
  match (d.conv k).calAt with
  | none => d
  | some t => d.fire (t + 236800) (fun d =>
    let d := (d.setFlag (F.SV_CTRL.CAL k) false).svCalTake k zero ref
    let d := d.updConv k (fun c => { c with calWait := none, calAt := none, spoilt := true })
    d.wordTurn k (t + 236800) (fun d => d.scanResume k (t + 236800)))

/-- Limits of the trims: offsets, gains, delays. -/
def trimLimit (i : Nat) : Int := if i < 4 then 1024 else if i < 8 then 655 else 400

/-- SIEVE_BG_INTERVAL: an interval of 2^18 samples per slice ends with its estimates (four offsets, four gains, four delays) and
the input's RMS; each trim moves by at most one step against its estimate. -/
def Dev.svBackground (d : Dev) (k : Nat) (est : List Int) (rms : Nat) : Dev :=
  if 2 ≤ k then d
  else d.fire ((d.conv k).bgAt + 26214400) (fun d =>
    let c := d.conv k
    let cal := c.inCal d.time.tb
    let d := d.updConv k (fun c => { c with bgAt := c.bgAt + 26214400, spoilt := cal })
    if !d.flag (F.SV_CTRL.BG_EN k) then d
    else
      let bad := rms < d.rd (F.SV_BG.BG_MIN k) || c.spoilt || cal
      let new := (List.range 12).map (fun i =>
        if bad then c.trims.getD i 0 else clampI (-(trimLimit i)) (trimLimit i) (c.trims.getD i 0 - (est.getD i 0).sign))
      let moved := (List.range 12).filter (fun i => decide (new.getD i 0 ≠ c.trims.getD i 0))
      let hist := keepLast 8 (c.moved ++ [moved])
      let conv := hist.length = 8 && (List.range 12).all (fun i => decide ((hist.filter (fun m => m.contains i)).length ≤ 1))
      let d := (d.updConv k (fun c => { c with trims := new, moved := hist })).setFlag (F.SV_BG.CONVERGED k) conv
      if bad then d.bump (F.SV_BG.DISCARDS k) 1
      else if (List.range 12).any (fun i => decide (new.getD i 0 = c.trims.getD i 0) && decide ((new.getD i 0).natAbs = (trimLimit i).natAbs) &&
          decide (est.getD i 0 ≠ 0)) then d.raise (0x1D + k) 8 k 0 else d)

/-- The scan is asked for (RUN from 0 to 1, or LEN from 0): entry 0 starts at the next boundary of its own grid; where the scan still runs
at its next boundary, and after an injection or a calibration under way when that is over (R198, R201). -/
def Dev.scanAsked (d : Dev) (k : Nat) : Dev :=
  let c := d.conv k
  if !d.flag (F.SV_CTRL.RUN k) || d.scanLen k = 0 then d
  else if c.cfg.isSome then d.updConv k (fun c => { c with restart := true })
  else if c.inj.isSome || c.inCal d.time.tb then d
  else d.scanStart k (d.time.tb + 1)

/-- RUN: a write of SV_CTRL.RUN; it takes effect at a word boundary (R198). -/
def Dev.svRun (d : Dev) (k : Nat) (on : Bool) : Dev :=
  if 2 ≤ k then d
  else
    let was := d.flag (F.SV_CTRL.RUN k)
    let d := d.setFlag (F.SV_CTRL.RUN k) on
    if on && !was then d.scanAsked k else d

/-- SV_SCAN_WRITE: a write of SV_SCAN_n (reg n), SV_DWELL_n (reg 16 + n) or SV_SCAN_LEN (reg 32); an INPUT of 28–31 is refused. -/
def Dev.svScan (d : Dev) (k reg v : Nat) : Dev × Nat :=
  if 2 ≤ k || 32 < reg then (d, St.addrInvalid)
  else if reg < 16 then
    if 28 ≤ v % 32 then (d, St.valueInvalid)
    else
      ((((((d.wr (F.SV_SCAN.INPUT k reg) (v % 32)).wr (F.SV_SCAN.GAIN k reg) (bits v 6 5)).wr (F.SV_SCAN.ORDER k reg) (bits v 9 8)).wr
        (F.SV_SCAN.DECIM k reg) (bits v 14 12)).wr (F.SV_SCAN.NOTCH k reg) (bits v 25 16)).updConv k (fun c =>
          if c.cfg.isSome && c.idx = reg then { c with touched := true } else c), St.ok)
  else if reg < 32 then (d.wr (F.SV_DWELL.DWELL k (reg - 16)) v, St.ok)
  else
    let was := d.scanLen k
    let d := d.wr (F.SV_SCAN_LEN.LEN k) v
    (if was = 0 then d.scanAsked k else d, St.ok)

/-- VREF_RANGE: a reference moves outside 2.40–2.60 V; the words keep flowing (R451). -/
def Dev.vrefRange (d : Dev) (k : Nat) : Dev := if 2 ≤ k then d else d.raise (0x1D + k) 9 k 0

/-! ## The plausibility checker (R204 - R207) -/

/-- The setting of the checker's injections. -/
def Dev.chkCfg (d : Dev) (input : Nat) : SvCfg :=
  { input := input, gain := d.rd F.WIT_CFG.GAIN, order := d.rd F.WIT_CFG.ORDER, decim := d.rd F.WIT_CFG.DECIM, notch := 0 }

/-- WITNESS_SEL as a mode command (R176). -/
def witSel (en : Bool) (ep : Nat) : Nat := 0x01 * 2 ^ 56 + (if en then 65536 else 0) + ep

def Dev.setJob (d : Dev) (j : Option ChkJob) : Dev := { d with sieve := { d.sieve with job := j } }

/-- A job ends before its injections do: their words are no longer the checker's. -/
def Dev.dropJob (d : Dev) : Dev :=
  (forEach [0, 1] (fun k (d : Dev) => d.updConv k (fun c => { c with
    queue := c.queue.map (fun (i : Inj) => { i with chk := false })
    inj := c.inj.map (fun (x : Inj × Nat) => ({ x.1 with chk := false }, x.2)) })) d).setJob none

/-- Periodic cross checks are made on inputs 0–27: an internal or an absent input in XCHK_INPUT is not converted (R191, R209). -/
def xchkInputOk (i : Nat) : Bool := decide (i < 28)

/-- Monitor endpoints in EPA order after one: the local endpoint of the next (R204). -/
def nextMonitor : Nat → Nat → Nat
  | 0, ep => ep
  | n + 1, ep =>
    let e := (ep + 1) % 65536
    let kind := e % 4
    let ok := if e / 4096 = 15 then kind ≠ 0 else 2 ≤ kind
    if ok && e / 1024 % 4 = 0 then e else nextMonitor n e

/-- A hop enters or leaves its tile by the port of a port-group endpoint. -/
def hopUsesPort (h : Hop) (t ep : Nat) : Bool := h.tile = t && (h.inp = ep % 4096 / 4 || h.out = ep % 4096 / 4)

/-- A round on an endpoint is skipped: its cell is not in HOLD, PARKED or FROZEN, or a commit that touches its port has its
boundary during the round. -/
def Dev.roundSkips (d : Dev) (t ep : Nat) : Bool :=
  if ep / 4096 = 15 then
    d.cir.due.any (fun (u : Due) => (u.voas ++ u.opens ++ u.sps.map (fun x => x.1)).any (fun l => l = voaLoop t (ep % 4096 / 4)) ||
      (d.route u.entry).any (fun (h : Hop) => hopUsesPort h t ep))
  else
    let m := d.cellMode (cellNo t (ep / 4096) (ep % 4096 / 4))
    !(m = Cm.hold || m = Cm.parked || m = Cm.frozen)

/-- A commit that touches the port of a port-group endpoint had its boundary since pick `from_` (R204 step 1). -/
def Dev.portTouched (d : Dev) (t ep from_ : Nat) : Bool :=
  ep / 4096 = 15 && (d.roundSkips t ep || d.liveEntries.any (fun e =>
    decide ((d.pick.num + 2 ^ 32 - d.rd (F.CIR.COMMIT_PICK e)) % 2 ^ 32 ≤ d.pick.num - from_) && (d.route e).any (fun (h : Hop) => hopUsesPort h t ep)))

/-- Starts a round on an endpoint: WITNESS_SEL in the next frame, the injection one boundary later. -/
def Dev.roundStart (d : Dev) (t ep : Nat) : Dev :=
  (d.sendMode t (witSel true ep)).setJob (some { kind := .round, tile := t, ep := ep, at_ := d.pick.num + 2 })

/-- WITNESS_ROUND (R204). -/
def Dev.witnessRound (d : Dev) : Dev :=
  if !d.isActive || !d.flag F.WIT_CFG.WIT_EN || d.flag F.WIT_CTRL.HOLD || d.sieve.job.isSome then d
  else d.fire d.sieve.roundTb (fun d =>
    let next := d.time.tb + 1000000 * max 1 (d.rd F.WIT_CFG.WIT_PERIOD_MS)
    let d := { d with sieve := { d.sieve with roundTb := next } }
    let ok := fun (t : Nat) => (d.tileMode t = Tm.active || d.tileMode t = Tm.fenced) && d.linkUp t
    match ((List.range 16).map (fun i => (d.sieve.turn + 1 + i) % 16)).find? ok with
    | none => d
    | some t =>
      let ep := nextMonitor 70000 (AMap.get d.sieve.last t 65535)
      let d := { d with sieve := { d.sieve with turn := t, last := AMap.put d.sieve.last t ep, fails := 0 } }
      if d.roundSkips t ep then d else d.roundStart t ep)

/-- The injections of a job (R204 step 3, R206, R207): converter, input, PAIRED. -/
def Dev.chkWants (d : Dev) (j : ChkJob) : List (Nat × Nat × Bool) :=
  match j.kind with
  | .cross => [(0, j.tile, true)]
  | .periodic => [(0, d.rd F.XCHK_CFG.XCHK_INPUT, true)]
  | .refs => [(0, 28, false), (0, 29, false), (1, 28, false), (1, 29, false)]
  | _ => [(d.rd F.WIT_CFG.WIT_CONV, j.tile, false)]

/-- Asks for injections, in order; answers with those that were refused. -/
def Dev.askAll (d : Dev) : List (Nat × Nat × Bool) → Dev × List (Nat × Nat × Bool)
  | [] => (d, [])
  | w :: ws =>
    let r := d.inject w.1 { cfg := d.chkCfg w.2.1, paired := w.2.2, host := false, chk := true }
    let x := r.1.askAll ws
    (x.1, if r.2 then x.2 else w :: x.2)

/-- Asks for the injections of a job, or again for those that a full queue refused.  A refused round and a refused periodic cross check
end; what a failed check has begun asks again at the next pick boundary. -/
def Dev.chkAsk (d : Dev) (j : ChkJob) : Dev :=
  let r := d.askAll (if j.todo = [] then d.chkWants j else j.todo)
  if r.2 = [] then r.1.setJob (some { j with asked := true, todo := [] })
  else if j.kind = .round || j.kind = .periodic then r.1.setJob none
  else r.1.setJob (some { j with asked := false, at_ := d.pick.num + 1, todo := r.2 })

/-- XCHK_PERIODIC (R206). -/
def Dev.xchkPeriodic (d : Dev) : Dev :=
  let ms := d.rd F.XCHK_CFG.XCHK_MS
  if !d.isActive || ms = 0 || d.sieve.job.isSome then d
  else d.fire d.sieve.crossTb (fun d =>
    let d := { d with sieve := { d.sieve with crossTb := d.time.tb + ms * 100000000 } }
    if xchkInputOk (d.rd F.XCHK_CFG.XCHK_INPUT) then d.chkAsk { kind := .periodic, tile := 16, ep := 0, at_ := d.pick.num } else d)

/-- The signed DATA of a word, and VALID. -/
def wordData (w : Nat) : Int := toS 16 w

/-- The end of a diagnosis: its class, its event, which names the reading of the failed round, EN = 1 restored. -/
def Dev.diagEnd (d : Dev) (j : ChkJob) (cls : Nat) : Dev :=
  let d := d.wr (F.WIT_STAT.CLASS j.tile) cls
  let d := if cls = 4 then d.raise (weftBlock j.tile) 10 j.ep (ofS 16 j.agreed)
    else if cls = 5 then d.raise (weftBlock j.tile) 11 j.ep (ofS 16 j.agreed) else d
  (d.sendMode j.tile (witSel true j.ep)).setJob none

/-- The reference check is judged (R206): the converters named. -/
def Dev.refsJudge (d : Dev) (j : ChkJob) : Dev :=
  let band := d.rd F.XCHK_CFG.REF_BAND
  let of := fun (k : Nat) => j.res.filterMap (fun (r : Nat × Nat × Nat) => if r.1 = k then some r.2.1 else none)
  let off := fun (w : Nat) => wordData w - (if bits w 20 16 = 29 then 24576 else 0)
  let right := fun (w : Nat) => bit w 21 && decide ((off w).natAbs ≤ band)
  let good := fun (k : Nat) => (of k).length = 2 && (of k).all right
  -- OBJECT is the input whose word is out, VALUE its difference (R366)
  let tell := fun (d : Dev) (k src : Nat) => match (of k).find? (fun w => !right w) with
    | some w => d.raise (0x1D + k) src (bits w 20 16) (ofS 32 (off w))
    | none => d.raise (0x1D + k) src 28 0
  let a := good 0
  let b := good 1
  let d := if a then d else tell d 0 7
  let d := if b then d else tell d 1 7
  let cls := if !a && b then 1 else if a && !b then 2 else 3
  let d := if cls ≠ 2 then tell d 0 1 else d
  let d := if cls ≠ 1 then tell d 1 1 else d
  if j.diag then d.diagEnd j cls else d.setJob none

/-- A cross check is judged (R206, R207 steps 1 and 2). -/
def Dev.crossJudge (d : Dev) (j : ChkJob) : Dev :=
  let w := fun (k : Nat) => (j.res.find? (fun (r : Nat × Nat × Nat) => r.1 = k)).map (fun r => r.2.1)
  match w 0, w 1 with
  | some a, some b =>
    let pass := bit a 21 && bit b 21 && decide ((wordData a - wordData b).natAbs ≤ d.rd F.XCHK_CFG.XCHK_BAND)
    if !pass then
      let d := (d.raise 0x1D 6 (bits a 20 16) (ofS 32 (wordData a - wordData b))).raise 0x1E 6 (bits b 20 16) (ofS 32 (wordData b - wordData a))
      d.chkAsk { j with kind := .refs, res := [], todo := [] }
    else if !j.diag then d.setJob none
    else
      let ofs := d.rdS (F.WIT_CAL.WIT_OFS j.tile)
      let gnd := d.rd F.WIT_BANDS.GND_BAND
      if (j.agreed - ofs).natAbs ≤ gnd && gnd < (j.code - ofs).natAbs then d.diagEnd j 4
      else (d.sendMode j.tile (witSel false j.ep)).setJob
        (some { j with kind := .ground, res := [], asked := false, at_ := d.pick.num + 2 })
  | _, _ => d

/-- The ground test is judged (R207 steps 3 and 4). -/
def Dev.groundJudge (d : Dev) (j : ChkJob) : Dev :=
  match j.res with
  | r :: _ =>
    let ofs := d.rdS (F.WIT_CAL.WIT_OFS j.tile)
    let ok := bit r.2.1 21 && decide ((wordData r.2.1 - ofs).natAbs ≤ d.rd F.WIT_BANDS.GND_BAND)
    d.diagEnd j (if ok then 5 else 4)
  | [] => d

/-- A result word of a checker's injection. -/
def Dev.chkResult (d : Dev) (k word : Nat) : Dev :=
  match d.sieve.job with
  | none => d
  | some j =>
    let j := { j with res := j.res ++ [(k, word, d.pick.num)] }
    let d := d.setJob (some j)
    match j.kind with
    | .round => d
    | .ground => d.groundJudge j
    | .refs => if j.res.length = 4 then d.refsJudge j else d
    | _ => if j.res.length = 2 then d.crossJudge j else d

/-- A round is judged at the end of the pick in which its result word ended, against the WITNESS of that pick (R204 step 4, R205).  A
confirming round, as any other, starts only where R204 lets it; where it may not, the run of failures ends. -/
def Dev.roundJudge (d : Dev) : Dev :=
  match d.sieve.job with
  | none => d
  | some j =>
    match j.kind, j.res with
    | .round, (_, word, _) :: _ =>
      let t := j.tile
      let wit := d.rd (F.WEFT_WIT.WITNESS t)
      let good := bit word 21 && (d.link t).witPick = some d.pick.num && bit wit 31 && wit % 65536 = j.ep &&
        !d.portTouched t j.ep (j.at_ - 1)
      let again := fun (d : Dev) =>
        if 0 < d.sieve.fails && d.flag F.WIT_CFG.WIT_EN && !d.flag F.WIT_CTRL.HOLD && !d.roundSkips t j.ep then d.roundStart t j.ep
        else ({ d with sieve := { d.sieve with fails := 0 } }).setJob none
      if !good then again d
      else
        let e := divRound ((bits wit 29 16 * d.rd (F.WIT_CAL.WIT_SCALE t) : Nat) : Int) (2 ^ 14) + d.rdS (F.WIT_CAL.WIT_OFS t)
        let d := (d.bumpWrap (F.WIT_STAT.ROUNDS t) 1).countQ 0x3A t
        if (wordData word - e).natAbs ≤ d.rd F.WIT_BANDS.WIT_BAND then
          ({ d with sieve := { d.sieve with fails := 0 } }).setJob none
        else
          let d := (d.bump (F.WIT_STAT.FAILS t) 1).countQ 0x3B t
          let n := d.sieve.fails + 1
          let d := { d with sieve := { d.sieve with fails := n } }
          if n < max 1 (d.rd F.WIT_CFG.CONFIRM) then again d
          else
            let d := { d with sieve := { d.sieve with fails := 0 } }
            d.chkAsk { kind := .cross, tile := t, ep := j.ep, at_ := d.pick.num, diag := true, agreed := wordData word, code := e }
    | _, _ => d

/-- At a pick boundary: injections that a job places for it are asked for; a unit that is no longer ACTIVE drops its job. -/
def Dev.chkBoundary (d : Dev) : Dev :=
  match d.sieve.job with
  | none => d
  | some j =>
    if !d.isActive then d.dropJob
    else if !j.asked && j.at_ ≤ d.pick.num then d.chkAsk j else d

/-! ## SIEVE_WORD -/

/-- A word with its code ends at b (R195, R202): numbered, put in the ring, counted and reported; a valid one goes to SV_LAST and, from
Sieve A's supply-sense inputs, to the trackers. -/
def Dev.wordOut (d : Dev) (k b : Nat) (g : SvCfg) (code : Int) (ovr settling isInj : Bool) : Dev × Nat :=
  let valid := !settling && !ovr
  let w := svWord code g.input valid isInj ovr (d.conv k).seq
  let d := (d.updConv k (fun c => { c with seq := (c.seq + 1) % 256, spoilt := c.spoilt || ovr })).ringPut k w b
  let d := d.countQ 0x40 k
  let d := if valid then (d.countQ 0x41 k).wordHisto k g.input code else d
  let d := if ovr then (d.countQ 0x43 k).raise (0x1D + k) 4 g.input (w % 65536) else d
  let d := if valid && g.input < 28 then d.wr (F.SV_LAST.WORD k g.input) w else d
  (if k = 0 && valid && 16 ≤ g.input && g.input < 20 then d.trackerWord (g.input - 16) (sat16 code) else d, w)

/-- SIEVE_WORD: a converter's filter ends a word on its grid.  `vs`: the R samples of its window, oldest first, as the corrected slices
give them, in units of VREF × 2^−31; `limit`: a slice reached a code limit. -/
def Dev.sieveWord (d : Dev) (k : Nat) (vs : List Int) (limit : Bool) : Dev :=
  let c := d.conv k
  match c.now with
  | none => d
  | some g =>
    if 2 ≤ k || c.inCal c.at_ || vs.length ≠ g.decimation then d
    else d.fire (c.at_ + g.grid) (fun d =>
      let b := c.at_ + g.grid
      let hist := (vs.reverse ++ c.hist).take g.keeps
      let ovr := limit || vs.any g.full
      let d := d.updConv k (fun c => { c with hist := hist, at_ := b })
      match c.inj with
      | some (i, left) =>
        let x := d.wordOut k b g (g.code hist) ovr (decide (1 < left)) true
        let d := x.1
        if 1 < left then (d.updConv k (fun c => { c with inj := some (i, left - 1) })).svStat k
        else
          let d := d.wr (F.SV_INJ_RES.WORD k) x.2
          let d := if i.host then d.setFlag (F.SV_INJ.GO k) false else d
          let d := (d.updConv k (fun c => { c with inj := none, calWait := c.calWait.map (fun n => n - 1) })).calArm k b
          let d := if i.chk then d.chkResult k x.2 else d
          d.wordTurn k b (fun d => d.scanResume k b)
      | none =>
        let x := d.wordOut k b g (g.code hist) ovr (decide (0 < c.settle)) false
        let d := x.1.updConv k (fun c => { c with
          settle := c.settle - 1, cnt := if c.settle = 0 && !ovr then min 65535 (c.cnt + 1) else c.cnt })
        d.wordTurn k b (fun d => d.scanBoundary k b))

end Sys2Proof.Machine
end

