-- ==== Sys2Proof/Machine/Time.lean ====
section
/-! DEFINITION. Time and synchronisation (chapter 15, R323 - R338), with the pick registers of R53 and R54 and the timed commits of
R149: the servo, the ordinary clock, steps, latches, timed pulses. -/

namespace Sys2Proof.Machine

/-- An event of the Time block. -/
def Dev.timeEv (d : Dev) (src obj : Nat) (val : Int) : Dev := d.raise 0x28 src obj (ofS 32 val)

/-! ## Boundaries of PTP times (R324, R334, R335) -/

/-- The least whole number k with start + k × step at or after x. -/
def stepsTo (start x step : Int) : Nat := ((x - start + step - 1) / step).toNat

/-- The least boundary k with PTP(k) at or after T, under the schedule in force and the rate change that waits. -/
def Dev.boundaryFor (d : Dev) (t : Nat) : Nat :=
  let x := (t : Int) - d.time.ofs
  let k := d.pick.chgPick + stepsTo d.pick.chgTb x (divisor d.pick.rate)
  match d.pick.due with
  | none => k
  | some c => if k ≤ c then k else c + stepsTo (d.tbOf c) x (divisor (d.rd F.PICK_CFG.RATE))

/-- Recomputes the pending timed commits (R333, R334): those at or before `keep` stay; a boundary whose commit point has passed
ends TIME_PAST, or commits late at the next one (R149). -/
def Dev.retime (d : Dev) (keep : Nat) : Dev :=
  forEach d.cir.queue (fun (c : Cmd) (d : Dev) =>
    match c.at_ with
    | none => d
    | some k =>
      if k ≤ keep then d
      else
        let n := d.boundaryFor c.par.time
        let put := fun (d : Dev) (g : Cmd → Cmd) =>
          { d with cir := { d.cir with queue := d.cir.queue.map (fun (q : Cmd) => if q.no = c.no then g q else q) } }
        if d.pick.num < n then put d (fun q => { q with at_ := some n })
        else
          let d := d.lateNow c
          if d.rd F.CIRC_CFG.LATE_POLICY = 1 then put d (fun q => { q with at_ := some (d.pick.num + 1), late := true })
          else d.cmdFailed c St.timePast) d

/-- PICK_CFG_WRITE (R53, R54).  Answers the item's status. -/
def Dev.pickCfg (d : Dev) (v : Nat) : Dev × Nat :=
  if !d.isActive then (d, St.roleStandby)
  else if 4 < bits v 6 4 then (d, St.valueInvalid)
  else
    let d := (d.wr F.PICK_CFG.RATE (bits v 1 0)).wr F.PICK_CFG.BEAT (bits v 6 4)
    let due := (d.pick.num + 1) / 64 * 64 + 64
    let d := { d with pick := { d.pick with due := some (d.pick.due.getD due) } }
    (d.retime d.pick.num, St.ok)

/-- A pick-rate and beat change takes effect at the boundary that has come (R54); TB is that of the boundary. -/
def Dev.pickChange (d : Dev) : Dev :=
  if d.pick.due = some d.pick.num then
    let r := d.rd F.PICK_CFG.RATE
    let b := d.rd F.PICK_CFG.BEAT
    let d := { d with pick := { d.pick with rate := r, beat := b, chgPick := d.pick.num, chgTb := d.time.tb, due := none } }
    (d.wr F.PICK_STAT.RATE_NOW r).wr F.PICK_STAT.BEAT_NOW b
  else d

/-- PICK_NUM_READ (R53, R335): the read of LO latches the high word and the PTP time of that boundary. -/
def Dev.pickNumRead (d : Dev) : Dev :=
  let n := d.pick.num
  let p := d.ptpOf (if d.pick.started then d.tbOf n else 0)
  (((d.wr F.PICK_NUM_LO.VAL n).wr F.PICK_NUM_HI.VAL (n / 2 ^ 32)).wr F.PICK_PTP_LO.VAL p).wr F.PICK_PTP_HI.VAL (p / 2 ^ 32)

/-- TB_NS_READ (R337): the read of LO latches HI and PTP_NOW; PTP_OFS reads the OFFSET in force (Dev.liveVal). -/
def Dev.tbNsRead (d : Dev) : Dev :=
  let t := d.time.tb
  let p := d.ptpNow
  let d := (d.wr F.TB_NS_LO.VAL t).wr F.TB_NS_HI.VAL (t / 2 ^ 32)
  (d.wr F.PTP_NOW_LO.VAL p).wr F.PTP_NOW_HI.VAL (p / 2 ^ 32)

/-! ## Pulses (R336) -/

def Dev.pulse (d : Dev) (n : Nat) : Pulse := AMap.get d.time.pulses n {}

def Dev.putPulse (d : Dev) (n : Nat) (p : Pulse) : Dev :=
  { d with time := { d.time with pulses := AMap.put d.time.pulses n p } }

/-- The pin's level for an active or inactive pulse (POL). -/
def Dev.pulsePin (d : Dev) (n : Nat) (active : Bool) : Dev :=
  d.signal (8 + n) (if d.flag (F.PULSE_CFG.POL n) then active else !active)

def Dev.pulsePeriod (d : Dev) (n : Nat) : Nat := max 100 (d.rd (F.PULSE_PERIOD.PERIOD_NS n))
def Dev.pulseStart (d : Dev) (n : Nat) : Nat := d.rd (F.PULSE_START_HI.START n) * 2 ^ 32 + d.rd (F.PULSE_START_LO.START n)

/-- WIDTH_NS as taken: at least 8 and at most PERIOD_NS - 8 (R336). -/
def Dev.pulseWidth (d : Dev) (n : Nat) : Nat := min (max 8 (d.rd (F.PULSE_WIDTH.WIDTH_NS n))) (d.pulsePeriod n - 8)

/-- The first START + n × PERIOD_NS at or after t. -/
def Dev.pulseFrom (d : Dev) (n t : Nat) : Nat :=
  let s := d.pulseStart n
  if t ≤ s then s else s + (t - s + d.pulsePeriod n - 1) / d.pulsePeriod n * d.pulsePeriod n

/-- A START that has passed (R336): a ONE_SHOT never fires and counts late; a PERIODIC pulse starts at the first edge `ahead` ns
on. -/
def Dev.pulsePlace (d : Dev) (n ahead : Nat) : Dev :=
  let p := d.pulse n
  let now := d.ptpNow
  let s := d.pulseStart n
  match d.rd (F.PULSE_CFG.MODE n) with
  | 1 =>
    if now ≤ s then d.putPulse n { p with armed := true, next := s }
    else ((d.putPulse n { p with armed := false }).bump (F.PULSE_STAT.LATE n) 1).timeEv 3 n ((s : Int) - now)
  | 2 => d.putPulse n { p with armed := true, next := if now ≤ s && ahead ≠ 0 then s else d.pulseFrom n (now + ahead) }
  | 3 => d.putPulse n { p with armed := true }
  | _ => d.putPulse n { p with armed := false }

/-- PULSE_ARM (R336): a write of START_HI, or of MODE to a nonzero value, arms; MODE 0 holds the inactive level. -/
def Dev.pulseArm (d : Dev) (n : Nat) : Dev :=
  if 3 < n then d
  else if d.rd (F.PULSE_CFG.MODE n) = 0 then (d.putPulse n {}).pulsePin n false
  else (d.pulsePin n (d.pulse n).fallTb.isSome).pulsePlace n 1000

/-- The pulse rises now: the level, PULSES, the end of its width. -/
def Dev.pulseRise (d : Dev) (n : Nat) : Dev :=
  let p := d.pulse n
  let d := (d.bumpWrap (F.PULSE_STAT.PULSES n) 1).pulsePin n true
  let mode := d.rd (F.PULSE_CFG.MODE n)
  let q : Pulse := { p with
    armed := decide (mode ≠ 1)
    next := if mode = 2 then p.next + d.pulsePeriod n else p.next
    fallTb := some (d.time.tb + d.pulseWidth n) }
  d.putPulse n q

/-- PULSE_EDGE (R336): PTP time reaches the next edge of the pulse, a fall of the one under way or a rise. -/
def Dev.pulseEdge (d : Dev) (n : Nat) : Dev :=
  if 3 < n then d
  else
    let p := d.pulse n
    let mode := d.rd (F.PULSE_CFG.MODE n)
    match p.fallTb with
    | some f => d.fire f (fun d => (d.putPulse n { d.pulse n with fallTb := none }).pulsePin n false)
    | none =>
      if !p.armed || mode = 0 || mode = 3 then d
      else d.fire ((p.next : Int) - d.time.ofs).toNat (fun d => d.pulseRise n)

/-- Pulses in BEAT mode at a beat boundary. -/
def Dev.pulseBeat (d : Dev) : Dev :=
  forEach (List.range 4) (fun n (d : Dev) =>
    if d.rd (F.PULSE_CFG.MODE n) = 3 && (d.pulse n).armed then d.pulseRise n else d) d

/-- Pulses at a step (R336): a PERIODIC one resumes at or after PTP(S); a ONE_SHOT not fired is handled as at arming. -/
def Dev.pulseStep (d : Dev) : Dev :=
  forEach (List.range 4) (fun n (d : Dev) =>
    if (d.pulse n).armed && d.rd (F.PULSE_CFG.MODE n) ≠ 3 then d.pulsePlace n 0 else d) d

/-! ## Steps (R332, R333) -/

/-- OFFSET after a step of MODE 1 - 3 with a value, at boundary S. -/
def Dev.stepOfs (d : Dev) (s mode : Nat) (value : Int) : Int :=
  if mode = 2 then value - (d.tbOf s : Nat) else d.time.ofs + value

/-- A step is allowed at S: PTP(S) stays in 0 to 2^63 - 1. -/
def Dev.stepFits (d : Dev) (s mode : Nat) (value : Int) : Bool :=
  let p := (d.tbOf s : Int) + d.stepOfs s mode value
  decide (0 ≤ p) && decide (p < 2 ^ 63)

/-- Places a step for the second boundary from now. -/
def Dev.placeStep (d : Dev) (mode : Nat) (value : Int) (item : Option Nat) : Dev :=
  let st : PendStep := { at_ := d.pick.num + 2, mode := mode, value := value, item := item }
  ({ d with time := { d.time with step := some st } }).setFlag F.TIME_STAT.STEP_PEND true

/-- The boundary at or before an instant of PTP time. -/
def Dev.boundaryBefore (d : Dev) (t : Nat) : Nat :=
  let x := (t : Int) - d.time.ofs - d.pick.chgTb
  if x < 0 then d.pick.chgPick - 1 else d.pick.chgPick + (x / (divisor d.pick.rate : Int)).toNat

/-- TIME_STEP (R332) for an item: its mode, VALUE as 64 bits, the receive timestamp of its frame. -/
def Dev.timeStep (d : Dev) (item mode value rxTs : Nat) : Dev :=
  let s := d.pick.num + 2
  let no := fun (st : Nat) => d.finish item st []
  match mode with
  | 0 =>
    d.updItem item (fun r => { r with result := beBytes 8 (d.boundaryBefore rxTs) ++ beBytes 8 0 ++ beBytes 8 rxTs })
  | _ =>
    let v : Option Int := match mode with
      | 1 => some (toS 64 value)
      | 2 => some (value : Int)
      | _ => d.time.meas.map (fun m => -m)
    if 3 < mode then no St.valueInvalid
    else match v with
      | none => no St.valueInvalid
      | some v =>
        if d.time.step.isSome then no St.busy
        else if !d.stepFits s mode v then no St.valueInvalid
        else
          let m := if mode = 2 then 2 else 1
          (d.updItem item (fun r => { r with result := beBytes 8 rxTs })).placeStep m v (some item)

/-- The step whose boundary has come (R332, R333): OFFSET changes; pulses, gates, SYNTH trackers (R85)
and timed commits follow. -/
def Dev.stepBoundary (d : Dev) : Dev :=
  match d.time.step with
  | none => d
  | some st =>
    if st.at_ ≠ d.pick.num then d
    else
      let new := d.stepOfs d.pick.num st.mode st.value
      let change := new - d.time.ofs
      let d := { d with time := { d.time with step := none, ofs := new, syncWait := none, syncTs := none, delayReq := none, pdelay := none } }
      let d := (d.setFlag F.TIME_STAT.STEP_PEND false).bump F.PTP_CNT.STEPS 1
      let d := match st.item with
        | none => (d.setFlag F.TIME_STAT.STEP_DONE true).timeEv 4 0 change
        | some i =>
          let rx := (d.item i).map (fun (r : ItemRec) => r.result)
          d.finish i St.ok (beBytes 8 d.pick.num ++ beBytes 8 (ofS 64 change) ++ (rx.getD []).take 8 ++ beBytes 8 0)
      let d := d.timeEv 5 0 change
      let d := forEach [0, 1] (fun p (d : Dev) =>
        let on := (d.gates p).isSome
        let d := d.gclStat p
        if on then d.raise 0x26 6 p (ofS 32 change) else d) d
      let d := forEach [0, 1, 2, 3] (fun n (d : Dev) => if (d.trk n).mode = 2 then d.newEpoch n else d) d
      (d.pulseStep).retime d.pick.num

/-! ## The servo (R326 - R328) -/

/-- Enters a servo state, with its NOTE event. -/
def Dev.servoTo (d : Dev) (s : Nat) : Dev :=
  if d.rd F.TIME_STAT.SERVO = s then d
  else
    let d := { d with time := { d.time with lockRun := 0 } }
    (d.wr F.TIME_STAT.SERVO s).raise 0x28 0 0 s

def Dev.slewLimit (d : Dev) : Nat := min 200000 (d.rd F.SERVO_CFG.SLEW_PPB)

/-- Puts ADJ in force, within SLEW_PPB. -/
def Dev.putAdj (d : Dev) (a : Int) : Dev := d.wr F.FREQ_ADJ.ADJ (ofS 32 (clampI (-(d.slewLimit : Int)) d.slewLimit a))

/-- The servo steers ADJ by its law, which the manual does not give: a free value within SLEW_PPB (assumption 1). -/
def Dev.servoSteer (d : Dev) : Dev :=
  let r := d.draw (2 * d.slewLimit + 1)
  let a : Int := (r.1 : Int) - d.slewLimit
  let d := { r.2 with time := { r.2.time with adjs := keepLast 64 (r.2.time.adjs ++ [a]) } }
  let d := d.putAdj a
  if a.natAbs = d.slewLimit then d.timeEv 11 0 (d.time.meas.getD 0) else d

/-- One offset measurement (R327, R328). -/
def Dev.measure (d : Dev) (off : Int) : Dev :=
  let d := ({ d with time := { d.time with meas := some off } }).wr F.OFFSET_NOW.OFFSET (satS 32 off)
  let st := d.rd F.TIME_STAT.SERVO
  if st = 0 then d
  else
    let first := st = 1 && !d.flag F.TIME_STAT.STEP_DONE
    let big := decide (d.rd F.SERVO_LIM.STEP_MIN_NS < off.natAbs)
    if first && big && d.time.step.isNone && d.stepFits (d.pick.num + 2) 1 (-off) then
      (d.setFlag F.TIME_STAT.STEP_DONE true).placeStep 1 (-off) none
    else if first && big then d
    else
      let d := if big then d else d.setFlag F.TIME_STAT.STEP_DONE true
      let d := d.servoSteer
      let run := if off.natAbs ≤ d.rd F.SERVO_LIM.LOCK_NS then d.time.lockRun + 1 else 0
      let d := { d with time := { d.time with lockRun := run } }
      if st = 2 then
        if d.rd F.SERVO_CFG.BIG_NS < off.natAbs then d.timeEv 2 0 (satI 32 off) else d
      else if 16 ≤ run then d.servoTo 2
      else if st = 3 then
        let d := d.servoTo 1
        { d with time := { d.time with lockRun := run } }
      else d

/-- SERVO_SRC_WRITE (R327): SRC has been written. -/
def Dev.servoSrc (d : Dev) : Dev :=
  let src := d.rd F.TIME_CFG.SRC
  if src = 0 || src = 3 then (d.servoTo 0).putAdj 0
  else if d.rd F.TIME_STAT.SERVO = 0 then
    ({ d with time := { d.time with lastSync := d.time.tb, lastPps := d.time.tb } }).servoTo 1
  else d

/-- LOCKED to HOLDOVER: ADJ is the mean of the last 64 values. -/
def Dev.servoHold (d : Dev) : Dev :=
  if d.rd F.TIME_STAT.SERVO ≠ 2 then d
  else
    let n := d.time.adjs.length
    let d := if n = 0 then d else d.putAdj (d.time.adjs.sum / (n : Int))
    d.servoTo 3

/-- The announce interval in ns (LOG_ANNOUNCE, 0 - 3). -/
def Dev.announceNs (d : Dev) : Nat := 1000000000 * 2 ^ min 3 (d.rd F.PTP_PRIO.LOG_ANNOUNCE)

/-- SERVO_HOLDOVER (R327): no Sync for 3 announce intervals, or no PPS edge for 3 s. -/
def Dev.servoHoldover (d : Dev) : Dev :=
  if d.rd F.TIME_STAT.SERVO ≠ 2 then d
  else if d.rd F.TIME_CFG.SRC = 1 then d.fire (d.time.lastSync + 3 * d.announceNs) (fun d => d.servoHold)
  else d.fire (d.time.lastPps + 3000000000) (fun d => (d.timeEv 6 0 0).servoHold)

/-- RELOCK (R328): one automatic step is allowed again. -/
def Dev.relock (d : Dev) : Dev := d.setFlag F.TIME_STAT.STEP_DONE false

/-- PPS_EDGE (R326): a rising edge `delay` ns from now, timestamped; in PPS mode it measures.  An edge within 500 ms of the last one
accepted is ignored (R446). -/
def Dev.ppsEdge (d : Dev) (delay : Nat) : Dev :=
  d.fire (d.time.tb + delay) (fun d =>
    let d := d.tick 16
    if d.time.ppsTb.any (fun t => decide (d.time.tb < t + 500000000)) then d else
    let ts := d.ptpNow
    let d := { d with time := { d.time with lastPps := d.time.tb, ppsTb := some d.time.tb } }
    let d := (d.wr F.PPS_TS_LO.VAL ts).wr F.PPS_TS_HI.VAL (ts / 2 ^ 32)
    if d.rd F.TIME_CFG.SRC ≠ 2 then d
    else
      let o := clampI (-499999999) 499999999 (d.rdS F.PPS_CFG.PPS_OFS_NS)
      let r := ((ts : Int) - o) % 1000000000
      d.measure (if r ≤ 500000000 then r else r - 1000000000))

/-! ## References (R325, R447) -/

/-- REF_LOSS (R325): TB_10M_IN has had no edge for 1 µs. -/
def Dev.refLoss (d : Dev) : Dev :=
  let d := { d with time := { d.time with refOkSince := none } }
  if d.flag F.TIME_STAT.REF then d else (d.setFlag F.TIME_STAT.REF true).timeEv 1 1 0

/-- REF_RETURN (R325): TB_10M_IN is valid again, from now. -/
def Dev.refReturn (d : Dev) : Dev :=
  if !d.flag F.TIME_STAT.REF || d.time.refOkSince.isSome then d
  else { d with time := { d.time with refOkSince := some d.time.tb } }

/-- The PLL returns at a pick boundary after 10 s with REF_AUTO = 1. -/
def Dev.refBoundary (d : Dev) : Dev :=
  match d.time.refOkSince with
  | none => d
  | some t =>
    if d.flag F.TIME_STAT.REF && d.flag F.TIME_CFG.REF_AUTO && decide (t + 10000000000 ≤ d.time.tb) then
      (({ d with time := { d.time with refOkSince := none } }).setFlag F.TIME_STAT.REF false).timeEv 1 0 0
    else d

/-- The PTP port loses its link: with PTP_FALLBACK the clock moves to the other host port; a servo that it steers (SRC = 1) leaves
LOCKED for HOLDOVER (R327, R329). -/
def Dev.ptpFallback (d : Dev) (p : Nat) : Dev :=
  let port := d.time.portNow.getD (d.rd F.TIME_CFG.PTP_PORT)
  if p ≠ port || 1 < p || !d.flag F.TIME_CFG.PTP_FALLBACK then d
  else
    let d := { d with time := { d.time with portNow := some (1 - p), masters := [], parent := none } }
    let d := d.raise 0x28 7 (p * 256) 1
    if d.rd F.TIME_CFG.SRC = 1 then d.servoHold else d

/-- A port's link goes down with the SerDes. -/
def Dev.macDrop (d : Dev) (p : Nat) : Dev := d.macLink p false false false false

/-- REFCLK_LOSS (R447): links go DOWN, ports lose LINK; TB counts on. -/
def Dev.refclkLoss (d : Dev) : Dev :=
  if !d.time.refclk then d
  else
    let d := ({ d with time := { d.time with refclk := false } }).raise 0x00 2 0 0
    let d := forEach (List.range 16) (fun t (d : Dev) => d.linkDown t) d
    forEach [0, 1, 2] (fun p (d : Dev) =>
      let was := d.flag (F.MAC_STAT.LINK p)
      let d := d.macDrop p
      if was then d.ptpFallback p else d) d

/-- REFCLK_RETURN (R447): links retrain. -/
def Dev.refclkReturn (d : Dev) : Dev :=
  if d.time.refclk then d
  else
    let d := { d with time := { d.time with refclk := true } }
    forEach d.draftTiles (fun t (d : Dev) => if d.linkUp t then d else d.retrainStart t) d

/-! ## The ordinary clock (R329).  Message formats and the best master clock algorithm are those of IEEE 1588-2019, which the manual
names and does not print (PRESUMED, assumption 3). -/

def Dev.ptpPort (d : Dev) : Nat := d.time.portNow.getD (d.rd F.TIME_CFG.PTP_PORT)

/-- clockIdentity and port number 1: the station address as an EUI-64. -/
def Dev.ptpIdentity (d : Dev) : Nat :=
  let a := d.station d.ptpPort
  (a / 2 ^ 24 * 2 ^ 40 + 0xFFFE * 2 ^ 24 + a % 2 ^ 24) * 65536 + 1

/-- LOG fields: signed, within limits. -/
def Dev.logSync (d : Dev) : Int := clampI (-4) 1 (toS 4 (d.rd F.PTP_PRIO.LOG_SYNC))
def Dev.logDelay (d : Dev) : Int := clampI (-4) 3 (toS 4 (d.rd F.PTP_PRIO.LOG_DELAY_REQ))

/-- 2^log s in ns. -/
def logNs (l : Int) : Nat := if l < 0 then 1000000000 / 2 ^ l.natAbs else 1000000000 * 2 ^ l.natAbs

/-- A timestamp of 10 bytes: seconds, ns. -/
def ptpTime (t : Nat) : List Byte := beBytes 6 (t / 1000000000) ++ beBytes 4 (t % 1000000000)
def ptpNs (bs : List Byte) (off : Nat) : Nat := beAt bs off 6 * 1000000000 + beAt bs (off + 6) 4

/-- A message of ours: type, flags, sequence, logMessageInterval, body after the header. -/
def Dev.ptpMsg (d : Dev) (kind flags seq : Nat) (log : Int) (body : List Byte) : List Byte :=
  let control := if kind = 0 then 0 else if kind = 1 then 1 else if kind = 8 then 2 else if kind = 9 then 3 else 5
  beBytes 1 kind ++ beBytes 1 2 ++ beBytes 2 (34 + body.length) ++ beBytes 1 (min 127 (d.rd F.TIME_CFG.DOMAIN)) ++ [0] ++
    beBytes 2 flags ++ zeros 12 ++ beBytes 10 d.ptpIdentity ++ beBytes 2 seq ++ beBytes 1 control ++ beBytes 1 (ofS 8 log) ++ body

/-- Sends a PTP message on the PTP queue of the PTP port, by TRANSPORT: multicast, peer-delay messages to their own group. -/
def Dev.ptpSend (d : Dev) (msg : List Byte) : Dev :=
  let p := d.ptpPort
  let kind := beAt msg 0 1 % 16
  let pd := kind = 2 || kind = 3 || kind = 10
  let port := if kind < 8 then 319 else 320
  let r := match d.rd F.TIME_CFG.TRANSPORT with
    | 1 =>
      let dst := if pd then 0xE000006B else 0xE0000181
      let src := d.rd (F.CHEDA_IP4.ADDR p)
      let pseudo := beBytes 4 src ++ beBytes 4 dst ++ beBytes 2 17 ++ beBytes 2 (8 + msg.length)
      (if pd then 0x01005E00006B else 0x01005E000181, beBytes 2 0x0800 ++ ip4Bytes 17 src dst (udpBytes pseudo port port msg))
    | 2 =>
      let dst := if pd then 0xFF02 * 2 ^ 112 + 0x6B else 0xFF0E * 2 ^ 112 + 0x181
      let a := d.station p
      let src := 0xFE80 * 2 ^ 112 + ((a / 2 ^ 24 ^^^ 0x020000) * 2 ^ 40 + 0xFFFE * 2 ^ 24 + a % 2 ^ 24)
      let pseudo := beBytes 16 src ++ beBytes 16 dst ++ beBytes 4 (8 + msg.length) ++ beBytes 4 17
      (if pd then 0x33330000006B else 0x333300000181, beBytes 2 0x86DD ++ ip6Bytes 17 1 src dst (udpBytes pseudo port port msg))
    | _ => (if pd then 0x0180C200000E else 0x011B19000000, beBytes 2 0x88F7 ++ msg)
  (d.enqueueTx p 0 (d.mkFrame p 0 r.1 none r.2)).1

/-- The follow-up of an event message that has just left (R330). -/
def Dev.ptpFollow (d : Dev) : Dev :=
  match d.time.txEvent with
  | none => d
  | some (kind, seq, ts, req) =>
    let d := { d with time := { d.time with txEvent := none } }
    if kind = 0 then d.ptpSend (d.ptpMsg 8 0 seq d.logSync (ptpTime ts))
    else d.ptpSend (d.ptpMsg 10 0 seq 127 (ptpTime ts ++ beBytes 10 req))

/-- The order of the best master clock algorithm: what is compared, first word first, smaller is better. -/
def Master.rank (m : Master) : List Nat := [m.prio1, m.cls, m.acc, m.var, m.prio2, m.gm, m.steps, m.src]

def betterRank : List Nat → List Nat → Bool
  | a :: as_, b :: bs => if a = b then betterRank as_ bs else decide (a < b)
  | _, _ => false

def bestMaster : List Master → Option Master
  | [] => none
  | m :: ms => match bestMaster ms with
    | none => some m
    | some b => if betterRank b.rank m.rank then some b else some m

/-- What this clock announces itself (R329). -/
def Dev.ownRank (d : Dev) : List Nat :=
  [d.rd F.PTP_PRIO.PRIORITY1, 248, 0xFE, 0xFFFF, d.rd F.PTP_PRIO.PRIORITY2, d.ptpIdentity / 65536, 0, d.ptpIdentity]

/-- The state decision: forgets masters unheard for the foreign-master window of 4 announce intervals, chooses, sets PORT_STATE and the parent. -/
def Dev.bmca (d : Dev) (lapsed : Bool) : Dev :=
  let live := d.time.masters.filter (fun m => decide (d.time.tb < m.heardTb + 4 * d.announceNs))
  let d := { d with time := { d.time with masters := live } }
  let best := bestMaster (live.filter (fun m => decide (2 ≤ m.seen)))
  let best := match best with
    | some m => if !d.flag F.TIME_CFG.SLAVE_ONLY && betterRank d.ownRank m.rank then none else some m
    | none => none
  match best with
  | some m =>
    let d := if d.time.parent = some m.src then d
      else (({ d with time := { d.time with parent := some m.src, syncWait := none, syncTs := none } }).raise 0x28 8 d.ptpPort 0)
    let d := d.wr F.TIME_STAT.UTC_OFFSET m.utc
    d.wr F.TIME_STAT.PORT_STATE (if d.rd F.TIME_STAT.SERVO = 2 && d.rd F.TIME_CFG.SRC = 1 then 9 else 8)
  | none =>
    let had := d.time.parent.isSome
    let d := { d with time := { d.time with parent := none } }
    let d := if had then d.raise 0x28 8 d.ptpPort 0 else d
    if d.flag F.TIME_CFG.SLAVE_ONLY then d.wr F.TIME_STAT.PORT_STATE 4
    else if lapsed || !live.isEmpty || d.rd F.TIME_STAT.PORT_STATE = 6 then d.wr F.TIME_STAT.PORT_STATE 6
    else d.wr F.TIME_STAT.PORT_STATE 4

/-- A message is not for this clock: dropped and counted. -/
def Dev.ptpIgnore (d : Dev) : Dev := d.bump F.PTP_CNT.IGNORED 1

/-- A correction field in whole ns. -/
def corrNs (m : List Byte) : Int := toS 64 (beAt m 8 8) / 65536

/-- One Announce. -/
def Dev.ptpAnnounce (d : Dev) (m : List Byte) : Dev :=
  let src := beAt m 20 10
  let old := d.time.masters.find? (fun x => x.src = src)
  let seen := match old with
    | some o => if d.time.tb ≤ o.heardTb + 4 * d.announceNs then 2 else 1
    | none => 1
  let x : Master := { src := src, prio1 := beAt m 47 1, cls := beAt m 48 1, acc := beAt m 49 1, var := beAt m 50 2
                      prio2 := beAt m 52 1, gm := beAt m 53 8, steps := beAt m 61 2
                      utc := if bit (beAt m 7 1) 2 then beAt m 44 2 else d.rd F.TIME_STAT.UTC_OFFSET
                      heardTb := d.time.tb, seen := seen }
  if 255 ≤ x.steps || src / 65536 = d.ptpIdentity / 65536 then d
  else
    ({ d with time := { d.time with masters := d.time.masters.filter (fun (y : Master) => y.src ≠ src) ++ [x] } }).bmca false

/-- t1 and t2 are known: the offset from the master, with the mean path delay (R326). -/
def Dev.ptpOffset (d : Dev) (t1 : Int) (t2 : Nat) : Dev :=
  let d := { d with time := { d.time with syncTs := some (t1, t2), lastSync := d.time.tb } }
  let d := if d.rd F.TIME_CFG.SRC = 1 then d.measure ((t2 : Int) - t1 - d.rd F.PATH_DELAY.DELAY) else d
  let d := if d.rd F.TIME_STAT.PORT_STATE = 8 && d.rd F.TIME_STAT.SERVO = 2 then d.wr F.TIME_STAT.PORT_STATE 9 else d
  let due := match d.time.lastDelay with
    | none => true
    | some t => decide (t + logNs d.logDelay ≤ d.time.tb)
  if d.flag F.TIME_CFG.DELAY_MECH || !due then d
  else
    let seq := (d.time.seqDelay + 1) % 65536
    let d := { d with time := { d.time with seqDelay := seq, lastDelay := some d.time.tb } }
    d.ptpSend (d.ptpMsg 1 0 seq 127 (zeros 10))

/-- One Sync. -/
def Dev.ptpSync (d : Dev) (m : List Byte) (rx : Nat) : Dev :=
  let log := toS 8 (beAt m 33 1)
  if d.time.parent ≠ some (beAt m 20 10) then d
  else if log < -7 || 4 < log then d.ptpIgnore
  else if bit (beAt m 6 1) 1 then
    { d with time := { d.time with syncWait := some (beAt m 30 2, rx, corrNs m), lastSync := d.time.tb } }
  else d.ptpOffset ((ptpNs m 34 : Int) + corrNs m) rx

/-- A Follow_Up of the Sync that waits. -/
def Dev.ptpFollowUp (d : Dev) (m : List Byte) : Dev :=
  match d.time.syncWait with
  | some (seq, t2, c) =>
    if d.time.parent = some (beAt m 20 10) && seq = beAt m 30 2 then
      ({ d with time := { d.time with syncWait := none } }).ptpOffset ((ptpNs m 34 : Int) + c + corrNs m) t2
    else d
  | none => d

/-- The mean path delay becomes known. -/
def Dev.putDelay (d : Dev) (x : Int) : Dev := d.wr F.PATH_DELAY.DELAY (clampI 0 (2 ^ 32 - 1) x).toNat

/-- A Delay_Resp to our request. -/
def Dev.ptpDelayResp (d : Dev) (m : List Byte) : Dev :=
  match d.time.delayReq, d.time.syncTs with
  | some (seq, t3), some (t1, t2) =>
    if seq = beAt m 30 2 && beAt m 44 10 = d.ptpIdentity && d.time.parent = some (beAt m 20 10) then
      let t4 := (ptpNs m 34 : Int) - corrNs m
      ({ d with time := { d.time with delayReq := none } }).putDelay ((((t2 : Int) - t1) + (t4 - t3)) / 2)
    else d
  | _, _ => d

/-- A Pdelay_Resp or its follow-up. -/
def Dev.ptpPdelayResp (d : Dev) (m : List Byte) (rx : Nat) : Dev :=
  match d.time.delayReq with
  | some (seq, t1) =>
    if seq ≠ beAt m 30 2 || beAt m 44 10 ≠ d.ptpIdentity then d
    else if bit (beAt m 6 1) 1 then
      { d with time := { d.time with pdelay := some (seq, ptpNs m 34, rx, corrNs m) } }
    else ({ d with time := { d.time with delayReq := none } }).putDelay (((rx : Int) - t1 - corrNs m) / 2)
  | none => d

def Dev.ptpPdelayFollow (d : Dev) (m : List Byte) : Dev :=
  match d.time.delayReq, d.time.pdelay with
  | some (seq, t1), some (s, t2, t4, c) =>
    if seq = s && seq = beAt m 30 2 && beAt m 44 10 = d.ptpIdentity then
      ({ d with time := { d.time with delayReq := none, pdelay := none } }).putDelay
        ((((t4 : Int) - t1) - ((ptpNs m 34 : Int) - t2) - c - corrNs m) / 2)
    else d
  | _, _ => d

/-- One PTP message received at PTP time `rx`. -/
def Dev.ptpTake (d : Dev) (m : List Byte) (rx : Nat) : Dev :=
  let kind := beAt m 0 1 % 16
  let bad := beAt m 1 1 % 16 ≠ 2 || beAt m 4 1 ≠ min 127 (d.rd F.TIME_CFG.DOMAIN) || bit (beAt m 6 1) 2 || bit (beAt m 6 1) 0 ||
    decide (m.length < 44) || 1 ≤ beAt m 0 1 / 16
  let pd := d.flag F.TIME_CFG.DELAY_MECH
  if bad then d.ptpIgnore
  else match kind with
    | 0 => d.ptpSync m rx
    | 1 =>
      if d.rd F.TIME_STAT.PORT_STATE = 6 && !pd then
        d.ptpSend (d.ptpMsg 9 0 (beAt m 30 2) d.logDelay (ptpTime rx ++ (m.drop 20).take 10))
      else d
    | 2 =>
      if pd then d.ptpSend (d.ptpMsg 3 0x0200 (beAt m 30 2) 127 (ptpTime rx ++ (m.drop 20).take 10)) else d
    | 3 => if pd then d.ptpPdelayResp m rx else d
    | 8 => d.ptpFollowUp m
    | 9 => if pd then d else d.ptpDelayResp m
    | 10 => if pd then d.ptpPdelayFollow m else d
    | 11 => d.ptpAnnounce m
    | _ => d.ptpIgnore

/-- PTP_MESSAGE (R329): the next frame of RX queue 0 is processed; one that came on the other port is dropped. -/
def Dev.ptpMessage (d : Dev) : Dev :=
  let r := d.rxPop 0
  let d := r.1
  match r.2 with
  | none => d
  | some f =>
    let e := parseEth f.bytes
    match ptpPart (beBytes 2 e.etype ++ e.body) with
    | none => d.ptpIgnore
    | some m => if f.port ≠ d.ptpPort then d else d.ptpTake m f.ts

/-- PTP_MASTER_SEND (R329): the clock's own message falls due: 0 Announce, 1 Sync, 2 a delay request of the peer-delay mechanism;
3 the announce receipt timeout. -/
def Dev.ptpMasterSend (d : Dev) (kind : Nat) : Dev :=
  match kind with
  | 0 =>
    if d.rd F.TIME_STAT.PORT_STATE ≠ 6 then d
    else
      let seq := (d.time.seqAnn + 1) % 65536
      let d := { d with time := { d.time with seqAnn := seq } }
      let prio := d.ownRank
      let body := zeros 10 ++ beBytes 2 (d.rd F.TIME_STAT.UTC_OFFSET) ++ [0] ++ beBytes 1 (prio.getD 0 0) ++ beBytes 1 248 ++
        beBytes 1 0xFE ++ beBytes 2 0xFFFF ++ beBytes 1 (prio.getD 4 0) ++ beBytes 8 (d.ptpIdentity / 65536) ++ beBytes 2 0 ++ [0xA0]
      d.ptpSend (d.ptpMsg 11 0x0008 seq (min 3 (d.rd F.PTP_PRIO.LOG_ANNOUNCE) : Nat) body)
  | 1 =>
    if d.rd F.TIME_STAT.PORT_STATE ≠ 6 then d
    else
      let seq := (d.time.seqSync + 1) % 65536
      let d := { d with time := { d.time with seqSync := seq } }
      d.ptpSend (d.ptpMsg 0 0x0200 seq d.logSync (zeros 10))
  | 2 =>
    if !d.flag F.TIME_CFG.DELAY_MECH then d
    else
      let seq := (d.time.seqDelay + 1) % 65536
      let d := { d with time := { d.time with seqDelay := seq, lastDelay := some d.time.tb } }
      d.ptpSend (d.ptpMsg 2 0 seq d.logDelay (zeros 20))
  | _ => d.bmca true

/-- PTP_PORT written, the clock having been on port `was`: it goes back to the port that the field names (R329). -/
def Dev.ptpPortWritten (d : Dev) (was : Nat) : Dev :=
  let d := { d with time := { d.time with portNow := none } }
  if d.ptpPort = was then d
  else { d with time := { d.time with masters := [], parent := none, syncWait := none, syncTs := none } }

end Sys2Proof.Machine
end

