-- ==== Sys2Proof/Machine/Cheda.lean ====
section
/-! DEFINITION. Cheda packets, sessions, replies and completions (chapter 13, R273 - R289); the items themselves are in Items. -/

namespace Sys2Proof.Machine

/-! ## Packets as bytes (R277, R278, R280) -/

/-- TX_MAX of a port, in its limits (R270). -/
def Dev.txMax (d : Dev) (p : Nat) : Nat := max 1518 (min 9216 (d.rd (F.MAC_CTRL.TX_MAX p)))

/-- ROOM of a packet to a host on queue q (R280). -/
def Dev.roomOf (d : Dev) (a : Addr) (q : Nat) : Nat :=
  let t := if (d.txTag a.port q (a.tag.map (fun t => t % 4096))).isSome then 4 else 0
  let h := match a.carrier with
    | .raw => 0
    | .ip4 _ _ => 28
    | .ip6 _ _ _ => 48
  d.txMax a.port - 18 - t - h

/-- Zero bytes up to the next multiple of 4. -/
def pad4 (bs : List Byte) : List Byte := bs ++ zeros ((4 - bs.length % 4) % 4)

/-- A reply entry. -/
def entryBytes (tag op status : Nat) (result : List Byte) : List Byte :=
  pad4 (beBytes 2 tag ++ beBytes 2 op ++ beBytes 2 status ++ beBytes 2 result.length ++ result)

/-- A session's key SK; none in session 0. -/
def Dev.sessionKey (d : Dev) (slot : Nat) : Option (List Byte) :=
  if slot = 0 then none else (AMap.find d.cheda.sessions slot).map (fun (x : Session) => x.sk)

/-- A whole packet, with AUTH under a session's key (R284). -/
def Dev.packet (d : Dev) (flags slot count seq part parts : Nat) (body : List Byte) : List Byte :=
  let key := d.sessionKey slot
  let len := 12 + body.length + (if key.isSome then 16 else 0)
  let head := beBytes 1 1 ++ beBytes 1 flags ++ beBytes 1 slot ++ beBytes 1 count ++ beBytes 4 seq ++ beBytes 2 len ++
    beBytes 1 part ++ beBytes 1 parts
  match key with
  | none => head ++ body
  | some k => head ++ body ++ (hmac256 k (head ++ body)).take 16

/-- Adds an entry to the last of the parts, kept newest first with their entries newest first, or opens a part. -/
def putPart {α : Type} (size : α → Nat) (room most : Nat) (ps : List (List α)) (x : α) : List (List α) :=
  match ps with
  | [] => [[x]]
  | p :: ps => if size x + (p.map size).sum ≤ room && p.length < most then (x :: p) :: ps else [x] :: p :: ps

/-- Splits entries in order into parts of at most `room` bytes of body and at most `most` entries, none split (R280). -/
def splitUpTo {α : Type} (most : Nat) (size : α → Nat) (room : Nat) (xs : List α) : List (List α) :=
  ((xs.foldl (putPart size room most) []).map List.reverse).reverse

/-- Parts of a packet: at most 64 entries. -/
def splitParts {α : Type} (size : α → Nat) (room : Nat) (xs : List α) : List (List α) := splitUpTo 64 size room xs

/-! ## Sessions -/

def Dev.session (d : Dev) (slot : Nat) : Option Session := AMap.find d.cheda.sessions slot

def Dev.putSession (d : Dev) (slot : Nat) (s : Session) : Dev :=
  { d with cheda := { d.cheda with sessions := AMap.put d.cheda.sessions slot s } }

/-- The item numbers of a reply still held. -/
def Dev.inReplies (d : Dev) (i : Nat) : Bool := d.cheda.replies.any (fun (r : ReplyRec) => r.items.contains i)

/-- Forgets items that are final and that no held reply names. -/
def Dev.gcItems (d : Dev) : Dev :=
  { d with cheda := { d.cheda with items := d.cheda.items.filter (fun (r : ItemRec) => r.fin.isNone || d.inReplies r.id) } }

/-- Discards the open transaction: its staged items end with a status (R293). -/
def Dev.discardTxn (d : Dev) (status : Nat) : Dev :=
  match d.cheda.txn with
  | none => d
  | some t =>
    if t.commit.isSome then d
    else
      let d := { d with cheda := { d.cheda with txn := none } }
      let d := (d.setFlag F.CHEDA_STAT.TXN_OPEN false).wr F.CHEDA_STAT.TXN_SESSION 0
      let d := d.raise 0x2A 9 t.slot t.staged.length
      forEach t.staged (fun (s : Staged) (d : Dev) => d.finish s.item status []) d

/-- Closes a session (R285): held GROUP items and the open transaction end ABORTED; the slot is free. -/
def Dev.closeSession (d : Dev) (slot : Nat) : Dev :=
  let held := AMap.get d.cir.held slot []
  let d := { d with cir := { d.cir with held := AMap.del d.cir.held slot } }
  let d := forEach held (fun (m : GroupMem) (d : Dev) => d.finish m.item St.aborted cirNone) d
  let d := match d.cheda.txn with
    | some t => if t.slot = slot then d.discardTxn St.aborted else d
    | none => d
  let d := { d with cheda := { d.cheda with
    sessions := AMap.del d.cheda.sessions slot
    replies := d.cheda.replies.filter (fun (r : ReplyRec) => r.slot ≠ slot) } }
  d.gcItems

/-- SESSION_IDLE_TIMEOUT (R285). -/
def Dev.sessionIdle (d : Dev) (slot : Nat) : Dev :=
  match d.session slot with
  | some s =>
    if s.opening then d else d.fire (s.lastTb + 1000000000 * max 1 (d.rd F.CHEDA_TMO.IDLE_S)) (fun d => d.closeSession slot)
  | none => d

/-- SESSION_PROVE_TIMEOUT (R283). -/
def Dev.proveTimeout (d : Dev) (slot : Nat) : Dev :=
  match d.session slot with
  | some s =>
    if !s.opening then d
    else d.fire (s.openTb + 1000000000) (fun d =>
      ((d.closeSession slot).bump F.CHEDA_CNT_D.PROOF_FAIL 1).raise 0x2A 1 s.keyId 2)
  | none => d

/-- KEY_LOCKOUT_EXPIRY (R283). -/
def Dev.keyLockout (d : Dev) (key : Nat) : Dev :=
  match AMap.find d.cheda.locked key with
  | some t => d.fire (t + 60000000000) (fun d => { d with cheda := { d.cheda with locked := AMap.del d.cheda.locked key } })
  | none => d

/-- TXN_IDLE_TIMEOUT (R293). -/
def Dev.txnIdle (d : Dev) : Dev :=
  match d.cheda.txn with
  | some t =>
    if t.commit.isSome then d
    else d.fire (t.lastTb + 1000000000 * max 1 (d.rd F.CHEDA_TMO.TXN_IDLE_S)) (fun d => d.discardTxn St.aborted)
  | none => d

/-- The session open for a HOST_ID. -/
def Dev.sessionOfHost (d : Dev) (host : Nat) : Option Nat :=
  (d.cheda.sessions.find? (fun (ks : Nat × Session) => ks.2.hostId = host && !ks.2.opening)).map (fun ks => ks.1)

/-- SESSION_OPEN (R283): par is KEY_ID, PRIV, HOST_ID, HOST_NONCE.  Answers the status and the result. -/
def Dev.sessionOpen (d : Dev) (a : Addr) (par : List Byte) : Dev × Nat × List Byte :=
  let key := beAt par 0 1
  let priv := beAt par 1 1
  let host := beAt par 2 2
  match AMap.find d.nv.keys key with
  | none => (d, St.keyUnknown, [])
  | some k =>
    if k.maxPriv < priv % 4 then (d, St.privDenied, [])
    else if (AMap.find d.cheda.locked key).isSome then (d, St.keyLocked, [])
    else match (List.range 16).find? (fun i => (d.session (i + 1)).isNone) with
      | none => (d.raise 0x2A 4 host 16, St.sessionFull, [])
      | some i =>
        if (d.sessionOfHost host).isSome && !bit priv 7 then (d, St.hostIdBusy, [])
        else
          let r := d.drawBytes 16
          let d := r.2
          let s : Session := { opening := true, closing := false, keyId := key, priv := priv % 4, ctrRead := bit k.perm 0, hostId := host
                               takeover := bit priv 7, hostNonce := (par.drop 4).take 16, devNonce := r.1, sk := []
                               openTb := d.time.tb, lastTb := d.time.tb, addr := a, hs := none, acc := [], minSev := 5
                               evSeq := 1, shed := {} }
          (d.putSession (i + 1) s, St.ok, beBytes 1 (i + 1) ++ zeros 3 ++ r.1 ++ beBytes 8 d.nv.serial)

/-- What the host's proof must be (R283). -/
def Dev.hostProof (d : Dev) (slot : Nat) (s : Session) : List Byte :=
  let k := (AMap.find d.nv.keys s.keyId).map (fun (k : KeyRec) => k.key)
  hmac256 (k.getD []) (ascii ['C', 'H', 'E', 'D', 'A', '-', 'O', 'P', 'E', 'N'] ++ s.hostNonce ++ s.devNonce ++ beBytes 1 slot ++
    beBytes 1 (s.priv + (if s.takeover then 128 else 0)) ++ beBytes 2 s.hostId ++ beBytes 8 d.nv.serial)

/-- A PROOF_FAILED on a key (R283): eight within 60 s lock it. -/
def Dev.proofFailed (d : Dev) (key : Nat) : Dev :=
  let now := d.time.tb
  let fs := (AMap.get d.cheda.fails key []).filter (fun t => decide (now < t + 60000000000)) ++ [now]
  let d := (d.bump F.CHEDA_CNT_D.PROOF_FAIL 1).raise 0x2A 1 key 1
  if 8 ≤ fs.length then
    ({ d with cheda := { d.cheda with fails := AMap.del d.cheda.fails key, locked := AMap.put d.cheda.locked key now } }).raise 0x2A 2 key 8
  else { d with cheda := { d.cheda with fails := AMap.put d.cheda.fails key fs } }

/-- SESSION_PROVE (R283): par is SESSION, PROOF. -/
def Dev.sessionProve (d : Dev) (a : Addr) (par : List Byte) : Dev × Nat × List Byte :=
  let slot := beAt par 0 1
  match d.session slot with
  | none => (d, St.valueInvalid, [])
  | some s =>
    if !s.opening then (d, St.valueInvalid, [])
    else if (par.drop 4).take 32 ≠ d.hostProof slot s then ((d.closeSession slot).proofFailed s.keyId, St.proofFailed, [])
    else
      let old := d.sessionOfHost s.hostId
      let d := match old with
        | some o => if s.takeover then (d.closeSession o).raise 0x2A 5 s.hostId 1 else d
        | none => d
      let k := ((AMap.find d.nv.keys s.keyId).map (fun (k : KeyRec) => k.key)).getD []
      let sk := hmac256 k (ascii ['C', 'H', 'E', 'D', 'A', '-', 'S', 'E', 'S', 'S', 'I', 'O', 'N'] ++ s.hostNonce ++ s.devNonce ++ beBytes 1 slot)
      let proof := hmac256 k (ascii ['C', 'H', 'E', 'D', 'A', '-', 'D', 'E', 'V', 'I', 'C', 'E'] ++ s.devNonce ++ s.hostNonce ++ beBytes 1 slot)
      (d.putSession slot { s with opening := false, sk := sk, addr := a, lastTb := d.time.tb }, St.ok, proof)

/-! ## Items and the ledger (R287, R289) -/

/-- Adds an entry to the ledger, which keeps 1,048,576. -/
def Dev.ledgerAdd (d : Dev) (e : LedgerRec) : Dev :=
  let l := d.cheda.ledger ++ [e]
  let extra := l.length - 1048576
  let d := { d with cheda := { d.cheda with ledger := l.drop extra, ledgerDropped := d.cheda.ledgerDropped + extra } }
  if extra ≠ 0 && d.cheda.ledgerDropped % 1048576 = 1 then d.raise 0x2A 8 0 d.cheda.ledgerDropped else d

/-- Takes an item: its number, record, ledger entry, counts. -/
def Dev.newItem (d : Dev) (src : ItemSrc) (op host : Nat) : Dev × Nat :=
  let i := d.cheda.nextItem
  let r : ItemRec := { id := i, src := src, op := op, hostId := host, fin := none, refer := false, result := [], csn := 0, told := false
                       finTb := 0, takenTb := d.time.tb, staged := false, committed := false }
  let d := { d with cheda := { d.cheda with nextItem := i + 1, items := d.cheda.items ++ [r] } }
  let d := d.ledgerAdd { hostId := host, seq := src.seq, tag := src.tag, op := op, status := St.pending, unit := d.rd F.SLV_STAT.UNIT_ID
                         csn := 0, item := some i }
  (((d.bumpWrap F.CHEDA_CNT_C.ITEMS 1).count 0x61), i)

/-! ## Replies and completions (R286, R288) -/

/-- The status an item shows now. -/
def ItemRec.status (r : ItemRec) : Nat :=
  match r.fin with
  | some s => s
  | none => if r.refer then St.refer else St.pending

/-- An item's entry as it stands. -/
def ItemRec.entry (r : ItemRec) : List Byte :=
  entryBytes r.src.tag r.op r.status (if r.fin.isSome then r.result else [])

/-- The items of a reply, in order. -/
def Dev.replyItems (d : Dev) (r : ReplyRec) : List ItemRec := r.items.filterMap d.item

/-- Every item has a final status. -/
def Dev.replyDone (d : Dev) (r : ReplyRec) : Bool := (d.replyItems r).all (fun (i : ItemRec) => i.fin.isSome)

/-- Marks items whose final status has been told. -/
def Dev.tell (d : Dev) (items : List Nat) : Dev :=
  { d with cheda := { d.cheda with items := d.cheda.items.map (fun (r : ItemRec) =>
    if items.contains r.id && r.fin.isSome then { r with told := true } else r) } }

/-- The packets of a reply, in parts. -/
def Dev.replyParts (d : Dev) (r : ReplyRec) : List (List ItemRec) :=
  let room := d.roomOf r.addr 2 - 12 - (if r.slot = 0 then 0 else 16)
  splitParts (fun (i : ItemRec) => i.entry.length) room (d.replyItems r)

/-- An item whose final OK, once told, resets the unit 1 ms after its packet left: SYSTEM_RESET, FIRMWARE_ACTIVATE with BOOT_NOW. -/
def Dev.itemResets (d : Dev) (i : ItemRec) : Bool := i.fin = some St.ok && (i.op = 0x0A03 || d.boot.bootNow = some i.id)

/-- Sends a reply as it stands, to the addresses of the packet it answers; a probe's first part is timestamped, a reset follows the
last (R332, R296). -/
def Dev.sendReply (d : Dev) (r : ReplyRec) : Dev :=
  let parts := d.replyParts r
  let its := d.replyItems r
  let probe := (its.find? (fun (i : ItemRec) => i.op = 0x0802 && i.fin.isNone && i.result.length = 24)).map (fun (i : ItemRec) => i.id)
  let reset := its.any d.itemResets
  let d := forEach parts.zipIdx (fun (x : List ItemRec × Nat) (d : Dev) =>
    let pk := d.packet 1 r.slot x.1.length r.seq x.2 parts.length (x.1.flatMap ItemRec.entry)
    (d.sendCheda r.addr 2 0 pk (reset && x.2 + 1 = parts.length) (if x.2 = 0 then probe else none)).1) d
  d.tell r.items

/-- After a reply: a closing session closes, a reply of session 0 is not kept. -/
def Dev.afterReply (d : Dev) (r : ReplyRec) : Dev :=
  let rs := if r.slot = 0 then d.cheda.replies.filter (fun (x : ReplyRec) => x ≠ r)
    else d.cheda.replies.map (fun (x : ReplyRec) => if x.slot = r.slot && x.seq = r.seq then { x with sent := true } else x)
  let d := { d with cheda := { d.cheda with replies := rs } }
  let close := (d.replyItems r).any (fun (i : ItemRec) => i.op = 0x0003 && i.fin = some St.ok)
  match d.session r.slot with
  | some s => if s.closing && close then d.closeSession r.slot else d.gcItems
  | none => d.gcItems

/-- REPLY_SEND (R288): every item is final, or REPLY_WAIT has passed since the last item was taken. -/
def Dev.replySend (d : Dev) (slot seq : Nat) : Dev :=
  match d.cheda.replies.find? (fun (r : ReplyRec) => r.slot = slot && r.seq = seq && !r.sent) with
  | none => d
  | some r =>
    if d.replyDone r then (d.sendReply r).afterReply r
    else d.fire (r.lastTb + 10000 * max 1 (d.rd F.CHEDA_CFG.REPLY_WAIT)) (fun d => (d.sendReply r).afterReply r)

/-- COMPLETION_SEND (R288): entries of a sequence that have become final since its last reply or completion, to the addresses of the
session's most recent packet. -/
def Dev.completionSend (d : Dev) (slot seq : Nat) : Dev :=
  match d.cheda.replies.find? (fun (r : ReplyRec) => r.slot = slot && r.seq = seq && r.sent), d.session slot with
  | some r, some s =>
    let new := (d.replyItems r).filter (fun (i : ItemRec) => i.fin.isSome && !i.told)
    if new.isEmpty then d
    else
      let room := d.roomOf s.addr 2 - 28
      let d := forEach (splitParts (fun (i : ItemRec) => i.entry.length) room new) (fun (p : List ItemRec) (d : Dev) =>
        let pk := d.packet 2 slot p.length seq 0 1 (p.flatMap ItemRec.entry)
        (((d.sendCheda s.addr 2 0 pk (p.any d.itemResets) none).1).bumpWrap F.CHEDA_CNT_E.COMPLETIONS 1).count 0x65) d
      (d.tell (new.map (fun (i : ItemRec) => i.id))).gcItems
  | _, _ => d

/-- REFER for the items chosen that have no final status, in one completion per sequence (R290); at a thermal shut-down (`all`) also
for the sequences whose reply has not left yet. -/
def Dev.referAll (d : Dev) (all : Bool) (sel : ItemRec → Bool) : Dev :=
  let ids := (d.cheda.items.filter (fun (r : ItemRec) => r.fin.isNone && !r.refer && sel r)).map (fun (r : ItemRec) => r.id)
  let d := { d with cheda := { d.cheda with items := d.cheda.items.map (fun (r : ItemRec) =>
    if ids.contains r.id then { r with refer := true } else r) } }
  let d := d.bump F.CHEDA_CNT_E.REFERRED ids.length
  let d := forEach ids (fun _ (d : Dev) => d.count 0x66) d
  forEach d.cheda.replies (fun (r : ReplyRec) (d : Dev) =>
    match d.session r.slot with
    | none => d
    | some s =>
      let mine := (d.replyItems r).filter (fun (i : ItemRec) => ids.contains i.id)
      if mine.isEmpty || !(r.sent || all) then d
      else
        let pk := d.packet 2 r.slot mine.length r.seq 0 1 (mine.flatMap ItemRec.entry)
        (((d.sendCheda s.addr 2 0 pk false none).1).bumpWrap F.CHEDA_CNT_E.COMPLETIONS 1).count 0x65) d

/-! ## Taking a packet off the wire (R273, R274, R277 - R279) -/

/-- A packet as parsed: flags, session, sequence, items. -/
structure CmdPacket where
  stop : Bool
  slot : Nat
  seq : Nat
  items : List RawItem
  deriving DecidableEq, Repr

/-- Reads the items of a body; none where the sizes or the padding do not fit. -/
def parseItems : Nat → List Byte → Option (List RawItem × List Byte)
  | 0, rest => some ([], rest)
  | n + 1, bs =>
    let len := beAt bs 4 2
    let size := (8 + len + 3) / 4 * 4
    if bs.length < size then none
    else if !((bs.drop (8 + len)).take (size - 8 - len)).all (fun b => b = 0) then none
    else match parseItems n (bs.drop size) with
      | none => none
      | some (is, rest) => some ({ op := beAt bs 0 2, tag := beAt bs 2 2, par := (bs.drop 8).take len } :: is, rest)

/-- Reads a packet's form (R277 - R279, all but the session's state and AUTH); none is a bad packet. -/
def parsePacket (bs : List Byte) : Option CmdPacket :=
  let flags := beAt bs 1 1
  let slot := beAt bs 2 1
  let count := beAt bs 3 1
  let len := beAt bs 8 2
  if bs.length < 12 || beAt bs 0 1 ≠ 1 || bits flags 2 0 ≠ 0 || bit flags 4 || beAt bs 10 1 ≠ 0 || beAt bs 11 1 ≠ 1 ||
     count = 0 || 64 < count || bs.length < len || len < 12 then none
  else
    let body := (bs.take len).drop 12
    match parseItems count body with
    | none => none
    | some (is, rest) =>
      if rest.length ≠ (if slot = 0 then 0 else 16) || 16 < slot then none
      else some { stop := bit flags 3, slot := slot, seq := beAt bs 4 4, items := is }

/-- The unit's own IPv6 addresses on a port (R274). -/
def Dev.ip6Addrs (d : Dev) (p : Nat) : List Nat :=
  let a := d.station p
  let ll := 0xFE80 * 2 ^ 112 + (a / 2 ^ 24 ^^^ 0x020000) * 2 ^ 40 + 0xFFFE * 2 ^ 24 + a % 2 ^ 24
  let set := (List.range 4).foldl (fun acc w => acc * 2 ^ 32 + d.rd (F.CHEDA_IP6.ADDR p w)) 0
  if set = 0 then [ll] else [ll, set]

/-- UDP_PORT, 0 taken as 47,102. -/
def Dev.udpPort (d : Dev) : Nat := if d.rd F.CHEDA_CFG.UDP_PORT = 0 then 47102 else d.rd F.CHEDA_CFG.UDP_PORT

/-- What a frame of RX queues 2-7 holds for Cheda: the reply address and the packet's bytes; `badDst` where the destination address
is not one of the unit's. -/
inductive Carried where
  | packet (a : Addr) (bytes : List Byte)
  | badDst
  | other
  deriving DecidableEq, Repr

def Dev.carried (d : Dev) (f : RxFrame) : Carried :=
  let e := parseEth f.bytes
  if e.etype = 0x88B5 then .packet { port := f.port, mac := e.src, tag := e.tag, carrier := .raw } e.body
  else match d.ipStage f.port e with
    | .good ip =>
      if ip.proto ≠ 17 || beAt ip.l4 2 2 ≠ d.udpPort then .other
      else
        let mine := if ip.v6 then (d.ip6Addrs f.port).contains ip.dst
          else ip.dst ≠ 0 && ip.dst = d.rd (F.CHEDA_IP4.ADDR f.port)
        if !mine then .badDst
        else
          let udp := beAt ip.l4 0 2
          let c : Carrier := if ip.v6 then .ip6 ip.src ip.dst udp else .ip4 ip.src udp
          .packet { port := f.port, mac := e.src, tag := e.tag, carrier := c } ((ip.l4.drop 8).take (beAt ip.l4 4 2 - 8))
    | _ => .other

/-! ## The assists of RX queue 1 (R274) -/

/-- An echo or neighbour or ARP reply leaves on REPLY. -/
def Dev.assistSend (d : Dev) (p dst : Nat) (tag : Option Nat) (body : List Byte) : Dev :=
  (d.enqueueTx p 2 (d.mkFrame p 2 dst (tag.map (fun t => t % 4096)) body)).1

/-- At most 100 echo replies per second and port. -/
def Dev.echoAllowed (d : Dev) (p : Nat) : Dev × Bool :=
  let now := d.time.tb
  let ts := (AMap.get d.cheda.icmp p []).filter (fun t => decide (now < t + 1000000000))
  if 100 ≤ ts.length then (d, false)
  else ({ d with cheda := { d.cheda with icmp := AMap.put d.cheda.icmp p (ts ++ [now]) } }, true)

/-- An ICMPv6 message with its checksum. -/
def icmp6Bytes (src dst : Nat) (kind : Nat) (rest : List Byte) : List Byte :=
  let m0 := beBytes 1 kind ++ [0, 0, 0] ++ rest
  let pseudo := beBytes 16 src ++ beBytes 16 dst ++ beBytes 4 m0.length ++ beBytes 4 58
  beBytes 1 kind ++ [0] ++ beBytes 2 (foldSum (onesSum pseudo + onesSum m0)) ++ rest

/-- An ARP request, a neighbour solicitation or an echo request is answered without a core. -/
def Dev.assist (d : Dev) (f : RxFrame) : Dev :=
  let e := parseEth f.bytes
  let p := f.port
  let me := d.station p
  if e.etype = 0x0806 then
    let b := e.body
    let ip := d.rd (F.CHEDA_IP4.ADDR p)
    if beAt b 6 2 = 1 && ip ≠ 0 && beAt b 24 4 = ip then
      d.assistSend p e.src e.tag (beBytes 2 0x0806 ++ beBytes 8 0x0001080006040002 ++ beBytes 6 me ++ beBytes 4 ip ++
        beBytes 6 (beAt b 8 6) ++ beBytes 4 (beAt b 14 4))
    else d
  else match d.ipStage p e with
    | .good ip =>
      let m := ip.l4
      if !ip.v6 then
        if ip.proto = 1 && beAt m 0 1 = 8 && ip.dst ≠ 0 && ip.dst = d.rd (F.CHEDA_IP4.ADDR p) && decide (m.length ≤ 1480) then
          let r := d.echoAllowed p
          if !r.2 then r.1
          else
            let m0 := [0, 0, 0, 0] ++ m.drop 4
            let m1 := [0, 0] ++ beBytes 2 (foldSum (onesSum m0)) ++ m.drop 4
            r.1.assistSend p e.src e.tag (beBytes 2 0x0800 ++ ip4Bytes 1 ip.dst ip.src m1)
        else d
      else if ip.proto ≠ 58 then d
      else if beAt m 0 1 = 135 then
        let target := beAt m 8 16
        if !(d.ip6Addrs p).contains target then d
        else
          let body := beBytes 4 0x60000000 ++ beBytes 16 target ++ [2, 1] ++ beBytes 6 me
          d.assistSend p e.src e.tag (beBytes 2 0x86DD ++ ip6Bytes 58 255 target ip.src (icmp6Bytes target ip.src 136 body))
      else if beAt m 0 1 = 128 && (d.ip6Addrs p).contains ip.dst && decide (m.length ≤ 1480) then
        let r := d.echoAllowed p
        if !r.2 then r.1
        else r.1.assistSend p e.src e.tag (beBytes 2 0x86DD ++ ip6Bytes 58 64 ip.dst ip.src (icmp6Bytes ip.dst ip.src 129 (m.drop 4)))
      else d
    | _ => d

/-! ## The window of sequences (R286) -/

/-- How a packet's sequence stands to the session's window: 0 new, 1 duplicate, 2 stale. -/
def Session.window (s : Session) (seq : Nat) : Nat :=
  match s.hs with
  | none => 0
  | some h =>
    if serialAfter seq h then 0
    else if (h + 2 ^ 32 - seq) % 2 ^ 32 ≤ 63 then (if s.acc.contains seq then 1 else 0)
    else 2

/-- Accepts a sequence: Hs, the window, replies that have left it. -/
def Dev.acceptSeq (d : Dev) (slot seq : Nat) (s : Session) : Dev :=
  let h := match s.hs with
    | none => seq
    | some h => if serialAfter seq h then seq else h
  let inWin := fun q => decide ((h + 2 ^ 32 - q) % 2 ^ 32 ≤ 63)
  let d := d.putSession slot { s with hs := some h, acc := (s.acc ++ [seq]).filter inWin }
  let d := { d with cheda := { d.cheda with replies := d.cheda.replies.filter (fun (r : ReplyRec) =>
    r.slot ≠ slot || inWin r.seq || !r.sent || (d.replyItems r).any (fun (i : ItemRec) => !i.told)) } }
  d.gcItems

/-- A duplicate (R286): the reply as it stands is sent again, or the first one still serves both. -/
def Dev.duplicate (d : Dev) (slot seq : Nat) (a : Addr) : Dev :=
  let d := (d.bump F.CHEDA_CNT_B.DUPLICATES 1).count 0x64
  match d.cheda.replies.find? (fun (r : ReplyRec) => r.slot = slot && r.seq = seq) with
  | some r => if r.sent then d.sendReply { r with addr := a } else d
  | none => d

/-- A stale packet (R286). -/
def Dev.stale (d : Dev) (slot seq : Nat) (a : Addr) : Dev :=
  let d := (d.bump F.CHEDA_CNT_B.STALE 1).raise 0x2A 11 slot 1
  (d.sendCheda a 2 0 (d.packet 0x11 slot 0 seq 0 1 []) false none).1

/-- A packet dropped whole (R279). -/
def Dev.badPacket (d : Dev) (slot : Nat) : Dev := (d.bump F.CHEDA_CNT_A.BAD_PACKET 1).raise 0x2A 3 slot 1

end Sys2Proof.Machine
end

