-- ==== Sys2Proof/Machine/Events.lean ====
section
/-! DEFINITION. Faults and events (chapter 17, R364 - R381): the arbiters, fault state and recovery, escalation, injection, ALERT_N,
pending records, EVENT packets and summaries, the logs. -/

namespace Sys2Proof.Machine

/-- Class and stated severity of sources 0-11 of a block (R381). -/
def evRow (b : Nat) : List (Nat × Nat) :=
  if b = 0x00 then
    [(15, 0), (1, 2), (1, 4), (1, 3), (14, 3), (14, 1), (1, 1), (15, 0), (14, 3), (1, 2), (2, 0), (1, 3)]
  else if b = 0x01 then
    [(15, 0), (14, 3), (14, 2), (14, 4), (2, 3), (14, 3), (14, 1), (14, 2), (14, 2), (2, 2), (15, 0), (1, 3)]
  else if b = 0x02 then
    [(1, 2), (1, 2), (1, 2), (3, 1), (1, 1), (1, 2), (14, 3), (12, 1), (3, 1), (1, 1), (1, 1), (1, 3)]
  else if b = 0x03 then
    [(2, 3), (2, 0), (2, 2), (2, 1), (8, 1), (15, 0), (15, 0), (15, 0), (2, 1), (2, 2), (2, 1), (3, 1)]
  else if b = 0x04 then
    [(2, 2), (2, 2), (2, 0), (2, 3), (2, 1), (2, 2), (2, 4), (2, 1), (2, 2), (2, 1), (2, 2), (2, 2)]
  else if decide (0x05 ≤ b) && decide (b ≤ 0x08) then
    [(6, 1), (6, 1), (7, 1), (6, 1), (15, 0), (1, 3), (6, 1), (15, 0), (7, 0), (4, 1), (3, 1), (3, 2)]
  else if b = 0x09 then
    [(10, 1), (10, 1), (10, 1), (10, 1), (10, 2), (10, 2), (10, 2), (10, 2), (2, 2), (15, 1), (11, 1), (10, 1)]
  else if b = 0x0A then
    [(7, 0), (3, 1), (3, 1), (1, 2), (7, 0), (15, 0), (1, 3), (7, 0), (15, 0), (15, 0), (1, 2), (3, 0)]
  else if b = 0x0B then
    [(1, 2), (1, 2), (1, 2), (1, 2), (1, 3), (1, 1), (1, 1), (1, 2), (1, 2), (1, 2), (1, 1), (1, 2)]
  else if b = 0x0C then
    [(6, 2), (7, 2), (7, 0), (7, 2), (7, 2), (7, 1), (7, 2), (7, 0), (7, 1), (7, 2), (7, 1), (7, 1)]
  else if decide (0x0D ≤ b) && decide (b ≤ 0x1C) then
    [(4, 2), (4, 3), (4, 2), (4, 1), (4, 1), (4, 1), (5, 2), (5, 3), (5, 3), (11, 2), (9, 1), (9, 2)]
  else if b = 0x1D || b = 0x1E then
    [(9, 1), (9, 2), (9, 0), (9, 1), (9, 0), (9, 0), (9, 1), (9, 2), (9, 1), (9, 2), (10, 2), (9, 1)]
  else if b = 0x1F then
    [(9, 1), (8, 1), (8, 2), (8, 1), (15, 0), (11, 3), (9, 2), (9, 3), (9, 1), (9, 1), (12, 0), (9, 0)]
  else if b = 0x20 then
    [(8, 1), (8, 2), (8, 4), (8, 1), (8, 2), (8, 3), (5, 1), (5, 1), (15, 0), (15, 0), (15, 0), (8, 4)]
  else if b = 0x21 then
    [(3, 2), (3, 1), (15, 0), (3, 2), (3, 2), (6, 1), (6, 2), (3, 1), (1, 2), (2, 1), (15, 0), (3, 1)]
  else if b = 0x22 || b = 0x23 || b = 0x24 then
    [(4, 2), (4, 2), (4, 1), (4, 1), (4, 1), (4, 1), (4, 1), (4, 0), (4, 0), (4, 1), (12, 0), (4, 0)]
  else if b = 0x25 then
    [(4, 1), (4, 1), (4, 1), (4, 0), (12, 0), (4, 0), (4, 2), (4, 3), (4, 1), (4, 2), (4, 1), (4, 1)]
  else if b = 0x26 then
    [(12, 2), (12, 1), (12, 1), (12, 0), (12, 1), (15, 0), (10, 0), (12, 2), (12, 0), (12, 1), (12, 0), (12, 1)]
  else if b = 0x27 then
    [(12, 0), (12, 0), (12, 0), (12, 0), (12, 0), (12, 0), (12, 0), (12, 0), (12, 0), (12, 0), (12, 1), (12, 1)]
  else if b = 0x28 then
    [(15, 0), (10, 1), (10, 2), (10, 1), (10, 1), (10, 0), (10, 1), (4, 1), (10, 0), (10, 1), (10, 3), (10, 1)]
  else if b = 0x29 then
    [(11, 1), (11, 3), (11, 2), (11, 3), (11, 2), (15, 0), (11, 1), (11, 2), (11, 2), (15, 0), (11, 2), (11, 3)]
  else if b = 0x2A then
    [(12, 1), (14, 1), (14, 2), (12, 0), (12, 1), (12, 0), (1, 3), (12, 1), (12, 0), (12, 0), (14, 0), (12, 0)]
  else if b = 0x2B then
    [(15, 0), (12, 1), (12, 1), (15, 0), (15, 0), (1, 2), (12, 0), (14, 0), (15, 0), (15, 0), (15, 0), (1, 1)]
  else if b = 0x2C then
    [(13, 0), (13, 1), (13, 0), (15, 0), (13, 3), (13, 2), (13, 2), (13, 2), (13, 3), (13, 0), (13, 0), (13, 2)]
  else []

/-- Class and stated severity of sources 12-15 of every block (R380). -/
def evCommon : List (Nat × Nat) := [(1, 0), (1, 3), (1, 1), (1, 1)]

/-- Class and stated severity of a source. -/
def evClass (b s : Nat) : Nat × Nat := if s < 12 then (evRow b).getD s (15, 0) else evCommon.getD (s - 12) (1, 1)

/-- The blocks (R367): 0x00-0x2C. -/
def evBlocks : List Nat := List.range 45

def evKey (b s : Nat) (inj : Bool) : Nat := b * 32 + (if inj then 16 else 0) + s

def Dev.srcS (d : Dev) (b s : Nat) (inj : Bool) : SrcS := AMap.get d.ev.src (evKey b s inj) {}

def Dev.updSrc (d : Dev) (b s : Nat) (inj : Bool) (f : SrcS → SrcS) : Dev :=
  { d with ev := { d.ev with src := AMap.set d.ev.src (evKey b s inj) (f (d.srcS b s inj)) {} } }

/-- The fields of a block's fault state, real or injected. -/
def fActive (b : Nat) (inj : Bool) : Fld := if inj then F.EV_INJ_STATUS.INJ_ACTIVE b else F.EV_STATUS.ACTIVE b
def fUnack (b : Nat) (inj : Bool) : Fld := if inj then F.EV_INJ_STATUS.INJ_UNACK b else F.EV_STATUS.UNACK b

/-- Sets a source's level; the real one shows in EV_LEVEL. -/
def Dev.putLevel (d : Dev) (b s : Nat) (inj : Bool) (l : Nat) : Dev :=
  let d := d.updSrc b s inj (fun x => { x with lvl := l })
  if inj then d
  else if s < 8 then d.wr (F.EV_LEVEL_LO.LEVEL b s) l else d.wr (F.EV_LEVEL_HI.LEVEL b s) l

def Dev.isActiveSrc (d : Dev) (b s : Nat) (inj : Bool) : Bool := bit (d.rd (fActive b inj)) s
def Dev.isUnack (d : Dev) (b s : Nat) (inj : Bool) : Bool := bit (d.rd (fUnack b inj)) s

def Dev.quietNs (d : Dev) (b : Nat) : Nat := 1000000 * max 1 (d.rd (F.EV_QUIET.QUIET_MS b))
def Dev.coalNs (d : Dev) (b : Nat) : Nat := 1000000 * max 1 (d.rd (F.EV_QUIET.COAL_MS b))
def Dev.alertSev (d : Dev) (b : Nat) : Nat := min 4 (d.rd (F.EV_QUIET.ALERT_SEV b))

/-! ## ALERT_N (R375) -/

/-- Block b pulls ALERT_N low. -/
def Dev.pullsAlert (d : Dev) (b : Nat) : Bool :=
  (List.range 16).any (fun s => !bit (d.rd (F.EV_MASK.ALERT_MASK b)) s && [false, true].any (fun inj =>
    d.isActiveSrc b s inj && d.isUnack b s inj && decide ((d.srcS b s inj).lvl ≤ 4) && decide (d.alertSev b ≤ (d.srcS b s inj).lvl)))

/-- ALERT_N is low: a block pulls it, or Therm holds it in shut-down (R232). -/
def Dev.alert (d : Dev) : Bool := 0 < d.therm.shut || evBlocks.any d.pullsAlert

/-- Publishes the pin to the monitors (R385, signal 18). -/
def Dev.alertPin (d : Dev) : Dev := d.signal 18 (!d.alert)

/-! ## Records (R301, R376) -/

/-- The 32 bytes of a record. -/
def EvRec.bytes (r : EvRec) : List Byte :=
  beBytes 1 r.block ++ beBytes 1 r.src ++
  beBytes 1 (r.sev + (if r.coal then 16 else 0) + (if r.recov then 32 else 0) + (if r.esc then 64 else 0) + (if r.inj then 128 else 0)) ++
  beBytes 1 r.cls ++ beBytes 4 (min r.count (2 ^ 32 - 1)) ++ beBytes 8 r.pick ++ beBytes 8 r.time ++ beBytes 4 r.obj ++ beBytes 4 r.val

def EvRec.isOf (r : EvRec) (b s : Nat) (inj : Bool) : Bool := r.block = b && r.src = s && r.inj = inj

/-- The pending record of a source and kind. -/
def Dev.pendRec (d : Dev) (b s : Nat) (inj : Bool) : Option EvRec := d.ev.pend.find? (fun r => r.isOf b s inj)

/-- Writes a record to the event log in Loam, and a CRITICAL or FATAL one to Marl's buffer (R379). -/
def Dev.logLoam (d : Dev) (r : EvRec) : Dev :=
  let l := d.ev.log ++ [r]
  let d := { d with ev := { d.ev with log := keepLast 8388608 l, logNext := d.ev.logNext + 1 } }
  if d.ev.logNext % 8388608 = 1 && decide (8388608 < d.ev.logNext) then d.raise 0x03 7 0 0 else d

def Dev.logMarl (d : Dev) (r : EvRec) : Dev :=
  let tb := if d.marl.buf.isEmpty then d.time.tb else d.marl.bufTb
  { d with marl := { d.marl with buf := d.marl.buf ++ [r], bufTb := tb } }

/-- A further occurrence joins a pending record. -/
def EvRec.join (r : EvRec) (l : Nat) (esc : Bool) (obj val sentLvl : Nat) : EvRec :=
  { r with
    count := r.count + 1
    coal := true
    sev := max r.sev l
    esc := r.esc || esc
    obj := obj
    val := val
    hold := if sentLvl < l then 0 else r.hold }

/-- Counts one coalesced record for the sessions that it would reach (R378). -/
def Dev.countCoal (d : Dev) (b s l : Nat) : Dev :=
  if bit (d.rd (F.EV_MASK.REPORT_MASK b)) s then d
  else { d with cheda := { d.cheda with sessions := d.cheda.sessions.map (fun (ks : Nat × Session) =>
    if !ks.2.opening && ks.2.minSev ≤ l then (ks.1, { ks.2 with shed := { ks.2.shed with coal := ks.2.shed.coal + 1 } }) else ks) } }

/-- Opens a pending record, or adds to the one pending. -/
def Dev.record (d : Dev) (b : Nat) (o : Occ) (l : Nat) (esc : Bool) : Dev :=
  let x := d.srcS b o.src o.inj
  let sentLvl := (x.sent.map (fun (p : Nat × Nat) => p.2)).getD 7
  match d.pendRec b o.src o.inj with
  | some _ =>
    let d := { d with ev := { d.ev with pend := d.ev.pend.map (fun (r : EvRec) =>
      if r.isOf b o.src o.inj then r.join l esc o.obj o.val sentLvl else r) } }
    d.countCoal b o.src l
  | none =>
    let hold := match x.sent with
      | some (t, sl) => if sl < l || t + d.coalNs b ≤ d.time.tb then 0 else t + d.coalNs b
      | none => 0
    let r : EvRec := { block := b, src := o.src, sev := l, coal := false, recov := false, esc := esc, inj := o.inj, cls := (evClass b o.src).1
                       count := 1, pick := o.pick, time := o.time, obj := o.obj, val := o.val, since := d.time.tb, hold := hold }
    { d with ev := { d.ev with pend := d.ev.pend ++ [r] } }

/-! ## Granting (R369, R372 - R374) -/

/-- The highest level among the block's active unacknowledged sources of a class. -/
def Dev.classLevel (d : Dev) (b cls : Nat) (inj : Bool) : Option Nat :=
  let ls := (List.range 16).filterMap (fun s =>
    if (evClass b s).1 = cls && d.isActiveSrc b s inj && d.isUnack b s inj && decide ((d.srcS b s inj).lvl ≤ 4) then some (d.srcS b s inj).lvl else none)
  ls.foldl (fun acc l => match acc with
    | none => some l
    | some m => some (max m l)) none

/-- The repeat takes steps 1 and 4 only: a record of it is pending, or was sent within COAL_MS. -/
def Dev.isRepeat (d : Dev) (b s : Nat) (inj : Bool) : Bool :=
  (d.pendRec b s inj).isSome || (match (d.srcS b s inj).sent with
    | some (t, _) => decide (d.time.tb < t + d.coalNs b)
    | none => false)

/-- The level of an occurrence (R372). -/
def Dev.levelOf (d : Dev) (b : Nat) (o : Occ) : Nat :=
  let sev := o.sev.getD (evClass b o.src).2
  if d.isRepeat b o.src o.inj then sev
  else match d.classLevel b (evClass b o.src).1 o.inj with
    | some m => min 4 (max sev (m + 1))
    | none => sev

/-- Grants one occurrence: recorded, counted, escalated, reported. -/
def Dev.grantOcc (d : Dev) (b : Nat) (o : Occ) : Dev :=
  let s := o.src
  -- VALUE of class LNK: occurrences since the last record (R366)
  let o := if (evClass b s).1 = 4 && !o.inj then { o with val := ((d.pendRec b s false).map (fun (r : EvRec) => r.count)).getD 0 + 1 } else o
  let l := d.levelOf b o
  let esc := decide (o.sev.getD (evClass b s).2 < l)
  let was := (d.srcS b s o.inj).lvl
  let d := d.record b o l esc
  let d := d.putLevel b s o.inj (if was = 7 then l else max l was)
  let d := (d.wr (fActive b o.inj) (putBit (d.rd (fActive b o.inj)) s true)).wr (fUnack b o.inj) (putBit (d.rd (fUnack b o.inj)) s true)
  let d := d.updSrc b s o.inj (fun x => { x with quietFrom := d.time.tb, obj := o.obj, val := o.val })
  let d := if o.inj then
      let d := (d.bump (F.EV_INJ_CNT.INJECTED b) 1).countQ 0x75 b
      let c := cellNo (o.obj / 65536 % 65536) (o.obj / 4096 % 16) (o.obj / 4 % 1024)
      if b = 0x0C && s = 0 && o.obj / 4096 % 16 < 15 && o.obj / 4 % 1024 < 256 && o.obj / 65536 < 16 &&
          d.tileRole (o.obj / 65536) ≠ 0 && d.controls && d.tileMode (o.obj / 65536) ≠ Tm.offline then d.faultCell c 4 else d
    else
      let d := (d.bump (F.EV_COUNT.OCCUR b s) 1).countQ (0x70 + l) b
      let d := if 0x0D ≤ b && b < 0x1D && 2 ≤ l then d.tilthTileFault (b - 0x0D) else d
      let d := if d.flag (F.EV_FIRST.VALID b) then d
        else
          let d := (((d.wr (F.EV_FIRST.SOURCE b) s).wr (F.EV_FIRST.SEV b) l).wr (F.EV_FIRST.VALID b) 1).wr (F.EV_FIRST.CLASS b) (evClass b s).1
          let d := { d.wr (F.EV_FIRST_PICK_LO.PICK b) o.pick with ev := { d.ev with firstHi := AMap.set d.ev.firstHi b (o.pick / 2 ^ 32) 0 } }
          (d.wr (F.EV_FIRST_OBJ.OBJECT b) o.obj).wr (F.EV_FIRST_VAL.VALUE b) o.val
      if 3 ≤ l then
        let r : EvRec := { block := b, src := s, sev := l, coal := false, recov := false, esc := esc, inj := false, cls := (evClass b s).1
                           count := 1, pick := o.pick, time := o.time, obj := o.obj, val := o.val, since := d.time.tb, hold := 0 }
        (d.logLoam r).logMarl r
      else d
  d.alertPin

/-- The next occurrence that a block's arbiter takes: all that are presented and not acknowledged are one handshake (R458), granted in
rotating order after the source granted last (R373). -/
def nextOcc (last : Nat) (os : List Occ) : Option Occ :=
  ((List.range 16).map (fun i => (last + 1 + i) % 16)).findSome? (fun s => os.find? (fun o => o.src = s))

/-- EVENT_GRANT (R373): block b's arbiter grants an occurrence. -/
def Dev.eventGrant (d : Dev) (b : Nat) : Dev :=
  let os := AMap.get d.ev.waiting b []
  match nextOcc (AMap.get d.ev.rot b 15) os with
  | none => d
  | some o =>
    let d := { d with ev := { d.ev with waiting := AMap.set d.ev.waiting b (os.erase o) [], rot := AMap.put d.ev.rot b o.src } }
    d.grantOcc b o

/-- EV_INJECT.GO reads 1: an injected occurrence waits for its grant. -/
def Dev.injecting (d : Dev) (b : Nat) : Bool := (AMap.get d.ev.waiting b []).any (fun (o : Occ) => o.inj)

/-- GO_INJECT (R374): a write of EV_INJECT with GO = 1; GO has no effect while it reads 1 (R8). -/
def Dev.goInject (d : Dev) (b v : Nat) : Dev :=
  let d := d.wr (F.EV_INJECT.SOURCE b) (bits v 3 0)
  if d.injecting b then d
  else d.present b { src := bits v 3 0, sev := none, obj := d.rd (F.EV_INJ_ARG.ARG b), val := 0, inj := true, pick := d.pick.num, time := d.ptpNow }

/-! ## Recovery and acknowledgement (R369 - R371) -/

/-- A source that describes a state which stands now (R369). -/
def Dev.heldSrc (d : Dev) (b s : Nat) : Bool :=
  if b = 0x09 then
    if s < 4 then d.trkState s = 3 else s < 8 && d.trkState (s - 4) = 4
  else if b = 0x0C then s = 0 && d.cell.aux.any (fun (ca : Nat × CellAux) => d.cellMode ca.1 = Cm.faulted)
  else if 0x0D ≤ b && b ≤ 0x1C then
    let t := b - 0x0D
    match s with
    | 1 => !d.linkUp t
    | 2 => d.rd (F.WEFT_STAT.LINK t) = 3
    | 3 => d.linkUp t && decide ((d.link t).lanes ≠ 63)
    | 6 => d.tileMode t = Tm.holdover
    | 7 => d.tileMode t = Tm.offline && d.tileRole t ≠ 0
    | 8 => (d.link t).fatal
    | 9 => (d.link t).claimRej
    | _ => false
  else if b = 0x1F then
    match s with
    | 1 => (List.range 16).any (fun t => d.flag (F.TEC_STAT.HELD t))
    | 2 => (List.range 16).any (fun t => d.flag (F.TEC_STAT.SAFE t))
    | 3 => (List.range 16).any (fun t => d.flag (F.TEC_STAT.SAT t))
    | 4 => d.flag F.DAC_STAT.CLR_PIN
    | _ => false
  else if b = 0x20 then
    match s with
    | 0 => d.flag F.THERM_STAT.WARN
    | 1 => d.flag F.THERM_STAT.THROTTLE
    | 2 => decide (0 < d.therm.shut)
    | 3 => (List.range 24).any (fun n => d.flag (F.THERM_SENS.FAILED n))
    | 4 => d.flag F.THERM_STAT.SUBST
    | 5 => d.flag F.THERM_STAT.LOWSENS
    | 7 => !d.therm.warned.isEmpty
    | 11 => d.therm.trip
    | _ => false
  else if b = 0x21 then s = 1 && d.flag F.SILT_STAT.BELOW
  else if 0x22 ≤ b && b ≤ 0x24 then
    match s with
    | 0 => !d.flag (F.MAC_STAT.LINK (b - 0x22))
    | 1 => d.flag (F.MAC_STAT.REMOTE_FAULT (b - 0x22))
    | 2 => d.flag (F.MAC_STAT.HI_BER (b - 0x22))
    | _ => false
  else if b = 0x25 then s = 2 && d.flag F.TETH_CTRL.PLCA_EN && !d.flag F.TETH_STAT.PLCA_ACTIVE
  else if b = 0x29 then
    match s with
    | 0 => d.flag F.SLV_STAT.P_LOST || d.flag F.SLV_STAT.T_LOST
    | 7 => d.rd F.SLV_STAT.MIRROR = 3
    | 8 => d.flag F.SLV_STAT.PEER_BEHIND
    | _ => false
  else if b = 0x2C then s = 8 && !d.sup.low.isEmpty
  else if b = 0x00 then s = 2 && !d.time.refclk
  else false

/-- At a boundary: the quiet period of an active source runs from the end of its hold. -/
def Dev.evHolds (d : Dev) : Dev :=
  forEach evBlocks (fun b (d : Dev) =>
    let act := d.rd (F.EV_STATUS.ACTIVE b)
    if act = 0 then d
    else forEach (bitsSet act 16) (fun s (d : Dev) =>
      let h := d.heldSrc b s
      let was := (d.srcS b s false).held
      if h = was then d
      else d.updSrc b s false (fun x => { x with held := h, quietFrom := if h then x.quietFrom else d.time.tb })) d) d

/-- COUNT_CLR at the boundary (R368). -/
def Dev.evClears (d : Dev) : Dev :=
  let bs := d.ev.clearPend
  let d := { d with ev := { d.ev with clearPend := [] } }
  forEach bs (fun b (d : Dev) =>
    let d := d.wr (F.EV_INJ_CNT.INJECTED b) 0
    forEach (List.range 16) (fun s (d : Dev) => (d.wr (F.EV_COUNT.OCCUR b s) 0).wr (F.EV_COUNT.RECOVER b s) 0) d) d

/-- A source leaves its fault state (R370). -/
def Dev.evRecover (d : Dev) (b s : Nat) (inj : Bool) : Dev :=
  let x := d.srcS b s inj
  let tb := d.tbOf d.pick.num
  if !d.pick.started || !d.isActiveSrc b s inj || x.held || (!inj && d.heldSrc b s) || tb < x.quietFrom + d.quietNs b then d
  else
    let d := (d.wr (fActive b inj) (putBit (d.rd (fActive b inj)) s false)).wr (fUnack b inj) (putBit (d.rd (fUnack b inj)) s false)
    let d := if inj then d else d.bump (F.EV_COUNT.RECOVER b s) 1
    let r : EvRec := { block := b, src := s, sev := x.lvl, coal := false, recov := true, esc := false, inj := inj, cls := (evClass b s).1
                       count := 0, pick := d.pick.num, time := d.ptpOf tb, obj := x.obj, val := x.val, since := d.time.tb
                       hold := match x.sent with
                         | some (t, _) => if t + d.coalNs b ≤ d.time.tb then 0 else t + d.coalNs b
                         | none => 0 }
    let d := match d.pendRec b s inj with
      | some _ => { d with ev := { d.ev with pend := d.ev.pend.map (fun (q : EvRec) => if q.isOf b s inj then { q with recov := true } else q) } }
      | none => { d with ev := { d.ev with pend := d.ev.pend ++ [r] } }
    let d := if !inj && 3 ≤ x.lvl && x.lvl ≤ 4 then d.logMarl r else d
    (d.putLevel b s inj 7).alertPin

/-- EVENT_RECOVERY: the real and the injected state of a source. -/
def Dev.eventRecovery (d : Dev) (b s : Nat) : Dev :=
  if 44 < b || 15 < s then d else (d.evRecover b s false).evRecover b s true

/-- Acknowledges sources of a block (R371). -/
def Dev.evAck (d : Dev) (b mask : Nat) (inj : Bool) : Dev :=
  (d.wr (fUnack b inj) (d.rd (fUnack b inj) &&& (65535 - mask % 65536))).alertPin

/-- EVENT_ACK (0x0007): BLOCK, AFLAGS, SOURCES.  Answers the status. -/
def Dev.eventAck (d : Dev) (par : List Byte) : Dev × Nat :=
  let b := beAt par 0 1
  let fl := if beAt par 1 1 % 4 = 0 then 1 else beAt par 1 1
  let m := beAt par 2 2
  if 44 < b && b ≠ 255 then (d, St.valueInvalid)
  else
    let bs := if b = 255 then evBlocks else [b]
    let d := if bit fl 0 then forEach bs (fun b (d : Dev) => d.evAck b m false) d else d
    let d := if bit fl 1 then forEach bs (fun b (d : Dev) => d.evAck b m true) d else d
    (d, St.ok)

/-- VALID: the first-fault record is cleared whole (R368). -/
def Dev.evFirstClear (d : Dev) (b : Nat) : Dev :=
  let d := (((d.wr (F.EV_FIRST.SOURCE b) 0).wr (F.EV_FIRST.SEV b) 0).wr (F.EV_FIRST.VALID b) 0).wr (F.EV_FIRST.CLASS b) 0
  let d := { d with ev := { d.ev with firstHi := AMap.del d.ev.firstHi b } }
  let d := (d.wr (F.EV_FIRST_PICK_LO.PICK b) 0).wr (F.EV_FIRST_PICK_HI.PICK b) 0
  (d.wr (F.EV_FIRST_OBJ.OBJECT b) 0).wr (F.EV_FIRST_VAL.VALUE b) 0

/-- COUNT_CLR: the counts of a block are cleared at the next boundary. -/
def Dev.evCountClr (d : Dev) (b : Nat) : Dev :=
  if d.ev.clearPend.contains b then d else { d with ev := { d.ev with clearPend := d.ev.clearPend ++ [b] } }

/-! ## EVENT packets (R300, R302, R377, R378) -/

/-- The summary record of a session. -/
def Dev.summaryBytes (d : Dev) (s : Shed) : List Byte :=
  [0xFF, 0, 0, 0] ++ beBytes 4 s.trace ++ beBytes 4 s.histo ++ beBytes 4 s.bulk ++ beBytes 4 s.event ++ beBytes 4 s.coal ++
    beBytes 8 d.pick.num

/-- The counts that a frame of the session still waiting does not carry already. -/
def Dev.shedLeft (d : Dev) (slot : Nat) (s : Session) : Shed :=
  let fs := d.sched.queues.flatMap (fun (kq : Nat × List TxFrame) => kq.2.filter (fun (f : TxFrame) => f.slot = slot))
  fs.foldl (fun (x : Shed) (f : TxFrame) => Shed.less x f.sum) s.shed

/-- Hands one EVENT packet of records to Sched: ALARM with a record of MAJOR or above, else EVENT. -/
def Dev.eventPacket (d : Dev) (slot : Nat) (rs : List EvRec) (last : Bool) : Dev :=
  match d.session slot with
  | none => d
  | some s =>
    let left := d.shedLeft slot s
    let sum := if last && left ≠ ({} : Shed) then left else {}
    let body := rs.flatMap EvRec.bytes ++ (if sum = ({} : Shed) then [] else d.summaryBytes sum)
    let n := rs.length + (if sum = ({} : Shed) then 0 else 1)
    if n = 0 then d
    else
      let q := if rs.any (fun r => decide (2 ≤ r.sev)) then 1 else 3
      let pk := d.packet 4 slot n s.evSeq 0 1 body
      let d := d.putSession slot { s with evSeq := (s.evSeq + 1) % 2 ^ 32 }
      let vid := s.addr.tag.map (fun t => t % 4096)
      let f := d.mkFrame s.addr.port q s.addr.mac vid (d.chedaBody s.addr pk)
      let d := (d.enqueueTx s.addr.port q { f with slot := slot, sum := sum }).1
      let d := d.count 0x76
      if sum = ({} : Shed) then d else d.count 0x77

/-- The records that a session is to get now. -/
def Dev.recordsFor (d : Dev) (s : Session) (rs : List EvRec) : List EvRec :=
  rs.filter (fun r => decide (s.minSev ≤ r.sev) && !bit (d.rd (F.EV_MASK.REPORT_MASK r.block)) r.src)

/-- EVENT_PACKET_SEND (R377): the pending records not held go to every subscribed session, into the log, and leave pending. -/
def Dev.eventSend (d : Dev) : Dev :=
  let now := d.ev.pend.filter (fun r => decide (r.hold ≤ d.time.tb))
  if now.isEmpty then d
  else
    let d := forEach d.cheda.sessions (fun (ks : Nat × Session) (d : Dev) =>
      if ks.2.opening || 4 < ks.2.minSev then d
      else
        let rs := d.recordsFor ks.2 now
        if rs.isEmpty then d
        else
          let room := d.roomOf ks.2.addr 3 - 28
          let most := if d.shedLeft ks.1 ks.2 = ({} : Shed) then 64 else 63
          let ps := splitUpTo most (fun _ => 32) (if most = 64 then room else room - 32) rs
          forEach ps.zipIdx (fun (x : List EvRec × Nat) (d : Dev) => d.eventPacket ks.1 x.1 (x.2 + 1 = ps.length)) d) d
    let d := { d with ev := { d.ev with pend := d.ev.pend.filter (fun r => decide (d.time.tb < r.hold)) } }
    -- a real CRITICAL or FATAL occurrence and its recovery went to Marl when they were granted; an injected record goes as it is sent
    forEach now (fun (r : EvRec) (d : Dev) =>
      let d := (d.updSrc r.block r.src r.inj (fun x => { x with sent := some (d.time.tb, r.sev) })).logLoam r
      if r.inj && 3 ≤ r.sev && r.sev ≤ 4 then d.logMarl r else d) d

/-- COALESCE_HOLD_EXPIRY (R376): the held record of a source becomes sendable. -/
def Dev.coalExpiry (d : Dev) (b s : Nat) (inj : Bool) : Dev :=
  match d.pendRec b s inj with
  | some r =>
    if r.hold ≤ d.time.tb then d
    else d.fire r.hold (fun d => { d with ev := { d.ev with pend := d.ev.pend.map (fun (q : EvRec) =>
      if q.isOf b s inj then { q with hold := 0, since := d.time.tb } else q) } })
  | none => d

/-- SUMMARY_SEND (R378): a session's counts leave alone in a packet. -/
def Dev.summarySend (d : Dev) (slot : Nat) : Dev :=
  match d.session slot with
  | some s => if s.opening || 4 < s.minSev then d else d.eventPacket slot [] true
  | none => d

/-- EVENT_SUBSCRIBE (R300): MIN_SEV 0-4, 5 stops.  Answers the status. -/
def Dev.eventSubscribe (d : Dev) (slot minSev : Nat) : Dev × Nat :=
  match d.session slot with
  | some s => if 5 < minSev then (d, St.valueInvalid) else (d.putSession slot { s with minSev := minSev }, St.ok)
  | none => (d, St.valueInvalid)

/-- LOG_READ (R379): LOG, COUNT, INDEX.  Answers the status and the result. -/
def Dev.logRead (d : Dev) (par : List Byte) : Nat × List Byte :=
  let log := beAt par 0 1
  let n := beAt par 2 2
  let idx := beAt par 4 8
  if 1 < log || n = 0 || 43 < n then (St.valueInvalid, [])
  else
    let recs := if log = 0 then d.ev.log else d.nv.faultLog
    let next := if log = 0 then d.ev.logNext else d.nv.faultNext
    let oldest := next - recs.length
    let start := if idx = 2 ^ 64 - 1 then max oldest (next - n) else max idx oldest
    let rs := (recs.drop (start - oldest)).take n
    (St.ok, beBytes 8 start ++ beBytes 8 oldest ++ beBytes 2 rs.length ++ zeros 6 ++ rs.flatMap EvRec.bytes)

/-- HANDSHAKE_UNANSWERED (R380): a block's handshake has gone unanswered for 10 ms. -/
def Dev.handshakeLost (d : Dev) (b : Nat) : Dev := if 44 < b then d else d.raise b 14 0 0

end Sys2Proof.Machine
end

