-- ==== Sys2Proof/Machine/Perf.lean ====
section
/-! DEFINITION. Counters, histograms and BOBBIN dumps (chapter 18, R382 - R397). -/

namespace Sys2Proof.Machine

def Dev.ctr (d : Dev) (n : Nat) : Ctr := AMap.get d.perf.ctrs n {}
def Dev.putCtr (d : Dev) (n : Nat) (c : Ctr) : Dev := { d with perf := { d.perf with ctrs := AMap.put d.perf.ctrs n c } }
def Dev.unit (d : Dev) (u : Nat) : Histo := AMap.get d.perf.histos u {}
def Dev.putUnit (d : Dev) (u : Nat) (h : Histo) : Dev := { d with perf := { d.perf with histos := AMap.put d.perf.histos u h } }

/-- The assigned event numbers (R384). -/
def evAssigned (n : Nat) : Bool :=
  n ≤ 0x0A || (0x10 ≤ n && n ≤ 0x1F) || (0x20 ≤ n && n ≤ 0x29) || (0x30 ≤ n && n ≤ 0x3B) || (0x40 ≤ n && n ≤ 0x48) ||
  (0x50 ≤ n && n ≤ 0x57) || (0x60 ≤ n && n ≤ 0x6B) || (0x70 ≤ n && n ≤ 0x77)

/-- PERF_SEL_WRITE (R383 - R385): counter n counts as written from the next boundary. -/
def Dev.perfSel (d : Dev) (n v : Nat) : Dev :=
  if 63 < n then d
  else
    let d := (((d.wr (F.PERF_SEL.EVENT n) (bits v 7 0)).wr (F.PERF_SEL.MODE n) (bits v 9 8)).wr (F.PERF_SEL.POL n) (bits v 12 12)).wr
      (F.PERF_SEL.QUAL n) (bits v 21 16)
    let d := { d with perf := { d.perf with selPend := d.perf.selPend ++ [n] } }
    match bits v 9 8 with
    | 0 => if evAssigned (bits v 7 0) then d else d.raise 0x2B 6 n 1
    | 3 => d
    | _ => if bits v 7 0 ≤ 22 then d else d.raise 0x2B 11 n (bits v 7 0)

/-- PERF_CNT_READ (R387): a read of LO latches the high bits and OVF. -/
def Dev.perfCntRead (d : Dev) (n : Nat) : Dev :=
  let c := d.ctr n
  ((d.wr (F.PERF_CNT_LO.COUNT_LO n) c.val).wr (F.PERF_CNT_HI.COUNT_HI n) (c.val / 2 ^ 32)).setFlag (F.PERF_CNT_HI.OVF n) c.ovf

/-- OVF (R386): the W1C write clears a counter's overflow. -/
def Dev.ovfClear (d : Dev) (n : Nat) : Dev := (d.putCtr n { d.ctr n with ovf := false }).setFlag (F.PERF_CNT_HI.OVF n) false

/-- HISTO_CFG_WRITE (R389): takes effect at the next boundary; INPUT 30 and 31 are refused. -/
def Dev.histoCfg (d : Dev) (u v : Nat) : Dev × Nat :=
  if 34 < u then (d, St.addrInvalid)
  else if 33 ≤ u && 30 ≤ bits v 12 8 then (d, St.valueInvalid)
  else
    let d := ((d.wr (F.HISTO_CFG.SHIFT u) (bits v 3 0)).wr (F.HISTO_CFG.INPUT u) (bits v 12 8)).wr (F.HISTO_CFG.BASE u) (bits v 31 16)
    ({ d with perf := { d.perf with cfgPend := d.perf.cfgPend ++ [u] } }, St.ok)

/-! ## Clears (R388, R391) -/

/-- The loops with any field or code listed. -/
def Dev.listedLoops (d : Dev) : List Nat :=
  ((d.mem.filterMap (fun (kv : Nat × Nat) =>
    let a := kv.1 / 32
    if 0x02000000 ≤ a && a < 0x02800000 then some ((a - 0x02000000) / 128) else none)).eraseDups)

/-- The MINMAX scope for the classes of a mask. -/
def Dev.clearMinMax (d : Dev) (classes : Nat) : Dev :=
  let d := forEach d.listedLoops (fun l (d : Dev) =>
    if !bit classes (d.rd (F.LOOP.CLASS l)) then d
    else
      let d := (d.wr (F.LOOP.ERR_MIN l) 0x7FFF).wr (F.LOOP.ERR_MAX l) 0x8000
      (d.wr (F.LOOP.OVERRUN_CNT l) 0).wr (F.LOOP.MISS_CNT l) 0) d
  d.raise 0x2B 10 0 classes

/-- Empties a unit. -/
def Dev.clearUnit (d : Dev) (u : Nat) : Dev :=
  d.putUnit u { d.unit u with bins := [], samples := 0, ovf := false, clearPick := d.pick.num }

/-- One STATS_CLEAR at its boundary. -/
def Dev.statsClear (d : Dev) (r : ClearReq) : Dev :=
  let d := if bit r.scope 0 then forEach (bitsSet r.cmask 64) (fun n (d : Dev) =>
      (d.putCtr n { d.ctr n with val := 0, ovf := false }).setFlag (F.PERF_CNT_HI.OVF n) false) d else d
  let d := if bit r.scope 1 then forEach (bitsSet r.umask 35) (fun u (d : Dev) => d.clearUnit u) d else d
  let d := if bit r.scope 2 then d.clearMinMax r.classes else d
  (d.raise 0x2B 8 0 r.scope).finish r.item St.ok []

/-- What Perf does at a boundary after the snapshot: clears, selections, unit settings, the capture state. -/
def Dev.perfBoundary (d : Dev) : Dev :=
  let cs := d.perf.clears
  let d := forEach cs (fun r (d : Dev) => d.statsClear r) { d with perf := { d.perf with clears := [] } }
  let sel := d.perf.selPend
  let d := forEach sel (fun n (d : Dev) =>
    d.putCtr n { d.ctr n with
      mode := d.rd (F.PERF_SEL.MODE n)
      ev := d.rd (F.PERF_SEL.EVENT n)
      pol := d.rd (F.PERF_SEL.POL n)
      qual := d.rd (F.PERF_SEL.QUAL n) }) { d with perf := { d.perf with selPend := [] } }
  let cfg := d.perf.cfgPend
  let d := forEach cfg (fun u (d : Dev) =>
    (d.putUnit u { d.unit u with
      shift := d.rd (F.HISTO_CFG.SHIFT u)
      input := d.rd (F.HISTO_CFG.INPUT u)
      base := d.rd (F.HISTO_CFG.BASE u) }).clearUnit u) { d with perf := { d.perf with cfgPend := [] } }
  let shed := decide (1 ≤ d.throttlePick)
  let was := d.flag F.HISTO_STAT.SHED
  let d := d.setFlag F.HISTO_STAT.SHED shed
  if shed && !was then d.raise 0x2B 3 0 d.throttlePick else d

/-! ## Snapshots (R382, R393) -/

/-- A snapshot is due at the boundary that has come. -/
def Dev.snapDue (d : Dev) : Bool :=
  let n := d.rd F.BOB_CFG.BOB_BEATS
  n ≠ 0 && d.pick.num % d.beatLen = 0 && d.pick.num / d.beatLen % n = 0

/-- Takes the snapshot, with the list words as they stand at the boundary; DUMP_SEQ advances.  While the previous dump is still being
built this one is not sent (R395); a BOB_SESSION of 0 or above 16 sends none (R397). -/
def Dev.snapshot (d : Dev) (words : List Nat) : Dev :=
  let slot := d.rd F.BOB_CFG.BOB_SESSION
  let sends := decide (slot ≠ 0) && decide (slot ≤ 16)
  let late := sends && d.perf.dump.isSome
  let seq := (d.perf.seq + 1) % 2 ^ 32
  let s : Snap := { pick := d.pick.num, time := d.ptpNow, ctrs := d.perf.ctrs, histos := d.perf.histos, shed := d.flag F.HISTO_STAT.SHED
                    words := words }
  let dump := if late || !sends then d.perf.dump else some (seq, s)
  let d := ({ d with perf := { d.perf with snap := s, seq := seq, dump := dump } }).wr F.BOB_SEQ.DUMP_SEQ seq
  if late then (d.bump F.BOB_CNT.SKIP 1).raise 0x2B 1 0 1 else d

/-- A counter entry of 12 bytes (R392). -/
def ctrEntry (s : Snap) (n : Nat) : List Byte :=
  let c := AMap.get s.ctrs n {}
  beBytes 1 n ++ beBytes 1 c.ev ++ beBytes 1 (c.mode + (if c.ovf then 4 else 0) + c.pol * 8) ++ beBytes 1 c.qual ++ beBytes 2 0 ++ beBytes 6 c.val

/-- A histogram entry of 216 bytes. -/
def histoEntry (s : Snap) (u : Nat) : List Byte :=
  let h := AMap.get s.histos u {}
  beBytes 1 u ++ beBytes 1 h.shift ++ beBytes 1 ((if h.ovf then 1 else 0) + (if s.shed then 2 else 0)) ++ [0] ++ beBytes 4 h.base ++
    beBytes 8 h.samples ++ beBytes 8 h.clearPick ++ (List.range 32).flatMap (fun b => beBytes 6 (AMap.get h.bins b 0))

/-- COUNTER_READ and HISTO_READ (R392).  Answer the status and the result. -/
def Dev.counterRead (d : Dev) (par : List Byte) : Nat × List Byte :=
  let first := beAt par 0 1
  let n := beAt par 1 1
  if n = 0 || 64 < first + n then (St.valueInvalid, [])
  else (St.ok, beBytes 8 d.perf.snap.pick ++ (List.range n).flatMap (fun i => ctrEntry d.perf.snap (first + i)))

def Dev.histoRead (d : Dev) (par : List Byte) : Nat × List Byte :=
  let u := beAt par 0 1
  if 34 < u then (St.valueInvalid, []) else (St.ok, beBytes 8 d.perf.snap.pick ++ histoEntry d.perf.snap u)

/-- STATS_CLEAR taken (R391): it acts at the next boundary.  Answers the status; PENDING when accepted. -/
def Dev.statsClearTake (d : Dev) (item : Nat) (par : List Byte) : Dev × Nat :=
  let r : ClearReq := { scope := beAt par 0 1, classes := beAt par 2 2, cmask := beAt par 4 8, umask := beAt par 12 8, item := item }
  if r.scope % 8 = 0 || 7 < r.scope || 2 ^ 35 ≤ r.umask then (d, St.valueInvalid)
  else ({ d with perf := { d.perf with clears := d.perf.clears ++ [r] } }, St.pending)

/-! ## Dumps (R393 - R395) -/

/-- The frames of one format; the first part that Sched refuses ends them.  Answers whether all were admitted. -/
def Dev.dumpParts (d : Dev) (format slot q seq : Nat) (sn : Snap) (s : Session) (es : List (List Byte)) : Dev × Bool :=
  let room := d.roomOf s.addr q - 44
  let ps := splitUpTo 65535 List.length room es
  ps.zipIdx.foldl (fun (acc : Dev × Bool) (x : List (List Byte) × Nat) =>
    if !acc.2 then acc
    else
      let body := x.1.flatten
      let head := beBytes 1 format ++ beBytes 1 slot ++ beBytes 1 x.2 ++ beBytes 1 ps.length ++ beBytes 4 seq ++
        beBytes 8 sn.pick ++ beBytes 8 sn.time ++ beBytes 2 x.1.length ++ beBytes 2 (28 + body.length + 16)
      let pk := head ++ body ++ (hmac256 s.sk (head ++ body)).take 16
      acc.1.sendCheda s.addr q slot pk false none) (d, true)

/-- BOBBIN_SNAPSHOT (R393 - R395): the dump that is due is built from its snapshot and sent. -/
def Dev.bobbin (d : Dev) : Dev :=
  match d.perf.dump with
  | none => d
  | some (seq, sn) =>
    let d := { d with perf := { d.perf with dump := none } }
    let slot := d.rd F.BOB_CFG.BOB_SESSION
    if slot = 0 || 16 < slot then d
    else
      let skip := d.bump F.BOB_CNT.SKIP 1
      match d.session slot with
      | none => skip
      | some s =>
        if s.opening then skip
        else if s.priv = 0 && !s.ctrRead then skip.raise 0x2B 7 slot 0
        else
          let es := (List.range 64).map (fun n => ctrEntry sn n) ++ sn.words.map (fun w => beBytes 4 w)
          let r := d.dumpParts 0xB1 slot 4 seq sn s es
          let r := if r.2 && d.flag F.BOB_CFG.HISTO_EN then
              r.1.dumpParts 0xB2 slot 5 seq sn s ((List.range 35).map (fun u => histoEntry sn u))
            else r
          if r.2 then r.1 else (r.1.bump F.BOB_CNT.DROP 1).raise 0x2B 2 slot seq

end Sys2Proof.Machine
end

