-- ==== Sys2Proof/Machine/Selvage.lean ====
section
/-! DEFINITION. The Selvage pair (chapter 16, R339 - R363): heartbeats, path judgement, role resolution, claims, acknowledgements,
failover, take-back and handover.  What a mirror record writes is in Mirror. -/

namespace Sys2Proof.Machine

/-- An event of the Selvage block: OBJECT is the claim, VALUE the paths and the mirror state (R366). -/
def Dev.slvEv (d : Dev) (src : Nat) (sev : Option Nat) : Dev :=
  d.raiseSev 0x29 src sev (d.rd F.SLV_CLAIM.CLAIM) (d.rd F.SLV_STAT.P_LOST + d.rd F.SLV_STAT.T_LOST * 2 + d.rd F.SLV_STAT.MIRROR * 256)

def Dev.updSlv (d : Dev) (f : SlvS → SlvS) : Dev := { d with slv := f d.slv }

/-- SEEN never falls (R343). -/
def Dev.see (d : Dev) (claim : Nat) : Dev := d.wr F.SLV_SEEN.SEEN (max (d.rd F.SLV_SEEN.SEEN) claim)

/-- CLAIM_HELD of a tile. -/
def Dev.claimHeld (d : Dev) (t : Nat) : Nat := d.rd (F.WEFT_CLAIM.CLAIM_HELD t)

/-- LINKS_UP of this unit. -/
def Dev.linksUp (d : Dev) : Nat := (tiles16.filter d.linkUp).foldl (fun m t => putBit m t true) 0

/-- The last CSN committed, or applied from the mirror. -/
def Dev.csnNow (d : Dev) : Nat := if d.controls then d.cir.csn else d.slv.appliedCsn

def Dev.takebackS (d : Dev) : Nat := max 1 (d.rd F.SLV_TMO.TAKEBACK_S)
def Dev.healthy (d : Dev) : Bool := d.slv.healthTb.isSome && decide (d.takebackS ≤ d.rd F.SLV_HEALTH.HEALTH_S)

/-- AGREED_PICK in force: this unit's own, or the one the peer announces while it agrees (R341, R356); 0 none. -/
def Dev.agreedNow (d : Dev) : Nat :=
  if d.slv.agreed ≠ 0 then d.slv.agreed else if bit d.slv.peerHflags 4 then d.slv.peerAgreed else 0

/-! ## Frames (R340, R341) -/

/-- A HEARTBEAT (1) or CLAIM (2) frame with its sequence. -/
def Dev.hbFrame (d : Dev) (kind seq : Nat) : List Byte :=
  let fl := (if d.healthy then 1 else 0) + (if d.flag F.SLV_STAT.P_LOST then 0 else 2) + (if d.flag F.SLV_STAT.T_LOST then 0 else 4) +
    (if d.slv.wantTb then 8 else 0) + (if d.role = Pr.handing then 16 else 0) + d.rd F.SLV_STAT.PEER_BEHIND * 32
  d.slvHead kind 46 ++ beBytes 1 fl ++ beBytes 1 (d.rd F.SLV_STAT.MIRROR) ++ beBytes 2 seq ++ beBytes 4 (d.rd F.SLV_CLAIM.CLAIM) ++
    beBytes 4 (d.rd F.SLV_SEEN.SEEN) ++ beBytes 8 d.pick.num ++ beBytes 4 d.csnNow ++ beBytes 2 d.linksUp ++
    beBytes 2 (d.rd F.SLV_HEALTH.HEALTH_S) ++ beBytes 8 d.slv.agreed ++ beBytes 1 d.throttle ++ [0]

/-- The whole tether frame of a body. -/
def Dev.tetherBytes (d : Dev) (body : List Byte) : List Byte :=
  d.wireBytes 2 { size := 64, dst := 0xFFFFFFFFFFFF, tag := none, body := beBytes 2 0x88B6 ++ body }

/-- HEARTBEAT_P_TIMER (R342): every 10 µs of timebase time from the start of stage 6 on. -/
def Dev.heartbeatP (d : Dev) : Dev :=
  if d.rd F.BOOT_STAT.STAGE < 6 then d
  else d.fire (match d.slv.hbTbP with
    | some t => t + 10000
    | none => d.time.tb) (fun d =>
    let seq := (d.slv.hbSeqP + 1) % 65536
    ((d.updSlv (fun s => { s with hbSeqP := seq, hbTbP := some d.time.tb })).sendP (d.hbFrame 1 seq)).count 0x69)

/-- TETHER_HEARTBEAT_TIMER (R266): every 100 µs in ACTIVE, every 1 ms in any other role, from role resolution on. -/
def Dev.heartbeatT (d : Dev) : Dev :=
  let p := if d.isActive then 100000 else 1000000
  if d.rd F.BOOT_STAT.STAGE < 6 then d
  else d.fire (match d.slv.hbTbT with
    | some t => t + p
    | none => d.time.tb) (fun d =>
    let seq := (d.slv.hbSeqT + 1) % 65536
    ((d.updSlv (fun s => { s with hbSeqT := seq, hbTbT := some d.time.tb })).tethPut 1 (d.tetherBytes (d.hbFrame 1 seq))).count 0x6A)

/-- SYNC_REQ leaves; from EMPTY the mirror is SYNCING (R349). -/
def Dev.syncReq (d : Dev) : Dev :=
  let d := d.sendP (d.slvHead 0x12 8)
  let d := (d.bump F.SLV_CNT_C.RESYNCS 1).slvEv 9 none
  let d := d.updSlv (fun s => { s with snapWanted := true, snapDone := false, batchSeen := [], cfgSeen := false, gapTb := none })
  if d.rd F.SLV_STAT.MIRROR = 0 then d.wr F.SLV_STAT.MIRROR 1 else d

/-- The mirror goes BEHIND (R346, R349). -/
def Dev.mirrorBehind (d : Dev) : Dev :=
  if d.rd F.SLV_STAT.MIRROR = 3 || !d.slv.everCopy then d else (d.wr F.SLV_STAT.MIRROR 3).slvEv 7 none

/-! ## Acknowledgements (R348) -/

/-- Items that wait only on an acknowledgement complete: all when the peer is not in STANDBY, else those no version holds. -/
def Dev.releaseAcks (d : Dev) : Dev :=
  let stby := d.peerStandby
  let d := if stby then d else d.updSlv (fun s => { s with unacked := [] })
  let go := d.slv.waitAck.filter (fun (w : Nat × Nat × List Byte) => !d.slv.unacked.any (fun (v : MirVer) => v.items.contains w.1))
  let d := d.updSlv (fun s => { s with waitAck := s.waitAck.filter (fun (w : Nat × Nat × List Byte) => !go.contains w) })
  forEach go (fun (w : Nat × Nat × List Byte) (d : Dev) => d.finish w.1 w.2.1 w.2.2) d

/-- ACK (R348): body ACK_CSN, ACK_CFG. -/
def Dev.takeAck (d : Dev) (bs : List Byte) : Dev :=
  let csn := beAt bs 8 4
  let cfg := beAt bs 12 4
  let d := (d.updSlv (fun s => { s with unacked := s.unacked.filter (fun (v : MirVer) =>
    if v.config then serialAfter v.version cfg else serialAfter v.version csn) })).wr F.SLV_ACKED.ACK_CSN csn
  d.releaseAcks

/-- MIRROR_RESEND (R348): the version unacknowledged for longest is resent, five times 200 µs apart; then PEER_BEHIND is set. -/
def Dev.mirrorResend (d : Dev) : Dev :=
  match d.slv.unacked with
  | [] => d
  | v :: vs =>
    let o := vs.foldl (fun (a b : MirVer) => if b.lastTb < a.lastTb then b else a) v
    d.fire (o.lastTb + 200000) (fun d =>
      if o.resends < 5 then
        let recs := o.recs.map (fun (r : MirRec) => { r with retry := true })
        let o' : MirVer := { o with recs := recs, resends := o.resends + 1, lastTb := d.time.tb }
        let d := (d.updSlv (fun s => { s with unacked := s.unacked.map (fun (x : MirVer) => if x = o then o' else x) })).sendRecs recs
        (d.bump F.SLV_CNT_C.RESENDS 1).count 0x68
      else ((d.setFlag F.SLV_STAT.PEER_BEHIND true).slvEv 8 none).releaseAcks)

/-! ## Frames in (R340 - R343) -/

/-- A Selvage frame passes R340 for a kind and, where it is fixed, a length. -/
def Dev.slvGood (d : Dev) (bs : List Byte) (kind : Nat) (len : Option Nat) (path : Nat) : Bool :=
  beAt bs 0 1 = kind && beAt bs 1 1 = 1 && beAt bs 2 2 = d.rd F.SLV_CFG.PAIR_ID && decide (beAt bs 6 2 ≤ bs.length) && decide (8 ≤ bs.length) &&
  (match len with
    | some n => beAt bs 6 2 = n
    | none => true) &&
  (path = 0 || kind = 1 || kind = 2)

/-- A dropped Selvage frame is counted (R340); one of another VERSION is reported (R381; assumption 87). -/
def Dev.slvBad (d : Dev) (version : Nat) : Dev :=
  let d := d.bump F.SLV_CNT_D.BAD_FRAMES 1
  if version = 1 then d else d.slvEv 11 none

/-- A path is heard: its loss clears; a mirror that was behind asks again (R342, R349). -/
def Dev.pathHeard (d : Dev) (path : Nat) (active : Bool) : Dev :=
  if path = 0 then
    let was := d.flag F.SLV_STAT.P_LOST
    let d := (d.updSlv (fun s => { s with lastP := d.time.tb, heardP := true })).setFlag F.SLV_STAT.P_LOST false
    if was && d.role = Pr.standby && (d.rd F.SLV_STAT.MIRROR = 3 || (d.rd F.SLV_STAT.MIRROR = 0 && !d.slv.snapWanted)) then d.syncReq else d
  else
    (d.updSlv (fun s => { s with lastT := d.time.tb, heardT := true, peerTether := active })).setFlag F.SLV_STAT.T_LOST false

/-- The active unit starts step 2 of a handover (R356): admission stops and warm cells are undone. -/
def Dev.handStart (d : Dev) (item : Option Nat) (lead : Nat) : Dev :=
  let d := d.updSlv (fun s => { s with handTb := some d.time.tb, handItem := item, lead := lead })
  let d := { d with tilth := { d.tilth with stopped := true } }
  d.undoCells (d.tilth.led.map (fun (ce : Nat × Led) => ce.1)) 5

/-- What a heartbeat or claim frame of the peer says is kept. -/
def Dev.peerSays (d : Dev) (bs : List Byte) : Dev :=
  let role := bits (beAt bs 4 1) 6 4
  let fl := beAt bs 8 1
  let d := d.wr F.SLV_STAT.PEER_ROLE role
  let d := d.updSlv (fun s => { s with
    peerHflags := fl
    peerMirror := beAt bs 9 1
    peerClaim := beAt bs 12 4
    peerPick := beAt bs 20 8
    peerCsn := beAt bs 28 4
    peerLinks := beAt bs 32 2
    peerHealth := beAt bs 34 2
    peerAgreed := beAt bs 36 8
    peerLevel := beAt bs 44 1
    peerUnit := beAt bs 4 1 % 4 })
  let d := (d.see (beAt bs 12 4)).see (beAt bs 16 4)
  let d := if d.controls && beAt bs 9 1 = 2 && role = Pr.standby then d.setFlag F.SLV_STAT.PEER_BEHIND false else d
  let d := if d.role = Pr.standby && bit fl 5 && d.rd F.SLV_STAT.MIRROR = 2 then
      (let d := d.mirrorBehind; if d.flag F.SLV_STAT.P_LOST then d else d.syncReq) else d
  let d := if d.isActive && bit fl 3 && role = Pr.standby && d.slv.handTb.isNone && !d.slv.conflict then d.handStart none 0 else d
  d.releaseAcks

/-- HEARTBEAT and CLAIM (R341 - R343): path 0 MAC_P, 1 tether; the bytes from the first after the EtherType. -/
def Dev.peerFrameIn (d : Dev) (kind path : Nat) (bs : List Byte) : Dev :=
  if !d.slvGood bs kind (some 46) path then d.slvBad (beAt bs 1 1)
  else
    let key := path * 2 + kind
    let seq := beAt bs 10 2
    if AMap.find d.slv.seenSeq key = some seq then d
    else
      let d := d.updSlv (fun s => { s with seenSeq := AMap.put s.seenSeq key seq })
      let same := decide (beAt bs 4 1 % 2 = d.rd F.SLV_STAT.UNIT_ID)
      let d := d.updSlv (fun s => { s with conflict := same })
      let d := if same then d.slvEv 1 none else d
      (d.pathHeard path (bits (beAt bs 4 1) 6 4 = Pr.active)).peerSays bs

/-- SYNC_REQ (R349): the unit that controls takes a snapshot at its next beat boundary. -/
def Dev.takeSyncReq (d : Dev) (bs : List Byte) : Dev :=
  if !d.slvGood bs 0x12 (some 8) 0 then d.slvBad (beAt bs 1 1)
  else if !d.controls then d
  else ((d.updSlv (fun s => { s with snapDue := true })).bump F.SLV_CNT_C.RESYNCS 1).slvEv 9 none

/-! ## Claims (R350, R357) -/

/-- Raises a claim: SEEN's epoch plus one; CLAIM frames on both paths; CLAIM_ONLY frames follow.  Cells are adopted from echoes that
come after it. -/
def Dev.raiseClaim (d : Dev) : Dev :=
  let d := forEach tiles16 (fun t (d : Dev) => d.see (d.claimHeld t)) d
  let c := (d.rd F.SLV_SEEN.SEEN / 2 + 1) * 2 + d.rd F.SLV_STAT.UNIT_ID
  let d := (d.wr F.SLV_CLAIM.CLAIM c).see c
  let d := d.updSlv (fun s => { s with
    claiming := true
    accepted := []
    clmSeqP := (s.clmSeqP + 1) % 65536
    clmSeqT := (s.clmSeqT + 1) % 65536 })
  let d := forEach tiles16 (fun t (d : Dev) => d.updLink t (fun k => { k with echo := [] })) d
  let d := (d.sendP (d.hbFrame 2 d.slv.clmSeqP)).tethPut 0 (d.tetherBytes (d.hbFrame 2 d.slv.clmSeqT))
  let downs := d.draftTiles.filter (fun t => !d.linkUp t)
  (d.updSlv (fun s => { s with accepted := downs })).count 0x6B

/-- Every tile of the active draft has accepted the claim. -/
def Dev.allAccepted (d : Dev) : Bool := d.draftTiles.all (fun t => d.slv.accepted.contains t)

/-- A tile is SILENT (R342). -/
def Dev.silentAt (d : Dev) (t : Nat) : Bool :=
  d.flag (F.WEFT_STAT.HOLDER_SILENT t) && d.claimHeld t ≠ d.rd F.SLV_CLAIM.CLAIM && d.claimHeld t ≠ 0

/-! ## Entering and leaving control (R111, R112, R290, R353) -/

/-- Asserted pins that no applied COMMIT record has served trigger at the first commit boundary (R353). -/
def Dev.pinsAdopt (d : Dev) : Dev :=
  forEach (List.range 8) (fun n (d : Dev) =>
    let p : ProtPin := AMap.get d.cir.pins n {}
    if p.deb && !p.triggered && bit (d.rd F.PROT_CFG.PIN_EN) n then
      let d := { d with cir := { d.cir with pins := AMap.put d.cir.pins n { p with triggered := true } } }
      forEach d.altEntries (fun a (d : Dev) =>
        if d.flag (F.CIR.GROUP_VALID a) && d.rd (F.CIR.PROT_GROUP a) = n then d.queueProtect (d.eId a) else d) d
    else d) d

/-- Running pieces resume from the pick that the tiles last echoed (R353). -/
def Dev.piecesAdopt (d : Dev) : Dev :=
  { d with cir := { d.cir with pieces := d.cir.pieces.map (fun (p : Piece) =>
    if p.phase < 2 then p
    else
      let t := match routeCells p.new with
        | cx :: _ => cellTile cx.1
        | [] => 0
      let n := ((d.link t).applied + 2 ^ 32 - p.lockAt % 2 ^ 32) % 2 ^ 32 + 1
      { p with n := max 1 (min n p.len) }) } }

/-- Cells whose echoes came while the claim was being accepted are adopted at once. -/
def Dev.adoptHeard (d : Dev) (t : Nat) : Dev :=
  let fcs := ((d.link t).echo.filter (fun ic => decide (3840 ≤ ic.1) && decide (ic.1 < 7680))).map (fun ic => ic.1 - 3840)
  let cells := ((d.link t).echo.filter (fun ic => decide (ic.1 < 3840) && fcs.contains ic.1)).map (fun ic => t * 3840 + ic.1)
  forEach cells (fun c (d : Dev) => (d.adoptCell c true).updLink t (fun k => { k with seen := k.seen ++ [c] })) d

/-- A unit that takes over a tile for which it holds no record writes the nominal entries of every cell, in the first frames it sends; a lit
cell's TARGET_CODE becomes the nominal code of the state it holds (R433). -/
def Dev.adoptEntries (d : Dev) (t : Nat) : Dev :=
  if bit (d.rd F.CAL_HELD.HELD) t then d
  else
    let lit := (d.litRoutes.flatMap (fun (er : Nat × List Hop) => routeCells er.2)).filter (fun cx => cellTile cx.1 = t)
    forEach lit (fun cx (d : Dev) => d.wr (F.CELL.TARGET_CODE cx.1) (d.targetCode cx.1 cx.2)) (d.writeEntries t (cellsOf t))

/-- The tiles at take-over: one that carries a lit cell or was mirrored ACTIVE is ACTIVE; adoption starts on every link. -/
def Dev.tilesAdopt (d : Dev) : Dev :=
  let lit := (d.liveEntries.flatMap (fun e => (d.route e).map (fun (h : Hop) => h.tile))).eraseDups
  forEach d.draftTiles (fun t (d : Dev) =>
    let d := if lit.contains t && d.tileMode t = Tm.offline && d.linkUp t then d.wr (F.TILE_MODE.MODE t) Tm.active else d
    let d := d.updLink t (fun k => { k with adopting := true, seen := [], ackTb := some d.time.tb, resend := false, codes := [], fcQ := [] })
    let d := (d.adoptHeard t).adoptEntries t
    forEach (List.range 256) (fun p (d : Dev) =>
      let l := voaLoop t p
      if d.rd (F.LOOP.CODE l) = 0 then d
      else match d.voaStatic l with
        | some c => d.voaFixed l c
        | none => d) d) d

/-- The unit enters ACTIVE (R112, R353).  `how`: 0 resolution, 1 failover, 2 handover, 3 return from HANDING. -/
def Dev.enterActive (d : Dev) (how : Nat) : Dev :=
  let mir := d.rd F.SLV_STAT.MIRROR
  let d := (d.wr F.SLV_STAT.ROLE Pr.active).updSlv (fun s => { s with claiming := false, toClaim := 0, wantTb := false, agreed := 0, peerAgreed := 0 })
  if how = 3 then d
  else
    let d := { d with cir := { d.cir with csn := d.slv.appliedCsn, queue := [], prot := [], held := [], due := [], waits := [] } }
    let d := (((d.tilesAdopt).piecesAdopt).pinsAdopt).dacEnter
    let d := { d with tilth := { d.tilth with led := [], rsv := [], stopped := false } }
    let d := if how = 1 then (d.bump F.SLV_CNT_A.FAILOVERS 1).slvEv 4 none
      else if how = 2 then (d.bump F.SLV_CNT_A.HANDOVERS 1).slvEv 5 none else d
    if (how = 1) && mir ≠ 2 then d.slvEv 3 none else d

/-- Items of a unit that leaves ACTIVE or HANDING (R290): not at their commit point ROLE_LOST; committed and incomplete REFER. -/
def Dev.itemsLost (d : Dev) : Dev :=
  let cmds := d.cir.queue ++ d.cir.prot
  let held := d.cir.held.flatMap (fun (kh : Nat × List GroupMem) => kh.2)
  let refer := d.cir.waits.map (fun (w : CirWait) => w.item) ++ d.slv.waitAck.map (fun (w : Nat × Nat × List Byte) => w.1) ++
    d.cir.pieces.filterMap (fun (p : Piece) => p.item) ++
    (d.cheda.setDue.toList.flatMap (fun (s : SetDue) => s.commit :: s.staged.map (fun (x : Staged) => x.item)))
  let d := { d with cir := { d.cir with queue := [], prot := [], held := [], waits := [], due := [] } }
  let d := forEach cmds (fun (c : Cmd) (d : Dev) =>
    forEach c.members (fun (m : GroupMem) (d : Dev) => d.finish m.item St.roleLost cirNone) (d.finishOpt c.item St.roleLost cirNone)) d
  let d := forEach held (fun (m : GroupMem) (d : Dev) => d.finish m.item St.roleLost cirNone) d
  let d := match d.cheda.txn with
    | none => d
    | some t =>
      let d := forEach t.staged (fun (s : Staged) (d : Dev) => d.finish s.item St.roleLost []) d
      let d := d.finishOpt t.commit St.roleLost []
      (({ d with cheda := { d.cheda with txn := none } }).setFlag F.CHEDA_STAT.TXN_OPEN false).wr F.CHEDA_STAT.TXN_SESSION 0
  (d.updSlv (fun s => { s with waitAck := [], unacked := [] })).referAll false (fun r => refer.contains r.id)

/-- The unit stops acting on cells at the boundary of the change and is STANDBY; it holds no claim.  The copy of a unit that controlled is
behind (R357); a unit that was only CLAIMING keeps the copy and the mirror state it had. -/
def Dev.leaveControl (d : Dev) : Dev :=
  let held := d.controls
  let d := d.finishOpt d.slv.handItem St.aborted []
  let d := (d.updSlv (fun s => { s with handItem := none })).itemsLost
  let d := forEach tiles16 (fun t (d : Dev) => d.abortCal t) d
  let d := (d.tilthDiscard).dacLeave
  let d := { d with
    cell := { d.cell with pend := [] }
    weft := { d.weft with tileTrig := [], waited := [] } }
  let d := forEach tiles16 (fun t (d : Dev) => d.updLink t (fun k => { k with codes := [], fcQ := [], modeQ := [], adopting := false })) d
  let d := (d.wr F.SLV_STAT.ROLE Pr.standby).wr F.SLV_CLAIM.CLAIM 0
  let d := (d.wr F.SLV_ACKED.ACK_CSN 0).setFlag F.SLV_STAT.PEER_BEHIND false
  let d := (d.setFlag F.SLV_STAT.HANDOVER false).updSlv (fun s => { s with
    claiming := false
    agreed := 0
    handTb := none
    snapDue := false
    snapTaken := none })
  let d := if held then
      (d.wr F.SLV_STAT.MIRROR 3).updSlv (fun s => { s with
        everCopy := true, appliedCsn := d.cir.csn, aside := [], snapWanted := false, snapDone := false })
    else d
  if d.flag F.SLV_STAT.P_LOST || d.rd F.SLV_STAT.MIRROR = 2 then d else d.syncReq

/-! ## Role resolution (R344) -/

/-- The peer is chosen: STANDBY, and a copy is asked for. -/
def Dev.peerChosen (d : Dev) : Dev :=
  let d := ((d.wr F.SLV_STAT.ROLE Pr.standby).wr F.SLV_CLAIM.CLAIM 0).updSlv (fun s => { s with claiming := false })
  let d := if d.slv.everCopy then d.wr F.SLV_STAT.MIRROR 3 else d
  if d.flag F.SLV_STAT.P_LOST then d else d.syncReq

/-- ROLE_RESOLUTION (R344): the first row that applies. -/
def Dev.resolve (d : Dev) : Dev :=
  if d.role ≠ Pr.resolving || d.rd F.BOOT_STAT.STAGE < 6 || d.slv.claiming || d.slv.conflict then d
  else
    let heard := (d.slv.heardP && !d.flag F.SLV_STAT.P_LOST) || (d.slv.heardT && !d.flag F.SLV_STAT.T_LOST)
    let pr := d.rd F.SLV_STAT.PEER_ROLE
    let last := max d.slv.readAt (max d.slv.lastP d.slv.lastT)
    if heard && (pr = Pr.active || pr = Pr.handing || pr = Pr.claiming) then d.peerChosen
    -- a holder that was met is read again after 20 ms
    else if (AMap.find d.slv.silentSince 0).any (fun t => decide (d.time.tb < t + 20000000)) then d
    else if d.draftTiles.any (fun t => d.linkUp t && d.claimHeld t ≠ 0 && !d.flag (F.WEFT_STAT.HOLDER_SILENT t)) then
      (d.updSlv (fun s => { s with silentSince := [(0, d.time.tb)] })).slvEv 2 none
    else if heard && pr = Pr.resolving then
      let mine := d.flag F.SLV_STAT.PREFER
      let theirs := decide (d.slv.peerUnit / 2 = 1)
      let win := if mine = theirs then d.rd F.SLV_STAT.UNIT_ID = 1 else mine
      if win then d.raiseClaim else d
    else if last + 20000000 ≤ d.time.tb then d.raiseClaim
    else d

/-- RESOLUTION_REREAD (R344): 20 ms after an unheard holder was met, or after the last heartbeat, resolution looks again. -/
def Dev.reread (d : Dev) : Dev :=
  if d.role ≠ Pr.resolving then d
  else
    let held := AMap.find d.slv.silentSince 0
    let last := max d.slv.readAt (max d.slv.lastP d.slv.lastT)
    d.fire ((held.getD last) + 20000000) (fun d => d.resolve)

/-! ## Path loss (R342) -/

/-- The handing unit returns to ACTIVE (R356 step 6). -/
def Dev.handingReturn (d : Dev) : Dev :=
  if d.role ≠ Pr.handing then d
  else
    let d := d.finishOpt d.slv.handItem St.aborted []
    let d := (d.setFlag F.SLV_STAT.HANDOVER false).updSlv (fun s => { s with handItem := none, handTb := none })
    let d := { d with tilth := { d.tilth with stopped := false } }
    ((d.enterActive 3).raiseClaim).updSlv (fun s => { s with claiming := false })

/-- Path loss raised MINOR, or MAJOR with both. -/
def Dev.pathLoss (d : Dev) : Dev :=
  d.slvEv 0 (if d.flag F.SLV_STAT.P_LOST && d.flag F.SLV_STAT.T_LOST then some 2 else none)

/-- P_LOST comes to hold. -/
def Dev.pLostNow (d : Dev) : Dev :=
  if d.flag F.SLV_STAT.P_LOST then d
  else
    let d := ((d.setFlag F.SLV_STAT.P_LOST true).bump F.SLV_CNT_B.P_LOSSES 1).pathLoss
    let pr := d.rd F.SLV_STAT.PEER_ROLE
    let d := if d.role = Pr.standby && (pr = Pr.active || pr = Pr.handing) then d.mirrorBehind else d
    (d.releaseAcks).handingReturn

/-- REFCLK_LOSS (R447): with MAC_P's LINK gone, P_LOST holds (R342). -/
def Dev.refclkGone (d : Dev) : Dev :=
  let x := d.refclkLoss
  if d.flag (F.MAC_STAT.LINK 2) && !x.flag (F.MAC_STAT.LINK 2) then x.pLostNow else x

/-- P_LOST (R342): HB_MISS_P × 10 µs without a valid frame. -/
def Dev.pLost (d : Dev) : Dev :=
  if d.flag F.SLV_STAT.P_LOST then d
  else if !d.flag (F.MAC_STAT.LINK 2) then d.pLostNow
  else d.fire (d.slv.lastP + 10000 * max 2 (d.rd F.SLV_CFG.HB_MISS_P)) (fun d => d.pLostNow)

/-- T_LOST (R342). -/
def Dev.tLost (d : Dev) : Dev :=
  if d.flag F.SLV_STAT.T_LOST then d
  else d.fire (d.slv.lastT + (if d.slv.peerTether then 100000 else 1000000) * max 1 (d.rd F.SLV_CFG.HB_MISS_T)) (fun d =>
    ((d.setFlag F.SLV_STAT.T_LOST true).bump F.SLV_CNT_B.T_LOSSES 1).pathLoss)

/-- MIRROR_GAP_TIMEOUT (R346): a version is still missing 1 ms after a later one closed. -/
def Dev.mirrorGap (d : Dev) : Dev :=
  match d.slv.gapTb with
  | none => d
  | some t => d.fire (t + 1000000) (fun d => ((d.updSlv (fun s => { s with gapTb := none })).mirrorBehind).syncReq)

/-! ## Failover, take-back, handover (R351 - R356) -/

/-- F1 or F2 holds. -/
def Dev.failoverHolds (d : Dev) : Bool :=
  let up := d.draftTiles.filter d.linkUp
  let n := (d.draftTiles.filter d.silentAt).length
  (!up.isEmpty && up.all d.silentAt) || (d.flag F.SLV_STAT.P_LOST && decide (max 1 (d.rd F.SLV_CFG.SILENT_MIN) ≤ n))

/-- FAILOVER: the condition holds in this pick; CLAIMING is entered at the next boundary. -/
def Dev.failover (d : Dev) : Dev :=
  if d.role = Pr.standby && d.failoverHolds then d.updSlv (fun s => { s with toClaim := 1 }) else d

/-- The take-back conditions (R355). -/
def Dev.takebackHolds (d : Dev) : Bool :=
  let mine := d.linksUp
  let peer := d.slv.peerLinks
  d.rd F.SLV_STAT.MIRROR = 2 && !d.flag F.SLV_STAT.P_LOST && !d.flag F.SLV_STAT.T_LOST && d.throttle = 0 &&
  d.draftTiles.all (fun t => !bit peer t || bit mine t) &&
  !d.ev.src.any (fun (ks : Nat × SrcS) => ks.1 % 32 < 16 && (ks.2.lvl = 3 || ks.2.lvl = 4))

/-- TAKEBACK_REQUEST (R355). -/
def Dev.takebackRequest (d : Dev) : Dev :=
  if d.role = Pr.standby && d.flag F.SLV_STAT.PREFER && d.flag F.SLV_CFG.TAKEBACK_EN && d.slv.peerUnit / 2 = 0 && d.takebackHolds && d.healthy then
    d.updSlv (fun s => { s with wantTb := true }) else d

/-- The conditions of a link handover (R354). -/
def Dev.linkHandHolds (d : Dev) : Bool :=
  let mine := d.linksUp
  let peer := d.slv.peerLinks
  d.flag F.SLV_CFG.LINK_HANDOVER && d.isActive && d.peerStandby && d.draftTiles.any (fun t => !d.linkUp t) &&
  d.draftTiles.all (fun t => !bit mine t || bit peer t) && d.draftTiles.any (fun t => bit peer t && !bit mine t)

/-- LINK_HANDOVER (R354): the conditions have held for LINK_HOLD_MS. -/
def Dev.linkHandover (d : Dev) : Dev :=
  match AMap.find d.slv.linkLostTb 0 with
  | some t =>
    if !d.linkHandHolds || d.slv.handTb.isSome then d
    else d.fire (t + 1000000 * max 1 (min 40 (d.rd F.SLV_TMO.LINK_HOLD_MS))) (fun d => d.handStart none 0)
  | none => d

/-- HANDOVER_AGREE (R356 step 2): the waits are met. -/
def Dev.handAgree (d : Dev) : Dev :=
  if !d.isActive || d.slv.handTb.isNone || !d.tilth.led.isEmpty || !d.cal.runs.isEmpty ||
     d.cell.aux.any (fun (ca : Nat × CellAux) => d.cellMode ca.1 = Cm.cal) || d.cir.pieces.any (fun (p : Piece) => decide (p.phase < 2)) then d
  else
    let lead := if d.slv.lead = 0 then max 1 (d.rd F.SLV_TMO.HANDOVER_LEAD) else d.slv.lead
    let a := (d.pick.num + lead * 64 + 63) / 64 * 64
    -- the unit leaves pair role ACTIVE: its plans are discarded (R136), and its reservations with them (R165)
    let d := d.discardPlans (fun _ => true) 5
    let d := { d with tilth := { d.tilth with rsv := [] } }
    let d := (d.wr F.SLV_STAT.ROLE Pr.handing).updSlv (fun s => { s with agreed := a, handTb := none })
    (d.setFlag F.SLV_STAT.HANDOVER true).slvEv 5 none

/-- HANDOVER_DECLINE (R356 step 2): 1 s has passed. -/
def Dev.handDecline (d : Dev) : Dev :=
  match d.slv.handTb with
  | none => d
  | some t => d.fire (t + 1000000000) (fun d =>
    let d := d.finishOpt d.slv.handItem St.aborted []
    let d := d.updSlv (fun s => { s with handTb := none, handItem := none })
    let d := { d with tilth := { d.tilth with stopped := false } }
    (d.bump F.SLV_CNT_D.DECLINED 1).slvEv 6 none)

/-- PAIR_HANDOVER (R361).  Answers the status; PENDING when accepted. -/
def Dev.pairHandover (d : Dev) (item lead : Nat) : Dev × Nat :=
  if !d.isActive then (d, St.roleStandby)
  else if d.rd F.SLV_STAT.PEER_ROLE ≠ Pr.standby || d.flag F.SLV_STAT.P_LOST || d.slv.peerMirror ≠ 2 then (d, St.modeRefused)
  else if d.slv.handTb.isSome || d.slv.agreed ≠ 0 then (d, St.busy)
  else (d.handStart (some item) lead, St.pending)

/-- A sense frame with PICK at or past the agreed pick: the receiving unit enters CLAIMING and raises its claim (R356 step 4). -/
def Dev.senseClaims (d : Dev) (pick : Nat) : Dev :=
  let a := d.slv.peerAgreed
  if d.role = Pr.standby && bit d.slv.peerHflags 4 && a ≠ 0 && (pick = a % 2 ^ 32 || serialAfter pick (a % 2 ^ 32)) then
    ((d.wr F.SLV_STAT.ROLE Pr.claiming).updSlv (fun s => { s with toClaim := 0, adoptFrom := true })).raiseClaim
  else d

/-! ## At a boundary -/

/-- The health of the take-back conditions, LINKS_UP, SILENT, the hold of a link handover. -/
def Dev.slvHealth (d : Dev) : Dev :=
  let tb := d.time.tb
  let h := d.takebackHolds
  let since := if h then some (d.slv.healthTb.getD tb) else none
  let hs := match since with
    | some t => min 65535 ((tb - t) / 1000000000)
    | none => 0
  let lost := if d.linkHandHolds then [(0, AMap.get d.slv.linkLostTb 0 tb)] else []
  let d := d.updSlv (fun s => { s with healthTb := since, linkLostTb := lost, wantTb := s.wantTb && h && d.flag F.SLV_CFG.TAKEBACK_EN })
  let d := (d.wr F.SLV_HEALTH.HEALTH_S hs).wr F.SLV_HEALTH.LINKS_UP d.linksUp
  let d := d.setFlag F.SLV_STAT.SILENT (tiles16.any d.silentAt)
  let d := forEach tiles16 (fun t (d : Dev) => d.see (d.claimHeld t)) d
  d.wr F.SLV_CSN.CSN d.csnNow

/-- Every tile shows a claim of the peer, higher than this unit's. -/
def Dev.peerHolds (d : Dev) : Bool :=
  d.draftTiles.all (fun t => !d.linkUp t || decide (d.rd F.SLV_CLAIM.CLAIM < d.claimHeld t)) && d.draftTiles.any d.linkUp

/-- The role changes of a boundary (R111). -/
def Dev.roleBoundary (d : Dev) : Dev :=
  let rej := tiles16.any (fun t => (d.link t).claimRej && d.linkUp t)
  -- a unit that met its own UNIT_ID stays in RESOLVING (R339)
  let claims := d.role = Pr.claiming || (d.role = Pr.resolving && d.slv.claiming && !d.slv.conflict)
  if d.role = Pr.handing && decide (d.slv.agreed ≤ d.pick.num) && d.peerHolds then
    let it := d.slv.handItem
    let a := d.slv.agreed
    let d := d.finishOpt it St.ok (beBytes 8 a)
    let d := (d.updSlv (fun s => { s with handItem := none })).bump F.SLV_CNT_A.HANDOVERS 1
    (d.slvEv 5 none).leaveControl
  else if rej && (claims || d.isActive || (d.role = Pr.handing && decide (d.pick.num < d.slv.agreed))) then
    if d.role = Pr.resolving then (d.slvEv 10 none).peerChosen
    else (d.slvEv 10 none).leaveControl
  else if d.role = Pr.handing && d.flag F.SLV_STAT.P_LOST then d.handingReturn
  else if claims && d.allAccepted then d.enterActive (if d.role = Pr.resolving then 0 else if d.slv.adoptFrom then 2 else 1)
  else if d.role = Pr.standby && (d.slv.toClaim ≠ 0 || d.failoverHolds) then
    ((d.wr F.SLV_STAT.ROLE Pr.claiming).updSlv (fun s => { s with toClaim := 0, adoptFrom := false })).raiseClaim
  else d

/-! ## Sending the copy (R347, R349) -/

/-- SNAPSHOT_SEND (R349): the snapshot taken leaves, closed. -/
def Dev.snapSend (d : Dev) : Dev :=
  match d.slv.snapTaken with
  | none => d
  | some (ver, recs) =>
    (d.updSlv (fun s => { s with snapTaken := none })).sendRecs
      (recs ++ [{ typ := 7, version := ver, obj := 0, close := true, retry := false, body := .mark }])

/-- Loops of one batch (R347). -/
def Dev.batchLoops (d : Dev) : Nat := if d.pick.rate = 3 then 2048 else 4096

/-- MIRROR_BATCH (R347): at a boundary 16 × j, INTEG and SP of a rotating share of the loops as they were at that boundary, the SHARED
channels, the TEC integrators. -/
def Dev.mirrorBatch (d : Dev) : Dev :=
  if !d.controls || d.pick.num % 16 ≠ 0 || !d.pick.started then d
  else
    let j := d.pick.num / 16
    let n := d.batchLoops
    let from_ := (j - d.slv.restartBatch) % (65536 / n) * n
    let mk : Nat → MirBody → MirRec := fun o b => { typ := 3, version := j % 2 ^ 32, obj := o, close := false, retry := false, body := b }
    -- 128 loops to a record, so that a record fits any frame (assumption 89)
    let loops := (List.range (n / 128)).map (fun i => let l := from_ + 128 * i
      mk l (.loops ((List.range 128).map (fun x => (d.loopRd (l + x) (F.LOOP.INTEG (l + x)), d.loopRd (l + x) (F.LOOP.SP (l + x)))))))
    let dacs := ((List.range 48).filter (fun c => d.flag (F.DAC_CH_CFG.SHARED c))).map (fun c => mk c (.dacCode (d.dacNow.rd (F.DAC_CODE.ACTIVE c))))
    let tecs := (List.range 16).map (fun t => mk t (.tec (d.rd (F.TEC_INTEG.TEC_INTEG t))))
    let close : MirRec := { typ := 3, version := j % 2 ^ 32, obj := 0, close := true, retry := false, body := .mark }
    (d.updSlv (fun s => { s with batchNo := j % 2 ^ 32 })).sendRecs (loops ++ dacs ++ tecs ++ [close])

/-- PAIR_STATUS (R360). -/
def Dev.pairStatus (d : Dev) : List Byte :=
  let pr := d.rd F.SLV_STAT.PEER_ROLE
  let paths := d.rd F.SLV_STAT.P_LOST + d.rd F.SLV_STAT.T_LOST * 2 + (if tiles16.any d.silentAt then 4 else 0) + d.rd F.SLV_STAT.UNIT_ID * 8 +
    d.rd F.SLV_STAT.PREFER * 16 + d.rd F.SLV_STAT.PEER_BEHIND * 32 + (if d.healthy then 64 else 0)
  beBytes 1 d.role ++ beBytes 1 (if pr = 7 then 0xFF else pr) ++ beBytes 1 (d.rd F.SLV_STAT.MIRROR) ++ beBytes 1 paths ++
    beBytes 4 (d.rd F.SLV_CLAIM.CLAIM) ++ beBytes 4 (d.rd F.SLV_SEEN.SEEN) ++ beBytes 4 d.csnNow ++ beBytes 4 (d.rd F.SLV_ACKED.ACK_CSN) ++
    beBytes 8 d.agreedNow ++ beBytes 2 (d.rd F.SLV_HEALTH.HEALTH_S) ++ beBytes 2 d.linksUp ++
    beBytes 2 d.slv.peerLinks ++ beBytes 2 (d.rd F.SLV_CNT_A.FAILOVERS) ++ beBytes 2 (d.rd F.SLV_CNT_A.HANDOVERS) ++ beBytes 2 0

end Sys2Proof.Machine
end

