-- ==== Sys2Proof/Machine/Startup.lean ====
section
/-! DEFINITION. Start-up (chapter 20, R417 - R439), reset and rails (R419, R442, R446), restart after a shut-down (R234, R235). -/

namespace Sys2Proof.Machine

/-! ## Reset -/

/-- BOOT_STAT.STAGE. -/
def Dev.stage (d : Dev) : Nat := d.rd F.BOOT_STAT.STAGE

/-- A stage starts. -/
def Dev.setStage (d : Dev) (n : Nat) : Dev :=
  let d := d.wr F.BOOT_STAT.STAGE n
  { d with boot := { d.boot with stageTb := d.time.tb } }

/-- Sets BOOT_STAT.WAIT. -/
def Dev.setWait (d : Dev) (n : Nat) : Dev := d.wr F.BOOT_STAT.WAIT n

/-- The straps are captured (R339, R446): UNIT_ID in bit 0, PREFER in bit 1 of each of the samples; the last one counts. -/
def Dev.straps (d : Dev) (samples : List Nat) : Dev :=
  let s := samples.getLast?.getD 0
  let d := (d.wr F.SLV_STAT.UNIT_ID (s % 2)).wr F.SLV_STAT.PREFER (s / 2 % 2)
  let d := d.wr F.TETH_CTRL.PLCA_ID (s % 2)
  if samples.all (fun x => x % 4 = s % 4) then d else d.raise 0x00 1 (samples.foldl (fun a x => a * 4 + x % 4) 0) s

/-- The straps as last captured. -/
def Dev.strapsNow (d : Dev) : Nat := d.rd F.SLV_STAT.UNIT_ID + 2 * d.rd F.SLV_STAT.PREFER

/-- Every block at its reset (R419): Marl and the fuses keep what they hold; the comparator of R235 and the rail monitors of R442 do
not depend on the blocks. -/
def Dev.resetAll (d : Dev) (samples : List Nat) : Dev :=
  let n : Dev := {
    nv := d.nv
    free := d.free
    therm := { trip := d.therm.trip, tripPin := d.therm.trip }
    sup := { low := d.sup.low, held := d.sup.held } }
  n.straps samples

/-- A reset by the unit itself, with the strap pins as they stand (R419: SYSTEM_RESET and the restart act as RESET_N). -/
def Dev.resetSelf (d : Dev) : Dev := d.resetAll [d.strapsNow]

/-- POWER_ON_RESET: POR_N is released, every rail within its range. -/
def Dev.powerOn (d : Dev) (samples : List Nat) : Dev := ({ d with sup := {} }).resetAll samples

/-- RESET_N: asserted and released; a hold of the rails or of the comparator stays (R419). -/
def Dev.resetN (d : Dev) (samples : List Nat) : Dev := d.resetAll samples

/-- RAIL_UNDERVOLTAGE (R442): what a rail's monitor sees: 0 within its range, 1 below its low limit, 2 below the level of the
internal reset, which acts as POR_N and lasts until POWER_ON_RESET. -/
def Dev.railMonitor (d : Dev) (rail level : Nat) : Dev :=
  if level = 0 then { d with sup := { d.sup with low := d.sup.low.filter (· ≠ rail) } }
  else
    let (mv, d) := d.draw (2 ^ 32)
    let d := d.raise 0x2C 8 0xFF mv
    let low := if d.sup.low.contains rail then d.sup.low else d.sup.low ++ [rail]
    let d := { d with sup := { d.sup with low := low } }
    if level = 1 then d else ({ d with sup := { d.sup with held := true } }).resetSelf

/-- VID_NOT_REACHED (R419): 5 ms after reset the core supply is not at 0.80 V; Supply waits on. -/
def Dev.vidNotReached (d : Dev) : Dev :=
  if d.stage ≠ 1 || d.boot.vidLate then d
  else d.fire 5000000 (fun d => { d.raise 0x2C 4 0xFF 800 with boot := { d.boot with vidLate := true } })

/-! ## Stage 2 (R420, R421) -/

/-- Writes the Marl fields: their stored values, or after a bad CRC the values of the register tables for "never stored". -/
def Dev.loadMarl (d : Dev) (good : Bool) (sel : Nat → Bool) : Dev :=
  forEach marlFields (fun (kv : Nat × Nat) (d : Dev) =>
    if sel kv.1 then
      { d with mem := AMap.set d.mem kv.1 (if good then AMap.get d.nv.regs kv.1 kv.2 else kv.2) 0 }
    else d) d

/-- Windows 0-3 of a unit with no stored windows (R402): base [39:12], SIZE_LOG2, MASTERS, READ, WRITE. -/
def firstWindows : List (Nat × Nat × Nat × Bool × Bool) := [
  (0x8000, 20, 0x700, true, true), (0, 22, 0x100, true, false), (0x100000, 32, 0x500, true, false), (0, 40, 0x800, true, true)]

def Dev.loadWindows (d : Dev) (good : Bool) : Dev :=
  let stored := (List.range 16).any (fun n => (AMap.find d.nv.regs (F.REED_WIN_CTL.SIZE_LOG2 n).key).isSome)
  if good && stored then d
  else forEach firstWindows.zipIdx (fun (wn : (Nat × Nat × Nat × Bool × Bool) × Nat) (d : Dev) =>
    let (b, l, m, r, w) := wn.1
    let n := wn.2
    let d := ((d.wr (F.REED_WIN_BASE.BASE n) b).wr (F.REED_WIN_CTL.SIZE_LOG2 n) l).wr (F.REED_WIN_CTL.MASTERS n) m
    ((d.setFlag (F.REED_WIN_CTL.READ n) r).setFlag (F.REED_WIN_CTL.WRITE n) w).setFlag (F.REED_WIN_CTL.EN n) true) d

/-- The station-address fields of the three ports and the tether. -/
def stationKeys : List Nat :=
  [0, 1, 2].flatMap (fun p => [(F.MAC_ADDR_LO.ADDR_LO p).key, (F.MAC_ADDR_HI.ADDR_HI p).key]) ++
  [F.TETH_ADDR_LO.ADDR_LO.key, F.TETH_ADDR_HI.ADDR_HI.key]

/-- After CONFIG_CRC every station address is 0x02 and the five low bytes of SERIAL (R420). -/
def Dev.serialAddresses (d : Dev) : Dev :=
  let lo := d.nv.serial % 2 ^ 32
  let hi := 0x0200 + d.nv.serial / 2 ^ 32 % 256
  let d := forEach [0, 1, 2] (fun p (d : Dev) => (d.wr (F.MAC_ADDR_LO.ADDR_LO p) lo).wr (F.MAC_ADDR_HI.ADDR_HI p) hi) d
  (d.wr F.TETH_ADDR_LO.ADDR_LO lo).wr F.TETH_ADDR_HI.ADDR_HI hi

/-- The boot configuration is loaded, then the DAC internal clear is released (R216, R420). -/
def Dev.loadConfig (d : Dev) (good : Bool) : Dev :=
  let d := (d.loadMarl good (fun _ => true)).loadWindows good
  let d := if good then d else (d.serialAddresses).raise 0x01 4 0 0
  let d := { d with
    cal := { d.cal with recs := d.nv.cal }
    silt := { d.silt with hist := d.nv.silt, drift := d.nv.drift }
    boot := { d.boot with crcBad := !good } }
  let d := (d.wr F.TRD_STAT.GEN d.nv.trdCur).wr F.SILT_HOURS.HOURS d.nv.hours
  let d := d.thermRetire (d.rd F.THERM_RETIRE.RETIRE)
  let d := forEach [0, 1, 2, 3] (fun n (d : Dev) =>
    let base := d.rd (F.TRK_BASE_HI.BASE_HI n) * 2 ^ 32 + d.rd (F.TRK_BASE_LO.BASE_LO n)
    d.updTrk n (fun t => { t with pend := true, pendBase := some base, soon := true })) d
  let d := forEach (List.range 48) (fun c (d : Dev) =>
    let r := d.rd (F.DAC_CH_CFG.RANGE c)
    (d.wr (F.DAC_CH_CFG.RANGE c) 0).dacSetRange c r d.time.tb) d
  (d.setFlag F.DAC_STAT.CLR_INT false).marlStat

/-- A slot's image verifies (R420 step 2). -/
def Dev.imageGood (d : Dev) (i : Image) : Bool := i.good && decide (d.nv.fuse ≤ i.secVer)

/-- SECURE_BOOT (R420): stage 1 has ended; Marl is mounted, the slots are verified, the image of higher VERSION starts (of equals the
preferred slot), the boot configuration is loaded.  With no image the recovery program starts and the unit stays in stage 2. -/
def Dev.secureBoot (d : Dev) (configGood : Bool) : Dev :=
  if d.stage ≠ 1 then d
  else
    let d := (d.setStage 2).marlMount
    let d := forEach d.nv.slots (fun (si : Nat × Image) (d : Dev) =>
      if si.2.secVer < d.nv.fuse then d.raise 0x01 8 si.1 si.2.secVer
      else if !si.2.good then d.raise 0x01 1 si.1 si.2.version else d) d
    let good := d.nv.slots.filter (fun (si : Nat × Image) => d.imageGood si.2)
    match good with
    | [] =>
      let d := d.loadMarl configGood (fun k => stationKeys.contains k)
      let d := if configGood then d else d.serialAddresses
      (d.raise 0x01 3 0 0).setFlag F.BOOT_STAT.RECOVERY true
    | s :: ss =>
      let best := ss.foldl (fun (b : Nat × Image) (x : Nat × Image) =>
        if b.2.version < x.2.version || (b.2.version = x.2.version && x.1 = d.nv.preferred) then x else b) s
      let d := (d.wr F.BOOT_STAT.SLOT best.1).wr F.BOOT_VER.VERSION best.2.version
      let d := if best.1 = d.nv.preferred then d else (d.raise 0x01 2 best.1 d.nv.preferred).setFlag F.BOOT_STAT.FALLBACK true
      let d := { d with boot := { d.boot with image := some best.2 } }
      (d.loadConfig configGood).setStage 3

/-! ## Stages 3 to 6 (R423 - R426) -/

/-- Stage 6 begins: role resolution reads tiles and heartbeats from now on (R418). -/
def Dev.startResolution (d : Dev) : Dev := (d.setStage 6).updSlv (fun s => { s with readAt := d.time.tb })

/-- Stage 5 or a hold at its end with AUTO = 0 (R439). -/
def Dev.endStage5 (d : Dev) : Dev :=
  if d.flag F.START_CFG.AUTO then d.startResolution
  else { d.setWait 3 with boot := { d.boot with held := true, waitNext := d.rd F.BOOT_STAT.WAIT } }

/-- The draft against which tiles are discovered (R424). -/
def Dev.discoverDraft (d : Dev) : Img := if d.activeId = 0 then d.draft.staged else d.draft.active

/-- Sets, gate lists and the stored STAGED take effect (R425). -/
def Dev.applyStored (d : Dev) : Dev :=
  let d := forEach d.nv.coefs (fun (kv : Nat × Nat) (d : Dev) => { d with mem := AMap.put d.mem kv.1 kv.2 }) d
  forEach d.nv.gates (fun (pg : Nat × List Byte) (d : Dev) =>
    match parseGates pg.2 with
    | some (p, g) => (d.placeGates p g).1
    | none => d) d

/-- The stored configuration as one internal transaction (R425).  Without a stored ACTIVE draft the stored STAGED is placed. -/
def Dev.storedConfig (d : Dev) : Dev :=
  if draftWord d.nv.active 4 = 0 then
    ({ d with draft := { d.draft with staged := d.nv.staged } }).applyStored
  else
    let d := { d with draft := { d.draft with staged := d.nv.active } }
    let fail := d.firstFail d.draft.staged 16
    let d := d.recordCheck true fail
    if fail = 0 then
      let d := (d.applyStored).setWait 0
      { d with draft := { d.draft with swapDue := true }, boot := { d.boot with restoreStaged := true, waitNext := 0 } }
    else if fail = 15 && d.check16 d.draft.staged then d.setWait 1
    else ({ d with draft := { d.draft with staged := [] } }).setWait 2

/-- Every tile of the draft is discovered and nothing of the stored configuration waits. -/
def Dev.discoveryDone (d : Dev) : Bool :=
  !d.draft.swapDue && d.rd F.BOOT_STAT.WAIT ≠ 1 &&
  (tiles16.filter (fun t => draftRole d.discoverDraft t ≠ 0)).all (fun t => d.discovered d.discoverDraft t)

/-- Stage 5 starts. -/
def Dev.startStage5 (d : Dev) : Dev :=
  let d := (d.setStage 5).storedConfig
  if d.rd F.BOOT_STAT.WAIT = 2 || d.discoveryDone then d.endStage5 else d

/-- Stage 4 ends when every link has trained or failed once. -/
def Dev.stage4Check (d : Dev) : Dev :=
  if d.stage = 4 && tiles16.all (fun t => d.boot.tried.contains t) then d.startStage5 else d

/-- Stage 4 starts: all 16 links train (R172, R424). -/
def Dev.startStage4 (d : Dev) : Dev := (forEach tiles16 (fun t (d : Dev) => if d.linkUp t then d else d.trainStart t) (d.setStage 4)).stage4Check

/-- LINK_TRAIN from stage 4 on, of a link in TRAINING (R172, R424). -/
def Dev.startTrain (d : Dev) (t : Nat) (r : TrainResult) : Dev :=
  if d.stage < 4 || d.rd (F.WEFT_STAT.LINK t) ≠ 1 then d
  else
    let d := d.linkTrain t r
    let d := { d with boot := { d.boot with tried := if d.boot.tried.contains t then d.boot.tried else d.boot.tried ++ [t] } }
    d.stage4Check

/-- TILE_DISCOVERY (R424, R425): a tile has been discovered: a stored activation that waits for tiles is tried again, and stage 5
ends when all are there. -/
def Dev.tileDiscovery (d : Dev) : Dev :=
  let d := if d.role = Pr.standby then d
    else if d.rd F.BOOT_STAT.WAIT = 1 then d.storedConfig
    else if d.boot.held && d.boot.waitNext = 1 then
      let e := d.storedConfig
      { e.setWait 3 with boot := { e.boot with waitNext := e.rd F.BOOT_STAT.WAIT } }
    else d
  if d.stage = 5 && !d.boot.held && d.discoveryDone then d.endStage5 else d

/-- DISCOVER_TIMEOUT (R424): start-up moves on. -/
def Dev.discoverTimeout (d : Dev) : Dev :=
  if d.stage ≠ 5 || d.boot.held then d
  else d.fire (d.boot.stageTb + 1000000000 * max 1 (d.rd F.START_CFG.DISCOVER_S)) (fun d => d.endStage5)

/-- Test 2 of R423 fails: a burst of 4,096 steps that took `ps` is below the rate of R77 for the voltage and the sensor's temperature. -/
def Dev.burstSlow (d : Dev) (e ps : Nat) : Bool :=
  decide (e < 64) && decide (ps ≠ 0) && decide (((4096 * 10 ^ 12 / ps : Nat) : Int) < stepRateF d.sup.vid (d.sensRead (engSensor e)))

/-- The first test of R423 that fails (0: none): `failed` as the tests on the pads and memories report it, test 2 and test 4 as judged. -/
def firstFailed (failed : Nat) (slow conv : Bool) : Nat :=
  let xs := (if failed = 0 then [] else [failed]) ++ (if slow then [2] else []) ++ (if conv then [4] else [])
  match xs with
  | [] => 0
  | x :: rest => rest.foldl min x

/-- SELF_TEST (R423): the outcome of the tests that the block itself cannot judge (0: all passed, otherwise the first that failed), the
engines' burst times in ps, and the converters' averages of ZERO and REF. -/
def Dev.selfTest (d : Dev) (failed : Nat) (bursts : List Nat) (cals : List (Int × Int)) : Dev :=
  if d.stage ≠ 3 || d.boot.held || d.rd F.BOOT_STAT.WAIT = 4 then d
  else
    let slow := bursts.zipIdx.any (fun (pe : Nat × Nat) => d.burstSlow pe.2 pe.1)
    let d := forEach bursts.zipIdx (fun (pe : Nat × Nat) (d : Dev) => d.refBurst pe.2 pe.1) d
    let d := forEach cals.zipIdx (fun (ck : (Int × Int) × Nat) (d : Dev) =>
      if ck.2 < 2 then (d.svCalTake ck.2 ck.1.1 ck.1.2).updConv ck.2 (fun c => { c with spoilt := true })
      else d) d
    let bad := firstFailed failed slow ((List.range 2).any (fun k => d.rd (F.SV_STAT.CAL_RESULT k) ≠ 1))
    if bad ≠ 0 then (d.raise 0x01 11 bad 0).setWait 4
    else if d.flag F.START_CFG.AUTO then d.startStage4
    else { d.setWait 3 with boot := { d.boot with held := true, waitNext := 0 } }

/-- GO (R439): ends a hold. -/
def Dev.go (d : Dev) : Dev :=
  if !d.boot.held then d
  else
    let d := { d.setWait d.boot.waitNext with boot := { d.boot with held := false, waitNext := 0 } }
    if d.stage = 3 then d.startStage4
    else if d.stage = 5 then d.startResolution
    else d

/-! ## Stages 7 to 10 (R426 - R436) -/

/-- Tiles enter stage 7 (R417, R426). -/
def Dev.startTiles (d : Dev) (ts : List Nat) : Dev :=
  let fresh := ts.filter (fun t => (AMap.find d.boot.tiles t).isNone)
  { d with boot := { d.boot with tiles := fresh.foldl (fun m t => AMap.put m t { stage := 7 }) d.boot.tiles } }

/-- What a tile's start-up is at. -/
def Dev.tileStart (d : Dev) (t : Nat) : Option TileStart := AMap.find d.boot.tiles t

def Dev.updStart (d : Dev) (t : Nat) (f : TileStart → TileStart) : Dev :=
  match d.tileStart t with
  | some s => { d with boot := { d.boot with tiles := AMap.put d.boot.tiles t (f s) } }
  | none => d

/-- Whether stage 8 calibrates a tile (R436). -/
def Dev.needsCal (d : Dev) (t : Nat) : Bool :=
  d.flag F.START_CFG.FORCE_CAL || !d.flag (F.TILE_MODE.CAL_VALID t) ||
  (match AMap.find d.cal.recs.heads t with
   | none => true
   | some (h : CalHead) => h.part ≠ d.rd (F.WEFT_IDENT.PART t) || h.rev ≠ d.rd (F.WEFT_IDENT.REV t))

/-- BOOT_STAT.STAGE while tiles start: the least stage of any tile (DEDUCED). -/
def Dev.showStage (d : Dev) : Dev :=
  if d.stage < 7 || 10 < d.stage || d.boot.tiles.isEmpty then d
  else
    let n := (d.boot.tiles.map (fun (ts : Nat × TileStart) => ts.2.stage)).foldl min 10
    if n = d.stage then d else d.setStage n

/-- At a boundary: a FENCED tile in stage 7 starts its wake; one in stage 8 with a fitting stored calibration goes on to stage 9. -/
def Dev.startBoundary (d : Dev) : Dev :=
  if !d.controls then d
  else
    let d := forEach d.boot.tiles (fun (ts : Nat × TileStart) (d : Dev) =>
      if d.tileMode ts.1 ≠ Tm.fenced then d
      else if ts.2.stage = 7 && (d.link ts.1).wake.isEmpty then d.startWake ts.1 none [] true
      else if ts.2.stage = 8 && !ts.2.settled && !ts.2.deferred && !d.needsCal ts.1 then d.updStart ts.1 (fun s => { s with stage := 9 })
      else d) d
    d.showStage

/-- A valid tile temperature is kept while the tile settles (R429). -/
def Dev.settleNote (d : Dev) (t : Nat) : Dev :=
  if !d.flag (F.TILE_TEMP.VALID t) then d
  else d.updStart t (fun s =>
    if s.stage ≠ 8 || s.settled then s
    else
      let from_ := d.time.tb - 1000000000 * max 1 (d.rd F.START_CFG.STABLE_S)
      let xs := s.temps ++ [(d.time.tb, d.rdS (F.TILE_TEMP.TEMP t))]
      let old := xs.filter (fun (x : Nat × Int) => decide (x.1 ≤ from_))
      { s with temps := old.drop (old.length - 1) ++ xs.filter (fun (x : Nat × Int) => decide (from_ < x.1)) })

/-- The temperature has stayed within STABLE_MC × 10 m°C for STABLE_S. -/
def Dev.isSettled (d : Dev) (s : TileStart) : Bool :=
  let from_ : Int := (d.time.tb : Int) - 1000000000 * max 1 (d.rd F.START_CFG.STABLE_S)
  match s.temps with
  | [] => false
  | x :: xs =>
    let hi := xs.foldl (fun (m : Int) (y : Nat × Int) => max m y.2) x.2
    let lo := xs.foldl (fun (m : Int) (y : Nat × Int) => min m y.2) x.2
    decide ((x.1 : Int) ≤ from_) && decide ((hi - lo) * 1000 ≤ (d.rd F.START_CFG.STABLE_MC : Int) * 10 * 256)

/-- THERMAL_SETTLED (R429): within STABLE_MAX_S of the end of its wake the tile enters CAL, through the wake of R428, and its calibration starts. -/
def Dev.thermalSettled (d : Dev) (t : Nat) : Dev :=
  match d.tileStart t with
  | none => d
  | some s =>
    let late := s.wakeEnd.any (fun w => decide (w + 1000000000 * d.rd F.START_CFG.STABLE_MAX_S < d.time.tb))
    if s.stage ≠ 8 || s.settled || s.deferred || late || !d.isActive || d.tileMode t ≠ Tm.fenced || !d.isSettled s then d
    else
      let d := d.updStart t (fun s => { s with settled := true, temps := [] })
      let r : CalRun := { tile := t, cell := none, pass := 0, item := none, fails := 0, aborted := false, stage8 := true }
      (d.startCal r).startWake t (some Tm.cal) [] false

/-- CAL_DEFERRED (R429): STABLE_MAX_S from the end of the wake without settling; the tile stays FENCED. -/
def Dev.calDeferred (d : Dev) (t : Nat) : Dev :=
  match d.tileStart t with
  | none => d
  | some s =>
    if s.stage ≠ 8 || s.settled || s.deferred then d
    else match s.wakeEnd with
      | none => d
      | some w => d.fire (w + 1000000000 * d.rd F.START_CFG.STABLE_MAX_S) (fun d =>
          (d.updStart t (fun s => { s with deferred := true, temps := [] })).raise 0x2C 10 t 0)

/-- LOOPCFG of a record goes into its loop (R434). -/
def Dev.putLoopCfg (d : Dev) (l : Nat) (c : LoopCfg) : Dev :=
  let b := fun (x : Bool) => if x then (1 : Nat) else 0
  let d := ((d.wrLoop (F.LOOP.CLASS l) c.cls).wrLoop (F.LOOP.TREADLE_SEL l) c.sel).wrLoop (F.LOOP.TREADLE_EN l) (b c.trdEn)
  let d := ((d.wrLoop (F.LOOP.GAIN_NEG l) (b c.gainNeg)).wrLoop (F.LOOP.OUTER_EN l) (b c.outerEn)).wrLoop (F.LOOP.SP_NOM l) c.spNom
  ((d.wrLoop (F.LOOP.SP_RANGE l) c.spRange).wrLoop (F.LOOP.U_MIN l) c.uMin).wrLoop (F.LOOP.U_MAX l) c.uMax

/-- The fields of a tile's records reach its loops. -/
def Dev.loadRecords (d : Dev) (t : Nat) : Dev :=
  let d := forEach d.cal.recs.cells (fun (cr : Nat × CalRec) (d : Dev) =>
    if cellTile cr.1 = t then cr.2.cfg.elim d (d.putLoopCfg (cellLoop cr.1)) else d) d
  forEach d.cal.recs.ports (fun (pr : Nat × PortCal) (d : Dev) =>
    if pr.1 / 256 = t then
      let l := voaLoop t (pr.1 % 256)
      let d := d.wrLoop (F.LOOP.MON_OFFSET l) pr.2.monOffset
      pr.2.cfg.elim d (d.putLoopCfg l)
    else d) d

/-- EN = 1 on every loop of a tile. -/
def Dev.enableLoops (d : Dev) (t : Nat) : Dev :=
  let d := forEach (List.range 3840) (fun i (d : Dev) => d.wrLoop (F.LOOP.EN (t * 4096 + i)) 1) d
  forEach (List.range 256) (fun p (d : Dev) => d.wrLoop (F.LOOP.EN (voaLoop t p)) 1) d

/-- LOOPS_ENABLE (R434, R435): stages 9 and 10 of a tile whose band is set. -/
def Dev.loopsEnable (d : Dev) (t : Nat) : Dev :=
  match d.tileStart t with
  | none => d
  | some s =>
    if s.stage ≠ 9 || !d.isActive || d.tileMode t ≠ Tm.fenced || !d.therm.bandKnown.contains t then d
    else
      let d := d.loadRecords t
      let d := if d.boot.crcBad then d else d.treadleLoad t
      let d := d.enableLoops t
      let d := d.updStart t (fun s => { s with stage := 10 })
      let d := if d.flag F.START_CFG.AUTO_ACTIVATE then d.startWake t (some Tm.active) [] false else d
      d.showStage

/-- What follows role resolution (R417, R435): a unit that became ACTIVE takes its tiles to stage 7; one that became STANDBY
loads the loop fields and every treadle table; one that took over enables the loops of the tiles whose stage 9 ran on its peer
(assumption 29). -/
def Dev.afterRole (d : Dev) (was : Nat) : Dev :=
  if was = Pr.claiming && d.isActive then
    forEach d.draftTiles (fun t (d : Dev) => if (d.tileStart t).isNone && d.tileMode t ≠ Tm.offline then d.enableLoops t else d) d
  else if was ≠ Pr.resolving then d
  else if d.isActive then (if d.stage = 6 then d.setStage 7 else d).startTiles d.draftTiles
  else if d.role = Pr.standby then
    forEach tiles16 (fun t (d : Dev) =>
      let d := d.loadRecords t
      if d.boot.crcBad then d else d.treadleLoad t) d
  else d

/-- The security version counter is raised to the running image's (R420). -/
def Dev.raiseFuse (d : Dev) : Dev :=
  match d.boot.image with
  | some i => { d with nv := { d.nv with fuse := max d.nv.fuse i.secVer } }
  | none => d

/-- The unit is READY or READY_STANDBY (R417). -/
def Dev.readyStage (d : Dev) : Option Nat :=
  if d.isActive && 7 ≤ d.stage && d.draftTiles.all (fun t => match d.tileStart t with
      | some s => s.stage = 10 && d.tileMode t = Tm.active
      | none => false) then some 11
  else if d.role = Pr.standby && 6 ≤ d.stage && d.rd F.SLV_STAT.MIRROR = 2 then some 12
  else none

/-- BOOT_OK (R417). -/
def Dev.bootOk (d : Dev) : Dev :=
  if d.boot.okRaised then d
  else match d.readyStage with
    | none => d
    | some n =>
      let d := d.setStage n
      let d := if n = 11 then d.raiseFuse else d
      let d := d.setFlag F.BOOT_STAT.WARM (n = 11 && !d.boot.calibrated)
      ({ d with boot := { d.boot with okRaised := true } }).raise 0x01 0 n 0

/-! ## Restart after a shut-down (R234, R235) -/

/-- Every block but Therm, Marl and Supply is held as under RESET_N (R232). -/
def Dev.holdBlocks (d : Dev) : Dev :=
  let keep := fun (kv : Nat × Nat) =>
    let a := kv.1 / 32
    (0x40000 ≤ a && a < 0x50000) || (0x200000 ≤ a && a < 0x210000) || (0x2C0000 ≤ a && a < 0x2D0000)
  let straps := d.strapsNow
  let n : Dev := { mem := d.mem.filter keep, nv := d.nv, free := d.free, therm := { d.therm with shut := 3 }, sup := d.sup, marl := d.marl
                   time := { tb := d.time.tb } }
  n.straps [straps]

/-- THERM_RESTART (R234). -/
def Dev.thermRestart (d : Dev) : Dev :=
  if d.therm.shut ≠ 3 || !d.flag F.THERM_CFG.SHUT_RESTART then d
  else match d.therm.belowTb with
    | none => d
    | some b => d.fireHeld (b + 1000000000 * max 1 (d.rd F.THERM_CFG.RESTART_S)) (fun d => d.resetSelf.raise 0x20 10 0 0)

/-- THERMTRIP (R235): the comparator sees a sensor past 125 °C, or every sensor below 110 °C again, when the unit starts as at the
release of POR_N. -/
def Dev.thermTrip (d : Dev) (past : Bool) : Dev :=
  if past then
    if d.therm.trip then d
    else ({ d with therm := { d.therm with trip := true } }).resetSelf
  else if d.therm.trip then (({ d with therm := { d.therm with trip := false } }).resetSelf).raise 0x20 11 0 0
  else d

end Sys2Proof.Machine
end

