-- ==== Sys2Proof/Machine/Windows.lean ====
section
/-! DEFINITION. Paths, ranges and windows of Reed (chapter 19, R398 - R402). -/

namespace Sys2Proof.Machine

/-- The paths of R399 by master and target: 0 none, 1 R, 2 W, 3 RW.  M0-M3 have one row. -/
def pathTable : List (List Nat) := [
  [1, 3, 3, 3, 3, 3, 3, 3, 3, 3],
  [1, 3, 3, 3, 3, 3, 3, 3, 3, 3],
  [1, 3, 3, 3, 3, 3, 3, 3, 3, 3],
  [1, 3, 3, 3, 3, 3, 3, 3, 3, 3],
  [1, 0, 0, 3, 0, 0, 0, 0, 0, 0],
  [0, 3, 3, 1, 2, 0, 0, 0, 0, 0],
  [0, 0, 3, 1, 0, 3, 0, 0, 0, 0],
  [3, 3, 3, 3, 0, 0, 3, 0, 3, 3],
  [0, 0, 0, 0, 1, 0, 1, 1, 1, 2],
  [0, 0, 0, 0, 0, 0, 0, 0, 0, 2],
  [0, 0, 0, 0, 1, 0, 0, 0, 0, 1],
  [3, 3, 3, 3, 3, 3, 3, 3, 3, 3]]

/-- The path of a master to a target. -/
def pathOf (m t : Nat) : Nat := (pathTable.getD m []).getD t 0

/-- The address map (R401): start, size, target. -/
def addrMap : List (Nat × Nat × Nat) := [
  (0x0000000000, 0xD0000, 6),
  (0x00000D0000, 0x100000, 7),
  (0x00001D0000, 0x30000, 8),
  (0x0000200000, 0xD0000, 6),
  (0x0001000000, 0x80000, 0),
  (0x0001080000, 0x40000, 3),
  (0x00010C0000, 0x4000, 3),
  (0x00010C4000, 0xF0000, 0),
  (0x00011B4000, 0x40000, 0),
  (0x00011F4000, 0x210000, 3),
  (0x0001404000, 0x40000, 3),
  (0x0001444000, 0x200000, 3),
  (0x0001644000, 0x100000, 3),
  (0x0001744000, 0xBC000, 3),
  (0x0002000000, 0x800000, 1),
  (0x0004000000, 0x2000000, 2),
  (0x0008000000, 0xC0000, 9),
  (0x0100000000, 0x100000000, 4),
  (0x0200000000, 0x80000000, 5)]

/-- The target that serves an address. -/
def targetOf (a : Nat) : Option Nat :=
  (addrMap.find? (fun (x : Nat × Nat × Nat) => decide (x.1 ≤ a ∧ a < x.1 + x.2.1))).map (fun (x : Nat × Nat × Nat) => x.2.2)

/-- A window as its registers hold it: base address, SIZE_LOG2, masters that take effect, READ, WRITE, EN. -/
structure Win where
  base : Nat
  log2 : Nat
  masters : List Nat
  rd : Bool
  wr : Bool
  en : Bool
  deriving DecidableEq, Repr

/-- Window n. -/
def Dev.win (d : Dev) (n : Nat) : Win :=
  { base := d.rd (F.REED_WIN_BASE.BASE n) * 4096
    log2 := d.rd (F.REED_WIN_CTL.SIZE_LOG2 n)
    masters := [8, 9, 10, 11].filter (fun m => bit (d.rd (F.REED_WIN_CTL.MASTERS n)) m)
    rd := d.flag (F.REED_WIN_CTL.READ n)
    wr := d.flag (F.REED_WIN_CTL.WRITE n)
    en := d.flag (F.REED_WIN_CTL.EN n) }

/-- Two address ranges meet. -/
def meets (a n b m : Nat) : Bool := decide (a < b + m) && decide (b < a + n)

/-- Whether window n as it stands would be taken (R402). -/
def Dev.winOk (d : Dev) (n : Nat) : Bool :=
  let w := d.win n
  let size := 2 ^ w.log2
  decide (12 ≤ w.log2) && decide (w.log2 ≤ 40) && decide (w.base % size = 0) &&
  addrMap.all (fun (x : Nat × Nat × Nat) => !meets w.base size x.1 x.2.1 || w.masters.any (fun m => pathOf m x.2.2 ≠ 0)) &&
  (List.range 16).all (fun k =>
    let v := d.win k
    k = n || !v.en || !meets w.base size v.base (2 ^ v.log2) || !w.masters.any (fun m => v.masters.contains m))

/-- REED_WIN_WRITE (R402): a write of the base (reg 0) or control (reg 1) register of window n. -/
def Dev.winWrite (d : Dev) (n reg v : Nat) : Dev × Nat :=
  let e := if reg = 0 then d.wr (F.REED_WIN_BASE.BASE n) (bits v 27 0)
    else ((((d.wr (F.REED_WIN_CTL.SIZE_LOG2 n) (bits v 5 0)).wr (F.REED_WIN_CTL.MASTERS n) (bits v 27 16)).setFlag
      (F.REED_WIN_CTL.READ n) (bit v 28)).setFlag (F.REED_WIN_CTL.WRITE n) (bit v 29)).setFlag (F.REED_WIN_CTL.EN n) (bit v 31)
  if e.winOk n then (e, St.ok) else (d.raise 0x02 7 n 1, St.valueInvalid)

end Sys2Proof.Machine
end

