-- ==== Sys2Proof/Machine/Regs.lean ====
section
/-! DEFINITION. Register space as the host and Reed reach it: which words are mapped, what a read returns, what a write does and
when it is refused (R4, R6 - R8, R294; the register tables of every chapter). -/

namespace Sys2Proof.Machine

/-! ## Which words are mapped -/

/-- A word of register space: a row of the tables (its first address, its indices, widest stride first, its fields); the words of bin b of
histogram unit u (R396); word i of generator s's table (R223); a word that reads as zero and ignores writes (R78, R208,
R270); the word or the timestamp of entry i of converter k's output ring (R202). -/
inductive RegAt where
  | row (base : Nat) (idx : List Nat) (fields : List FRow)
  | bin (u b hi : Nat)
  | sine (s i : Nat)
  | ring (k i : Nat) (stamp : Bool)
  | zero
  deriving DecidableEq, Repr

/-- The indices of an offset into an array of registers. -/
def dimIdx : List (Nat × Nat) → Nat → Option (List Nat)
  | [], off => if off = 0 then some [] else none
  | (s, c) :: ds, off => if off / s < c then (dimIdx ds (off % s)).map (fun is => (off / s) :: is) else none

/-- The word at an address, if it is mapped. -/
def regAt (a : Nat) : Option RegAt :=
  if a % 4 ≠ 0 then none
  else if 0x1F8000 ≤ a && a < 0x200000 then some (.sine ((a - 0x1F8000) / 0x800) ((a - 0x1F8000) % 0x800 / 4))
  else if 0x1D0000 ≤ a && a < 0x1F0000 && 0x8000 ≤ a % 0x10000 && a % 0x10000 < 0xA000 then
    some (.ring ((a - 0x1D0000) / 0x10000) (a % 0x2000 / 8) (a / 4 % 2 = 1))
  else if 0x2B4000 ≤ a && a < 0x2B4000 + 0x100 * 35 then
    some (.bin ((a - 0x2B4000) / 0x100) ((a - 0x2B4000) % 0x100 / 8) ((a - 0x2B4000) / 4 % 2))
  else if (0x60000 ≤ a && a < 0x90000 && 0x800 ≤ a % 0x10000 && a % 0x10000 < 0x810) || (0x1E0600 ≤ a && a < 0x1E06C0) ||
      (0x230000 ≤ a && a < 0x250000 && ((0x800 ≤ a % 0x10000 && a % 0x10000 < 0xA04) || (0xA20 ≤ a % 0x10000 && a % 0x10000 < 0xA40))) then
    some .zero
  else regTable.findSome? (fun (r : RRow) =>
    if a < r.base then none else (dimIdx r.dims (a - r.base)).map (fun is => RegAt.row r.base is r.fields))

/-- The reset value of a field, for the rows whose reset depends on the index (R223, R260, R320). -/
def rowRst (base : Nat) (idx : List Nat) (f : FRow) : Nat :=
  let n := idx.getLast?.getD 0
  if base = R.DAC_CH_CFG 0 && f.lo = 4 then n % 16 / 4
  else if base = R.EQ_CFG 0 0 then (if f.lo = 0 then eqStrictReset n else if f.lo = 4 then eqLimitReset n else eqQuantumReset n)
  else if base = R.EQ_TAG 0 0 && f.lo = 16 then eqPcpReset n
  else if base = R.MAC_CTRL 0 && n = 2 && (f.lo = 2 || f.lo = 8) then 0
  else if base = R.RULE_CTL 0 then
    (if f.lo ≤ 2 then (if n < 8 then 1 else 0)
     else if f.lo = 4 then ruleQueueReset n
     else if f.lo = 12 then ruleMEtypeReset n
     else if f.lo = 13 || f.lo = 14 then ruleMIpReset n
     else if f.lo = 15 then ruleMUdpReset n
     else f.rst)
  else if base = R.RULE_L2 0 && f.lo = 16 then ruleEtypeReset n
  else if base = R.RULE_L3 0 then
    (if f.lo = 0 then ruleIpvReset n else if f.lo = 8 then ruleProtoReset n else if f.lo = 16 then ruleUdpReset n else f.rst)
  else f.rst

/-! ## Reads -/

/-- The fields of a row as they are held. -/
def Dev.rowVal (d : Dev) (a base : Nat) (idx : List Nat) (fields : List FRow) : Nat :=
  (fields.map (fun (f : FRow) => AMap.get d.mem (a * 32 + f.lo) (rowRst base idx f) % 2 ^ f.width * 2 ^ f.lo)).sum

/-- The cells of the ledger, all or of one tile. -/
def Dev.warmCells (d : Dev) (t : Option Nat) : Nat :=
  (d.tilth.led.filter (fun (ce : Nat × Led) => match t with
    | some t => cellTile ce.1 = t
    | none => true)).length

/-- START of the list that awaits, or of the one in operation (R319). -/
def Dev.gateStart (d : Dev) (p : Nat) : Nat :=
  match AMap.find d.sched.await p, AMap.find d.sched.oper p with
  | some g, _ => g.start
  | none, some g => g.start
  | none, none => 0

/-- SILT_CELL: the drift record that CELL_SEL names (R246). -/
def Dev.siltCell (d : Dev) : Nat :=
  let c := d.rd F.SILT_CTRL.CELL_SEL
  match (if c ≤ 61439 then AMap.find d.silt.drift c else none) with
  | none => 2 ^ 30
  | some (x : Drift) =>
    min 65535 x.now + min 4095 x.head * 2 ^ 16 + (if x.flagged then 2 ^ 28 else 0) + (if x.recentred then 2 ^ 29 else 0) +
      (if x.noRoom then 2 ^ 31 else 0)

/-- Marl holds an operation of a kind, waiting or running. -/
def Dev.marlHas (d : Dev) (k : MarlKind) : Bool :=
  (d.marl.queue.map (fun (o : MarlOp) => o.kind) ++ (d.marl.run.toList ++ d.marl.below.toList).map (fun (r : MarlRun) => r.op.kind)).contains k

/-- Registers whose value follows other state: the value given, with the live fields put in. -/
def Dev.liveVal (d : Dev) (base : Nat) (idx : List Nat) (v : Nat) : Nat :=
  let i := idx.headD 0
  let j := idx.getD 1 0
  if base = R.PICK_NUM_LO then d.pick.num % 2 ^ 32
  else if base = R.TB_NS_LO then d.time.tb % 2 ^ 32
  else if base = R.PTP_OFS_LO then ofS 64 d.time.ofs % 2 ^ 32
  else if base = R.PTP_OFS_HI then ofS 64 d.time.ofs / 2 ^ 32
  else if base = R.PERF_CNT_LO 0 then (d.ctr i).val % 2 ^ 32
  else if base = R.DRAFT_ACTIVE_ID then draftWord d.draft.active 4
  else if base = R.DRAFT_ACTIVE_VER then draftWord d.draft.active 8
  else if base = R.DRAFT_STAGED_ID then draftWord d.draft.staged 4
  else if base = R.DRAFT_STAGED_VER then draftWord d.draft.staged 8
  else if base = R.PICK_STAT then putBit v 8 (decide (d.rd F.PICK_CFG.RATE ≠ d.pick.rate) || decide (d.rd F.PICK_CFG.BEAT ≠ d.pick.beat))
  else if base = R.TRD_CTRL then putBit v 0 d.trd.save.isSome
  else if base = R.TRD_DIRTY then d.trd.dirty.length
  else if base = R.CIRC_STAT then d.liveEntries.length + d.altEntries.length * 2 ^ 16
  else if base = R.PIECE_STAT then putBits v 31 24 (min 255 d.cir.pieces.length)
  else if base = R.PROT_STAT then
    putBits v 7 0 (((List.range 8).filter (fun n => (AMap.get d.cir.pins n ({} : ProtPin)).deb)).foldl (fun m n => putBit m n true) 0)
  else if base = R.TIMED_STAT then putBits v 6 0 (min 64 (d.cir.queue.filter (fun (c : Cmd) => c.at_.isSome)).length)
  else if base = R.SHTL_STAT then putBits v 5 0 (min 63 (d.cir.queue.filter (fun (c : Cmd) => c.planned)).length)
  else if base = R.TILTH_STAT then min 65535 (d.warmCells none) + min 65535 (d.ledSum (fun _ _ => true) / 100) * 2 ^ 16
  else if base = R.TILTH_PLANS then d.tilth.rsv.length + (d.altEntries.filter d.altArmed).length * 2 ^ 16
  else if base = R.TILTH_TILE 0 then
    min 4095 (d.warmCells (some i)) + min 255 (d.xtPairs i) * 2 ^ 12 + min 4095 (d.ledSum (fun c _ => cellTile c = i) / 100) * 2 ^ 20
  else if base = R.WEFT_CTRL 0 then putBit v 1 (d.link i).burst
  else if base = R.SILT_CTRL then putBit (putBit v 0 (d.marlHas .silt)) 1 (d.silt.replanning || d.silt.due)
  else if base = R.SILT_CELL then d.siltCell
  else if base = R.DAC_CH_STAT 0 then putBit (putBit v 3 (d.dacForced i)) 4 (!d.dacHiZ i)
  else if base = R.CHEDA_STAT then putBits v 4 0 d.cheda.sessions.length
  else if base = R.EQ_STAT 0 0 then
    putBit (putBit (putBits v 17 0 (min 262143 (d.egFill i j))) 24 (d.gateOpen i j)) 25 ((d.shapeOf i j).1 ≠ 0 && decide (AMap.get d.sched.tokens (i * 8 + j) 0 ≤ 0))
  else if base = R.GCL_STAT 0 then putBits v 5 0 (d.gclEntry i)
  else if base = R.GCL_CYCLES 0 then d.gclCycles i
  else if base = R.GCL_START_LO 0 then d.gateStart i % 2 ^ 32
  else if base = R.SLV_CSN then d.csnNow
  else if base = R.SLV_STAT then putBit v 18 (d.agreedNow ≠ 0)
  else if base = R.SLV_AGREED_LO then d.agreedNow % 2 ^ 32
  else if base = R.TRACE_STAT then putBit v 0 d.loam.export_.isSome
  else if base = R.BOOT_STAT then putBits v 31 16 (min 65535 (d.time.tb / 10000000))
  else if base = R.CAL_CTRL then putBit v 1 (d.marlHas .cal)
  else if base = R.EV_CTRL 0 then putBit v 0 (d.ev.clearPend.contains i)
  else if base = R.EV_INJECT 0 then putBit v 31 (d.injecting i)
  else v

/-- The register word that an act at a DAC clock edge will put in force. -/
def DacAct.word : DacAct → Option (Nat × Nat)
  | .src v => some (R.DAC_LOAD_CFG, v)
  | .cfg c v => some (R.DAC_CH_CFG c, v)
  | .param s reg v => some (R.SINE_FTW s + 4 * reg, v)
  | _ => none

/-- The registers that a DAC clock edge changes. -/
def dacClocked (base : Nat) : Bool :=
  [R.DAC_CH_CFG 0, R.DAC_CODE 0, R.DAC_CH_STAT 0, R.DAC_LOAD_CFG, R.DAC_STAT, R.SINE_CFG 0, R.SINE_FTW 0, R.SINE_AMP 0, R.SINE_PHASE0 0].contains base

/-- The write that waits for its boundary at an address. -/
def Dev.waitingWrite (d : Dev) (a : Nat) : Option Nat :=
  ((d.regs.pick ++ d.regs.beat ++ d.dac.agenda.filterMap (fun (y : Nat × DacAct) => y.2.word)).reverse.find? (fun (x : Nat × Nat) =>
    x.1 = a)).map (fun (x : Nat × Nat) => x.2)

/-- A bin word (R396): the low word is live, the high word as latched. -/
def Dev.binVal (d : Dev) (u b hi : Nat) : Nat :=
  if hi = 1 then AMap.get d.perf.binLatch (u * 32 + b) 0 else AMap.get (d.unit u).bins b 0 % 2 ^ 32

/-- The bits of a word that its fields hold: Reserved bits read as zero (R6). -/
def keptBits (fields : List FRow) (v : Nat) : Nat :=
  (fields.map (fun (f : FRow) => v / 2 ^ f.lo % 2 ^ f.width * 2 ^ f.lo)).sum

/-- What a register word reads as. -/
def Dev.regVal (d : Dev) (a : Nat) : Nat :=
  match regAt a with
  | some (.row base idx fields) =>
    let d := if dacClocked base then d.dacNow else d
    match d.waitingWrite a with
    | some v => keptBits fields v
    | none => d.liveVal base idx (d.rowVal a base idx fields)
  | some (.bin u b hi) => d.binVal u b hi
  | some (.sine s i) => d.sineEntry s (2 * i) + d.sineEntry s (2 * i + 1) * 2 ^ 16
  | some (.ring k i stamp) => let e := AMap.get (d.conv k).ring i (0, 0); if stamp then e.2 else e.1
  | _ => 0

/-- A read, with what it latches (R53, R319, R337, R387, R396). -/
def Dev.regRead (d : Dev) (a : Nat) : Dev × Nat :=
  let d := match regAt a with
    | some (.row base idx _) =>
      let i := idx.headD 0
      if base = R.PICK_NUM_LO then d.pickNumRead
      else if base = R.TB_NS_LO then d.tbNsRead
      else if base = R.PERF_CNT_LO 0 then d.perfCntRead i
      else if base = R.EV_FIRST_PICK_LO 0 then d.wr (F.EV_FIRST_PICK_HI.PICK i) (AMap.get d.ev.firstHi i 0)
      else if base = R.SLV_AGREED_LO then d.wr F.SLV_AGREED_HI.AGREED_HI (d.agreedNow / 2 ^ 32)
      else if base = R.GCL_START_LO 0 then d.wr (F.GCL_START_HI.START_HI i) (d.gateStart i / 2 ^ 32)
      else d
    | some (.bin u b 0) =>
      { d with perf := { d.perf with binLatch := AMap.set d.perf.binLatch (u * 32 + b) (AMap.get (d.unit u).bins b 0 / 2 ^ 32) 0 } }
    | _ => d
  (d, d.regVal a)

/-- Consecutive words from an address. -/
def Dev.regReads (d : Dev) (a : Nat) : Nat → Dev × List Nat
  | 0 => (d, [])
  | n + 1 =>
    let (d, v) := d.regRead a
    let (d, vs) := Dev.regReads d (a + 4) n
    (d, v :: vs)

/-! ## Writes -/

/-- Stores a word under the access codes (R7): RW fields take it, W1C bits that are written 1 clear. -/
def Dev.storeWord (d : Dev) (a base : Nat) (idx : List Nat) (fields : List FRow) (v : Nat) : Dev :=
  forEach fields (fun (f : FRow) (d : Dev) =>
    let k := a * 32 + f.lo
    let r := rowRst base idx f
    let x := v / 2 ^ f.lo % 2 ^ f.width
    match f.acc with
    | .rw => { d with mem := AMap.set d.mem k x r }
    | .w1c => { d with mem := AMap.set d.mem k (AMap.get d.mem k r - (AMap.get d.mem k r &&& x)) r }
    | _ => d) d

/-- Registers that are written only on the unit in pair role ACTIVE and mirrored with the coefficient sets, whatever they hold. -/
def pairWritten (base : Nat) : Bool :=
  base = R.PICK_CFG || base = R.TRK_CFG 0 || base = R.TRK_LIM 0 || base = R.TRK_BASE_LO 0 || base = R.TRK_BASE_HI 0 ||
  base = R.CELL_CFG || base = R.CIRC_CFG || base = R.PIECE_CFG || base = R.PROT_CFG || base = R.FC_BUDGET || base = R.SHTL_CFG ||
  base = R.TILTH_CFG || base = R.TILTH_PWR || base = R.TILTH_LIM || base = R.TILTH_TMO || base = R.CAL_CFG || base = R.CAL_CTRL ||
  base = R.BAND_CFG || base = R.TT_CAL 0 || base = R.TEC_CFG 0 || base = R.TEC_SET 0 || base = R.TEC_LIM 0 || base = R.TEC_GAIN 0 ||
  base = R.TEC_INTEG 0

/-- Of the DAC channels those that are SHARED follow the same rule (R217). -/
def Dev.pairOwned (d : Dev) (base : Nat) (idx : List Nat) : Bool :=
  pairWritten base ||
  ((base = R.DAC_CH_CFG 0 || base = R.DAC_CODE 0 || base = R.DAC_CLR_CODE 0) && d.flag (F.DAC_CH_CFG.SHARED (idx.headD 0)))

/-- CLR_SEL, CLR_EN, SHARED and OT_POLICY of a word of DAC_CH_CFG. -/
def Dev.dacCfgPut (d : Dev) (c v : Nat) : Dev :=
  (((d.wr (F.DAC_CH_CFG.CLR_SEL c) (bits v 8 8)).wr (F.DAC_CH_CFG.CLR_EN c) (bits v 9 9)).wr (F.DAC_CH_CFG.SHARED c) (bits v 10 10)).wr
    (F.DAC_CH_CFG.OT_POLICY c) (bits v 11 11)

/-- A write of DAC_CH_CFG: RANGE may be refused; RANGE and GROUP take effect at the next DAC clock edge (R214, R224). -/
def Dev.dacCfgWrite (d : Dev) (c v : Nat) : Dev × Nat :=
  let d := d.dacNow
  let st := d.rangeOwned c (bits v 1 0)
  if st ≠ St.ok then (d, st) else ((d.dacCfgPut c v).dacAt (dacEdge d.time.tb 1) (.cfg c v), St.ok)

/-- A write of TEC_CFG. -/
def Dev.tecCfgWrite (d : Dev) (t v : Nat) : Dev × Nat :=
  let d := ((d.wr (F.TEC_CFG.TEC_POL t) (bits v 1 1)).wr (F.TEC_CFG.HOLD_MS t) (bits v 15 8)).wr (F.TEC_CFG.TEC_SAFE t) (bits v 31 16)
  (d.tecEnPut t (bit v 0), St.ok)

/-- A write of SINE_CFG. -/
def Dev.sineCfgWrite (d : Dev) (s v : Nat) : Dev := if bit v 0 then d.sineEnable s else d.sineDisable s

/-- A write of WEFT_CTRL (R190). -/
def Dev.weftCtrlWrite (d : Dev) (t v : Nat) : Dev :=
  let was := d.rd (F.WEFT_CTRL.LANE_DIS t)
  let now := bits v 13 8
  let d := d.wr (F.WEFT_CTRL.LANE_DIS t) now
  -- a lane that is enabled again is retrained and rejoins at a beat boundary (R186)
  let d := forEach (bitsSet now 6) (fun l (d : Dev) => if bit was l then d else d.laneFail t l) d
  let d := if bit v 0 && !d.flag (F.WEFT_CTRL.RETRAIN t) then (d.retrainStart t).setFlag (F.WEFT_CTRL.RETRAIN t) true else d
  if bit v 1 then d.updLink t (fun k => { k with burst := true }) else d

/-- A write of SV_CTRL. -/
def Dev.svCtrlWrite (d : Dev) (k v : Nat) : Dev :=
  let d := (d.setFlag (F.SV_CTRL.BG_EN k) (bit v 1)).svRun k (bit v 0)
  if bit v 2 then d.svCal k else d

/-- A write of SILT_VID: VID_MV is Silt's while VID_AUTO = 1 (R246). -/
def Dev.siltVidWrite (d : Dev) (v : Nat) : Dev × Nat :=
  if d.flag F.SILT_CFG.VID_AUTO && d.rd F.SILT_VID.VID_MV ≠ bits v 9 0 then (d, St.fieldOwned)
  else ((d.wr F.SILT_VID.VID_MV (bits v 9 0)).wr F.SILT_VID.VID_CEIL (bits v 25 16), St.ok)

/-- A write of SILT_CTRL. -/
def Dev.siltCtrlWrite (d : Dev) (v : Nat) : Dev :=
  let d := d.wr F.SILT_CTRL.CELL_SEL (bits v 31 16)
  let d := if bit v 0 && !d.marlHas .silt then d.siltSave else d
  if bit v 1 && !d.silt.replanning && !d.silt.due then d.replanNow else d

/-- A write of TIME_CFG: SRC, RELOCK and PTP_PORT act at once (R326 - R329); one that leaves PTP_PORT as it is ends a fallback too. -/
def Dev.timeCfgWrite (d : Dev) (store : Dev → Dev) (v : Nat) : Dev :=
  let src := d.rd F.TIME_CFG.SRC
  let port := d.ptpPort
  let d := store d
  let d := if d.rd F.TIME_CFG.SRC = src then d else d.servoSrc
  let d := d.ptpPortWritten port
  if bit v F.TIME_CFG.RELOCK.lo then d.relock else d

/-- A write of BOB_LIST_i: the word-aligned address of a mapped register (R396). -/
def Dev.bobListWrite (d : Dev) (a v : Nat) : Dev × Nat :=
  if (regAt v).isSome then ({ d with mem := AMap.set d.mem (a * 32) v 0 }, St.ok) else (d, St.valueInvalid)

/-- A write that takes effect at the next beat boundary (R96, R166). -/
def Dev.atBeat (d : Dev) (a v : Nat) : Dev := { d with regs := { d.regs with beat := d.regs.beat ++ [(a, v)] } }

/-- A write of BAND_CFG: the thresholds must rise (R247). -/
def bandRises (v : Nat) : Bool := decide (bits v 7 0 < bits v 15 8) && decide (bits v 15 8 < bits v 23 16)

/-- A write of MAC_CTRL: on MAC_P four of its fields ignore it (R271). -/
def macCtrlWord (p v : Nat) : Nat := if p = 2 then putBits (putBits v 5 2 0) 11 8 0 else v

/-- Whether a policer's mode and rates may stand together (R317): rates as they are taken. -/
def polOk (mode cir pir : Nat) : Bool := decide (mode ≠ 3) && (decide (mode ≠ 2) || decide (min 10000 cir ≤ min 10000 pir))

/-- What a write of one word does: the chapters' special registers, otherwise the fields take it (R7). -/
def Dev.rowWrite (d : Dev) (a base : Nat) (idx : List Nat) (fields : List FRow) (v : Nat) : Dev × Nat :=
  let i := idx.headD 0
  let j := idx.getD 1 0
  let store := fun (d : Dev) => d.storeWord a base idx fields v
  let ok := fun (d : Dev) => (d, St.ok)
  if base = R.DRAFT_CTRL then ok (if bit v 0 then d.draftCheck else d)
  else if base = R.PICK_CFG then d.pickCfg v
  else if base = R.TRK_CFG 0 then
    if bits v 5 4 = 3 then (d, St.valueInvalid) else ok ((d.atBeat a v).updTrk i (fun t => { t with pend := true }))
  else if base = R.TRK_LIM 0 || base = R.TRK_BASE_LO 0 then ok (d.atBeat a v)
  else if base = R.TRK_BASE_HI 0 then
    let lo := d.regVal (R.TRK_BASE_LO i)
    ok ((d.atBeat a v).updTrk i (fun t => { t with pendBase := some (v % 2 ^ 32 * 2 ^ 32 + lo) }))
  else if base = R.TRD_CTRL then
    if !bit v 0 then (d, St.ok)
    else match d.treadleSaveStart none with
      | some d => (d, St.ok)
      | none => (d, St.busy)
  else if base = R.TILTH_CFG || base = R.TILTH_PWR || base = R.TILTH_LIM || base = R.TILTH_TMO then
    ok (d.atBeat a v)
  else if base = R.SLV_CFG || base = R.SLV_TMO then ok { d with regs := { d.regs with pick := d.regs.pick ++ [(a, v)] } }
  else if base = R.WEFT_CTRL 0 then ok (d.weftCtrlWrite i v)
  else if base = R.SV_CTRL 0 then ok (d.svCtrlWrite i v)
  else if base = R.SV_INJ 0 then d.injectGo i v
  else if base = R.SV_SCAN 0 0 then d.svScan i j v
  else if base = R.SV_DWELL 0 0 then d.svScan i (16 + j) v
  else if base = R.SV_SCAN_LEN 0 then d.svScan i 32 v
  else if base = R.DAC_CH_CFG 0 then d.dacCfgWrite i v
  else if base = R.DAC_CODE 0 then d.dacNow.dacCode i (v % 65536)
  else if base = R.DAC_STROBE then ok (d.dacNow.dacStrobe (bits v 3 0))
  else if base = R.DAC_LOAD_CFG then ok (d.dacNow.dacAt (dacEdge d.time.tb 1) (.src v))
  else if base = R.TEC_CFG 0 then d.tecCfgWrite i v
  else if base = R.TEC_INTEG 0 then (if d.flag (F.TEC_CFG.TEC_EN i) then (d, St.fieldOwned) else ok (store d))
  else if base = R.SINE_CFG 0 then ok (d.sineCfgWrite i v)
  else if base = R.SINE_FTW 0 then ok (d.sineParam i 0 v)
  else if base = R.SINE_AMP 0 then ok (d.sineParam i 1 v)
  else if base = R.SINE_PHASE0 0 then ok (d.sineParam i 2 v)
  else if base = R.THERM_RETIRE then ok (d.thermRetire (bits v 23 0))
  else if base = R.SILT_VID then d.siltVidWrite v
  else if base = R.SILT_CTRL then ok (d.siltCtrlWrite v)
  else if base = R.RULE_CTL 0 then ok ((store d).ruleInForce i)
  else if base = R.BAND_CFG then (if bandRises v then ok (store d) else (d, St.valueInvalid))
  else if base = R.MAC_CTRL 0 then ok (d.storeWord a base idx fields (macCtrlWord i v))
  else if base = R.TETH_CTRL then ok (store d).plcaWritten
  else if base = R.POL_RATE 0 then
    if polOk (d.rd (F.POL_CFG.MODE i)) (bits v 13 0) (bits v 29 16) then ok (store d) else (d, St.valueInvalid)
  else if base = R.POL_CFG 0 then
    if !polOk (bits v 1 0) (d.rd (F.POL_RATE.CIR i)) (d.rd (F.POL_RATE.PIR i)) then (d, St.valueInvalid) else
    ok ((store d).polModeWritten i)
  else if base = R.TIME_CFG then ok (d.timeCfgWrite store v)
  else if base = R.SERVO_CFG then ok (let d := store d; d.putAdj (d.rdS F.FREQ_ADJ.ADJ))
  else if base = R.PULSE_START_HI 0 then ok ((store d).pulseArm i)
  else if base = R.PULSE_CFG 0 then ok ((store d).pulseArm i)
  else if base = R.EV_MASK 0 || base = R.EV_QUIET 0 then ok (store d).alertPin
  else if base = R.EV_STATUS 0 then ok (d.evAck i (bits v 31 16) false)
  else if base = R.EV_INJ_STATUS 0 then ok (d.evAck i (bits v 31 16) true)
  else if base = R.EV_INJECT 0 then ok (let d := store d; if bit v 31 then d.goInject i v else d)
  else if base = R.EV_FIRST 0 then ok (if bit v 7 then d.evFirstClear i else d)
  else if base = R.EV_CTRL 0 then ok (if bit v 0 then d.evCountClr i else d)
  else if base = R.PERF_SEL 0 then ok (d.perfSel i v)
  else if base = R.PERF_CNT_HI 0 then ok (if bit v 31 then d.ovfClear i else d)
  else if base = R.HISTO_CFG 0 then d.histoCfg i v
  else if base = R.BOB_LIST 0 then d.bobListWrite a v
  else if base = R.REED_WIN_BASE 0 then d.winWrite i 0 v
  else if base = R.REED_WIN_CTL 0 then d.winWrite i 1 v
  else if base = R.START_CTRL then ok (if bit v 0 then d.go else d)
  else if base = R.CAL_CTRL then
    let d := if bit v 0 then d.calAbort else d
    ok (if bit v 1 && !d.marlHas .cal then d.calSave else d)
  else ok (store d)

/-- A write of one word: refused on a unit not in pair role ACTIVE where the register's chapter says so, otherwise as the register
does. -/
def Dev.regWrite (d : Dev) (a v : Nat) : Dev × Nat :=
  match regAt a with
  | none => (d, St.addrInvalid)
  | some .zero => (d, St.ok)
  | some (.bin _ _ _) => (d, St.ok)
  | some (.ring _ _ _) => (d, St.ok)
  | some (.sine s i) => d.dacNow.sineTable s i v
  | some (.row base idx fields) =>
    if d.pairOwned base idx && !d.isActive then (d, St.roleStandby)
    else d.rowWrite a base idx fields v

/-- Whether a write of an address travels to the peer (R345). -/
def Dev.regMirrored (d : Dev) (a : Nat) : Bool :=
  match regAt a with
  | some (.row base idx _) => d.pairOwned base idx && base ≠ R.CAL_CTRL
  | _ => false

/-- Whether a word that arrives in a mirror record is taken: a word that travels, or one that makes a channel SHARED (R217). -/
def Dev.regTaken (d : Dev) (a v : Nat) : Bool :=
  d.regMirrored a || (match regAt a with
    | some (.row base _ _) => base = R.DAC_CH_CFG 0 && bit v 10
    | _ => false)

/-- The sequence of writes of an item, all or nothing (R294): the device after it with the addresses that travel to the peer, or the
status and the index of the first word refused. -/
def Dev.regWrites (d : Dev) (a : Nat) : Nat → List Nat → List Nat → Except (Nat × Nat) (Dev × List Nat)
  | _, [], mir => .ok (d, mir)
  | i, v :: vs, mir =>
    let was := d.regMirrored a
    let r := d.regWrite a v
    if r.2 ≠ St.ok then .error (r.2, i)
    else Dev.regWrites r.1 (a + 4) (i + 1) vs (if was || r.1.regMirrored a then mir ++ [a] else mir)

/-- The word that travels for a register: what was written to DAC_CODE, which may still be in the input FIFO; otherwise what it reads as. -/
def Dev.mirVal (d : Dev) (a : Nat) : Nat :=
  match (d.dac.agenda.reverse.findSome? (fun (y : Nat × DacAct) => match y.2 with
    | .leave c v => if R.DAC_CODE c = a then some v else none
    | _ => none)) with
  | some v => v
  | none => d.regVal a

/-- What the mirror carries of register writes. -/
def Dev.regRecs (d : Dev) (as : List Nat) : List (Nat × MirBody) := as.map (fun a => (a, MirBody.reg (d.mirVal a)))

/-- A refused write has no effect but its report: WINDOW_CFG_REJECT (R402), the count of the refused injection request (R199). -/
def Dev.regRejected (d : Dev) (a v st : Nat) : Dev :=
  if 0x20400 ≤ a && a < 0x20500 then d.raise 0x02 7 ((a - 0x20400) / 16) 1
  else if st = St.valueInvalid && 0x270400 ≤ a && a < 0x270500 then d.raise 0x27 9 ((a - 0x270400) / 0x20) 1
  else if st = St.busy && a = R.SV_INJ 0 then d.injDropped 0 (v % 32)
  else if st = St.busy && a = R.SV_INJ 1 then d.injDropped 1 (v % 32)
  else d

/-- One word written as a command of its own: mirrored where its chapter says so; a refused write has no effect but its report. -/
def Dev.regCommand (d : Dev) (a v : Nat) : Dev :=
  match d.regWrites a 0 [v] [] with
  | .ok (d, mir) => d.mirrorConfig (d.regRecs mir) none
  | .error e => d.regRejected a v e.1

/-- A register word that arrives in a mirror record is written to the standby's own register (R346). -/
def Dev.regMirror (d : Dev) (a v : Nat) : Dev :=
  match regAt a with
  | some (.row base idx fields) =>
    if base = R.PICK_CFG then
      let d := (d.wr F.PICK_CFG.RATE (bits v 1 0)).wr F.PICK_CFG.BEAT (bits v 6 4)
      { d with pick := { d.pick with due := some (d.pick.due.getD ((d.pick.num + 1 + 63) / 64 * 64)) } }
    else if base = R.DAC_CODE 0 then
      let c := idx.headD 0
      let d := d.dacNow
      ({ d with dac := { d.dac with mirrored := AMap.put d.dac.mirrored c (v % 65536) } }).dacPut c (v % 65536) d.time.tb
    else if base = R.DAC_CH_CFG 0 then
      let c := idx.headD 0
      (d.dacNow.dacCfgPut c v).dacAt (dacEdge d.time.tb 1) (.cfg c v)
    else (d.rowWrite a base idx fields v).1
  | _ => d

/-- The writes that waited for this boundary. -/
def Dev.regBoundary (d : Dev) (beat : Bool) : Dev :=
  let put := fun (ws : List (Nat × Nat)) (d : Dev) => forEach ws (fun (x : Nat × Nat) (d : Dev) =>
    match regAt x.1 with
    | some (.row base idx fields) => d.storeWord x.1 base idx fields x.2
    | _ => d) d
  let ps := d.regs.pick
  let bs := d.regs.beat
  let d := put ps { d with regs := { d.regs with pick := [] } }
  if beat then put bs { d with regs := { d.regs with beat := [] } } else d

end Sys2Proof.Machine
end

