-- ==== Sys2Proof/Machine/Stage.lean ====
section
/-! DEFINITION. The items that change configuration (R291): their layouts, the checks of the chapters, and what each does at once or when
a transaction takes effect. -/

namespace Sys2Proof.Machine

/-- Words of bytes, big-endian (R5). -/
def beWords : List Byte → List Nat
  | a :: b :: c :: e :: r => beNat [a, b, c, e] :: beWords r
  | _ => []

/-- Half-words of bytes, big-endian. -/
def beHalves : List Byte → List Nat
  | a :: b :: r => beNat [a, b] :: beHalves r
  | _ => []

/-- Words as bytes. -/
def wordBytes (ws : List Nat) : List Byte := ws.flatMap (beBytes 4)

/-- The fields of a word (low bit, width) that a mask touches; none where one is not covered whole (R295). -/
def touched (fields : List (Nat × Nat)) (mask : Nat) : Option (List (Nat × Nat)) :=
  let hit := fields.filter (fun (f : Nat × Nat) => bits mask (f.1 + f.2 - 1) f.1 ≠ 0)
  if hit.all (fun (f : Nat × Nat) => bits mask (f.1 + f.2 - 1) f.1 = 2 ^ f.2 - 1) then some hit else none

/-! ## Loop state and coefficient sets (R72 - R74, R295) -/

/-- A LOOP_WRITE: the field keys with their values, or the status it is refused with. -/
def Dev.loopWriteOf (d : Dev) (par : List Byte) : Except Nat (List (Nat × Nat)) :=
  let l := beAt par 0 2
  let off := beAt par 2 1
  let v := beAt par 8 4
  if d.tileRole (loopTile l) = 0 then .error St.tileAbsent
  else if off % 4 ≠ 0 || 0x7C < off then .error St.valueInvalid
  else if 0x40 ≤ off && off < 0x60 then .error St.fieldOwned
  else
    let fs := (loopFields.filter (fun (f : Nat × Nat × Nat × Bool × Nat) => f.1 = off)).map (fun f => (f.2.1, f.2.2.1))
    match touched fs (beAt par 4 4) with
    | none => .error St.valueInvalid
    | some hit =>
      if hit.all (fun (f : Nat × Nat) => d.loopMayWrite l off f.1) then
        .ok (hit.map (fun (f : Nat × Nat) => ((0x02000000 + 0x80 * l + off) * 32 + f.1, bits v (f.1 + f.2 - 1) f.1)))
      else .error St.fieldOwned

/-- The fields of a word of a set: words 0x40 - 0x7F of the sets of bands 1 - 3 are Reserved (R89). -/
def setFields (set off : Nat) : List (Nat × Nat) :=
  if set % 4 ≠ 0 && 0x40 ≤ off && off < 0x80 then []
  else (coefFields.filter (fun (f : Nat × Nat × Nat × Bool × Nat) => f.1 = off)).map (fun f => (f.2.1, f.2.2.1))

/-- A COEF_WRITE: the field keys with their values, or the status it is refused with. -/
def coefWriteOf (par : List Byte) : Except Nat (List (Nat × Nat)) :=
  let set := beAt par 0 1
  let off := beAt par 1 1
  let v := beAt par 8 4
  if 63 < set || off % 4 ≠ 0 then .error St.valueInvalid
  else match touched (setFields set off) (beAt par 4 4) with
    | none => .error St.valueInvalid
    | some hit => .ok (hit.map (fun (f : Nat × Nat) => ((0x010C0000 + 0x100 * set + off) * 32 + f.1, bits v (f.1 + f.2 - 1) f.1)))

/-- Puts a field of a coefficient set. -/
def Dev.putCoefKey (d : Dev) (key v : Nat) : Dev :=
  match coefFields.find? (fun (f : Nat × Nat × Nat × Bool × Nat) => f.1 = key / 32 % 256 && f.2.1 = key % 32) with
  | some (_, lo, w, _, rst) => d.wr ⟨key / 32, lo + w - 1, lo, rst⟩ v
  | none => d

/-- The words of a set. -/
def Dev.setWords (d : Dev) (set : Nat) : List Nat :=
  (List.range 64).map (fun i => ((setFields set (4 * i)).map (fun (f : Nat × Nat) =>
    match coefFields.find? (fun (x : Nat × Nat × Nat × Bool × Nat) => x.1 = 4 * i && x.2.1 = f.1) with
    | some (_, lo, w, _, rst) => d.rd ⟨0x010C0000 + 0x100 * set + 4 * i, lo + w - 1, lo, rst⟩ * 2 ^ lo
    | none => 0)).sum)

/-- Writes the words of a set. -/
def Dev.putSetWords (d : Dev) (set : Nat) (ws : List Nat) : Dev :=
  forEach ws.zipIdx (fun (wi : Nat × Nat) (d : Dev) =>
    forEach (setFields set (4 * wi.2)) (fun (f : Nat × Nat) (d : Dev) =>
      d.putCoefKey ((0x010C0000 + 0x100 * set + 4 * wi.2) * 32 + f.1) (bits wi.1 (f.1 + f.2 - 1) f.1)) d) d

/-! ## Treadle tables (R92) -/

/-- The bins of a table in an item, bin 0 first, with their numbers. -/
def tablePairs (par : List Byte) : List (Nat × Nat) := (beHalves par).zipIdx.map (fun (vi : Nat × Nat) => (vi.2, vi.1))

/-- Writes bins of a loop's table (bin, value); the loop folds the change at its next full step (R85). -/
def Dev.putBins (d : Dev) (l : Nat) (bins : List (Nat × Nat)) : Dev :=
  ({ d with trd := { d.trd with
      bins := bins.foldl (fun m (bv : Nat × Nat) => AMap.set m (l * 256 + bv.1) bv.2 0) d.trd.bins
      dirty := if d.trd.dirty.contains l then d.trd.dirty else d.trd.dirty ++ [l]
      dirtyClear := d.trd.dirtyClear.filter (· ≠ l) } }).updLaux l (fun a => { a with fold := true })

/-- The table writes of the pick take effect (R92). -/
def Dev.applyTables (d : Dev) : Dev :=
  let ws := d.trd.write
  forEach ws (fun (x : Nat × List (Nat × Nat) × Nat) (d : Dev) => (d.putBins x.1 x.2.1).finish x.2.2 St.ok [])
    { d with trd := { d.trd with write := [] } }

/-- Whether a TREADLE_WRITE may run (R92). -/
def Dev.tableStatus (d : Dev) (l : Nat) : Nat :=
  if d.tileRole (loopTile l) = 0 then St.tileAbsent
  else if d.loopAhead (F.LOOP.TREADLE_EN l) = 1 then St.fieldOwned
  else St.ok

/-! ## Drafts (R37, R38, R46) -/

/-- A DRAFT_WRITE or DRAFT_LOAD_PREDEFINED is refused while an activation waits (R38 step 3). -/
def Dev.draftLocked (d : Dev) : Bool :=
  let act := fun (ss : List Staged) => ss.any (fun (s : Staged) => s.op = 0x0603)
  d.draft.swapDue || (match d.cheda.txn with | some t => t.commit.isSome && act t.staged | none => false) ||
  (match d.cheda.setDue with | some s => act s.staged | none => false)

/-- The image that a DRAFT_WRITE or DRAFT_LOAD_PREDEFINED leaves in STAGED. -/
def draftPut (g : Img) (op : Nat) (par : List Byte) : Img :=
  if op = 0x0601 then g.write (beAt par 4 4) (beWords (par.drop 8)) else predefined (beAt par 0 4)

/-- The value check of the draft items (R296). -/
def draftForm (op : Nat) (par : List Byte) : Nat :=
  if op = 0x0601 then
    let n := beAt par 0 2
    let off := beAt par 4 4
    if n < 4 || 4096 < n || n % 4 ≠ 0 || off % 4 ≠ 0 || 131072 < off + n then St.valueInvalid else St.ok
  else if op = 0x0602 then (if beAt par 0 4 = 1 || beAt par 0 4 = 2 then St.ok else St.valueInvalid)
  else St.ok

/-- The slots swap (R38 steps 2 and 4): plans not committed are discarded, those of commands and those of reservations; STAGED takes the stored STAGED after a start-up activation
(R425); tiles newly in the draft start up (R426), tiles that are ABSENT go OFFLINE from FENCED (R108). -/
def Dev.swapDrafts (d : Dev) : Dev :=
  let was := d.draft.active
  let d := { d with draft := { d.draft with
    active := d.draft.staged
    staged := if d.boot.restoreStaged then d.nv.staged else d.draft.active
    swapDue := false } }
  let d := { d with boot := { d.boot with restoreStaged := false } }
  if !d.controls then d
  else
    let planned := (d.cir.queue.filter (fun (c : Cmd) => c.planned)).length
    let d := (d.discardPlans (fun _ => true) 2)
    let d := if planned = 0 then d else d.raise 0x0A 8 planned 0
    -- reservations hold plans too (R153): each is planned anew under the new draft
    let choice := d.draw (2 ^ 32)
    let d := choice.2.replanRsv choice.1
    let d := forEach (tiles16.filter (fun t => draftRole was t = 0)) (fun t (d : Dev) => d.updLink t (fun k => { k with barred := false })) d
    let d := d.startTiles (tiles16.filter (fun t => draftRole was t = 0 && d.tileRole t ≠ 0 && d.tileMode t ≠ Tm.active && 7 ≤ d.stage))
    forEach (tiles16.filter (fun t => d.tileRole t = 0 && d.tileMode t = Tm.fenced)) (fun t (d : Dev) => d.tileTrigger t Tm.offline false []) d

/-! ## Gate lists (R315) -/

/-- What the mirror carries of a port's lists (R315, R345). -/
def Dev.gateRecs (d : Dev) (p : Nat) : List (Nat × MirBody) :=
  ((AMap.find d.sched.oper p).toList ++ (AMap.find d.sched.await p).toList).map (fun (g : GateList) => (p, MirBody.gateList (g.bytes p)))

/-! ## Register writes as items (R294) -/

/-- Words at an address are all mapped. -/
def mapped (a n : Nat) : Bool :=
  a % 4 = 0 && decide (a + 4 * n ≤ 0x2D0000) && (List.range n).all (fun i => (regAt (a + 4 * i)).isSome)

/-- The address and words that REG_WRITE or REG_MODIFY writes. -/
def Dev.regItem (d : Dev) (op : Nat) (par : List Byte) : Nat × List Nat :=
  let a := beAt par 0 4
  if op = 0x0101 then (a, beWords (par.drop 8))
  else
    let m := beAt par 4 4
    (a, [(d.regVal a &&& (0xFFFFFFFF - m)) ||| (beAt par 8 4 &&& m)])

/-- The result of a refused write: the index of the first word refused. -/
def regRefused (op i : Nat) : List Byte := if op = 0x0101 then beBytes 2 i ++ zeros 2 else []

/-! ## Staged items (R292) -/

/-- One staged item against the state in force: the state after its write, or its status and result. -/
def Dev.stageRun (d : Dev) (op : Nat) (par : List Byte) : Except (Nat × List Byte) Dev :=
  match op with
  | 0x0101 | 0x0102 =>
    let x := d.regItem op par
    match d.regWrites x.1 0 x.2 [] with
    | .ok r => .ok r.1
    | .error e => .error (e.1, regRefused op e.2)
  | 0x0401 =>
    match d.loopWriteOf par with
    | .ok ws => .ok (forEach ws (fun (kv : Nat × Nat) (d : Dev) => d.applyLoopWrite kv.1 kv.2) d)
    | .error s => .error (s, [])
  | 0x0404 =>
    match coefWriteOf par with
    | .ok ws => .ok (forEach ws (fun (kv : Nat × Nat) (d : Dev) => d.putCoefKey kv.1 kv.2) d)
    | .error s => .error (s, [])
  | 0x0501 =>
    let l := beAt par 0 2
    if d.tableStatus l = St.ok then .ok (d.putBins l (tablePairs (par.drop 4))) else .error (d.tableStatus l, [])
  | 0x0601 | 0x0602 =>
    if d.draft.swapDue then .error (St.busy, []) else .ok { d with draft := { d.draft with staged := draftPut d.draft.staged op par } }
  | 0x0603 =>
    if d.draft.swapDue then .error (St.busy, [])
    else
      let r := d.draftActivationRun
      if r.2 then .ok { r.1 with draft := { r.1.draft with swapDue := true } } else .error (St.draftInvalid, [])
  | 0x0800 =>
    match parseGates par with
    | some (p, g) => .ok (d.placeGates p g).1
    | none => .error (St.valueInvalid, [])
  | _ => .error (St.notInSet, [])

/-- One staged item takes effect at the beat boundary (R292): its checks are behind it.  The mirror already carries it, but for the
gate lists, whose START is chosen now (R315). -/
def Dev.stageEffect (d : Dev) (op : Nat) (par : List Byte) : Dev :=
  match op with
  | 0x0603 => d.swapDrafts
  | 0x0101 | 0x0102 =>
    -- word by word: a word that the state has come to refuse since the check is left unwritten and reported
    let x := d.regItem op par
    forEach x.2.zipIdx (fun (vi : Nat × Nat) (d : Dev) =>
      let a := x.1 + 4 * vi.2
      let r := d.regWrite a vi.1
      if r.2 = St.ok then r.1 else d.regRejected a vi.1 r.2) d
  | 0x0401 =>
    let l := beAt par 0 2
    let off := beAt par 2 1
    let fs := (loopFields.filter (fun (f : Nat × Nat × Nat × Bool × Nat) => f.1 = off)).map (fun f => (f.2.1, f.2.2.1))
    match touched fs (beAt par 4 4) with
    | some hit => forEach hit (fun (f : Nat × Nat) (d : Dev) =>
        if d.loopMayWrite l off f.1 then
          d.applyLoopWrite ((0x02000000 + 0x80 * l + off) * 32 + f.1) (bits (beAt par 8 4) (f.1 + f.2 - 1) f.1)
        else d) d
    | none => d
  | 0x0800 =>
    match parseGates par with
    | some (p, g) =>
      let d := (d.placeGates p g).1
      d.mirrorConfig (d.gateRecs p) none
    | none => d
  | _ =>
    match d.stageRun op par with
    | .ok d => d
    | .error _ => d

/-- What the mirror carries of a staged item (R345): the activation as such. -/
def Dev.stageRec (d : Dev) (s : Staged) : Nat × MirBody :=
  if s.op = 0x0603 then (0, .activation ((d.pick.num / d.beatLen + 1) * d.beatLen)) else (0, .staged s.op s.par)

/-- A staged item of the peer is applied to this unit's own copy when its version closes (R346); registers that no chapter mirrors and
gate lists, which follow with their START, are left. -/
def Dev.stageMirror (d : Dev) (op : Nat) (par : List Byte) : Dev :=
  match op with
  | 0x0101 | 0x0102 =>
    let x := d.regItem op par
    forEach x.2.zipIdx (fun (vi : Nat × Nat) (d : Dev) =>
      if d.regMirrored (x.1 + 4 * vi.2) then d.regMirror (x.1 + 4 * vi.2) vi.1 else d) d
  | 0x0401 =>
    let l := beAt par 0 2
    let off := beAt par 2 1
    let fs := (loopFields.filter (fun (f : Nat × Nat × Nat × Bool × Nat) => f.1 = off)).map (fun f => (f.2.1, f.2.2.1))
    match touched fs (beAt par 4 4) with
    | some hit => forEach hit (fun (f : Nat × Nat) (d : Dev) =>
        d.applyLoopWrite ((0x02000000 + 0x80 * l + off) * 32 + f.1) (bits (beAt par 8 4) (f.1 + f.2 - 1) f.1)) d
    | none => d
  | 0x0404 =>
    match coefWriteOf par with
    | .ok ws => forEach ws (fun (kv : Nat × Nat) (d : Dev) => d.putCoefKey kv.1 kv.2) d
    | .error _ => d
  | 0x0501 => d.putBins (beAt par 0 2) (tablePairs (par.drop 4))
  | 0x0601 | 0x0602 => { d with draft := { d.draft with staged := draftPut d.draft.staged op par } }
  | _ => d

end Sys2Proof.Machine
end

