-- ==== Sys2Proof/Machine/Commit.lean ====
section
/-! DEFINITION. Commit order (R125 - R127, R135, R149, R292): the command at its commit point, timed commands, run-ahead plans,
protection pins, and COMMIT_SET. -/

namespace Sys2Proof.Machine

/-! ## COMMIT_SET (R292) -/

/-- Runs the checks of staged items in order; the writes go to a scratch copy. -/
def Dev.stageCheck : List Staged → Dev → Except (Staged × Nat × List Byte × Dev) Dev
  | [], d => .ok d
  | s :: ss, d =>
    match d.stageRun s.op s.par with
    | .ok d' => Dev.stageCheck ss d'
    | .error e => .error (s, e.1, e.2, d)

/-- DRAFT_CHECK as another state holds it. -/
def Dev.copyCheck (d x : Dev) : Dev :=
  ((d.wr F.DRAFT_CHECK.PASS (x.rd F.DRAFT_CHECK.PASS)).wr F.DRAFT_CHECK.LIVE_RUN (x.rd F.DRAFT_CHECK.LIVE_RUN)).wr F.DRAFT_CHECK.FIRST_FAIL
    (x.rd F.DRAFT_CHECK.FIRST_FAIL)

/-- Closes the open transaction. -/
def Dev.endTxn (d : Dev) : Dev :=
  (({ d with cheda := { d.cheda with txn := none } }).setFlag F.CHEDA_STAT.TXN_OPEN false).wr F.CHEDA_STAT.TXN_SESSION 0

/-- COMMIT_SET and its items complete when their record is acknowledged, or at once without a peer in STANDBY; at the first beat
boundary after that the writes take effect (R292). -/
def Dev.setProgress (d : Dev) : Dev :=
  match d.cheda.setDue with
  | none => d
  | some s =>
    if !d.controls || s.effect.isSome || (d.peerStandby && d.slv.unacked.any (fun v => v.items.contains s.commit)) then d
    else
      let at_ := (d.pick.num / d.beatLen + 1) * d.beatLen
      let d := { d with cheda := { d.cheda with setDue := some { s with effect := some at_ } } }
      let d := forEach s.staged (fun (x : Staged) (d : Dev) => d.finish x.item St.ok []) d
      d.finish s.commit St.ok (beBytes 4 s.csn ++ beBytes 8 at_)

/-- At a beat boundary: the writes of a completed COMMIT_SET take effect, in item order (R292). -/
def Dev.setEffect (d : Dev) : Dev :=
  match d.cheda.setDue with
  | none => d
  | some s =>
    if !d.controls then
      -- the unit has left control with the set committed: the peer's copy has these writes, and this unit's follows
      forEach s.staged (fun (x : Staged) (d : Dev) =>
        if x.op = 0x0603 then { d with draft := { d.draft with active := d.draft.staged, staged := d.draft.active, swapDue := false } }
        else d.stageMirror x.op x.par) { d with cheda := { d.cheda with setDue := none } }
    else match s.effect with
    | none => d
    | some b =>
      if d.pick.num < b then d
      else
        let d := { d with cheda := { d.cheda with setDue := none } }
        forEach s.staged (fun (x : Staged) (d : Dev) => d.stageEffect x.op x.par) d

/-- COMMIT_SET at its commit point (R292): a failed check writes nothing; otherwise it takes a CSN and its record leaves. -/
def Dev.commitSet (d : Dev) (item : Nat) : CRes :=
  match d.cheda.txn with
  | none => .fail St.noSet
  | some t =>
    if d.cheda.setDue.isSome then .wait d
    else match Dev.stageCheck t.staged d with
      | .error (s, st, res, x) =>
        let bad := fun (d : Dev) =>
          if s.op = 0x0603 then d.copyCheck (x.draftActivationRun).1
          else if s.op = 0x0101 || s.op = 0x0102 then
            let w := d.regItem s.op s.par
            let i := if s.op = 0x0101 then beNat (res.take 2) else 0
            d.regRejected (w.1 + 4 * i) (w.2.getD i 0) st
          else d
        let d := bad d.endTxn
        let d := d.finish s.item st res
        let d := forEach t.staged (fun (x : Staged) (d : Dev) => d.finish x.item St.txnFailed []) d
        .failed (d.finish item st []) st
      | .ok x =>
        let d := if t.staged.any (fun (s : Staged) => s.op = 0x0603) then d.copyCheck x else d
        let d := (d.endTxn).nextCsn
        let d := d.mirrorCommit d.cir.csn (t.staged.map d.stageRec) (item :: t.staged.map (fun (s : Staged) => s.item))
        let d := { d with cheda := { d.cheda with setDue := some { slot := t.slot, staged := t.staged, commit := item, csn := d.cir.csn, effect := none } } }
        .ok d.setProgress

/-! ## One command -/

/-- Changes a command that waits. -/
def Dev.updCmd (d : Dev) (no : Nat) (f : Cmd → Cmd) : Dev :=
  let g := fun (c : Cmd) => if c.no = no then f c else c
  { d with cir := { d.cir with queue := d.cir.queue.map g, prot := d.cir.prot.map g } }

/-- What a command that comes from a pin does to its pin. -/
def Dev.pinServed (d : Dev) (c : Cmd) (on : Bool) : Dev :=
  if c.kind = .protect && c.item.isNone && c.par.byGroup then
    let n := c.par.protGroup
    { d with cir := { d.cir with pins := AMap.put d.cir.pins n { AMap.get d.cir.pins n ({} : ProtPin) with served := on } } }
  else d

/-- The rule for a command's own route, its ends and its alternate, as the table stands (R131): none where it plans no route. -/
def Dev.planEnds (d : Dev) (kind : CmdKind) (par : CirPar) : Option (OwnRule × Nat × Nat × Option Nat) :=
  match kind with
  | .establish => some (.free, par.inPort, par.outPort, none)
  | .altArm => some (.free, par.inPort, par.outPort, d.altOf par.id)
  | .migrate => (d.liveOf par.id).map (fun e =>
    (if d.eState e = 1 then .same else .free, d.rd (F.CIR.IN_PORT e), d.rd (F.CIR.OUT_PORT e), none))
  | _ => none

/-- Writes a planned route into an entry of the table, and relights what it touches. -/
def Dev.putPlanned (d : Dev) (e : Nat) (r : List Hop) : Dev :=
  let old := d.route e
  (d.writeRoute e r).relight ((routeCells (old ++ r)).map (·.1))

/-- The table once a command has committed as planned (R135): its moves first, then its own change. -/
def Dev.asPlanned (d : Dev) (kind : CmdKind) (par : CirPar) (p : Option Plan) : Dev :=
  let d := forEach ((p.map (fun (p : Plan) => p.moves)).getD []) (fun (m : Nat × List Hop) (d : Dev) =>
    match d.liveOf m.1 with
    | some e => d.putPlanned e m.2
    | none => d) d
  let route := (p.map (fun (p : Plan) => p.route)).getD []
  let open_ := fun (d : Dev) (e st : Nat) =>
    ((((d.freeEntryAt e).wr (F.CIR.ID e) par.id).wr (F.CIR.STATE e) st).wr (F.CIR.IN_PORT e) par.inPort).wr (F.CIR.OUT_PORT e) par.outPort
  match kind with
  | .establish => match d.freeEntry false with
    | some e => (open_ d e 1).putPlanned e route
    | none => d
  | .release => match d.liveOf par.id with
    | some e => (d.freeCircuit e).1
    | none => d
  | .migrate => match d.liveOf par.id with
    | some e => (d.wr (F.CIR.STATE e) 1).putPlanned e route
    | none => d
  | .altArm => match (d.altOf par.id).orElse (fun _ => d.freeEntry true) with
    | some a =>
      let old := (routeCells (d.route a)).map (·.1)
      ((open_ d a 4).relight old).putPlanned a route
    | none => d
  | .altDisarm => match d.altOf par.id with
    | some a => let old := (routeCells (d.route a)).map (·.1); (d.freeEntryAt a).relight old
    | none => d
  | .protect => forEach (d.protTargets par) (fun (ea : Nat × Nat) (d : Dev) =>
    let old := d.route ea.1
    let new := d.route ea.2
    let ends := (d.rd (F.CIR.IN_PORT ea.1), d.rd (F.CIR.OUT_PORT ea.1))
    let d := (d.wr (F.CIR.IN_PORT ea.1) (d.rd (F.CIR.IN_PORT ea.2))).wr (F.CIR.OUT_PORT ea.1) (d.rd (F.CIR.OUT_PORT ea.2))
    let d := if d.flag (F.CIR.KEEP ea.2) && !d.routeBroken old then
        (((d.wr (F.CIR.IN_PORT ea.2) ends.1).wr (F.CIR.OUT_PORT ea.2) ends.2).writeRoute ea.2 old)
      else d.freeEntryAt ea.2
    (d.putPlanned ea.1 new).relight ((routeCells old).map (·.1))) d
  | _ => d

/-- The table once a group's releases are done (R124). -/
def Dev.releasesDone (d : Dev) (members : List GroupMem) : Dev :=
  forEach (members.filter (fun (m : GroupMem) => m.kind = .release)) (fun (m : GroupMem) (d : Dev) => d.asPlanned .release m.par none) d

/-- The table once a command of commit order has committed as planned. -/
def Dev.plannedCmd (d : Dev) (c : Cmd) : Dev :=
  forEach (c.members.filter (fun (m : GroupMem) => m.kind ≠ .release)) (fun (m : GroupMem) (d : Dev) =>
    d.asPlanned m.kind m.par (AMap.find c.mplans m.item)) ((d.releasesDone c.members).asPlanned c.kind c.par c.plan)

/-- How many CSNs a command and its planned moves will take. -/
def Cmd.csns (c : Cmd) : Nat :=
  (if c.kind = .group then c.members.length else 1) + (c.plansHeld.map (fun (p : Plan) => p.moves.length)).sum

/-- Whether a plan holds on a table, for a command's kind and parameters. -/
def Dev.planStands (d : Dev) (kind : CmdKind) (par : CirPar) (p : Plan) : Bool :=
  match d.planEnds kind par with
  | some x => d.planHolds p par.id x.1 x.2.2.2
  | none => false

/-- Whether every member's plan holds once the members before it have committed. -/
def Dev.groupStands (c : Cmd) : List GroupMem → Dev → Bool
  | [], _ => true
  | m :: ms, d =>
    let p := AMap.find c.mplans m.item
    (p.all (fun (p : Plan) => d.planStands m.kind m.par p)) && Dev.groupStands c ms (if m.kind = .release then d else d.asPlanned m.kind m.par p)

/-- At the commit point a held plan whose basis is not the last CSN is checked against the table: one that holds takes a new basis, one that
does not is discarded and the command replanned (R135). -/
def Dev.checkPlan (d : Dev) (c : Cmd) : Dev :=
  if !c.planned || c.plansHeld.all (fun (p : Plan) => p.basis = d.cir.csn) then d
  else if c.plan.all (fun (p : Plan) => d.planStands c.kind c.par p) && Dev.groupStands c c.members (d.releasesDone c.members) then
    let now := fun (p : Plan) => { p with basis := d.cir.csn }
    d.updCmd c.no (fun c => { c with plan := c.plan.map now, mplans := c.mplans.map (fun (m : Nat × Plan) => (m.1, now m.2)) })
  else
    (((d.updCmd c.no (fun c => { c with plan := none, mplans := [] })).bump F.SHTL_STAT.REPLAN_CNT 1).count 0x19).tilthSweep 2

/-- A group's own item completes as its last item does (R122, R124). -/
def Dev.groupEnds (d : Dev) (item last : Nat) : Dev :=
  let v := d.slv.unacked.map (fun (v : MirVer) => if v.items.contains last then { v with items := v.items ++ [item] } else v)
  let d := d.updSlv (fun s => { s with unacked := v })
  let d := d.updItem item (fun r => { r with csn := d.cir.csn, committed := true })
  match d.cir.waits.find? (fun (w : CirWait) => w.item = last), d.slv.waitAck.find? (fun (w : Nat × Nat × List Byte) => w.1 = last), d.item last with
  | some w, _, _ => { d with cir := { d.cir with waits := d.cir.waits ++ [{ w with item := item }] } }
  | none, some w, _ => d.finishAcked item w.2.1 w.2.2
  | none, none, some r => d.finish item (r.fin.getD St.ok) r.result
  | none, none, none => d.finish item St.ok cirNone

/-- A group at its commit point (R124): all of its members commit, or it writes nothing: the member that failed ends with its own status and
every other with GROUP_FAILED. -/
def Dev.commitGroup (d : Dev) (x : CmdIn) (c : Cmd) : CRes :=
  let g := d.doGroup x c.mplans c.members
  match g.stop with
  | none =>
    match x.item, c.members.getLast? with
    | some i, some m => .ok (g.d.groupEnds i m.item)
    | some i, none => .ok (g.d.finish i St.ok cirNone)
    | none, _ => .ok g.d
  | some (i, .fail s) =>
    let d := d.finish i s cirNone
    .failed (if s = St.noRoute then d.raise 0x0A 0 0 0 else d) St.groupFailed
  -- nothing of the group is written; only what the waiting member needs first (a piece to end, a move) is done
  | some (_, .wait _) => .wait d
  | some (_, r) => r

/-- What a command does at its commit point; the reservations that it names play no part in it (R154). -/
def Dev.attempt (d : Dev) (c : Cmd) (x : CmdIn) : CRes :=
  match c.kind with
  | .commitSet => d.commitSet (c.item.getD 0)
  | .group => d.needs x (d.commitGroup x c)
  | _ => d.needs x (d.doCmd x)

/-- A planned move has begun: it leaves the plan that it was the first of. -/
def Cmd.moved (c : Cmd) (csn : Nat) (dark : Bool) : Cmd :=
  let next := fun (p : Plan) => { p with moves := p.moves.drop 1, basis := csn }
  let head := c.mplans.find? (fun (m : Nat × Plan) => !m.2.moves.isEmpty)
  { c with plan := c.plan.map next
           mplans := c.mplans.map (fun (m : Nat × Plan) => if head.any (fun h => h.1 = m.1) then (m.1, next m.2) else (m.1, { m.2 with basis := csn }))
           moves := c.moves + 1
           darkMoves := if dark then c.darkMoves + 1 else c.darkMoves }

/-- A command at its commit point (R126): answers whether it waits. -/
def Dev.runCmd (d : Dev) (c : Cmd) (prop : PlanProp) : Dev × Bool :=
  if d.cir.pieces.any (fun (p : Piece) => p.isMove && p.cmd = c.no) then (d, true)
  else
    let late := c.at_.any (fun b => decide (b < d.pick.num + 1)) && !c.late && (c.kind ≠ .protect || c.item.isSome)
    let d := if late then d.lateNow c else d
    if late && !d.flag F.CIRC_CFG.LATE_POLICY then (d.cmdFailed c St.timePast, false)
    else
      let d := (d.checkPlan c).pinServed c true
      let c := ((d.cir.queue ++ d.cir.prot).find? (fun (q : Cmd) => q.no = c.no)).getD c
      let x : CmdIn := { item := c.item, kind := c.kind, par := c.par, plan := c.plan, timed := c.at_.isSome && c.item.isSome, late := late || c.late
                         waited := !c.waited.isEmpty, no := c.no, prop := prop, moves := min 15 c.moves * 16 + min 15 c.darkMoves }
      -- a timed command that fails otherwise than by its lateness counts too (R152)
      let counted := fun (d : Dev) => if x.timed && !x.late then d.bump F.TIMED_STAT.LATE_CNT 1 else d
      let r := match (d.consumeRsv c).attempt c x with
        | .wait _ => d.attempt c x
        | r => r
      match r with
      | .ok d => ((d.dropCmd c.no).tilthSweep 2, false)
      | .fail s => ((counted d).cmdFailed c s, false)
      | .failed d s => ((counted d).cmdFailed c s, false)
      | .wait d' =>
        let moved := decide (d'.cir.csn ≠ d.cir.csn)
        let piece := d'.cir.pieces.any (fun (p : Piece) => p.isMove && p.cmd = c.no)
        let away := tiles16.any (fun t => d.tileMode t = Tm.holdover)
        ((d'.updCmd c.no (fun q =>
          let q := if moved then q.moved d'.cir.csn (!piece) else q
          { q with late := late || q.late, waited := if away && q.waited.isEmpty then [d.pick.num] else q.waited })).pinServed c false, true)
      | _ => (d, true)

/-- The first of a list of commands that does not wait. -/
def Dev.firstCmd : List Cmd → PlanProp → Dev → Dev × Bool
  | [], _, d => (d, false)
  | c :: cs, prop, d =>
    let r := d.runCmd c prop
    if r.2 then Dev.firstCmd cs prop r.1 else (r.1, true)

/-- Commits may take place: the unit controls the fabric, and their boundary is not past the agreed pick (R356 step 3). -/
def Dev.commitsOpen (d : Dev) : Bool :=
  d.isActive || (d.role = Pr.handing && decide (d.pick.num + 1 < d.slv.agreed))

/-- The timed commands whose boundary is next or past. -/
def Dev.timedDue (d : Dev) : List Cmd :=
  d.cir.queue.filter (fun (c : Cmd) => c.at_.any (fun b => decide (b ≤ d.pick.num + 1)))

/-- The protection switches whose commit point may come (R147). -/
def Dev.protDue (d : Dev) : List Cmd :=
  d.cir.prot.filter (fun (c : Cmd) => decide (c.at_.getD 0 ≤ d.pick.num + 1))

/-- Every command of a list at its commit point. -/
def Dev.allCmds (d : Dev) (cs : List Cmd) (prop : PlanProp) : Dev := forEach cs (fun (c : Cmd) (d : Dev) => (d.runCmd c prop).1) d

/-- TIMED_COMMIT_DUE (R149): the protection switches of the boundary go first (R125). -/
def Dev.timedCommit (d : Dev) (prop : PlanProp) : Dev :=
  if d.commitsOpen then
    let d := d.allCmds d.protDue prop
    (Dev.firstCmd d.timedDue prop d).1
  else d

/-- COMMIT_POINT (R125, R126): protection switches first, then timed commands, then the head of the rest, which an earlier command
that waits holds back, and the slices of the command before it (R137). -/
def Dev.commitPoint (d : Dev) (prop : PlanProp) : Dev :=
  if !d.commitsOpen then d
  else
    let r := Dev.firstCmd d.protDue prop d
    if r.2 then r.1
    else
      let r := Dev.firstCmd r.1.timedDue prop r.1
      if r.2 then r.1
      else
        let d := r.1
        match d.cir.queue.find? (fun (c : Cmd) => c.at_.isNone) with
        | none => d
        | some c =>
          if (d.protDue ++ d.timedDue).any (fun (w : Cmd) => decide (w.no < c.no)) || decide (d.pick.num + 1 < d.cir.lastSlice) then d
          else (d.runCmd c prop).1

/-! ## Run-ahead plans (R135) -/

/-- RUNAHEAD in force: none at the run-ahead level of the throttle (R136). -/
def Dev.runAhead (d : Dev) : Nat := if 3 ≤ d.throttlePick then 0 else min 32 (d.rd F.SHTL_CFG.RUNAHEAD)

/-- A command, or a member of a group, whose route is planned. -/
def CmdKind.plans (k : CmdKind) : Bool := k = .establish || k = .migrate || k = .altArm

/-- A command that needs a plan. -/
def Cmd.plans (c : Cmd) : Bool := c.kind.plans || c.members.any (fun (m : GroupMem) => m.kind.plans)

/-- A plan on a table for a command's kind and parameters, with its basis. -/
def Dev.planOf (d : Dev) (kind : CmdKind) (par : CirPar) (basis : Nat) (prop : PlanProp) : Except Nat Plan :=
  match d.planEnds kind par with
  | none => .error St.circuitUnknown
  | some x => (d.planFor par x.1 x.2.1 x.2.2.1 x.2.2.2 prop).map (fun (rm : List Hop × List MoveProp × Bool) =>
    { route := rm.1, moves := rm.2.1.map (fun (m : MoveProp) => (m.id, m.route)), basis := basis % 2 ^ 32, warmTb := none, viaAlt := rm.2.2 })

/-- The plans of a group's members, each on the table as the members before it leave it. -/
def Dev.planMembers (prop : PlanProp) : List GroupMem → Nat → Dev → Except Nat (List (Nat × Plan))
  | [], _, _ => .ok []
  | m :: ms, basis, d =>
    if m.kind = .release then Dev.planMembers prop ms (basis + 1) d
    else if !m.kind.plans then Dev.planMembers prop ms (basis + 1) (d.asPlanned m.kind m.par none)
    else match d.planOf m.kind m.par basis prop with
      | .error s => .error s
      | .ok p => (Dev.planMembers prop ms (basis + 1 + p.moves.length) (d.asPlanned m.kind m.par (some p))).map (fun ps => (m.item, p) :: ps)

/-- SHUTTLE_PLAN (R135): a plan for a command within RUNAHEAD of the commit point, on the table as it will stand once every earlier
command in commit order has committed as planned. -/
def Dev.shuttlePlan (d : Dev) (no : Nat) (prop : PlanProp) : Dev :=
  let earlier := d.commitOrder.takeWhile (fun (c : Cmd) => c.no ≠ no)
  match d.cir.queue.find? (fun (c : Cmd) => c.no = no) with
  | none => d
  | some c =>
    if !d.isActive || !c.plans || c.planned || d.runAhead < earlier.length || earlier.any (fun (e : Cmd) => e.plans && !e.planned) then d
    else
      let t := forEach earlier (fun (e : Cmd) (t : Dev) => t.plannedCmd e) d
      let basis := d.cir.csn + (earlier.map Cmd.csns).sum
      if c.kind = .group then
        match Dev.planMembers prop c.members basis (t.releasesDone c.members) with
        | .error s => d.updCmd no (fun c => { c with planFailed := some s })
        | .ok ps => d.updCmd no (fun c => { c with mplans := ps, planFailed := none })
      else
        match t.planOf c.kind c.par basis prop with
        | .error s => d.updCmd no (fun c => { c with planFailed := some s })
        | .ok p => d.updCmd no (fun c => { c with plan := some p, planFailed := none })

/-! ## Protection pins (R146, R147) -/

/-- A pin's record. -/
def Dev.pin (d : Dev) (n : Nat) : ProtPin := AMap.get d.cir.pins n {}

def Dev.putPin (d : Dev) (n : Nat) (p : ProtPin) : Dev := { d with cir := { d.cir with pins := AMap.put d.cir.pins n p } }

/-- PROTECT_IN_EDGE: a pin's level is seen to change `delay` ns from now; it is also a raw signal of the counters (R385). -/
def Dev.protectEdge (d : Dev) (n : Nat) (high : Bool) (delay : Nat) : Dev :=
  if 8 ≤ n then d
  else d.fire (d.time.tb + delay) (fun d =>
    let p := d.pin n
    if p.level = high then d else (d.signal n high).putPin n { p with level := high, sinceTb := d.time.tb })

/-- PROTECT_DEBOUNCE (R147): a pin has held its level for DEBOUNCE_NS.  Asserted, with PIN_EN set, it triggers once: in the pick that
ends at the next boundary when that is 1,000 ns or more away, otherwise in the one after. -/
def Dev.protectDebounce (d : Dev) (n : Nat) : Dev :=
  if 8 ≤ n then d
  else d.fire ((d.pin n).sinceTb + d.rd F.PROT_CFG.DEBOUNCE_NS) (fun d =>
    let p := d.pin n
    let on := decide (p.level = bit (d.rd F.PROT_CFG.PIN_POL) n)
    if !on then d.putPin n { p with deb := false, triggered := false, served := false }
    else
      let p := if p.deb then p else { p with deb := true, edge := d.ptpNow }
      if p.triggered || !bit (d.rd F.PROT_CFG.PIN_EN) n || !d.controls then d.putPin n p
      else
        let early := decide (d.time.tb + 1000 ≤ d.tbOf (d.pick.num + 1))
        let par : CirPar := { id := 0, flags := 2 ^ 12 + n * 2 ^ 9, inPort := 0, outPort := 0, voa := 0, via := 0, rsv := 0, time := p.edge, route := [] }
        let c : Cmd := { no := d.cir.nextCmd, item := none, kind := .protect, par := par, members := []
                         at_ := some (if early then d.pick.num + 1 else d.pick.num + 2), plan := none, planFailed := none, moves := 0
                         darkMoves := 0, late := false, overridden := false, waited := [] }
        let d := d.putPin n { p with triggered := true }
        { d with cir := { d.cir with prot := d.cir.prot ++ [c], nextCmd := d.cir.nextCmd + 1 } })

/-- RESTORATION (R150), of the circuit of an entry. -/
def Dev.restoration (d : Dev) (e pick : Nat) : Dev := if d.commitsOpen then d.restore e pick else d

end Sys2Proof.Machine
end

