-- ==== Sys2Proof/Machine/Items.lean ====
section
/-! DEFINITION. The host items (R287, R291 - R298): how an item is taken, what each opcode checks and does at acceptance. -/

namespace Sys2Proof.Machine

/-! ## Format and privilege (R282, R296, R297) -/

/-- The opcodes of R296 with the least privilege each needs (0 OBSERVE to 3 VENDOR). -/
def opcodes : List (Nat × Nat) := [
  (0x0003, 0), (0x0004, 0), (0x0005, 0), (0x0006, 0), (0x0007, 1), (0x0008, 2), (0x0010, 2), (0x0011, 2), (0x0012, 2),
  (0x0100, 0), (0x0101, 2), (0x0102, 2), (0x0200, 1), (0x0201, 1), (0x0202, 1), (0x0203, 1), (0x0204, 1), (0x0205, 1),
  (0x0206, 1), (0x0207, 0), (0x0208, 1), (0x0209, 1), (0x020A, 0), (0x020B, 0), (0x0300, 0), (0x0301, 1), (0x0302, 1)] ++ [
  (0x0303, 2), (0x0310, 2), (0x0311, 2), (0x0312, 2), (0x0313, 2), (0x0400, 0), (0x0401, 2), (0x0402, 2), (0x0403, 0),
  (0x0404, 2), (0x0500, 0), (0x0501, 2), (0x0502, 2), (0x0503, 2), (0x0600, 0), (0x0601, 2), (0x0602, 2), (0x0603, 2),
  (0x0700, 0), (0x0701, 0), (0x0702, 1), (0x0703, 0), (0x0704, 0), (0x0800, 2), (0x0801, 0), (0x0802, 2), (0x0900, 0),
  (0x0901, 2), (0x0A00, 2), (0x0A01, 2), (0x0A02, 2), (0x0A03, 2), (0x0A04, 3)]

/-- Opcodes whose parameters have one length. -/
def fixedLens : List (Nat × Nat) := [
  (0x0001, 20), (0x0002, 36), (0x0003, 0), (0x0005, 8), (0x0006, 4), (0x0007, 4), (0x0008, 36), (0x0010, 0), (0x0011, 0),
  (0x0012, 0), (0x0100, 8), (0x0102, 12), (0x0206, 0), (0x0208, 8), (0x0209, 4), (0x020A, 4), (0x020B, 4), (0x0300, 4),
  (0x0301, 4), (0x0302, 4), (0x0303, 4), (0x0310, 4), (0x0311, 4), (0x0312, 4), (0x0313, 4), (0x0400, 4), (0x0401, 12)] ++ [
  (0x0402, 8), (0x0403, 4), (0x0404, 12), (0x0500, 4), (0x0501, 516), (0x0502, 4), (0x0503, 0), (0x0600, 8), (0x0602, 4),
  (0x0603, 0), (0x0700, 4), (0x0701, 4), (0x0702, 20), (0x0703, 12), (0x0704, 12), (0x0801, 4), (0x0802, 12), (0x0900, 0),
  (0x0901, 4), (0x0A00, 0), (0x0A02, 8), (0x0A03, 0)]

/-- Whether the parameters of an opcode match its layout (R296, R297, R316, R422). -/
def formatGood (op : Nat) (par : List Byte) : Bool :=
  let n := par.length
  match op with
  | 0x0004 => decide (n ≤ 1024)
  | 0x0101 => decide (8 ≤ n) && decide (n = 8 + 4 * beAt par 4 2)
  | 0x0601 => decide (8 ≤ n) && decide (n = 8 + beAt par 0 2)
  | 0x0800 => decide (16 ≤ n) && decide (n = 16 + 8 * beAt par 2 1)
  | 0x0A01 => decide (8 ≤ n) && decide (n = 8 + beAt par 4 2)
  | 0x0A04 => decide (n = if beAt par 0 1 = 1 then 100 else 4)
  | 0x0200 | 0x0201 | 0x0202 | 0x0203 | 0x0204 | 0x0205 | 0x0207 =>
    let fl := beAt par 2 2
    decide (16 ≤ n) && decide (n = 16 + (if bit fl 1 then 8 else 0) + (if bit fl 2 then 72 else 0))
  | _ => AMap.find fixedLens op = some n

/-- An item under way: its number, session slot, privilege, COUNTER_READ, where it came from, its parameters. -/
structure ItemIn where
  item : Nat
  slot : Nat
  priv : Nat
  ctrRead : Bool
  src : ItemSrc
  par : List Byte
  deriving DecidableEq, Repr

/-- What an item's taking answers: the state, its status (PENDING: it runs on, or ended itself) and its result. -/
abbrev Taken := Dev × Nat × List Byte

def Dev.ends (d : Dev) (status : Nat) : Taken := (d, status, [])
def Dev.okWith (d : Dev) (result : List Byte) : Taken := (d, St.ok, result)

/-! ## Session items -/

/-- SESSION_CLOSE (R285): the session closes after its reply. -/
def Dev.itemClose (d : Dev) (x : ItemIn) : Taken :=
  match d.session x.slot with
  | some s => (d.putSession x.slot { s with closing := true }).ends St.ok
  | none => d.ends St.ok

/-- NOP. -/
def Dev.itemNop (d : Dev) (x : ItemIn) : Taken := d.okWith x.par

/-- ACCOUNT_QUERY (R289). -/
def Dev.itemAccount (d : Dev) (x : ItemIn) : Taken :=
  let host := beAt x.par 0 2
  let n := beAt x.par 2 2
  let first := beAt x.par 4 4
  if n = 0 || 64 < n then d.ends St.valueInvalid
  else
    let mine := d.cheda.ledger.filter (fun (e : LedgerRec) => e.hostId = host)
    let oldest := match mine with
      | [] => 0
      | e :: es => es.foldl (fun (m : Nat) (y : LedgerRec) => if serialAfter m y.seq then y.seq else m) e.seq
    let es := mine.filter (fun (e : LedgerRec) => decide ((e.seq + 2 ^ 32 - first) % 2 ^ 32 < n))
    d.okWith (beBytes 4 oldest ++ beBytes 2 es.length ++ zeros 2 ++ es.flatMap (fun (e : LedgerRec) =>
      beBytes 4 e.seq ++ beBytes 2 e.tag ++ beBytes 2 e.op ++ beBytes 2 e.status ++ beBytes 1 e.unit ++ zeros 1 ++ beBytes 4 e.csn))

/-- EVENT_SUBSCRIBE (R300). -/
def Dev.itemSubscribe (d : Dev) (x : ItemIn) : Taken :=
  let r := d.eventSubscribe x.slot (beAt x.par 0 1)
  r.1.ends r.2

/-- EVENT_ACK (R371). -/
def Dev.itemEventAck (d : Dev) (x : ItemIn) : Taken :=
  let r := d.eventAck x.par
  r.1.ends r.2

/-- KEY_WRITE (R281): it completes when the journal has committed it. -/
def Dev.itemKeyWrite (d : Dev) (x : ItemIn) : Taken :=
  let id := beAt x.par 0 1
  let mp := beAt x.par 1 1
  if x.priv < mp then d.ends St.privDenied
  else if 7 < id || 3 < mp then d.ends St.valueInvalid
  else (d.marlAsk 2 (.key id (some { key := (x.par.drop 4).take 32, maxPriv := mp, perm := beAt x.par 2 1 })) (some x.item)).ends St.pending

/-! ## Transactions (R291 - R293) -/

/-- BEGIN_SET. -/
def Dev.itemBegin (d : Dev) (x : ItemIn) : Taken :=
  if d.cheda.txn.isSome then d.ends St.busy
  else
    let t : Txn := { slot := x.slot, staged := [], lastTb := d.time.tb, commit := none }
    let d := { d with cheda := { d.cheda with txn := some t } }
    ((d.setFlag F.CHEDA_STAT.TXN_OPEN true).wr F.CHEDA_STAT.TXN_SESSION x.slot).ends St.ok

/-- The session's own transaction, still open for items. -/
def Dev.ownTxn (d : Dev) (slot : Nat) : Option Txn :=
  match d.cheda.txn with
  | some t => if t.slot = slot && t.commit.isNone then some t else none
  | none => none

def noPar : CirPar := { id := 0, flags := 0, inPort := 0, outPort := 0, voa := 0, via := 0, rsv := 0, time := 0, route := [] }

/-- COMMIT_SET (R292): it enters commit order. -/
def Dev.itemCommitSet (d : Dev) (x : ItemIn) : Taken :=
  match d.ownTxn x.slot with
  | none => d.ends St.noSet
  | some t =>
    if !d.isActive then d.ends St.roleStandby
    else if t.staged.any (fun (s : Staged) => s.op = 0x0603) && d.draftLocked then d.ends St.busy
    else
      let d := { d with cheda := { d.cheda with txn := some { t with commit := some x.item } } }
      (d.enqueue (some x.item) .commitSet noPar [] none false).ends St.pending

/-- ABORT_SET (R293). -/
def Dev.itemAbortSet (d : Dev) (x : ItemIn) : Taken :=
  match d.ownTxn x.slot with
  | none => d.ends St.noSet
  | some _ => (d.discardTxn St.aborted).ends St.ok

/-- The addresses that a configuration item writes: register words, loop words, set words, tables, words of STAGED. -/
def writeKeys (op : Nat) (par : List Byte) : List (Nat × Nat) :=
  match op with
  | 0x0101 => (List.range (min 256 (beAt par 4 2))).map (fun i => (0, beAt par 0 4 + 4 * i))
  | 0x0102 => [(0, beAt par 0 4)]
  | 0x0401 => [(1, beAt par 0 2 * 128 + beAt par 2 1)]
  | 0x0404 => [(2, beAt par 0 1 * 256 + beAt par 1 1)]
  | 0x0501 => [(3, beAt par 0 2)]
  | 0x0601 => (List.range (beAt par 0 2 / 4)).map (fun i => (4, beAt par 4 4 / 4 + i))
  | _ => []

/-- Whether an item writes an address that the open transaction has staged (R291). -/
def Dev.stagedAddr (d : Dev) (op : Nat) (par : List Byte) : Bool :=
  match d.cheda.txn with
  | none => false
  | some t =>
    let all := fun (o : Nat) => o = 0x0602
    let drafts := fun (o : Nat) => o = 0x0601 || o = 0x0602
    let ks := writeKeys op par
    t.staged.any (fun (s : Staged) =>
      (all op && drafts s.op) || (drafts op && all s.op) || (writeKeys s.op s.par).any (fun k => ks.contains k))

/-- The items that a transaction stages (R291). -/
def stageable : List Nat := [0x0101, 0x0102, 0x0401, 0x0404, 0x0501, 0x0601, 0x0602, 0x0603, 0x0800]

/-- Reads and session items, which run at once inside a transaction (R291), and the three items of the transaction. -/
def runsInTxn : List Nat := [
  0x0003, 0x0004, 0x0005, 0x0006, 0x0007, 0x0010, 0x0011, 0x0012, 0x0100, 0x0207, 0x020A, 0x020B, 0x0300, 0x0400, 0x0403, 0x0500,
  0x0600, 0x0700, 0x0701, 0x0703, 0x0704, 0x0801, 0x0900]

/-! ## Registers (R294) -/

/-- Words of an item in a block range. -/
def touchesBlocks (a n lo hi : Nat) : Bool := (List.range n).any (fun i => decide (lo ≤ a + 4 * i) && decide (a + 4 * i < hi))

/-- The first checks of a register item: privilege over its addresses, COUNT, mapping. -/
def Dev.regStatus (write : Bool) (x : ItemIn) (a n : Nat) : Nat :=
  if write && x.priv < 3 && touchesBlocks a n 0 0x20000 then St.privDenied
  else if !write && x.priv = 0 && !x.ctrRead && touchesBlocks a n 0x2B0000 0x2C0000 then St.privDenied
  else if n = 0 || 256 < n then St.valueInvalid
  else if !mapped a n then St.addrInvalid
  else St.ok

/-- REG_READ. -/
def Dev.itemRegRead (d : Dev) (x : ItemIn) : Taken :=
  let a := beAt x.par 0 4
  let n := beAt x.par 4 2
  let st := Dev.regStatus false x a n
  if st ≠ St.ok then d.ends st
  else
    let r := d.regReads a n
    r.1.okWith (wordBytes r.2)

/-- REG_WRITE and REG_MODIFY: all or nothing, one locked sequence; mirrored words wait for the peer (R348). -/
def Dev.itemRegWrite (d : Dev) (x : ItemIn) (op : Nat) : Taken :=
  let w := d.regItem op x.par
  let st := Dev.regStatus true x w.1 w.2.length
  if st ≠ St.ok then d.ends st
  else if d.stagedAddr op x.par then d.ends St.busy
  else
    let old := if op = 0x0102 then beBytes 4 (d.regVal w.1) else []
    match d.regWrites w.1 0 w.2 [] with
    | .error e => (d.regRejected (w.1 + 4 * e.2) (w.2.getD e.2 0) e.1, e.1, regRefused op e.2)
    | .ok r => ((r.1.mirrorConfig (r.1.regRecs r.2) (some x.item)).finishAcked x.item St.ok old).ends St.pending

/-! ## Circuits (R121 - R124, R149, R154, R162, R297) -/

/-- A hop that no route can hold: stands for an explicit route whose hops do not form one. -/
def badHop : Hop := { tile := 16, inp := 0, out := 0, lines := [], cross := 0 }

/-- One hop of an explicit route from its 24 bytes (R121); none where VALID is 0. -/
def parseHop (bs : List Byte) : Option Hop :=
  let ws := beWords bs
  let w := fun i => ws.getD i 0
  if bit (w 0) 4 then
    some { tile := bits (w 0) 3 0, inp := bits (w 0) 15 8, out := bits (w 0) 23 16
           lines := (List.range 15).map (fun j => bits (w (1 + j / 4)) (8 * (j % 4) + 7) (8 * (j % 4)))
           cross := bits (w 5) 14 0 }
  else none

/-- The hops of ROUTE: those in use, from the first; any other pattern forms no route. -/
def parseRoute (bs : List Byte) : List Hop :=
  match parseHop (bs.take 24), parseHop ((bs.drop 24).take 24), parseHop ((bs.drop 48).take 24) with
  | some a, none, none => [a]
  | some a, some b, none => [a, b]
  | some a, some b, some c => [a, b, c]
  | _, _, _ => [badHop]

/-- The parameters of a circuit item (R297). -/
def parseCir (par : List Byte) : CirPar :=
  let fl := beAt par 2 2
  let timed := bit fl 1
  { id := beAt par 0 2, flags := fl, inPort := beAt par 4 2, outPort := beAt par 6 2, voa := beAt par 8 2, via := beAt par 10 1
    rsv := beAt par 12 2, time := if timed then beAt par 16 8 else 0
    route := if bit fl 2 then parseRoute (par.drop (if timed then 24 else 16)) else [] }

/-- The kind of command of a circuit item. -/
def cirKind (op : Nat) : CmdKind :=
  match op with
  | 0x0200 => .establish
  | 0x0201 => .release
  | 0x0202 => .migrate
  | 0x0203 => .altArm
  | 0x0204 => .altDisarm
  | _ => .protect

/-- The checks at acceptance (R123, R149): role, ID, parameters. -/
def Dev.cirStatus (d : Dev) (k : CmdKind) (p : CirPar) : Nat :=
  let ends := k = .establish || k = .altArm
  let plans := ends || k = .migrate
  if !d.isActive then St.roleStandby
  else if !(k = .protect && p.byGroup) && (p.id = 0 || p.id = 0xFFFF) then St.valueInvalid
  else if ends && (1024 ≤ p.inPort || 1024 ≤ p.outPort) then St.valueInvalid
  else if plans && p.viaTile.any (fun t => decide (16 ≤ t)) then St.valueInvalid
  else St.ok

/-- Timed commands in commit order. -/
def Dev.timedCount (d : Dev) : Nat := (d.cir.queue.filter (fun (c : Cmd) => c.at_.isSome)).length

/-- A timed command at acceptance (R149): its boundary, and whether it is late; or its status. -/
def Dev.timedAt (d : Dev) (time : Nat) : Except Nat (Nat × Bool) :=
  if 64 ≤ d.timedCount then .error St.busy
  else if d.ptpNow + 86400000000000 < time then .error St.valueInvalid
  else
    let b := d.boundaryFor time
    if d.pick.num < b then .ok (b, false)
    else if d.flag F.CIRC_CFG.LATE_POLICY then .ok (b, true)
    else .error St.timePast

/-- CIRCUIT_ESTABLISH, CIRCUIT_RELEASE, CIRCUIT_MIGRATE, ALT_ARM, ALT_DISARM, PROTECT_SWITCH: accepted into commit order, or held
for GROUP_COMMIT (R124). -/
def Dev.itemCircuit (d : Dev) (x : ItemIn) (op : Nat) : Taken :=
  let k := cirKind op
  let p := parseCir x.par
  let disarm := k = .altDisarm
  -- a time too far ahead is refused of a group's member too (R149)
  let far := !disarm && bit p.flags 1 && decide (d.ptpNow + 86400000000000 < p.time)
  let st := if d.cirStatus k p = St.ok && far then St.valueInvalid else d.cirStatus k p
  if st ≠ St.ok then (d, st, cirNone)
  else if bit p.flags 0 && !disarm then
    let held := AMap.get d.cir.held x.slot []
    if 2048 ≤ held.length then (d, St.busy, cirNone)
    else
      let m : GroupMem := { item := x.item, kind := k, par := p }
      ({ d with cir := { d.cir with held := AMap.put d.cir.held x.slot (held ++ [m]) } }).ends St.pending
  else if bit p.flags 1 && !disarm then
    match d.timedAt p.time with
    | .error s => (if s = St.timePast then d.lateSeen p.id else d, s, cirNone)
    | .ok (b, late) => ((if late then d.lateSeen p.id else d).enqueue (some x.item) k p [] (some b) late).ends St.pending
  else (d.enqueue (some x.item) k p [] none false).ends St.pending

/-- GROUP_COMMIT (R124): the held items of the session become one command; timed when a member is, at the latest of their times, under the
rules of a timed command (R149): one that is late ends its members with it, one that is refused leaves them held. -/
def Dev.itemGroup (d : Dev) (x : ItemIn) : Taken :=
  if !d.isActive then (d, St.roleStandby, cirNone)
  else
    let held := AMap.get d.cir.held x.slot []
    let kept := d
    let d := { d with cir := { d.cir with held := AMap.del d.cir.held x.slot } }
    let times := held.filterMap (fun (m : GroupMem) => if bit m.par.flags 1 then some m.par.time else none)
    let time := times.foldl max 0
    let par : CirPar := { noPar with time := time }
    if times.isEmpty then (d.enqueue (some x.item) .group par held none false).ends St.pending
    else match d.timedAt time with
      | .error s =>
        if s ≠ St.timePast then (kept, s, cirNone)
        else (forEach held (fun (m : GroupMem) (d : Dev) => d.finish m.item s cirNone) (d.lateSeen 0), s, cirNone)
      | .ok (b, late) => ((if late then d.lateSeen 0 else d).enqueue (some x.item) .group par held (some b) late).ends St.pending

/-- CIRCUIT_READ (R121). -/
def Dev.itemCircuitRead (d : Dev) (x : ItemIn) : Taken :=
  let id := beAt x.par 0 2
  if bit (beAt x.par 2 2) 13 then
    if 0x7FF < id then d.ends St.valueInvalid else d.okWith (wordBytes (d.entryWords id))
  else if id = 0 || id = 0xFFFF then d.ends St.valueInvalid
  else match d.liveOf id with
    | some e => d.okWith (wordBytes (d.entryWords e))
    | none => d.ends St.circuitUnknown

/-- CIRCUIT_RESERVE (R154). -/
def Dev.itemReserve (d : Dev) (x : ItemIn) : Taken :=
  let i := beAt x.par 0 2
  let o := beAt x.par 2 2
  let via := beAt x.par 4 1
  let ms := beAt x.par 6 2
  if !d.isActive then d.ends St.roleStandby
  else if 1024 ≤ i || 1024 ≤ o || (16 ≤ via && via ≠ 255) then d.ends St.valueInvalid
  else match (List.range 256).find? (fun h => !d.tilth.rsv.any (fun (r : Rsv) => r.handle = h + 1)) with
    | none => d.ends St.busy
    | some h =>
      let pick := d.draw (2 ^ 32)
      let d := pick.2
      let v := if via = 255 then none else some via
      match d.planRoute (d.obst 0 .free none) true pick.1 v i o with
      | none => d.ends St.noRoute
      | some route =>
        let wait := if ms = 0 then d.rd F.TILTH_TMO.RSV_DEF_MS else ms
        let r : Rsv := { handle := h + 1, inPort := i, outPort := o, via := v, untilTb := d.time.tb + Dev.msNs wait, route := route }
        ({ d with tilth := { d.tilth with rsv := d.tilth.rsv ++ [r] } }).okWith (beBytes 2 (h + 1) ++ zeros 2)

/-- RESERVE_CANCEL (R154, R163). -/
def Dev.itemReserveCancel (d : Dev) (x : ItemIn) : Taken :=
  let h := beAt x.par 0 2
  if !d.isActive then d.ends St.roleStandby
  else if d.tilth.rsv.any (fun (r : Rsv) => r.handle = h) then (d.dropRsv h 0).ends St.ok
  else d.ends St.rsvUnknown

/-- PLAN_STATUS (R154, R162). -/
def Dev.itemPlanStatus (d : Dev) (x : ItemIn) : Taken :=
  let sel := beAt x.par 0 1
  let v := beAt x.par 2 2
  let armed := fun (b : Bool) => d.okWith (beBytes 1 (if b then 1 else 0) ++ zeros 3)
  if !d.isActive then d.ends St.roleStandby
  else if 1 < sel then d.ends St.valueInvalid
  else if sel = 1 then
    match d.tilth.rsv.find? (fun (r : Rsv) => r.handle = v) with
    | some r => armed (d.planArmed [] r.route)
    | none => d.ends St.rsvUnknown
  else if v = 0 || v = 0xFFFF then d.ends St.valueInvalid
  else match d.altOf v with
    | some a => armed (d.altArmed a)
    | none => d.ends St.circuitUnknown

/-- The words of a path record (R69). -/
def Dev.pathWords (d : Dev) (p : Nat) : List Nat :=
  [d.rd (F.PATH.CIRCUIT p) + d.rd (F.PATH.LIT p) * 2 ^ 16 + d.rd (F.PATH.SUSPENDED p) * 2 ^ 17 + d.rd (F.PATH.CELLS p) * 2 ^ 18,
   d.pathGroups p + d.rd (F.PATH.TURN p) * 2 ^ 8 + d.rd (F.PATH.PENDING p) * 2 ^ 16,
   d.rd (F.PATH.BEAT_START p),
   d.rd (F.PATH.CLAMP_CNT p) + d.rd (F.PATH.UPDATES p) * 2 ^ 16,
   d.rd (F.PATH.J_LAST p) + d.rd (F.PATH.RESUMES p) * 2 ^ 16, 0, 0, 0] ++
  (List.range 24).map (fun i => d.rd (F.PATH.LOOP p (2 * i)) + d.rd (F.PATH.LOOP p (2 * i + 1)) * 2 ^ 16)

/-- PATH_READ. -/
def Dev.itemPathRead (d : Dev) (x : ItemIn) : Taken :=
  let i := beAt x.par 0 2
  if 0x7FF < i then d.ends St.valueInvalid else d.okWith (wordBytes (d.pathWords i))

/-! ## Cells and tiles (R102, R103, R108, R109, R117) -/

/-- The cell of an EPA (R33, R34): none where the address is not valid, or names no cell. -/
def epaCell (epa : Nat) : Option Nat :=
  if 2 ^ 20 ≤ epa || bits epa 11 10 ≠ 0 || bits epa 15 12 = 15 then none
  else some (cellNo (bits epa 19 16) (bits epa 15 12) (bits epa 9 2))

/-- CELL_READ. -/
def Dev.itemCellRead (d : Dev) (x : ItemIn) : Taken :=
  match epaCell (beAt x.par 0 4) with
  | none => d.ends St.epaInvalid
  | some c => if d.tileRole (cellTile c) = 0 then d.ends St.tileAbsent else d.okWith (wordBytes (d.cellReport c))

/-- The checks that CELL_FREEZE, CELL_UNFREEZE and CELL_CAL share (R102). -/
def Dev.cellChecked (d : Dev) (x : ItemIn) (f : Nat → Taken) : Taken :=
  match epaCell (beAt x.par 0 4) with
  | none => d.ends St.epaInvalid
  | some c =>
    if !d.controls then d.ends St.roleStandby
    else if d.tileRole (cellTile c) = 0 then d.ends St.tileAbsent
    else f c

/-- CELL_FREEZE (R102). -/
def Dev.itemFreeze (d : Dev) (x : ItemIn) : Taken :=
  d.cellChecked x (fun c =>
    let m := d.cellMode c
    let join := fun (d : Dev) => d.updAux c (fun a => { a with freezeItems := a.freezeItems ++ [x.item] })
    if m = Cm.frozen then d.ends St.ok
    else if m = Cm.cal || m = Cm.faulted || d.flag (F.CELL.ALT c) || d.tileMode (cellTile c) = Tm.offline then d.ends St.modeRefused
    else if m = Cm.parked || m = Cm.hold then ((join d).trigger c 5 (.freeze x.item)).ends St.pending
    else
      let d := (join d).setFlag (F.CELL.FREEZE_PEND c) true
      (if m = Cm.warm then d.trigger c 7 (.undo 2) else d).ends St.pending)

/-- CELL_UNFREEZE (R102). -/
def Dev.itemUnfreeze (d : Dev) (x : ItemIn) : Taken :=
  d.cellChecked x (fun c =>
    if d.cellMode c = Cm.frozen then (d.trigger c 5 (.unfreeze x.item)).ends St.pending else d.ends St.ok)

/-- CELL_CAL (R103): the cell enters CAL at the next boundary; its sweep is the pass it belongs to. -/
def Dev.itemCellCal (d : Dev) (x : ItemIn) : Taken :=
  d.cellChecked x (fun c =>
    if !d.spotAllowed c || d.cal.runs.any (fun (r : CalRun) => r.cell = some c) then d.ends St.modeRefused
    else
      let r : CalRun := { tile := cellTile c, cell := some c, pass := calPassOf c, item := some x.item, fails := 0, aborted := false, stage8 := false }
      let d := (d.startCal r).updAux c (fun a => { a with calItem := some x.item })
      (d.trigger c 6 .calStart).ends St.pending)

/-- The checks that the four tile items share (R108, R109). -/
def Dev.tileChecked (d : Dev) (x : ItemIn) (f : Nat → Nat → Taken) : Taken :=
  let t := beAt x.par 0 1
  if !d.isActive then d.ends St.roleStandby
  else if 15 < t then d.ends St.valueInvalid
  else if d.tileRole t = 0 then d.ends St.tileAbsent
  else f t (d.tileMode t)

/-- TILE_ACTIVATE: FENCED with CAL_VALID goes to ACTIVE once its cells are raised (R428). -/
def Dev.itemTileActivate (d : Dev) (x : ItemIn) : Taken :=
  d.tileChecked x (fun t m =>
    if m = Tm.active then d.ends St.ok
    else if m ≠ Tm.fenced || !d.flag (F.TILE_MODE.CAL_VALID t) then d.ends St.modeRefused
    else match (d.link t).wakeFor with
      | some w =>
        if w = Tm.active then (d.updLink t (fun k => { k with wakeItems := k.wakeItems ++ [x.item] })).ends St.pending
        else d.ends St.busy
      | none => (d.startWake t (some Tm.active) [x.item] false).ends St.pending)

/-- TILE_FENCE: no live route, no armed alternate on the tile. -/
def Dev.itemTileFence (d : Dev) (x : ItemIn) : Taken :=
  d.tileChecked x (fun t m =>
    if m = Tm.fenced then d.ends St.ok
    else if m ≠ Tm.active then d.ends St.modeRefused
    else if d.usedEntries.any (fun e => (d.route e).any (fun (h : Hop) => h.tile = t)) then d.ends St.tileBusy
    else (d.tileTrigger t Tm.fenced false [x.item]).ends St.pending)

/-- TILE_CALIBRATE. -/
def Dev.itemTileCal (d : Dev) (x : ItemIn) : Taken :=
  d.tileChecked x (fun t m =>
    if m = Tm.cal || (m = Tm.fenced && (d.cal.runs.any (fun (r : CalRun) => r.tile = t) || (d.link t).wakeFor.isSome)) then d.ends St.busy
    else if m ≠ Tm.fenced then d.ends St.modeRefused
    else
      let r : CalRun := { tile := t, cell := none, pass := 0, item := some x.item, fails := 0, aborted := false, stage8 := false }
      ((d.startCal r).startWake t (some Tm.cal) [] false).ends St.pending)

/-- TILE_OFFLINE. -/
def Dev.itemTileOffline (d : Dev) (x : ItemIn) : Taken :=
  d.tileChecked x (fun t m =>
    if m = Tm.offline then d.ends St.ok
    else if m ≠ Tm.fenced then d.ends St.modeRefused
    else (d.tileTrigger t Tm.offline false [x.item]).ends St.pending)

/-! ## Loops, sets, tables (R36, R70 - R76, R88, R92, R95) -/

/-- A word of a loop's state as it is read: its value at the last pick boundary (R19, R73); a WARM cell's CODE reads PARK_CODE (R104). -/
def Dev.loopWord (d : Dev) (l off : Nat) : Nat :=
  let fs := loopFields.filter (fun (f : Nat × Nat × Nat × Bool × Nat) => f.1 = off)
  let warm := !isVoa l && d.cellMode (loopCell l) = Cm.warm
  (fs.map (fun (f : Nat × Nat × Nat × Bool × Nat) =>
    let v := if warm && off = 0x10 && f.2.1 = 16 then d.loopRd l (F.LOOP.PARK_CODE l)
      else if off = 0x48 && f.2.1 = 18 then (if d.trd.clearsAt.any (fun (r : ClrReq) => r.names l) then 1 else 0)
      else d.loopRd l ⟨0x02000000 + 0x80 * l + off, f.2.1 + f.2.2.1 - 1, f.2.1, f.2.2.2.2⟩
    v * 2 ^ f.2.1)).sum

/-- LOOP_READ. -/
def Dev.itemLoopRead (d : Dev) (x : ItemIn) : Taken :=
  let l := beAt x.par 0 2
  let off := beAt x.par 2 1
  let n := beAt x.par 3 1
  if d.tileRole (loopTile l) = 0 then d.ends St.tileAbsent
  else if off % 4 ≠ 0 || n = 0 || 32 < n || 0x80 < off + 4 * n then d.ends St.valueInvalid
  else d.okWith (wordBytes ((List.range n).map (fun i => d.loopWord l (off + 4 * i))))

/-- LOOP_WRITE (R19, R74, R295). -/
def Dev.itemLoopWrite (d : Dev) (x : ItemIn) : Taken :=
  match d.loopWriteOf x.par with
  | .error s => d.ends s
  | .ok ws =>
    if d.stagedAddr 0x0401 x.par then d.ends St.busy
    else
      let sh := ws.foldl (fun (m : List (Nat × Nat)) (kv : Nat × Nat) => AMap.put m kv.1 kv.2) d.loop.shadow
      ({ d with loop := { d.loop with shadow := sh, shadowItems := d.loop.shadowItems ++ [x.item] } }).ends St.pending

/-- LOOP_MOVE (R75, R76). -/
def Dev.itemLoopMove (d : Dev) (x : ItemIn) : Taken :=
  let l := beAt x.par 0 2
  let e := beAt x.par 2 1
  let s := beAt x.par 4 2
  if d.tileRole (loopTile l) = 0 then d.ends St.tileAbsent
  else if 63 < e || 1023 < s || d.engineOf l = e then d.ends St.valueInvalid
  else match d.acceptMove { loop := l, engine := e, slot := s, item := some x.item } with
    | some d => d.ends St.pending
    | none => d.ends St.busy

/-- COEF_READ. -/
def Dev.itemCoefRead (d : Dev) (x : ItemIn) : Taken :=
  let set := beAt x.par 0 1
  let off := beAt x.par 1 1
  let n := beAt x.par 2 1
  if 63 < set || off % 4 ≠ 0 || n = 0 || 0x100 < off + 4 * n then d.ends St.valueInvalid
  else d.okWith (wordBytes (((d.setWords set).drop (off / 4)).take n))

/-- COEF_WRITE (R72, R345). -/
def Dev.itemCoefWrite (d : Dev) (x : ItemIn) : Taken :=
  if !d.controls then d.ends St.roleStandby
  else match coefWriteOf x.par with
    | .error s => d.ends s
    | .ok ws =>
      if d.stagedAddr 0x0404 x.par then d.ends St.busy
      else
        let set := beAt x.par 0 1
        let sh := ws.foldl (fun (m : List (Nat × Nat)) (kv : Nat × Nat) => AMap.put m kv.1 kv.2) d.loop.coefShadow
        let d := { d with loop := { d.loop with coefShadow := sh, coefItems := d.loop.coefItems ++ [x.item] } }
        let ahead := forEach sh (fun (kv : Nat × Nat) (d : Dev) => d.putCoefKey kv.1 kv.2) d
        (d.mirrorConfig [(set, .coefSet (ahead.setWords set))] (some x.item)).ends St.pending

/-- TREADLE_READ (R92). -/
def Dev.itemTreadleRead (d : Dev) (x : ItemIn) : Taken :=
  let l := beAt x.par 0 2
  if d.tileRole (loopTile l) = 0 then d.ends St.tileAbsent
  else d.okWith ((List.range 256).flatMap (fun b => beBytes 2 (d.binRd l b)))

/-- TREADLE_WRITE (R92). -/
def Dev.itemTreadleWrite (d : Dev) (x : ItemIn) : Taken :=
  let l := beAt x.par 0 2
  if d.tableStatus l ≠ St.ok then d.ends (d.tableStatus l)
  else if d.stagedAddr 0x0501 x.par then d.ends St.busy
  else ({ d with trd := { d.trd with write := d.trd.write ++ [(l, tablePairs (x.par.drop 4), x.item)] } }).ends St.pending

/-- The loops of a class, as a clear request (R88): those listed with it and, for class 0, all that are not listed. -/
def Dev.classLoops (d : Dev) (cls : Nat) : ClrReq :=
  let listed := d.mem.filterMap (fun (kv : Nat × Nat) =>
    let a := kv.1 / 32
    if 0x02000000 ≤ a ∧ a < 0x02800000 ∧ (a - 0x02000000) % 128 = 0 ∧ kv.1 % 32 = 4 then some ((a - 0x02000000) / 128) else none)
  if cls = 0 then { loops := [], others := true, but := listed, item := none }
  else { loops := listed.filter (fun l => d.rd (F.LOOP.CLASS l) = cls), others := false, but := [], item := none }

/-- TREADLE_CLEAR (R88). -/
def Dev.itemTreadleClear (d : Dev) (x : ItemIn) : Taken :=
  let sel := beAt x.par 0 1
  let v := beAt x.par 2 2
  if 1 < sel || (sel = 1 && 15 < v) then d.ends St.valueInvalid
  else if sel = 0 && d.tileRole (loopTile v) = 0 then d.ends St.tileAbsent
  else
    let r : ClrReq := if sel = 0 then { loops := [v], others := false, but := [], item := none } else d.classLoops v
    let r := { r with item := some x.item }
    -- an item outside the transaction that writes a table staged by it (R291)
    let staged := d.cheda.txn.any (fun (t : Txn) => t.staged.any (fun (s : Staged) => s.op = 0x0501 && r.names (beAt s.par 0 2)))
    if staged then d.ends St.busy
    else ({ d with trd := { d.trd with clears := d.trd.clears ++ [r] } }).ends St.pending

/-- TREADLE_SAVE (R95). -/
def Dev.itemTreadleSave (d : Dev) (x : ItemIn) : Taken :=
  match d.treadleSaveStart (some x.item) with
  | some d => d.ends St.pending
  | none => d.ends St.busy

/-! ## Drafts (R37 - R39, R46) -/

/-- DRAFT_READ. -/
def Dev.itemDraftRead (d : Dev) (x : ItemIn) : Taken :=
  let slot := beAt x.par 0 1
  let n := beAt x.par 2 2
  let off := beAt x.par 4 4
  if 1 < slot || n < 4 || 4096 < n || n % 4 ≠ 0 || off % 4 ≠ 0 || 131072 < off + n then d.ends St.valueInvalid
  else
    let g := if slot = 0 then d.draft.active else d.draft.staged
    d.okWith (wordBytes ((List.range (n / 4)).map (fun i => draftWord g (off + 4 * i))))

/-- DRAFT_WRITE and DRAFT_LOAD_PREDEFINED, mirrored on change (R39). -/
def Dev.itemDraftPut (d : Dev) (x : ItemIn) (op : Nat) : Taken :=
  if !d.isActive then d.ends St.roleStandby
  else if draftForm op x.par ≠ St.ok then d.ends (draftForm op x.par)
  else if d.draftLocked || d.stagedAddr op x.par then d.ends St.busy
  else
    let d := { d with draft := { d.draft with staged := draftPut d.draft.staged op x.par } }
    ((d.mirrorConfig [(0, .staged op x.par)] (some x.item)).finishAcked x.item St.ok []).ends St.pending

/-! ## Statistics, logs, traces (R379, R391, R392, R410) -/

/-- COUNTER_READ. -/
def Dev.itemCounterRead (d : Dev) (x : ItemIn) : Taken := let r := d.counterRead x.par; (d, r.1, r.2)

/-- HISTO_READ. -/
def Dev.itemHistoRead (d : Dev) (x : ItemIn) : Taken := let r := d.histoRead x.par; (d, r.1, r.2)

/-- STATS_CLEAR. -/
def Dev.itemStatsClear (d : Dev) (x : ItemIn) : Taken := let r := d.statsClearTake x.item x.par; r.1.ends r.2

/-- LOG_READ. -/
def Dev.itemLogRead (d : Dev) (x : ItemIn) : Taken := let r := d.logRead x.par; (d, r.1, r.2)

/-- A trace record's 16 bytes (R409). -/
def TraceRec.bytes (r : TraceRec) : List Byte :=
  beBytes 4 r.pick ++ beBytes 2 r.loop ++ beBytes 2 r.code ++ beBytes 2 r.err ++ beBytes 2 r.y ++ beBytes 2 r.corr ++
  beBytes 1 r.flags ++ beBytes 1 r.mode

/-- A slack-history record's 176 bytes (R408). -/
def SlackRec.bytes (r : SlackRec) : List Byte :=
  beBytes 8 r.pick ++ (List.range 64).flatMap (fun e => beBytes 2 (AMap.get r.engines e 0)) ++
  (List.range 16).flatMap (fun t => beBytes 2 (AMap.get r.links t 0)) ++ zeros 8

/-- The records of a ring from an index, as bytes. -/
def Dev.ringBytes (d : Dev) (src first n : Nat) : List (List Byte) :=
  if src = 0 then
    ((d.loam.trace.drop (first - (d.loam.traceNext - d.loam.trace.length))).take n).map TraceRec.bytes
  else ((d.loam.slack.drop (first - (d.loam.slackNext - d.loam.slack.length))).take n).map SlackRec.bytes

/-- TRACE_READ (R410). -/
def Dev.itemTraceRead (d : Dev) (x : ItemIn) : Taken :=
  let src := beAt x.par 0 1
  let exp := bit (beAt x.par 1 1) 0
  let n := beAt x.par 2 2
  let idx := beAt x.par 4 8
  let most := if exp then 2048 else if src = 0 then 87 else 7
  if 1 < src || n = 0 || most < n then d.ends St.valueInvalid
  else if exp && d.loam.export_.isSome then d.ends St.busy
  else
    let len := if src = 0 then d.loam.trace.length else d.loam.slack.length
    let next := if src = 0 then d.loam.traceNext else d.loam.slackNext
    let want := if exp then n * 65536 else n
    let oldest := next - len
    let start := if idx = 2 ^ 64 - 1 then max oldest (next - want) else max idx oldest
    let m := min want (next - start)
    let head := beBytes 8 start ++ beBytes 8 oldest
    if exp then
      let e : Export := { src := src, slot := x.slot, start := start, count := m, item := x.item, pick := d.pick.num, time := d.ptpNow }
      let d := { d with loam := { d.loam with export_ := some e } }
      let d := d.setFlag F.TRACE_STAT.EXPORTING true
      (d.updItem x.item (fun r => { r with result := head ++ beBytes 2 (min m 65535) ++ zeros 6 })).ends St.pending
    else d.okWith (head ++ beBytes 2 m ++ zeros 6 ++ (d.ringBytes src start m).flatten)

/-! ## Gate lists, time, pair (R316, R332, R360, R361) -/

/-- GATE_LIST_READ. -/
def Dev.itemGateRead (d : Dev) (x : ItemIn) : Taken :=
  let p := beAt x.par 0 1
  let sel := beAt x.par 1 1
  if 1 < p || 1 < sel then d.ends St.valueInvalid
  else match AMap.find (if sel = 0 then d.sched.oper else d.sched.await) p with
    | none => d.okWith [0]
    | some g => d.okWith (beBytes 1 ((if g.enable then 1 else 0) + 2) ++ beBytes 1 g.entries.length ++ zeros 2 ++ beBytes 8 g.start ++
        beBytes 4 g.cycle ++ g.entries.flatMap (fun (e : Nat × Nat) => beBytes 1 e.1 ++ zeros 3 ++ beBytes 4 e.2))

/-- TIME_STEP. -/
def Dev.itemTimeStep (d : Dev) (x : ItemIn) : Taken :=
  (d.timeStep x.item (beAt x.par 0 1) (beAt x.par 4 8) x.src.rxTs).ends St.pending

/-- PAIR_STATUS. -/
def Dev.itemPairStatus (d : Dev) (_ : ItemIn) : Taken := d.okWith d.pairStatus

/-- PAIR_HANDOVER. -/
def Dev.itemHandover (d : Dev) (x : ItemIn) : Taken :=
  let r := d.pairHandover x.item (beAt x.par 0 2)
  r.1.ends r.2

/-! ## The unit (R296, R422) -/

/-- CONFIG_SAVE. -/
def Dev.itemConfigSave (d : Dev) (x : ItemIn) : Taken := (d.marlAsk 2 .config (some x.item)).ends St.pending

/-- FIRMWARE_WRITE. -/
def Dev.itemFirmwareWrite (d : Dev) (x : ItemIn) : Taken :=
  let off := beAt x.par 0 4
  let n := beAt x.par 4 2
  if n < 4 || 1024 < n || n % 4 ≠ 0 || 2 ^ 26 < off + n then d.ends St.valueInvalid
  else
    let st := (x.par.drop 8).zipIdx.foldl (fun (m : List (Nat × Nat)) (bi : Byte × Nat) => AMap.set m (off + bi.2) bi.1.toNat 0) d.boot.staging
    ({ d with boot := { d.boot with staging := st } }).ends St.ok

/-- FIRMWARE_ACTIVATE: the staged image is verified as in R420 step 2; Marl writes it to the slot not running. -/
def Dev.itemFirmwareActivate (d : Dev) (x : ItemIn) : Taken :=
  let n := beAt x.par 0 4
  let g := d.boot.staging
  let img : Image := { version := Config.imageVersion g % 2 ^ 32, secVer := Config.imageSecVer g % 2 ^ 32, good := true }
  let slot := 1 - d.rd F.BOOT_STAT.SLOT
  if 2 ^ 26 < n || !Config.imageGood g n then (d.raise 0x01 1 slot 0).ends St.valueInvalid
  else if img.secVer < d.nv.fuse then (d.raise 0x01 8 slot img.secVer).ends St.valueInvalid
  else
    let d := if bit (beAt x.par 4 1) 0 then { d with boot := { d.boot with bootNow := some x.item } } else d
    (d.marlAsk 5 (.image slot img) (some x.item)).ends St.pending

/-- SYSTEM_RESET: the request is reported (R381; assumption 87), the reset follows the reply. -/
def Dev.itemReset (d : Dev) (_ : ItemIn) : Taken := (d.raise 0x00 7 0 0).ends St.ok

/-- DEBUG_UNLOCK. -/
def Dev.itemDebug (d : Dev) (x : ItemIn) : Taken :=
  match beAt x.par 0 1 with
  | 0 =>
    let r := d.drawBytes 32
    ({ r.2 with boot := { r.2.boot with challenge := some r.1 } }).okWith r.1
  | 1 =>
    let good := match d.boot.challenge with
      | some c => Config.debugSigGood (c ++ beBytes 8 d.nv.serial) (x.par.drop 4)
      | none => false
    let d := { d with boot := { d.boot with challenge := none } }
    if good then (({ d with boot := { d.boot with unlocked := true } }).raise 0x01 6 x.slot 0).ends St.ok
    else (d.raise 0x01 7 x.slot 0).ends St.valueInvalid
  | 2 => ({ d with boot := { d.boot with unlocked := false, challenge := none } }).ends St.ok
  | _ => d.ends St.valueInvalid

/-! ## Taking an item (R287) -/

/-- An item that a transaction does not stage, by opcode. -/
def Dev.runItem (d : Dev) (x : ItemIn) (op : Nat) : Taken :=
  match op with
  | 0x0003 => d.itemClose x
  | 0x0004 => d.itemNop x
  | 0x0005 => d.itemAccount x
  | 0x0006 => d.itemSubscribe x
  | 0x0007 => d.itemEventAck x
  | 0x0008 => d.itemKeyWrite x
  | 0x0010 => d.itemBegin x
  | 0x0011 => d.itemCommitSet x
  | 0x0012 => d.itemAbortSet x
  | 0x0100 => d.itemRegRead x
  | 0x0101 => d.itemRegWrite x 0x0101
  | 0x0102 => d.itemRegWrite x 0x0102
  | 0x0200 => d.itemCircuit x 0x0200
  | 0x0201 => d.itemCircuit x 0x0201
  | 0x0202 => d.itemCircuit x 0x0202
  | 0x0203 => d.itemCircuit x 0x0203
  | 0x0204 => d.itemCircuit x 0x0204
  | 0x0205 => d.itemCircuit x 0x0205
  | 0x0206 => d.itemGroup x
  | 0x0207 => d.itemCircuitRead x
  | 0x0208 => d.itemReserve x
  | 0x0209 => d.itemReserveCancel x
  | 0x020A => d.itemPlanStatus x
  | 0x020B => d.itemPathRead x
  | 0x0300 => d.itemCellRead x
  | 0x0301 => d.itemFreeze x
  | 0x0302 => d.itemUnfreeze x
  | 0x0303 => d.itemCellCal x
  | 0x0310 => d.itemTileActivate x
  | 0x0311 => d.itemTileFence x
  | 0x0312 => d.itemTileCal x
  | 0x0313 => d.itemTileOffline x
  | 0x0400 => d.itemLoopRead x
  | 0x0401 => d.itemLoopWrite x
  | 0x0402 => d.itemLoopMove x
  | 0x0403 => d.itemCoefRead x
  | 0x0404 => d.itemCoefWrite x
  | 0x0500 => d.itemTreadleRead x
  | 0x0501 => d.itemTreadleWrite x
  | 0x0502 => d.itemTreadleClear x
  | 0x0503 => d.itemTreadleSave x
  | 0x0600 => d.itemDraftRead x
  | 0x0601 => d.itemDraftPut x 0x0601
  | 0x0602 => d.itemDraftPut x 0x0602
  | 0x0700 => d.itemCounterRead x
  | 0x0701 => d.itemHistoRead x
  | 0x0702 => d.itemStatsClear x
  | 0x0703 => d.itemLogRead x
  | 0x0704 => d.itemTraceRead x
  | 0x0801 => d.itemGateRead x
  | 0x0802 => d.itemTimeStep x
  | 0x0900 => d.itemPairStatus x
  | 0x0901 => d.itemHandover x
  | 0x0A00 => d.itemConfigSave x
  | 0x0A01 => d.itemFirmwareWrite x
  | 0x0A02 => d.itemFirmwareActivate x
  | 0x0A03 => d.itemReset x
  | 0x0A04 => d.itemDebug x
  | 0x0603 | 0x0800 => d.ends St.noSet
  | _ => d.ends St.badOpcode

/-- The checks of a staged item when it is taken: form, privilege over its addresses, role (R291). -/
def Dev.stageStatus (d : Dev) (x : ItemIn) (op : Nat) : Nat :=
  match op with
  | 0x0101 | 0x0102 =>
    let w := d.regItem op x.par
    let st := Dev.regStatus true x w.1 w.2.length
    if st ≠ St.ok then st
    else if !d.isActive then
      match d.regWrites w.1 0 w.2 [] with
      | .error e => if e.1 = St.roleStandby then St.roleStandby else St.ok
      | .ok _ => St.ok
    else St.ok
  | 0x0404 => if d.controls then St.ok else St.roleStandby
  | 0x0601 | 0x0602 =>
    if !d.isActive then St.roleStandby
    else if draftForm op x.par ≠ St.ok then draftForm op x.par
    else if d.draftLocked then St.busy
    else St.ok
  | 0x0603 => if !d.isActive then St.roleStandby else if d.draftLocked then St.busy else St.ok
  | 0x0800 => if !d.isActive then St.roleStandby else if (parseGates x.par).isNone then St.valueInvalid else St.ok
  | _ => St.ok

/-- Stages an item in its session's transaction. -/
def Dev.stageItem (d : Dev) (x : ItemIn) (op : Nat) (t : Txn) : Taken :=
  let st := d.stageStatus x op
  let size := (t.staged.map (fun (s : Staged) => s.par.length)).sum + x.par.length
  if st ≠ St.ok then d.ends st
  else if 2048 ≤ t.staged.length || 524288 < size then d.ends St.busy
  else
    let t := { t with staged := t.staged ++ [{ item := x.item, op := op, par := x.par }], lastTb := d.time.tb }
    ({ d with cheda := { d.cheda with txn := some t } }).ends St.pending

/-- The opcodes that recovery accepts (R421). -/
def recoveryOps : List Nat := [0x0003, 0x0004, 0x0100, 0x0A01, 0x0A02, 0x0A03]

/-- Runs the checks of an item's opcode in their order - opcode, format, privilege, transaction - and then the item. -/
def Dev.judgeItem (d : Dev) (x : ItemIn) (op : Nat) : Taken :=
  match AMap.find opcodes op with
  | none => if op = 0x0001 || op = 0x0002 then d.ends St.privDenied else d.ends St.badOpcode
  | some priv =>
    if d.flag F.BOOT_STAT.RECOVERY && !recoveryOps.contains op then d.ends St.badOpcode
    else if !formatGood op x.par then d.ends St.badLength
    else if x.priv < priv || ((op = 0x0700 || op = 0x0701) && x.priv = 0 && !x.ctrRead) then d.ends St.privDenied
    else match d.ownTxn x.slot with
      | some t =>
        if stageable.contains op then d.stageItem x op t
        else if runsInTxn.contains op then d.runItem x op
        else d.ends St.notInSet
      | none => d.runItem x op

/-- The end that the taking of an item came to: its final status is recorded; a result that does not fit its reply refuses the item
with TOO_LARGE before it has any effect (R280). -/
def Dev.settleItem (before : Dev) (x : ItemIn) (r : Taken) : Dev :=
  let d := r.1
  if r.2.1 = St.pending then d
  else
    let room := before.roomOf x.src.addr 2 - 12 - (if x.slot = 0 then 0 else 16)
    if room < (entryBytes 0 0 0 r.2.2).length then before.finish x.item St.tooLarge []
    else d.finish x.item r.2.1 r.2.2

/-- Takes one item of session 0: SESSION_OPEN or SESSION_PROVE. -/
def Dev.takeOpening (d : Dev) (src : ItemSrc) (op : Nat) (par : List Byte) : Dev × Nat :=
  let host := if op = 0x0001 then beAt par 2 2 else ((d.session (beAt par 0 1)).map (fun (s : Session) => s.hostId)).getD 0
  let (d, i) := d.newItem src op host
  let x : ItemIn := { item := i, slot := 0, priv := 0, ctrRead := false, src := src, par := par }
  let r : Taken :=
    if !formatGood op par then d.ends St.badLength
    else if op = 0x0001 then d.sessionOpen src.addr par
    else d.sessionProve src.addr par
  (Dev.settleItem d x r, i)

/-- Takes one item of an open session. -/
def Dev.takeItem (d : Dev) (src : ItemSrc) (s : Session) (op : Nat) (par : List Byte) : Dev × Nat :=
  let (d, i) := d.newItem src op s.hostId
  let x : ItemIn := { item := i, slot := src.slot, priv := s.priv, ctrRead := s.ctrRead, src := src, par := par }
  (Dev.settleItem d x (d.judgeItem x op), i)

/-- An item that failed at its acceptance. -/
def Dev.itemFailed (d : Dev) (i : Nat) : Bool :=
  match d.item i with
  | some r => r.fin.any (fun st => decide (st ≠ St.ok))
  | none => false

/-- The end of an item that STOP skips: it is not taken (R287). -/
def Dev.skipItem (d : Dev) (src : ItemSrc) (op host : Nat) : Dev × Nat :=
  let i := d.cheda.nextItem
  let r : ItemRec := { id := i, src := src, op := op, hostId := host, fin := some St.skipped, refer := false, result := [], csn := 0
                       told := false, finTb := d.time.tb, takenTb := d.time.tb, staged := false, committed := false }
  ({ d with cheda := { d.cheda with nextItem := i + 1, items := d.cheda.items ++ [r] } }, i)

/-! ## Packets (R279, R286, R287) -/

/-- Opens the reply of a packet. -/
def Dev.openReply (d : Dev) (slot seq : Nat) (a : Addr) : Dev :=
  let r : ReplyRec := { slot := slot, seq := seq, addr := a, items := [], sent := false, lastTb := d.time.tb, stale := false }
  { d with cheda := { d.cheda with replies := d.cheda.replies ++ [r] } }

/-- Adds an item to the newest reply of its packet. -/
def addToReply (slot seq i tb : Nat) : List ReplyRec → List ReplyRec
  | [] => []
  | r :: rs =>
    if r.slot = slot && r.seq = seq && !rs.any (fun (x : ReplyRec) => x.slot = slot && x.seq = seq) then
      { r with items := r.items ++ [i], lastTb := tb } :: rs
    else r :: addToReply slot seq i tb rs

def Dev.replyAdd (d : Dev) (slot seq i : Nat) : Dev :=
  { d with cheda := { d.cheda with replies := addToReply slot seq i d.time.tb d.cheda.replies } }

/-- The Cheda cores run: from the end of stage 2 on, or in recovery (R420, R421). -/
def Dev.coresRun (d : Dev) : Bool := decide (3 ≤ d.rd F.BOOT_STAT.STAGE) || d.flag F.BOOT_STAT.RECOVERY

/-- A packet of an open session that passed AUTH (R286): new ones open their reply; true when its items are to be taken. -/
def Dev.takePacket (d : Dev) (slot seq : Nat) (s : Session) (a : Addr) : Dev × Bool :=
  let s := { s with addr := a, lastTb := d.time.tb }
  let d := d.putSession slot s
  match s.window seq with
  | 0 => (((d.acceptSeq slot seq s).openReply slot seq a).count 0x60, true)
  | 1 => (d.duplicate slot seq a, false)
  | _ => (d.stale slot seq a, false)

/-- Takes the items of a packet in order. -/
def Dev.takeItems (slot seq : Nat) (a : Addr) (rx : Nat) (stop : Bool) (s : Session) : List RawItem → Bool → Dev → Dev
  | [], _, d => d
  | it :: its, failed, d =>
    let src : ItemSrc := { slot := slot, seq := seq, tag := it.tag, addr := a, rxTs := rx }
    let r := if stop && failed then d.skipItem src it.op s.hostId else d.takeItem src s it.op it.par
    let d := r.1.replyAdd slot seq r.2
    Dev.takeItems slot seq a rx stop s its (failed || d.itemFailed r.2) d

/-- The one item of a packet of session 0. -/
def Dev.openingItem (d : Dev) (src : ItemSrc) (op : Nat) (par : List Byte) : Dev :=
  let d := (d.openReply 0 src.seq src.addr).count 0x60
  let r := d.takeOpening src op par
  r.1.replyAdd 0 src.seq r.2

/-- A parsed packet (R279). -/
def Dev.chedaBytes (d : Dev) (a : Addr) (rx : Nat) (bs : List Byte) : Dev :=
  match parsePacket bs with
  | none => d.badPacket (beAt bs 2 1)
  | some pk =>
    if pk.slot = 0 then
      match pk.items with
      | [it] =>
        if it.op = 0x0001 || it.op = 0x0002 then
          d.openingItem { slot := 0, seq := pk.seq, tag := it.tag, addr := a, rxTs := rx } it.op it.par
        else d.badPacket 0
      | _ => d.badPacket 0
    else match d.session pk.slot with
      | none => d.badPacket pk.slot
      | some s =>
        if s.opening then d.badPacket pk.slot
        else
          let n := beAt bs 8 2 - 16
          if (hmac256 s.sk (bs.take n)).take 16 ≠ (bs.drop n).take 16 then
            (d.bump F.CHEDA_CNT_A.AUTH_FAIL 1).raise 0x2A 0 pk.slot 1
          else
            let r := d.takePacket pk.slot pk.seq s a
            if r.2 then Dev.takeItems pk.slot pk.seq a rx pk.stop s pk.items false r.1 else r.1

/-- CHEDA_PACKET (R276): the frame that the strict priority of RX queues 1 - 7 gives, answered by the assists (queue 1) or parsed. -/
def Dev.chedaPacket (d : Dev) : Dev :=
  if !d.coresRun then d
  else match (List.range 7).find? (fun i => !(d.rxq (i + 1)).isEmpty) with
    | none => d
    | some i =>
      let r := d.rxPop (i + 1)
      match r.2 with
      | none => r.1
      | some f => match r.1.carried f with
          | .packet a bs => r.1.chedaBytes a f.ts bs
          | .badDst => r.1.bump F.CHEDA_CNT_D.BAD_DST 1
          | .other => if i = 0 then r.1.assist f else r.1

/-- A row of one host item: an item of a packet that passed the checks of R279.  The first item of a sequence opens its packet; a
later one of the same sequence, before the reply left, joins it. -/
def Dev.itemRow (d : Dev) (src : ItemSrc) (op : Nat) (par : List Byte) : Dev :=
  if !d.coresRun then d
  else if src.slot = 0 then
    if op = 0x0001 || op = 0x0002 then d.openingItem src op par else d.badPacket 0
  else match d.session src.slot with
    | none => d.badPacket src.slot
    | some s =>
      if s.opening then d.badPacket src.slot
      else
        let joins := d.cheda.replies.any (fun (r : ReplyRec) => r.slot = src.slot && r.seq = src.seq && !r.sent)
        let r := if joins then (d, true) else d.takePacket src.slot src.seq s src.addr
        if r.2 then
          let t := r.1.takeItem src s op par
          t.1.replyAdd src.slot src.seq t.2
        else r.1

end Sys2Proof.Machine
end

