-- ==== Sys2Proof/Machine/Pick.lean ====
section
/-! DEFINITION. The pick boundary (R13, R54, R99): the pick that ends, the boundary that comes, and the work placed at it and at a
beat boundary; and what a sense frame brings (R178, R221, R236, R356). -/
namespace Sys2Proof.Machine
open Sys2Proof

/-! ## The pick that ends -/

/-- Chunks still open close at the boundary, with no slack left: the cutoffs lie before it (R177). -/
def Dev.closeChunks (d : Dev) : Dev :=
  forEach (List.range 16) (fun t (d : Dev) =>
    if d.linkUp t then forEach (List.range 16) (fun c (d : Dev) => d.chunkClose t c 0) d else d) d

/-- Tiles whose thermal samples were due in the pick that ends (R24) and from which no frame came: their reading fails (R236). -/
def Dev.thermalLost (d : Dev) : Dev :=
  if d.pick.num % 16 ≠ 0 then d
  else forEach (List.range 16) (fun t (d : Dev) => if (d.link t).heard then d else d.tileReadingFails t 0) d

/-- The live entries whose path record runs. -/
def Dev.livePaths (d : Dev) : List Nat := d.liveEntries

/-- What ends with a pick: open chunks, missing sense frames, the witness round, held TEC loops, the samples of the outer loop,
steps and slack of the engines (`slack`, ns, by engine). -/
def Dev.pickEnd (d : Dev) (slack : List Nat) : Dev :=
  let d := ((d.closeChunks).thermalLost).unheard
  let d := ((d.roundJudge).tecPick)
  let d := forEach d.livePaths (fun p (d : Dev) => d.outerSample p) d
  (d.enginePick).putSlack slack (decide (d.pick.num % d.beatLen = 0))

/-! ## The boundary that comes -/

/-- Time runs on to the boundary and the pick number advances; boundary 0 is the first after reset (R324). -/
def Dev.nextBoundary (d : Dev) : Dev :=
  let n := d.nextPick
  let tb := d.nextTb
  let d := (d.advance tb).readsFresh
  { d with pick := { d.pick with num := n, started := true } }

/-- A pick-rate change carries the dividers of the links and the batch rotation with it (R54, R186, R347). -/
def Dev.rateChange (d : Dev) : Dev :=
  let was := d.pick.rate
  let d := d.pickChange
  if d.pick.rate = was then d
  else
    let d := forEach (List.range 16) (fun t (d : Dev) => if d.linkUp t then d.putLanes t (d.link t).lanes else d) d
    d.updSlv (fun s => { s with restartBatch := d.pick.num / 16 })

/-- Records of the slack-history ring: 128 MiB of 176 bytes (R22, R408). -/
def slackCap : Nat := 762600

/-- The slack-history record of the beat that ends (R408); none while that ring is exported (R410). -/
def Dev.slackRecord (d : Dev) : Dev :=
  if (d.loam.export_.map (fun (x : Export) => x.src)) = some 1 then d
  else
    let r : SlackRec := { pick := d.pick.num
                          engines := (List.range 64).map (fun e => (e, d.engSlack e))
                          links := (List.range 16).map (fun t => (t, d.rd (F.WEFT_SLACK.SLACK_MIN t))) }
    let d := { d with loam := { d.loam with
      slack := keepLast slackCap (d.loam.slack ++ [r]), slackNext := (d.loam.slackNext + 1) % 2 ^ 64 } }
    if d.loam.slackNext % slackCap = 1 && 1 < d.loam.slackNext then d.raise 0x03 6 0 0 else d

/-- The least slack of each link in the beat that ends (R189). -/
def Dev.linkSlack (d : Dev) : Dev :=
  forEach (List.range 16) (fun t (d : Dev) => match (d.link t).slackBeat with
    | some s => d.wr (F.WEFT_SLACK.SLACK_MIN t) (min 65535 s)
    | none => d) d

/-- The shut-down at a pick boundary (R232): at the first one the tiles it drives go to HOLDOVER (R108), drive and heartbeats stop, the DAC
internal clear is asserted, the EVENT frames and REFER completions leave; from 1 ms on every block but Therm, Marl and Supply is held. -/
def Dev.shutBoundary (d : Dev) : Dev :=
  if d.therm.shut = 1 then
    let away := if d.controls then tiles16.filter (fun t => let m := d.tileMode t; m = Tm.active || m = Tm.cal || m = Tm.fenced) else []
    let d := forEach away (fun t (d : Dev) => d.applyTile { tile := t, mode := Tm.holdover, fatal := false, items := [] }) d
    let d := { d with therm := { d.therm with shut := 2 }, dac := { d.dac with sharedOn := false } }
    let d := (d.setFlag F.DAC_STAT.CLR_INT true).eventSend
    d.referAll true (fun _ => true)
  else if d.therm.shut = 2 && decide (d.therm.shutTb + 1000000 ≤ d.time.tb) then d.holdBlocks
  else d

/-- An adopted commit completes under its own rule (R353 step 7): its ledger entry, taken from the peer's records while PENDING,
becomes OK when no entry of its CSN is still on its way to SETTLED and no piece of it runs. -/
def Dev.adoptedCommits (d : Dev) : Dev :=
  if !d.isActive then d
  else
    let busy := fun (csn : Nat) =>
      d.liveEntries.any (fun e => d.rd (F.CIR.CSN e) = csn && d.eState e = 1 && !d.flag (F.CIR.SETTLED e)) ||
      d.cir.pieces.any (fun (p : Piece) => p.csn = csn)
    { d with cheda := { d.cheda with ledger := d.cheda.ledger.map (fun (e : LedgerRec) =>
        if e.item.isNone && e.status = St.pending && !busy e.csn then { e with status := St.ok } else e) } }

/-- 64 words of the shared SRAM from a byte offset (R21): the circuit table, the two draft slots, the coefficient sets, the cell records as
the commits counted so far leave them (R104, R345), the path records. -/
def Dev.regionWords (d : Dev) (off : Nat) : List Nat :=
  if off < 0x80000 then d.entryWords (off / 256)
  else if off < 0xA0000 then (List.range 64).map (fun i => draftWord d.draft.active (off - 0x80000 + 4 * i))
  else if off < 0xC0000 then (List.range 64).map (fun i => draftWord d.draft.staged (off - 0xA0000 + 4 * i))
  else if off < 0xC4000 then d.setWords ((off - 0xC0000) / 256)
  else if off < 0x1B4000 then (List.range 16).flatMap (fun i => (d.cellAfter ((off - 0xC4000) / 16 + i)).1)
  else d.pathWords ((off - 0x1B4000) / 128) ++ d.pathWords ((off - 0x1B4000) / 128 + 1)

/-- The snapshot is taken at the beat boundary (R349); the tile modes travel with it (DESIGN CHOICE, assumption 22). -/
def Dev.snapTake (d : Dev) : Dev :=
  if d.slv.snapDue && d.controls then
    let mk : Nat → MirBody → MirRec := fun o b => { typ := 7, version := d.cir.csn, obj := o, close := false, retry := false, body := b }
    let recs := (List.range 8000).map (fun i => mk (256 * i) (.region (d.regionWords (256 * i)))) ++
      tiles16.map (fun t => mk (R.TILE_MODE t) (.reg (d.tileMode t)))
    d.updSlv (fun s => { s with snapDue := false, snapTaken := some (d.cir.csn, recs) })
  else d

/-- The beat work before the transitions of the boundary (R54): the beat that ends is measured, then the pending changes of the
beat that begins take effect.  `ns`: the length of the beat that ends. -/
def Dev.beatWork (d : Dev) (ns : Nat) : Dev :=
  let d := ((d.satBeat).linkSlack).siltBeat
  let d := (d.slackRecord).engineBeat ns
  let d := forEach (List.range 16) (fun t (d : Dev) => d.updLink t (fun k => { k with slackBeat := none })) d
  let d := forEach [0, 1, 2, 3] (fun n (d : Dev) => d.trkConfig n) d
  let d := if d.draft.swapDue then d.swapDrafts else d
  let d := (((d.applyCoef).applyClears).applyMoves).laneRejoin
  let d := (((d.tileCaps).bandsBeat).thermCaps).takeCaps
  d.pulseBeat

/-- The commits whose boundary has come (R128): they meet the rise budget and the cells as they are, then their drives are applied; a unit
that does not control the fabric drives nothing. -/
def Dev.meetDue (d : Dev) (us : List Due) : Dev := (if d.controls then d.commitsMeet us else d).applyDue

/-- The transitions of the boundary: roles, tiles, cells, routes, pieces (R99, R100); a unit that does not control the fabric changes
no cell and no route (R112). -/
def Dev.transitions (d : Dev) (beat : Bool) : Dev :=
  let was := d.role
  let d := (((d.riseRefill).slvHealth).roleBoundary).afterRole was
  let off := tiles16.filter (fun t => d.tileMode t = Tm.offline)
  let d := (((d.applyTiles).fenceOffline off).startBoundary)
  let dueNow := d.cir.due.filter (fun (u : Due) => decide (u.at_ ≤ d.pick.num))
  let lit := (d.cir.pieces.filter (fun (p : Piece) => d.pieceLit p)).map (fun (p : Piece) => p.entry)
  let d := ((((d.meetDue dueNow).arrivals).pieceJoins).pieceEnds).applyTriggers
  if !d.controls then d
  else
    let runs := d.cir.pieces.length
    let d := ((d.applyDueSp dueNow).routeStates).piecesBoundary beat lit
    -- a piece that was aborted leaves its circuit DARK when its route is broken (R120)
    let d := if d.cir.pieces.length = runs then d else d.routeStates
    let d := ((d.settle).endWaits).adoptedCommits
    -- calibration takes of the rise and FC budgets what commits and Tilth leave (R137, R138)
    let d := (if beat then d.tilthAdmit else d).calBoundary
    forEach d.livePaths (fun p (d : Dev) => d.outerBoundary p) d

/-- The words of the dump list as they stand (R393). -/
def Dev.bobWords (d : Dev) : List Nat :=
  (List.range (min 2048 (d.rd F.BOB_LIST_LEN.LEN))).map (fun i => d.regVal (d.rd (F.BOB_LIST.ADDR i)))

/-- What Perf does at a boundary: the snapshot that is due first, then clears and selections (R382, R391). -/
def Dev.perfTurn (d : Dev) : Dev :=
  let d := if d.snapDue then d.snapshot d.bobWords else d
  d.perfBoundary

/-- The throttle level of the picks from this boundary on (R230, levels 1, 3 and 4): at level 3 every plan is discarded but that of the
first command in commit order, which is at the commit point (R136); what stops is reported (R381; assumption 87). -/
def Dev.throttleTurn (d : Dev) : Dev :=
  let was := d.throttlePick
  let d := { d with therm := { d.therm with levelPick := d.throttle } }
  let d := if was < 3 && 3 ≤ d.throttlePick then
      (d.discardPlans (fun (c : Cmd) => (d.commitOrder.head?.map (fun (h : Cmd) => h.no)) ≠ some c.no) 0).raise 0x0A 5 0 d.throttlePick else d
  if was < 4 && 4 ≤ d.throttlePick && d.flag F.TRACE_CTL.EN then d.raise 0x2B 9 0 d.throttlePick else d

/-- The work of a boundary that has come; `ns`: the length of a beat under the rate and the beat length before it. -/
def Dev.boundaryWork (d : Dev) (ns : Nat) : Dev :=
  let beat := decide (d.pick.num % d.beatLen = 0)
  let d := ({ d with slv := { d.slv with sent := [] } }).throttleTurn
  let d := ((d.stepBoundary).refBoundary).evClears
  let d := ((d.applyShadow beat).setProgress)
  let d := if beat then d.setEffect else d
  let d := ((d.regBoundary beat).applyTables)
  let d := if beat then d.beatWork ns else d
  let d := ((d.tilthBudget).tilthSweep 0).driftBoundary beat
  let d := forEach [0, 1, 2, 3] (fun n (d : Dev) => d.trkBoundary n) d
  let d := d.transitions beat
  let d := if beat then d.snapTake else d
  let d := ((d.holdoffBoundary).evHolds)
  let d := ((d.dacBoundary).rangingBoundary).chkBoundary
  let d := (d.count 0x01).tick 20
  let d := if beat then (d.count 0x02).tick 21 else d
  ((d.buildFrames).perfTurn).clearsShown

/-- The end of a boundary: no link has been heard in the pick that begins. -/
def Dev.unhear (d : Dev) : Dev :=
  forEach (List.range 16) (fun t (d : Dev) => if (d.link t).heard then d.updLink t (fun k => { k with heard := false }) else d) d

/-- PICK_BOUNDARY (R13): the pick ends, the boundary comes and its work is done; a SYSTEM_RESET whose time has come resets the
unit; from the boundary after a shut-down on, only the shut-down itself goes on (R232). -/
def Dev.pickBoundary (d : Dev) (slack : List Nat) : Dev :=
  let d := if d.pick.started && decide (d.therm.shut < 2) then d.pickEnd slack else d
  let d := (d.dacUpTo (d.nextTb - 1)).nextBoundary
  if d.boot.resetAt.any (fun t => decide (t ≤ d.time.tb)) then d.resetSelf
  else if 0 < d.therm.shut then (d.shutBoundary).unhear
  else ((d.rateChange).boundaryWork (d.beatLen * d.pickNs)).unhear

/-! ## A sense frame -/

/-- SENSE_FRAME: the link's part, then the thermal samples with the TEC loop, the start-up's settling and the claim of a
handover.  A pick whose thermal samples are lost publishes nothing valid (R236). -/
def Dev.senseIn (d : Dev) (t : Nat) (f : SenseFrame) : Dev :=
  if 16 ≤ t || !d.linkUp t || (d.link t).heard then d
  else
    let d := d.senseFrame t f
    if !f.crcOk then (if d.pick.num % 16 = 0 then d.tileReadingFails t 0 else d)
    else
      let d := d.senseClaims (f.words.getD 1 0)
      if !bit (f.words.getD 0 0) 18 then d
      else if !f.tailOk then d.tileReadingFails t 0
      else
        let d := d.tileTemp t f.thermal ((d.link t).flags.map (fun w => w % 65536))
        let d := d.settleNote t
        if d.tecValid t then d.tecStep t (d.rdS (F.TILE_TEMP.TEMP t)) else d

end Sys2Proof.Machine
end

