-- ==== Sys2Proof/Machine/Mirror.lean ====
section
/-! DEFINITION. The mirror at the unit in STANDBY (R345, R346, R348, R349): records are held aside until their version closes, then
applied in order; the snapshot; the state of the copy. -/
namespace Sys2Proof.Machine
open Sys2Proof

/-! ## Applying one record (R346) -/

/-- The words of a cell's record. -/
def Dev.putCellWords (d : Dev) (c : Nat) (ws : List Nat) : Dev :=
  let w := fun (i : Nat) => ws.getD i 0
  let d := ((d.wr (F.CELL.MODE c) (bits (w 0) 3 0)).wr (F.CELL.PREV_MODE c) (bits (w 0) 7 4)).wr (F.CELL.LIT c) (bits (w 0) 8 8)
  let d := ((d.wr (F.CELL.ALT c) (bits (w 0) 9 9)).wr (F.CELL.HOST_FROZEN c) (bits (w 0) 10 10)).wr (F.CELL.WIDE c) (bits (w 0) 11 11)
  let d := (d.wr (F.CELL.FREEZE_PEND c) (bits (w 0) 12 12)).wr (F.CELL.CIRCUIT c) (bits (w 0) 31 16)
  let d := (d.wr (F.CELL.TARGET_CODE c) (bits (w 1) 15 0)).wr (F.CELL.FC_CODE c) (bits (w 1) 31 16)
  let d := (d.wr (F.CELL.FAULT_CAUSE c) (bits (w 2) 23 16)).wr (F.CELL.ENTRY_PICK c) (bits (w 3) 31 0)
  -- MODE_PICKS counts from the pick that ENTRY_PICK names, the nearest one of that number
  let ago := (d.pick.num + 2 ^ 32 - bits (w 3) 31 0) % 2 ^ 32
  d.updAux c (fun a => { a with entry := if ago < 2 ^ 31 then d.pick.num - ago else d.pick.num + (2 ^ 32 - ago) })

/-- The cells of a route take its states, so that adoption knows them. -/
def Dev.noteCross (d : Dev) (r : List Hop) : Dev :=
  forEach (routeCells r) (fun (cx : Nat × Bool) (d : Dev) => d.updAux cx.1 (fun a => { a with cross := cx.2 })) d

/-- An entry with its path record; one that is no longer PIECING has no piece any more. -/
def Dev.mirrorEntry (d : Dev) (e : Nat) (ws : List Nat) : Dev :=
  let old := d.route e
  let live := decide (e < 0x400)
  let d := if live then d.setPath ((routeCells old).map (·.1)) none else d
  let d := d.putEntryWords e ws
  let d := if d.eState e ≠ 2 then d.dropPiece e else d
  if d.eState e = 0 then (d.freeEntryAt e).clearPath e
  else
    let r := d.route e
    let d := d.writePath e (d.eId e) live r
    if live then d.noteCross r else d

/-- A running piece: with phase 0 it begins on the route in the table; phase 3 ends it, phase 4 drops it. -/
def Dev.mirrorPieceRec (d : Dev) (e csn phase start n : Nat) (new : List Hop) : Dev :=
  let at_ := d.cir.pieces.find? (fun (p : Piece) => p.entry = e)
  let d := d.dropPiece e
  if phase = 4 then d.wr (F.CIR.STATE e) 1
  else if phase = 3 then
    let old := d.route e
    let d := (d.setPath (leavingCells old new) none).writeRoute e new
    let d := ((d.writePath e (d.eId e) true new).wr (F.CIR.STATE e) 1).noteCross new
    let d := forEach (leavingCells old new) (fun c (d : Dev) => d.wr (F.CELL.MODE c) Cm.parked) d
    let d := forEach ((routeCells new).map (·.1)) (fun c (d : Dev) => d.wr (F.CELL.MODE c) Cm.hold) d
    d.relight (leavingCells old new ++ (routeCells new).map (·.1))
  else
    let old := d.route e
    match at_, splitCell old new, joinCells old new with
    | some p, _, _ => { d with cir := { d.cir with pieces := d.cir.pieces ++ [{ p with phase := phase, lockAt := start, len := max 1 n, n := 1 }] } }
    | none, some s, some (jo, jn) =>
      let p : Piece := { entry := e, item := none, isMove := false, cmd := 0, old := old, new := new, split := s, joinNew := jn
                         joinOld := jo, phase := phase, n := 1, start := start, lockAt := start, len := max 1 n, trim := 0, good := 0
                         bad := 0, beats := 0, est := 0, paused := false, csn := csn
                         spSplit := d.stateSp s (((routeCells old).find? (fun cx => cx.1 = s)).any (fun cx => cx.2))
                         spJoin := d.stateSp jo (((routeCells old).find? (fun cx => cx.1 = jo)).any (fun cx => cx.2)), joinIn := true }
      { d with cir := { d.cir with pieces := d.cir.pieces ++ [p] } }
    | none, _, _ => d

/-- Words of a draft slot from a word index. -/
def putDraftWords (g : Img) (first : Nat) (ws : List Nat) : Img :=
  ws.zipIdx.foldl (fun (m : Img) (wi : Nat × Nat) => AMap.set m (first + wi.2) wi.1 0) g

/-- 64 words of the shared SRAM from a byte offset replace this unit's (R349).  Path records are written from the applied circuit table, with
their counts zero (R69). -/
def Dev.putRegion (d : Dev) (off : Nat) (ws : List Nat) : Dev :=
  if off < 0x80000 then d.mirrorEntry (off / 256) ws
  else if off < 0xA0000 then { d with draft := { d.draft with active := putDraftWords d.draft.active ((off - 0x80000) / 4) ws } }
  else if off < 0xC0000 then { d with draft := { d.draft with staged := putDraftWords d.draft.staged ((off - 0xA0000) / 4) ws } }
  else if off < 0xC4000 then d.putSetWords ((off - 0xC0000) / 256) ws
  else if off < 0x1B4000 then
    forEach (List.range (ws.length / 4)) (fun i (d : Dev) => d.putCellWords ((off - 0xC4000) / 16 + i) ((ws.drop (4 * i)).take 4)) d
  else d

/-- What a mirrored PROTECT_IN edge says: the pin's edge has been served (R353 step 4). -/
def Dev.pinMirror (d : Dev) (n time : Nat) : Dev :=
  if 8 ≤ n then d
  else
    let p : ProtPin := AMap.get d.cir.pins n {}
    let q : ProtPin := { p with triggered := true, served := true, edge := time }
    { d with cir := { d.cir with pins := AMap.put d.cir.pins n q } }

/-- A list of the peer that this unit holds already: it awaits the same START, or the same cycle is in operation here (R315). -/
def Dev.gatesHeld (d : Dev) (p : Nat) (g : GateList) : Bool :=
  (match AMap.find d.sched.await p with
    | some h => decide (h = g)
    | none => false) ||
  (match AMap.find d.sched.oper p with
    | some h => decide (g.start ≤ d.ptpNow) && decide ({ h with start := g.start } = g) && decide (h.start % h.cycle = g.start % g.cycle)
    | none => false)

/-- One record is written to this unit's own copies. -/
def Dev.applyRec (d : Dev) (r : MirRec) : Dev :=
  match r.body with
  | .entry ws => if 0x800 ≤ r.obj then d else d.mirrorEntry r.obj ws
  | .cell ws => if 61440 ≤ r.obj then d else d.putCellWords r.obj ws
  | .loopSp sp => if 65536 ≤ r.obj then d else (d.keepLoop r.obj).wr (F.LOOP.SP r.obj) sp
  | .tuple h s t o csn st =>
    d.ledgerAdd { hostId := h, seq := s, tag := t, op := o, status := st, unit := 1 - d.rd F.SLV_STAT.UNIT_ID, csn := csn, item := none }
  | .protTime pin time => d.pinMirror pin time
  | .staged op par => d.stageMirror op par
  | .coefSet ws => if 64 ≤ r.obj then d else d.putSetWords r.obj ws
  | .draftWords slot first ws =>
    let put := fun (g : Img) => putDraftWords g first ws
    if slot = 0 then { d with draft := { d.draft with active := put d.draft.active } }
    else { d with draft := { d.draft with staged := put d.draft.staged } }
  | .activation _ => { d with draft := { d.draft with active := d.draft.staged, staged := d.draft.active, swapDue := false } }
  | .gateList par => match parseGates par with
    | some (p, g) => if d.gatesHeld p g then d else (d.placeGates p g).1
    | none => d
  | .reg v =>
    match tiles16.find? (fun t => R.TILE_MODE t = r.obj) with
    | some t => (d.wr (F.TILE_MODE.MODE t) (bits v 2 0)).wr (F.TILE_MODE.PREV t) (bits v 6 4)
    | none => if d.regTaken r.obj v then d.regMirror r.obj v else d
  | .piece phase start n new => if 0x400 ≤ r.obj then d else d.mirrorPieceRec r.obj r.version phase start n new
  | .loops vs =>
    forEach vs.zipIdx (fun (xi : (Nat × Nat) × Nat) (d : Dev) =>
      let l := r.obj + xi.2
      if 65536 ≤ l then d else ((d.keepLoop l).wr (F.LOOP.INTEG l) xi.1.1).wr (F.LOOP.SP l) xi.1.2) d
  | .dacCode code => if 48 ≤ r.obj then d else { d with dac := { d.dac with mirrored := AMap.put d.dac.mirrored r.obj (code % 65536) } }
  | .tec integ => if 16 ≤ r.obj then d else d.wr (F.TEC_INTEG.TEC_INTEG r.obj) integ
  | .table bins writes =>
    if 65536 ≤ r.obj then d
    else
      let d := d.keepLoop r.obj
      let rest := d.trd.bins.filter (fun kv => kv.1 / 256 ≠ r.obj)
      let new := bins.zipIdx.foldl (fun m (vb : Nat × Nat) => AMap.set m (r.obj * 256 + vb.2 % 256) (vb.1 % 65536) 0) rest
      ({ d with trd := { d.trd with bins := new } }).wr (F.LOOP.BIN_WRITES r.obj) writes
  | .tableClear =>
    let d := d.keepLoop r.obj
    { d with trd := { d.trd with bins := d.trd.bins.filter (fun kv => kv.1 / 256 ≠ r.obj) } }
  | .region ws => if 0x1F4000 ≤ r.obj then d else d.putRegion r.obj ws
  | .mark => d

/-! ## Versions (R346) -/

/-- The records held aside of one version. -/
def sameVer (a b : MirRec) : Bool :=
  a.version = b.version && (a.typ = b.typ || (4 ≤ a.typ && a.typ ≤ 5 && 4 ≤ b.typ && b.typ ≤ 5))

/-- Puts a record aside; a resent one is kept once. -/
def Dev.setAside (d : Dev) (r : MirRec) : Dev :=
  let one : MirRec := { r with retry := false }
  if d.slv.aside.contains one then d else d.updSlv (fun s => { s with aside := s.aside ++ [one] })

/-- Takes the records of a version out of those held aside. -/
def Dev.takeAside (d : Dev) (typ version : Nat) : Dev × List MirRec :=
  let key : MirRec := { typ := typ, version := version, obj := 0, close := false, retry := false, body := .mark }
  (d.updSlv (fun s => { s with aside := s.aside.filter (fun (r : MirRec) => !sameVer r key) }),
   d.slv.aside.filter (fun (r : MirRec) => sameVer r key))

/-- Whether a version of a stream held aside is closed. -/
def Dev.asideClosed (d : Dev) (typ version : Nat) : Bool :=
  d.slv.aside.any (fun (r : MirRec) => r.typ = typ && r.version = version && r.close)

/-- ACK (R348): the highest versions applied. -/
def Dev.sendAck (d : Dev) : Dev :=
  (d.sendP (d.slvHead 0x11 16 ++ beBytes 4 d.slv.appliedCsn ++ beBytes 4 d.slv.appliedCfg)).count 0x67

/-- Applies a closed version of COMMIT or CONFIG: its records in order, then LIT and ALT of its cells from the table, and the ACK. -/
def Dev.applyVersion (d : Dev) (typ version : Nat) : Dev :=
  let x := d.takeAside typ version
  let d := forEach x.2 (fun (r : MirRec) (d : Dev) => d.applyRec r) x.1
  let cells := x.2.filterMap (fun (r : MirRec) => match r.body with
    | .cell _ => some r.obj
    | _ => none)
  let d := d.relight cells
  let d := if typ = 1 then d.updSlv (fun s => { s with appliedCsn := version })
    else d.updSlv (fun s => { s with appliedCfg := version, cfgSeen := true })
  d.sendAck

/-- Applies closed COMMIT and CONFIG versions strictly in version order, as far as they reach; `n` bounds the versions held. -/
def Dev.applyReady (d : Dev) : Nat → Dev
  | 0 => d
  | n + 1 =>
    let c := (d.slv.appliedCsn + 1) % 2 ^ 32
    let cfg := if d.slv.cfgSeen then some ((d.slv.appliedCfg + 1) % 2 ^ 32)
      else (d.slv.aside.find? (fun (r : MirRec) => r.typ = 2 && r.close)).map (fun (r : MirRec) => r.version)
    if d.asideClosed 1 c then Dev.applyReady (d.applyVersion 1 c) n
    else match cfg with
      | some v => if d.asideClosed 2 v then Dev.applyReady (d.applyVersion 2 v) n else d
      | none => d

/-- Versions at or below those applied are dropped; a closed version that still waits starts the 1 ms of R346. -/
def Dev.gapCheck (d : Dev) : Dev :=
  let later := fun (r : MirRec) =>
    if r.typ = 1 then serialAfter r.version d.slv.appliedCsn
    else if r.typ = 2 then !d.slv.cfgSeen || serialAfter r.version d.slv.appliedCfg
    else true
  let d := d.updSlv (fun s => { s with aside := s.aside.filter later })
  let waits := d.slv.aside.any (fun (r : MirRec) => r.typ ≤ 2 && r.close)
  d.updSlv (fun s => { s with gapTb := if waits then some (s.gapTb.getD d.time.tb) else none })

/-- A full BATCH rotation: the 32 shares of 2,048 loops have been applied since the snapshot was asked for. -/
def Dev.rotationDone (d : Dev) : Bool := (List.range 32).all (fun i => d.slv.batchSeen.contains i)

/-- SYNCED (R349): the snapshot closed, every later COMMIT version applied, a full BATCH rotation applied. -/
def Dev.syncCheck (d : Dev) : Dev :=
  let m := d.rd F.SLV_STAT.MIRROR
  if m ≠ 2 && d.slv.snapDone && d.rotationDone && d.slv.gapTb.isNone then d.wr F.SLV_STAT.MIRROR 2 else d

/-- A BATCH version is applied whole when it closes. -/
def Dev.applyBatch (d : Dev) (version : Nat) : Dev :=
  let x := d.takeAside 3 version
  let d := forEach x.2 (fun (r : MirRec) (d : Dev) => d.applyRec r) x.1
  let seen := x.2.filterMap (fun (r : MirRec) => match r.body with
    | .loops _ => some (r.obj / 2048)
    | _ => none)
  d.updSlv (fun s => { s with batchSeen := (s.batchSeen ++ seen).eraseDups })

/-- The snapshot is applied when it closes: it replaces the copy, and COMMIT versions go on from its CSN. -/
def Dev.applySnapshot (d : Dev) (version : Nat) : Dev :=
  let x := d.takeAside 7 version
  let none_ := { x.1 with cir := { x.1.cir with pieces := [], outer := [] } }
  let d := forEach x.2 (fun (r : MirRec) (d : Dev) => d.applyRec r) none_
  (d.updSlv (fun s => { s with appliedCsn := version, snapDone := true, everCopy := true })).sendAck

/-- A record arrives: it is held aside, and a CLOSE record applies its version where its stream allows. -/
def Dev.mirrorRec (d : Dev) (r : MirRec) : Dev :=
  let d := d.setAside r
  if !r.close then d
  else if r.typ = 7 then if d.slv.snapWanted && !d.slv.snapDone then d.applySnapshot r.version else (d.takeAside 7 r.version).1
  else if r.typ = 3 then d.applyBatch r.version
  else if r.typ = 4 || r.typ = 5 then
    let x := d.takeAside 4 r.version
    forEach x.2 (fun (r : MirRec) (d : Dev) => d.applyRec r) x.1
  else if r.typ = 6 then
    let x := d.takeAside 6 r.version
    if d.slv.snapDone then forEach x.2 (fun (r : MirRec) (d : Dev) => d.applyRec r) x.1 else x.1
  else d

/-- MIRROR (R346): the bytes from the first after the EtherType.  Only a unit in STANDBY applies the records; COMMIT and CONFIG versions
wait for the snapshot that was asked for. -/
def Dev.mirrorIn (d : Dev) (bs : List Byte) : Dev :=
  if !d.slvGood bs 0x10 none 0 then d.slvBad (beAt bs 1 1)
  else if d.role ≠ Pr.standby then d
  else
    let recs := bytesRecs bs.length ((bs.take (beAt bs 6 2)).drop 8)
    let d := forEach recs (fun (r : MirRec) (d : Dev) => d.mirrorRec r) d
    let d := if d.slv.snapDone then (d.applyReady (d.slv.aside.length + 1)).gapCheck else d
    d.syncCheck

end Sys2Proof.Machine
end

