-- ==== Sys2Proof/Machine/Reed.lean ====
section
/-! DEFINITION. Reed requests (chapter 19, R399 - R406), Loam errors (R407) and the export of a ring (R410). -/
namespace Sys2Proof.Machine
open Sys2Proof

/-! ## What the stores answer (R401) -/

/-- A word of a table row: the fields at an offset of it. -/
def Dev.fieldWord (d : Dev) (base off : Nat) (fields : List (Nat × Nat × Nat × Bool × Nat)) : Nat :=
  ((fields.filter (fun f => f.1 = off)).map (fun f => d.rd ⟨base + off, f.2.1 + f.2.2.1 - 1, f.2.1, f.2.2.2.2⟩ * 2 ^ f.2.1)).sum

/-- Writes a word of a table row to its fields. -/
def Dev.putFieldWord (d : Dev) (base off : Nat) (fields : List (Nat × Nat × Nat × Bool × Nat)) (v : Nat) : Dev :=
  forEach (fields.filter (fun f => f.1 = off)) (fun f (d : Dev) =>
    d.wr ⟨base + off, f.2.1 + f.2.2.1 - 1, f.2.1, f.2.2.2.2⟩ (bits v (f.2.1 + f.2.2.1 - 1) f.2.1)) d

/-- A word that no chapter lays out: what Reed last wrote there, otherwise a free value (assumption 1). -/
def Dev.rawWord (d : Dev) (a : Nat) : Dev × Nat :=
  match AMap.find d.mem (a * 32) with
  | some v => (d, v)
  | none => let x := d.draw (2 ^ 32); (x.2, x.1)

/-- The record of a ring at a byte offset: `size` bytes each, `cap` records, those held (oldest first), index of the next. -/
def ringWord (o size cap : Nat) (held : List (List Byte)) (next : Nat) : Option Nat :=
  let slot := o / size
  if next = 0 || cap ≤ slot then none
  else
    let back := (next - 1 + cap - slot) % cap
    if back < held.length then some (beAt ((held.getD (held.length - 1 - back) [])) (o % size) 4) else none

/-- A word of Loam: the rings of R408 in the order of R22. -/
def Dev.loamWord (d : Dev) (a : Nat) : Dev × Nat :=
  let o := a - 0x100000000
  let mib := 1048576
  let r := if o < 2048 * mib then ringWord o 16 traceCap (d.loam.trace.map TraceRec.bytes) d.loam.traceNext
    else if 3072 * mib ≤ o && o < 3328 * mib then ringWord (o - 3072 * mib) 32 8388608 (d.ev.log.map EvRec.bytes) d.ev.logNext
    else if 3456 * mib ≤ o && o < 3584 * mib then ringWord (o - 3456 * mib) 176 slackCap (d.loam.slack.map SlackRec.bytes) d.loam.slackNext
    else if 3584 * mib ≤ o then some 0
    else none
  match r with
  | some v => (d, v)
  | none => d.rawWord a

/-- A word at an address (R401); none is an error response of the target.  Of the two bins in a word of treadle SRAM the lower one is in
bits [31:16], as the big-endian order of R5 puts it in bytes (DESIGN CHOICE, assumption 43: no rule orders them in a word). -/
def Dev.reedRead (d : Dev) (a : Nat) : Dev × Option Nat :=
  let some_ := fun (v : Nat) => (d, some v)
  if a < 0x01000000 then
    if (regAt a).isSome then let x := d.regRead a; (x.1, some x.2) else (d, none)
  else if a < 0x01080000 then some_ ((d.entryWords ((a - 0x01000000) / 256)).getD (a % 256 / 4) 0)
  else if a < 0x010C0000 then
    some_ (draftWord (if a < 0x010A0000 then d.draft.active else d.draft.staged) (a % 0x20000))
  else if a < 0x010C4000 then some_ ((d.setWords ((a - 0x010C0000) / 256)).getD (a % 256 / 4) 0)
  else if a < 0x011B4000 then some_ ((d.cellWords ((a - 0x010C4000) / 16)).getD ((a - 0x010C4000) % 16 / 4) 0)
  else if a < 0x011F4000 then some_ ((d.pathWords ((a - 0x011B4000) / 128)).getD ((a - 0x011B4000) % 128 / 4) 0)
  else if 0x01744000 ≤ a && a < 0x01800000 then some_ 0
  else if 0x02000000 ≤ a && a < 0x02800000 then
    let s := (a - 0x02000000) / 128
    match d.slotLoop (s / 1024) (s % 1024) with
    | some l => some_ (d.loopWord l (a % 128 / 4 * 4))
    | none => some_ 0
  else if 0x04000000 ≤ a && a < 0x06000000 then
    let s := (a - 0x04000000) / 512
    match d.slotLoop (s / 1024) (s % 1024) with
    | some l =>
      let bin := fun (b : Nat) => d.binRd l b
      some_ (bin (a % 512 / 2) * 65536 + bin (a % 512 / 2 + 1))
    | none => some_ 0
  else if 0x0100000000 ≤ a && a < 0x0200000000 then let x := d.loamWord a; (x.1, some x.2)
  else if 0x0200000000 ≤ a then let x := d.draw (2 ^ 32); (x.2, some x.1)
  else let x := d.rawWord a; (x.1, some x.2)

/-- Writes one word; false is an error response of the target.  Loop and treadle SRAM take it at the next pick boundary, coefficient
sets at the beat boundary (R19, R72). -/
def Dev.reedWrite (d : Dev) (a v : Nat) : Dev × Bool :=
  let ok := fun (d : Dev) => (d, true)
  if a < 0x01000000 then if (regAt a).isSome then ok (d.regCommand a v) else (d, false)
  else if a < 0x01080000 then
    let e := (a - 0x01000000) / 256
    ok (d.putEntryWords e ((d.entryWords e).set (a % 256 / 4) v))
  else if a < 0x010C0000 then
    let put := fun (g : Img) => AMap.set g (a % 0x20000 / 4) (v &&& draftMask (a % 0x20000 / 4 * 4)) 0
    if a < 0x010A0000 then ok { d with draft := { d.draft with active := put d.draft.active } }
    else ok { d with draft := { d.draft with staged := put d.draft.staged } }
  else if a < 0x010C4000 then
    let set := (a - 0x010C0000) / 256
    let off := a % 256 / 4 * 4
    let ws := (setFields set off).map (fun (f : Nat × Nat) => ((0x010C0000 + 0x100 * set + off) * 32 + f.1, bits v (f.1 + f.2 - 1) f.1))
    ok { d with loop := { d.loop with coefShadow := d.loop.coefShadow ++ ws } }
  else if a < 0x011B4000 then
    let c := (a - 0x010C4000) / 16
    ok (d.putCellWords c ((d.cellWords c).set ((a - 0x010C4000) % 16 / 4) v))
  else if a < 0x011F4000 then
    let p := (a - 0x011B4000) / 128
    let off := (a - 0x011B4000) % 128 / 4 * 4
    let d := d.putFieldWord (0x011B4000 + 0x80 * p) off pathFields v
    if 0x20 ≤ off then
      let i := (off - 0x20) / 2
      ok ((d.wr (F.PATH.LOOP p i) (bits v 15 0)).wr (F.PATH.LOOP p (i + 1)) (bits v 31 16))
    else ok d
  else if 0x01744000 ≤ a && a < 0x01800000 then ok d
  else if 0x02000000 ≤ a && a < 0x02800000 then
    let s := (a - 0x02000000) / 128
    let off := a % 128 / 4 * 4
    match d.slotLoop (s / 1024) (s % 1024) with
    | some l =>
      let fs := loopFields.filter (fun f => f.1 = off)
      ok { d with loop := { d.loop with shadow := fs.foldl (fun m f =>
        AMap.put m ((0x02000000 + 0x80 * l + off) * 32 + f.2.1) (bits v (f.2.1 + f.2.2.1 - 1) f.2.1)) d.loop.shadow } }
    | none => ok d
  else if 0x04000000 ≤ a && a < 0x06000000 then
    let s := (a - 0x04000000) / 512
    match d.slotLoop (s / 1024) (s % 1024) with
    | some l =>
      let b := a % 512 / 4 * 2
      ok { d with trd := { d.trd with write := d.trd.write ++ [(l, [(b, bits v 31 16), (b + 1, bits v 15 0)], 2 ^ 64)] } }
    | none => ok d
  else if 0x0200000000 ≤ a then (d, false)
  else if 0x0100000000 + 3584 * 1048576 ≤ a then ok d
  else ok { d with mem := AMap.put d.mem (a * 32) (v % 2 ^ 32) }

/-! ## Paths and windows (R399, R402) -/

/-- The block whose REED_ERR source a master raises (R380); DMA of the ports and debug belong to no event block. -/
def masterBlock (m : Nat) : Option Nat := [some 0x2A, some 0x2A, some 0x2A, some 0x2A, some 0x0A, some 0x05, some 0x09, some 0x29, some 0x2B].getD m none

/-- An error response: REED_ERR_LO and REED_ERR_HI take the address, master and target. -/
def Dev.reedError (d : Dev) (m a t : Nat) : Dev :=
  let d := (((d.wr F.REED_ERR_LO.ADDR_LO (a % 2 ^ 32)).wr F.REED_ERR_HI.ADDR_HI (a / 2 ^ 32)).wr F.REED_ERR_HI.MASTER m).wr F.REED_ERR_HI.TARGET t
  let d := { d with reed := { d.reed with done := some { master := m, addr := a, error := true, words := [] } } }
  match masterBlock m with
  | some b => d.raise b 15 (a % 2 ^ 32) t
  | none => d

/-- What of R399 a master may do at a target now: 0 nothing, 1 read, 2 write, 3 both. -/
def Dev.pathNow (d : Dev) (m t : Nat) : Nat :=
  if m = 7 && t ≤ 2 && d.controls then 1 else pathOf m t

/-- A window covers the access (R402). -/
def Dev.windowCovers (d : Dev) (m a n : Nat) (write : Bool) : Bool :=
  (List.range 16).any (fun k =>
    let w := d.win k
    w.en && w.masters.contains m && decide (w.base ≤ a) && decide (a + n ≤ w.base + 2 ^ w.log2) && (if write then w.wr else w.rd))

/-- The range holds the Tilth ledger, which only M0-M4 and M11 reach (R401). -/
def inLedger (a n : Nat) : Bool := meets a n 0x01404000 0x40000

/-- The checks of a request: the target, or the Reed source of its refusal. -/
def Dev.reedCheck (d : Dev) (m a n : Nat) (write : Bool) : Nat × Option Nat :=
  let t := (targetOf a).getD 15
  if m = 11 && !d.boot.unlocked then (t, some 6)
  else if 8 ≤ m && !d.windowCovers m a n write then (t, some 0)
  else if t = 15 || targetOf (a + n - 1) ≠ some t then (t, some 5)
  else if !bit (d.pathNow m t) (if write then 1 else 0) then (t, some 1)
  else if t = 3 && inLedger a n && (m = 5 || m = 6 || m = 7) then (t, some 1)
  else (t, none)

/-! ## Grant, order, locks (R403 - R405) -/

/-- Reads words one after the other; none on an error response. -/
def Dev.reedReads (d : Dev) (a : Nat) : Nat → Dev × Option (List Nat)
  | 0 => (d, some [])
  | n + 1 =>
    match d.reedRead a with
    | (d, none) => (d, none)
    | (d, some v) => match Dev.reedReads d (a + 4) n with
      | (d, some vs) => (d, some (v :: vs))
      | (d, none) => (d, none)

/-- Writes words in the order given, up to an error response. -/
def Dev.reedWrites (d : Dev) : List (Nat × Nat) → Dev × Bool
  | [] => (d, true)
  | (a, v) :: ws => match d.reedWrite a v with
    | (d, true) => Dev.reedWrites d ws
    | (d, false) => (d, false)

/-- Puts a write in ascending address order, after those of the same address. -/
def insertWrite (w : Nat × Nat) : List (Nat × Nat) → List (Nat × Nat)
  | [] => [w]
  | x :: xs => if w.1 < x.1 then w :: x :: xs else x :: insertWrite w xs

/-- Ends a locked sequence: the writes collected apply together, in ascending address order (R405). -/
def Dev.endLock (d : Dev) (t : Nat) (l : ReedLock) : Dev :=
  let d := { d with reed := { d.reed with locks := AMap.del d.reed.locks t } }
  let r := d.reedWrites (l.writes.foldl (fun ws w => insertWrite w ws) [])
  if r.2 then r.1 else (r.1.raise 0x02 5 ((l.writes.headD (0, 0)).1 % 2 ^ 32) t).reedError l.master ((l.writes.headD (0, 0)).1) t

/-- The answer of a request that has been granted and done. -/
def Dev.reedAnswer (d : Dev) (r : ReedReq) (words : List Nat) : Dev :=
  { d with reed := { d.reed with done := some { master := r.master, addr := r.addr, error := false, words := words } } }

/-- A granted request runs: outside a lock at once; inside one its writes are collected and its reads see them. -/
def Dev.reedGrant (d : Dev) (t : Nat) (r : ReedReq) : Dev :=
  let d := { d with reed := { d.reed with rot := AMap.put d.reed.rot t r.master } }
  let n := if r.write then r.words.length else r.count
  let own := match AMap.find d.reed.locks t with
    | some l => if l.master = r.master then some l else none
    | none => none
  let lock := match own with
    | some l => some l
    | none => if r.lock then some { master := r.master, writes := [], words := 0, sinceTb := d.time.tb } else none
  match lock with
  | none =>
    if r.write then
      let x := d.reedWrites (r.words.zipIdx.map (fun (vi : Nat × Nat) => (r.addr + 4 * vi.2, vi.1)))
      if x.2 then x.1.reedAnswer r [] else (x.1.raise 0x02 5 (r.addr % 2 ^ 32) t).reedError r.master r.addr t
    else match d.reedReads r.addr r.count with
      | (d, some ws) => d.reedAnswer r ws
      | (d, none) => (d.raise 0x02 5 (r.addr % 2 ^ 32) t).reedError r.master r.addr t
  | some l =>
    if 256 < l.words + n then d.reedError r.master r.addr t
    else
      let put : ReedLock := { l with words := l.words + n }
      if r.write then
        let put : ReedLock := { put with writes := put.writes ++ r.words.zipIdx.map (fun (vi : Nat × Nat) => (r.addr + 4 * vi.2, vi.1)) }
        let d := ({ d with reed := { d.reed with locks := AMap.put d.reed.locks t put } }).reedAnswer r []
        if r.unlock then d.endLock t put else d
      else
        match d.reedReads r.addr r.count with
        | (d, none) => (d.raise 0x02 5 (r.addr % 2 ^ 32) t).reedError r.master r.addr t
        | (d, some ws) =>
          let see := ws.zipIdx.map (fun (vi : Nat × Nat) =>
            match (put.writes.filter (fun (w : Nat × Nat) => w.1 = r.addr + 4 * vi.2)).getLast? with
            | some w => w.2
            | none => vi.1)
          let d := ({ d with reed := { d.reed with locks := AMap.put d.reed.locks t put } }).reedAnswer r see
          if r.unlock then d.endLock t put else d

/-- The target of a request that passed its checks. -/
def ReedReq_target (r : ReedReq) : Nat := (targetOf r.addr).getD 15

/-- The words of two requests overlap. -/
def reqMeets (a b : ReedReq) : Bool :=
  meets a.addr (4 * (if a.write then a.words.length else a.count)) b.addr (4 * (if b.write then b.words.length else b.count))

/-- A request is held by the order of its master (R404), among the requests that wait ahead of it. -/
def Dev.orderHeld (d : Dev) (ahead : List ReedReq) (r : ReedReq) : Bool :=
  let mine := ahead.filter (fun (x : ReedReq) => x.master = r.master)
  let t := ReedReq_target r
  mine.any (fun (x : ReedReq) => ReedReq_target x = t || x.barrier || (!r.write && x.write && reqMeets x r)) ||
  (r.barrier && !mine.isEmpty) || (r.lock && mine.any (fun (x : ReedReq) => ReedReq_target x ≠ t)) ||
  d.reed.locks.any (fun (tl : Nat × ReedLock) => tl.2.master = r.master && tl.1 ≠ t)

/-- The target is locked by another master (R405). -/
def Dev.lockedOut (d : Dev) (r : ReedReq) : Bool :=
  match AMap.find d.reed.locks (ReedReq_target r) with
  | some l => l.master ≠ r.master
  | none => false

/-- A request that waits may be granted now. -/
def Dev.grantable (d : Dev) (i : Nat) (r : ReedReq) : Bool :=
  !d.orderHeld (d.reed.waiting.take i) r && !d.lockedOut r

/-- The order in which a target takes masters: M9 and M10 first at T9, otherwise in rotation from the master granted last (R403). -/
def Dev.turnOf (d : Dev) (r : ReedReq) : Nat :=
  let t := ReedReq_target r
  let last := AMap.get d.reed.rot t 11
  let turn := (r.master + 12 - last - 1) % 12
  if t = 9 && (r.master = 9 || r.master = 10) then turn else turn + (if t = 9 then 12 else 0)

/-- Grants the requests that wait, as far as locks and order let them; `n` bounds the grants. -/
def Dev.reedDrain (d : Dev) : Nat → Dev
  | 0 => d
  | n + 1 =>
    let go := d.reed.waiting.zipIdx.filter (fun (ri : ReedReq × Nat) => d.grantable ri.2 ri.1)
    match go with
    | [] => d
    | g :: gs =>
      let t := ReedReq_target g.1
      let best := (gs.filter (fun (x : ReedReq × Nat) => ReedReq_target x.1 = t)).foldl
        (fun (b : ReedReq × Nat) (x : ReedReq × Nat) => if d.turnOf x.1 < d.turnOf b.1 then x else b) g
      let d := { d with reed := { d.reed with waiting := d.reed.waiting.eraseIdx best.2 } }
      Dev.reedDrain (if best.1.barrier then d.reedAnswer best.1 [] else d.reedGrant t best.1) n

/-- REED_REQUEST (R403): a request is refused by its path or windows, or joins those that wait; every one that locks and order let
through is granted. -/
def Dev.reedRequest (d : Dev) (r : ReedReq) : Dev :=
  let n := 4 * (if r.write then r.words.length else r.count)
  if 12 ≤ r.master || r.addr % 4 ≠ 0 then d
  else
    let x : Nat × Option Nat := if r.barrier then (0, none) else if n = 0 then (0, some 5) else d.reedCheck r.master r.addr n r.write
    match x.2 with
    | some src => (d.raise 0x02 src (r.addr % 2 ^ 32) x.1).reedError r.master r.addr x.1
    | none =>
      let q : ReedReq := { r with sinceTb := d.time.tb, starved := false, longHeld := false }
      let d := { d with reed := { d.reed with waiting := d.reed.waiting ++ [q] } }
      d.reedDrain d.reed.waiting.length

/-! ## Timers of requests, master reset (R403 - R406) -/

/-- Marks the first request of a master at a target. -/
def Dev.markReq (d : Dev) (q : ReedReq) (f : ReedReq → ReedReq) : Dev :=
  { d with reed := { d.reed with waiting := d.reed.waiting.map (fun (x : ReedReq) => if x = q then f x else x) } }

/-- STARVE (R403): the first request of a master that waits at a target has waited 100 µs. -/
def Dev.reedStarve (d : Dev) (m t : Nat) : Dev :=
  match d.reed.waiting.find? (fun (x : ReedReq) => x.master = m && ReedReq_target x = t && !x.starved) with
  | none => d
  | some q => d.fire (q.sinceTb + 100000) (fun d =>
      (d.markReq q (fun x => { x with starved := true })).raise 0x02 8 t (d.time.tb - q.sinceTb))

/-- ORDER_HOLD_LONG (R404): a request has been held by its master's order for 50 µs. -/
def Dev.reedHoldLong (d : Dev) (m t : Nat) : Dev :=
  match d.reed.waiting.zipIdx.find? (fun (x : ReedReq × Nat) =>
      x.1.master = m && ReedReq_target x.1 = t && !x.1.longHeld && d.orderHeld (d.reed.waiting.take x.2) x.1) with
  | none => d
  | some q => d.fire (q.1.sinceTb + 50001) (fun d =>
      (d.markReq q.1 (fun x => { x with longHeld := true })).raise 0x02 3 t (d.time.tb - q.1.sinceTb))

/-- REED_LOCK_TIMEOUT (R405): a sequence still open 10 µs after its first grant ends, its writes discarded. -/
def Dev.reedLockTimeout (d : Dev) (t : Nat) : Dev :=
  match AMap.find d.reed.locks t with
  | none => d
  | some l => d.fire (l.sinceTb + 10000) (fun d =>
      let d := { d with reed := { d.reed with locks := AMap.del d.reed.locks t } }
      let d := (d.raise 0x02 2 ((l.writes.headD (0, 0)).1 % 2 ^ 32) l.master).reedError l.master ((l.writes.headD (0, 0)).1) t
      d.reedDrain d.reed.waiting.length)

/-- MASTER_RESET (R406): `words` of a write burst at `addr` that the target had accepted are written; the master's waiting requests
end with an error response (M5 and M8 to M10 are the DMA masters: DEDUCED, assumption 18), its lock is released with nothing applied; the item that ran on a reset core runs again, a second
time it ends ABORTED. -/
def Dev.masterReset (d : Dev) (m addr : Nat) (words : List Nat) (item : Option Nat) : Dev :=
  if 12 ≤ m then d
  else
    let lock := d.reed.locks.filter (fun (tl : Nat × ReedLock) => tl.2.master = m)
    let wait := d.reed.waiting.filter (fun (x : ReedReq) => x.master = m)
    let d := { d with reed := { d.reed with
      locks := d.reed.locks.filter (fun (tl : Nat × ReedLock) => tl.2.master ≠ m)
      waiting := d.reed.waiting.filter (fun (x : ReedReq) => x.master ≠ m) } }
    let d := if m ≤ 3 then d.raise 0x2A 6 m 0 else if m = 5 || (8 ≤ m && m ≤ 10) then d.raise 0x02 9 m 0
      else if m = 11 then { d with boot := { d.boot with unlocked := false } } else d
    let ends := fun (d : Dev) (a t : Nat) => (d.raise 0x02 4 (a % 2 ^ 32) m).reedError m a t
    let d := if words.isEmpty then d
      else
        let c := d.reedCheck m addr (4 * words.length) true
        if c.2.isSome then d
        else ends (d.reedWrites (words.zipIdx.map (fun (vi : Nat × Nat) => (addr + 4 * vi.2, vi.1)))).1 addr c.1
    let d := forEach wait (fun (x : ReedReq) (d : Dev) => ends d x.addr (ReedReq_target x)) d
    let d := forEach lock (fun (tl : Nat × ReedLock) (d : Dev) => ends d ((tl.2.writes.headD (0, 0)).1) tl.1) d
    let d := match item with
      | none => d
      | some i =>
        if 3 < m || ((d.item i).map (fun (r : ItemRec) => r.fin.isNone && !r.committed)) ≠ some true then d
        else if d.reed.rerun.contains i then d.finish i St.aborted []
        else { d with reed := { d.reed with rerun := d.reed.rerun ++ [i] } }
    d.reedDrain d.reed.waiting.length

/-! ## Loam (R407) -/

/-- DRAM_ERROR: a single-bit error is corrected; an uncorrected one ends the master's read with an error response and its 2 KiB row is
retired to one of 4,096 spare rows. -/
def Dev.dramError (d : Dev) (m addr : Nat) (corrected : Bool) : Dev :=
  if addr < 0x100000000 || 0x200000000 ≤ addr then d
  else
    let o := addr - 0x100000000
    if corrected then d.raise 0x03 1 (o % 2 ^ 32) 0
    else
      let d := d.raise 0x03 2 (o % 2 ^ 32) 0
      let d := if m < 12 then d.reedError m addr 4 else d
      let row := o / 2048
      if d.loam.retired.contains row then d
      else if 4096 ≤ d.loam.retired.length then d.raise 0x03 9 (o % 2 ^ 32) 0
      else
        let d := ({ d with loam := { d.loam with retired := d.loam.retired ++ [row] } }).raise 0x03 8 (o % 2 ^ 32) 0
        if d.loam.retired.length = 4096 then d.raise 0x03 9 (o % 2 ^ 32) 0 else d

/-! ## The end of an export (R410) -/

/-- Sends the frames of an export from a record index on; one that is shed counts in the summary record. -/
def Dev.exportFrames (d : Dev) (s : Session) (e : Export) (parts : Nat) : List (List (List Byte) × Nat) → Nat → Dev
  | [], _ => d
  | (rs, i) :: rest, first =>
    let body := rs.flatten
    let head := beBytes 1 0xB3 ++ beBytes 1 e.slot ++ beBytes 1 i ++ beBytes 1 parts ++ beBytes 4 first ++ beBytes 8 e.pick ++
      beBytes 8 e.time ++ beBytes 2 rs.length ++ beBytes 2 (28 + body.length + 16)
    let pk := head ++ body ++ (hmac256 s.sk (head ++ body)).take 16
    Dev.exportFrames (d.sendCheda s.addr 7 e.slot pk false none).1 s e parts rest (first + rs.length)

/-- TRACE_EXPORT_END: the frames have been handed to Sched; capture resumes and the item completes. -/
def Dev.traceExportEnd (d : Dev) : Dev :=
  match d.loam.export_ with
  | none => d
  | some e =>
    let recs := d.ringBytes e.src e.start e.count
    let d := match d.session e.slot with
      | none => d
      | some s =>
        let ps := splitUpTo 65535 List.length (d.roomOf s.addr 7 - 44) recs
        d.exportFrames s e ps.length ps.zipIdx e.start
    let d := ({ d with loam := { d.loam with export_ := none } }).setFlag F.TRACE_STAT.EXPORTING false
    d.finish e.item St.ok (((d.item e.item).map (fun (r : ItemRec) => r.result)).getD [])

end Sys2Proof.Machine
end

