-- ==== Sys2Proof/Machine/Run.lean ====
section
/-! DEFINITION. How a command reaches the block: its effect on everything but the queue, when its operands name objects of the
block (`ok`) and the block it addresses is not held in reset or stopped (R232, R235, R442). -/

namespace Sys2Proof.Machine
open Sys2Proof

/-- The device changed, the queue as it was. -/
def State.onDev (s : State) (f : Dev → Dev) : State := { s with dev := f s.dev }

/-- A command that acts whatever is held: power, reset, the comparator. -/
def State.raw (s : State) (ok : Bool) (f : Dev → Dev) : Host.Outcome State Fault Refusal :=
  .next (if ok then s.onDev f else s)

/-- A command to Therm, Marl or Supply: these run on while the other blocks are held after a shut-down (R232). -/
def State.core (s : State) (ok : Bool) (f : Dev → Dev) : Host.Outcome State Fault Refusal :=
  .next (if ok && !s.dev.therm.trip && !s.dev.sup.held then s.onDev f else s)

/-- A command to any other block: nothing happens while it is held in reset. -/
def State.run (s : State) (ok : Bool) (f : Dev → Dev) : Host.Outcome State Fault Refusal :=
  .next (if ok && !s.dev.held then s.onDev f else s)

/-- A command to a block that a thermal shut-down stops at its first pick boundary (R232): engines, Treadle, Shuttle, Tilth, the
Circuit unit, drive frames and markers, heartbeats. -/
def State.live (s : State) (ok : Bool) (f : Dev → Dev) : Host.Outcome State Fault Refusal :=
  .next (if ok && !s.dev.held && decide (s.dev.therm.shut < 2) then s.onDev f else s)

end Sys2Proof.Machine
end

