-- ==== Sys2Proof/Machine/CmdCheda.lean ====
section
/-! DEFINITION. Meanings: Cheda packets, sessions and register items (chapter 13). -/

namespace Sys2Proof.Machine
open Sys2Proof

/-- CHEDA_PACKET (R287). -/
def execChedaPacket (s : State) : Host.Outcome State Fault Refusal :=
  s.run true (fun d => d.chedaPacket)

/-- REPLY_SEND (R288). -/
def execReplySend (slot : Nat) (seq : Nat) (s : State) : Host.Outcome State Fault Refusal :=
  s.run (decide (slot < 17)) (fun d => d.replySend slot seq)

/-- COMPLETION_SEND (R288). -/
def execCompletionSend (slot : Nat) (seq : Nat) (s : State) : Host.Outcome State Fault Refusal :=
  s.run (decide (slot < 17)) (fun d => d.completionSend slot seq)

/-- SESSION_OPEN (R283). -/
def execSessionOpen (src : ItemSrc) (par : List Byte) (s : State) : Host.Outcome State Fault Refusal :=
  s.run true (fun d => d.itemRow src 0x0001 par)

/-- SESSION_PROVE (R283). -/
def execSessionProve (src : ItemSrc) (par : List Byte) (s : State) : Host.Outcome State Fault Refusal :=
  s.run true (fun d => d.itemRow src 0x0002 par)

/-- SESSION_PROVE_TIMEOUT (R283). -/
def execSessionProveTimeout (slot : Nat) (s : State) : Host.Outcome State Fault Refusal :=
  s.run (decide (slot < 17)) (fun d => d.proveTimeout slot)

/-- KEY_LOCKOUT_EXPIRY (R283). -/
def execKeyLockoutExpiry (key : Nat) (s : State) : Host.Outcome State Fault Refusal :=
  s.run true (fun d => d.keyLockout key)

/-- SESSION_CLOSE (R285). -/
def execSessionClose (src : ItemSrc) (par : List Byte) (s : State) : Host.Outcome State Fault Refusal :=
  s.run true (fun d => d.itemRow src 0x0003 par)

/-- SESSION_IDLE_TIMEOUT (R285). -/
def execSessionIdleTimeout (slot : Nat) (s : State) : Host.Outcome State Fault Refusal :=
  s.run (decide (slot < 17)) (fun d => d.sessionIdle slot)

/-- NOP (R296). -/
def execNop (src : ItemSrc) (par : List Byte) (s : State) : Host.Outcome State Fault Refusal :=
  s.run true (fun d => d.itemRow src 0x0004 par)

/-- ACCOUNT_QUERY (R289). -/
def execAccountQuery (src : ItemSrc) (par : List Byte) (s : State) : Host.Outcome State Fault Refusal :=
  s.run true (fun d => d.itemRow src 0x0005 par)

/-- EVENT_SUBSCRIBE (R300). -/
def execEventSubscribe (src : ItemSrc) (par : List Byte) (s : State) : Host.Outcome State Fault Refusal :=
  s.run true (fun d => d.itemRow src 0x0006 par)

/-- EVENT_ACK (R371). -/
def execEventAck (src : ItemSrc) (par : List Byte) (s : State) : Host.Outcome State Fault Refusal :=
  s.run true (fun d => d.itemRow src 0x0007 par)

/-- KEY_WRITE (R281). -/
def execKeyWrite (src : ItemSrc) (par : List Byte) (s : State) : Host.Outcome State Fault Refusal :=
  s.run true (fun d => d.itemRow src 0x0008 par)

/-- BEGIN_SET (R291). -/
def execBeginSet (src : ItemSrc) (par : List Byte) (s : State) : Host.Outcome State Fault Refusal :=
  s.run true (fun d => d.itemRow src 0x0010 par)

/-- COMMIT_SET (R292). -/
def execCommitSet (src : ItemSrc) (par : List Byte) (s : State) : Host.Outcome State Fault Refusal :=
  s.run true (fun d => d.itemRow src 0x0011 par)

/-- ABORT_SET (R293). -/
def execAbortSet (src : ItemSrc) (par : List Byte) (s : State) : Host.Outcome State Fault Refusal :=
  s.run true (fun d => d.itemRow src 0x0012 par)

/-- TXN_IDLE_TIMEOUT (R293). -/
def execTxnIdleTimeout (s : State) : Host.Outcome State Fault Refusal :=
  s.run true (fun d => d.txnIdle)

/-- REG_READ (R294). -/
def execRegRead (src : ItemSrc) (par : List Byte) (s : State) : Host.Outcome State Fault Refusal :=
  s.run true (fun d => d.itemRow src 0x0100 par)

/-- REG_WRITE (R294). -/
def execRegWrite (src : ItemSrc) (par : List Byte) (s : State) : Host.Outcome State Fault Refusal :=
  s.run true (fun d => d.itemRow src 0x0101 par)

/-- REG_MODIFY (R294). -/
def execRegModify (src : ItemSrc) (par : List Byte) (s : State) : Host.Outcome State Fault Refusal :=
  s.run true (fun d => d.itemRow src 0x0102 par)

/-- REGISTER_WRITE (R7). -/
def execRegisterWrite (a : Nat) (v : Nat) (s : State) : Host.Outcome State Fault Refusal :=
  s.run true (fun d => d.regCommand a v)

end Sys2Proof.Machine
end

