-- ==== Sys2Proof/Machine/CmdCircuit.lean ====
section
/-! DEFINITION. Meanings: commands at their commit points, piecing, protection, Tilth (chapters 6, 7). -/

namespace Sys2Proof.Machine
open Sys2Proof

/-- COMMIT_POINT (R126). -/
def execCommitPoint (prop : PlanProp) (s : State) : Host.Outcome State Fault Refusal :=
  s.live true (fun d => d.commitPoint prop)

/-- SHUTTLE_PLAN (R135). -/
def execShuttlePlan (no : Nat) (prop : PlanProp) (s : State) : Host.Outcome State Fault Refusal :=
  s.live true (fun d => d.shuttlePlan no prop)

/-- TIMED_COMMIT_DUE (R149). -/
def execTimedCommitDue (prop : PlanProp) (s : State) : Host.Outcome State Fault Refusal :=
  s.live true (fun d => d.timedCommit prop)

/-- PROTECT_IN_EDGE (R147). -/
def execProtectInEdge (n : Nat) (high : Bool) (delay : Nat) (s : State) : Host.Outcome State Fault Refusal :=
  s.run (decide (n < 8)) (fun d => d.protectEdge n high delay)

/-- PROTECT_DEBOUNCE (R147). -/
def execProtectDebounce (n : Nat) (s : State) : Host.Outcome State Fault Refusal :=
  s.live (decide (n < 8)) (fun d => d.protectDebounce n)

/-- RESTORATION (R150). -/
def execRestoration (e : Nat) (pick : Nat) (s : State) : Host.Outcome State Fault Refusal :=
  s.live (decide (e < 1024)) (fun d => d.restoration e pick)

/-- PIECE_LOCK_TIMEOUT (R144). -/
def execPieceLockTimeout (e : Nat) (s : State) : Host.Outcome State Fault Refusal :=
  s.live (decide (e < 1024)) (fun d => d.pieceLockTimeout e)

/-- RAMP_STEP (R157). -/
def execRampStep (c : Nat) (s : State) : Host.Outcome State Fault Refusal :=
  s.live (decide (c < 61440)) (fun d => d.rampAny c)

/-- RESERVATION_TIMEOUT (R163). -/
def execReservationTimeout (handle : Nat) (s : State) : Host.Outcome State Fault Refusal :=
  s.live true (fun d => d.rsvTimeout handle)

/-- RA_WARM_TIMEOUT (R163). -/
def execRaWarmTimeout (no : Nat) (s : State) : Host.Outcome State Fault Refusal :=
  s.live true (fun d => d.raTimeout no)

/-- TILTH_HOLDOFF_EXPIRY (R163). -/
def execTilthHoldoffExpiry (t : Nat) (s : State) : Host.Outcome State Fault Refusal :=
  s.live (decide (t < 16)) (fun d => d.holdoffExpiry t)

end Sys2Proof.Machine
end

