-- ==== Sys2Proof/Machine/CmdDac.lean ====
section
/-! DEFINITION. Meanings: DAC channels, sine generators, TEC loops (chapter 10). -/

namespace Sys2Proof.Machine
open Sys2Proof

/-- DAC_CODE_WRITE (R213). -/
def execDacCodeWrite (c : Nat) (v : Nat) (s : State) : Host.Outcome State Fault Refusal :=
  s.run (decide (c < 48)) (fun d => d.regCommand (R.DAC_CODE c) v)

/-- DAC_STROBE (R212). -/
def execDacStrobe (v : Nat) (s : State) : Host.Outcome State Fault Refusal :=
  s.run true (fun d => d.regCommand R.DAC_STROBE v)

/-- DAC_LOAD_PIN (R212). -/
def execDacLoadPin (g : Nat) (high : Bool) (s : State) : Host.Outcome State Fault Refusal :=
  s.run (decide (g < 4)) (fun d => d.dacPin g high)

/-- RANGE (R214). -/
def execRange (c : Nat) (v : Nat) (s : State) : Host.Outcome State Fault Refusal :=
  s.run (decide (c < 48)) (fun d => d.regCommand (R.DAC_CH_CFG c) v)

/-- RANGING_END (R214). -/
def execRangingEnd (c : Nat) (s : State) : Host.Outcome State Fault Refusal :=
  s.run (decide (c < 48)) (fun d => d.rangingEnd c)

/-- DAC_CLR_N (R215). -/
def execDacClrN (low : Bool) (s : State) : Host.Outcome State Fault Refusal :=
  s.run true (fun d => d.dacClrN low)

/-- DAC_BUFFER_OT (R218). -/
def execDacBufferOt (c : Nat) (hot : Bool) (s : State) : Host.Outcome State Fault Refusal :=
  s.run (decide (c < 48)) (fun d => d.dacOt c hot)

/-- OT_REDRIVE (R218). -/
def execOtRedrive (c : Nat) (s : State) : Host.Outcome State Fault Refusal :=
  s.run (decide (c < 48)) (fun d => d.otRedrive c)

/-- SHARED_DRIVE_START (R217). -/
def execSharedDriveStart (s : State) : Host.Outcome State Fault Refusal :=
  s.live true (fun d => d.sharedStart)

/-- SINE_ENABLE (R220). -/
def execSineEnable (g : Nat) (v : Nat) (s : State) : Host.Outcome State Fault Refusal :=
  s.run (decide (g < 16)) (fun d => d.regCommand (R.SINE_CFG g) (putBit v 0 true))

/-- SINE_DISABLE (R220). -/
def execSineDisable (g : Nat) (v : Nat) (s : State) : Host.Outcome State Fault Refusal :=
  s.run (decide (g < 16)) (fun d => d.regCommand (R.SINE_CFG g) (putBit v 0 false))

/-- SINE_STOP (R220). -/
def execSineStop (g : Nat) (s : State) : Host.Outcome State Fault Refusal :=
  s.run (decide (g < 16)) (fun d => d.sineStop g)

/-- SINE_PARAM_WRITE (R220). -/
def execSineParamWrite (g : Nat) (reg : Nat) (v : Nat) (s : State) : Host.Outcome State Fault Refusal :=
  s.run (decide (g < 16) && decide (reg < 3)) (fun d => d.regCommand (R.SINE_FTW g + 4 * reg) v)

/-- SINE_TABLE_WRITE (R220). -/
def execSineTableWrite (g : Nat) (i : Nat) (v : Nat) (s : State) : Host.Outcome State Fault Refusal :=
  s.run (decide (g < 16) && decide (i < 512)) (fun d => d.regCommand (0x1F8000 + 0x800 * g + 4 * i) v)

/-- TEC_EN (R222). -/
def execTecEn (t : Nat) (v : Nat) (s : State) : Host.Outcome State Fault Refusal :=
  s.run (decide (t < 16)) (fun d => d.regCommand (R.TEC_CFG t) v)

/-- TEC_SAFE (R222). -/
def execTecSafe (t : Nat) (s : State) : Host.Outcome State Fault Refusal :=
  s.run (decide (t < 16)) (fun d => d.tecSafe t)

end Sys2Proof.Machine
end

