-- ==== Sys2Proof/Machine/CmdEvents.lean ====
section
/-! DEFINITION. Meanings: events, counters and monitors (chapters 17, 18). -/

namespace Sys2Proof.Machine
open Sys2Proof

/-- EVENT_PACKET_SEND (R377). -/
def execEventPacketSend (s : State) : Host.Outcome State Fault Refusal :=
  s.run true (fun d => d.eventSend)

/-- SUMMARY_SEND (R378). -/
def execSummarySend (slot : Nat) (s : State) : Host.Outcome State Fault Refusal :=
  s.run (decide (slot < 17)) (fun d => d.summarySend slot)

/-- EVENT_GRANT (R373). -/
def execEventGrant (b : Nat) (s : State) : Host.Outcome State Fault Refusal :=
  s.run (decide (b < 45)) (fun d => d.eventGrant b)

/-- EVENT_RECOVERY (R370). -/
def execEventRecovery (b : Nat) (src : Nat) (s : State) : Host.Outcome State Fault Refusal :=
  s.run (decide (b < 45) && decide (src < 16)) (fun d => d.eventRecovery b src)

/-- COALESCE_HOLD_EXPIRY (R376). -/
def execCoalesceHoldExpiry (b : Nat) (src : Nat) (inj : Bool) (s : State) : Host.Outcome State Fault Refusal :=
  s.run (decide (b < 45) && decide (src < 16)) (fun d => d.coalExpiry b src inj)

/-- GO_INJECT (R374). -/
def execGoInject (b : Nat) (v : Nat) (s : State) : Host.Outcome State Fault Refusal :=
  s.run (decide (b < 45)) (fun d => d.regCommand (R.EV_INJECT b) (putBit v 31 true))

/-- UNACK (R371). -/
def execUnack (b : Nat) (inj : Bool) (v : Nat) (s : State) : Host.Outcome State Fault Refusal :=
  s.run (decide (b < 45)) (fun d => d.regCommand (if inj then R.EV_INJ_STATUS b else R.EV_STATUS b) v)

/-- VALID (R368). -/
def execValid (b : Nat) (v : Nat) (s : State) : Host.Outcome State Fault Refusal :=
  s.run (decide (b < 45)) (fun d => d.regCommand (R.EV_FIRST b) (putBit v 7 true))

/-- COUNT_CLR (R368). -/
def execCountClr (b : Nat) (v : Nat) (s : State) : Host.Outcome State Fault Refusal :=
  s.run (decide (b < 45)) (fun d => d.regCommand (R.EV_CTRL b) (putBit v 0 true))

/-- PERF_SEL_WRITE (R383). -/
def execPerfSelWrite (n : Nat) (v : Nat) (s : State) : Host.Outcome State Fault Refusal :=
  s.run (decide (n < 64)) (fun d => d.regCommand (R.PERF_SEL n) v)

/-- PERF_CNT_READ (R387). -/
def execPerfCntRead (n : Nat) (s : State) : Host.Outcome State Fault Refusal :=
  s.run (decide (n < 64)) (fun d => (d.regRead (R.PERF_CNT_LO n)).1)

/-- OVF (R386). -/
def execOvf (n : Nat) (v : Nat) (s : State) : Host.Outcome State Fault Refusal :=
  s.run (decide (n < 64)) (fun d => d.regCommand (R.PERF_CNT_HI n) (putBit v 31 true))

/-- HISTO_CFG_WRITE (R389). -/
def execHistoCfgWrite (u : Nat) (v : Nat) (s : State) : Host.Outcome State Fault Refusal :=
  s.run (decide (u < 35)) (fun d => d.regCommand (R.HISTO_CFG u) v)

/-- BOBBIN_SNAPSHOT (R393). -/
def execBobbinSnapshot (s : State) : Host.Outcome State Fault Refusal :=
  s.run true (fun d => d.bobbin)

/-- HANDSHAKE_UNANSWERED (R380). -/
def execHandshakeUnanswered (b : Nat) (s : State) : Host.Outcome State Fault Refusal :=
  s.run (decide (b < 45)) (fun d => d.handshakeLost b)

end Sys2Proof.Machine
end

