-- ==== Sys2Proof/Machine/CmdFabric.lean ====
section
/-! DEFINITION. Meanings: host items of circuits, cells and tiles (chapters 5 - 7, 13). -/

namespace Sys2Proof.Machine
open Sys2Proof

/-- CIRCUIT_ESTABLISH (R122). -/
def execCircuitEstablish (src : ItemSrc) (par : List Byte) (s : State) : Host.Outcome State Fault Refusal :=
  s.run true (fun d => d.itemRow src 0x0200 par)

/-- CIRCUIT_RELEASE (R122). -/
def execCircuitRelease (src : ItemSrc) (par : List Byte) (s : State) : Host.Outcome State Fault Refusal :=
  s.run true (fun d => d.itemRow src 0x0201 par)

/-- CIRCUIT_MIGRATE (R122). -/
def execCircuitMigrate (src : ItemSrc) (par : List Byte) (s : State) : Host.Outcome State Fault Refusal :=
  s.run true (fun d => d.itemRow src 0x0202 par)

/-- ALT_ARM (R122). -/
def execAltArm (src : ItemSrc) (par : List Byte) (s : State) : Host.Outcome State Fault Refusal :=
  s.run true (fun d => d.itemRow src 0x0203 par)

/-- ALT_DISARM (R122). -/
def execAltDisarm (src : ItemSrc) (par : List Byte) (s : State) : Host.Outcome State Fault Refusal :=
  s.run true (fun d => d.itemRow src 0x0204 par)

/-- PROTECT_SWITCH (R146). -/
def execProtectSwitch (src : ItemSrc) (par : List Byte) (s : State) : Host.Outcome State Fault Refusal :=
  s.run true (fun d => d.itemRow src 0x0205 par)

/-- GROUP_COMMIT (R124). -/
def execGroupCommit (src : ItemSrc) (par : List Byte) (s : State) : Host.Outcome State Fault Refusal :=
  s.run true (fun d => d.itemRow src 0x0206 par)

/-- CIRCUIT_READ (R121). -/
def execCircuitRead (src : ItemSrc) (par : List Byte) (s : State) : Host.Outcome State Fault Refusal :=
  s.run true (fun d => d.itemRow src 0x0207 par)

/-- CIRCUIT_RESERVE (R154). -/
def execCircuitReserve (src : ItemSrc) (par : List Byte) (s : State) : Host.Outcome State Fault Refusal :=
  s.run true (fun d => d.itemRow src 0x0208 par)

/-- RESERVE_CANCEL (R154). -/
def execReserveCancel (src : ItemSrc) (par : List Byte) (s : State) : Host.Outcome State Fault Refusal :=
  s.run true (fun d => d.itemRow src 0x0209 par)

/-- PLAN_STATUS (R162). -/
def execPlanStatus (src : ItemSrc) (par : List Byte) (s : State) : Host.Outcome State Fault Refusal :=
  s.run true (fun d => d.itemRow src 0x020A par)

/-- PATH_READ (R69). -/
def execPathRead (src : ItemSrc) (par : List Byte) (s : State) : Host.Outcome State Fault Refusal :=
  s.run true (fun d => d.itemRow src 0x020B par)

/-- CELL_READ (R117). -/
def execCellRead (src : ItemSrc) (par : List Byte) (s : State) : Host.Outcome State Fault Refusal :=
  s.run true (fun d => d.itemRow src 0x0300 par)

/-- CELL_FREEZE (R102). -/
def execCellFreeze (src : ItemSrc) (par : List Byte) (s : State) : Host.Outcome State Fault Refusal :=
  s.run true (fun d => d.itemRow src 0x0301 par)

/-- CELL_UNFREEZE (R102). -/
def execCellUnfreeze (src : ItemSrc) (par : List Byte) (s : State) : Host.Outcome State Fault Refusal :=
  s.run true (fun d => d.itemRow src 0x0302 par)

/-- CELL_CAL (R103). -/
def execCellCal (src : ItemSrc) (par : List Byte) (s : State) : Host.Outcome State Fault Refusal :=
  s.run true (fun d => d.itemRow src 0x0303 par)

/-- TILE_ACTIVATE (R108). -/
def execTileActivate (src : ItemSrc) (par : List Byte) (s : State) : Host.Outcome State Fault Refusal :=
  s.run true (fun d => d.itemRow src 0x0310 par)

/-- TILE_FENCE (R108). -/
def execTileFence (src : ItemSrc) (par : List Byte) (s : State) : Host.Outcome State Fault Refusal :=
  s.run true (fun d => d.itemRow src 0x0311 par)

/-- TILE_CALIBRATE (R108). -/
def execTileCalibrate (src : ItemSrc) (par : List Byte) (s : State) : Host.Outcome State Fault Refusal :=
  s.run true (fun d => d.itemRow src 0x0312 par)

/-- TILE_OFFLINE (R108). -/
def execTileOffline (src : ItemSrc) (par : List Byte) (s : State) : Host.Outcome State Fault Refusal :=
  s.run true (fun d => d.itemRow src 0x0313 par)

end Sys2Proof.Machine
end

