-- ==== Sys2Proof/Machine/CmdNet.lean ====
section
/-! DEFINITION. Meanings: host ports, egress, peer port, tether (chapters 12, 14). -/

namespace Sys2Proof.Machine
open Sys2Proof

/-- MAC_LINK_CHANGE: the link state of a port, with what follows when it falls: the PTP clock may move to the other host port (R329);
on MAC_P, P_LOST holds (R342). -/
def Dev.macChange (d : Dev) (p : Nat) (lock hiBer localF remoteF : Bool) : Dev :=
  let was := d.flag (F.MAC_STAT.LINK p)
  let d := d.macLink p lock hiBer localF remoteF
  if was && !d.flag (F.MAC_STAT.LINK p) then (if p = 2 then d.pLostNow else d.ptpFallback p) else d

/-- FRAME_RECEIVE (R252). -/
def execFrameReceive (p : Nat) (room : Bool) (bytes : List Byte) (s : State) : Host.Outcome State Fault Refusal :=
  s.run (decide (p < 2)) (fun d => d.frameReceive p room bytes)

/-- PAUSE_EXPIRY (R262). -/
def execPauseExpiry (p : Nat) (s : State) : Host.Outcome State Fault Refusal :=
  s.run (decide (p < 2)) (fun d => d.pauseExpiry p)

/-- PAUSE_REFRESH (R263). -/
def execPauseRefresh (p : Nat) (s : State) : Host.Outcome State Fault Refusal :=
  s.run (decide (p < 2)) (fun d => d.pauseRefresh p)

/-- MAC_LINK_CHANGE (R251). -/
def execMacLinkChange (p : Nat) (lock : Bool) (hiBer : Bool) (localF : Bool) (remoteF : Bool) (s : State) : Host.Outcome State Fault Refusal :=
  s.run (decide (p < 3)) (fun d => d.macChange p lock hiBer localF remoteF)

/-- RULE_CTL_WRITE (R259). -/
def execRuleCtlWrite (n : Nat) (v : Nat) (s : State) : Host.Outcome State Fault Refusal :=
  s.run (decide (n < 32)) (fun d => d.regCommand (R.RULE_CTL n) v)

/-- EGRESS_ENQUEUE (R307). -/
def execEgressEnqueue (p : Nat) (q : Nat) (dst : Nat) (vid : Option Nat) (body : List Byte) (s : State) : Host.Outcome State Fault Refusal :=
  s.run (decide (p < 2) && decide (q < 8)) (fun d => (d.enqueueTx p q (d.mkFrame p q dst vid body)).1)

/-- TX_OPPORTUNITY (R310). -/
def execTxOpportunity (p : Nat) (s : State) : Host.Outcome State Fault Refusal :=
  s.run (decide (p < 2)) (fun d => (d.txOpportunity p).ptpFollow)

/-- SHAPER_REFILL (R312). -/
def execShaperRefill (s : State) : Host.Outcome State Fault Refusal :=
  s.run true (fun d => d.shaperRefill)

/-- POLICER_REFILL (R317). -/
def execPolicerRefill (s : State) : Host.Outcome State Fault Refusal :=
  s.run true (fun d => d.policerRefill)

/-- GATE_ENTRY_CHANGE (R313). -/
def execGateEntryChange (p : Nat) (s : State) : Host.Outcome State Fault Refusal :=
  s.run (decide (p < 2)) (fun d => d.gateEntryChange p)

/-- GATE_LIST_START (R315). -/
def execGateListStart (p : Nat) (s : State) : Host.Outcome State Fault Refusal :=
  s.run (decide (p < 2)) (fun d => d.gateListStart p)

/-- PEER_FRAME_RECEIVE (R264). -/
def execPeerFrameReceive (room : Bool) (bytes : List Byte) (s : State) : Host.Outcome State Fault Refusal :=
  s.run true (fun d => d.peerFrame room bytes)

/-- TETHER_RECEIVE (R269). -/
def execTetherReceive (bytes : List Byte) (s : State) : Host.Outcome State Fault Refusal :=
  s.run true (fun d => d.tetherReceive bytes)

/-- TETHER_TRANSMIT (R265). -/
def execTetherTransmit (s : State) : Host.Outcome State Fault Refusal :=
  s.run true (fun d => d.tetherTransmit)

/-- TETHER_COLLISION (R265). -/
def execTetherCollision (late : Bool) (s : State) : Host.Outcome State Fault Refusal :=
  s.run true (fun d => d.tetherCollision late)

/-- TETHER_BACKOFF_EXPIRY (R265). -/
def execTetherBackoffExpiry (s : State) : Host.Outcome State Fault Refusal :=
  s.run true (fun d => d.tetherBackoff)

/-- PLCA_BEACON_LOSS (R268). -/
def execPlcaBeaconLoss (s : State) : Host.Outcome State Fault Refusal :=
  s.run true (fun d => d.plcaLoss)

/-- TETHER_HEARTBEAT_TIMER (R266). -/
def execTetherHeartbeatTimer (s : State) : Host.Outcome State Fault Refusal :=
  s.live true (fun d => d.heartbeatT)

/-- PLCA_BEACONS_RESUME (R268). -/
def execPlcaBeaconsResume (s : State) : Host.Outcome State Fault Refusal :=
  s.run true (fun d => d.plcaResume)

end Sys2Proof.Machine
end

