-- ==== Sys2Proof/Machine/CmdPair.lean ====
section
/-! DEFINITION. Meanings: the redundant pair (chapter 16). -/

namespace Sys2Proof.Machine
open Sys2Proof

/-- HEARTBEAT_P_TIMER (R342). -/
def execHeartbeatPTimer (s : State) : Host.Outcome State Fault Refusal :=
  s.live true (fun d => d.heartbeatP)

/-- HEARTBEAT (R342). -/
def execHeartbeat (path : Nat) (bytes : List Byte) (s : State) : Host.Outcome State Fault Refusal :=
  s.run (decide (path < 2)) (fun d => d.peerFrameIn 1 path bytes)

/-- CLAIM (R343). -/
def execClaim (path : Nat) (bytes : List Byte) (s : State) : Host.Outcome State Fault Refusal :=
  s.run (decide (path < 2)) (fun d => d.peerFrameIn 2 path bytes)

/-- MIRROR (R346). -/
def execMirror (head recs pad : List Byte) (s : State) : Host.Outcome State Fault Refusal :=
  s.run true (fun d => d.mirrorIn (head ++ recs ++ pad))

/-- ACK (R348). -/
def execAck (bytes : List Byte) (s : State) : Host.Outcome State Fault Refusal :=
  s.run true (fun d => if !d.slvGood bytes 0x11 (some 16) 0 then d.slvBad (beAt bytes 1 1) else (d.takeAck bytes).setProgress)

/-- SYNC_REQ (R349). -/
def execSyncReq (bytes : List Byte) (s : State) : Host.Outcome State Fault Refusal :=
  s.run true (fun d => d.takeSyncReq bytes)

/-- SNAPSHOT_SEND (R349). -/
def execSnapshotSend (s : State) : Host.Outcome State Fault Refusal :=
  s.run true (fun d => d.snapSend)

/-- P_LOST (R342). -/
def execPLost (s : State) : Host.Outcome State Fault Refusal :=
  s.run true (fun d => d.pLost)

/-- T_LOST (R342). -/
def execTLost (s : State) : Host.Outcome State Fault Refusal :=
  s.run true (fun d => d.tLost)

/-- MIRROR_BATCH (R347). -/
def execMirrorBatch (s : State) : Host.Outcome State Fault Refusal :=
  s.run true (fun d => d.mirrorBatch)

/-- MIRROR_RESEND (R348). -/
def execMirrorResend (s : State) : Host.Outcome State Fault Refusal :=
  s.run true (fun d => d.mirrorResend)

/-- MIRROR_GAP_TIMEOUT (R346). -/
def execMirrorGapTimeout (s : State) : Host.Outcome State Fault Refusal :=
  s.run true (fun d => d.mirrorGap)

/-- ROLE_RESOLUTION (R344). -/
def execRoleResolution (s : State) : Host.Outcome State Fault Refusal :=
  s.run true (fun d => d.resolve.afterRole d.role)

/-- RESOLUTION_REREAD (R344). -/
def execResolutionReread (s : State) : Host.Outcome State Fault Refusal :=
  s.run true (fun d => d.reread.afterRole d.role)

/-- FAILOVER (R352). -/
def execFailover (s : State) : Host.Outcome State Fault Refusal :=
  s.run true (fun d => d.failover)

/-- TAKEBACK_REQUEST (R355). -/
def execTakebackRequest (s : State) : Host.Outcome State Fault Refusal :=
  s.run true (fun d => d.takebackRequest)

/-- LINK_HANDOVER (R354). -/
def execLinkHandover (s : State) : Host.Outcome State Fault Refusal :=
  s.run true (fun d => d.linkHandover)

/-- HANDOVER_AGREE (R356). -/
def execHandoverAgree (s : State) : Host.Outcome State Fault Refusal :=
  s.run true (fun d => d.handAgree)

/-- HANDOVER_DECLINE (R356). -/
def execHandoverDecline (s : State) : Host.Outcome State Fault Refusal :=
  s.run true (fun d => d.handDecline)

end Sys2Proof.Machine
end

