-- ==== Sys2Proof/Machine/CmdPick.lean ====
section
/-! DEFINITION. Meanings: the pick, the tiles and the weft links (chapters 1, 3, 5, 8). -/

namespace Sys2Proof.Machine
open Sys2Proof

/-- PICK_BOUNDARY (R13). -/
def execPickBoundary (slack : List Nat) (s : State) : Host.Outcome State Fault Refusal :=
  s.run true (fun d => d.pickBoundary slack)

/-- BOUNDARY_MARKER (R170). -/
def execBoundaryMarker (t : Nat) (s : State) : Host.Outcome State Fault Refusal :=
  s.live (decide (t < 16)) (fun d => d.boundaryMarker t)

/-- SENSE_FRAME (R178). -/
def execSenseFrame (t : Nat) (lanes : List (List Nat)) (s : State) : Host.Outcome State Fault Refusal :=
  s.live (decide (t < 16)) (fun d => d.senseIn t (parseSense t lanes))

/-- TILE_OFFLINE_TIMEOUT (R108). -/
def execTileOfflineTimeout (t : Nat) (s : State) : Host.Outcome State Fault Refusal :=
  s.live (decide (t < 16)) (fun d => d.tileOfflineTimeout t)

/-- LOOP_STEP (R61). -/
def execLoopStep (l : Nat) (s : State) : Host.Outcome State Fault Refusal :=
  s.live (decide (l < 65536)) (fun d => d.loopStep l)

/-- SWITCH_MAX_EXPIRY (R105). -/
def execSwitchMaxExpiry (c : Nat) (s : State) : Host.Outcome State Fault Refusal :=
  s.live (decide (c < 61440)) (fun d => d.switchMaxExpiry c)

/-- SETTLE_END (R106). -/
def execSettleEnd (c : Nat) (s : State) : Host.Outcome State Fault Refusal :=
  s.live (decide (c < 61440)) (fun d => d.settleEnd c)

/-- CELL_FAULT_QUIET (R98). -/
def execCellFaultQuiet (c : Nat) (s : State) : Host.Outcome State Fault Refusal :=
  s.live (decide (c < 61440)) (fun d => d.cellFaultQuiet c)

/-- LOSS_TRIP (R146). -/
def execLossTrip (l : Nat) (s : State) : Host.Outcome State Fault Refusal :=
  s.live (decide (l < 65536)) (fun d => d.lossTrip l)

/-- CHUNK_CUTOFF (R177). -/
def execChunkCutoff (t : Nat) (c : Nat) (slack : Nat) (s : State) : Host.Outcome State Fault Refusal :=
  s.live (decide (t < 16) && decide (c < 16)) (fun d => d.chunkCutoff t c slack)

/-- LINK_TRAIN (R172). -/
def execLinkTrain (t : Nat) (result : TrainResult) (s : State) : Host.Outcome State Fault Refusal :=
  s.live (decide (t < 16)) (fun d => d.startTrain t result)

/-- LANE_FAIL (R186). -/
def execLaneFail (t : Nat) (lane : LaneReport) (s : State) : Host.Outcome State Fault Refusal :=
  s.live (decide (t < 16) && decide (lane.lane < 6)) (fun d => d.laneJudge t lane)

/-- LANE_RETRAIN (R186). -/
def execLaneRetrain (t : Nat) (passed : Nat) (s : State) : Host.Outcome State Fault Refusal :=
  s.live (decide (t < 16)) (fun d => d.laneRetrain t passed)

/-- LINK_DOWN (R187). -/
def execLinkDown (t : Nat) (s : State) : Host.Outcome State Fault Refusal :=
  s.live (decide (t < 16)) (fun d => if d.linkUp t then d.retrainStart t else d)

/-- LINK_RETRAIN_TIMER (R187). -/
def execLinkRetrainTimer (t : Nat) (s : State) : Host.Outcome State Fault Refusal :=
  s.live (decide (t < 16)) (fun d => d.linkRetry t)

/-- RETRAIN (R190). -/
def execRetrain (t : Nat) (v : Nat) (s : State) : Host.Outcome State Fault Refusal :=
  s.run (decide (t < 16)) (fun d => d.regCommand (R.WEFT_CTRL t) (putBit v 0 true))

/-- BURST (R190). -/
def execBurst (t : Nat) (v : Nat) (s : State) : Host.Outcome State Fault Refusal :=
  s.run (decide (t < 16)) (fun d => d.regCommand (R.WEFT_CTRL t) (putBit v 1 true))

end Sys2Proof.Machine
end

