-- ==== Sys2Proof/Machine/CmdService.lean ====
section
/-! DEFINITION. Meanings: host items of loops, coefficients, tables, drafts, monitors, time, pair, firmware (chapter 13). -/

namespace Sys2Proof.Machine
open Sys2Proof

/-- LOOP_READ (R73). -/
def execLoopRead (src : ItemSrc) (par : List Byte) (s : State) : Host.Outcome State Fault Refusal :=
  s.run true (fun d => d.itemRow src 0x0400 par)

/-- LOOP_WRITE (R295). -/
def execLoopWrite (src : ItemSrc) (par : List Byte) (s : State) : Host.Outcome State Fault Refusal :=
  s.run true (fun d => d.itemRow src 0x0401 par)

/-- LOOP_MOVE (R76). -/
def execLoopMove (src : ItemSrc) (par : List Byte) (s : State) : Host.Outcome State Fault Refusal :=
  s.run true (fun d => d.itemRow src 0x0402 par)

/-- COEF_READ (R70). -/
def execCoefRead (src : ItemSrc) (par : List Byte) (s : State) : Host.Outcome State Fault Refusal :=
  s.run true (fun d => d.itemRow src 0x0403 par)

/-- COEF_WRITE (R72). -/
def execCoefWrite (src : ItemSrc) (par : List Byte) (s : State) : Host.Outcome State Fault Refusal :=
  s.run true (fun d => d.itemRow src 0x0404 par)

/-- TREADLE_READ (R92). -/
def execTreadleRead (src : ItemSrc) (par : List Byte) (s : State) : Host.Outcome State Fault Refusal :=
  s.run true (fun d => d.itemRow src 0x0500 par)

/-- TREADLE_WRITE (R92). -/
def execTreadleWrite (src : ItemSrc) (par : List Byte) (s : State) : Host.Outcome State Fault Refusal :=
  s.run true (fun d => d.itemRow src 0x0501 par)

/-- TREADLE_CLEAR (R88). -/
def execTreadleClear (src : ItemSrc) (par : List Byte) (s : State) : Host.Outcome State Fault Refusal :=
  s.run true (fun d => d.itemRow src 0x0502 par)

/-- TREADLE_SAVE (R95). -/
def execTreadleSave (src : ItemSrc) (par : List Byte) (s : State) : Host.Outcome State Fault Refusal :=
  s.run true (fun d => d.itemRow src 0x0503 par)

/-- DRAFT_READ (R37). -/
def execDraftRead (src : ItemSrc) (par : List Byte) (s : State) : Host.Outcome State Fault Refusal :=
  s.run true (fun d => d.itemRow src 0x0600 par)

/-- DRAFT_WRITE (R37). -/
def execDraftWrite (src : ItemSrc) (par : List Byte) (s : State) : Host.Outcome State Fault Refusal :=
  s.run true (fun d => d.itemRow src 0x0601 par)

/-- DRAFT_LOAD_PREDEFINED (R46). -/
def execDraftLoadPredefined (src : ItemSrc) (par : List Byte) (s : State) : Host.Outcome State Fault Refusal :=
  s.run true (fun d => d.itemRow src 0x0602 par)

/-- DRAFT_ACTIVATE (R38). -/
def execDraftActivate (src : ItemSrc) (par : List Byte) (s : State) : Host.Outcome State Fault Refusal :=
  s.run true (fun d => d.itemRow src 0x0603 par)

/-- COUNTER_READ (R392). -/
def execCounterRead (src : ItemSrc) (par : List Byte) (s : State) : Host.Outcome State Fault Refusal :=
  s.run true (fun d => d.itemRow src 0x0700 par)

/-- HISTO_READ (R392). -/
def execHistoRead (src : ItemSrc) (par : List Byte) (s : State) : Host.Outcome State Fault Refusal :=
  s.run true (fun d => d.itemRow src 0x0701 par)

/-- STATS_CLEAR (R391). -/
def execStatsClear (src : ItemSrc) (par : List Byte) (s : State) : Host.Outcome State Fault Refusal :=
  s.run true (fun d => d.itemRow src 0x0702 par)

/-- LOG_READ (R379). -/
def execLogRead (src : ItemSrc) (par : List Byte) (s : State) : Host.Outcome State Fault Refusal :=
  s.run true (fun d => d.itemRow src 0x0703 par)

/-- TRACE_READ (R410). -/
def execTraceRead (src : ItemSrc) (par : List Byte) (s : State) : Host.Outcome State Fault Refusal :=
  s.run true (fun d => d.itemRow src 0x0704 par)

/-- GATE_LIST_WRITE (R315). -/
def execGateListWrite (src : ItemSrc) (par : List Byte) (s : State) : Host.Outcome State Fault Refusal :=
  s.run true (fun d => d.itemRow src 0x0800 par)

/-- GATE_LIST_READ (R316). -/
def execGateListRead (src : ItemSrc) (par : List Byte) (s : State) : Host.Outcome State Fault Refusal :=
  s.run true (fun d => d.itemRow src 0x0801 par)

/-- TIME_STEP (R332). -/
def execTimeStep (src : ItemSrc) (par : List Byte) (s : State) : Host.Outcome State Fault Refusal :=
  s.run true (fun d => d.itemRow src 0x0802 par)

/-- PAIR_STATUS (R360). -/
def execPairStatus (src : ItemSrc) (par : List Byte) (s : State) : Host.Outcome State Fault Refusal :=
  s.run true (fun d => d.itemRow src 0x0900 par)

/-- PAIR_HANDOVER (R361). -/
def execPairHandover (src : ItemSrc) (par : List Byte) (s : State) : Host.Outcome State Fault Refusal :=
  s.run true (fun d => d.itemRow src 0x0901 par)

/-- CONFIG_SAVE (R296). -/
def execConfigSave (src : ItemSrc) (par : List Byte) (s : State) : Host.Outcome State Fault Refusal :=
  s.run true (fun d => d.itemRow src 0x0A00 par)

/-- FIRMWARE_WRITE (R422). -/
def execFirmwareWrite (src : ItemSrc) (par : List Byte) (s : State) : Host.Outcome State Fault Refusal :=
  s.run true (fun d => d.itemRow src 0x0A01 par)

/-- FIRMWARE_ACTIVATE (R422). -/
def execFirmwareActivate (src : ItemSrc) (par : List Byte) (s : State) : Host.Outcome State Fault Refusal :=
  s.run true (fun d => d.itemRow src 0x0A02 par)

/-- SYSTEM_RESET (R296). -/
def execSystemReset (src : ItemSrc) (par : List Byte) (s : State) : Host.Outcome State Fault Refusal :=
  s.run true (fun d => d.itemRow src 0x0A03 par)

/-- DEBUG_UNLOCK (R422). -/
def execDebugUnlock (src : ItemSrc) (par : List Byte) (s : State) : Host.Outcome State Fault Refusal :=
  s.run true (fun d => d.itemRow src 0x0A04 par)

end Sys2Proof.Machine
end

