-- ==== Sys2Proof/Machine/CmdSieve.lean ====
section
/-! DEFINITION. Meanings: the converters and the checker (chapter 9). -/

namespace Sys2Proof.Machine
open Sys2Proof

/-- The register that a scan write names: 0 - 15 SV_SCAN_n, 16 - 31 SV_DWELL_n, 32 SV_SCAN_LEN. -/
def scanReg (k reg : Nat) : Nat :=
  if reg < 16 then R.SV_SCAN k reg else if reg < 32 then R.SV_DWELL k (reg - 16) else R.SV_SCAN_LEN k

/-- SIEVE_WORD (R194). -/
def execSieveWord (k : Nat) (vs : List Int) (limit : Bool) (s : State) : Host.Outcome State Fault Refusal :=
  s.run (decide (k < 2)) (fun d => d.sieveWord k vs limit)

/-- SIEVE_BG_INTERVAL (R193). -/
def execSieveBgInterval (k : Nat) (est : List Int) (rms : Nat) (s : State) : Host.Outcome State Fault Refusal :=
  s.run (decide (k < 2)) (fun d => d.svBackground k est rms)

/-- CAL (R200). -/
def execCal (k : Nat) (v : Nat) (s : State) : Host.Outcome State Fault Refusal :=
  s.run (decide (k < 2)) (fun d => d.regCommand (R.SV_CTRL k) (putBit v 2 true))

/-- SIEVE_CAL_DONE (R200). -/
def execSieveCalDone (k : Nat) (zero : Int) (ref : Int) (s : State) : Host.Outcome State Fault Refusal :=
  s.run (decide (k < 2)) (fun d => d.svCalDone k zero ref)

/-- RUN (R198). -/
def execRun (k : Nat) (v : Nat) (s : State) : Host.Outcome State Fault Refusal :=
  s.run (decide (k < 2)) (fun d => d.regCommand (R.SV_CTRL k) v)

/-- SV_SCAN_WRITE (R198). -/
def execSvScanWrite (k : Nat) (reg : Nat) (v : Nat) (s : State) : Host.Outcome State Fault Refusal :=
  s.run (decide (k < 2) && decide (reg < 33)) (fun d => d.regCommand (scanReg k reg) v)

/-- INJECT_GO (R199). -/
def execInjectGo (k : Nat) (v : Nat) (s : State) : Host.Outcome State Fault Refusal :=
  s.run (decide (k < 2)) (fun d => d.regCommand (R.SV_INJ k) (putBit v 31 true))

/-- INJECTION_START (R199). -/
def execInjectionStart (k : Nat) (s : State) : Host.Outcome State Fault Refusal :=
  s.run (decide (k < 2)) (fun d => d.injectionStart k)

/-- WITNESS_ROUND (R204). -/
def execWitnessRound (s : State) : Host.Outcome State Fault Refusal :=
  s.run true (fun d => d.witnessRound)

/-- XCHK_PERIODIC (R206). -/
def execXchkPeriodic (s : State) : Host.Outcome State Fault Refusal :=
  s.run true (fun d => d.xchkPeriodic)

/-- VREF_RANGE (R451). -/
def execVrefRange (k : Nat) (s : State) : Host.Outcome State Fault Refusal :=
  s.run (decide (k < 2)) (fun d => d.vrefRange k)

end Sys2Proof.Machine
end

