-- ==== Sys2Proof/Machine/CmdStart.lean ====
section
/-! DEFINITION. Meanings: start-up (chapter 20). -/

namespace Sys2Proof.Machine
open Sys2Proof

/-- POWER_ON_RESET (R419). -/
def execPowerOnReset (samples : List Nat) (s : State) : Host.Outcome State Fault Refusal :=
  s.raw true (fun d => d.powerOn samples)

/-- RESET_N (R419). -/
def execResetN (samples : List Nat) (s : State) : Host.Outcome State Fault Refusal :=
  s.core true (fun d => d.resetN samples)

/-- RAIL_UNDERVOLTAGE (R442). -/
def execRailUndervoltage (rail : Nat) (level : Nat) (s : State) : Host.Outcome State Fault Refusal :=
  s.raw (decide (rail < 12) && decide (level < 3)) (fun d => d.railMonitor rail level)

/-- VID_NOT_REACHED (R419). -/
def execVidNotReached (s : State) : Host.Outcome State Fault Refusal :=
  s.run true (fun d => d.vidNotReached)

/-- VID_STEP (R444). -/
def execVidStep (pinsOk : Bool) (s : State) : Host.Outcome State Fault Refusal :=
  s.raw true (fun d => d.vidStep pinsOk)

/-- SECURE_BOOT (R420). -/
def execSecureBoot (configGood : Bool) (s : State) : Host.Outcome State Fault Refusal :=
  s.run true (fun d => d.secureBoot configGood)

/-- SELF_TEST (R423). -/
def execSelfTest (failed : Nat) (bursts : List Nat) (cals : List (Int × Int)) (s : State) : Host.Outcome State Fault Refusal :=
  s.run true (fun d => d.selfTest failed bursts cals)

/-- GO (R439). -/
def execGo (v : Nat) (s : State) : Host.Outcome State Fault Refusal :=
  s.run true (fun d => d.regCommand R.START_CTRL (putBit v 0 true))

/-- TILE_DISCOVERY (R424). -/
def execTileDiscovery (s : State) : Host.Outcome State Fault Refusal :=
  s.run true (fun d => d.tileDiscovery)

/-- DISCOVER_TIMEOUT (R424). -/
def execDiscoverTimeout (s : State) : Host.Outcome State Fault Refusal :=
  s.run true (fun d => d.discoverTimeout)

/-- TILE_WAKE (R428). -/
def execTileWake (t : Nat) (s : State) : Host.Outcome State Fault Refusal :=
  s.live (decide (t < 16)) (fun d => d.tileWake t)

/-- THERMAL_SETTLED (R429). -/
def execThermalSettled (t : Nat) (s : State) : Host.Outcome State Fault Refusal :=
  s.run (decide (t < 16)) (fun d => d.thermalSettled t)

/-- CAL_DEFERRED (R429). -/
def execCalDeferred (t : Nat) (s : State) : Host.Outcome State Fault Refusal :=
  s.run (decide (t < 16)) (fun d => d.calDeferred t)

/-- CAL_PASS (R431). -/
def execCalPass (t : Nat) (q : Nat) (cells : List CellMeas) (ports : List PortMeas) (wit : Nat) (s : State) : Host.Outcome State Fault Refusal :=
  s.live (decide (t < 16) && decide (q < 17)) (fun d => d.calPass t q cells ports wit)

/-- CALIBRATION_END (R433). -/
def execCalibrationEnd (t : Nat) (s : State) : Host.Outcome State Fault Refusal :=
  s.live (decide (t < 16)) (fun d => d.calibrationEnd t)

/-- ABORT (R433). -/
def execAbort (v : Nat) (s : State) : Host.Outcome State Fault Refusal :=
  s.run true (fun d => d.regCommand R.CAL_CTRL (putBit v 0 true))

/-- SAVE (R433). -/
def execSave (v : Nat) (s : State) : Host.Outcome State Fault Refusal :=
  s.run true (fun d => d.regCommand R.CAL_CTRL (putBit v 1 true))

/-- LOOPS_ENABLE (R434). -/
def execLoopsEnable (t : Nat) (s : State) : Host.Outcome State Fault Refusal :=
  s.live (decide (t < 16)) (fun d => d.loopsEnable t)

/-- BOOT_OK (R417). -/
def execBootOk (s : State) : Host.Outcome State Fault Refusal :=
  s.run true (fun d => d.bootOk)

end Sys2Proof.Machine
end

