-- ==== Sys2Proof/Machine/CmdStores.lean ====
section
/-! DEFINITION. Meanings: Reed, Loam, Marl (chapter 19). -/

namespace Sys2Proof.Machine
open Sys2Proof

/-- A request as its master makes it: nothing has waited yet. -/
def reqOf (m addr : Nat) (write : Bool) (words : List Nat) (count : Nat) (lock unlock barrier : Bool) : ReedReq :=
  { master := m, addr := addr, write := write, words := words, count := count, lock := lock, unlock := unlock, barrier := barrier
    sinceTb := 0, starved := false, longHeld := false }

/-- REED_REQUEST (R403). -/
def execReedRequest (m : Nat) (addr : Nat) (write : Bool) (words : List Nat) (count : Nat) (lock : Bool) (unlock : Bool) (barrier : Bool) (s : State) : Host.Outcome State Fault Refusal :=
  s.run (decide (m < 12)) (fun d => d.reedRequest (reqOf m addr write words count lock unlock barrier))

/-- REED_LOCK_TIMEOUT (R405). -/
def execReedLockTimeout (t : Nat) (s : State) : Host.Outcome State Fault Refusal :=
  s.run (decide (t < 10)) (fun d => d.reedLockTimeout t)

/-- MASTER_RESET (R406). -/
def execMasterReset (m : Nat) (addr : Nat) (words : List Nat) (item : Option Nat) (s : State) : Host.Outcome State Fault Refusal :=
  s.run (decide (m < 12)) (fun d => d.masterReset m addr words item)

/-- REED_WIN_WRITE (R402). -/
def execReedWinWrite (n : Nat) (ctl : Bool) (v : Nat) (s : State) : Host.Outcome State Fault Refusal :=
  s.run (decide (n < 16)) (fun d => d.regCommand (if ctl then R.REED_WIN_CTL n else R.REED_WIN_BASE n) v)

/-- DRAM_ERROR (R407). -/
def execDramError (m : Nat) (addr : Nat) (corrected : Bool) (s : State) : Host.Outcome State Fault Refusal :=
  s.run (decide (m < 12)) (fun d => d.dramError m addr corrected)

/-- MARL_OPERATION_START (R414). -/
def execMarlOperationStart (s : State) : Host.Outcome State Fault Refusal :=
  s.core true (fun d => d.marlStart)

/-- MARL_ROUND_DONE (R412). -/
def execMarlRoundDone (good : Bool) (s : State) : Host.Outcome State Fault Refusal :=
  s.core true (fun d => d.marlRound good)

/-- MARL_LOG_FLUSH (R412). -/
def execMarlLogFlush (s : State) : Host.Outcome State Fault Refusal :=
  s.core true (fun d => d.marlFlush)

/-- STARVE (R403). -/
def execStarve (m : Nat) (t : Nat) (s : State) : Host.Outcome State Fault Refusal :=
  s.run (decide (m < 12) && decide (t < 10)) (fun d => d.reedStarve m t)

/-- ORDER_HOLD_LONG (R404). -/
def execOrderHoldLong (m : Nat) (t : Nat) (s : State) : Host.Outcome State Fault Refusal :=
  s.run (decide (m < 12) && decide (t < 10)) (fun d => d.reedHoldLong m t)

/-- TRACE_EXPORT_END (R410). -/
def execTraceExportEnd (s : State) : Host.Outcome State Fault Refusal :=
  s.run true (fun d => d.traceExportEnd)

end Sys2Proof.Machine
end

