-- ==== Sys2Proof/Machine/CmdThermal.lean ====
section
/-! DEFINITION. Meanings: die sensors, throttling, shut-down, Silt (chapter 11). -/

namespace Sys2Proof.Machine
open Sys2Proof

/-- THERM_SCAN (R229). -/
def execThermScan (temps : List Int) (errs : Nat) (s : State) : Host.Outcome State Fault Refusal :=
  s.core true (fun d => d.thermScan temps errs)

/-- THROTTLE_STEP (R231). -/
def execThrottleStep (s : State) : Host.Outcome State Fault Refusal :=
  s.core true (fun d => d.throttleStep)

/-- SHUTDOWN_MARL_END (R233). -/
def execShutdownMarlEnd (s : State) : Host.Outcome State Fault Refusal :=
  s.core true (fun d => d.shutMarl)

/-- THERM_RESTART (R234). -/
def execThermRestart (s : State) : Host.Outcome State Fault Refusal :=
  s.core true (fun d => d.thermRestart)

/-- THERMTRIP (R235). -/
def execThermtrip (past : Bool) (s : State) : Host.Outcome State Fault Refusal :=
  s.raw true (fun d => d.thermTrip past)

/-- THERM_RETIRE_WRITE (R226). -/
def execThermRetireWrite (v : Nat) (s : State) : Host.Outcome State Fault Refusal :=
  s.core true (fun d => d.regCommand R.THERM_RETIRE v)

/-- REFERENCE_BURST (R239). -/
def execReferenceBurst (e : Nat) (ps : Nat) (s : State) : Host.Outcome State Fault Refusal :=
  s.live (decide (e < 64)) (fun d => d.refBurst e ps)

/-- SILT_HOURLY (R240). -/
def execSiltHourly (s : State) : Host.Outcome State Fault Refusal :=
  s.run true (fun d => d.siltHourly)

/-- SILT_REPLAN (R242). -/
def execSiltReplan (s : State) : Host.Outcome State Fault Refusal :=
  s.run true (fun d => d.siltReplan)

/-- REPLAN (R242). -/
def execReplan (v : Nat) (s : State) : Host.Outcome State Fault Refusal :=
  s.run true (fun d => d.regCommand R.SILT_CTRL (putBit v 1 true))

/-- SILT_SAVE (R240). -/
def execSiltSave (v : Nat) (s : State) : Host.Outcome State Fault Refusal :=
  s.run true (fun d => d.regCommand R.SILT_CTRL (putBit v 0 true))

/-- SILT_VOLTAGE_REMEASURE (R242). -/
def execSiltVoltageRemeasure (ps : List Nat) (s : State) : Host.Outcome State Fault Refusal :=
  s.run true (fun d => d.siltRemeasure ps)

end Sys2Proof.Machine
end

