-- ==== Sys2Proof/Machine/CmdTime.lean ====
section
/-! DEFINITION. Meanings: timebase, PTP, pulses (chapter 15). -/

namespace Sys2Proof.Machine
open Sys2Proof

/-- REF_LOSS (R325). -/
def execRefLoss (s : State) : Host.Outcome State Fault Refusal :=
  s.run true (fun d => d.refLoss)

/-- REF_RETURN (R325). -/
def execRefReturn (s : State) : Host.Outcome State Fault Refusal :=
  s.run true (fun d => d.refReturn)

/-- REFCLK_LOSS (R447). -/
def execRefclkLoss (s : State) : Host.Outcome State Fault Refusal :=
  s.run true (fun d => d.refclkGone)

/-- PTP_MESSAGE (R329). -/
def execPtpMessage (s : State) : Host.Outcome State Fault Refusal :=
  s.run true (fun d => d.ptpMessage)

/-- PPS_EDGE (R326). -/
def execPpsEdge (delay : Nat) (s : State) : Host.Outcome State Fault Refusal :=
  s.run true (fun d => d.ppsEdge delay)

/-- SERVO_HOLDOVER (R327). -/
def execServoHoldover (s : State) : Host.Outcome State Fault Refusal :=
  s.run true (fun d => d.servoHoldover)

/-- PTP_MASTER_SEND (R329). -/
def execPtpMasterSend (kind : Nat) (s : State) : Host.Outcome State Fault Refusal :=
  s.run (decide (kind < 16)) (fun d => d.ptpMasterSend kind)

/-- RELOCK (R328). -/
def execRelock (v : Nat) (s : State) : Host.Outcome State Fault Refusal :=
  s.run true (fun d => d.regCommand R.TIME_CFG (putBit v 31 true))

/-- SERVO_SRC_WRITE (R327). -/
def execServoSrcWrite (v : Nat) (s : State) : Host.Outcome State Fault Refusal :=
  s.run true (fun d => d.regCommand R.TIME_CFG v)

/-- TB_NS_READ (R337). -/
def execTbNsRead (s : State) : Host.Outcome State Fault Refusal :=
  s.run true (fun d => (d.regRead R.TB_NS_LO).1)

/-- PULSE_ARM (R336). -/
def execPulseArm (n : Nat) (cfg : Bool) (v : Nat) (s : State) : Host.Outcome State Fault Refusal :=
  s.run (decide (n < 4)) (fun d => d.regCommand (if cfg then R.PULSE_CFG n else R.PULSE_START_HI n) v)

/-- PULSE_EDGE (R336). -/
def execPulseEdge (n : Nat) (s : State) : Host.Outcome State Fault Refusal :=
  s.run (decide (n < 4)) (fun d => d.pulseEdge n)

/-- REFCLK_RETURN (R447). -/
def execRefclkReturn (s : State) : Host.Outcome State Fault Refusal :=
  s.run true (fun d => d.refclkReturn)

end Sys2Proof.Machine
end

