-- ==== Sys2Proof/Machine/CmdTreadle.lean ====
section
/-! DEFINITION. Meanings: trackers, treadle tables, the pick registers and the draft check (chapters 2 - 4). -/

namespace Sys2Proof.Machine
open Sys2Proof

/-- TRACKER_UPDATE (R82). -/
def execTrackerUpdate (n : Nat) (_err _amp _freq _shift : Unit) (s : State) : Host.Outcome State Fault Refusal :=
  s.live (decide (n < 4)) (fun d => d.trackerUpdate n)

/-- TRACKER_SOURCE_LOSS (R82). -/
def execTrackerSourceLoss (n : Nat) (s : State) : Host.Outcome State Fault Refusal :=
  s.live (decide (n < 4)) (fun d => d.trackerSourceLoss n)

/-- TRACKER_LOST (R83). -/
def execTrackerLost (n : Nat) (s : State) : Host.Outcome State Fault Refusal :=
  s.live (decide (n < 4)) (fun d => d.trackerLost n)

/-- TRK_CFG_WRITE (R83). -/
def execTrkCfgWrite (n : Nat) (v : Nat) (s : State) : Host.Outcome State Fault Refusal :=
  s.run (decide (n < 4)) (fun d => d.regCommand (R.TRK_CFG n) v)

/-- TRK_BASE_HI_WRITE (R84). -/
def execTrkBaseHiWrite (n : Nat) (v : Nat) (s : State) : Host.Outcome State Fault Refusal :=
  s.run (decide (n < 4)) (fun d => d.regCommand (R.TRK_BASE_HI n) v)

/-- TREADLE_MIRROR_SEND (R93). -/
def execTreadleMirrorSend (s : State) : Host.Outcome State Fault Refusal :=
  s.live true (fun d => d.treadleMirrorSend)

/-- TREADLE_SAVE_DONE (R95). -/
def execTreadleSaveDone (result : Nat) (s : State) : Host.Outcome State Fault Refusal :=
  s.live (decide (result < 4)) (fun d => d.treadleSaveDone result)

/-- TRD_SAVE (R95). -/
def execTrdSave (v : Nat) (s : State) : Host.Outcome State Fault Refusal :=
  s.run true (fun d => d.regCommand R.TRD_CTRL (putBit v 0 true))

/-- PICK_CFG_WRITE (R53). -/
def execPickCfgWrite (v : Nat) (s : State) : Host.Outcome State Fault Refusal :=
  s.run true (fun d => d.regCommand R.PICK_CFG v)

/-- PICK_NUM_READ (R53). -/
def execPickNumRead (s : State) : Host.Outcome State Fault Refusal :=
  s.run true (fun d => (d.regRead R.PICK_NUM_LO).1)

/-- CHECK (R51). -/
def execCheck (v : Nat) (s : State) : Host.Outcome State Fault Refusal :=
  s.run true (fun d => d.regCommand R.DRAFT_CTRL (putBit v 0 true))

end Sys2Proof.Machine
end

