-- ==== Sys2Proof/Machine/Dispatch.lean ====
section
/-! DEFINITION. What each command does: one arm a constructor, each one call of its meaning. -/

namespace Sys2Proof.Machine
open Sys2Proof

def exec (i : Instr) (s : State) : Host.Outcome State Fault Refusal :=
  match i with
  | .powerOnReset samples => Sys2Proof.Machine.execPowerOnReset samples s
  | .resetN samples => Sys2Proof.Machine.execResetN samples s
  | .railUndervoltage rail level => Sys2Proof.Machine.execRailUndervoltage rail level s
  | .vidNotReached => Sys2Proof.Machine.execVidNotReached s
  | .vidStep pinsOk => Sys2Proof.Machine.execVidStep pinsOk s
  | .secureBoot configGood => Sys2Proof.Machine.execSecureBoot configGood s
  | .selfTest failed bursts cals => Sys2Proof.Machine.execSelfTest failed bursts cals s
  | .go v => Sys2Proof.Machine.execGo v s
  | .tileDiscovery => Sys2Proof.Machine.execTileDiscovery s
  | .discoverTimeout => Sys2Proof.Machine.execDiscoverTimeout s
  | .tileWake t => Sys2Proof.Machine.execTileWake t s
  | .thermalSettled t => Sys2Proof.Machine.execThermalSettled t s
  | .calDeferred t => Sys2Proof.Machine.execCalDeferred t s
  | .calPass t q cells ports wit => Sys2Proof.Machine.execCalPass t q cells ports wit s
  | .calibrationEnd t => Sys2Proof.Machine.execCalibrationEnd t s
  | .abort v => Sys2Proof.Machine.execAbort v s
  | .save v => Sys2Proof.Machine.execSave v s
  | .loopsEnable t => Sys2Proof.Machine.execLoopsEnable t s
  | .bootOk => Sys2Proof.Machine.execBootOk s
  | .pickBoundary slack => Sys2Proof.Machine.execPickBoundary slack s
  | .boundaryMarker t => Sys2Proof.Machine.execBoundaryMarker t s
  | .senseFrame t lanes => Sys2Proof.Machine.execSenseFrame t lanes s
  | .tileOfflineTimeout t => Sys2Proof.Machine.execTileOfflineTimeout t s
  | .loopStep l => Sys2Proof.Machine.execLoopStep l s
  | .switchMaxExpiry c => Sys2Proof.Machine.execSwitchMaxExpiry c s
  | .settleEnd c => Sys2Proof.Machine.execSettleEnd c s
  | .cellFaultQuiet c => Sys2Proof.Machine.execCellFaultQuiet c s
  | .lossTrip l => Sys2Proof.Machine.execLossTrip l s
  | .chunkCutoff t c slack => Sys2Proof.Machine.execChunkCutoff t c slack s
  | .linkTrain t result => Sys2Proof.Machine.execLinkTrain t result s
  | .laneFail t lane => Sys2Proof.Machine.execLaneFail t lane s
  | .laneRetrain t passed => Sys2Proof.Machine.execLaneRetrain t passed s
  | .linkDown t => Sys2Proof.Machine.execLinkDown t s
  | .linkRetrainTimer t => Sys2Proof.Machine.execLinkRetrainTimer t s
  | .retrain t v => Sys2Proof.Machine.execRetrain t v s
  | .burst t v => Sys2Proof.Machine.execBurst t v s
  | .trackerUpdate n err amp freq shift => Sys2Proof.Machine.execTrackerUpdate n err amp freq shift s
  | .trackerSourceLoss n => Sys2Proof.Machine.execTrackerSourceLoss n s
  | .trackerLost n => Sys2Proof.Machine.execTrackerLost n s
  | .trkCfgWrite n v => Sys2Proof.Machine.execTrkCfgWrite n v s
  | .trkBaseHiWrite n v => Sys2Proof.Machine.execTrkBaseHiWrite n v s
  | .treadleMirrorSend => Sys2Proof.Machine.execTreadleMirrorSend s
  | .treadleSaveDone result => Sys2Proof.Machine.execTreadleSaveDone result s
  | .trdSave v => Sys2Proof.Machine.execTrdSave v s
  | .pickCfgWrite v => Sys2Proof.Machine.execPickCfgWrite v s
  | .pickNumRead => Sys2Proof.Machine.execPickNumRead s
  | .check v => Sys2Proof.Machine.execCheck v s
  | .commitPoint prop => Sys2Proof.Machine.execCommitPoint prop s
  | .shuttlePlan no prop => Sys2Proof.Machine.execShuttlePlan no prop s
  | .timedCommitDue prop => Sys2Proof.Machine.execTimedCommitDue prop s
  | .protectInEdge n high delay => Sys2Proof.Machine.execProtectInEdge n high delay s
  | .protectDebounce n => Sys2Proof.Machine.execProtectDebounce n s
  | .restoration e pick => Sys2Proof.Machine.execRestoration e pick s
  | .pieceLockTimeout e => Sys2Proof.Machine.execPieceLockTimeout e s
  | .rampStep c => Sys2Proof.Machine.execRampStep c s
  | .reservationTimeout handle => Sys2Proof.Machine.execReservationTimeout handle s
  | .raWarmTimeout no => Sys2Proof.Machine.execRaWarmTimeout no s
  | .tilthHoldoffExpiry t => Sys2Proof.Machine.execTilthHoldoffExpiry t s
  | .sieveWord k vs limit => Sys2Proof.Machine.execSieveWord k vs limit s
  | .sieveBgInterval k est rms => Sys2Proof.Machine.execSieveBgInterval k est rms s
  | .cal k v => Sys2Proof.Machine.execCal k v s
  | .sieveCalDone k zero ref => Sys2Proof.Machine.execSieveCalDone k zero ref s
  | .run k v => Sys2Proof.Machine.execRun k v s
  | .svScanWrite k reg v => Sys2Proof.Machine.execSvScanWrite k reg v s
  | .injectGo k v => Sys2Proof.Machine.execInjectGo k v s
  | .injectionStart k => Sys2Proof.Machine.execInjectionStart k s
  | .witnessRound => Sys2Proof.Machine.execWitnessRound s
  | .xchkPeriodic => Sys2Proof.Machine.execXchkPeriodic s
  | .dacCodeWrite c v => Sys2Proof.Machine.execDacCodeWrite c v s
  | .dacStrobe v => Sys2Proof.Machine.execDacStrobe v s
  | .dacLoadPin g high => Sys2Proof.Machine.execDacLoadPin g high s
  | .range c v => Sys2Proof.Machine.execRange c v s
  | .rangingEnd c => Sys2Proof.Machine.execRangingEnd c s
  | .dacClrN low => Sys2Proof.Machine.execDacClrN low s
  | .dacBufferOt c hot => Sys2Proof.Machine.execDacBufferOt c hot s
  | .otRedrive c => Sys2Proof.Machine.execOtRedrive c s
  | .sharedDriveStart => Sys2Proof.Machine.execSharedDriveStart s
  | .sineEnable g v => Sys2Proof.Machine.execSineEnable g v s
  | .sineDisable g v => Sys2Proof.Machine.execSineDisable g v s
  | .sineStop g => Sys2Proof.Machine.execSineStop g s
  | .sineParamWrite g reg v => Sys2Proof.Machine.execSineParamWrite g reg v s
  | .sineTableWrite g n v => Sys2Proof.Machine.execSineTableWrite g n v s
  | .tecEn t v => Sys2Proof.Machine.execTecEn t v s
  | .tecSafe t => Sys2Proof.Machine.execTecSafe t s
  | .thermScan temps errs => Sys2Proof.Machine.execThermScan temps errs s
  | .throttleStep => Sys2Proof.Machine.execThrottleStep s
  | .shutdownMarlEnd => Sys2Proof.Machine.execShutdownMarlEnd s
  | .thermRestart => Sys2Proof.Machine.execThermRestart s
  | .thermtrip past => Sys2Proof.Machine.execThermtrip past s
  | .thermRetireWrite v => Sys2Proof.Machine.execThermRetireWrite v s
  | .referenceBurst e ps => Sys2Proof.Machine.execReferenceBurst e ps s
  | .siltHourly => Sys2Proof.Machine.execSiltHourly s
  | .siltReplan => Sys2Proof.Machine.execSiltReplan s
  | .replan v => Sys2Proof.Machine.execReplan v s
  | .siltSave v => Sys2Proof.Machine.execSiltSave v s
  | .siltVoltageRemeasure ps => Sys2Proof.Machine.execSiltVoltageRemeasure ps s
  | .frameReceive p room bytes => Sys2Proof.Machine.execFrameReceive p room bytes s
  | .pauseExpiry p => Sys2Proof.Machine.execPauseExpiry p s
  | .pauseRefresh p => Sys2Proof.Machine.execPauseRefresh p s
  | .macLinkChange p lock hiBer localF remoteF => Sys2Proof.Machine.execMacLinkChange p lock hiBer localF remoteF s
  | .ruleCtlWrite n v => Sys2Proof.Machine.execRuleCtlWrite n v s
  | .egressEnqueue p q dst vid body => Sys2Proof.Machine.execEgressEnqueue p q dst vid body s
  | .txOpportunity p => Sys2Proof.Machine.execTxOpportunity p s
  | .shaperRefill => Sys2Proof.Machine.execShaperRefill s
  | .policerRefill => Sys2Proof.Machine.execPolicerRefill s
  | .gateEntryChange p => Sys2Proof.Machine.execGateEntryChange p s
  | .gateListStart p => Sys2Proof.Machine.execGateListStart p s
  | .peerFrameReceive room bytes => Sys2Proof.Machine.execPeerFrameReceive room bytes s
  | .tetherReceive bytes => Sys2Proof.Machine.execTetherReceive bytes s
  | .tetherTransmit => Sys2Proof.Machine.execTetherTransmit s
  | .tetherCollision late => Sys2Proof.Machine.execTetherCollision late s
  | .tetherBackoffExpiry => Sys2Proof.Machine.execTetherBackoffExpiry s
  | .plcaBeaconLoss => Sys2Proof.Machine.execPlcaBeaconLoss s
  | .tetherHeartbeatTimer => Sys2Proof.Machine.execTetherHeartbeatTimer s
  | .chedaPacket => Sys2Proof.Machine.execChedaPacket s
  | .replySend slot seq => Sys2Proof.Machine.execReplySend slot seq s
  | .completionSend slot seq => Sys2Proof.Machine.execCompletionSend slot seq s
  | .sessionOpen src par => Sys2Proof.Machine.execSessionOpen src par s
  | .sessionProve src par => Sys2Proof.Machine.execSessionProve src par s
  | .sessionProveTimeout slot => Sys2Proof.Machine.execSessionProveTimeout slot s
  | .keyLockoutExpiry key => Sys2Proof.Machine.execKeyLockoutExpiry key s
  | .sessionClose src par => Sys2Proof.Machine.execSessionClose src par s
  | .sessionIdleTimeout slot => Sys2Proof.Machine.execSessionIdleTimeout slot s
  | .nop src par => Sys2Proof.Machine.execNop src par s
  | .accountQuery src par => Sys2Proof.Machine.execAccountQuery src par s
  | .eventSubscribe src par => Sys2Proof.Machine.execEventSubscribe src par s
  | .eventAck src par => Sys2Proof.Machine.execEventAck src par s
  | .keyWrite src par => Sys2Proof.Machine.execKeyWrite src par s
  | .beginSet src par => Sys2Proof.Machine.execBeginSet src par s
  | .commitSet src par => Sys2Proof.Machine.execCommitSet src par s
  | .abortSet src par => Sys2Proof.Machine.execAbortSet src par s
  | .txnIdleTimeout => Sys2Proof.Machine.execTxnIdleTimeout s
  | .regRead src par => Sys2Proof.Machine.execRegRead src par s
  | .regWrite src par => Sys2Proof.Machine.execRegWrite src par s
  | .regModify src par => Sys2Proof.Machine.execRegModify src par s
  | .registerWrite a v => Sys2Proof.Machine.execRegisterWrite a v s
  | .circuitEstablish src par => Sys2Proof.Machine.execCircuitEstablish src par s
  | .circuitRelease src par => Sys2Proof.Machine.execCircuitRelease src par s
  | .circuitMigrate src par => Sys2Proof.Machine.execCircuitMigrate src par s
  | .altArm src par => Sys2Proof.Machine.execAltArm src par s
  | .altDisarm src par => Sys2Proof.Machine.execAltDisarm src par s
  | .protectSwitch src par => Sys2Proof.Machine.execProtectSwitch src par s
  | .groupCommit src par => Sys2Proof.Machine.execGroupCommit src par s
  | .circuitRead src par => Sys2Proof.Machine.execCircuitRead src par s
  | .circuitReserve src par => Sys2Proof.Machine.execCircuitReserve src par s
  | .reserveCancel src par => Sys2Proof.Machine.execReserveCancel src par s
  | .planStatus src par => Sys2Proof.Machine.execPlanStatus src par s
  | .pathRead src par => Sys2Proof.Machine.execPathRead src par s
  | .cellRead src par => Sys2Proof.Machine.execCellRead src par s
  | .cellFreeze src par => Sys2Proof.Machine.execCellFreeze src par s
  | .cellUnfreeze src par => Sys2Proof.Machine.execCellUnfreeze src par s
  | .cellCal src par => Sys2Proof.Machine.execCellCal src par s
  | .tileActivate src par => Sys2Proof.Machine.execTileActivate src par s
  | .tileFence src par => Sys2Proof.Machine.execTileFence src par s
  | .tileCalibrate src par => Sys2Proof.Machine.execTileCalibrate src par s
  | .tileOffline src par => Sys2Proof.Machine.execTileOffline src par s
  | .loopRead src par => Sys2Proof.Machine.execLoopRead src par s
  | .loopWrite src par => Sys2Proof.Machine.execLoopWrite src par s
  | .loopMove src par => Sys2Proof.Machine.execLoopMove src par s
  | .coefRead src par => Sys2Proof.Machine.execCoefRead src par s
  | .coefWrite src par => Sys2Proof.Machine.execCoefWrite src par s
  | .treadleRead src par => Sys2Proof.Machine.execTreadleRead src par s
  | .treadleWrite src par => Sys2Proof.Machine.execTreadleWrite src par s
  | .treadleClear src par => Sys2Proof.Machine.execTreadleClear src par s
  | .treadleSave src par => Sys2Proof.Machine.execTreadleSave src par s
  | .draftRead src par => Sys2Proof.Machine.execDraftRead src par s
  | .draftWrite src par => Sys2Proof.Machine.execDraftWrite src par s
  | .draftLoadPredefined src par => Sys2Proof.Machine.execDraftLoadPredefined src par s
  | .draftActivate src par => Sys2Proof.Machine.execDraftActivate src par s
  | .counterRead src par => Sys2Proof.Machine.execCounterRead src par s
  | .histoRead src par => Sys2Proof.Machine.execHistoRead src par s
  | .statsClear src par => Sys2Proof.Machine.execStatsClear src par s
  | .logRead src par => Sys2Proof.Machine.execLogRead src par s
  | .traceRead src par => Sys2Proof.Machine.execTraceRead src par s
  | .gateListWrite src par => Sys2Proof.Machine.execGateListWrite src par s
  | .gateListRead src par => Sys2Proof.Machine.execGateListRead src par s
  | .timeStep src par => Sys2Proof.Machine.execTimeStep src par s
  | .pairStatus src par => Sys2Proof.Machine.execPairStatus src par s
  | .pairHandover src par => Sys2Proof.Machine.execPairHandover src par s
  | .configSave src par => Sys2Proof.Machine.execConfigSave src par s
  | .firmwareWrite src par => Sys2Proof.Machine.execFirmwareWrite src par s
  | .firmwareActivate src par => Sys2Proof.Machine.execFirmwareActivate src par s
  | .systemReset src par => Sys2Proof.Machine.execSystemReset src par s
  | .debugUnlock src par => Sys2Proof.Machine.execDebugUnlock src par s
  | .eventPacketSend => Sys2Proof.Machine.execEventPacketSend s
  | .summarySend slot => Sys2Proof.Machine.execSummarySend slot s
  | .refLoss => Sys2Proof.Machine.execRefLoss s
  | .refReturn => Sys2Proof.Machine.execRefReturn s
  | .refclkLoss => Sys2Proof.Machine.execRefclkLoss s
  | .ptpMessage => Sys2Proof.Machine.execPtpMessage s
  | .ppsEdge delay => Sys2Proof.Machine.execPpsEdge delay s
  | .servoHoldover => Sys2Proof.Machine.execServoHoldover s
  | .ptpMasterSend kind => Sys2Proof.Machine.execPtpMasterSend kind s
  | .relock v => Sys2Proof.Machine.execRelock v s
  | .servoSrcWrite v => Sys2Proof.Machine.execServoSrcWrite v s
  | .tbNsRead => Sys2Proof.Machine.execTbNsRead s
  | .pulseArm n cfg v => Sys2Proof.Machine.execPulseArm n cfg v s
  | .pulseEdge n => Sys2Proof.Machine.execPulseEdge n s
  | .heartbeatPTimer => Sys2Proof.Machine.execHeartbeatPTimer s
  | .heartbeat path bytes => Sys2Proof.Machine.execHeartbeat path bytes s
  | .claim path bytes => Sys2Proof.Machine.execClaim path bytes s
  | .mirror head recs pad => Sys2Proof.Machine.execMirror head recs pad s
  | .ack bytes => Sys2Proof.Machine.execAck bytes s
  | .syncReq bytes => Sys2Proof.Machine.execSyncReq bytes s
  | .snapshotSend => Sys2Proof.Machine.execSnapshotSend s
  | .pLost => Sys2Proof.Machine.execPLost s
  | .tLost => Sys2Proof.Machine.execTLost s
  | .mirrorBatch => Sys2Proof.Machine.execMirrorBatch s
  | .mirrorResend => Sys2Proof.Machine.execMirrorResend s
  | .mirrorGapTimeout => Sys2Proof.Machine.execMirrorGapTimeout s
  | .roleResolution => Sys2Proof.Machine.execRoleResolution s
  | .resolutionReread => Sys2Proof.Machine.execResolutionReread s
  | .failover => Sys2Proof.Machine.execFailover s
  | .takebackRequest => Sys2Proof.Machine.execTakebackRequest s
  | .linkHandover => Sys2Proof.Machine.execLinkHandover s
  | .handoverAgree => Sys2Proof.Machine.execHandoverAgree s
  | .handoverDecline => Sys2Proof.Machine.execHandoverDecline s
  | .eventGrant b => Sys2Proof.Machine.execEventGrant b s
  | .eventRecovery b src => Sys2Proof.Machine.execEventRecovery b src s
  | .coalesceHoldExpiry b src inj => Sys2Proof.Machine.execCoalesceHoldExpiry b src inj s
  | .goInject b v => Sys2Proof.Machine.execGoInject b v s
  | .unack b inj v => Sys2Proof.Machine.execUnack b inj v s
  | .valid b v => Sys2Proof.Machine.execValid b v s
  | .countClr b v => Sys2Proof.Machine.execCountClr b v s
  | .perfSelWrite n v => Sys2Proof.Machine.execPerfSelWrite n v s
  | .perfCntRead n => Sys2Proof.Machine.execPerfCntRead n s
  | .ovf n v => Sys2Proof.Machine.execOvf n v s
  | .histoCfgWrite u v => Sys2Proof.Machine.execHistoCfgWrite u v s
  | .bobbinSnapshot => Sys2Proof.Machine.execBobbinSnapshot s
  | .reedRequest m addr write words count lock unlock barrier => Sys2Proof.Machine.execReedRequest m addr write words count lock unlock barrier s
  | .reedLockTimeout t => Sys2Proof.Machine.execReedLockTimeout t s
  | .masterReset m addr words item => Sys2Proof.Machine.execMasterReset m addr words item s
  | .reedWinWrite n ctl v => Sys2Proof.Machine.execReedWinWrite n ctl v s
  | .dramError m addr corrected => Sys2Proof.Machine.execDramError m addr corrected s
  | .marlOperationStart => Sys2Proof.Machine.execMarlOperationStart s
  | .marlRoundDone good => Sys2Proof.Machine.execMarlRoundDone good s
  | .marlLogFlush => Sys2Proof.Machine.execMarlLogFlush s
  | .refclkReturn => Sys2Proof.Machine.execRefclkReturn s
  | .plcaBeaconsResume => Sys2Proof.Machine.execPlcaBeaconsResume s
  | .starve m t => Sys2Proof.Machine.execStarve m t s
  | .orderHoldLong m t => Sys2Proof.Machine.execOrderHoldLong m t s
  | .handshakeUnanswered b => Sys2Proof.Machine.execHandshakeUnanswered b s
  | .traceExportEnd => Sys2Proof.Machine.execTraceExportEnd s
  | .vrefRange k => Sys2Proof.Machine.execVrefRange k s

end Sys2Proof.Machine
end

