-- ==== Sys2Proof/Safety.lean ====
section
/-! DEFINITION. The terms that statements use: when a block takes its commands, which commands act while the comparator holds the
module, when a timer's instant has come, and how an item of a packet that is taken ends. -/

namespace Sys2Proof.Machine
open Sys2Proof

/-! ## Next states -/

/-- The state with the device changed; the queue as it was. -/
def State.put (s : State) (d : Dev) : State := { s with dev := d }

/-- The blocks take their commands: no shut-down, comparator or rail holds them (R232, R235, R442). -/
def State.runs (s : State) : Bool := !s.dev.held

/-- The fabric blocks take their commands: besides, no thermal shut-down has stopped them at a pick boundary (R232). -/
def State.fabricRuns (s : State) : Bool := !s.dev.held && decide (s.dev.therm.shut < 2)

/-- Therm, Marl and Supply take their commands (R232). -/
def State.coreRuns (s : State) : Bool := !s.dev.therm.trip && !s.dev.sup.held

/-- Every block at its reset, but for what Marl and the fuses hold, the comparator and the rail monitors (R235, R419, R442). -/
def Dev.fresh (d : Dev) : Dev :=
  { nv := d.nv
    free := d.free
    therm := { trip := d.therm.trip, tripPin := d.therm.trip }
    sup := { low := d.sup.low, held := d.sup.held } }

/-- The device with the rails seen as these. -/
def Dev.withLow (d : Dev) (rails : List Nat) : Dev := { d with sup := { d.sup with low := rails } }

/-- The device with the comparator as this. -/
def Dev.withTrip (d : Dev) (past : Bool) : Dev := { d with therm := { d.therm with trip := past } }

/-! ## Timers (assumption 10) -/

/-- The instant lies before the next pick boundary. -/
def Dev.before (d : Dev) (due : Nat) : Bool := decide (due < d.nextTb)

/-- The device when its clock has reached the instant. -/
def Dev.wait (d : Dev) (due : Nat) : Dev := d.advance (max due d.time.tb)

/-! ## What a hold stops -/

/-- Commands that act while the comparator holds the module: power, rails, the comparator itself (R235, R419, R442). -/
def actsTripped : Instr → Bool
  | .powerOnReset _ => true
  | .railUndervoltage _ _ => true
  | .thermtrip _ => true
  | _ => false

/-- Commands that act while a thermal shut-down holds the other blocks in reset: besides those, RESET_N, Therm, Marl and Supply (R232). -/
def actsShut : Instr → Bool
  | .resetN _ => true
  | .vidStep _ => true
  | .thermScan _ _ => true
  | .throttleStep => true
  | .shutdownMarlEnd => true
  | .thermRestart => true
  | .thermRetireWrite _ => true
  | .marlOperationStart => true
  | .marlRoundDone _ => true
  | .marlLogFlush => true
  | c => actsTripped c

/-- Commands of the blocks that a thermal shut-down stops at its first pick boundary (R232). -/
def fabricCommand : Instr → Bool
  | .tileWake _ => true
  | .calPass _ _ _ _ _ => true
  | .calibrationEnd _ => true
  | .loopsEnable _ => true
  | .boundaryMarker _ => true
  | .senseFrame _ _ => true
  | .tileOfflineTimeout _ => true
  | .loopStep _ => true
  | .switchMaxExpiry _ => true
  | .settleEnd _ => true
  | .cellFaultQuiet _ => true
  | .lossTrip _ => true
  | .chunkCutoff _ _ _ => true
  | .linkTrain _ _ => true
  | .laneFail _ _ => true
  | .laneRetrain _ _ => true
  | .linkDown _ => true
  | .linkRetrainTimer _ => true
  | .trackerUpdate _ _ _ _ _ => true
  | .trackerSourceLoss _ => true
  | .trackerLost _ => true
  | .treadleMirrorSend => true
  | .treadleSaveDone _ => true
  | .commitPoint _ => true
  | .shuttlePlan _ _ => true
  | .timedCommitDue _ => true
  | .protectDebounce _ => true
  | .restoration _ _ => true
  | .pieceLockTimeout _ => true
  | .rampStep _ => true
  | .reservationTimeout _ => true
  | .raWarmTimeout _ => true
  | .tilthHoldoffExpiry _ => true
  | .sharedDriveStart => true
  | .referenceBurst _ _ => true
  | .tetherHeartbeatTimer => true
  | .heartbeatPTimer => true
  | _ => false

/-! ## Items (R279, R286, R287, R291) -/

/-- The packet that brings an item: it joins the open reply of its sequence, or the packet is taken by the window of R286. -/
def Dev.entry (d : Dev) (src : ItemSrc) (ss : Session) : Dev × Bool :=
  if d.cheda.replies.any (fun (r : ReplyRec) => r.slot = src.slot && r.seq = src.seq && !r.sent) then (d, true)
  else d.takePacket src.slot src.seq ss src.addr

/-- The device when the item has been numbered and entered in the ledger (R287, R289). -/
def Dev.begun (d : Dev) (src : ItemSrc) (op : Nat) (ss : Session) : Dev := ((d.entry src ss).1.newItem src op ss.hostId).1

/-- The item under way. -/
def Dev.itemOf (d : Dev) (src : ItemSrc) (ss : Session) (par : List Byte) : ItemIn :=
  { item := (d.entry src ss).1.cheda.nextItem, slot := src.slot, priv := ss.priv, ctrRead := ss.ctrRead, src := src, par := par }

/-- The item reaches the checks of its opcode: the Cheda cores run, its session is open, its packet is taken, its parameters have the
layout of its opcode and its session the privilege (R279, R282, R287, R296, R421). -/
def Dev.itemReaches (d : Dev) (src : ItemSrc) (ss : Session) (op : Nat) (par : List Byte) : Bool :=
  d.coresRun && src.slot ≠ 0 && d.session src.slot = some ss && !ss.opening && (d.entry src ss).2 && formatGood op par &&
  (AMap.find opcodes op).any (fun p => decide (p ≤ ss.priv)) && ((op ≠ 0x0700 && op ≠ 0x0701) || ss.priv ≠ 0 || ss.ctrRead) &&
  (!(d.begun src op ss).flag F.BOOT_STAT.RECOVERY || recoveryOps.contains op)

/-- The item is run at once: besides, its session has no open transaction, or its opcode runs at once in one (R291). -/
def Dev.itemRuns (d : Dev) (src : ItemSrc) (ss : Session) (op : Nat) (par : List Byte) : Bool :=
  d.itemReaches src ss op par &&
  ((d.begun src op ss).ownTxn src.slot).all (fun _ => !stageable.contains op && runsInTxn.contains op)

/-- The times of the items that a session holds for its group (R124, R149). -/
def Dev.heldTimes (d : Dev) (slot : Nat) : List Nat :=
  (AMap.get d.cir.held slot []).filterMap (fun (m : GroupMem) => if bit m.par.flags 1 then some m.par.time else none)

/-- What TRACE_READ finds from an index (R410): the first index, the oldest kept, the number of records; all ones asks for the newest. -/
def Dev.traceSpan (d : Dev) (src idx want : Nat) : Nat × Nat × Nat :=
  let next := if src = 0 then d.loam.traceNext else d.loam.slackNext
  let oldest := next - (if src = 0 then d.loam.trace.length else d.loam.slack.length)
  let start := if idx = 2 ^ 64 - 1 then max oldest (next - want) else max idx oldest
  (start, oldest, min want (next - start))

/-- The value that TIME_STEP would step by (R332): mode 1 signed, mode 2 a time, mode 3 the measured offset reversed. -/
def Dev.stepValue (d : Dev) (mode value : Nat) : Option Int :=
  match mode with
  | 1 => some (toS 64 value)
  | 2 => some (value : Int)
  | 3 => d.time.meas.map (fun m => -m)
  | _ => none

/-- The result fits the reply to the item's sender (R280). -/
def Dev.fits (d : Dev) (x : ItemIn) (result : List Byte) : Bool :=
  decide ((entryBytes 0 0 0 result).length ≤ d.roomOf x.src.addr 2 - 12 - (if x.slot = 0 then 0 else 16))

/-- The row, on an item that is run at once and meets the condition, answers the next state in which the effect has been had, the item
has ended with the status and the result, and its entry stands in the reply of its packet. -/
def ItemEnds (row : ItemSrc → List Byte → Instr) (op status : Nat) (cond : Dev → ItemIn → Prop) (eff : Dev → ItemIn → Dev)
    (result : Dev → ItemIn → List Byte) : Prop :=
  ∀ (s : State) (src : ItemSrc) (ss : Session) (par : List Byte), s.runs = true → s.dev.itemRuns src ss op par = true →
    cond (s.dev.begun src op ss) (s.dev.itemOf src ss par) →
    (s.dev.begun src op ss).fits (s.dev.itemOf src ss par) (result (s.dev.begun src op ss) (s.dev.itemOf src ss par)) = true →
    exec (row src par) s = .next (s.put
      (((eff (s.dev.begun src op ss) (s.dev.itemOf src ss par)).finish (s.dev.itemOf src ss par).item status
        (result (s.dev.begun src op ss) (s.dev.itemOf src ss par))).replyAdd src.slot src.seq (s.dev.itemOf src ss par).item))

/-- The same of an item that is accepted and goes on: its reply says PENDING until it ends. -/
def ItemGoesOn (row : ItemSrc → List Byte → Instr) (op : Nat) (cond : Dev → ItemIn → Prop) (eff : Dev → ItemIn → Dev) : Prop :=
  ∀ (s : State) (src : ItemSrc) (ss : Session) (par : List Byte), s.runs = true → s.dev.itemRuns src ss op par = true →
    cond (s.dev.begun src op ss) (s.dev.itemOf src ss par) →
    exec (row src par) s = .next (s.put
      ((eff (s.dev.begun src op ss) (s.dev.itemOf src ss par)).replyAdd src.slot src.seq (s.dev.itemOf src ss par).item))

/-- The device with the item staged as the last of the transaction (R291). -/
def Dev.stagedIn (d : Dev) (x : ItemIn) (op : Nat) (t : Txn) : Dev :=
  let t : Txn := { t with staged := t.staged ++ [{ item := x.item, op := op, par := x.par }], lastTb := d.time.tb }
  { d with cheda := { d.cheda with txn := some t } }

/-- The row, on an item that its session's open transaction stages, answers the next state in which the transaction holds it as its
last (R291). -/
def ItemStages (row : ItemSrc → List Byte → Instr) (op : Nat) (cond : Dev → ItemIn → Prop) : Prop :=
  ∀ (s : State) (src : ItemSrc) (ss : Session) (par : List Byte) (t : Txn), s.runs = true → s.dev.itemReaches src ss op par = true →
    (s.dev.begun src op ss).ownTxn src.slot = some t → cond (s.dev.begun src op ss) (s.dev.itemOf src ss par) →
    t.staged.length < 2048 → (t.staged.map (fun (g : Staged) => g.par.length)).sum + par.length ≤ 524288 →
    exec (row src par) s = .next (s.put
      (((s.dev.begun src op ss).stagedIn (s.dev.itemOf src ss par) op t).replyAdd src.slot src.seq (s.dev.itemOf src ss par).item))

end Sys2Proof.Machine
end

