-- ==== Sys2Proof/Certificates/Slice0/Obligations.lean ====
section
/-! DEFINITION. The statements for the provers: what each command does, what it leaves, what a hold stops. -/

open Sys2Proof Sys2Proof.Machine

/-! ## The machine: its queue, what it answers, what a hold stops -/

/-- A step takes the command at the front of the queue and runs it on the queue's rest; on an empty queue the block idles (the queue is the
model's own form of what reaches the block, and idling its choice: DESIGN CHOICE, assumption 4). -/
def Obligations.StepRunsTheFrontCommand : Prop :=
  (∀ (c : Instr) (s : State), step { s with pending := c :: s.pending } = exec c s) ∧
  (∀ s : State, s.pending = [] → step s = .next s)

/-- Every command, on every state and every operand, answers a next state whose queue is the queue's rest as it was: no command ends in a
fault or a refusal (00_scope.md: no input has an undefined result). Choices of the model in it: assumptions 5, 13. -/
def Obligations.EveryCommandAnswersNext : Prop := ∀ (c : Instr) (s : State), ∃ d : Dev, exec c s = .next (s.put d)

/-- While the comparator of R235 holds the module, no command but POWER_ON_RESET, RAIL_UNDERVOLTAGE and THERMTRIP changes anything. Choices
of the model in it: assumption 12. -/
def Obligations.ComparatorStopsCommands : Prop :=
  ∀ (c : Instr) (s : State), s.dev.therm.trip = true → actsTripped c = false → exec c s = .next s

/-- While a thermal shut-down holds the blocks in reset (R232), only the commands of Therm, Marl and Supply, the resets and the comparator
change anything; from its first pick boundary the fabric's blocks stop. Choices of the model in it: assumption 12. -/
def Obligations.ShutdownStopsCommands : Prop :=
  (∀ (c : Instr) (s : State), s.dev.therm.shut = 3 → actsShut c = false → exec c s = .next s) ∧
  (∀ (c : Instr) (s : State), 2 ≤ s.dev.therm.shut → fabricCommand c = true → exec c s = .next s)

/-- The hold is an invariant of every step: while the comparator holds a device and no command of the rails, the power or the comparator
waits, a step leaves the device and brings no such command (R235). Choices of the model in it: assumption 12. -/
def Obligations.ComparatorHoldIsInvariant : Prop :=
  ∀ (d : Dev) (s s' : State), (s.dev = d ∧ d.therm.trip = true ∧ ∀ c ∈ s.pending, actsTripped c = false) → step s = .next s' →
    (s'.dev = d ∧ d.therm.trip = true ∧ ∀ c ∈ s'.pending, actsTripped c = false)

/-- A run of any length while the comparator holds: it never stops, the commands are consumed one a step, and the device is unchanged to the
last bit (R235). Choices of the model in it: assumption 12. -/
def Obligations.ComparatorHoldsEveryRun : Prop :=
  ∀ (k : Nat) (s : State), s.dev.therm.trip = true → (∀ c ∈ s.pending, actsTripped c = false) →
    Sys2Proof.core.run k s = .next { s with pending := s.pending.drop k }

/-- The same for a thermal shut-down that holds the blocks: a run of any length of commands to the held blocks changes nothing (R232).
Choices of the model in it: assumption 12. -/
def Obligations.ShutdownHoldsEveryRun : Prop :=
  ∀ (k : Nat) (s : State), s.dev.therm.shut = 3 → (∀ c ∈ s.pending, actsShut c = false) →
    Sys2Proof.core.run k s = .next { s with pending := s.pending.drop k }

/-! ## Reset, rails, comparator -/

/-- What reset leaves, of the values the spec gives: start-up in stage 1, the pair role RESOLVING, TB and OFFSET zero (R323), both draft
slots empty (R37), every treadle bin zero (R79), every tile OFFLINE and every cell PARKED and dark, the DAC cleared internally (R216), no
session, no event, the throttle at level 0, the core at 0.80 V (R419), no command waiting. -/
def Obligations.ResetLeaves : Prop :=
  State.reset.pending = [] ∧ State.reset.dev.rd F.BOOT_STAT.STAGE = 1 ∧ State.reset.dev.role = Pr.resolving ∧
  State.reset.dev.time.tb = 0 ∧ State.reset.dev.time.ofs = 0 ∧
  (∀ off, draftWord State.reset.dev.draft.active off = 0 ∧ draftWord State.reset.dev.draft.staged off = 0) ∧
  (∀ l b, State.reset.dev.binRd l b = 0) ∧
  (∀ t, State.reset.dev.tileMode t = Tm.offline) ∧ (∀ c, State.reset.dev.cellMode c = Cm.parked ∧ State.reset.dev.lit c = false) ∧
  State.reset.dev.flag F.DAC_STAT.CLR_INT = true ∧ State.reset.dev.cheda.sessions = [] ∧ State.reset.dev.ev.pend = [] ∧
  State.reset.dev.rd F.THERM_STAT.LEVEL = 0 ∧ State.reset.dev.vidCode = 0x50 ∧ State.reset.dev.held = false

/-- POWER_ON_RESET and RESET_N put every block at its reset but for Marl and the fuses, capture the straps, and leave rails and comparator
as they stand; a reset of the device by samples that agree leaves UNIT_ID, PREFER and the tether's node number of the last sample, nothing
else listed (R339, R419, R446). RAIL_UNDERVOLTAGE raises RAIL_UV (its VALUE in mV is a free value, assumption 1: no operand gives it); below
the reset level it resets the unit and holds it; THERMTRIP past its level: the comparator holds, its pin is driven, and every other block is
at its reset; below its level it starts the unit as the release of POR_N does and raises its event (R235, R442). Choices of the model in it:
assumptions 12, 30. -/
def Obligations.ResetsTakeEffect : Prop :=
  (∀ (s : State) (samples : List Nat), exec (.powerOnReset samples) s = .next (s.put (({ s.dev with sup := {} }).resetAll samples))) ∧
  (∀ (s : State) (samples : List Nat), s.coreRuns = true → exec (.resetN samples) s = .next (s.put (s.dev.resetAll samples))) ∧
  (∀ (d : Dev) (x : Nat) (samples : List Nat), samples.getLast? = some x → (∀ y ∈ samples, y % 4 = x % 4) →
    d.resetAll samples =
      ((d.fresh.wr F.SLV_STAT.UNIT_ID (x % 2)).wr F.SLV_STAT.PREFER (x / 2 % 2)).wr F.TETH_CTRL.PLCA_ID (x % 2)) ∧
  (∀ (s : State) (rail : Nat), rail < 12 → s.dev.sup.low.contains rail = false →
    exec (.railUndervoltage rail 1) s =
      .next (s.put (((s.dev.draw (2 ^ 32)).2.raise 0x2C 8 0xFF (s.dev.draw (2 ^ 32)).1).withLow (s.dev.sup.low ++ [rail])))) ∧
  (∀ (s : State) (rail : Nat), rail < 12 → ∃ t : State, exec (.railUndervoltage rail 2) s = .next t ∧ t.pending = s.pending ∧
    t.dev.sup.held = true ∧ t.dev.held = true ∧ t.dev.nv = s.dev.nv ∧ t.dev.cir = {} ∧ t.dev.cheda = {} ∧ t.dev.draft = {} ∧
    t.dev.time = {}) ∧
  (∀ (s : State) (rail : Nat), rail < 12 → exec (.railUndervoltage rail 0) s =
    .next (s.put (s.dev.withLow (s.dev.sup.low.filter (· ≠ rail))))) ∧
  (∀ s : State, s.dev.therm.trip = true → exec (.thermtrip false) s =
    .next (s.put (((s.dev.withTrip false).resetAll [s.dev.strapsNow]).raise 0x20 11 0 0))) ∧
  (∀ s : State, s.dev.therm.trip = false → ∃ t : State, exec (.thermtrip true) s = .next t ∧ t.pending = s.pending ∧
    t.dev.therm.trip = true ∧ t.dev.therm.tripPin = true ∧ t.dev.held = true ∧ t.dev.nv = s.dev.nv ∧
    t.dev.sup.low = s.dev.sup.low ∧ t.dev.sup.held = s.dev.sup.held ∧ t.dev.sup.vid = 800 ∧
    t.dev.cir = {} ∧ t.dev.cheda = {} ∧ t.dev.draft = {} ∧ t.dev.time = {} ∧ t.dev.boot = {})

/-- A plain write of a register word, by the access codes of R7: an RW field takes its bits, a W1C field clears where a 1 is written, fields
of the other codes and every field that is not of the word keep their value; the memory keeps its canonical form. -/
def Obligations.StoredWordTakesAccessCodes : Prop :=
  ∀ (d e : Dev) (a base : Nat) (idx : List Nat) (fields : List FRow) (v : Nat), (fields.map FRow.lo).Nodup → (∀ f ∈ fields, f.lo < 32) →
    e = d.storeWord a base idx fields v →
    (∀ f ∈ fields, f.acc = .rw → AMap.get e.mem (a * 32 + f.lo) (rowRst base idx f) = v / 2 ^ f.lo % 2 ^ f.width) ∧
    (∀ f ∈ fields, f.acc = .w1c → ∀ i : Nat, (AMap.get e.mem (a * 32 + f.lo) (rowRst base idx f)).testBit i =
      ((AMap.get d.mem (a * 32 + f.lo) (rowRst base idx f)).testBit i && !(v / 2 ^ f.lo % 2 ^ f.width).testBit i)) ∧
    (∀ (k r : Nat), (∀ f ∈ fields, k = a * 32 + f.lo → f.acc ≠ .rw ∧ f.acc ≠ .w1c) → AMap.get e.mem k r = AMap.get d.mem k r) ∧
    (AMap.wf d.mem = true → AMap.wf e.mem = true) ∧ e = { d with mem := e.mem }
/-! ## Start-up (chapter 20) -/

/-- What supplies, boot and self-test do (R419, R420, R421, R423, R444): the late report of the core supply; VID moved by 10 mV towards its
target, not before 1 ms after the last move, the pins' mismatch reported, the target's arrival reported; secure boot with one good image,
with none; a self-test that fails, and one that passes with AUTO = 1 and with AUTO = 0. Choices of the model in it: assumptions 6, 10, 32,
34. -/
def Obligations.SupplyAndBootActs : Prop :=
  (∀ s : State, s.runs = true → s.dev.stage = 1 → s.dev.boot.vidLate = false → s.dev.before 5000000 = true →
    ∀ e, e = s.dev.wait 5000000 →
    exec .vidNotReached s = .next (s.put { e.raise 0x2C 4 0xFF 800 with boot := { e.boot with vidLate := true } })) ∧
  (∀ (s : State) (ok : Bool) (v : Nat), s.runs = true → 2 < s.dev.stage → s.dev.before (s.dev.sup.vidTb + 1000000) = true →
    s.dev.sup.vid ≠ s.dev.vidTarget →
    v = (if s.dev.sup.vid < s.dev.vidTarget then min s.dev.vidTarget (s.dev.sup.vid + 10) else max s.dev.vidTarget (s.dev.sup.vid - 10)) →
    ∀ w e : Dev, w = s.dev.wait (s.dev.sup.vidTb + 1000000) → e = { w with sup := { w.sup with vid := v, vidTb := w.time.tb } } →
    ∀ r : Dev, r = (if ok then e else e.raise 0x2C 11 0xFF v) →
    exec (.vidStep ok) s = .next (s.put (if v = s.dev.vidTarget then r.raise 0x2C 3 0 v else r))) ∧
  (∀ (s : State) (good : Bool) (k : Nat) (i : Image), s.runs = true → s.dev.stage = 1 → s.dev.nv.slots = [(k, i)] → i.good = true →
    s.dev.nv.fuse ≤ i.secVer → s.dev.nv.preferred = k →
    ∀ m w e : Dev, m = (s.dev.setStage 2).marlMount → w = (m.wr F.BOOT_STAT.SLOT k).wr F.BOOT_VER.VERSION i.version →
    e = { w with boot := { w.boot with image := some i } } →
    exec (.secureBoot good) s = .next (s.put ((e.loadConfig good).setStage 3))) ∧
  (∀ (s : State), s.runs = true → s.dev.stage = 1 → s.dev.nv.slots = [] →
    exec (.secureBoot true) s = .next (s.put (((((s.dev.setStage 2).marlMount).loadMarl true (fun k => stationKeys.contains k)).raise
      0x01 3 0 0).setFlag F.BOOT_STAT.RECOVERY true))) ∧
  (∀ (s : State) (failed : Nat) (bursts : List Nat) (cals : List (Int × Int)), s.runs = true → s.dev.stage = 3 → s.dev.boot.held = false →
    s.dev.rd F.BOOT_STAT.WAIT ≠ 4 →
    ∀ b e : Dev, b = forEach bursts.zipIdx (fun (pe : Nat × Nat) (d : Dev) => d.refBurst pe.2 pe.1) s.dev →
    e = forEach cals.zipIdx (fun (ck : (Int × Int) × Nat) (d : Dev) =>
      if ck.2 < 2 then (d.svCalTake ck.2 ck.1.1 ck.1.2).updConv ck.2 (fun c => { c with spoilt := true }) else d) b →
    ∀ slow conv : Bool, slow = bursts.zipIdx.any (fun (pe : Nat × Nat) => s.dev.burstSlow pe.2 pe.1) →
    conv = (List.range 2).any (fun k => e.rd (F.SV_STAT.CAL_RESULT k) ≠ 1) →
    (failed = 1 ∨ failed ≠ 0 ∧ slow = false ∧ (conv = false ∨ failed ≤ 4) →
      exec (.selfTest failed bursts cals) s = .next (s.put ((e.raise 0x01 11 failed 0).setWait 4))) ∧
    (failed ≠ 1 → slow = true → exec (.selfTest failed bursts cals) s = .next (s.put ((e.raise 0x01 11 2 0).setWait 4))) ∧
    (failed = 0 ∨ 4 < failed → slow = false → conv = true →
      exec (.selfTest failed bursts cals) s = .next (s.put ((e.raise 0x01 11 4 0).setWait 4))) ∧
    (failed = 0 → slow = false → conv = false → e.flag F.START_CFG.AUTO = true →
      exec (.selfTest failed bursts cals) s = .next (s.put e.startStage4)) ∧
    (failed = 0 → slow = false → conv = false → e.flag F.START_CFG.AUTO = false →
      exec (.selfTest failed bursts cals) s =
        .next (s.put { e.setWait 3 with boot := { (e.setWait 3).boot with held := true, waitNext := 0 } })))

/-- The stages of start-up move on (R417, R424, R428, R429, R434, R439): GO ends a hold and nothing else; stage 5 ends when its tiles are
discovered, or when DISCOVER_S has passed; a tile's wake runs while it is FENCED and its entries have left; a settled tile begins its
calibration through its wake, one that has not settled in time is deferred; stages 9 and 10 run once the tile's band is set; READY and
READY_STANDBY are reported once. Choices of the model in it: assumptions 10, 31. -/
def Obligations.StartUpMovesOn : Prop :=
  (∀ (s : State) (v : Nat), s.runs = true → s.dev.boot.held = false → exec (.go v) s = .next s) ∧
  (∀ (s : State) (v : Nat), s.runs = true → s.dev.boot.held = true →
    ∀ w e : Dev, w = s.dev.setWait s.dev.boot.waitNext → e = { w with boot := { w.boot with held := false, waitNext := 0 } } →
    (s.dev.stage = 3 → exec (.go v) s = .next (s.put e.startStage4)) ∧
    (s.dev.stage = 5 → exec (.go v) s = .next (s.put e.startResolution))) ∧
  (∀ s : State, s.runs = true → s.dev.stage = 5 → s.dev.boot.held = false → s.dev.rd F.BOOT_STAT.WAIT ≠ 1 →
    s.dev.discoveryDone = true → exec .tileDiscovery s = .next (s.put s.dev.endStage5)) ∧
  (∀ s : State, s.runs = true → s.dev.stage = 5 → s.dev.boot.held = false →
    s.dev.before (s.dev.boot.stageTb + 1000000000 * max 1 (s.dev.rd F.START_CFG.DISCOVER_S)) = true →
    exec .discoverTimeout s =
      .next (s.put (s.dev.wait (s.dev.boot.stageTb + 1000000000 * max 1 (s.dev.rd F.START_CFG.DISCOVER_S))).endStage5)) ∧
  (∀ (s : State) (t : Nat), s.fabricRuns = true → t < 16 → s.dev.controls = true → (s.dev.link t).wake ≠ [] →
    s.dev.tileMode t = Tm.fenced → (s.dev.link t).modeQ = [] → exec (.tileWake t) s = .next (s.put (s.dev.tileWake t))) ∧
  (∀ (s : State) (t : Nat) (x : TileStart), s.runs = true → t < 16 → s.dev.tileStart t = some x → x.stage = 8 → x.settled = false →
    x.deferred = false → s.dev.isActive = true → s.dev.tileMode t = Tm.fenced → s.dev.isSettled x = true →
    (∀ w, x.wakeEnd = some w → s.dev.time.tb ≤ w + 1000000000 * s.dev.rd F.START_CFG.STABLE_MAX_S) →
    exec (.thermalSettled t) s = .next (s.put (((s.dev.updStart t (fun y => { y with settled := true, temps := [] })).startCal
      { tile := t, cell := none, pass := 0, item := none, fails := 0, aborted := false, stage8 := true }).startWake t (some Tm.cal) [] false))) ∧
  (∀ (s : State) (t w : Nat) (x : TileStart), s.runs = true → t < 16 → s.dev.tileStart t = some x → x.stage = 8 → x.settled = false →
    x.deferred = false → x.wakeEnd = some w → s.dev.before (w + 1000000000 * s.dev.rd F.START_CFG.STABLE_MAX_S) = true →
    exec (.calDeferred t) s = .next (s.put (((s.dev.wait (w + 1000000000 * s.dev.rd F.START_CFG.STABLE_MAX_S)).updStart t
      (fun y => { y with deferred := true, temps := [] })).raise 0x2C 10 t 0))) ∧
  (∀ (s : State) (t : Nat) (x : TileStart), s.fabricRuns = true → t < 16 → s.dev.tileStart t = some x → x.stage = 9 →
    s.dev.isActive = true → s.dev.tileMode t = Tm.fenced → s.dev.therm.bandKnown.contains t = true →
    ∀ e : Dev, e = ((if (s.dev.loadRecords t).boot.crcBad then s.dev.loadRecords t else (s.dev.loadRecords t).treadleLoad t).enableLoops
      t).updStart t (fun y => { y with stage := 10 }) →
    exec (.loopsEnable t) s = .next (s.put
      (if e.flag F.START_CFG.AUTO_ACTIVATE then e.startWake t (some Tm.active) [] false else e).showStage)) ∧
  (∀ (s : State) (n : Nat), s.runs = true → s.dev.boot.okRaised = false → s.dev.readyStage = some n →
    ∀ e w : Dev, e = (if n = 11 then (s.dev.setStage n).raiseFuse else s.dev.setStage n) →
    w = e.setFlag F.BOOT_STAT.WARM (n = 11 && !e.boot.calibrated) →
    exec .bootOk s = .next (s.put ({ w with boot := { w.boot with okRaised := true } }.raise 0x01 0 n 0)))

/-- Calibration (R431, R433): a pass of the unit in pair role ACTIVE runs on the tile's or cell's run that is at it, in CAL mode, and on
nothing else; the unit in STANDBY takes the same measurements into records marked SHADOW; a run whose passes are done ends and its
generation is saved, a tile's run with CAL_VALID by its failures and its tile going to FENCED; ABORT with nothing running and SAVE with none
queued do what R433 says of them. Choices of the model in it: assumption 25. -/
def Obligations.CalibrationActs : Prop :=
  (∀ (s : State) (t q wit : Nat) (cells : List CellMeas) (ports : List PortMeas) (job : Nat → CalJob), s.fabricRuns = true → t < 16 →
    q < 17 → s.dev.isActive = true → s.dev.role ≠ Pr.standby →
    (∀ c, job c = { cell := c, step := 0, point := 0, left := 0
                    meas := (cells.filter (fun (m : CellMeas) => cellTile m.cell = t && calPassOf m.cell = q)).find?
                      (fun (m : CellMeas) => m.cell = c) }) →
    (s.dev.cal.runs.find? (fun (r : CalRun) => r.tile = t && decide (r.pass = q)) = none →
      exec (.calPass t q cells ports wit) s = .next s) ∧
    (∀ r : CalRun, s.dev.cal.runs.find? (fun (r : CalRun) => r.tile = t && decide (r.pass = q)) = some r →
      (r.lit = true → exec (.calPass t q cells ports wit) s = .next s) ∧
      (∀ c, r.lit = false → r.cell = some c →
        (s.dev.cellMode c ≠ Cm.cal → exec (.calPass t q cells ports wit) s = .next s) ∧
        (s.dev.cellMode c = Cm.cal → exec (.calPass t q cells ports wit) s =
          .next (s.put (s.dev.passOpen { r with work := [job c] } (calSource (c % 3840) 0 true true) [])))) ∧
      (r.lit = false → r.cell = none → s.dev.tileMode t ≠ Tm.cal → exec (.calPass t q cells ports wit) s = .next s) ∧
      (r.lit = false → r.cell = none → s.dev.tileMode t = Tm.cal →
        ∀ (d : Dev) (cs : List Nat), d = (s.dev.wr F.CAL_STAT.TILE t).wr F.CAL_STAT.PASS q →
        cs = ((List.range 3840).map (fun i => t * 3840 + i)).filter (fun c => calPassOf c = q && d.cellMode c = Cm.parked) →
        (q = 16 → exec (.calPass t q cells ports wit) s =
          .next (s.put (d.passOpen { r with ports := ports, wit := wit } (calSource 0 16 false true) []))) ∧
        (q ≠ 16 → exec (.calPass t q cells ports wit) s =
          .next (s.put (d.passOpen { r with work := cs.map job } (calSource 0 q false true) cs)))))) ∧
  (∀ (s : State) (t q wit : Nat) (cells : List CellMeas) (ports : List PortMeas), s.fabricRuns = true → t < 16 → q < 16 →
    s.dev.role = Pr.standby →
    exec (.calPass t q cells ports wit) s = .next (s.put (forEach
      (cells.filter (fun (m : CellMeas) => cellTile m.cell = t && calPassOf m.cell = q)) (fun m (d : Dev) => (d.takeMeas m true).1) s.dev))) ∧
  (∀ (s : State) (t : Nat), s.fabricRuns = true → t < 16 → s.dev.role = Pr.standby → (AMap.find s.dev.cal.recs.heads t).isSome = true →
    exec (.calibrationEnd t) s = .next (s.put ((s.dev.holdCal t true).marlAsk 3 .cal none))) ∧
  (∀ (s : State) (t : Nat), s.fabricRuns = true → t < 16 → s.dev.role = Pr.standby → AMap.find s.dev.cal.recs.heads t = none →
    exec (.calibrationEnd t) s = .next s) ∧
  (∀ (s : State) (t : Nat), s.fabricRuns = true → t < 16 → s.dev.role ≠ Pr.standby →
    (s.dev.cal.runs.find? (fun (r : CalRun) => r.tile = t && r.pass = 17) = none → exec (.calibrationEnd t) s = .next s) ∧
    (∀ (r : CalRun) (e : Dev), s.dev.cal.runs.find? (fun (r : CalRun) => r.tile = t && r.pass = 17) = some r →
      e = ({ s.dev with cal := { s.dev.cal with runs := s.dev.cal.runs.filter (fun (x : CalRun) => x ≠ r) } } : Dev).setFlag
        F.CAL_STAT.RUNNING (!(s.dev.cal.runs.filter (fun (x : CalRun) => x ≠ r)).isEmpty) →
      (r.cell.isSome = true → exec (.calibrationEnd t) s = .next (s.put ((e.marlAsk 3 .cal none).finishOpt r.item St.ok []))) ∧
      (r.cell = none → ∀ w x : Dev, w = (e.setFlag (F.TILE_MODE.CAL_VALID t) (decide (r.fails ≤ e.rd F.CAL_CFG.FAIL_MAX))).holdCal t false →
        x = { w with boot := { w.boot with
          calibrated := true
          tiles := w.boot.tiles.map (fun (ts : Nat × TileStart) =>
            if ts.1 = t && ts.2.stage = 8 then (t, { ts.2 with stage := if r.fails ≤ w.rd F.CAL_CFG.FAIL_MAX then 9 else 8 }) else ts) } } →
        exec (.calibrationEnd t) s =
          .next (s.put (((x.tileTrigger t Tm.fenced false []).marlAsk 3 .cal none).finishOpt r.item St.ok []))))) ∧
  (∀ (s : State) (v : Nat), s.runs = true → s.dev.isActive = true →
    exec (.abort v) s = .next (s.put (if bit v 1 && !s.dev.calAbort.marlHas .cal then s.dev.calAbort.calSave else s.dev.calAbort))) ∧
  (∀ (s : State) (v : Nat), s.runs = true → s.dev.isActive = true → bit v 0 = false → s.dev.marlHas .cal = false →
    exec (.save v) s = .next (s.put (s.dev.marlAsk 3 .cal none))) ∧
  (∀ (s : State) (v : Nat), s.dev.isActive = false → exec (.abort v) s = .next s ∧ exec (.save v) s = .next s)

/-! ## The pick, the links, the loops and the cells (chapters 1, 3, 5, 8) -/

/-- The pick boundary (R13), in every state: what the pick that ends leaves is settled first, when the pick has started, and the DAC's edges
up to the boundary run; the boundary is one number on; a reset of the unit that is due there takes the place of its work, a shut-down has
work of its own, and every other boundary changes the pick's length where that is due and does the boundary's work, for a beat of the length
that ends there. Choices of the model in it: assumptions 14, 87. -/
def Obligations.PickBoundaryActs : Prop :=
  (∀ (s : State) (slack : List Nat), s.runs = true →
    ∀ w e : Dev, w = (if s.dev.pick.started && decide (s.dev.therm.shut < 2) then s.dev.pickEnd slack else s.dev) →
    e = (w.dacUpTo (w.nextTb - 1)).nextBoundary →
    exec (.pickBoundary slack) s = .next (s.put (if e.boot.resetAt.any (fun t => decide (t ≤ e.time.tb)) then e.resetSelf
      else if 0 < e.therm.shut then e.shutBoundary.unhear else (e.rateChange.boundaryWork (e.beatLen * e.pickNs)).unhear))) ∧
  (∀ d : Dev, (d.nextBoundary).pick.num = (if d.pick.started then d.pick.num + 1 else 0) ∧ (d.nextBoundary).pick.started = true) ∧
  (∀ (d : Dev) (t : Nat), d.dac.agenda = [] → d.dacUpTo t = d)

/-- The picks and beats of R12: the divisor of the 1 GHz timebase at each rate, and the beat of 16 picks. -/
def Obligations.PickLengths : Prop :=
  (∀ d : Dev, d.pick.rate = 3 → d.pickNs = 2500) ∧ (∀ d : Dev, d.pick.rate = 2 → d.pickNs = 5000) ∧
  (∀ d : Dev, d.pick.rate = 1 → d.pickNs = 10000) ∧ (∀ d : Dev, d.pick.rate = 0 → d.pickNs = 20000) ∧
  (∀ d : Dev, d.beatLen = 16 → (d.pick.rate = 3 → d.beatLen * d.pickNs = 40000) ∧ (d.pick.rate = 2 → d.beatLen * d.pickNs = 80000) ∧
    (d.pick.rate = 1 → d.beatLen * d.pickNs = 160000) ∧ (d.pick.rate = 0 → d.beatLen * d.pickNs = 320000)) ∧
  (∀ (d : Dev) (k : Nat), d.pick.chgPick ≤ k → d.tbOf (k + 1) = d.tbOf k + d.pickNs)

/-- The adjacency of R29: cell (j, e) is adjacent to (j, e - 1), (j, e + 1), (j - 1, e) and (j + 1, e) where these exist within stages 0 to
14, and to no other cell. -/
def Obligations.AdjacencyIsR29 : Prop :=
  ∀ t j e x : Nat, t < 16 → j < 15 → e < 256 →
    (x ∈ adjacent (cellNo t j e) ↔
      (0 < e ∧ x = cellNo t j (e - 1)) ∨ (e + 1 < 256 ∧ x = cellNo t j (e + 1)) ∨
      (0 < j ∧ x = cellNo t (j - 1) e) ∨ (j + 1 < 15 ∧ x = cellNo t (j + 1) e))

/-- What comes from a tile and goes to it (R108, R170, R177, R178): the boundary marker leaves ahead by the link's flight; a sense frame
with a bad CRC gives its blocks and no reading, one without thermal samples its claims; a chunk closes when every loop due has handed over,
else at its cut-off, and leaves those loops out; a tile in HOLDOVER goes OFFLINE 50 ms after its last acknowledgement. Choices of the model
in it: assumptions 3, 10, 36. -/
def Obligations.TileFramesAct : Prop :=
  (∀ (s : State) (d : Dev) (t : Nat), s.dev = d → s.fabricRuns = true → t < 16 → d.linkUp t = true →
    ∀ ps : Nat, ps = d.tbOf (d.pick.num + 1) * 1000 - d.rd (F.WEFT_FLIGHT.FLIGHT_PS t) →
    exec (.boundaryMarker t) s = .next (s.put ((d.advance (ps / 1000)).updLink t
      (fun k => { k with marker := some (ps * 2 / 125, markerBlock (d.pick.num + 1)) })))) ∧
  (∀ (s : State) (d : Dev) (t : Nat) (ls : List (List Nat)) (f : SenseFrame), s.dev = d → s.fabricRuns = true → t < 16 → d.linkUp t = true →
    (d.link t).heard = false → f = parseSense t ls →
    (f.crcOk = false → (d.senseFrame t f).pick.num % 16 ≠ 0 → exec (.senseFrame t ls) s = .next (s.put (d.senseFrame t f))) ∧
    (f.crcOk = false → (d.senseFrame t f).pick.num % 16 = 0 →
      exec (.senseFrame t ls) s = .next (s.put ((d.senseFrame t f).tileReadingFails t 0))) ∧
    (f.crcOk = true → bit (f.words.getD 0 0) 18 = false →
      exec (.senseFrame t ls) s = .next (s.put ((d.senseFrame t f).senseClaims (f.words.getD 1 0)))) ∧
    (f.crcOk = true → bit (f.words.getD 0 0) 18 = true → f.tailOk = false →
      exec (.senseFrame t ls) s = .next (s.put (((d.senseFrame t f).senseClaims (f.words.getD 1 0)).tileReadingFails t 0))) ∧
    (f.crcOk = true → bit (f.words.getD 0 0) 18 = true → f.tailOk = true →
      ∀ a b : Dev, a = (d.senseFrame t f).senseClaims (f.words.getD 1 0) →
      b = (a.tileTemp t f.thermal ((a.link t).flags.map (fun w => w % 65536))).settleNote t →
      exec (.senseFrame t ls) s = .next (s.put (if b.tecValid t then b.tecStep t (b.rdS (F.TILE_TEMP.TEMP t)) else b)))) ∧
  (∀ (s : State) (d : Dev) (t c slack : Nat), s.dev = d → s.fabricRuns = true → t < 16 → c < 16 → d.linkUp t = true →
    (d.link t).closed.contains c = false →
    (d.leftOut t c = [] → exec (.chunkCutoff t c slack) s = .next (s.put (d.chunkClose t c slack))) ∧
    (d.leftOut t c ≠ [] → d.before (d.cutoff t c) = true →
      exec (.chunkCutoff t c slack) s = .next (s.put ((d.wait (d.cutoff t c)).chunkClose t c slack))) ∧
    d.chunkClose t c slack = (forEach (d.leftOut t c) (fun l (e : Dev) => (e.omitted l).lateStep l 0) d).updLink t (fun k => { k with
      closed := k.closed ++ [c]
      slackBeat := some (match k.slackBeat with
        | some b => min b slack
        | none => slack) })) ∧
  (∀ (s : State) (d : Dev) (t due : Nat), s.dev = d → s.fabricRuns = true → t < 16 → d.controls = true → d.tileMode t = Tm.holdover →
    due = ((d.link t).ackTb.getD 0) + 50000000 → due < d.tbOf (d.pick.num + 1) →
    exec (.tileOfflineTimeout t) s = .next (s.put ((d.advance due).tileTrigger t Tm.offline false [])))

/-- The links (R172, R186, R187, R190): training from stage 4 on, a link lost, its retrain every 100 ms, the retrain and the burst that a
write of WEFT_CTRL asks for; a lane that fails or comes back. Choices of the model in it: assumptions 7, 10, 53. -/
def Obligations.LinksAct : Prop :=
  (∀ (s : State) (d : Dev) (t : Nat) (r : TrainResult), s.dev = d → s.fabricRuns = true → t < 16 → 4 ≤ d.stage →
    d.rd (F.WEFT_STAT.LINK t) = 1 →
    ∀ e w : Dev, e = d.linkTrain t r →
    w = { e with boot := { e.boot with tried := if e.boot.tried.contains t then e.boot.tried else e.boot.tried ++ [t] } } →
    exec (.linkTrain t r) s = .next (s.put w.stage4Check)) ∧
  (∀ (s : State) (d : Dev) (t : Nat), s.dev = d → s.fabricRuns = true → t < 16 → d.linkUp t = true →
    exec (.linkDown t) s = .next (s.put (((((d.wr (F.WEFT_STAT.LINK t) 0).raise (weftBlock t) 1 (laneObj t (63 - (d.link t).lanes)) 1).updLink t
      (fun k => { k with sent := none, heard := false, trained := false })).bump (F.WEFT_STAT.RETRAINS t) 1).trainStart t))) ∧
  (∀ (s : State) (d : Dev) (t : Nat), s.dev = d → s.fabricRuns = true → t < 16 → d.rd (F.WEFT_STAT.LINK t) = 0 → 4 ≤ d.stage →
    d.before ((d.link t).trainTb + retrainNs) = true →
    exec (.linkRetrainTimer t) s =
      .next (s.put (((d.wait ((d.link t).trainTb + retrainNs)).bump (F.WEFT_STAT.RETRAINS t) 1).trainStart t))) ∧
  (∀ (s : State) (d : Dev) (t : Nat) (r : LaneReport), s.dev = d → s.fabricRuns = true → t < 16 → r.lane < 6 →
    d.linkUp t = true → bit (d.link t).lanes r.lane = true →
    (r.lock = false ∨ (r.bad.length = 4 ∧ ∀ n ∈ r.bad, 16 < n) → exec (.laneFail t r) s = .next (s.put (d.laneFail t r.lane))) ∧
    (r.lock = true → (r.bad.length ≠ 4 ∨ ∃ n ∈ r.bad, n ≤ 16) → exec (.laneFail t r) s = .next s)) ∧
  (∀ (s : State) (d e : Dev) (t passed : Nat), s.dev = d → s.fabricRuns = true → t < 16 → d.linkUp t = true → (d.link t).lanes ≠ 63 →
    d.before ((d.link t).laneTb + retrainNs) = true → e = d.wait ((d.link t).laneTb + retrainNs) →
    exec (.laneRetrain t passed) s = .next (s.put (e.updLink t (fun k => { k with laneTb := e.time.tb
                                                                                  rejoin := ((bitsSet (e.goodLanes t (passed % 64)) 6).filter
                                                                                    (fun i => !bit (d.link t).lanes i)).foldl
                                                                                    (fun a i => putBit a i true) k.rejoin })))) ∧
  (∀ (s : State) (d : Dev) (t v : Nat), s.dev = d → s.runs = true → t < 16 →
    exec (.retrain t v) s = .next (s.put (d.weftCtrlWrite t (putBit v 0 true))) ∧
    exec (.burst t v) s = .next (s.put (d.weftCtrlWrite t (putBit v 1 true)))) ∧
  (∀ (d : Dev) (t v : Nat), bits v 13 8 = d.rd (F.WEFT_CTRL.LANE_DIS t) → bit v 0 = true → bit v 1 = false →
    (d.wr (F.WEFT_CTRL.LANE_DIS t) (bits v 13 8)).flag (F.WEFT_CTRL.RETRAIN t) = false →
    d.weftCtrlWrite t v = ((d.wr (F.WEFT_CTRL.LANE_DIS t) (bits v 13 8)).retrainStart t).setFlag (F.WEFT_CTRL.RETRAIN t) true) ∧
  (∀ (d : Dev) (t v : Nat), bits v 13 8 = d.rd (F.WEFT_CTRL.LANE_DIS t) → bit v 0 = false → bit v 1 = true →
    d.weftCtrlWrite t v = (d.wr (F.WEFT_CTRL.LANE_DIS t) (bits v 13 8)).updLink t (fun k => { k with burst := true }))

/-- The loops and cells inside a pick (R61, R98, R105, R106, R146): a step of an enabled loop whose tile is ACTIVE, left out where its entry
would end past the frame's deadline; the transitions that a cell's timers ask for at the next boundary; a lost output that has its armed
alternate. Choices of the model in it: assumptions 10, 11, 14, 38, 80. -/
def Obligations.LoopsAndCellsAct : Prop :=
  (∀ (s : State) (d : Dev) (l : Nat), s.dev = d → s.fabricRuns = true → l < 65536 → d.controls = true → d.tileRole (loopTile l) ≠ 0 →
    d.tileMode (loopTile l) = Tm.active → d.stepOpen l = true → (d.laux l).stepped ≠ some d.pick.num → d.stepDue l = true →
    ∀ e : Dev, (isVoa l = true ∧ e = (d.keepLoop l).voaStep l) ∨ (isVoa l = false ∧ d.flag (F.LOOP.EN l) = true ∧
      (d.cellMode (loopCell l) = Cm.hold ∨ d.cellMode (loopCell l) = Cm.switch ∨ d.cellMode (loopCell l) = Cm.settle ∨
        d.cellMode (loopCell l) = Cm.piece) ∧ e = (d.keepLoop l).thStep l) →
    ∀ new : Option Nat, new = AMap.find (e.link (loopTile l)).codes l →
    (new = AMap.find (d.link (loopTile l)).codes l ∨ new.all (d.entryFits l) = true → exec (.loopStep l) s = .next (s.put e)) ∧
    (new ≠ AMap.find (d.link (loopTile l)).codes l → new.all (d.entryFits l) = false →
      exec (.loopStep l) s = .next (s.put (((d.omitted l).lateStep l 0).updLaux l (fun a => { a with stepped := some d.pick.num }))))) ∧
  (∀ (s : State) (d : Dev) (c : Nat), s.dev = d → s.fabricRuns = true → c < 61440 → d.controls = true → d.cellMode c = Cm.switch →
    d.tileMode (cellTile c) = Tm.active → (d.caux c).entry + max 1 (d.rd F.CELL_CFG.SWITCH_MAX) ≤ d.pick.num + 1 →
    exec (.switchMaxExpiry c) s = .next (s.put (d.trigger c 9 (.arrive true)))) ∧
  (∀ (s : State) (d : Dev) (c : Nat), s.dev = d → s.fabricRuns = true → c < 61440 → d.controls = true → d.cellMode c = Cm.settle →
    d.tileMode (cellTile c) = Tm.active → 1 ≤ (d.caux c).steps → d.shareAt c (d.tbOf (d.pick.num + 1)) ≤ 1 →
    exec (.settleEnd c) s = .next (s.put (d.trigger c 9 .settled))) ∧
  (∀ (s : State) (d : Dev) (c : Nat), s.dev = d → s.fabricRuns = true → c < 61440 → d.controls = true → d.cellMode c = Cm.faulted →
    d.causeStands c = false → (d.caux c).quietFrom + d.cellQuietNs < d.tbOf (d.pick.num + 1) → d.tileMode (cellTile c) = Tm.active →
    exec (.cellFaultQuiet c) s = .next (s.put (((d.advance ((d.caux c).quietFrom + d.cellQuietNs)).updAux c
      (fun a => { a with causes := [] })).trigger c 1 .clear))) ∧
  (∀ (s : State) (d e : Dev) (l n a : Nat), s.dev = d → s.fabricRuns = true → l < 65536 → d.controls = true →
    max 1 (d.rd F.CIRC_CFG.TRIP_PICKS) ≤ AMap.get d.cir.trips l 0 → d.portUse (loopTile l) (l % 256) = some (n, true) →
    e = { d with cir := { d.cir with trips := AMap.del d.cir.trips l } } → e.altOf (e.eId n) = some a → e.flag (F.CIR.AUTO a) = true →
    ∀ w : Dev, w = e.raise 0x0C 6 (e.eId n) (e.rd (F.CIR.CSN n)) →
    exec (.lossTrip l) s = .next (s.put (if w.flag (F.CIR.BROKEN a) then w.raise 0x0C 4 (w.eId n) (w.rd (F.CIR.CSN n))
      else w.queueProtect (w.eId n))))

/-! ## The treadle (chapter 4), drafts and the pick's registers (chapters 1, 2) -/

/-- The trackers (R82, R83) and the treadle's tables to the peer and to Marl (R93, R95). Choices of the model in it: assumptions 10, 43, 44.
-/
def Obligations.TreadleActs : Prop :=
  (∀ (s : State) (d : Dev) (n due : Nat), s.dev = d → s.fabricRuns = true → n < 4 → (d.trk n).mode = 1 → d.trkState n ≠ 0 →
    due = (d.trk n).updTb + ((d.trk n).updNo + 1) * nominalPeriod (d.trk n).fund / 16 → d.before due = true →
    exec (.trackerUpdate n () () () ()) s = .next (s.put ((d.wait due).trackerMix n))) ∧
  (∀ (s : State) (d e : Dev) (n : Nat), s.dev = d → s.fabricRuns = true → n < 4 → (d.trk n).mode = 1 → (d.trk n).lost = false →
    d.before ((d.trk n).lastWord + 1000001) = true →
    e = ((d.wait ((d.trk n).lastWord + 1000001)).raise 0x1D 10 n 0).updTrk n (fun t => { t with lost := true }) →
    (d.trkState n = 2 → exec (.trackerSourceLoss n) s = .next (s.put (e.updTrk n (fun t => { t with goes := some 3 })))) ∧
    (d.trkState n = 1 ∨ d.trkState n = 3 →
      exec (.trackerSourceLoss n) s = .next (s.put (e.updTrk n (fun t => { t with lockRun := 0 }))))) ∧
  (∀ (s : State) (d : Dev) (n due : Nat), s.dev = d → s.fabricRuns = true → n < 4 → d.trkState n = 3 →
    due = (d.trk n).coastTb + max 1 (d.rd (F.TRK_CFG.COAST_MAX n)) * nominalPeriod (d.trk n).fund → d.before due = true →
    exec (.trackerLost n) s = .next (s.put ((d.wait due).updTrk n (fun t => { t with goes := some 4 })))) ∧
  (∀ (s : State) (d : Dev), s.dev = d → s.fabricRuns = true → d.controls = true → d.rd F.TRD_MIRROR.RATE ≠ 0 → d.trd.dirty = [] →
    d.trd.dirtyClear = [] →
    exec .treadleMirrorSend s = .next (s.put ({ d with trd := { d.trd with sweepAt := 0, sweepFrom := some d.time.tb } }.wr
      F.TRD_SWEEP.SWEEP_MS (min ((d.time.tb - d.trd.sweepFrom.getD d.time.tb) / 1000000) 65535)))) ∧
  (∀ (s : State) (d : Dev), s.dev = d → s.fabricRuns = true → d.controls = true → d.rd F.TRD_MIRROR.RATE ≠ 0 →
    exec .treadleMirrorSend s = .next (s.put d.treadleMirrorSend)) ∧
  (∀ (s : State), s.fabricRuns = true → s.dev.controls = false ∨ s.dev.rd F.TRD_MIRROR.RATE = 0 →
    exec .treadleMirrorSend s = .next s) ∧
  (∀ (s : State) (d : Dev) (x : TrdSave) (r : MarlRun), s.dev = d → s.fabricRuns = true → d.trd.save = some x → d.marl.run = some r →
    r.op.kind = .treadle → r.step = 3 → r.left ≤ 1 → exec (.treadleSaveDone 1) s = .next (s.put (d.marlRound true))) ∧
  (∀ (s : State) (result : Nat), s.fabricRuns = true → result < 4 →
    (s.dev.trd.save = none ∨ result = 0 ∨ result = 1 ∧
      (∀ r, s.dev.marl.run = some r → r.op.kind ≠ .treadle ∨ r.step ≠ 3 ∨ 1 < r.left) → exec (.treadleSaveDone result) s = .next s)) ∧
  (∀ (s : State) (d w e : Dev) (x : TrdSave) (result : Nat), s.dev = d → s.fabricRuns = true → d.trd.save = some x → 2 ≤ result → result < 4 →
    w = { d with
      trd := { d.trd with save := none }
      marl := { d.marl with
        run := if d.marl.run.any (fun (r : MarlRun) => decide (r.op.kind = MarlKind.treadle)) then d.marl.below else d.marl.run
        below := (if d.marl.run.any (fun (r : MarlRun) => decide (r.op.kind = MarlKind.treadle)) then none else d.marl.below).filter
          (fun (r : MarlRun) => !decide (r.op.kind = MarlKind.treadle))
        queue := d.marl.queue.filter (fun (o : MarlOp) => o.kind ≠ MarlKind.treadle) } } →
    e = w.wr F.TRD_STAT.SAVE_RESULT result →
    exec (.treadleSaveDone result) s = .next (s.put ((e.raise 0x09 8 e.treadleOlder result).finishOpt x.item
        (if result = 2 then St.aborted else St.marlError) []).marlStat)) ∧
  (∀ (s : State) (d : Dev) (v : Nat), s.dev = d → s.runs = true → d.trd.save = none →
    exec (.trdSave v) s = .next (s.put ({ d with trd := { d.trd with save := some { item := none, gen := d.treadleGen } } }.marlAsk 3 .treadle none))) ∧
  (∀ (s : State) (d : Dev) (v : Nat), s.dev = d → s.runs = true → d.trd.save.isSome = true → exec (.trdSave v) s = .next s)

/-- Registers that wait for a boundary and those that the pair owns (R53, R96): taken on the unit in pair role ACTIVE and carried to the
peer, refused with no effect in any other role or with a value the rule excludes; CHECK records the first of its checks that fails (R38); a
read of PICK_NUM_LO latches the other three words (R53). Choices of the model in it: assumptions 15, 16. -/
def Obligations.PickRegistersAct : Prop :=
  (∀ (s : State) (d e : Dev) (n v : Nat), s.dev = d → s.runs = true → n < 4 → d.isActive = true → bits v 5 4 ≠ 3 →
    e = (d.atBeat (R.TRK_CFG n) v).updTrk n (fun t => { t with pend := true }) →
    exec (.trkCfgWrite n v) s = .next (s.put (e.mirrorConfig [(R.TRK_CFG n, MirBody.reg (e.mirVal (R.TRK_CFG n)))] none))) ∧
  (∀ (s : State) (d : Dev) (n v : Nat), s.dev = d → s.runs = true → n < 4 → (d.isActive = false ∨ bits v 5 4 = 3) →
    exec (.trkCfgWrite n v) s = .next s) ∧
  (∀ (s : State) (d e : Dev) (n v : Nat), s.dev = d → s.runs = true → n < 4 → d.isActive = true →
    e = (d.atBeat (R.TRK_BASE_HI n) v).updTrk n (fun t => { t with
      pendBase := some (v % 2 ^ 32 * 2 ^ 32 + (d.regVal (R.TRK_BASE_LO n))) }) →
    exec (.trkBaseHiWrite n v) s =
      .next (s.put (e.mirrorConfig [(R.TRK_BASE_HI n, MirBody.reg (e.mirVal (R.TRK_BASE_HI n)))] none))) ∧
  (∀ (s : State) (d : Dev) (n v : Nat), s.dev = d → s.runs = true → n < 4 → d.isActive = false → exec (.trkBaseHiWrite n v) s = .next s) ∧
  (∀ (s : State) (d w p e : Dev) (v : Nat), s.dev = d → s.runs = true → d.isActive = true → bits v 6 4 ≤ 4 →
    w = (d.wr F.PICK_CFG.RATE (bits v 1 0)).wr F.PICK_CFG.BEAT (bits v 6 4) →
    p = { w with pick := { w.pick with due := some (d.pick.due.getD ((d.pick.num + 1) / 64 * 64 + 64)) } } → e = p.retime d.pick.num →
    exec (.pickCfgWrite v) s = .next (s.put (e.mirrorConfig [(R.PICK_CFG, MirBody.reg (e.mirVal R.PICK_CFG))] none))) ∧
  (∀ (s : State) (d : Dev) (v : Nat), s.dev = d → s.runs = true → (d.isActive = false ∨ 4 < bits v 6 4) →
    exec (.pickCfgWrite v) s = .next s) ∧
  (∀ (s : State) (d : Dev) (p : Nat), s.dev = d → s.runs = true → p = d.ptpOf (if d.pick.started then d.tbOf d.pick.num else 0) →
    exec .pickNumRead s = .next (s.put ((((d.wr F.PICK_NUM_LO.VAL d.pick.num).wr F.PICK_NUM_HI.VAL (d.pick.num / 2 ^ 32)).wr
      F.PICK_PTP_LO.VAL p).wr F.PICK_PTP_HI.VAL (p / 2 ^ 32)))) ∧
  (∀ (s : State) (d : Dev) (v n : Nat), s.dev = d → s.runs = true → n = d.firstFail d.draft.staged 14 →
    exec (.check v) s = .next (s.put (((d.setFlag F.DRAFT_CHECK.PASS (n = 0)).setFlag F.DRAFT_CHECK.LIVE_RUN false).wr
      F.DRAFT_CHECK.FIRST_FAIL n)))

/-! ## Circuits, planning, piecing, tilth (chapters 6, 7) -/

/-- Commit points (R126, R149, R150, R155) and plans made ahead (R130): a protection command that is due is taken before a timed one, and
the first command that has no time when neither is due; a timed commit, behind the protection switches due with it; a restoration; a plan of
a command that waits, a single one or a group, against what the commands before it in commit order leave. Choices of the model in it:
assumptions 45, 46, 47, 48, 49. -/
def Obligations.CommitPointsAct : Prop :=
  (∀ (s : State) (d : Dev) (p : PlanProp) (c : Cmd), s.dev = d → s.fabricRuns = true → d.commitsOpen = true → d.protDue = [] →
    d.timedDue = [] → d.cir.lastSlice ≤ d.pick.num + 1 → d.cir.queue.find? (fun (q : Cmd) => q.at_.isNone) = some c →
    exec (.commitPoint p) s = .next (s.put (d.runCmd c p).1)) ∧
  (∀ (s : State) (d : Dev) (p : PlanProp) (c : Cmd) (cs : List Cmd), s.dev = d → s.fabricRuns = true → d.commitsOpen = true →
    d.protDue = c :: cs → (d.runCmd c p).2 = false → exec (.commitPoint p) s = .next (s.put (d.runCmd c p).1)) ∧
  (∀ (s : State) (d e : Dev) (p : PlanProp) (c : Cmd) (cs : List Cmd), s.dev = d → s.fabricRuns = true → d.commitsOpen = true →
    e = d.allCmds d.protDue p → e.timedDue = c :: cs → (e.runCmd c p).2 = false →
    exec (.timedCommitDue p) s = .next (s.put (e.runCmd c p).1)) ∧
  (∀ (s : State) (d : Dev) (e pick : Nat), s.dev = d → s.fabricRuns = true → e < 1024 → d.commitsOpen = true →
    exec (.restoration e pick) s = .next (s.put (d.restore e pick))) ∧
  (∀ (s : State) (d : Dev) (no : Nat) (p : PlanProp) (c : Cmd), s.dev = d → s.fabricRuns = true → d.isActive = true →
    d.cir.queue.find? (fun (q : Cmd) => q.no = no) = some c → d.commitOrder.takeWhile (fun (q : Cmd) => q.no ≠ no) = [] →
    c.plans = true → c.planned = false →
    (c.kind ≠ .group → ∀ st, d.planOf c.kind c.par d.cir.csn p = .error st →
      exec (.shuttlePlan no p) s = .next (s.put (d.updCmd no (fun q => { q with planFailed := some st })))) ∧
    (c.kind ≠ .group → ∀ x, d.planOf c.kind c.par d.cir.csn p = .ok x →
      exec (.shuttlePlan no p) s = .next (s.put (d.updCmd no (fun q => { q with plan := some x, planFailed := none })))) ∧
    (c.kind = .group → ∀ ps, Dev.planMembers p c.members d.cir.csn (d.releasesDone c.members) = .ok ps →
      exec (.shuttlePlan no p) s = .next (s.put (d.updCmd no (fun q => { q with mplans := ps, planFailed := none })))))

/-- Protection pins (R147, R148), and the timers of pieces, ramps, reservations, plans and hold-off (R133, R156, R158, R163). Choices of the
model in it: assumptions 10, 21, 49, 50, 51. -/
def Obligations.CircuitTimersAct : Prop :=
  (∀ (s : State) (d : Dev) (n delay : Nat) (high : Bool) (e : Dev), s.dev = d → s.runs = true → n < 8 →
    d.before (d.time.tb + delay) = true → e = d.wait (d.time.tb + delay) → (e.pin n).level ≠ high →
    exec (.protectInEdge n high delay) s = .next (s.put ((e.signal n high).putPin n { e.pin n with level := high, sinceTb := e.time.tb }))) ∧
  (∀ (s : State) (d e : Dev) (n : Nat), s.dev = d → s.fabricRuns = true → n < 8 →
    d.before ((d.pin n).sinceTb + d.rd F.PROT_CFG.DEBOUNCE_NS) = true →
    e = d.wait ((d.pin n).sinceTb + d.rd F.PROT_CFG.DEBOUNCE_NS) →
    ((e.pin n).level ≠ bit (e.rd F.PROT_CFG.PIN_POL) n →
      exec (.protectDebounce n) s = .next (s.put (e.putPin n { e.pin n with deb := false, triggered := false, served := false }))) ∧
    ((e.pin n).level = bit (e.rd F.PROT_CFG.PIN_POL) n → (e.pin n).deb = false → (e.pin n).triggered = false →
      bit (e.rd F.PROT_CFG.PIN_EN) n = true → e.controls = true → ∃ (t : State) (c : Cmd), exec (.protectDebounce n) s = .next t ∧
        t.pending = s.pending ∧ t.dev.cir.prot = e.cir.prot ++ [c] ∧ c.kind = .protect ∧ c.item = none ∧
        c.at_ = some (if e.time.tb + 1000 ≤ e.tbOf (e.pick.num + 1) then e.pick.num + 1 else e.pick.num + 2) ∧
        t.dev.pin n = { e.pin n with deb := true, edge := e.ptpNow, triggered := true } ∧ t.dev.mem = e.mem ∧
        t.dev.cir.queue = e.cir.queue)) ∧
  (∀ (s : State) (d : Dev) (e : Nat) (p : Piece), s.dev = d → s.fabricRuns = true → e < 1024 →
    d.cir.pieces.find? (fun (x : Piece) => x.entry = e) = some p → (p.phase = 1 ∧ d.lockMax ≤ p.beats) ∨ (p.phase = 2 ∧ 2 ≤ p.bad) →
    exec (.pieceLockTimeout e) s = .next (s.put (if d.flag F.PIECE_CFG.DARK_FALLBACK && !d.flag (F.CIR.NO_DARK e) then d.pieceToDark p false
      else d.abortPiece p St.pieceAborted))) ∧
  (∀ (s : State) (d : Dev) (c : Nat), s.dev = d → s.fabricRuns = true → c < 61440 →
    ((AMap.find d.silt.ramps c).isSome = true → exec (.rampStep c) s = .next (s.put (d.recentreStep c))) ∧
    (AMap.find d.silt.ramps c = none → exec (.rampStep c) s = .next (s.put (d.rampStep c)))) ∧
  (∀ (s : State) (d e : Dev) (h : Nat) (r : Rsv), s.dev = d → s.fabricRuns = true →
    d.tilth.rsv.find? (fun (x : Rsv) => x.handle = h) = some r → d.before r.untilTb = true → e = d.wait r.untilTb →
    exec (.reservationTimeout h) s =
      .next (s.put ({ e with tilth := { e.tilth with rsv := e.tilth.rsv.filter (fun (x : Rsv) => x.handle ≠ h) } }.tilthSweep 1))) ∧
  (∀ (s : State) (d : Dev) (no t due : Nat) (c : Cmd) (p : Plan), s.dev = d → s.fabricRuns = true →
    d.cir.queue.find? (fun (q : Cmd) => q.no = no) = some c → c.plan = some p → p.warmTb = some t →
    due = t + max 1 (d.rd F.TILTH_TMO.RA_WARM_MS) * 1000000 → d.before due = true →
    exec (.raWarmTimeout no) s = .next (s.put ((d.wait due).tilthSweep 1))) ∧
  (∀ (s : State) (d e : Dev) (t u : Nat), s.dev = d → s.fabricRuns = true → t < 16 → AMap.find d.tilth.holdoff t = some (some u) →
    d.tileCause t = false → d.before u = true → e = d.wait u →
    exec (.tilthHoldoffExpiry t) s = .next (s.put { e with tilth := { e.tilth with holdoff := AMap.del e.tilth.holdoff t } }))


/-! ## Converters and the checker (chapter 9) -/

/-- The words of a converter (R194, R195, R199, R201, R202): a word of the right number of samples ends on its grid, is numbered, put in the
ring and counted; it is VALID once its entry has settled and no sample was overrange; a word of a scan counts toward the dwell and the
scan's turn follows, a word of an injection before its last leaves the rest to come, its last is the result. At a word boundary a
calibration that is due stands, then a free queue's head begins, then the scan goes on. Choices of the model in it: assumption 54. -/
def Obligations.SieveWordsAct : Prop :=
  (∀ (s : State) (d x : Dev) (k b : Nat) (vs hist : List Int) (limit ovr : Bool) (g : SvCfg), s.dev = d → s.runs = true → k < 2 →
    (d.conv k).now = some g → (d.conv k).inCal (d.conv k).at_ = false → b = (d.conv k).at_ + g.grid → d.before b = true →
    (vs.length ≠ g.decimation → exec (.sieveWord k vs limit) s = .next s) ∧
    (vs.length = g.decimation → hist = (vs.reverse ++ (d.conv k).hist).take g.keeps → ovr = (limit || vs.any g.full) →
      x = (d.wait b).updConv k (fun c => { c with hist := hist, at_ := b }) →
      ((d.conv k).inj = none → ∀ y : Dev, y = (x.wordOut k b g (g.code hist) ovr (decide (0 < (d.conv k).settle)) false).1 →
        exec (.sieveWord k vs limit) s = .next (s.put ((y.updConv k (fun c => { c with
          settle := c.settle - 1, cnt := if c.settle = 0 && !ovr then min 65535 (c.cnt + 1) else c.cnt })).wordTurn k b
          (fun f => f.scanBoundary k b)))) ∧
      (∀ (i : Inj) (left : Nat), (d.conv k).inj = some (i, left) → 1 < left →
        ∀ y : Dev, y = (x.wordOut k b g (g.code hist) ovr true true).1 →
        exec (.sieveWord k vs limit) s = .next (s.put ((y.updConv k (fun c => { c with inj := some (i, left - 1) })).svStat k))) ∧
      (∀ (i : Inj) (left : Nat), (d.conv k).inj = some (i, left) → left ≤ 1 →
        ∀ (y : Dev × Nat) (z a : Dev), y = x.wordOut k b g (g.code hist) ovr false true →
        z = (if i.host then (y.1.wr (F.SV_INJ_RES.WORD k) y.2).setFlag (F.SV_INJ.GO k) false else y.1.wr (F.SV_INJ_RES.WORD k) y.2) →
        a = (z.updConv k (fun c => { c with inj := none, calWait := c.calWait.map (fun n => n - 1) })).calArm k b →
        exec (.sieveWord k vs limit) s = .next (s.put ((if i.chk then a.chkResult k y.2 else a).wordTurn k b
          (fun f => f.scanResume k b)))))) ∧
  (∀ (d x : Dev) (k b w : Nat) (g : SvCfg) (code : Int) (inj : Bool), 1 ≤ k ∨ g.input < 16 ∨ 20 ≤ g.input →
    (w = svWord code g.input false inj false (d.conv k).seq →
      x = ((d.updConv k (fun c => { c with seq := (c.seq + 1) % 256 })).ringPut k w b).countQ 0x40 k →
      d.wordOut k b g code false true inj = (x, w)) ∧
    (w = svWord code g.input true inj false (d.conv k).seq →
      x = ((((d.updConv k (fun c => { c with seq := (c.seq + 1) % 256 })).ringPut k w b).countQ 0x40 k).countQ 0x41 k).wordHisto
        k g.input code →
      d.wordOut k b g code false false inj = (if g.input < 28 then x.wr (F.SV_LAST.WORD k g.input) w else x, w)) ∧
    (∀ settling : Bool, w = svWord code g.input false inj true (d.conv k).seq →
      x = (((d.updConv k (fun c => { c with seq := (c.seq + 1) % 256, spoilt := true })).ringPut k w b).countQ 0x40 k).countQ 0x43 k →
      d.wordOut k b g code true settling inj = (x.raise (0x1D + k) 4 g.input (w % 65536), w))) ∧
  (∀ (d x : Dev) (b w : Nat) (g : SvCfg) (code : Int) (inj : Bool), 16 ≤ g.input → g.input < 20 →
    w = svWord code g.input true inj false (d.conv 0).seq →
    x = ((((d.updConv 0 (fun c => { c with seq := (c.seq + 1) % 256 })).ringPut 0 w b).countQ 0x40 0).countQ 0x41 0).wordHisto
      0 g.input code →
    d.wordOut 0 b g code false false inj = ((x.wr (F.SV_LAST.WORD 0 g.input) w).trackerWord (g.input - 16) (sat16 code), w)) ∧
  (∀ (d : Dev) (k b t : Nat) (scan : Dev → Dev), (d.conv k).calAt = some t → t ≤ b →
    d.wordTurn k b scan = (d.updConv k (fun c => { c with at_ := b })).svStat k) ∧
  (∀ (d : Dev) (k b : Nat) (scan : Dev → Dev), (d.conv k).calAt = none → (d.conv k).queue = [] → d.wordTurn k b scan = scan d) ∧
  (∀ (d : Dev) (k b : Nat) (i : Inj) (q : List Inj) (scan : Dev → Dev), (d.conv k).calAt = none → (d.conv k).queue = i :: q →
    i.paired = false → (d.conv k).injFree b = true → d.wordTurn k b scan = d.injBegin k b)

/-- The fields of an output word (R195): DATA, INPUT, VALID, INJ, OVR and SEQ at their bits. Choices of the model in it: assumption 54. -/
def Obligations.SieveWordLayout : Prop :=
  ∀ (data : Int) (input seq : Nat) (valid inj ovr : Bool), input < 32 →
    toS 16 (bits (svWord data input valid inj ovr seq) 15 0) = sat16 data ∧ bits (svWord data input valid inj ovr seq) 20 16 = input ∧
    bit (svWord data input valid inj ovr seq) 21 = valid ∧ bit (svWord data input valid inj ovr seq) 22 = inj ∧
    bit (svWord data input valid inj ovr seq) 23 = ovr ∧ bits (svWord data input valid inj ovr seq) 31 24 = seq % 256

/-- Background correction (R193), CAL and its end (R200), RUN and the scan registers (R198). Choices of the model in it: assumption 54. -/
def Obligations.SieveScanAndCalAct : Prop :=
  (∀ (s : State) (d e u : Dev) (k rms : Nat) (est : List Int), s.dev = d → s.runs = true → k < 2 →
    d.before ((d.conv k).bgAt + 26214400) = true → e = d.wait ((d.conv k).bgAt + 26214400) →
    u = e.updConv k (fun c => { c with bgAt := c.bgAt + 26214400, spoilt := (e.conv k).inCal e.time.tb }) →
    (u.flag (F.SV_CTRL.BG_EN k) = false → exec (.sieveBgInterval k est rms) s = .next (s.put u)) ∧
    (∀ (bad : Bool) (new : List Int) (hist : List (List Nat)) (w : Dev), u.flag (F.SV_CTRL.BG_EN k) = true →
      bad = (rms < u.rd (F.SV_BG.BG_MIN k) || (e.conv k).spoilt || (e.conv k).inCal e.time.tb) →
      new = (List.range 12).map (fun i => if bad then (e.conv k).trims.getD i 0
        else clampI (-(trimLimit i)) (trimLimit i) ((e.conv k).trims.getD i 0 - (est.getD i 0).sign)) →
      hist = keepLast 8 ((e.conv k).moved ++ [(List.range 12).filter (fun i => decide (new.getD i 0 ≠ (e.conv k).trims.getD i 0))]) →
      w = (u.updConv k (fun c => { c with trims := new, moved := hist })).setFlag (F.SV_BG.CONVERGED k) (hist.length = 8 &&
        (List.range 12).all (fun i => decide ((hist.filter (fun m => m.contains i)).length ≤ 1))) →
      (bad = true → exec (.sieveBgInterval k est rms) s = .next (s.put (w.bump (F.SV_BG.DISCARDS k) 1))) ∧
      (bad = false → (∃ i < 12, new.getD i 0 = (e.conv k).trims.getD i 0 ∧ (new.getD i 0).natAbs = (trimLimit i).natAbs ∧
          est.getD i 0 ≠ 0) →
        exec (.sieveBgInterval k est rms) s = .next (s.put (w.raise (0x1D + k) 8 k 0))) ∧
      (bad = false → (∀ i < 12, est.getD i 0 ≠ 0 → new.getD i 0 ≠ (e.conv k).trims.getD i 0) →
        exec (.sieveBgInterval k est rms) s = .next (s.put w)))) ∧
  (∀ (s : State) (d : Dev) (k v : Nat), s.dev = d → s.runs = true → k < 2 → v < 2 ^ 32 →
    exec (.cal k v) s = .next (s.put (((d.setFlag (F.SV_CTRL.BG_EN k) (bit v 1)).svRun k (bit v 0)).svCal k)) ∧
    (bit v 2 = false → exec (.run k v) s = .next (s.put ((d.setFlag (F.SV_CTRL.BG_EN k) (bit v 1)).svRun k (bit v 0))))) ∧
  (∀ (d : Dev) (k : Nat), k < 2 → d.flag (F.SV_CTRL.CAL k) = false → (d.conv k).queue ≠ [] →
    d.svCal k = (d.setFlag (F.SV_CTRL.CAL k) true).updConv k (fun c => { c with
      calWait := some (c.queue.length + (if c.inj.isSome then 1 else 0)) })) ∧
  (∀ (s : State) (d e x : Dev) (k t : Nat) (zero ref : Int), s.dev = d → s.runs = true → k < 2 → (d.conv k).calAt = some t →
    d.before (t + 236800) = true → e = d.wait (t + 236800) →
    x = ((e.setFlag (F.SV_CTRL.CAL k) false).svCalTake k zero ref).updConv k (fun c => { c with calWait := none, calAt := none, spoilt := true }) →
    exec (.sieveCalDone k zero ref) s = .next (s.put (x.wordTurn k (t + 236800) (fun f => f.scanResume k (t + 236800))))) ∧
  (∀ (d : Dev) (k : Nat) (zero ref : Int), 4096 < zero.natAbs →
    d.svCalTake k zero ref = (d.wr (F.SV_STAT.CAL_RESULT k) 2).raise (0x1D + k) 0 28 (ofS 32 (divRound zero 16))) ∧
  (∀ (d : Dev) (k : Nat), d.svCalTake k 0 (24576 * 16) =
    ((d.wr (F.SV_CAL.OFFSET_CORR k) 0).wr (F.SV_CAL.GAIN_CORR k) 0).wr (F.SV_STAT.CAL_RESULT k) 1) ∧
  (∀ (s : State) (d : Dev) (k reg v : Nat), s.dev = d → s.runs = true → k < 2 → reg < 16 →
    (v % 32 < 28 → exec (.svScanWrite k reg v) s = .next (s.put ((((((d.wr (F.SV_SCAN.INPUT k reg) (v % 32)).wr
      (F.SV_SCAN.GAIN k reg) (bits v 6 5)).wr (F.SV_SCAN.ORDER k reg) (bits v 9 8)).wr (F.SV_SCAN.DECIM k reg) (bits v 14 12)).wr
      (F.SV_SCAN.NOTCH k reg) (bits v 25 16)).updConv k (fun c => if c.cfg.isSome && c.idx = reg then { c with touched := true } else c)))) ∧
    (28 ≤ v % 32 → exec (.svScanWrite k reg v) s = .next s) ∧
    exec (.svScanWrite k (16 + reg) v) s = .next (s.put (d.wr (F.SV_DWELL.DWELL k reg) v)) ∧
    (d.scanLen k ≠ 0 → exec (.svScanWrite k 32 v) s = .next (s.put (d.wr (F.SV_SCAN_LEN.LEN k) v))))

/-- Injections (R199): a request is queued on its converter, or on both; one that finds a queue full is refused and counted; the head of the
queue starts at a word boundary. The checker's rounds (R204, R206) and the reference's supply (R451). Choices of the model in it:
assumptions 10, 54, 55. -/
def Obligations.InjectionsAct : Prop :=
  (∀ (s : State) (d : Dev) (k v w : Nat) (i : Inj), s.dev = d → s.runs = true → k < 2 → w = putBit v 31 true → w % 32 < 30 →
    i = { cfg := { input := w % 32, gain := bits w 6 5, order := bits w 9 8, decim := bits w 14 12, notch := bits w 25 16 }
          paired := bit w 30, host := true, chk := false } →
    ∀ put : Dev → Dev, (∀ x : Dev, put x = (((((x.wr (F.SV_INJ.INPUT k) (w % 32)).wr (F.SV_INJ.GAIN k) (bits w 6 5)).wr
      (F.SV_INJ.ORDER k) (bits w 9 8)).wr (F.SV_INJ.DECIM k) (bits w 14 12)).wr (F.SV_INJ.NOTCH k) (bits w 25 16)).setFlag
      (F.SV_INJ.PAIRED k) (bit w 30)) →
    (d.flag (F.SV_INJ.GO k) = true → exec (.injectGo k v) s = .next (s.put (put d))) ∧
    (d.flag (F.SV_INJ.GO k) = false → (d.conv 0).queue.length < 4 → (d.conv 1).queue.length < 4 →
      exec (.injectGo k v) s = .next (s.put ((put (d.inject k i).1).setFlag (F.SV_INJ.GO k) true))) ∧
    (d.flag (F.SV_INJ.GO k) = false → 4 ≤ (d.conv k).queue.length → exec (.injectGo k v) s =
      .next (s.put ((d.bump (F.SV_STAT.INJ_DROP k) 1).raise (0x1D + k) 5 (w % 32) 0)))) ∧
  (∀ (s : State) (k v : Nat), s.runs = true → k < 2 → 30 ≤ putBit v 31 true % 32 → exec (.injectGo k v) s = .next s) ∧
  (∀ (d : Dev) (k : Nat) (i : Inj), i.paired = false → (d.conv k).queue.length < 4 →
    (d.inject k i).1 = (d.updConv k (fun c => { c with queue := c.queue ++ [i] })).svStat k) ∧
  (∀ (s : State) (d : Dev) (k b : Nat) (i : Inj) (q : List Inj), s.dev = d → s.runs = true → k < 2 → (d.conv k).queue = i :: q →
    i.paired = false → (d.conv k).injFree d.time.tb = true → d.injBoundary k i.cfg.grid = some b →
    exec (.injectionStart k) s = .next (s.put (((d.updConv k (fun c => { c with
      queue := q, inj := some (i, i.cfg.order + 3), hist := [], at_ := gridAt i.cfg.grid b })).countQ 0x42 k).svStat k))) ∧
  (∀ (s : State) (d : Dev) (k a b m : Nat) (i : Inj) (q : List Inj), s.dev = d → s.runs = true → k < 2 → (d.conv k).queue = i :: q →
    i.paired = true → d.pairHeads k d.time.tb = true → (d.conv k).injFree d.time.tb = true → d.injBoundary k 25600 = some a →
    d.injBoundary (1 - k) 25600 = some b →
    m = max a b → m % 25600 = 0 → (d.conv k).standsAt m = true → (d.conv (1 - k)).standsAt m = true →
    exec (.injectionStart k) s = .next (s.put ((d.injBegin k m).injBegin (1 - k) m))) ∧
  (∀ (s : State) (d e : Dev), s.dev = d → s.runs = true → d.isActive = true → d.flag F.WIT_CFG.WIT_EN = true →
    d.flag F.WIT_CTRL.HOLD = false → d.sieve.job = none → d.before d.sieve.roundTb = true →
    e = { d.wait d.sieve.roundTb with sieve := { (d.wait d.sieve.roundTb).sieve with
      roundTb := (d.wait d.sieve.roundTb).time.tb + 1000000 * max 1 ((d.wait d.sieve.roundTb).rd F.WIT_CFG.WIT_PERIOD_MS) } } →
    ((∀ t < 16, e.linkUp t = false ∨ (e.tileMode t ≠ Tm.active ∧ e.tileMode t ≠ Tm.fenced)) → exec .witnessRound s = .next (s.put e)) ∧
    (∀ t ep, t = (e.sieve.turn + 1) % 16 → e.linkUp t = true → e.tileMode t = Tm.active ∨ e.tileMode t = Tm.fenced →
      ep = nextMonitor 70000 (AMap.get e.sieve.last t 65535) →
      ∀ f : Dev, f = { e with sieve := { e.sieve with turn := t, last := AMap.put e.sieve.last t ep, fails := 0 } } →
      exec .witnessRound s = .next (s.put (if f.roundSkips t ep then f else f.roundStart t ep)))) ∧
  (∀ (s : State) (d e : Dev), s.dev = d → s.runs = true → d.isActive = true → d.rd F.XCHK_CFG.XCHK_MS ≠ 0 → d.sieve.job = none →
    d.before d.sieve.crossTb = true →
    e = { d.wait d.sieve.crossTb with sieve := { (d.wait d.sieve.crossTb).sieve with
      crossTb := (d.wait d.sieve.crossTb).time.tb + d.rd F.XCHK_CFG.XCHK_MS * 100000000 } } →
    (xchkInputOk (e.rd F.XCHK_CFG.XCHK_INPUT) = true → exec .xchkPeriodic s =
      .next (s.put (e.chkAsk { kind := .periodic, tile := 16, ep := 0, at_ := e.pick.num }))) ∧
    (xchkInputOk (e.rd F.XCHK_CFG.XCHK_INPUT) = false → exec .xchkPeriodic s = .next (s.put e))) ∧
  (∀ (s : State) (d : Dev) (k : Nat), s.dev = d → s.runs = true → k < 2 →
    exec (.vrefRange k) s = .next (s.put (d.raise (0x1D + k) 9 k 0)))

/-! ## DAC channels, sine generators, TEC loops (chapter 10) -/

/-- Codes and loads (R210 - R213, R217): a code or a strobe enters the input FIFO, or the code is refused by the owner of its channel; at an
idle DAC it leaves at the next DAC clock edge; a code that leaves goes into PENDING, and an IMMEDIATE channel loads at the edge after; a
strobe that leaves loads SOFT groups and reports the others; a rising pin loads a PIN group on its third edge. Choices of the model in it:
assumption 56. -/
def Obligations.DacLoadsAct : Prop :=
  (∀ (s : State) (d n : Dev) (c v : Nat), s.dev = d → s.runs = true → c < 48 → n = d.dacNow → n.flag (F.DAC_CH_CFG.SHARED c) =
      d.flag (F.DAC_CH_CFG.SHARED c) →
    (d.flag (F.DAC_CH_CFG.SHARED c) = false → n.dacOwned c = St.ok →
      exec (.dacCodeWrite c v) s = .next (s.put (n.dacFifo (.leave c (v % 65536))))) ∧
    (d.flag (F.DAC_CH_CFG.SHARED c) = true → d.isActive = true → n.dacOwned c = St.ok → ∀ e : Dev, e = n.dacFifo (.leave c (v % 65536)) →
      exec (.dacCodeWrite c v) s = .next (s.put (e.mirrorConfig [(R.DAC_CODE c, MirBody.reg (e.mirVal (R.DAC_CODE c)))] none))) ∧
    (n.dacOwned c ≠ St.ok → exec (.dacCodeWrite c v) s = .next s)) ∧
  (∀ (s : State) (d : Dev) (c v : Nat), s.dev = d → s.runs = true → c < 48 → d.flag (F.DAC_CH_CFG.SHARED c) = true → d.isActive = false →
    exec (.dacCodeWrite c v) s = .next s) ∧
  (∀ (d : Dev) (a : DacAct), d.dac.agenda = [] →
    d.dacFifo a = { d with dac := { d.dac with agenda := [((d.time.tb / 20 + 1) * 20, a)] } }) ∧
  (∀ (d e : Dev) (c v t : Nat), e = (d.wr (F.DAC_CODE.PENDING c) v).setFlag (F.DAC_CH_STAT.PEND c) true →
    (d.dacSrc c = 0 → d.dacDo t (.leave c v) = e.dacAt ((t / 20 + 1) * 20) (.load c)) ∧ (d.dacSrc c ≠ 0 → d.dacDo t (.leave c v) = e)) ∧
  (∀ (d : Dev) (c t : Nat), d.flag (F.DAC_CH_STAT.PEND c) = true → d.flag (F.DAC_CH_STAT.RANGING c) = false → d.genRuns c = false →
    d.dacDo t (.load c) = (d.wr (F.DAC_CODE.ACTIVE c) (d.rd (F.DAC_CODE.PENDING c))).setFlag (F.DAC_CH_STAT.PEND c) false) ∧
  (∀ (s : State) (d : Dev) (v : Nat), s.dev = d → s.runs = true →
    exec (.dacStrobe v) s = .next (s.put (d.dacNow.dacFifo (.strobe (bits v 3 0))))) ∧
  (∀ (d : Dev) (t mask : Nat), d.dacDo t (.strobe mask) = forEach (bitsSet mask 4) (fun g (d : Dev) =>
      if d.rd (F.DAC_LOAD_CFG.SRC g) = 1 then d.dacAt ((t / 20 + 1) * 20) (.group g false) else d.raise 0x1F 10 g 1) d) ∧
  (∀ (s : State) (d n e : Dev) (g : Nat) (high : Bool), s.dev = d → s.runs = true → g < 4 → n = d.dacNow →
    e = (n.wr F.DAC_STAT.LOAD_LVL (putBit (n.rd F.DAC_STAT.LOAD_LVL) g high)).signal (12 + g) high →
    (high = false ∨ bit (n.rd F.DAC_STAT.LOAD_LVL) g = true ∨ e.rd (F.DAC_LOAD_CFG.SRC g) ≠ 2 →
      exec (.dacLoadPin g high) s = .next (s.put e)) ∧
    (high = true → bit (n.rd F.DAC_STAT.LOAD_LVL) g = false → e.rd (F.DAC_LOAD_CFG.SRC g) = 2 →
      exec (.dacLoadPin g high) s = .next (s.put (e.dacAt ((e.time.tb / 20 + 3) * 20) (.group g true)))))

/-- Ranges, the clear pin, over-temperature and SHARED channels (R211, R214, R215, R217, R218). Choices of the model in it: assumptions 10,
56. -/
def Obligations.DacChannelsAct : Prop :=
  (∀ (s : State) (d n e : Dev) (c v : Nat), s.dev = d → s.runs = true → c < 48 → d.flag (F.DAC_CH_CFG.SHARED c) = false →
    bit v 10 = false → n = d.dacNow →
    e = (((n.wr (F.DAC_CH_CFG.CLR_SEL c) (bits v 8 8)).wr (F.DAC_CH_CFG.CLR_EN c) (bits v 9 9)).wr
      (F.DAC_CH_CFG.SHARED c) (bits v 10 10)).wr (F.DAC_CH_CFG.OT_POLICY c) (bits v 11 11) →
    (n.rangeOwned c (bits v 1 0) = St.ok →
      exec (.range c v) s = .next (s.put (e.dacAt ((e.time.tb / 20 + 1) * 20) (.cfg c v)))) ∧
    (n.rangeOwned c (bits v 1 0) ≠ St.ok → exec (.range c v) s = .next s)) ∧
  (∀ (d : Dev) (c r : Nat), d.flag (F.DAC_CH_CFG.SHARED c) = false → d.rd (F.DAC_CH_CFG.RANGE c) ≠ r →
    (c < 16 ∧ d.flag (F.TEC_CFG.TEC_EN c) = true) ∨ d.genRuns c = true → d.rangeOwned c r = St.fieldOwned) ∧
  (∀ (d e : Dev) (c v t : Nat), d.rd (F.DAC_CH_CFG.RANGE c) ≠ bits v 1 0 →
    e = ((((d.wr (F.DAC_CH_CFG.RANGE c) (bits v 1 0)).wr (F.DAC_CODE.PENDING c) (if bits v 1 0 ≤ 1 then 0 else 0x8000)).wr
      (F.DAC_CODE.ACTIVE c) (if bits v 1 0 ≤ 1 then 0 else 0x8000)).setFlag (F.DAC_CH_STAT.PEND c) false).setFlag
      (F.DAC_CH_STAT.RANGING c) true →
    d.dacDo t (.cfg c v) = ({ e with dac := { e.dac with ranging := AMap.put e.dac.ranging c (t + 20000) } }.wr
      (F.DAC_CH_CFG.GROUP c) (bits v 5 4)).gensWake t) ∧
  (∀ (s : State) (d n e : Dev) (c t : Nat), s.dev = d → s.runs = true → c < 48 → n = d.dacNow → AMap.find n.dac.ranging c = some t →
    e = { n.setFlag (F.DAC_CH_STAT.RANGING c) false with dac := { n.dac with ranging := AMap.del n.dac.ranging c } } →
    exec (.rangingEnd c) s = .next (s.put (if e.dacSrc c = 0 then e.dacLoad c else e))) ∧
  (∀ (s : State) (d e : Dev) (low : Bool), s.dev = d → s.runs = true →
    e = (d.setFlag F.DAC_STAT.CLR_PIN low).signal 17 (!low) →
    exec (.dacClrN low) s = .next (s.put (if low && !d.flag F.DAC_STAT.CLR_PIN then e.raise 0x1F 4 0 1 else e))) ∧
  (∀ (s : State) (d e w : Dev) (c : Nat), s.dev = d → s.runs = true → c < 32 → d.flag (F.DAC_CH_STAT.OT c) = false →
    e = (d.setFlag (F.DAC_CH_STAT.OT c) true).wr F.DAC_OT_LO.OT
      (putBit ((d.setFlag (F.DAC_CH_STAT.OT c) true).rd F.DAC_OT_LO.OT) c true) →
    w = ((e.setFlag (F.DAC_CH_STAT.OT_STICKY c) true).bump (F.DAC_CH_STAT.OT_CNT c) 1).raise 0x1F 0 c 0 →
    exec (.dacBufferOt c true) s = .next (s.put { w with dac := { w.dac with redrive := AMap.del w.dac.redrive c } })) ∧
  (∀ (s : State) (d e : Dev) (c : Nat), s.dev = d → s.runs = true → 32 ≤ c → c < 48 → d.flag (F.DAC_CH_STAT.OT c) = true →
    e = (d.setFlag (F.DAC_CH_STAT.OT c) false).wr F.DAC_OT_HI.OT
      (putBit ((d.setFlag (F.DAC_CH_STAT.OT c) false).rd F.DAC_OT_HI.OT) (c - 32) false) →
    exec (.dacBufferOt c false) s =
      .next (s.put { e with dac := { e.dac with redrive := AMap.put e.dac.redrive c (e.time.tb + 1000000) } })) ∧
  (∀ (s : State) (d e : Dev) (c t : Nat), s.dev = d → s.runs = true → c < 48 → AMap.find d.dac.redrive c = some t →
    d.before t = true → e = d.wait t →
    exec (.otRedrive c) s = .next (s.put { e with dac := { e.dac with redrive := AMap.del e.dac.redrive c } })) ∧
  (∀ (s : State) (d : Dev) (p : Nat), s.dev = d → s.fabricRuns = true → d.dac.entered = some p → d.controls = true → p + 8 ≤ d.pick.num →
    exec .sharedDriveStart s = .next (s.put { d with dac := { d.dac with sharedOn := true } })) ∧
  (∀ (s : State) (d : Dev) (p : Nat), s.dev = d → s.fabricRuns = true → d.dac.entered = some p → d.pick.num < p + 8 →
    exec .sharedDriveStart s = .next s)

/-- Which code reaches a ball (R219), once the DAC clock has run up to now: high impedance before clear, clear before RANGING, RANGING
before the sine, the sine before ACTIVE. Choices of the model in it: assumption 56. -/
def Obligations.DacOutputRanks : Prop :=
  (∀ (d : Dev) (c : Nat), d.dacOut c = (d.dacUpTo d.time.tb).ballOut c) ∧
  ∀ (d : Dev) (c : Nat) (hiZ forced ranging running : Prop),
    (hiZ ↔ d.held = true ∨ (d.flag (F.DAC_CH_CFG.SHARED c) = true ∧ d.dac.sharedOn = false) ∨ (d.flag (F.DAC_CH_CFG.OT_POLICY c) = true ∧
      (d.flag (F.DAC_CH_STAT.OT c) = true ∨ (AMap.find d.dac.redrive c).isSome = true))) →
    (forced ↔ d.flag F.DAC_STAT.CLR_INT = true ∨ (d.flag F.DAC_STAT.CLR_PIN = true ∧ d.flag (F.DAC_CH_CFG.CLR_EN c) = true)) →
    (ranging ↔ d.flag (F.DAC_CH_STAT.RANGING c) = true) → (running ↔ 32 ≤ c ∧ (AMap.find d.dac.gens (c - 32)).isSome = true) →
    (hiZ → d.ballOut c = none) ∧
    (¬ hiZ → forced → d.ballOut c = some (if d.flag (F.DAC_CH_CFG.CLR_SEL c) then d.rd (F.DAC_CLR_CODE.CLR_CODE c)
      else if d.rd (F.DAC_CH_CFG.RANGE c) ≤ 1 then 0 else 0x8000)) ∧
    (¬ hiZ → ¬ forced → ranging → d.ballOut c = some (if d.rd (F.DAC_CH_CFG.RANGE c) ≤ 1 then 0 else 0x8000)) ∧
    (¬ hiZ → ¬ forced → ¬ ranging → running → ∃ g : Gen, AMap.find d.dac.gens (c - 32) = some g ∧ d.ballOut c = some (clampI 0 65535
      (0x8000 + d.rdS (F.SINE_AMP.OFFSET (c - 32)) + sat16 (rsh ((d.rd (F.SINE_AMP.AMP (c - 32)) : Int) *
        toS 16 (d.sineEntry (c - 32) (g.at_ d.time.tb / 2 ^ 22))) 16))).toNat) ∧
    (¬ hiZ → ¬ forced → ¬ ranging → ¬ running → d.ballOut c = some (d.rd (F.DAC_CODE.ACTIVE c)))

/-- Sine generators (R220) and TEC loops (R222). Choices of the model in it: assumptions 10, 57. -/
def Obligations.SineAndTecAct : Prop :=
  (∀ (s : State) (d n e : Dev) (g v : Nat), s.dev = d → s.runs = true → g < 16 → d.flag (F.SINE_CFG.EN g) = false → n = d.dacNow →
    e = { n.setFlag (F.SINE_CFG.EN g) true with dac := { n.dac with genWait := n.dac.genWait ++ [g] } } →
    exec (.sineEnable g v) s =
      .next (s.put (if e.dacSrc (32 + g) = 0 then e.dacAt ((e.time.tb / 20 + 1) * 20) (.start g) else e))) ∧
  (∀ (s : State) (g v : Nat), s.runs = true → g < 16 → s.dev.flag (F.SINE_CFG.EN g) = true → exec (.sineEnable g v) s = .next s) ∧
  (∀ (s : State) (d n e : Dev) (g v : Nat), s.dev = d → s.runs = true → g < 16 → d.flag (F.SINE_CFG.EN g) = true → n = d.dacNow →
    e = { n.setFlag (F.SINE_CFG.EN g) false with dac := { n.dac with genWait := n.dac.genWait.filter (· ≠ g) } } →
    (AMap.find e.dac.gens g = none → exec (.sineDisable g v) s = .next (s.put e)) ∧
    (∀ (x : Gen) (t : Nat) (w : Dev), AMap.find e.dac.gens g = some x → t = e.time.tb / 20 * 20 →
      w = { e with dac := { e.dac with gens := AMap.put e.dac.gens g { x with phase := x.at_ t, since := t, ending := true } } } →
      exec (.sineDisable g v) s = .next (s.put (if x.ftw = 0 then w.dacAt (t + 20) (.stop g) else w)))) ∧
  (∀ (s : State) (d n : Dev) (g due : Nat) (x : Gen), s.dev = d → s.runs = true → g < 16 → n = d.dacNow → AMap.find n.dac.gens g = some x →
    x.ending = true → x.ftw ≠ 0 → due = x.since + 20 * ((2 ^ 32 - x.phase + x.ftw - 1) / x.ftw) → n.before due = true →
    exec (.sineStop g) s = .next (s.put ((n.wait due).genStop g))) ∧
  (∀ (d e : Dev) (g : Nat), e = { d with dac := { d.dac with gens := AMap.del d.dac.gens g } } →
    d.genStop g = (e.wr (F.DAC_CODE.ACTIVE (32 + g)) (clampI 0 65535 (0x8000 + e.rdS (F.SINE_AMP.OFFSET g))).toNat).setFlag
      (F.SINE_CFG.RUN g) false) ∧
  (∀ (s : State) (d n : Dev) (g v : Nat), s.dev = d → s.runs = true → g < 16 → n = d.dacNow → AMap.find n.dac.gens g = none →
    exec (.sineParamWrite g 0 v) s = .next (s.put (n.wr (F.SINE_FTW.FTW g) v)) ∧
    exec (.sineParamWrite g 1 v) s =
      .next (s.put ((n.wr (F.SINE_AMP.AMP g) (v % 65536)).wr (F.SINE_AMP.OFFSET g) (v / 65536))) ∧
    exec (.sineParamWrite g 2 v) s = .next (s.put (n.wr (F.SINE_PHASE0.PHASE0 g) v))) ∧
  (∀ (s : State) (d n : Dev) (g reg v : Nat), s.dev = d → s.runs = true → g < 16 → reg < 3 → n = d.dacNow →
    (AMap.find n.dac.gens g).isSome = true →
    exec (.sineParamWrite g reg v) s = .next (s.put (n.dacAt ((n.time.tb / 20 + 1) * 20) (.param g reg v)))) ∧
  (∀ (s : State) (d n : Dev) (g i v : Nat), s.dev = d → s.runs = true → g < 16 → i < 512 → n = d.dacNow →
    (AMap.find n.dac.gens g = none → ∀ m : List (Nat × Nat),
      m = AMap.set n.dac.table (g * 1024 + 2 * i) (v % 65536) (ofS 16 (sineReset (2 * i))) →
      exec (.sineTableWrite g i v) s = .next (s.put { n with dac := { n.dac with
        table := AMap.set m (g * 1024 + (2 * i + 1)) (v / 65536 % 65536) (ofS 16 (sineReset (2 * i + 1))) } })) ∧
    ((AMap.find n.dac.gens g).isSome = true → exec (.sineTableWrite g i v) s = .next s)) ∧
  (∀ (s : State) (d e w : Dev) (t v : Nat), s.dev = d → s.runs = true → t < 16 → d.isActive = true →
    e = (((d.wr (F.TEC_CFG.TEC_POL t) (bits v 1 1)).wr (F.TEC_CFG.HOLD_MS t) (bits v 15 8)).wr (F.TEC_CFG.TEC_SAFE t) (bits v 31 16)) →
    ((bit v 0 = e.flag (F.TEC_CFG.TEC_EN t) ∧ w = e.setFlag (F.TEC_CFG.TEC_EN t) (bit v 0)) ∨
      (bit v 0 = false ∧ e.flag (F.TEC_CFG.TEC_EN t) = true ∧ w = (e.setFlag (F.TEC_CFG.TEC_EN t) false).setFlag (F.TEC_STAT.SAFE t) false) ∨
      (bit v 0 = true ∧ e.flag (F.TEC_CFG.TEC_EN t) = false ∧
        w = ((e.setFlag (F.TEC_CFG.TEC_EN t) true).setFlag (F.TEC_STAT.SAFE t) false).updTec t (fun _ => {}))) →
    exec (.tecEn t v) s = .next (s.put (w.mirrorConfig [(R.TEC_CFG t, MirBody.reg (w.mirVal (R.TEC_CFG t)))] none))) ∧
  (∀ (s : State) (t v : Nat), s.runs = true → t < 16 → s.dev.isActive = false → exec (.tecEn t v) s = .next s) ∧
  (∀ (s : State) (d w n : Dev) (t since due : Nat), s.dev = d → s.runs = true → t < 16 → d.flag (F.TEC_CFG.TEC_EN t) = true →
    d.flag (F.TEC_STAT.SAFE t) = false → (d.tecAux t).invalid = some since →
    due = since + 1000000 * max 1 (d.rd (F.TEC_CFG.HOLD_MS t)) → d.before due = true →
    w = d.wait due → n = ((w.setFlag (F.TEC_STAT.SAFE t) true).raise 0x1F 2 t (ofS 32 (w.rdS (F.TILE_TEMP.TEMP t)))).dacNow →
    exec (.tecSafe t) s = .next (s.put (n.dacPut t (w.rd (F.TEC_CFG.TEC_SAFE t)) w.time.tb)))

/-! ## Die sensors, throttling, shut-down, Silt (chapter 11) -/

/-- A scan of the sensors (R225, R227, R229, R230): readings, the last reading of each sensor that passed, the shut-down that a passing
sensor asks for at 115 °C, what the sensors' states and the thresholds become, the scan rate of the hottest reading. Choices of the model in
it: assumptions 26, 58. -/
def Obligations.ThermScanActs : Prop :=
  ∀ (s : State) (d e x y z : Dev) (temps : List Int) (errs : Nat) (pass : List Bool), s.dev = d → s.runs = true →
    d.before d.therm.scanTb = true → e = (d.wait d.therm.scanTb).count 0x45 →
    pass = (List.range 24).map (fun n => e.sensPass temps errs n) →
    x = forEach (List.range 24) (fun n (d : Dev) =>
      let r := satI 16 (temps.getD n 0)
      let d := d.wr (F.THERM_SENS.TEMP n) (ofS 16 r)
      if pass.getD n false then { d with therm := { d.therm with last := AMap.put d.therm.last n r } } else d) e →
    ((x.hotNow = none ∧ y = x) ∨ (∃ n h, x.hotNow = some (n, h) ∧
      ((h < degC 115 ∨ x.therm.shut ≠ 0) ∧ y = x ∨ (degC 115 ≤ h ∧ x.therm.shut = 0) ∧ y = x.shutFound n h))) →
    z = ((y.judgeSensors pass).publishHot.lowSensors).thresholds →
    exec (.thermScan temps errs) s = .next (s.put (let w := z.wr F.THERM_STAT.SCAN z.scanCode
      { w with therm := { w.therm with
        scanTb := w.time.tb + scanNs z.scanCode
        belowTb := if w.therm.shut = 0 || !decide (z.hot < degC 105) then none else some (w.therm.belowTb.getD w.time.tb) } }))

/-- Throttle steps (R231), the journal's end in a shut-down (R233), the restart (R234), retired sensors (R226). Choices of the model in it:
assumptions 10, 58, 59, 87. -/
def Obligations.ThrottleAndShutdownAct : Prop :=
  (∀ (s : State) (d e w : Dev) (t : Nat), s.dev = d → s.runs = true → d.therm.stepTb = some t → d.before t = true → e = d.wait t →
    (e.flag F.THERM_STAT.THROTTLE = true → w = { e with therm := { e.therm with ref := e.hot, stepTb := some (e.time.tb + e.thrStepNs) } } →
      exec .throttleStep s = .next (s.put (if decide ((e.rd F.THERM_CFG.THR_FALL : Int) * 256 ≤ (e.therm.ref - e.hot) * 10) then w
        else w.setLevel (min 6 (e.rd F.THERM_STAT.LEVEL + 1))))) ∧
    (e.flag F.THERM_STAT.THROTTLE = false → e.thrHeld = false →
      w = { e with therm := { e.therm with stepTb := if e.rd F.THERM_STAT.LEVEL ≤ 1 then none else some (e.time.tb + e.thrStepNs) } } →
      exec .throttleStep s = .next (s.put (w.setLevel (e.rd F.THERM_STAT.LEVEL - 1)))) ∧
    (e.flag F.THERM_STAT.THROTTLE = false → e.thrHeld = true →
      exec .throttleStep s = .next (s.put { e with therm := { e.therm with stepTb := some (e.time.tb + e.thrStepNs) } }))) ∧
  (∀ (s : State) (d : Dev) (r : MarlRun), s.dev = d → s.coreRuns = true → d.therm.shut ≠ 0 → d.marl.run = some r →
    (d.hot < degC 120 → r.step = 3 → r.left ≤ 1 → exec .shutdownMarlEnd s = .next (s.put (d.marlRound true))) ∧
    (d.hot < degC 120 → (r.step ≠ 3 ∨ 1 < r.left) → exec .shutdownMarlEnd s =
      .next (s.put ({ d with marl := { d.marl with run := none, below := none, queue := [] } }).marlStat)) ∧
    (degC 120 ≤ d.hot → ∀ e : Dev, e = d.raise 0x04 10 r.op.kind.region (ofS 16 d.hot) → exec .shutdownMarlEnd s =
      .next (s.put ({ e with marl := { e.marl with run := none, below := none, queue := [] } }).marlStat))) ∧
  (∀ (s : State) (d : Dev) (b : Nat), s.dev = d → s.coreRuns = true → d.therm.shut = 3 → d.flag F.THERM_CFG.SHUT_RESTART = true →
    d.therm.belowTb = some b →
    exec .thermRestart s =
      .next (s.put ((d.advance (b + 1000000000 * max 1 (d.rd F.THERM_CFG.RESTART_S))).resetSelf.raise 0x20 10 0 0))) ∧
  (∀ (s : State) (d e : Dev) (v : Nat), s.dev = d → s.coreRuns = true →
    e = forEach (List.range 24) (fun n (d : Dev) => d.setFlag (F.THERM_SENS.RETIRED n) (bit (bits v 23 0) n))
      (d.wr F.THERM_RETIRE.RETIRE (bits v 23 0)) →
    exec (.thermRetireWrite v) s = .next (s.put ({ e with therm := { e.therm with
      subst := e.therm.subst.filter (fun n => !bit (bits v 23 0) n) } }.publishHot.lowSensors)))

/-- Ageing (R238, R239): the age factor of a reference burst; and what Silt does each hour, on its plan, on REPLAN, on SAVE and after a
voltage step (R240 - R242): the hour's records and projections, the weekly and daily saves, the step down of VID after 24 hours above the
target. Choices of the model in it: assumptions 27, 60. -/
def Obligations.SiltActs : Prop :=
  (∀ (s : State) (d e : Dev) (n ps r a : Nat), s.dev = d → s.fabricRuns = true → n < 64 → 0 < ps → r = 4096 * 10 ^ 12 / ps →
    a = (if stepRateF d.sup.vid (d.sensRead (engSensor n)) ≤ 0 then 0
      else (divRound ((r : Int) * 65536) (stepRateF d.sup.vid (d.sensRead (engSensor n))).toNat).toNat) →
    e = { d with silt := { d.silt with
      age := AMap.put d.silt.age n a
      rate := AMap.put d.silt.rate n r
      bursts := AMap.put d.silt.bursts n (AMap.get d.silt.bursts n [] ++ [a]) } } →
    exec (.referenceBurst n ps) s = .next (s.put (e.wr (F.SILT_ENG.A_NOW n) (min 65535 ((a + 2) / 4))))) ∧
  (∀ (s : State) (d e : Dev), s.dev = d → s.runs = true → d.before (d.silt.hourTb + 3600000000000) = true →
    e = d.wait (d.silt.hourTb + 3600000000000) →
    exec .siltHourly s = .next (s.put (
      let hour := e.rd F.SILT_HOURS.HOURS + 1
      let w := e.wr F.SILT_HOURS.HOURS hour
      let w := { w with nv := { w.nv with hours := hour } }
      let recE := w.silt.bursts.map (fun (eb : Nat × List Nat) =>
        (eb.1, ({ hour := hour, age := meanNat eb.2, slack := w.engSlack eb.1 } : SiltRec)))
      let recL := w.silt.linkLeast.map (fun (ts : Nat × Nat) => (64 + ts.1, ({ hour := hour, age := 0, slack := ts.2 } : SiltRec)))
      let hist := (recE ++ recL).foldl (fun m (r : Nat × SiltRec) => AMap.put m r.1 (AMap.get m r.1 [] ++ [r.2])) w.silt.hist
      let x := { w with silt := { w.silt with hourTb := w.time.tb, bursts := [], linkLeast := [], hist := hist, measDue := true } }
      let y := if hour % 168 = 0 then x.driftWeek hour else x
      let p := (if hour % 24 = 0 then y.siltSave else y).project
      let goal : Int := p.1.slackTarget * 10
      let low := p.2.any (fun l => decide (l < goal))
      let high := !p.2.isEmpty && p.2.all (fun l => decide (goal + 200 < l))
      let q := { p.1 with silt := { p.1.silt with due := p.1.silt.due || low, above := if high then p.1.silt.above + 1 else 0 } }
      if 24 ≤ q.silt.above && q.flag F.SILT_CFG.EN && q.flag F.SILT_CFG.VID_AUTO && 650 < q.rd F.SILT_VID.VID_MV then
        let v := max 650 (min 900 (q.rd F.SILT_VID.VID_MV) - 10)
        { (q.wr F.SILT_VID.VID_MV v).raise 0x21 10 0 v with silt := { q.silt with above := 0 } }
      else q))) ∧
  (∀ (s : State) (d e : Dev), s.dev = d → s.runs = true → d.silt.due = true → d.silt.replanning = false →
    e = { d with silt := { d.silt with due := false } } →
    ∀ w x : Dev, w = ((e.count 0x48).raise 0x21 2 0 0).wr F.SILT_STAT.STEP 1 →
    x = { w with silt := { w.silt with replanning := true } } →
    ∀ r : Dev × List (Nat × Nat), r = Dev.planMoves (x.rd F.SILT_CFG.MOVE_MAX) x x.engLoads →
    exec .siltReplan s = .next (s.put (if !e.isActive || !e.flag F.SILT_CFG.EN then e
      else if r.1.slackMet r.2 then { r.1 with silt := { r.1.silt with replanning := false } } else r.1.raiseVolts))) ∧
  (∀ s : State, s.runs = true → (s.dev.silt.due = false ∨ s.dev.silt.replanning = true) → exec .siltReplan s = .next s) ∧
  (∀ (s : State) (d e w : Dev) (v : Nat), s.dev = d → s.runs = true → v < 2 ^ 32 → e = d.wr F.SILT_CTRL.CELL_SEL (bits v 31 16) →
    (w = (if bit v 0 && !e.marlHas .silt then e.marlAsk 4 .silt none else e) →
      exec (.replan v) s = .next (s.put (if w.silt.replanning || w.silt.due then w else w.replanNow))) ∧
    (w = (if e.marlHas .silt then e else e.marlAsk 4 .silt none) →
      exec (.siltSave v) s = .next (s.put (if bit v 1 && !w.silt.replanning && !w.silt.due then w.replanNow else w)))) ∧
  (∀ (s : State) (d e : Dev) (t : Nat) (ps : List Nat), s.dev = d → s.runs = true → d.silt.measTb = some t → d.before t = true →
    e = d.wait t →
    ∀ w : Dev, w = forEach ps.zipIdx (fun (px : Nat × Nat) (d : Dev) => d.refBurst px.2 px.1)
      { e with silt := { e.silt with measTb := none } } →
    ∀ p : Dev × List Int, p = w.project →
    exec (.siltVoltageRemeasure ps) s = .next (s.put (if p.1.slackMet p.1.engLoads then
      { p.1 with silt := { p.1.silt with replanning := false } } else p.1.raiseVolts)))

/-! ## Host ports, egress, peer port, tether (chapters 12, 14) -/

/-- A frame received on a host port: the stages of R252 in order, each with its own drop (R252 - R262, R317). Choices of the model in it:
assumptions 62, 67. -/
def Obligations.FrameStagesAct : Prop :=
  (∀ (s : State) (p : Nat) (room : Bool) (bs : List Byte), s.runs = true → p < 2 → s.dev.flag (F.MAC_CTRL.RX_EN p) = false →
    exec (.frameReceive p room bs) s = .next s) ∧
  (∀ (s : State) (d : Dev) (p : Nat) (room : Bool) (bs : List Byte), s.dev = d → s.runs = true → p < 2 →
    d.flag (F.MAC_CTRL.RX_EN p) = true →
    (bs.length < 64 → exec (.frameReceive p room bs) s = .next (s.put (d.rxDrop p (F.RX_DROP_A.RUNT p) (some 8)))) ∧
    (9216 < bs.length → exec (.frameReceive p room bs) s = .next (s.put (d.rxDrop p (F.RX_DROP_A.OVERSIZE p) (some 7)))) ∧
    (64 ≤ bs.length → bs.length ≤ 9216 → fcsGood bs = false →
      exec (.frameReceive p room bs) s = .next (s.put (d.rxDrop p (F.RX_DROP_B.FCS p) none))) ∧
    (64 ≤ bs.length → bs.length ≤ 9216 → fcsGood bs = true →
      (room = false →
        exec (.frameReceive p room bs) s = .next (s.put (d.rxDrop p (F.RX_DROP_F.FIFO p) (some 4)))) ∧
      (room = true → d.addrAccepted p (beAt bs 0 6) = false →
        exec (.frameReceive p room bs) s = .next (s.put (d.rxDrop p (F.RX_DROP_B.ADDR p) none))) ∧
      (room = true → d.addrAccepted p (beAt bs 0 6) = true →
        ((parseEth bs).etype = 0x8808 →
          ((beAt (parseEth bs).body 0 2 = 1 ∧ ((parseEth bs).dst = 0x0180C2000001 ∨ (parseEth bs).dst = d.station p) ∧
            d.flag (F.MAC_CTRL.PAUSE_RX_EN p) = true) →
            exec (.frameReceive p room bs) s = .next (s.put (d.takePause p (beAt (parseEth bs).body 2 2)))) ∧
          (beAt (parseEth bs).body 0 2 ≠ 1 ∨ d.flag (F.MAC_CTRL.PAUSE_RX_EN p) = false →
            exec (.frameReceive p room bs) s = .next (s.put (d.rxDrop p (F.RX_DROP_C.MACCTL p) none)))) ∧
        ((parseEth bs).etype ≠ 0x8808 → d.vlanRefused p (parseEth bs) = true →
          exec (.frameReceive p room bs) s = .next (s.put (d.rxDrop p (F.RX_DROP_C.VLAN p) none))) ∧
        ((parseEth bs).etype ≠ 0x8808 → d.vlanRefused p (parseEth bs) = false →
          (d.ipStage p (parseEth bs) = .ipErr →
            exec (.frameReceive p room bs) s = .next (s.put (d.rxDrop p (F.RX_DROP_D.IP_ERR p) none))) ∧
          (d.ipStage p (parseEth bs) = .frag →
            exec (.frameReceive p room bs) s = .next (s.put (d.rxDrop p (F.RX_DROP_E.FRAG p) none))) ∧
          (d.ipStage p (parseEth bs) = .udpErr →
            exec (.frameReceive p room bs) s = .next (s.put (d.rxDrop p (F.RX_DROP_D.UDP_ERR p) none))) ∧
          (d.ipStage p (parseEth bs) ≠ .ipErr → d.ipStage p (parseEth bs) ≠ .frag → d.ipStage p (parseEth bs) ≠ .udpErr →
            ∀ r : Dev × Option Nat, r = d.steer p (parseEth bs) (d.ipStage p (parseEth bs)) →
            (r.2 = none →
              exec (.frameReceive p room bs) s = .next (s.put (r.1.rxDrop p (F.RX_DROP_E.FILTER p) (some 10)))) ∧
            (∀ q, r.2 = some q → ∀ m : Dev × Bool, m = r.1.police q bs.length (r.1.rxq q).length (parseEth bs) (d.ipStage p (parseEth bs)) →
              (m.2 = false → exec (.frameReceive p room bs) s = .next (s.put (m.1.countQ 0x52 p))) ∧
              (m.2 = true → m.1.rxDepth q ≤ (m.1.rxq q).length →
                exec (.frameReceive p room bs) s = .next (s.put (m.1.rxDrop p (F.RX_DROP_F.QFULL p) (some 5)))) ∧
              (m.2 = true → (m.1.rxq q).length < m.1.rxDepth q → exec (.frameReceive p room bs) s = .next (s.put
                ((((m.1.rxPut p q bs).bumpWrap (F.RX_OK.COUNT p) 1).countQ 0x50 p).pauseCheck p)))))))))

/-- PAUSE (R262, R263), the link (R251, R329, R342), the rules (R259) and the peer port (R264). Choices of the model in it: assumptions 10,
63. -/
def Obligations.PortsAct : Prop :=
  (∀ (s : State) (d e : Dev) (p t : Nat), s.dev = d → s.runs = true → p < 2 → AMap.find d.net.pausedTo p = some t →
    d.before ((t + 9) / 10) = true → e = d.wait ((t + 9) / 10) →
    exec (.pauseExpiry p) s = .next (s.put ({ e with net := { e.net with pausedTo := AMap.del e.net.pausedTo p } }.setFlag
      (F.MAC_STAT.TX_PAUSED p) false))) ∧
  (∀ (s : State) (d e : Dev) (p t : Nat), s.dev = d → s.runs = true → p < 2 → AMap.find d.net.xoff p = some t →
    d.before (t + d.pauseTime p * 256 / 10) = true → e = d.wait (t + d.pauseTime p * 256 / 10) →
    (e.flag (F.MAC_CTRL.PAUSE_TX_EN p) = true → e.xonBytes p ≤ e.rxHeld p →
      exec (.pauseRefresh p) s = .next (s.put { e with net := { e.net with
        xoff := AMap.put e.net.xoff p e.time.tb
        pauseDue := AMap.put e.net.pauseDue p (e.pauseTime p) } })) ∧
    (e.flag (F.MAC_CTRL.PAUSE_TX_EN p) = false ∨ e.rxHeld p < e.xonBytes p → exec (.pauseRefresh p) s = .next (s.put e))) ∧
  (∀ (s : State) (d e : Dev) (p : Nat) (lock hiBer localF remoteF : Bool), s.dev = d → s.runs = true → p < 3 →
    e = d.macLink p lock hiBer localF remoteF →
    (d.flag (F.MAC_STAT.LINK p) = false ∨ e.flag (F.MAC_STAT.LINK p) = true →
      exec (.macLinkChange p lock hiBer localF remoteF) s = .next (s.put e)) ∧
    (d.flag (F.MAC_STAT.LINK p) = true → e.flag (F.MAC_STAT.LINK p) = false →
      exec (.macLinkChange p lock hiBer localF remoteF) s = .next (s.put (if p = 2 then e.pLostNow else e.ptpFallback p)))) ∧
  (∀ (d : Dev) (p : Nat), d.flag (F.MAC_STAT.LINK p) = true →
    d.macLink p false false false false = (((((((d.setFlag (F.MAC_STAT.BLOCK_LOCK p) false).setFlag (F.MAC_STAT.HI_BER p) false).setFlag
      (F.MAC_STAT.LOCAL_FAULT p) false).setFlag (F.MAC_STAT.REMOTE_FAULT p) false).setFlag (F.MAC_STAT.LINK p) false).bump
      (F.MAC_STAT.LINK_DOWNS p) 1).raise (0x22 + p) 0 (p * 256) 1)) ∧
  (∀ (s : State) (d : Dev) (n v : Nat), s.dev = d → s.runs = true → n < 32 →
    ∀ fields, regAt (R.RULE_CTL n) = some (.row (R.RULE_CTL 0) [n] fields) →
    exec (.ruleCtlWrite n v) s = .next (s.put ((d.storeWord (R.RULE_CTL n) (R.RULE_CTL 0) [n] fields v).ruleInForce n))) ∧
  (∀ (d : Dev) (n : Nat), d.ruleInForce n =
    { d with net := { d.net with rules := AMap.put d.net.rules n ((ruleFields n).map (fun f => d.rd f)) } }) ∧
  (∀ (s : State) (d : Dev) (room : Bool) (bs : List Byte), s.dev = d → s.runs = true → d.flag (F.MAC_CTRL.RX_EN 2) = true →
    64 ≤ bs.length → bs.length ≤ 9216 → fcsGood bs = true → room = true → d.addrAccepted 2 (beAt bs 0 6) = true →
    (beAt bs 12 2 = 0x8808 → exec (.peerFrameReceive room bs) s = .next (s.put (d.rxDrop 2 (F.RX_DROP_C.MACCTL 2) none))) ∧
    (beAt bs 12 2 = 0x88B6 → (beAt bs 0 6 = d.station 2 ∨ beAt bs 0 6 = 0xFFFFFFFFFFFF) →
      ∀ e : Dev, e = (d.bumpWrap (F.RX_OK.COUNT 2) 1).countQ 0x50 2 →
      exec (.peerFrameReceive room bs) s = .next (s.put { e with net := { e.net with passed := AMap.put e.net.passed 2 bs } })) ∧
    (beAt bs 12 2 ≠ 0x8808 → beAt bs 12 2 ≠ 0x88B6 ∨ (beAt bs 0 6 ≠ d.station 2 ∧ beAt bs 0 6 ≠ 0xFFFFFFFFFFFF) →
      exec (.peerFrameReceive room bs) s = .next (s.put (d.rxDrop 2 (F.RX_DROP_E.FILTER 2) (some 10)))))

/-- The egress queues (R307, R310), the shapers (R312), the policers (R317) and the gates (R313, R315). Choices of the model in it:
assumptions 10, 65, 66, 67. -/
def Obligations.EgressActs : Prop :=
  (∀ (s : State) (d : Dev) (p q dst : Nat) (vid : Option Nat) (body : List Byte) (f : TxFrame), s.dev = d → s.runs = true → p < 2 → q < 8 →
    f = d.mkFrame p q dst vid body →
    (q = 1 ∨ d.egFill p q + f.size ≤ d.egLimit p q → d.egRoom p q f.size = true →
      exec (.egressEnqueue p q dst vid body) s = .next (s.put (d.putEgress p q (d.egress p q ++ [f])))) ∧
    (q ≠ 1 → d.egLimit p q < d.egFill p q + f.size →
      exec (.egressEnqueue p q dst vid body) s = .next (s.put ((d.bump (F.EQ_DROP.TAIL p q) 1).egDropped p q f))) ∧
    (q = 1 ∨ d.egFill p q + f.size ≤ d.egLimit p q → d.egRoom p q f.size = false → d.canPush p q f.size = false →
      exec (.egressEnqueue p q dst vid body) s = .next (s.put ((d.bump (F.EQ_DROP.TAIL p q) 1).egDropped p q f)))) ∧
  (∀ (s : State) (d e w : Dev) (p : Nat), s.dev = d → s.runs = true → p < 2 →
    d.before (max ((AMap.get d.net.busy p 0 + 9) / 10) d.time.tb) = true → e = d.wait (max ((AMap.get d.net.busy p 0 + 9) / 10) d.time.tb) →
    w = forEach (List.range 8) (fun q (d : Dev) => d.wr (F.EQ_STAT.FILL p q) (d.egFill p q))
      { e with sched := { e.sched with sending := AMap.del e.sched.sending p } } →
    (∀ t, AMap.find w.net.pauseDue p = some t → w.portSends p = true →
      exec (.txOpportunity p) s = .next (s.put (w.startPause p t).ptpFollow)) ∧
    (∀ t, AMap.find w.net.pauseDue p = some t → w.portSends p = false → exec (.txOpportunity p) s = .next (s.put
      ({ w with net := { w.net with pauseDue := AMap.del w.net.pauseDue p } } : Dev).ptpFollow)) ∧
    (AMap.find w.net.pauseDue p = none → w.time.tb * 10 < AMap.get w.net.pausedTo p 0 →
      exec (.txOpportunity p) s = .next (s.put w.ptpFollow)) ∧
    (∀ (r : Dev × Option Nat), AMap.find w.net.pauseDue p = none → AMap.get w.net.pausedTo p 0 ≤ w.time.tb * 10 →
      r = (w.dropNoFit p).chooseQueue p →
      (r.2 = none → exec (.txOpportunity p) s = .next (s.put r.1.ptpFollow)) ∧
      (∀ q f fs, r.2 = some q → r.1.egress p q = f :: fs → (r.1.putEgress p q fs).portSends p = true →
        exec (.txOpportunity p) s = .next (s.put ((((r.1.putEgress p q fs).startTx p q f).putEgress p q fs).ptpFollow))) ∧
      (∀ q f fs, r.2 = some q → r.1.egress p q = f :: fs → (r.1.putEgress p q fs).portSends p = false →
        exec (.txOpportunity p) s = .next (s.put (((((r.1.putEgress p q fs).bump (F.TX_DROP.LINKDOWN p) 1).countQ 0x53 p).raise
          (0x22 + p) 9 (p * 256) 1).ptpFollow))))) ∧
  (∀ (s : State), s.runs = true → s.dev.before ((s.dev.sched.refillTb / 1000 + 1) * 1000) = true →
    exec .shaperRefill s = .next (s.put s.dev.shaperRefill)) ∧
  (∀ (s : State), s.runs = true → s.dev.before ((s.dev.pol.refillTb / 1000 + 1) * 1000) = true →
    exec .policerRefill s = .next (s.put s.dev.policerRefill)) ∧
  (∀ (s : State) (d : Dev) (p left : Nat) (k : Nat × Nat × Nat) (g : GateList), s.dev = d → s.runs = true → p < 2 → d.gates p = some g →
    segAt g.segs (g.phase d.ptpNow) = some (k, left) → d.before (d.time.tb + left) = true →
    exec (.gateEntryChange p) s = .next (s.put ((d.wait (d.time.tb + left)).gclStat p))) ∧
  (∀ (s : State) (d e : Dev) (p due : Nat) (g : GateList), s.dev = d → s.runs = true → p < 2 → AMap.find d.sched.await p = some g →
    due = ((g.start : Int) - d.time.ofs).toNat → d.before due = true → e = d.wait due →
    exec (.gateListStart p) s = .next (s.put (({ e with sched := { e.sched with
      oper := if g.enable then AMap.put e.sched.oper p g else AMap.del e.sched.oper p
      await := AMap.del e.sched.await p } }.gclStat p).raise 0x26 5 p 1)))

/-- The tether takes a frame of 64 - 1,522 bytes whose FCS is good and whose EtherType is 0x88B6, whatever its destination, and passes it
on; any other size or a bad FCS is counted in RX_ERR, any other EtherType in RX_OTHER, and such frames are dropped (R269). -/
def Obligations.TetherReceiveIsR269 : Prop :=
  ∀ (s : State) (d e : Dev) (bs : List Byte), s.dev = d → s.runs = true → d.flag F.TETH_CTRL.EN = true →
    (64 ≤ bs.length ∧ bs.length ≤ 1522 ∧ fcsGood bs = true ∧ beAt bs 12 2 = 0x88B6 →
      e = (d.bumpWrap F.TETH_CNT_A.RX_OK 1).countQ 0x50 3 →
      exec (.tetherReceive bs) s = .next (s.put { e with net := { e.net with passed := AMap.put e.net.passed 3 bs } })) ∧
    (bs.length < 64 ∨ 1522 < bs.length ∨ fcsGood bs = false →
      exec (.tetherReceive bs) s = .next (s.put ((d.bump F.TETH_CNT_D.RX_ERR 1).raise 0x25 3 (3 * 256) 1))) ∧
    (64 ≤ bs.length ∧ bs.length ≤ 1522 ∧ fcsGood bs = true ∧ beAt bs 12 2 ≠ 0x88B6 →
      exec (.tetherReceive bs) s = .next (s.put ((d.bump F.TETH_CNT_D.RX_OTHER 1).raise 0x25 4 3 1)))

/-- The tether's sending side (R265, R266, R268): a sent frame, a collision, a late one, the sixteenth, the end of a back-off, the
heartbeat, the loss and the return of the PLCA beacons. Choices of the model in it: assumptions 1, 10, 64. -/
def Obligations.TetherSendActs : Prop :=
  (∀ (s : State) (d e : Dev) (kind : Nat) (x : TethTx), s.dev = d → s.runs = true → d.flag F.TETH_CTRL.EN = true →
    d.tethNext = some (kind, x) → x.backTo = none →
    (e = ((d.tethSet kind none).bumpWrap F.TETH_CNT_A.TX_OK 1).countQ 0x51 3 →
      exec .tetherTransmit s = .next (s.put { e with net := { e.net with sent := AMap.put e.net.sent 3 x.frame } })) ∧
    exec (.tetherCollision true) s = .next (s.put (((d.tethSet kind none).bump F.TETH_CNT_B.LATE 1).raise 0x25 1 (3 * 256) 1)) ∧
    (15 ≤ x.attempts → exec (.tetherCollision false) s = .next (s.put
      ((((d.bump F.TETH_CNT_B.COLLISIONS 1).tethSet kind none).bump F.TETH_CNT_C.EXCESSIVE 1).raise 0x25 0 (3 * 256) 1))) ∧
    (x.attempts < 15 → ∀ r : Nat × Dev, r = (d.bump F.TETH_CNT_B.COLLISIONS 1).draw (2 ^ min (x.attempts + 1) 10) →
      exec (.tetherCollision false) s = .next (s.put (r.2.tethSet kind (some { x with
        attempts := x.attempts + 1, backTo := some (r.2.time.tb + r.1 * 51200) })) ))) ∧
  (∀ (s : State) (d : Dev) (kind t : Nat) (x : TethTx), s.dev = d → s.runs = true → d.tethNext = some (kind, x) → x.backTo = some t →
    (d.before t = true → exec .tetherBackoffExpiry s = .next (s.put ((d.wait t).tethSet kind (some { x with backTo := none })))) ∧
    exec .tetherTransmit s = .next s) ∧
  (∀ (s : State) (d : Dev) (t : Nat), s.dev = d → s.runs = true → d.flag F.TETH_CTRL.PLCA_EN = true → d.flag F.TETH_STAT.PLCA_ACTIVE = true →
    t = d.teth.beacon.getD 0 + d.plcaWait → d.before t = true →
    exec .plcaBeaconLoss s = .next (s.put (((d.wait t).setFlag F.TETH_STAT.PLCA_ACTIVE false).raise 0x25 2 (3 * 256) 1))) ∧
  (∀ (s : State) (d e : Dev), s.dev = d → s.runs = true → d.flag F.TETH_CTRL.EN = true → d.flag F.TETH_CTRL.PLCA_EN = true →
    e = d.setFlag F.TETH_STAT.PLCA_ACTIVE true →
    exec .plcaBeaconsResume s = .next (s.put { e with teth := { e.teth with beacon := some d.time.tb } })) ∧
  (∀ (s : State) (d e : Dev) (t seq : Nat), s.dev = d → s.fabricRuns = true → 6 ≤ d.rd F.BOOT_STAT.STAGE → d.slv.hbTbT = some t →
    d.before (t + (if d.isActive then 100000 else 1000000)) = true → e = d.wait (t + (if d.isActive then 100000 else 1000000)) →
    seq = (e.slv.hbSeqT + 1) % 65536 →
    exec .tetherHeartbeatTimer s = .next (s.put (((e.updSlv (fun s => { s with hbSeqT := seq, hbTbT := some e.time.tb })).tethPut 1
      (e.tetherBytes (e.hbFrame 1 seq))).count 0x6A)))

/-! ## Packets, sessions, transactions (chapter 13) -/

/-- The frame at the head of the first occupied queue of the Cheda cores is parsed (R278, R279, R287), a packet to another address is
counted; a reply leaves when its items are final or when REPLY_WAIT has passed (R288); completions report what has become final since.
Choices of the model in it: assumptions 10, 19, 69. -/
def Obligations.PacketsAct : Prop :=
  (∀ (s : State) (d : Dev) (i : Nat) (r : Dev × Option RxFrame) (f : RxFrame), s.dev = d → s.runs = true → d.coresRun = true →
    (List.range 7).find? (fun i => !(d.rxq (i + 1)).isEmpty) = some i → r = d.rxPop (i + 1) → r.2 = some f →
    (∀ a bs, r.1.carried f = .packet a bs → exec .chedaPacket s = .next (s.put (r.1.chedaBytes a f.ts bs))) ∧
    (r.1.carried f = .badDst → exec .chedaPacket s = .next (s.put (r.1.bump F.CHEDA_CNT_D.BAD_DST 1))) ∧
    (r.1.carried f = .other → i = 0 → exec .chedaPacket s = .next (s.put (r.1.assist f))) ∧
    (r.1.carried f = .other → i ≠ 0 → exec .chedaPacket s = .next (s.put r.1))) ∧
  (∀ s : State, s.runs = true → (∀ i < 7, s.dev.rxq (i + 1) = []) → exec .chedaPacket s = .next s) ∧
  (∀ (s : State) (d : Dev) (slot seq : Nat) (r : ReplyRec), s.dev = d → s.runs = true → slot < 17 →
    d.cheda.replies.find? (fun (r : ReplyRec) => r.slot = slot && r.seq = seq && !r.sent) = some r →
    ((∀ i ∈ d.replyItems r, i.fin.isSome = true) → exec (.replySend slot seq) s = .next (s.put ((d.sendReply r).afterReply r))) ∧
    ((∃ i ∈ d.replyItems r, i.fin = none) → d.before (r.lastTb + 10000 * max 1 (d.rd F.CHEDA_CFG.REPLY_WAIT)) = true →
      ∀ e : Dev, e = d.wait (r.lastTb + 10000 * max 1 (d.rd F.CHEDA_CFG.REPLY_WAIT)) →
      exec (.replySend slot seq) s = .next (s.put ((e.sendReply r).afterReply r)))) ∧
  (∀ (s : State) (d : Dev) (slot seq : Nat) (r : ReplyRec) (ss : Session) (new : List ItemRec), s.dev = d → s.runs = true → slot < 17 →
    d.cheda.replies.find? (fun (r : ReplyRec) => r.slot = slot && r.seq = seq && r.sent) = some r → d.session slot = some ss →
    new = (d.replyItems r).filter (fun (i : ItemRec) => i.fin.isSome && !i.told) → new ≠ [] →
    ∀ e : Dev, e = forEach (splitParts (fun (i : ItemRec) => i.entry.length) (d.roomOf ss.addr 2 - 28) new)
      (fun (p : List ItemRec) (d : Dev) =>
        (((d.sendCheda ss.addr 2 0 (d.packet 2 slot p.length seq 0 1 (p.flatMap ItemRec.entry)) (p.any d.itemResets) none).1).bumpWrap
          F.CHEDA_CNT_E.COMPLETIONS 1).count 0x65) d →
    exec (.completionSend slot seq) s = .next (s.put ((e.tell (new.map (fun (i : ItemRec) => i.id))).gcItems)))

/-- Sessions (R281, R283, R285): SESSION_OPEN draws a nonce and holds a free slot, or names what refuses it; SESSION_PROVE opens the session
with its keys, or closes it and counts the failed proof; the timers of an unproved session, a locked key and an idle session. Choices of the
model in it: assumptions 1, 10, 68. -/
def Obligations.SessionsAct : Prop :=
  (∀ (s : State) (src : ItemSrc) (par : List Byte), s.runs = true → s.dev.coresRun = true → src.slot = 0 → formatGood 0x0001 par = true →
    let host := beAt par 2 2
    let e := (s.dev.openReply 0 src.seq src.addr).count 0x60
    let b := (e.newItem src 0x0001 host).1
    let x : ItemIn := { item := e.cheda.nextItem, slot := 0, priv := 0, ctrRead := false, src := src, par := par }
    b.fits x [] = true →
    (AMap.find b.nv.keys (beAt par 0 1) = none →
      exec (.sessionOpen src par) s = .next (s.put ((b.finish x.item St.keyUnknown []).replyAdd 0 src.seq x.item))) ∧
    (∀ k : KeyRec, AMap.find b.nv.keys (beAt par 0 1) = some k →
      (k.maxPriv < beAt par 1 1 % 4 →
        exec (.sessionOpen src par) s = .next (s.put ((b.finish x.item St.privDenied []).replyAdd 0 src.seq x.item))) ∧
      (beAt par 1 1 % 4 ≤ k.maxPriv → (AMap.find b.cheda.locked (beAt par 0 1)).isSome = true →
        exec (.sessionOpen src par) s = .next (s.put ((b.finish x.item St.keyLocked []).replyAdd 0 src.seq x.item))) ∧
      (beAt par 1 1 % 4 ≤ k.maxPriv → AMap.find b.cheda.locked (beAt par 0 1) = none →
        ((List.range 16).find? (fun i => (b.session (i + 1)).isNone) = none →
          exec (.sessionOpen src par) s =
            .next (s.put (((b.raise 0x2A 4 host 16).finish x.item St.sessionFull []).replyAdd 0 src.seq x.item))) ∧
        (∀ i, (List.range 16).find? (fun i => (b.session (i + 1)).isNone) = some i →
          ((b.sessionOfHost host).isSome = true → bit (beAt par 1 1) 7 = false →
            exec (.sessionOpen src par) s = .next (s.put ((b.finish x.item St.hostIdBusy []).replyAdd 0 src.seq x.item))) ∧
          ((b.sessionOfHost host) = none ∨ bit (beAt par 1 1) 7 = true → ∀ (r : List Byte × Dev) (ss : Session), r = b.drawBytes 16 →
            ss = {
              opening := true, closing := false, keyId := beAt par 0 1, priv := beAt par 1 1 % 4, ctrRead := bit k.perm 0,
              hostId := host, takeover := bit (beAt par 1 1) 7, hostNonce := (par.drop 4).take 16, devNonce := r.1, sk := [],
              openTb := r.2.time.tb, lastTb := r.2.time.tb, addr := src.addr, hs := none, acc := [], minSev := 5, evSeq := 1, shed := {} } →
            b.fits x (beBytes 1 (i + 1) ++ zeros 3 ++ r.1 ++ beBytes 8 r.2.nv.serial) = true →
            exec (.sessionOpen src par) s = .next (s.put (((r.2.putSession (i + 1) ss).finish x.item St.ok
              (beBytes 1 (i + 1) ++ zeros 3 ++ r.1 ++ beBytes 8 r.2.nv.serial)).replyAdd 0 src.seq x.item))))))) ∧
  (∀ (s : State) (src : ItemSrc) (par : List Byte) (ss : Session), s.runs = true → s.dev.coresRun = true → src.slot = 0 →
    formatGood 0x0002 par = true →
    let e := (s.dev.openReply 0 src.seq src.addr).count 0x60
    let b := (e.newItem src 0x0002 ss.hostId).1
    let x : ItemIn := { item := e.cheda.nextItem, slot := 0, priv := 0, ctrRead := false, src := src, par := par }
    e.session (beAt par 0 1) = some ss → b.session (beAt par 0 1) = some ss → ss.opening = true →
    ((par.drop 4).take 32 ≠ b.hostProof (beAt par 0 1) ss → b.fits x [] = true →
      exec (.sessionProve src par) s = .next (s.put ((((b.closeSession (beAt par 0 1)).proofFailed ss.keyId).finish x.item St.proofFailed
        []).replyAdd 0 src.seq x.item))) ∧
    ((par.drop 4).take 32 = b.hostProof (beAt par 0 1) ss → b.sessionOfHost ss.hostId = none →
      ∀ k proof sk : List Byte, k = ((AMap.find b.nv.keys ss.keyId).map (fun (k : KeyRec) => k.key)).getD [] →
      sk = hmac256 k (ascii ['C', 'H', 'E', 'D', 'A', '-', 'S', 'E', 'S', 'S', 'I', 'O', 'N'] ++ ss.hostNonce ++ ss.devNonce ++
        beBytes 1 (beAt par 0 1)) →
      proof = hmac256 k (ascii ['C', 'H', 'E', 'D', 'A', '-', 'D', 'E', 'V', 'I', 'C', 'E'] ++ ss.devNonce ++ ss.hostNonce ++
        beBytes 1 (beAt par 0 1)) → b.fits x proof = true →
      exec (.sessionProve src par) s = .next (s.put (((b.putSession (beAt par 0 1)
        { ss with opening := false, sk := sk, addr := src.addr, lastTb := b.time.tb }).finish x.item St.ok proof).replyAdd 0 src.seq x.item)))) ∧
  (∀ (s : State) (d : Dev) (slot : Nat) (ss : Session), s.dev = d → s.runs = true → slot < 17 → d.session slot = some ss →
    (ss.opening = true → d.before (ss.openTb + 1000000000) = true → exec (.sessionProveTimeout slot) s = .next (s.put
      ((((d.wait (ss.openTb + 1000000000)).closeSession slot).bump F.CHEDA_CNT_D.PROOF_FAIL 1).raise 0x2A 1 ss.keyId 2))) ∧
    (ss.opening = false → d.before (ss.lastTb + 1000000000 * max 1 (d.rd F.CHEDA_TMO.IDLE_S)) = true →
      exec (.sessionIdleTimeout slot) s =
        .next (s.put ((d.wait (ss.lastTb + 1000000000 * max 1 (d.rd F.CHEDA_TMO.IDLE_S))).closeSession slot)))) ∧
  (∀ (s : State) (d e : Dev) (key t : Nat), s.dev = d → s.runs = true → AMap.find d.cheda.locked key = some t →
    d.before (t + 60000000000) = true → e = d.wait (t + 60000000000) →
    exec (.keyLockoutExpiry key) s = .next (s.put { e with cheda := { e.cheda with locked := AMap.del e.cheda.locked key } }))

/-- Session items (R285, R289, R296, R300): CLOSE marks the session, which closes when the reply has left; NOP echoes its parameters;
ACCOUNT_QUERY refuses a COUNT outside 1 - 64 and reads the ledger; EVENT_SUBSCRIBE, EVENT_ACK; KEY_WRITE asks Marl. Choices of the model in
it: assumptions 19, 69, 83. -/
def Obligations.SessionItemsEnd : Prop :=
  ItemEnds .sessionClose 0x0003 St.ok (fun d x => (d.session x.slot).isSome = true)
    (fun d x => match d.session x.slot with
      | some ss => d.putSession x.slot { ss with closing := true }
      | none => d) (fun _ _ => []) ∧
  ItemEnds .nop 0x0004 St.ok (fun _ _ => True) (fun d _ => d) (fun _ x => x.par) ∧
  ItemEnds .accountQuery 0x0005 St.valueInvalid (fun _ x => beAt x.par 2 2 = 0 ∨ 64 < beAt x.par 2 2) (fun d _ => d) (fun _ _ => []) ∧
  ItemEnds .accountQuery 0x0005 St.ok (fun d x => 0 < beAt x.par 2 2 ∧ beAt x.par 2 2 ≤ 64 ∧
    d.cheda.ledger.filter (fun (e : LedgerRec) => e.hostId = beAt x.par 0 2) = []) (fun d _ => d) (fun _ _ => zeros 8) ∧
  ItemEnds .accountQuery 0x0005 St.ok (fun _ x => 0 < beAt x.par 2 2 ∧ beAt x.par 2 2 ≤ 64) (fun d _ => d)
    (fun d x =>
      let mine := d.cheda.ledger.filter (fun (e : LedgerRec) => e.hostId = beAt x.par 0 2)
      let oldest := match mine with
        | [] => 0
        | e :: es => es.foldl (fun (m : Nat) (y : LedgerRec) => if serialAfter m y.seq then y.seq else m) e.seq
      let es := mine.filter (fun (e : LedgerRec) => decide ((e.seq + 2 ^ 32 - beAt x.par 4 4) % 2 ^ 32 < beAt x.par 2 2))
      beBytes 4 oldest ++ beBytes 2 es.length ++ zeros 2 ++ es.flatMap (fun (e : LedgerRec) =>
        beBytes 4 e.seq ++ beBytes 2 e.tag ++ beBytes 2 e.op ++ beBytes 2 e.status ++ beBytes 1 e.unit ++ zeros 1 ++ beBytes 4 e.csn)) ∧
  ItemEnds .eventSubscribe 0x0006 St.ok (fun d x => (d.session x.slot).isSome = true ∧ beAt x.par 0 1 ≤ 5)
    (fun d x => match d.session x.slot with
      | some ss => d.putSession x.slot { ss with minSev := beAt x.par 0 1 }
      | none => d) (fun _ _ => []) ∧
  ItemEnds .eventSubscribe 0x0006 St.valueInvalid (fun _ x => 5 < beAt x.par 0 1) (fun d _ => d) (fun _ _ => []) ∧
  ItemEnds .eventAck 0x0007 St.ok (fun _ x => beAt x.par 0 1 ≤ 44 ∨ beAt x.par 0 1 = 255)
    (fun d x =>
      let blocks := if beAt x.par 0 1 = 255 then evBlocks else [beAt x.par 0 1]
      let e := if beAt x.par 1 1 % 4 = 2 then d else forEach blocks (fun b (d : Dev) => d.evAck b (beAt x.par 2 2) false) d
      if 2 ≤ beAt x.par 1 1 % 4 then forEach blocks (fun b (d : Dev) => d.evAck b (beAt x.par 2 2) true) e else e) (fun _ _ => []) ∧
  ItemEnds .eventAck 0x0007 St.valueInvalid (fun _ x => 44 < beAt x.par 0 1 ∧ beAt x.par 0 1 ≠ 255) (fun d _ => d) (fun _ _ => []) ∧
  ItemGoesOn .keyWrite 0x0008 (fun _ x => beAt x.par 0 1 ≤ 7 ∧ beAt x.par 1 1 ≤ 3 ∧ beAt x.par 1 1 ≤ x.priv)
    (fun d x => d.marlAsk 2 (.key (beAt x.par 0 1) (some { key := (x.par.drop 4).take 32, maxPriv := beAt x.par 1 1, perm := beAt x.par 2 1 }))
      (some x.item)) ∧
  ItemEnds .keyWrite 0x0008 St.privDenied (fun _ x => x.priv < beAt x.par 1 1) (fun d _ => d)
    (fun _ _ => []) ∧
  ItemEnds .keyWrite 0x0008 St.valueInvalid (fun _ x => (7 < beAt x.par 0 1 ∨ 3 < beAt x.par 1 1) ∧ beAt x.par 1 1 ≤ x.priv) (fun d _ => d)
    (fun _ _ => [])

/-- Transactions (R291, R292): BEGIN_SET opens one, and is refused while one is open; COMMIT_SET enters commit order once; a staged
DRAFT_ACTIVATE and GATE_LIST_WRITE are held as the last of the set, and are refused outside one. Choices of the model in it: assumption 71.
-/
def Obligations.SetItemsAct : Prop :=
  ItemEnds .beginSet 0x0010 St.busy (fun d _ => d.cheda.txn.isSome = true) (fun d _ => d) (fun _ _ => []) ∧
  ItemEnds .beginSet 0x0010 St.ok (fun d _ => d.cheda.txn = none)
    (fun d x => ({ d with cheda := { d.cheda with txn := some { slot := x.slot, staged := [], lastTb := d.time.tb, commit := none } } }.setFlag
      F.CHEDA_STAT.TXN_OPEN true).wr F.CHEDA_STAT.TXN_SESSION x.slot) (fun _ _ => []) ∧
  ItemEnds .commitSet 0x0011 St.roleStandby (fun d x => (d.ownTxn x.slot).isSome = true ∧ d.isActive = false) (fun d _ => d) (fun _ _ => []) ∧
  (∀ t : Txn, ItemGoesOn .commitSet 0x0011 (fun d x => d.ownTxn x.slot = some t ∧ d.isActive = true ∧
      ((∀ g ∈ t.staged, g.op ≠ 0x0603) ∨ d.draftLocked = false))
    (fun d x => { d with cheda := { d.cheda with txn := some { t with commit := some x.item } } }.enqueue (some x.item) .commitSet noPar []
      none false)) ∧
  ItemEnds .commitSet 0x0011 St.busy (fun d x => ∃ t : Txn, d.ownTxn x.slot = some t ∧ d.isActive = true ∧ d.draftLocked = true ∧
    ∃ g ∈ t.staged, g.op = 0x0603) (fun d _ => d) (fun _ _ => []) ∧
  ItemStages .draftActivate 0x0603 (fun d _ => d.isActive = true ∧ d.draftLocked = false) ∧
  ItemEnds .draftActivate 0x0603 St.noSet (fun _ _ => True) (fun d _ => d) (fun _ _ => []) ∧
  ItemStages .gateListWrite 0x0800 (fun d x => d.isActive = true ∧ (parseGates x.par).isSome = true) ∧
  ItemEnds .gateListWrite 0x0800 St.noSet (fun _ _ => True) (fun d _ => d) (fun _ _ => [])

/-- R293: ABORT_SET discards the staged items, which end with ABORTED, and completes OK; a transaction is also discarded when its session
closes, and when no item of it is taken for CHEDA_TMO.TXN_IDLE_S; without an open transaction of the session, and after COMMIT_SET has been
accepted, ABORT_SET and COMMIT_SET are refused with NO_SET. -/
def Obligations.AbortIsR293 : Prop :=
  (∀ (d e : Dev) (t : Txn), d.cheda.txn = some t → t.commit = none →
    e = (({ d with cheda := { d.cheda with txn := none } }.setFlag F.CHEDA_STAT.TXN_OPEN false).wr F.CHEDA_STAT.TXN_SESSION 0).raise 0x2A 9
      t.slot t.staged.length →
    d.discardTxn St.aborted = forEach t.staged (fun (g : Staged) (d : Dev) => d.finish g.item St.aborted []) e) ∧
  ItemEnds .abortSet 0x0012 St.ok (fun d x => (d.ownTxn x.slot).isSome = true) (fun d _ => d.discardTxn St.aborted) (fun _ _ => []) ∧
  (∀ (d e : Dev) (slot : Nat) (t : Txn), d.cheda.txn = some t → t.slot = slot → AMap.get d.cir.held slot [] = [] →
    e = ({ d with cir := { d.cir with held := AMap.del d.cir.held slot } }).discardTxn St.aborted →
    d.closeSession slot = { e with cheda := { e.cheda with
      sessions := AMap.del e.cheda.sessions slot
      replies := e.cheda.replies.filter (fun (r : ReplyRec) => r.slot ≠ slot) } }.gcItems) ∧
  (∀ (s : State) (d : Dev) (t : Txn) (due : Nat), s.dev = d → s.runs = true → d.cheda.txn = some t → t.commit = none →
    due = t.lastTb + 1000000000 * max 1 (d.rd F.CHEDA_TMO.TXN_IDLE_S) → d.before due = true →
    exec .txnIdleTimeout s = .next (s.put ((d.wait due).discardTxn St.aborted))) ∧
  ItemEnds .abortSet 0x0012 St.noSet (fun d x => ∀ t, d.cheda.txn = some t → t.slot ≠ x.slot ∨ t.commit.isSome = true) (fun d _ => d)
    (fun _ _ => []) ∧
  ItemEnds .commitSet 0x0011 St.noSet (fun d x => ∀ t, d.cheda.txn = some t → t.slot ≠ x.slot ∨ t.commit.isSome = true) (fun d _ => d)
    (fun _ _ => [])

/-! ## Items: registers, circuits, cells, tiles, loops, tables, drafts, reads, pair, firmware (chapter 13) -/

/-- Register items (R294): a read returns COUNT words from ADDR, each refusal by its own status; a write that every word's register takes is
mirrored where its chapter says so and ends with the peer; one that is refused reports the first word refused and writes nothing. Choices of
the model in it: assumptions 16, 17, 19. -/
def Obligations.RegisterItemsAct : Prop :=
  ItemEnds .regRead 0x0100 St.ok (fun _ x => Dev.regStatus false x (beAt x.par 0 4) (beAt x.par 4 2) = St.ok)
    (fun d x => (d.regReads (beAt x.par 0 4) (beAt x.par 4 2)).1) (fun d x => wordBytes (d.regReads (beAt x.par 0 4) (beAt x.par 4 2)).2) ∧
  (∀ st, st ≠ St.ok → st ≠ St.pending → ItemEnds .regRead 0x0100 st
    (fun _ x => Dev.regStatus false x (beAt x.par 0 4) (beAt x.par 4 2) = st) (fun d _ => d) (fun _ _ => [])) ∧
  (∀ (e : Dev) (mir : List Nat), ItemGoesOn .regWrite 0x0101 (fun d x =>
      Dev.regStatus true x (d.regItem 0x0101 x.par).1 (d.regItem 0x0101 x.par).2.length = St.ok ∧ d.stagedAddr 0x0101 x.par = false ∧
      d.regWrites (d.regItem 0x0101 x.par).1 0 (d.regItem 0x0101 x.par).2 [] = .ok (e, mir))
    (fun _ x => (e.mirrorConfig (e.regRecs mir) (some x.item)).finishAcked x.item St.ok [])) ∧
  (∀ (st i : Nat), st ≠ St.pending → ItemEnds .regWrite 0x0101 st (fun d x =>
      Dev.regStatus true x (d.regItem 0x0101 x.par).1 (d.regItem 0x0101 x.par).2.length = St.ok ∧ d.stagedAddr 0x0101 x.par = false ∧
      d.regWrites (d.regItem 0x0101 x.par).1 0 (d.regItem 0x0101 x.par).2 [] = .error (st, i))
    (fun d x => d.regRejected ((d.regItem 0x0101 x.par).1 + 4 * i) ((d.regItem 0x0101 x.par).2.getD i 0) st)
    (fun _ _ => beBytes 2 i ++ zeros 2)) ∧
  (∀ (e : Dev) (mir : List Nat), ItemGoesOn .regModify 0x0102 (fun d x =>
      Dev.regStatus true x (d.regItem 0x0102 x.par).1 (d.regItem 0x0102 x.par).2.length = St.ok ∧ d.stagedAddr 0x0102 x.par = false ∧
      d.regWrites (d.regItem 0x0102 x.par).1 0 (d.regItem 0x0102 x.par).2 [] = .ok (e, mir))
    (fun d x => (e.mirrorConfig (e.regRecs mir) (some x.item)).finishAcked x.item St.ok (beBytes 4 (d.regVal (d.regItem 0x0102 x.par).1)))) ∧
  (∀ (st i : Nat), st ≠ St.pending → ItemEnds .regModify 0x0102 st (fun d x =>
      Dev.regStatus true x (d.regItem 0x0102 x.par).1 (d.regItem 0x0102 x.par).2.length = St.ok ∧ d.stagedAddr 0x0102 x.par = false ∧
      d.regWrites (d.regItem 0x0102 x.par).1 0 (d.regItem 0x0102 x.par).2 [] = .error (st, i))
    (fun d x => d.regRejected ((d.regItem 0x0102 x.par).1 + 4 * i) ((d.regItem 0x0102 x.par).2.getD i 0) st) (fun _ _ => [])) ∧
  (∀ (row : ItemSrc → List Byte → Instr) (op : Nat), (row = .regWrite ∧ op = 0x0101 ∨ row = .regModify ∧ op = 0x0102) →
    (∀ st, st ≠ St.ok → st ≠ St.pending → ItemEnds row op st
      (fun d x => Dev.regStatus true x (d.regItem op x.par).1 (d.regItem op x.par).2.length = st) (fun d _ => d) (fun _ _ => [])) ∧
    ItemEnds row op St.busy (fun d x => Dev.regStatus true x (d.regItem op x.par).1 (d.regItem op x.par).2.length = St.ok ∧
      d.stagedAddr op x.par = true) (fun d _ => d) (fun _ _ => [])) ∧
  (∀ (d : Dev) (par : List Byte), d.regItem 0x0102 par = (beAt par 0 4,
    [(d.regVal (beAt par 0 4) &&& (0xFFFFFFFF - beAt par 4 4)) ||| (beAt par 8 4 &&& beAt par 4 4)])) ∧
  (∀ (s : State) (d e : Dev) (a v : Nat), s.dev = d → s.runs = true → (d.regWrite a v) = (e, St.ok) → exec (.registerWrite a v) s =
      .next (s.put (e.mirrorConfig (if d.regMirrored a || e.regMirrored a then [(a, .reg (e.mirVal a))] else []) none))) ∧
  (∀ (s : State) (d e : Dev) (a v st : Nat), s.dev = d → s.runs = true → (d.regWrite a v) = (e, st) → st ≠ St.ok →
    exec (.registerWrite a v) s = .next (s.put (d.regRejected a v st)))

/-- Circuit commands (R121 - R124, R149, R297): refused by their checks, held for a group, timed, or entered in commit order at once.
Choices of the model in it: assumptions 45, 46. -/
def Obligations.CircuitItemsAct : Prop :=
  (∀ (row : ItemSrc → List Byte → Instr) (op : Nat),
    (row = .circuitEstablish ∧ op = 0x0200 ∨ row = .circuitRelease ∧ op = 0x0201 ∨ row = .circuitMigrate ∧ op = 0x0202 ∨
      row = .altArm ∧ op = 0x0203 ∨ row = .altDisarm ∧ op = 0x0204 ∨ row = .protectSwitch ∧ op = 0x0205) →
    (∀ st, st ≠ St.ok → st ≠ St.pending → ItemEnds row op st (fun d x => d.cirStatus (cirKind op) (parseCir x.par) = st) (fun d _ => d)
      (fun _ _ => cirNone)) ∧
    ItemGoesOn row op (fun d x => d.cirStatus (cirKind op) (parseCir x.par) = St.ok ∧
        (op = 0x0204 ∨ (bit (parseCir x.par).flags 0 = false ∧ bit (parseCir x.par).flags 1 = false)))
      (fun d x => d.enqueue (some x.item) (cirKind op) (parseCir x.par) [] none false) ∧
    ItemEnds row op St.valueInvalid (fun d x => d.cirStatus (cirKind op) (parseCir x.par) = St.ok ∧ op ≠ 0x0204 ∧
        bit (parseCir x.par).flags 1 = true ∧ d.ptpNow + 86400000000000 < (parseCir x.par).time) (fun d _ => d) (fun _ _ => cirNone) ∧
    ItemEnds row op St.busy (fun d x => d.cirStatus (cirKind op) (parseCir x.par) = St.ok ∧ op ≠ 0x0204 ∧
        bit (parseCir x.par).flags 0 = true ∧ (bit (parseCir x.par).flags 1 = true → (parseCir x.par).time ≤ d.ptpNow + 86400000000000) ∧
        2048 ≤ (AMap.get d.cir.held x.slot []).length) (fun d _ => d) (fun _ _ => cirNone) ∧
    ItemGoesOn row op (fun d x => d.cirStatus (cirKind op) (parseCir x.par) = St.ok ∧ op ≠ 0x0204 ∧ bit (parseCir x.par).flags 0 = true ∧
        (bit (parseCir x.par).flags 1 = true → (parseCir x.par).time ≤ d.ptpNow + 86400000000000) ∧
        (AMap.get d.cir.held x.slot []).length < 2048)
      (fun d x => { d with cir := { d.cir with held := AMap.put d.cir.held x.slot (AMap.get d.cir.held x.slot [] ++
        [{ item := x.item, kind := cirKind op, par := parseCir x.par }]) } }) ∧
    (∀ b late, ItemGoesOn row op (fun d x => d.cirStatus (cirKind op) (parseCir x.par) = St.ok ∧ op ≠ 0x0204 ∧
        bit (parseCir x.par).flags 0 = false ∧ bit (parseCir x.par).flags 1 = true ∧ d.timedAt (parseCir x.par).time = .ok (b, late))
      (fun d x => (if late then ((d.bump F.TIMED_STAT.LATE_CNT 1).count 0x1E).raise 0x0C 10 (parseCir x.par).id d.cir.csn else d).enqueue
        (some x.item) (cirKind op) (parseCir x.par) [] (some b) late)) ∧
    ItemEnds row op St.busy (fun d x => d.cirStatus (cirKind op) (parseCir x.par) = St.ok ∧ op ≠ 0x0204 ∧
        bit (parseCir x.par).flags 0 = false ∧ bit (parseCir x.par).flags 1 = true ∧
        (parseCir x.par).time ≤ d.ptpNow + 86400000000000 ∧ 64 ≤ d.timedCount) (fun d _ => d) (fun _ _ => cirNone) ∧
    ItemEnds row op St.timePast (fun d x => d.cirStatus (cirKind op) (parseCir x.par) = St.ok ∧ op ≠ 0x0204 ∧
        bit (parseCir x.par).flags 0 = false ∧ bit (parseCir x.par).flags 1 = true ∧ d.timedAt (parseCir x.par).time = .error St.timePast)
      (fun d x => ((d.bump F.TIMED_STAT.LATE_CNT 1).count 0x1E).raise 0x0C 10 (parseCir x.par).id d.cir.csn) (fun _ _ => cirNone)) ∧
  ItemEnds .groupCommit 0x0206 St.roleStandby (fun d _ => d.isActive = false) (fun d _ => d) (fun _ _ => cirNone) ∧
  ItemGoesOn .groupCommit 0x0206 (fun d x => d.isActive = true ∧ ∀ m ∈ AMap.get d.cir.held x.slot [], bit m.par.flags 1 = false)
    (fun d x => { d with cir := { d.cir with held := AMap.del d.cir.held x.slot } }.enqueue (some x.item) .group { noPar with time := 0 }
      (AMap.get d.cir.held x.slot []) none false) ∧
  (∀ (b : Nat) (late : Bool), ItemGoesOn .groupCommit 0x0206 (fun d x => d.isActive = true ∧ d.heldTimes x.slot ≠ [] ∧
      d.timedAt ((d.heldTimes x.slot).foldl max 0) = .ok (b, late))
    (fun d x =>
      let e : Dev := { d with cir := { d.cir with held := AMap.del d.cir.held x.slot } }
      (if late then ((e.bump F.TIMED_STAT.LATE_CNT 1).count 0x1E).raise 0x0C 10 0 e.cir.csn else e).enqueue (some x.item) .group
        { noPar with time := (d.heldTimes x.slot).foldl max 0 } (AMap.get d.cir.held x.slot []) (some b) late)) ∧
  (∀ st, st = St.busy ∨ st = St.valueInvalid → ItemEnds .groupCommit 0x0206 st (fun d x => d.isActive = true ∧ d.heldTimes x.slot ≠ [] ∧
      d.timedAt ((d.heldTimes x.slot).foldl max 0) = .error st) (fun d _ => d) (fun _ _ => cirNone)) ∧
  ItemEnds .groupCommit 0x0206 St.timePast (fun d x => d.isActive = true ∧ d.heldTimes x.slot ≠ [] ∧
      d.timedAt ((d.heldTimes x.slot).foldl max 0) = .error St.timePast)
    (fun d x =>
      let e : Dev := { d with cir := { d.cir with held := AMap.del d.cir.held x.slot } }
      forEach (AMap.get d.cir.held x.slot []) (fun (m : GroupMem) (d : Dev) => d.finish m.item St.timePast cirNone)
        (((e.bump F.TIMED_STAT.LATE_CNT 1).count 0x1E).raise 0x0C 10 0 e.cir.csn)) (fun _ _ => cirNone) ∧
  (∀ (d : Dev) (item : Option Nat) (kind : CmdKind) (par : CirPar) (ms : List GroupMem) (at_ : Option Nat) (late : Bool) (c : Cmd),
    c = {
          no := d.cir.nextCmd, item := item, kind := kind, par := par, members := ms, at_ := at_, plan := none, planFailed := none,
          moves := 0, darkMoves := 0, late := late, overridden := false, waited := [] } →
    (d.enqueue item kind par ms at_ late).cir.nextCmd = d.cir.nextCmd + 1 ∧
    ((kind = .protect ∧ at_ = none) → (d.enqueue item kind par ms at_ late).cir.prot = d.cir.prot ++ [c] ∧
      (d.enqueue item kind par ms at_ late).cir.queue = d.cir.queue) ∧
    ((kind ≠ .protect ∨ at_ ≠ none) → (d.enqueue item kind par ms at_ late).cir.queue = d.cir.queue ++ [c] ∧
      (d.enqueue item kind par ms at_ late).cir.prot = d.cir.prot))

/-- Circuit, path and plan reads and reservations (R121, R69, R154, R162). Choices of the model in it: assumptions 48, 52. -/
def Obligations.CircuitReadItemsEnd : Prop :=
  (∀ e, ItemEnds .circuitRead 0x0207 St.ok (fun d x => bit (beAt x.par 2 2) 13 = false ∧ beAt x.par 0 2 ≠ 0 ∧ beAt x.par 0 2 ≠ 0xFFFF ∧
    d.liveOf (beAt x.par 0 2) = some e) (fun d _ => d) (fun d _ => wordBytes (d.entryWords e))) ∧
  ItemEnds .circuitRead 0x0207 St.ok (fun _ x => bit (beAt x.par 2 2) 13 = true ∧ beAt x.par 0 2 ≤ 0x7FF) (fun d _ => d)
    (fun d x => wordBytes (d.entryWords (beAt x.par 0 2))) ∧
  ItemEnds .circuitRead 0x0207 St.valueInvalid (fun _ x => if bit (beAt x.par 2 2) 13 = true then 0x7FF < beAt x.par 0 2
    else beAt x.par 0 2 = 0 ∨ beAt x.par 0 2 = 0xFFFF) (fun d _ => d) (fun _ _ => []) ∧
  ItemEnds .circuitRead 0x0207 St.circuitUnknown (fun d x => bit (beAt x.par 2 2) 13 = false ∧ beAt x.par 0 2 ≠ 0 ∧
    beAt x.par 0 2 ≠ 0xFFFF ∧ d.liveOf (beAt x.par 0 2) = none) (fun d _ => d) (fun _ _ => []) ∧
  (∀ (e : Dev) (pick : Nat) (via : Option Nat) (route : List Hop) (h : Nat), ItemEnds .circuitReserve 0x0208 St.ok (fun d x =>
      d.isActive = true ∧ beAt x.par 0 2 < 1024 ∧ beAt x.par 2 2 < 1024 ∧
      (beAt x.par 4 1 = 255 ∧ via = none ∨ beAt x.par 4 1 < 16 ∧ via = some (beAt x.par 4 1)) ∧
      (List.range 256).find? (fun h => !d.tilth.rsv.any (fun (r : Rsv) => r.handle = h + 1)) = some h ∧ d.draw (2 ^ 32) = (pick, e) ∧
      e.planRoute (e.obst 0 .free none) true pick via (beAt x.par 0 2) (beAt x.par 2 2) = some route)
    (fun _ x => { e with tilth := { e.tilth with rsv := e.tilth.rsv ++ [{
      handle := h + 1, inPort := beAt x.par 0 2, outPort := beAt x.par 2 2, via := via,
      untilTb := e.time.tb + Dev.msNs (if beAt x.par 6 2 = 0 then e.rd F.TILTH_TMO.RSV_DEF_MS else beAt x.par 6 2), route := route }] } })
    (fun _ _ => beBytes 2 (h + 1) ++ zeros 2)) ∧
  (∀ (e : Dev) (pick : Nat) (via : Option Nat), ItemEnds .circuitReserve 0x0208 St.noRoute (fun d x =>
      d.isActive = true ∧ beAt x.par 0 2 < 1024 ∧ beAt x.par 2 2 < 1024 ∧
      (beAt x.par 4 1 = 255 ∧ via = none ∨ beAt x.par 4 1 < 16 ∧ via = some (beAt x.par 4 1)) ∧
      (∃ h < 256, ∀ r ∈ d.tilth.rsv, r.handle ≠ h + 1) ∧ d.draw (2 ^ 32) = (pick, e) ∧
      e.planRoute (e.obst 0 .free none) true pick via (beAt x.par 0 2) (beAt x.par 2 2) = none) (fun _ _ => e) (fun _ _ => [])) ∧
  ItemEnds .circuitReserve 0x0208 St.busy (fun d x => d.isActive = true ∧ beAt x.par 0 2 < 1024 ∧ beAt x.par 2 2 < 1024 ∧
    (beAt x.par 4 1 < 16 ∨ beAt x.par 4 1 = 255) ∧ ∀ h < 256, ∃ r ∈ d.tilth.rsv, r.handle = h + 1) (fun d _ => d) (fun _ _ => []) ∧
  ItemEnds .circuitReserve 0x0208 St.valueInvalid (fun d x => d.isActive = true ∧ (1024 ≤ beAt x.par 0 2 ∨ 1024 ≤ beAt x.par 2 2 ∨
    (16 ≤ beAt x.par 4 1 ∧ beAt x.par 4 1 ≠ 255))) (fun d _ => d) (fun _ _ => []) ∧
  ItemEnds .circuitReserve 0x0208 St.roleStandby (fun d _ => d.isActive = false) (fun d _ => d) (fun _ _ => []) ∧
  ItemEnds .reserveCancel 0x0209 St.ok (fun d x => d.isActive = true ∧ ∃ r ∈ d.tilth.rsv, r.handle = beAt x.par 0 2)
    (fun d x => d.dropRsv (beAt x.par 0 2) 0) (fun _ _ => []) ∧
  ItemEnds .reserveCancel 0x0209 St.roleStandby (fun d _ => d.isActive = false) (fun d _ => d) (fun _ _ => []) ∧
  ItemEnds .reserveCancel 0x0209 St.rsvUnknown (fun d x => d.isActive = true ∧ ∀ r ∈ d.tilth.rsv, r.handle ≠ beAt x.par 0 2) (fun d _ => d)
    (fun _ _ => []) ∧
  ItemEnds .planStatus 0x020A St.roleStandby (fun d _ => d.isActive = false) (fun d _ => d) (fun _ _ => []) ∧
  ItemEnds .planStatus 0x020A St.valueInvalid (fun d x => d.isActive = true ∧ (1 < beAt x.par 0 1 ∨
    beAt x.par 0 1 = 0 ∧ (beAt x.par 2 2 = 0 ∨ beAt x.par 2 2 = 0xFFFF))) (fun d _ => d) (fun _ _ => []) ∧
  ItemEnds .planStatus 0x020A St.circuitUnknown (fun d x => d.isActive = true ∧ beAt x.par 0 1 = 0 ∧ beAt x.par 2 2 ≠ 0 ∧
    beAt x.par 2 2 ≠ 0xFFFF ∧ d.altOf (beAt x.par 2 2) = none) (fun d _ => d) (fun _ _ => []) ∧
  ItemEnds .planStatus 0x020A St.rsvUnknown (fun d x => d.isActive = true ∧ beAt x.par 0 1 = 1 ∧
    ∀ r ∈ d.tilth.rsv, r.handle ≠ beAt x.par 2 2) (fun d _ => d) (fun _ _ => []) ∧
  (∀ a, ItemEnds .planStatus 0x020A St.ok (fun d x => d.isActive = true ∧ beAt x.par 0 1 = 0 ∧ beAt x.par 2 2 ≠ 0 ∧
      beAt x.par 2 2 ≠ 0xFFFF ∧ d.altOf (beAt x.par 2 2) = some a)
    (fun d _ => d) (fun d _ => beBytes 1 (if d.altArmed a then 1 else 0) ++ zeros 3)) ∧
  (∀ r : Rsv, ItemEnds .planStatus 0x020A St.ok (fun d x => d.isActive = true ∧ beAt x.par 0 1 = 1 ∧
      d.tilth.rsv.find? (fun (r : Rsv) => r.handle = beAt x.par 2 2) = some r)
    (fun d _ => d) (fun d _ => beBytes 1 (if d.planArmed [] r.route then 1 else 0) ++ zeros 3)) ∧
  ItemEnds .pathRead 0x020B St.ok (fun _ x => beAt x.par 0 2 ≤ 0x7FF) (fun d _ => d) (fun d x => wordBytes (d.pathWords (beAt x.par 0 2))) ∧
  ItemEnds .pathRead 0x020B St.valueInvalid (fun _ x => 0x7FF < beAt x.par 0 2) (fun d _ => d) (fun _ _ => [])

/-- Cell and tile items (R102, R103, R108, R117, R428): what each asks of a present tile in its mode, and what refuses it. Choices of the
model in it: assumptions 19, 31, 38. -/
def Obligations.CellAndTileItemsAct : Prop :=
  (∀ c, ItemEnds .cellRead 0x0300 St.ok (fun d x => epaCell (beAt x.par 0 4) = some c ∧ d.tileRole (cellTile c) ≠ 0) (fun d _ => d)
    (fun d _ => wordBytes (d.cellReport c))) ∧
  ItemEnds .cellRead 0x0300 St.epaInvalid (fun _ x => epaCell (beAt x.par 0 4) = none) (fun d _ => d) (fun _ _ => []) ∧
  (∀ c, ItemGoesOn .cellFreeze 0x0301 (fun d x => epaCell (beAt x.par 0 4) = some c ∧ d.controls = true ∧ d.tileRole (cellTile c) ≠ 0 ∧
      (d.cellMode c = Cm.hold ∨ d.cellMode c = Cm.parked) ∧ d.flag (F.CELL.ALT c) = false ∧ d.tileMode (cellTile c) ≠ Tm.offline)
    (fun d x => (d.updAux c (fun a => { a with freezeItems := a.freezeItems ++ [x.item] })).trigger c 5 (.freeze x.item))) ∧
  (∀ c, ItemGoesOn .cellFreeze 0x0301 (fun d x => epaCell (beAt x.par 0 4) = some c ∧ d.controls = true ∧ d.tileRole (cellTile c) ≠ 0 ∧
      d.cellMode c ∉ [Cm.hold, Cm.parked, Cm.frozen, Cm.cal, Cm.faulted] ∧ d.flag (F.CELL.ALT c) = false ∧
      d.tileMode (cellTile c) ≠ Tm.offline)
    (fun d x =>
      let e := (d.updAux c (fun a => { a with freezeItems := a.freezeItems ++ [x.item] })).setFlag (F.CELL.FREEZE_PEND c) true
      if d.cellMode c = Cm.warm then e.trigger c 7 (.undo 2) else e)) ∧
  (∀ c, ItemEnds .cellFreeze 0x0301 St.modeRefused (fun d x => epaCell (beAt x.par 0 4) = some c ∧ d.controls = true ∧
      d.tileRole (cellTile c) ≠ 0 ∧ d.cellMode c ≠ Cm.frozen ∧ (d.cellMode c = Cm.cal ∨ d.cellMode c = Cm.faulted ∨
      d.flag (F.CELL.ALT c) = true ∨ d.tileMode (cellTile c) = Tm.offline)) (fun d _ => d) (fun _ _ => [])) ∧
  (∀ c, ItemEnds .cellFreeze 0x0301 St.ok (fun d x => epaCell (beAt x.par 0 4) = some c ∧ d.controls = true ∧ d.tileRole (cellTile c) ≠ 0 ∧
      d.cellMode c = Cm.frozen) (fun d _ => d) (fun _ _ => [])) ∧
  (∀ c, ItemGoesOn .cellUnfreeze 0x0302 (fun d x => epaCell (beAt x.par 0 4) = some c ∧ d.controls = true ∧ d.tileRole (cellTile c) ≠ 0 ∧
      d.cellMode c = Cm.frozen) (fun d x => d.trigger c 5 (.unfreeze x.item))) ∧
  (∀ c, ItemEnds .cellUnfreeze 0x0302 St.ok (fun d x => epaCell (beAt x.par 0 4) = some c ∧ d.controls = true ∧ d.tileRole (cellTile c) ≠ 0 ∧
      d.cellMode c ≠ Cm.frozen) (fun d _ => d) (fun _ _ => [])) ∧
  (∀ c, ItemGoesOn .cellCal 0x0303 (fun d x => epaCell (beAt x.par 0 4) = some c ∧ d.controls = true ∧ d.tileRole (cellTile c) ≠ 0 ∧
      d.spotAllowed c = true ∧ ∀ r ∈ d.cal.runs, r.cell ≠ some c)
    (fun d x => ((d.startCal {
      tile := cellTile c, cell := some c, pass := calPassOf c, item := some x.item, fails := 0, aborted := false,
      stage8 := false }).updAux c (fun a => { a with calItem := some x.item })).trigger c 6 .calStart)) ∧
  (∀ c, ItemEnds .cellCal 0x0303 St.modeRefused (fun d x => epaCell (beAt x.par 0 4) = some c ∧ d.controls = true ∧
      d.tileRole (cellTile c) ≠ 0 ∧ (d.spotAllowed c = false ∨ ∃ r ∈ d.cal.runs, r.cell = some c)) (fun d _ => d) (fun _ _ => [])) ∧
  (∀ (row : ItemSrc → List Byte → Instr) (op : Nat),
    (row = .cellFreeze ∧ op = 0x0301 ∨ row = .cellUnfreeze ∧ op = 0x0302 ∨ row = .cellCal ∧ op = 0x0303) →
    ItemEnds row op St.epaInvalid (fun _ x => epaCell (beAt x.par 0 4) = none) (fun d _ => d) (fun _ _ => []) ∧
    ItemEnds row op St.roleStandby (fun d x => (epaCell (beAt x.par 0 4)).isSome = true ∧ d.controls = false) (fun d _ => d)
      (fun _ _ => []) ∧
    ItemEnds row op St.tileAbsent (fun d x => ∃ c, epaCell (beAt x.par 0 4) = some c ∧ d.controls = true ∧ d.tileRole (cellTile c) = 0)
      (fun d _ => d) (fun _ _ => [])) ∧
  (∀ c, ItemEnds .cellRead 0x0300 St.tileAbsent (fun d x => epaCell (beAt x.par 0 4) = some c ∧ d.tileRole (cellTile c) = 0) (fun d _ => d)
    (fun _ _ => [])) ∧
  (∀ t, ItemGoesOn .tileActivate 0x0310 (fun d x => beAt x.par 0 1 = t ∧ t < 16 ∧ d.isActive = true ∧ d.tileRole t ≠ 0 ∧
      d.tileMode t = Tm.fenced ∧ d.flag (F.TILE_MODE.CAL_VALID t) = true ∧ (d.link t).wakeFor = none)
    (fun d x => d.startWake t (some Tm.active) [x.item] false)) ∧
  (∀ t, ItemGoesOn .tileActivate 0x0310 (fun d x => beAt x.par 0 1 = t ∧ t < 16 ∧ d.isActive = true ∧ d.tileRole t ≠ 0 ∧
      d.tileMode t = Tm.fenced ∧ d.flag (F.TILE_MODE.CAL_VALID t) = true ∧ (d.link t).wakeFor = some Tm.active)
    (fun d x => d.updLink t (fun k => { k with wakeItems := k.wakeItems ++ [x.item] }))) ∧
  (∀ t w, ItemEnds .tileActivate 0x0310 St.busy (fun d x => beAt x.par 0 1 = t ∧ t < 16 ∧ d.isActive = true ∧ d.tileRole t ≠ 0 ∧
      d.tileMode t = Tm.fenced ∧ d.flag (F.TILE_MODE.CAL_VALID t) = true ∧ (d.link t).wakeFor = some w ∧ w ≠ Tm.active) (fun d _ => d)
    (fun _ _ => [])) ∧
  (∀ t, ItemEnds .tileActivate 0x0310 St.modeRefused (fun d x => beAt x.par 0 1 = t ∧ t < 16 ∧ d.isActive = true ∧ d.tileRole t ≠ 0 ∧
      d.tileMode t ≠ Tm.active ∧ (d.tileMode t ≠ Tm.fenced ∨ d.flag (F.TILE_MODE.CAL_VALID t) = false)) (fun d _ => d) (fun _ _ => [])) ∧
  (∀ (row : ItemSrc → List Byte → Instr) (op m : Nat),
    (row = .tileActivate ∧ op = 0x0310 ∧ m = Tm.active ∨ row = .tileFence ∧ op = 0x0311 ∧ m = Tm.fenced ∨
      row = .tileOffline ∧ op = 0x0313 ∧ m = Tm.offline) →
    ItemEnds row op St.ok (fun d x => beAt x.par 0 1 < 16 ∧ d.isActive = true ∧ d.tileRole (beAt x.par 0 1) ≠ 0 ∧
      d.tileMode (beAt x.par 0 1) = m) (fun d _ => d) (fun _ _ => [])) ∧
  (∀ (row : ItemSrc → List Byte → Instr) (op a b : Nat),
    (row = .tileFence ∧ op = 0x0311 ∧ a = Tm.fenced ∧ b = Tm.active ∨ row = .tileCalibrate ∧ op = 0x0312 ∧ a = Tm.cal ∧ b = Tm.fenced ∨
      row = .tileOffline ∧ op = 0x0313 ∧ a = Tm.offline ∧ b = Tm.fenced) →
    ItemEnds row op St.modeRefused (fun d x => beAt x.par 0 1 < 16 ∧ d.isActive = true ∧ d.tileRole (beAt x.par 0 1) ≠ 0 ∧
      d.tileMode (beAt x.par 0 1) ≠ a ∧ d.tileMode (beAt x.par 0 1) ≠ b) (fun d _ => d) (fun _ _ => [])) ∧
  (∀ t, ItemEnds .tileCalibrate 0x0312 St.busy (fun d x => beAt x.par 0 1 = t ∧ t < 16 ∧ d.isActive = true ∧ d.tileRole t ≠ 0 ∧
      (d.tileMode t = Tm.cal ∨ d.tileMode t = Tm.fenced ∧ ((∃ r ∈ d.cal.runs, r.tile = t) ∨ (d.link t).wakeFor ≠ none))) (fun d _ => d)
    (fun _ _ => [])) ∧
  (∀ t, ItemGoesOn .tileFence 0x0311 (fun d x => beAt x.par 0 1 = t ∧ t < 16 ∧ d.isActive = true ∧ d.tileRole t ≠ 0 ∧
      d.tileMode t = Tm.active ∧ ∀ e ∈ d.usedEntries, ∀ h ∈ d.route e, h.tile ≠ t)
    (fun d x => d.tileTrigger t Tm.fenced false [x.item])) ∧
  (∀ t e, ItemEnds .tileFence 0x0311 St.tileBusy (fun d x => beAt x.par 0 1 = t ∧ t < 16 ∧ d.isActive = true ∧ d.tileRole t ≠ 0 ∧
      d.tileMode t = Tm.active ∧ e ∈ d.usedEntries ∧ ∃ h ∈ d.route e, h.tile = t) (fun d _ => d) (fun _ _ => [])) ∧
  (∀ t, ItemGoesOn .tileCalibrate 0x0312 (fun d x => beAt x.par 0 1 = t ∧ t < 16 ∧ d.isActive = true ∧ d.tileRole t ≠ 0 ∧
      d.tileMode t = Tm.fenced ∧ (∀ r ∈ d.cal.runs, r.tile ≠ t) ∧ (d.link t).wakeFor = none)
    (fun d x => (d.startCal {
      tile := t, cell := none, pass := 0, item := some x.item, fails := 0, aborted := false,
      stage8 := false }).startWake t (some Tm.cal) [] false)) ∧
  (∀ t, ItemGoesOn .tileOffline 0x0313 (fun d x => beAt x.par 0 1 = t ∧ t < 16 ∧ d.isActive = true ∧ d.tileRole t ≠ 0 ∧
      d.tileMode t = Tm.fenced) (fun d x => d.tileTrigger t Tm.offline false [x.item])) ∧
  (∀ (row : ItemSrc → List Byte → Instr) (op : Nat),
    (row = .tileActivate ∧ op = 0x0310 ∨ row = .tileFence ∧ op = 0x0311 ∨ row = .tileCalibrate ∧ op = 0x0312 ∨
      row = .tileOffline ∧ op = 0x0313) →
    ItemEnds row op St.roleStandby (fun d _ => d.isActive = false) (fun d _ => d) (fun _ _ => []) ∧
    ItemEnds row op St.valueInvalid (fun d x => d.isActive = true ∧ 15 < beAt x.par 0 1) (fun d _ => d) (fun _ _ => []) ∧
    ItemEnds row op St.tileAbsent (fun d x => beAt x.par 0 1 < 16 ∧ d.isActive = true ∧ d.tileRole (beAt x.par 0 1) = 0) (fun d _ => d)
      (fun _ _ => []))

/-- Loop, coefficient, treadle and draft items (R70 - R76, R88, R92, R95, R37, R46). Choices of the model in it: assumptions 19, 39, 44, 81.
-/
def Obligations.LoopAndTableItemsAct : Prop :=
  ItemEnds .loopRead 0x0400 St.ok (fun d x => d.tileRole (loopTile (beAt x.par 0 2)) ≠ 0 ∧ beAt x.par 2 1 % 4 = 0 ∧ 0 < beAt x.par 3 1 ∧
      beAt x.par 3 1 ≤ 32 ∧ beAt x.par 2 1 + 4 * beAt x.par 3 1 ≤ 0x80)
    (fun d _ => d) (fun d x => wordBytes ((List.range (beAt x.par 3 1)).map (fun i => d.loopWord (beAt x.par 0 2) (beAt x.par 2 1 + 4 * i)))) ∧
  (∀ ws, ItemGoesOn .loopWrite 0x0401 (fun d x => d.loopWriteOf x.par = .ok ws ∧ d.stagedAddr 0x0401 x.par = false)
    (fun d x => { d with loop := { d.loop with
      shadow := ws.foldl (fun (m : List (Nat × Nat)) (kv : Nat × Nat) => AMap.put m kv.1 kv.2) d.loop.shadow
      shadowItems := d.loop.shadowItems ++ [x.item] } })) ∧
  (∀ st, st ≠ St.pending → ItemEnds .loopWrite 0x0401 st (fun d x => d.loopWriteOf x.par = .error st) (fun d _ => d) (fun _ _ => [])) ∧
  ItemEnds .loopRead 0x0400 St.tileAbsent (fun d x => d.tileRole (loopTile (beAt x.par 0 2)) = 0) (fun d _ => d) (fun _ _ => []) ∧
  ItemEnds .loopRead 0x0400 St.valueInvalid (fun d x => d.tileRole (loopTile (beAt x.par 0 2)) ≠ 0 ∧ (beAt x.par 2 1 % 4 ≠ 0 ∨
    beAt x.par 3 1 = 0 ∨ 0x80 < beAt x.par 2 1 + 4 * beAt x.par 3 1)) (fun d _ => d) (fun _ _ => []) ∧
  ItemGoesOn .loopMove 0x0402 (fun d x => d.tileRole (loopTile (beAt x.par 0 2)) ≠ 0 ∧ beAt x.par 2 1 < 64 ∧ beAt x.par 4 2 < 1024 ∧
      d.engineOf (beAt x.par 0 2) ≠ beAt x.par 2 1 ∧
      ∀ y ∈ d.loop.moves, ∀ i ∈ [d.slotOf y.loop, y.engine * 1024 + y.slot],
        i ≠ d.slotOf (beAt x.par 0 2) ∧ i ≠ beAt x.par 2 1 * 1024 + beAt x.par 4 2)
    (fun d x =>
      let m : Move := { loop := beAt x.par 0 2, engine := beAt x.par 2 1, slot := beAt x.par 4 2, item := some x.item }
      ({ d with loop := { d.loop with moves := d.loop.moves ++ [m] } }.keepLoop m.loop).setFlag (F.LOOP.MOVING m.loop) true) ∧
  ItemEnds .loopMove 0x0402 St.busy (fun d x => d.tileRole (loopTile (beAt x.par 0 2)) ≠ 0 ∧ beAt x.par 2 1 < 64 ∧ beAt x.par 4 2 < 1024 ∧
      d.engineOf (beAt x.par 0 2) ≠ beAt x.par 2 1 ∧
      ∃ y ∈ d.loop.moves, ∃ i ∈ [d.slotOf y.loop, y.engine * 1024 + y.slot],
        i = d.slotOf (beAt x.par 0 2) ∨ i = beAt x.par 2 1 * 1024 + beAt x.par 4 2) (fun d _ => d) (fun _ _ => []) ∧
  ItemEnds .loopMove 0x0402 St.valueInvalid (fun d x => d.tileRole (loopTile (beAt x.par 0 2)) ≠ 0 ∧ (63 < beAt x.par 2 1 ∨
      1023 < beAt x.par 4 2 ∨ d.engineOf (beAt x.par 0 2) = beAt x.par 2 1)) (fun d _ => d) (fun _ _ => []) ∧
  ItemEnds .coefRead 0x0403 St.ok (fun _ x => beAt x.par 0 1 < 64 ∧ beAt x.par 1 1 % 4 = 0 ∧ 0 < beAt x.par 2 1 ∧
      beAt x.par 1 1 + 4 * beAt x.par 2 1 ≤ 0x100)
    (fun d _ => d) (fun d x => wordBytes (((d.setWords (beAt x.par 0 1)).drop (beAt x.par 1 1 / 4)).take (beAt x.par 2 1))) ∧
  ItemEnds .coefRead 0x0403 St.valueInvalid (fun _ x => 63 < beAt x.par 0 1 ∨ beAt x.par 1 1 % 4 ≠ 0 ∨ beAt x.par 2 1 = 0 ∨
      0x100 < beAt x.par 1 1 + 4 * beAt x.par 2 1) (fun d _ => d) (fun _ _ => []) ∧
  ItemEnds .coefWrite 0x0404 St.roleStandby (fun d _ => d.controls = false) (fun d _ => d) (fun _ _ => []) ∧
  (∀ ws, ItemGoesOn .coefWrite 0x0404 (fun d x => d.controls = true ∧ coefWriteOf x.par = .ok ws ∧ d.stagedAddr 0x0404 x.par = false)
    (fun d x =>
      let sh := ws.foldl (fun (m : List (Nat × Nat)) (kv : Nat × Nat) => AMap.put m kv.1 kv.2) d.loop.coefShadow
      let e := { d with loop := { d.loop with coefShadow := sh, coefItems := d.loop.coefItems ++ [x.item] } }
      e.mirrorConfig [(beAt x.par 0 1, .coefSet ((forEach sh (fun (kv : Nat × Nat) (d : Dev) => d.putCoefKey kv.1 kv.2) e).setWords
        (beAt x.par 0 1)))] (some x.item))) ∧
  ItemEnds .treadleRead 0x0500 St.ok (fun d x => d.tileRole (loopTile (beAt x.par 0 2)) ≠ 0) (fun d _ => d)
    (fun d x => (List.range 256).flatMap (fun b => beBytes 2 (d.binRd (beAt x.par 0 2) b))) ∧
  ItemGoesOn .treadleWrite 0x0501 (fun d x => d.tableStatus (beAt x.par 0 2) = St.ok ∧ d.stagedAddr 0x0501 x.par = false)
    (fun d x => { d with trd := { d.trd with write := d.trd.write ++ [(beAt x.par 0 2, tablePairs (x.par.drop 4), x.item)] } }) ∧
  (∀ st, st ≠ St.ok → st ≠ St.pending → ItemEnds .treadleWrite 0x0501 st (fun d x => d.tableStatus (beAt x.par 0 2) = st) (fun d _ => d)
    (fun _ _ => [])) ∧
  ItemGoesOn .treadleClear 0x0502 (fun d x => d.cheda.txn = none ∧ (beAt x.par 0 1 = 0 ∧ d.tileRole (loopTile (beAt x.par 2 2)) ≠ 0 ∨
      beAt x.par 0 1 = 1 ∧ beAt x.par 2 2 < 16))
    (fun d x =>
      let r : ClrReq := if beAt x.par 0 1 = 0 then { loops := [beAt x.par 2 2], others := false, but := [], item := some x.item }
        else { d.classLoops (beAt x.par 2 2) with item := some x.item }
      { d with trd := { d.trd with clears := d.trd.clears ++ [r] } }) ∧
  ItemEnds .treadleClear 0x0502 St.busy (fun d x => beAt x.par 0 1 = 0 ∧ d.tileRole (loopTile (beAt x.par 2 2)) ≠ 0 ∧
      ∃ t, d.cheda.txn = some t ∧ ∃ s ∈ t.staged, s.op = 0x0501 ∧ beAt s.par 0 2 = beAt x.par 2 2) (fun d _ => d) (fun _ _ => []) ∧
  ItemEnds .treadleClear 0x0502 St.valueInvalid (fun _ x => 1 < beAt x.par 0 1 ∨ beAt x.par 0 1 = 1 ∧ 15 < beAt x.par 2 2) (fun d _ => d)
    (fun _ _ => []) ∧
  ItemEnds .treadleClear 0x0502 St.tileAbsent (fun d x => beAt x.par 0 1 = 0 ∧ d.tileRole (loopTile (beAt x.par 2 2)) = 0) (fun d _ => d)
    (fun _ _ => []) ∧
  ItemGoesOn .treadleSave 0x0503 (fun d _ => d.trd.save = none)
    (fun d x => ({ d with trd := { d.trd with save := some { item := some x.item, gen := d.treadleGen } } }).marlAsk 3 .treadle
      (some x.item)) ∧
  ItemEnds .treadleSave 0x0503 St.busy (fun d _ => d.trd.save.isSome = true) (fun d _ => d) (fun _ _ => []) ∧
  ItemEnds .draftRead 0x0600 St.ok (fun _ x => beAt x.par 0 1 ≤ 1 ∧ 4 ≤ beAt x.par 2 2 ∧ beAt x.par 2 2 ≤ 4096 ∧ beAt x.par 2 2 % 4 = 0 ∧
      beAt x.par 4 4 % 4 = 0 ∧ beAt x.par 4 4 + beAt x.par 2 2 ≤ 131072)
    (fun d _ => d) (fun d x => wordBytes ((List.range (beAt x.par 2 2 / 4)).map (fun i =>
      draftWord (if beAt x.par 0 1 = 0 then d.draft.active else d.draft.staged) (beAt x.par 4 4 + 4 * i)))) ∧
  ItemEnds .draftRead 0x0600 St.valueInvalid (fun _ x => 1 < beAt x.par 0 1 ∨ beAt x.par 2 2 < 4 ∨ 4096 < beAt x.par 2 2 ∨
      beAt x.par 2 2 % 4 ≠ 0 ∨ beAt x.par 4 4 % 4 ≠ 0 ∨ 131072 < beAt x.par 4 4 + beAt x.par 2 2) (fun d _ => d) (fun _ _ => []) ∧
  (∀ (row : ItemSrc → List Byte → Instr) (op : Nat),
    (row = .draftWrite ∧ op = 0x0601 ∨ row = .draftLoadPredefined ∧ op = 0x0602) →
    ItemEnds row op St.roleStandby (fun d _ => d.isActive = false) (fun d _ => d) (fun _ _ => []) ∧
    (∀ st, st ≠ St.ok → st ≠ St.pending → ItemEnds row op st (fun d x => d.isActive = true ∧ draftForm op x.par = st) (fun d _ => d)
      (fun _ _ => [])) ∧
    ItemEnds row op St.busy (fun d x => d.isActive = true ∧ draftForm op x.par = St.ok ∧
      (d.draftLocked = true ∨ d.stagedAddr op x.par = true)) (fun d _ => d)
      (fun _ _ => []) ∧
    ItemGoesOn row op (fun d x => d.isActive = true ∧ draftForm op x.par = St.ok ∧ d.draftLocked = false ∧ d.stagedAddr op x.par = false)
      (fun d x =>
        let e := { d with draft := { d.draft with staged := draftPut d.draft.staged op x.par } }
        (e.mirrorConfig [(0, .staged op x.par)] (some x.item)).finishAcked x.item St.ok []))

/-- Monitor, gate, time, pair and start-up items (R391, R392, R379, R410, R316, R332, R360, R361, R296, R422). Choices of the model in it:
assumptions 33, 35, 66, 77, 79, 87. -/
def Obligations.ServiceItemsAct : Prop :=
  ItemEnds .counterRead 0x0700 St.ok (fun _ x => 0 < beAt x.par 1 1 ∧ beAt x.par 0 1 + beAt x.par 1 1 ≤ 64) (fun d _ => d)
    (fun d x => beBytes 8 d.perf.snap.pick ++ (List.range (beAt x.par 1 1)).flatMap (fun i => ctrEntry d.perf.snap (beAt x.par 0 1 + i))) ∧
  ItemEnds .counterRead 0x0700 St.valueInvalid (fun _ x => beAt x.par 1 1 = 0 ∨ 64 < beAt x.par 0 1 + beAt x.par 1 1) (fun d _ => d)
    (fun _ _ => []) ∧
  ItemEnds .histoRead 0x0701 St.valueInvalid (fun _ x => 34 < beAt x.par 0 1) (fun d _ => d) (fun _ _ => []) ∧
  ItemEnds .histoRead 0x0701 St.ok (fun _ x => beAt x.par 0 1 ≤ 34) (fun d _ => d)
    (fun d x => beBytes 8 d.perf.snap.pick ++ histoEntry d.perf.snap (beAt x.par 0 1)) ∧
  (∀ r : ClearReq, ItemGoesOn .statsClear 0x0702 (fun _ x => r = {
        scope := beAt x.par 0 1, classes := beAt x.par 2 2,
        cmask := beAt x.par 4 8, umask := beAt x.par 12 8, item := x.item } ∧ 0 < r.scope ∧ r.scope < 8 ∧ r.umask < 2 ^ 35)
    (fun d _ => { d with perf := { d.perf with clears := d.perf.clears ++ [r] } })) ∧
  ItemEnds .statsClear 0x0702 St.valueInvalid (fun _ x => beAt x.par 0 1 = 0 ∨ 7 < beAt x.par 0 1 ∨ 2 ^ 35 ≤ beAt x.par 12 8) (fun d _ => d)
    (fun _ _ => []) ∧
  ItemEnds .logRead 0x0703 St.valueInvalid (fun _ x => 1 < beAt x.par 0 1 ∨ beAt x.par 2 2 = 0 ∨ 43 < beAt x.par 2 2) (fun d _ => d)
    (fun _ _ => []) ∧
  ItemEnds .logRead 0x0703 St.ok (fun _ x => beAt x.par 0 1 ≤ 1 ∧ 0 < beAt x.par 2 2 ∧ beAt x.par 2 2 ≤ 43) (fun d _ => d) (fun d x =>
    let recs := if beAt x.par 0 1 = 0 then d.ev.log else d.nv.faultLog
    let next := if beAt x.par 0 1 = 0 then d.ev.logNext else d.nv.faultNext
    let oldest := next - recs.length
    let start := if beAt x.par 4 8 = 2 ^ 64 - 1 then max oldest (next - beAt x.par 2 2) else max (beAt x.par 4 8) oldest
    let rs := (recs.drop (start - oldest)).take (beAt x.par 2 2)
    beBytes 8 start ++ beBytes 8 oldest ++ beBytes 2 rs.length ++ zeros 6 ++ rs.flatMap EvRec.bytes) ∧
  ItemEnds .traceRead 0x0704 St.valueInvalid (fun _ x => 1 < beAt x.par 0 1 ∨ beAt x.par 2 2 = 0 ∨
    (if beAt x.par 1 1 % 2 = 1 then 2048 else if beAt x.par 0 1 = 0 then 87 else 7) < beAt x.par 2 2) (fun d _ => d) (fun _ _ => []) ∧
  ItemEnds .traceRead 0x0704 St.busy (fun d x => beAt x.par 0 1 ≤ 1 ∧ beAt x.par 1 1 % 2 = 1 ∧ 0 < beAt x.par 2 2 ∧ beAt x.par 2 2 ≤ 2048 ∧
    d.loam.export_ ≠ none) (fun d _ => d) (fun _ _ => []) ∧
  ItemEnds .traceRead 0x0704 St.ok (fun _ x => beAt x.par 0 1 ≤ 1 ∧ beAt x.par 1 1 % 2 = 0 ∧ 0 < beAt x.par 2 2 ∧
      beAt x.par 2 2 ≤ (if beAt x.par 0 1 = 0 then 87 else 7)) (fun d _ => d)
    (fun d x =>
      let r := d.traceSpan (beAt x.par 0 1) (beAt x.par 4 8) (beAt x.par 2 2)
      beBytes 8 r.1 ++ beBytes 8 r.2.1 ++ beBytes 2 r.2.2 ++ zeros 6 ++ (d.ringBytes (beAt x.par 0 1) r.1 r.2.2).flatten) ∧
  ItemGoesOn .traceRead 0x0704 (fun d x => beAt x.par 0 1 ≤ 1 ∧ beAt x.par 1 1 % 2 = 1 ∧ 0 < beAt x.par 2 2 ∧ beAt x.par 2 2 ≤ 2048 ∧
      d.loam.export_ = none)
    (fun d x =>
      let r := d.traceSpan (beAt x.par 0 1) (beAt x.par 4 8) (beAt x.par 2 2 * 65536)
      let e : Dev := { d with loam := { d.loam with export_ := some { src := beAt x.par 0 1, slot := x.slot, start := r.1, count := r.2.2,
                                                                      item := x.item, pick := d.pick.num, time := d.ptpNow } } }
      (e.setFlag F.TRACE_STAT.EXPORTING true).updItem x.item (fun (i : ItemRec) => { i with
        result := beBytes 8 r.1 ++ beBytes 8 r.2.1 ++ beBytes 2 (min r.2.2 65535) ++ zeros 6 })) ∧
  ItemEnds .gateListRead 0x0801 St.ok (fun d x => beAt x.par 0 1 ≤ 1 ∧ beAt x.par 1 1 ≤ 1 ∧
      AMap.find (if beAt x.par 1 1 = 0 then d.sched.oper else d.sched.await) (beAt x.par 0 1) = none) (fun d _ => d) (fun _ _ => [0]) ∧
  (∀ g : GateList, ItemEnds .gateListRead 0x0801 St.ok (fun d x => beAt x.par 0 1 ≤ 1 ∧ beAt x.par 1 1 ≤ 1 ∧
      AMap.find (if beAt x.par 1 1 = 0 then d.sched.oper else d.sched.await) (beAt x.par 0 1) = some g)
    (fun d _ => d) (fun _ _ => beBytes 1 ((if g.enable then 1 else 0) + 2) ++ beBytes 1 g.entries.length ++ zeros 2 ++ beBytes 8 g.start ++
      beBytes 4 g.cycle ++ g.entries.flatMap (fun (e : Nat × Nat) => beBytes 1 e.1 ++ zeros 3 ++ beBytes 4 e.2))) ∧
  ItemEnds .gateListRead 0x0801 St.valueInvalid (fun _ x => 1 < beAt x.par 0 1 ∨ 1 < beAt x.par 1 1) (fun d _ => d) (fun _ _ => []) ∧
  ItemGoesOn .timeStep 0x0802 (fun _ x => beAt x.par 0 1 = 0) (fun d x => d.updItem x.item (fun r => { r with
    result := beBytes 8 (d.boundaryBefore x.src.rxTs) ++ beBytes 8 0 ++ beBytes 8 x.src.rxTs })) ∧
  ItemGoesOn .timeStep 0x0802 (fun _ x => 3 < beAt x.par 0 1) (fun d x => d.finish x.item St.valueInvalid []) ∧
  (∀ v : Int, ItemGoesOn .timeStep 0x0802 (fun d x => d.stepValue (beAt x.par 0 1) (beAt x.par 4 8) = some v ∧ d.time.step = none ∧
      d.stepFits (d.pick.num + 2) (beAt x.par 0 1) v = true)
    (fun d x => (d.updItem x.item (fun r => { r with result := beBytes 8 x.src.rxTs })).placeStep (if beAt x.par 0 1 = 2 then 2 else 1) v
      (some x.item))) ∧
  (∀ v : Int, ItemGoesOn .timeStep 0x0802 (fun d x => d.stepValue (beAt x.par 0 1) (beAt x.par 4 8) = some v ∧ d.time.step = none ∧
      d.stepFits (d.pick.num + 2) (beAt x.par 0 1) v = false) (fun d x => d.finish x.item St.valueInvalid [])) ∧
  ItemGoesOn .timeStep 0x0802 (fun d x => (d.stepValue (beAt x.par 0 1) (beAt x.par 4 8)).isSome = true ∧ d.time.step ≠ none)
    (fun d x => d.finish x.item St.busy []) ∧
  ItemGoesOn .timeStep 0x0802 (fun d x => beAt x.par 0 1 = 3 ∧ d.time.meas = none) (fun d x => d.finish x.item St.valueInvalid []) ∧
  ItemEnds .pairStatus 0x0900 St.ok (fun _ _ => True) (fun d _ => d) (fun d _ => d.pairStatus) ∧
  ItemEnds .pairHandover 0x0901 St.roleStandby (fun d _ => d.isActive = false) (fun d _ => d) (fun _ _ => []) ∧
  ItemGoesOn .pairHandover 0x0901 (fun d _ => d.isActive = true ∧ d.rd F.SLV_STAT.PEER_ROLE = Pr.standby ∧ d.flag F.SLV_STAT.P_LOST = false ∧
      d.slv.peerMirror = 2 ∧ d.slv.handTb = none ∧ d.slv.agreed = 0)
    (fun d x => d.handStart (some x.item) (beAt x.par 0 2)) ∧
  ItemEnds .pairHandover 0x0901 St.modeRefused (fun d _ => d.isActive = true ∧ (d.rd F.SLV_STAT.PEER_ROLE ≠ Pr.standby ∨
      d.flag F.SLV_STAT.P_LOST = true ∨ d.slv.peerMirror ≠ 2)) (fun d _ => d) (fun _ _ => []) ∧
  ItemEnds .pairHandover 0x0901 St.busy (fun d _ => d.isActive = true ∧ d.rd F.SLV_STAT.PEER_ROLE = Pr.standby ∧
      d.flag F.SLV_STAT.P_LOST = false ∧ d.slv.peerMirror = 2 ∧ (d.slv.handTb ≠ none ∨ d.slv.agreed ≠ 0)) (fun d _ => d) (fun _ _ => []) ∧
  ItemGoesOn .configSave 0x0A00 (fun _ _ => True) (fun d x => d.marlAsk 2 .config (some x.item)) ∧
  ItemEnds .firmwareWrite 0x0A01 St.ok (fun _ x => 4 ≤ beAt x.par 4 2 ∧ beAt x.par 4 2 ≤ 1024 ∧ beAt x.par 4 2 % 4 = 0 ∧
      beAt x.par 0 4 + beAt x.par 4 2 ≤ 2 ^ 26)
    (fun d x =>
      let m := (x.par.drop 8).zipIdx.foldl (fun (m : List (Nat × Nat)) (bi : Byte × Nat) =>
        AMap.set m (beAt x.par 0 4 + bi.2) bi.1.toNat 0) d.boot.staging
      { d with boot := { d.boot with staging := m } })
    (fun _ _ => []) ∧
  ItemEnds .firmwareWrite 0x0A01 St.valueInvalid (fun _ x => beAt x.par 4 2 < 4 ∨ 1024 < beAt x.par 4 2 ∨ beAt x.par 4 2 % 4 ≠ 0 ∨
      2 ^ 26 < beAt x.par 0 4 + beAt x.par 4 2) (fun d _ => d) (fun _ _ => []) ∧
  ItemEnds .firmwareActivate 0x0A02 St.valueInvalid (fun d x => 2 ^ 26 < beAt x.par 0 4 ∨
      Config.imageGood d.boot.staging (beAt x.par 0 4) = false) (fun d _ => d.raise 0x01 1 (1 - d.rd F.BOOT_STAT.SLOT) 0) (fun _ _ => []) ∧
  ItemEnds .firmwareActivate 0x0A02 St.valueInvalid (fun d x => beAt x.par 0 4 ≤ 2 ^ 26 ∧
      Config.imageGood d.boot.staging (beAt x.par 0 4) = true ∧ Config.imageSecVer d.boot.staging % 2 ^ 32 < d.nv.fuse)
    (fun d _ => d.raise 0x01 8 (1 - d.rd F.BOOT_STAT.SLOT) (Config.imageSecVer d.boot.staging % 2 ^ 32)) (fun _ _ => []) ∧
  (∀ i : Image, ItemGoesOn .firmwareActivate 0x0A02 (fun d x => Config.imageGood d.boot.staging (beAt x.par 0 4) = true ∧
      beAt x.par 0 4 ≤ 2 ^ 26 ∧ i.good = true ∧
      i.version = Config.imageVersion d.boot.staging % 2 ^ 32 ∧ i.secVer = Config.imageSecVer d.boot.staging % 2 ^ 32 ∧ d.nv.fuse ≤ i.secVer)
    (fun d x =>
      let e : Dev := if bit (beAt x.par 4 1) 0 = true then { d with boot := { d.boot with bootNow := some x.item } } else d
      e.marlAsk 5 (.image (1 - d.rd F.BOOT_STAT.SLOT) i) (some x.item))) ∧
  ItemEnds .systemReset 0x0A03 St.ok (fun _ _ => True) (fun d _ => d.raise 0x00 7 0 0) (fun _ _ => []) ∧
  ItemEnds .debugUnlock 0x0A04 St.ok (fun _ x => beAt x.par 0 1 = 0)
    (fun d _ => let e := (d.drawBytes 32).2; { e with boot := { e.boot with challenge := some (d.drawBytes 32).1 } })
    (fun d _ => (d.drawBytes 32).1) ∧
  (∀ c : List Byte, ItemEnds .debugUnlock 0x0A04 St.ok (fun d x => beAt x.par 0 1 = 1 ∧ d.boot.challenge = some c ∧
      Config.debugSigGood (c ++ beBytes 8 d.nv.serial) (x.par.drop 4) = true)
    (fun d x => { d with boot := { d.boot with challenge := none, unlocked := true } }.raise 0x01 6 x.slot 0) (fun _ _ => [])) ∧
  ItemEnds .debugUnlock 0x0A04 St.valueInvalid (fun d x => beAt x.par 0 1 = 1 ∧ ∀ c, d.boot.challenge = some c →
      Config.debugSigGood (c ++ beBytes 8 d.nv.serial) (x.par.drop 4) = false)
    (fun d x => { d with boot := { d.boot with challenge := none } }.raise 0x01 7 x.slot 0) (fun _ _ => []) ∧
  ItemEnds .debugUnlock 0x0A04 St.ok (fun _ x => beAt x.par 0 1 = 2)
    (fun d _ => { d with boot := { d.boot with unlocked := false, challenge := none } }) (fun _ _ => []) ∧
  ItemEnds .debugUnlock 0x0A04 St.valueInvalid (fun _ x => 2 < beAt x.par 0 1) (fun d _ => d) (fun _ _ => [])

/-! ## Timebase, PTP, pulses (chapter 15) -/

/-- The reference and REFCLK (R325, R447): a loss is reported once; the return is timed from its first good instant; a lost REFCLK takes
every link down, and its return retrains the draft's tiles. Choices of the model in it: assumptions 10, 74, 75. -/
def Obligations.ReferenceActs : Prop :=
  (∀ (s : State) (d e : Dev), s.dev = d → s.runs = true → e = { d with time := { d.time with refOkSince := none } } →
    (d.flag F.TIME_STAT.REF = false → exec .refLoss s = .next (s.put ((e.setFlag F.TIME_STAT.REF true).timeEv 1 1 0))) ∧
    (d.flag F.TIME_STAT.REF = true → exec .refLoss s = .next (s.put e))) ∧
  (∀ (s : State) (d : Dev), s.dev = d → s.runs = true →
    (d.flag F.TIME_STAT.REF = true → d.time.refOkSince = none →
      exec .refReturn s = .next (s.put { d with time := { d.time with refOkSince := some d.time.tb } })) ∧
    (d.flag F.TIME_STAT.REF = false ∨ d.time.refOkSince.isSome = true → exec .refReturn s = .next s)) ∧
  (∀ (s : State) (d e x : Dev), s.dev = d → s.runs = true → d.time.refclk = true →
    e = forEach (List.range 16) (fun t (d : Dev) => d.linkDown t)
      (({ d with time := { d.time with refclk := false } }).raise 0x00 2 0 0) →
    x = forEach [0, 1, 2] (fun p (d : Dev) => if d.flag (F.MAC_STAT.LINK p) then (d.macDrop p).ptpFallback p else d.macDrop p) e →
    ((d.flag (F.MAC_STAT.LINK 2) && !x.flag (F.MAC_STAT.LINK 2)) = true → exec .refclkLoss s = .next (s.put x.pLostNow)) ∧
    ((d.flag (F.MAC_STAT.LINK 2) && !x.flag (F.MAC_STAT.LINK 2)) = false → exec .refclkLoss s = .next (s.put x))) ∧
  (∀ (s : State) (d e : Dev), s.dev = d → s.runs = true → d.time.refclk = false → e = { d with time := { d.time with refclk := true } } →
    exec .refclkReturn s = .next (s.put (forEach e.draftTiles (fun t (d : Dev) => if d.linkUp t then d else d.retrainStart t) e))) ∧
  (∀ s : State, s.runs = true → (s.dev.time.refclk = false → exec .refclkLoss s = .next s) ∧
    (s.dev.time.refclk = true → exec .refclkReturn s = .next s))

/-- PTP messages, PPS edges and the servo's holdover (R326, R327, R329): a message on the port in use is taken, another is ignored; an edge
is time-stamped and, with SRC = 2, measured against the second; a master sends its announcements and syncs, a slave its requests. Choices of
the model in it: assumptions 1, 3, 74. -/
def Obligations.PtpAndServoAct : Prop :=
  (∀ (s : State) (d : Dev) (r : Dev × Option RxFrame) (f : RxFrame), s.dev = d → s.runs = true → r = d.rxPop 0 → r.2 = some f →
    (ptpPart (beBytes 2 (parseEth f.bytes).etype ++ (parseEth f.bytes).body) = none → exec .ptpMessage s = .next (s.put r.1.ptpIgnore)) ∧
    (∀ m, ptpPart (beBytes 2 (parseEth f.bytes).etype ++ (parseEth f.bytes).body) = some m → f.port = r.1.ptpPort →
      exec .ptpMessage s = .next (s.put (r.1.ptpTake m f.ts))) ∧
    (∀ m, ptpPart (beBytes 2 (parseEth f.bytes).etype ++ (parseEth f.bytes).body) = some m → f.port ≠ r.1.ptpPort →
      exec .ptpMessage s = .next (s.put r.1))) ∧
  (∀ (s : State) (d e w x : Dev) (delay : Nat), s.dev = d → s.runs = true → d.before (d.time.tb + delay) = true →
    e = (d.wait (d.time.tb + delay)).tick 16 → (∀ t, e.time.ppsTb = some t → t + 500000000 ≤ e.time.tb) →
    w = { e with time := { e.time with lastPps := e.time.tb, ppsTb := some e.time.tb } } →
    x = (w.wr F.PPS_TS_LO.VAL e.ptpNow).wr F.PPS_TS_HI.VAL (e.ptpNow / 2 ^ 32) →
    (x.rd F.TIME_CFG.SRC ≠ 2 → exec (.ppsEdge delay) s = .next (s.put x)) ∧
    (x.rd F.TIME_CFG.SRC = 2 →
      ∀ r : Int, r = ((e.ptpNow : Int) - clampI (-499999999) 499999999 (x.rdS F.PPS_CFG.PPS_OFS_NS)) % 1000000000 →
      exec (.ppsEdge delay) s = .next (s.put (x.measure (if r ≤ 500000000 then r else r - 1000000000))))) ∧
  (∀ (s : State) (d e : Dev) (delay t : Nat), s.dev = d → s.runs = true → d.before (d.time.tb + delay) = true →
    e = (d.wait (d.time.tb + delay)).tick 16 → e.time.ppsTb = some t → e.time.tb < t + 500000000 →
    exec (.ppsEdge delay) s = .next (s.put e)) ∧
  (∀ (s : State), s.runs = true → s.dev.rd F.TIME_STAT.SERVO ≠ 2 → exec .servoHoldover s = .next s) ∧
  (∀ (s : State) (d : Dev), s.dev = d → s.runs = true → d.rd F.TIME_STAT.SERVO = 2 →
    (d.rd F.TIME_CFG.SRC = 1 → d.before (d.time.lastSync + 3 * d.announceNs) = true →
      exec .servoHoldover s = .next (s.put (d.wait (d.time.lastSync + 3 * d.announceNs)).servoHold)) ∧
    (d.rd F.TIME_CFG.SRC ≠ 1 → d.before (d.time.lastPps + 3000000000) = true →
      exec .servoHoldover s = .next (s.put ((d.wait (d.time.lastPps + 3000000000)).timeEv 6 0 0).servoHold))) ∧
  (∀ (s : State) (d e : Dev) (seq : Nat), s.dev = d → s.runs = true → d.rd F.TIME_STAT.PORT_STATE = 6 →
    seq = (d.time.seqAnn + 1) % 65536 → e = { d with time := { d.time with seqAnn := seq } } →
    exec (.ptpMasterSend 0) s = .next (s.put (e.ptpSend (e.ptpMsg 11 0x0008 seq (min 3 (e.rd F.PTP_PRIO.LOG_ANNOUNCE) : Nat)
      (zeros 10 ++ beBytes 2 (e.rd F.TIME_STAT.UTC_OFFSET) ++ [0] ++ beBytes 1 (e.ownRank.getD 0 0) ++ beBytes 1 248 ++ beBytes 1 0xFE ++
        beBytes 2 0xFFFF ++ beBytes 1 (e.ownRank.getD 4 0) ++ beBytes 8 (e.ptpIdentity / 65536) ++ beBytes 2 0 ++ [0xA0]))))) ∧
  (∀ (s : State), s.runs = true → s.dev.flag F.TIME_CFG.DELAY_MECH = false → exec (.ptpMasterSend 2) s = .next s) ∧
  (∀ (s : State) (d e : Dev) (seq : Nat), s.dev = d → s.runs = true → d.rd F.TIME_STAT.PORT_STATE = 6 →
    seq = (d.time.seqSync + 1) % 65536 → e = { d with time := { d.time with seqSync := seq } } →
    exec (.ptpMasterSend 1) s = .next (s.put (e.ptpSend (e.ptpMsg 0 0x0200 seq e.logSync (zeros 10))))) ∧
  (∀ (s : State) (d e : Dev) (seq : Nat), s.dev = d → s.runs = true → d.flag F.TIME_CFG.DELAY_MECH = true →
    seq = (d.time.seqDelay + 1) % 65536 → e = { d with time := { d.time with seqDelay := seq, lastDelay := some d.time.tb } } →
    exec (.ptpMasterSend 2) s = .next (s.put (e.ptpSend (e.ptpMsg 2 0 seq e.logDelay (zeros 20))))) ∧
  (∀ (s : State) (kind : Nat), s.runs = true → kind < 2 → s.dev.rd F.TIME_STAT.PORT_STATE ≠ 6 → exec (.ptpMasterSend kind) s = .next s) ∧
  (∀ (s : State), s.runs = true → exec (.ptpMasterSend 3) s = .next (s.put (s.dev.bmca true)))

/-- Time registers and pulse outputs (R327, R328, R336, R337): SRC changed starts the servo on its source, RELOCK locks again; a read of
TB_NS_LO latches the timebase and PTP time; a pulse is armed by its registers and rises and falls at its instants. Choices of the model in
it: assumptions 10, 15, 75. -/
def Obligations.TimeRegistersAct : Prop :=
  (∀ (s : State) (d e : Dev) (v : Nat) (fields : List FRow), s.dev = d → s.runs = true → regAt R.TIME_CFG = some (.row R.TIME_CFG [] fields) →
    (e = d.storeWord R.TIME_CFG R.TIME_CFG [] fields (putBit v 31 true) → e.rd F.TIME_CFG.SRC = d.rd F.TIME_CFG.SRC →
      d.time.portNow = none → e.rd F.TIME_CFG.PTP_PORT = d.rd F.TIME_CFG.PTP_PORT → exec (.relock v) s = .next (s.put e.relock)) ∧
    (e = d.storeWord R.TIME_CFG R.TIME_CFG [] fields v → e.rd F.TIME_CFG.SRC ≠ d.rd F.TIME_CFG.SRC →
      d.time.portNow = none → e.servoSrc.rd F.TIME_CFG.PTP_PORT = d.rd F.TIME_CFG.PTP_PORT → bit v 31 = false →
      exec (.servoSrcWrite v) s = .next (s.put e.servoSrc)) ∧
    (e = d.storeWord R.TIME_CFG R.TIME_CFG [] fields v → e.rd F.TIME_CFG.SRC = d.rd F.TIME_CFG.SRC →
      d.time.portNow = none → e.rd F.TIME_CFG.PTP_PORT = d.rd F.TIME_CFG.PTP_PORT → bit v 31 = false →
      exec (.servoSrcWrite v) s = .next (s.put e)) ∧
    (∀ (c : Instr) (w : Nat), (c = .relock v ∧ w = putBit v 31 true ∨ c = .servoSrcWrite v ∧ w = v) →
      ∀ x y : Dev, x = d.storeWord R.TIME_CFG R.TIME_CFG [] fields w →
      y = (if x.rd F.TIME_CFG.SRC = d.rd F.TIME_CFG.SRC then x else x.servoSrc) →
      exec c s = .next (s.put
        (let z := y.ptpPortWritten d.ptpPort
         if bit w 31 then z.relock else z)))) ∧
  (∀ (s : State) (d : Dev) (p : Nat), s.dev = d → s.runs = true → p = d.ptpNow →
    exec .tbNsRead s = .next (s.put ((((d.wr F.TB_NS_LO.VAL d.time.tb).wr F.TB_NS_HI.VAL (d.time.tb / 2 ^ 32)).wr F.PTP_NOW_LO.VAL p).wr
      F.PTP_NOW_HI.VAL (p / 2 ^ 32)))) ∧
  (∀ (s : State) (d e : Dev) (n v : Nat) (fields : List FRow), s.dev = d → s.runs = true → n < 4 →
    regAt (R.PULSE_CFG n) = some (.row (R.PULSE_CFG 0) [n] fields) → e = d.storeWord (R.PULSE_CFG n) (R.PULSE_CFG 0) [n] fields v →
    (e.rd (F.PULSE_CFG.MODE n) = 0 → exec (.pulseArm n true v) s = .next (s.put ((e.putPulse n {}).pulsePin n false))) ∧
    (e.rd (F.PULSE_CFG.MODE n) ≠ 0 →
      exec (.pulseArm n true v) s = .next (s.put ((e.pulsePin n (e.pulse n).fallTb.isSome).pulsePlace n 1000)))) ∧
  (∀ (s : State) (d e : Dev) (n v : Nat) (fields : List FRow), s.dev = d → s.runs = true → n < 4 →
    regAt (R.PULSE_START_HI n) = some (.row (R.PULSE_START_HI 0) [n] fields) →
    e = d.storeWord (R.PULSE_START_HI n) (R.PULSE_START_HI 0) [n] fields v →
    (e.rd (F.PULSE_CFG.MODE n) = 0 → exec (.pulseArm n false v) s = .next (s.put ((e.putPulse n {}).pulsePin n false))) ∧
    (e.rd (F.PULSE_CFG.MODE n) ≠ 0 →
      exec (.pulseArm n false v) s = .next (s.put ((e.pulsePin n (e.pulse n).fallTb.isSome).pulsePlace n 1000)))) ∧
  (∀ (s : State) (n : Nat), s.runs = true → n < 4 → (s.dev.pulse n).fallTb = none → ((s.dev.pulse n).armed = false ∨
    s.dev.rd (F.PULSE_CFG.MODE n) = 0 ∨ s.dev.rd (F.PULSE_CFG.MODE n) = 3) → exec (.pulseEdge n) s = .next s) ∧
  (∀ (s : State) (d : Dev) (n t : Nat), s.dev = d → s.runs = true → n < 4 → (d.pulse n).fallTb = some t → d.before t = true →
    ∀ e : Dev, e = d.wait t → exec (.pulseEdge n) s = .next (s.put ((e.putPulse n { e.pulse n with fallTb := none }).pulsePin n false))) ∧
  (∀ (s : State) (d : Dev) (n due : Nat), s.dev = d → s.runs = true → n < 4 → (d.pulse n).fallTb = none → (d.pulse n).armed = true →
    d.rd (F.PULSE_CFG.MODE n) ≠ 0 → d.rd (F.PULSE_CFG.MODE n) ≠ 3 → due = (((d.pulse n).next : Int) - d.time.ofs).toNat →
    d.before due = true → exec (.pulseEdge n) s = .next (s.put ((d.wait due).pulseRise n)))

/-! ## The redundant pair (chapter 16) -/

/-- What a dropped Selvage frame leaves (R340): BAD_FRAMES counts it; one of another VERSION is reported besides (DEDUCED from R381,
assumption 87). -/
def badFrame (d : Dev) (version : Nat) : Dev :=
  if version = 1 then d.bump F.SLV_CNT_D.BAD_FRAMES 1 else (d.bump F.SLV_CNT_D.BAD_FRAMES 1).slvEv 11 none

/-- Heartbeats and claims (R342, R343): the one this unit sends; a frame with a bad head is counted; a repeated sequence is dropped; a good
frame is heard on its path and its sender's state taken; the loss of a path. Choices of the model in it: assumptions 3, 10, 73, 87. -/
def Obligations.HeartbeatsAct : Prop :=
  (∀ (s : State) (d e : Dev) (t seq : Nat), s.dev = d → s.fabricRuns = true → 6 ≤ d.rd F.BOOT_STAT.STAGE → d.slv.hbTbP = some t →
    d.before (t + 10000) = true → e = d.wait (t + 10000) → seq = (e.slv.hbSeqP + 1) % 65536 →
    exec .heartbeatPTimer s =
      .next (s.put (((e.updSlv (fun s => { s with hbSeqP := seq, hbTbP := some e.time.tb })).sendP (e.hbFrame 1 seq)).count 0x69))) ∧
  (∀ (s : State) (d e : Dev) (seq : Nat), s.dev = d → s.fabricRuns = true → 6 ≤ d.rd F.BOOT_STAT.STAGE → d.slv.hbTbP = none →
    d.before d.time.tb = true → e = d.wait d.time.tb → seq = (e.slv.hbSeqP + 1) % 65536 →
    exec .heartbeatPTimer s =
      .next (s.put (((e.updSlv (fun s => { s with hbSeqP := seq, hbTbP := some e.time.tb })).sendP (e.hbFrame 1 seq)).count 0x69))) ∧
  (∀ (s : State), s.fabricRuns = true → s.dev.rd F.BOOT_STAT.STAGE < 6 → exec .heartbeatPTimer s = .next s) ∧
  (∀ (row : Nat → List Byte → Instr) (kind : Nat), (row = .heartbeat ∧ kind = 1 ∨ row = .claim ∧ kind = 2) →
    ∀ (s : State) (d : Dev) (path : Nat) (bs : List Byte), s.dev = d → s.runs = true → path < 2 →
    (d.slvGood bs kind (some 46) path = false →
      exec (row path bs) s = .next (s.put (badFrame d (beAt bs 1 1)))) ∧
    (d.slvGood bs kind (some 46) path = true → AMap.find d.slv.seenSeq (path * 2 + kind) = some (beAt bs 10 2) →
      exec (row path bs) s = .next s) ∧
    (d.slvGood bs kind (some 46) path = true → AMap.find d.slv.seenSeq (path * 2 + kind) ≠ some (beAt bs 10 2) →
      ∀ e : Dev, e = (d.updSlv (fun s => { s with seenSeq := AMap.put s.seenSeq (path * 2 + kind) (beAt bs 10 2) })).updSlv
        (fun s => { s with conflict := decide (beAt bs 4 1 % 2 = d.rd F.SLV_STAT.UNIT_ID) }) →
      (beAt bs 4 1 % 2 ≠ d.rd F.SLV_STAT.UNIT_ID →
        exec (row path bs) s = .next (s.put ((e.pathHeard path (bits (beAt bs 4 1) 6 4 = Pr.active)).peerSays bs))) ∧
      (beAt bs 4 1 % 2 = d.rd F.SLV_STAT.UNIT_ID →
        exec (row path bs) s = .next (s.put (((e.slvEv 1 none).pathHeard path (bits (beAt bs 4 1) 6 4 = Pr.active)).peerSays bs))))) ∧
  (∀ (s : State) (d : Dev), s.dev = d → s.runs = true → d.flag F.SLV_STAT.P_LOST = false →
    (d.flag (F.MAC_STAT.LINK 2) = false → exec .pLost s = .next (s.put d.pLostNow)) ∧
    (d.flag (F.MAC_STAT.LINK 2) = true → ∀ t, t = d.slv.lastP + 10000 * max 2 (d.rd F.SLV_CFG.HB_MISS_P) → d.before t = true →
      exec .pLost s = .next (s.put (d.wait t).pLostNow))) ∧
  (∀ (d e : Dev), d.flag F.SLV_STAT.P_LOST = false → d.role = Pr.active →
    e = ((d.setFlag F.SLV_STAT.P_LOST true).bump F.SLV_CNT_B.P_LOSSES 1).pathLoss → e.role = Pr.active →
    d.pLostNow = (e.releaseAcks).handingReturn) ∧
  (∀ (s : State) (d : Dev) (t : Nat), s.dev = d → s.runs = true → d.flag F.SLV_STAT.T_LOST = false →
    t = d.slv.lastT + (if d.slv.peerTether then 100000 else 1000000) * max 1 (d.rd F.SLV_CFG.HB_MISS_T) → d.before t = true →
    exec .tLost s = .next (s.put ((((d.wait t).setFlag F.SLV_STAT.T_LOST true).bump F.SLV_CNT_B.T_LOSSES 1).pathLoss))) ∧
  (∀ s : State, s.runs = true → (s.dev.flag F.SLV_STAT.P_LOST = true → exec .pLost s = .next s) ∧
    (s.dev.flag F.SLV_STAT.T_LOST = true → exec .tLost s = .next s))

/-- The mirror (R346 - R349): records are taken by the unit in STANDBY alone; acknowledgements end what waits for them; a snapshot asked for
is counted; batches close at their boundary; the oldest version is sent again, five times; a gap that stays leaves the unit behind. Choices
of the model in it: assumptions 20, 23, 87, 89. -/
def Obligations.MirrorActs : Prop :=
  (∀ (s : State) (d : Dev) (bs head recs pad : List Byte), s.dev = d → s.runs = true → bs = head ++ recs ++ pad →
    (d.slvGood bs 0x10 none 0 = false → exec (.mirror head recs pad) s = .next (s.put (badFrame d (beAt bs 1 1)))) ∧
    (d.slvGood bs 0x10 none 0 = true → d.role ≠ Pr.standby → exec (.mirror head recs pad) s = .next s) ∧
    (d.slvGood bs 0x10 none 0 = true → d.role = Pr.standby →
      ∀ e : Dev, e = forEach (bytesRecs bs.length ((bs.take (beAt bs 6 2)).drop 8)) (fun (r : MirRec) (d : Dev) => d.mirrorRec r) d →
      exec (.mirror head recs pad) s = .next (s.put
        (if e.slv.snapDone then (e.applyReady (e.slv.aside.length + 1)).gapCheck else e).syncCheck))) ∧
  (∀ (r : MirRec) (ws : List Nat) (rest : List Byte), r.body = .entry ws → r.typ < 256 → r.version < 2 ^ 32 → r.obj < 2 ^ 24 →
    (∀ w ∈ ws, w < 2 ^ 32) → ws.length < 16384 → bytesRec (recBytes r ++ rest) = some (some r, rest)) ∧
  (∀ (r : MirRec) (bins : List Nat) (writes : Nat) (rest : List Byte), r.body = .table bins writes → r.typ < 256 → r.version < 2 ^ 32 →
    r.obj < 2 ^ 24 → bins.length = 256 → (∀ b ∈ bins, b < 2 ^ 16) → writes < 2 ^ 32 →
    bytesRec (recBytes r ++ rest) = some (some r, rest)) ∧
  (∀ (s : State) (d e : Dev) (bs : List Byte), s.dev = d → s.runs = true →
    (d.slvGood bs 0x11 (some 16) 0 = false → exec (.ack bs) s = .next (s.put (badFrame d (beAt bs 1 1)))) ∧
    (d.slvGood bs 0x11 (some 16) 0 = true →
      e = (d.updSlv (fun s => { s with unacked := s.unacked.filter (fun (v : MirVer) =>
        if v.config then serialAfter v.version (beAt bs 12 4) else serialAfter v.version (beAt bs 8 4)) })).wr F.SLV_ACKED.ACK_CSN
        (beAt bs 8 4) →
      exec (.ack bs) s = .next (s.put (e.releaseAcks).setProgress))) ∧
  (∀ (s : State) (d : Dev) (bs : List Byte), s.dev = d → s.runs = true →
    (d.slvGood bs 0x12 (some 8) 0 = false → exec (.syncReq bs) s = .next (s.put (badFrame d (beAt bs 1 1)))) ∧
    (d.slvGood bs 0x12 (some 8) 0 = true → d.controls = false → exec (.syncReq bs) s = .next s) ∧
    (d.slvGood bs 0x12 (some 8) 0 = true → d.controls = true → exec (.syncReq bs) s =
      .next (s.put (((d.updSlv (fun s => { s with snapDue := true })).bump F.SLV_CNT_C.RESYNCS 1).slvEv 9 none)))) ∧
  (∀ (s : State) (d : Dev) (ver : Nat) (recs : List MirRec), s.dev = d → s.runs = true → d.slv.snapTaken = some (ver, recs) →
    exec .snapshotSend s = .next (s.put ((d.updSlv (fun s => { s with snapTaken := none })).sendRecs
      (recs ++ [{ typ := 7, version := ver, obj := 0, close := true, retry := false, body := .mark }])))) ∧
  (∀ (s : State), s.runs = true → s.dev.slv.snapTaken = none → exec .snapshotSend s = .next s) ∧
  (∀ (s : State), s.runs = true → (s.dev.controls = false ∨ s.dev.pick.num % 16 ≠ 0 ∨ s.dev.pick.started = false) →
    exec .mirrorBatch s = .next s) ∧
  (∀ (s : State) (d : Dev) (j n first : Nat) (mk : Nat → MirBody → MirRec), s.dev = d → s.runs = true → d.controls = true →
    d.pick.num = 16 * j → d.pick.started = true → n = (if d.pick.rate = 3 then 2048 else 4096) →
    first = (j - d.slv.restartBatch) % (65536 / n) * n →
    (∀ o b, mk o b = { typ := 3, version := j % 2 ^ 32, obj := o, close := false, retry := false, body := b }) →
    exec .mirrorBatch s = .next (s.put ((d.updSlv (fun s => { s with batchNo := j % 2 ^ 32 })).sendRecs (
      (List.range (n / 128)).map (fun i => mk (first + 128 * i) (.loops ((List.range 128).map (fun x =>
        (d.loopRd (first + 128 * i + x) (F.LOOP.INTEG (first + 128 * i + x)), d.loopRd (first + 128 * i + x) (F.LOOP.SP (first + 128 * i + x))))))) ++
      ((List.range 48).filter (fun c => d.flag (F.DAC_CH_CFG.SHARED c))).map (fun c => mk c (.dacCode (d.dacNow.rd (F.DAC_CODE.ACTIVE c)))) ++
      (List.range 16).map (fun t => mk t (.tec (d.rd (F.TEC_INTEG.TEC_INTEG t)))) ++
      [{ typ := 3, version := j % 2 ^ 32, obj := 0, close := true, retry := false, body := .mark }])))) ∧
  (∀ (s : State), s.runs = true → s.dev.slv.unacked = [] → exec .mirrorResend s = .next s) ∧
  (∀ (s : State) (d e : Dev) (v o : MirVer) (vs : List MirVer), s.dev = d → s.runs = true → d.slv.unacked = v :: vs →
    o = vs.foldl (fun (a b : MirVer) => if b.lastTb < a.lastTb then b else a) v → d.before (o.lastTb + 200000) = true →
    e = d.wait (o.lastTb + 200000) →
    (5 ≤ o.resends →
      exec .mirrorResend s = .next (s.put ((e.setFlag F.SLV_STAT.PEER_BEHIND true).slvEv 8 none).releaseAcks)) ∧
    (o.resends < 5 → ∀ recs : List MirRec, recs = o.recs.map (fun (r : MirRec) => { r with retry := true }) →
      exec .mirrorResend s = .next (s.put ((((e.updSlv (fun s => { s with unacked := s.unacked.map (fun (x : MirVer) =>
        if x = o then { o with recs := recs, resends := o.resends + 1, lastTb := e.time.tb } else x) })).sendRecs recs).bump
        F.SLV_CNT_C.RESENDS 1).count 0x68)))) ∧
  (∀ (s : State), s.runs = true → s.dev.slv.gapTb = none → exec .mirrorGapTimeout s = .next s) ∧
  (∀ (s : State) (d : Dev) (t : Nat), s.dev = d → s.runs = true → d.slv.gapTb = some t → d.before (t + 1000000) = true →
    exec .mirrorGapTimeout s =
      .next (s.put ((((d.wait (t + 1000000)).updSlv (fun s => { s with gapTb := none })).mirrorBehind).syncReq)))

/-- Roles (R344, R352, R354 - R356): a unit with no peer heard claims 20 ms after it began to listen; a tile held by another unit stops it;
an outranked peer waits; the failover, the link handover, the takeback request; the agreed boundary of a handover and its refusal. Choices
of the model in it: assumptions 10, 72, 73. -/
def Obligations.RolesAct : Prop :=
  (∀ (s : State) (d : Dev), s.dev = d → s.runs = true → d.role ≠ Pr.resolving → exec .roleResolution s = .next s) ∧
  (∀ (s : State) (d : Dev), s.dev = d → s.runs = true → d.role = Pr.resolving → (d.rd F.BOOT_STAT.STAGE < 6 ∨ d.slv.claiming = true ∨
    d.slv.conflict = true) → exec .roleResolution s = .next s) ∧
  (∀ (s : State) (d : Dev) (heard : Bool) (pr last : Nat), s.dev = d → s.runs = true → d.role = Pr.resolving → 6 ≤ d.rd F.BOOT_STAT.STAGE →
    d.slv.claiming = false → d.slv.conflict = false →
    heard = ((d.slv.heardP && !d.flag F.SLV_STAT.P_LOST) || (d.slv.heardT && !d.flag F.SLV_STAT.T_LOST)) →
    pr = d.rd F.SLV_STAT.PEER_ROLE → last = max d.slv.readAt (max d.slv.lastP d.slv.lastT) →
    (heard = true → (pr = Pr.active ∨ pr = Pr.handing ∨ pr = Pr.claiming) →
      exec .roleResolution s = .next (s.put (d.peerChosen.afterRole Pr.resolving))) ∧
    ((heard = false ∨ pr ≠ Pr.active ∧ pr ≠ Pr.handing ∧ pr ≠ Pr.claiming) →
      (∀ t, AMap.find d.slv.silentSince 0 = some t → d.time.tb < t + 20000000 → exec .roleResolution s = .next s) ∧
      ((∀ t, AMap.find d.slv.silentSince 0 = some t → t + 20000000 ≤ d.time.tb) →
        ((∃ t ∈ d.draftTiles, d.linkUp t = true ∧ d.claimHeld t ≠ 0 ∧ d.flag (F.WEFT_STAT.HOLDER_SILENT t) = false) →
          exec .roleResolution s =
            .next (s.put (((d.updSlv (fun s => { s with silentSince := [(0, d.time.tb)] })).slvEv 2 none).afterRole Pr.resolving))) ∧
        ((∀ t ∈ d.draftTiles, d.linkUp t = false ∨ d.claimHeld t = 0 ∨ d.flag (F.WEFT_STAT.HOLDER_SILENT t) = true) →
          (heard = true → pr = Pr.resolving → (d.flag F.SLV_STAT.PREFER = true ∧ d.slv.peerUnit / 2 ≠ 1 ∨
              (d.flag F.SLV_STAT.PREFER = true ↔ d.slv.peerUnit / 2 = 1) ∧ d.rd F.SLV_STAT.UNIT_ID = 1) →
            exec .roleResolution s = .next (s.put (d.raiseClaim.afterRole Pr.resolving))) ∧
          (heard = true → pr = Pr.resolving → (d.flag F.SLV_STAT.PREFER = false ∧ d.slv.peerUnit / 2 = 1 ∨
              (d.flag F.SLV_STAT.PREFER = true ↔ d.slv.peerUnit / 2 = 1) ∧ d.rd F.SLV_STAT.UNIT_ID ≠ 1) →
            exec .roleResolution s = .next s) ∧
          (heard = false ∨ pr ≠ Pr.resolving → last + 20000000 ≤ d.time.tb →
            exec .roleResolution s = .next (s.put (d.raiseClaim.afterRole Pr.resolving))) ∧
          (heard = false ∨ pr ≠ Pr.resolving → d.time.tb < last + 20000000 → exec .roleResolution s = .next s))))) ∧
  (∀ (s : State) (d : Dev) (t : Nat), s.dev = d → s.runs = true → d.role = Pr.resolving →
    t = (AMap.find d.slv.silentSince 0).getD (max d.slv.readAt (max d.slv.lastP d.slv.lastT)) → d.before (t + 20000000) = true →
    exec .resolutionReread s = .next (s.put ((d.wait (t + 20000000)).resolve.afterRole Pr.resolving))) ∧
  (∀ (s : State), s.runs = true → s.dev.role ≠ Pr.resolving → exec .resolutionReread s = .next s) ∧
  (∀ (s : State) (d : Dev), s.dev = d → s.runs = true → d.role = Pr.standby →
    (d.failoverHolds = true → exec .failover s = .next (s.put (d.updSlv (fun s => { s with toClaim := 1 })))) ∧
    (d.failoverHolds = false → exec .failover s = .next s) ∧
    (d.flag F.SLV_STAT.PREFER = true → d.flag F.SLV_CFG.TAKEBACK_EN = true → d.slv.peerUnit / 2 = 0 → d.takebackHolds = true →
      d.healthy = true → exec .takebackRequest s = .next (s.put (d.updSlv (fun s => { s with wantTb := true })))) ∧
    (d.flag F.SLV_STAT.PREFER = false ∨ d.flag F.SLV_CFG.TAKEBACK_EN = false ∨ d.slv.peerUnit / 2 ≠ 0 ∨ d.takebackHolds = false ∨
      d.healthy = false → exec .takebackRequest s = .next s)) ∧
  (∀ (s : State), s.runs = true → s.dev.role ≠ Pr.standby → exec .failover s = .next s ∧ exec .takebackRequest s = .next s) ∧
  (∀ (s : State), s.runs = true → (AMap.find s.dev.slv.linkLostTb 0 = none ∨ s.dev.linkHandHolds = false ∨ s.dev.slv.handTb ≠ none) →
    exec .linkHandover s = .next s) ∧
  (∀ (s : State) (d : Dev) (t : Nat), s.dev = d → s.runs = true → AMap.find d.slv.linkLostTb 0 = some t → d.linkHandHolds = true →
    d.slv.handTb = none → d.before (t + 1000000 * max 1 (min 40 (d.rd F.SLV_TMO.LINK_HOLD_MS))) = true →
    exec .linkHandover s = .next (s.put ((d.wait (t + 1000000 * max 1 (min 40 (d.rd F.SLV_TMO.LINK_HOLD_MS)))).handStart none 0))) ∧
  (∀ (s : State) (d e : Dev) (lead a : Nat), s.dev = d → s.runs = true → d.isActive = true → d.slv.handTb.isSome = true →
    d.tilth.led = [] → d.cal.runs = [] → (∀ ca ∈ d.cell.aux, d.cellMode ca.1 ≠ Cm.cal) → (∀ p ∈ d.cir.pieces, 2 ≤ p.phase) →
    lead = (if d.slv.lead = 0 then max 1 (d.rd F.SLV_TMO.HANDOVER_LEAD) else d.slv.lead) →
    a = (d.pick.num + lead * 64 + 63) / 64 * 64 →
    e = d.discardPlans (fun _ => true) 5 →
    exec .handoverAgree s = .next (s.put (((({ e with tilth := { e.tilth with rsv := [] } }.wr F.SLV_STAT.ROLE Pr.handing).updSlv
      (fun s => { s with agreed := a, handTb := none })).setFlag
      F.SLV_STAT.HANDOVER true).slvEv 5 none))) ∧
  (∀ (s : State) (d : Dev), s.dev = d → s.runs = true → (d.isActive = false ∨ d.slv.handTb = none ∨ d.tilth.led ≠ [] ∨ d.cal.runs ≠ [] ∨
    (∃ ca ∈ d.cell.aux, d.cellMode ca.1 = Cm.cal) ∨ ∃ p ∈ d.cir.pieces, p.phase < 2) → exec .handoverAgree s = .next s) ∧
  (∀ (s : State), s.runs = true → s.dev.slv.handTb = none → exec .handoverDecline s = .next s) ∧
  (∀ (s : State) (d e w : Dev) (t : Nat), s.dev = d → s.runs = true → d.slv.handTb = some t → d.before (t + 1000000000) = true →
    e = (d.wait (t + 1000000000)).finishOpt (d.wait (t + 1000000000)).slv.handItem St.aborted [] →
    w = e.updSlv (fun s => { s with handTb := none, handItem := none }) →
    exec .handoverDecline s =
      .next (s.put (({ w with tilth := { w.tilth with stopped := false } }.bump F.SLV_CNT_D.DECLINED 1).slvEv 6 none)))

/-! ## Events, monitors, stores (chapters 17 - 19) -/

/-- Events (R368, R370 - R378, R380): an arbiter grants the next occurrence of its rotation; the level an occurrence takes; injection;
writes that acknowledge, clear the first-fault record or the counts; recovery after the quiet period; the hold of a record; the records
sent. Choices of the model in it: assumptions 10, 14, 76, 88. -/
def Obligations.EventsAct : Prop :=
  (∀ (s : State) (d : Dev) (b : Nat), s.dev = d → s.runs = true → b < 45 →
    (AMap.get d.ev.waiting b [] = [] → exec (.eventGrant b) s = .next s) ∧
    (∀ o : Occ, nextOcc (AMap.get d.ev.rot b 15) (AMap.get d.ev.waiting b []) = some o → o.src < 16 →
      ∃ t : State, exec (.eventGrant b) s = .next t ∧ t.pending = s.pending ∧
        (∃ more : List Occ, AMap.get t.dev.ev.waiting b [] = (AMap.get d.ev.waiting b []).erase o ++ more) ∧ AMap.get t.dev.ev.rot b 15 = o.src ∧
        t.dev.isActiveSrc b o.src o.inj = true ∧ t.dev.isUnack b o.src o.inj = true ∧ (t.dev.pendRec b o.src o.inj).isSome = true)) ∧
  (∀ (d : Dev) (b m : Nat) (o : Occ), d.isRepeat b o.src o.inj = false → d.classLevel b (evClass b o.src).1 o.inj = some m →
    d.levelOf b o = min 4 (max (o.sev.getD (evClass b o.src).2) (m + 1))) ∧
  (∀ (s : State) (d e : Dev) (b v : Nat) (fields : List FRow), s.dev = d → s.runs = true → b < 45 →
    regAt (R.EV_INJECT b) = some (.row (R.EV_INJECT 0) [b] fields) →
    e = (d.storeWord (R.EV_INJECT b) (R.EV_INJECT 0) [b] fields (putBit v 31 true)).wr (F.EV_INJECT.SOURCE b) (bits v 3 0) →
    ((∃ o ∈ AMap.get e.ev.waiting b [], o.inj = true) → exec (.goInject b v) s = .next (s.put e)) ∧
    ((∀ o ∈ AMap.get e.ev.waiting b [], o.inj = false) →
      ∀ at_ : Nat × Nat, at_ = (((AMap.get e.ev.waiting b []).head?.map (fun (o : Occ) => (o.pick, o.time))).getD (e.pick.num, e.ptpNow)) →
      exec (.goInject b v) s = .next (s.put { e with ev := { e.ev with waiting := AMap.put e.ev.waiting b (AMap.get e.ev.waiting b [] ++
        [{ src := bits v 3 0, sev := none, obj := e.rd (F.EV_INJ_ARG.ARG b), val := 0, inj := true, pick := at_.1,
           time := at_.2 }]) } }))) ∧
  (∀ (s : State) (d : Dev) (b v : Nat), s.dev = d → s.runs = true → b < 45 →
    exec (.unack b false v) s =
      .next (s.put (d.wr (F.EV_STATUS.UNACK b) (d.rd (F.EV_STATUS.UNACK b) &&& (65535 - bits v 31 16))).alertPin) ∧
    exec (.unack b true v) s =
      .next (s.put (d.wr (F.EV_INJ_STATUS.INJ_UNACK b) (d.rd (F.EV_INJ_STATUS.INJ_UNACK b) &&& (65535 - bits v 31 16))).alertPin) ∧
    (b ∉ d.ev.clearPend → exec (.countClr b v) s = .next (s.put { d with ev := { d.ev with clearPend := d.ev.clearPend ++ [b] } })) ∧
    (b ∈ d.ev.clearPend → exec (.countClr b v) s = .next s)) ∧
  (∀ (s : State) (d e x : Dev) (b v : Nat), s.dev = d → s.runs = true → b < 45 →
    e = (((d.wr (F.EV_FIRST.SOURCE b) 0).wr (F.EV_FIRST.SEV b) 0).wr (F.EV_FIRST.VALID b) 0).wr (F.EV_FIRST.CLASS b) 0 →
    x = { e with ev := { e.ev with firstHi := AMap.del e.ev.firstHi b } } →
    exec (.valid b v) s = .next (s.put ((((x.wr (F.EV_FIRST_PICK_LO.PICK b) 0).wr (F.EV_FIRST_PICK_HI.PICK b) 0).wr
      (F.EV_FIRST_OBJ.OBJECT b) 0).wr (F.EV_FIRST_VAL.VALUE b) 0))) ∧
  (∀ (s : State) (d : Dev) (b src : Nat), s.dev = d → s.runs = true → b < 45 → src < 16 → d.isActiveSrc b src true = false →
    (d.isActiveSrc b src false = false ∨ d.heldSrc b src = true ∨
      d.tbOf d.pick.num < (d.srcS b src false).quietFrom + 1000000 * max 1 (d.rd (F.EV_QUIET.QUIET_MS b)) →
      exec (.eventRecovery b src) s = .next s) ∧
    (d.pick.started = true → d.isActiveSrc b src false = true → (d.srcS b src false).held = false → d.heldSrc b src = false →
      (d.srcS b src false).quietFrom + 1000000 * max 1 (d.rd (F.EV_QUIET.QUIET_MS b)) ≤ d.tbOf d.pick.num →
      ∃ t : State, exec (.eventRecovery b src) s = .next t ∧ t.pending = s.pending ∧ t.dev.isActiveSrc b src false = false ∧
        t.dev.isUnack b src false = false ∧ (t.dev.srcS b src false).lvl = 7 ∧
        t.dev.rd (F.EV_COUNT.RECOVER b src) = min (d.rd (F.EV_COUNT.RECOVER b src) + 1) 65535 ∧
        (t.dev.pendRec b src false).any (fun (r : EvRec) => r.recov) = true)) ∧
  (∀ (s : State) (d e : Dev) (b src : Nat) (inj : Bool) (r : EvRec), s.dev = d → s.runs = true → b < 45 → src < 16 →
    d.pendRec b src inj = some r →
    (r.hold ≤ d.time.tb → exec (.coalesceHoldExpiry b src inj) s = .next s) ∧
    (d.time.tb < r.hold → d.before r.hold = true → e = d.wait r.hold →
      exec (.coalesceHoldExpiry b src inj) s = .next (s.put { e with ev := { e.ev with pend := e.ev.pend.map (fun (q : EvRec) =>
        if q.isOf b src inj then { q with hold := 0, since := e.time.tb } else q) } }))) ∧
  (∀ (s : State) (d : Dev), s.dev = d → s.runs = true →
    ((∀ r ∈ d.ev.pend, d.time.tb < r.hold) → exec .eventPacketSend s = .next s) ∧
    (∀ now : List EvRec, now = d.ev.pend.filter (fun (r : EvRec) => decide (r.hold ≤ d.time.tb)) → now ≠ [] →
      ∀ e : Dev, e = forEach d.cheda.sessions (fun (ks : Nat × Session) (d : Dev) =>
        if ks.2.opening || 4 < ks.2.minSev || (d.recordsFor ks.2 now).isEmpty then d
        else
          let ps := if d.shedLeft ks.1 ks.2 = {} then splitUpTo 64 (fun _ => 32) (d.roomOf ks.2.addr 3 - 28) (d.recordsFor ks.2 now)
            else splitUpTo 63 (fun _ => 32) (d.roomOf ks.2.addr 3 - 28 - 32) (d.recordsFor ks.2 now)
          forEach ps.zipIdx (fun (x : List EvRec × Nat) (d : Dev) => d.eventPacket ks.1 x.1 (x.2 + 1 = ps.length)) d) d →
      exec .eventPacketSend s = .next (s.put (forEach now
        (fun (r : EvRec) (d : Dev) =>
          let x := (d.updSrc r.block r.src r.inj (fun x => { x with sent := some (d.time.tb, r.sev) })).logLoam r
          if r.inj && 3 ≤ r.sev && r.sev ≤ 4 then x.logMarl r else x)
        { e with ev := { e.ev with pend := e.ev.pend.filter (fun (r : EvRec) => decide (e.time.tb < r.hold)) } }))) ∧
    ((∃ r ∈ d.ev.pend, r.hold ≤ d.time.tb) → (∀ ks ∈ d.cheda.sessions, ks.2.opening = true ∨ 4 < ks.2.minSev) →
      ∀ now : List EvRec, now = d.ev.pend.filter (fun (r : EvRec) => decide (r.hold ≤ d.time.tb)) →
      ∃ t : State, exec .eventPacketSend s = .next t ∧ t.pending = s.pending ∧
        t.dev.ev.pend = d.ev.pend.filter (fun (r : EvRec) => decide (d.time.tb < r.hold)) ∧
        t.dev.ev.logNext = d.ev.logNext + now.length ∧ t.dev.ev.log = keepLast 8388608 (d.ev.log ++ now))) ∧
  (∀ (s : State) (d : Dev) (slot : Nat) (ss : Session), s.dev = d → s.runs = true → slot < 17 → d.session slot = some ss →
    (ss.opening = true ∨ 4 < ss.minSev ∨ d.shedLeft slot ss = {} → exec (.summarySend slot) s = .next s) ∧
    (ss.opening = false → ss.minSev ≤ 4 → d.shedLeft slot ss ≠ {} → ∀ (e : Dev) (f : TxFrame),
      e = d.putSession slot { ss with evSeq := (ss.evSeq + 1) % 2 ^ 32 } →
      f = e.mkFrame ss.addr.port 3 ss.addr.mac (ss.addr.tag.map (fun t => t % 4096))
        (e.chedaBody ss.addr (d.packet 4 slot 1 ss.evSeq 0 1 (d.summaryBytes (d.shedLeft slot ss)))) →
      exec (.summarySend slot) s = .next (s.put
        (((e.enqueueTx ss.addr.port 3 { f with slot := slot, sum := d.shedLeft slot ss }).1.count 0x76).count 0x77)))) ∧
  (∀ (s : State) (b : Nat), s.runs = true → b < 45 → exec (.handshakeUnanswered b) s = .next (s.put (s.dev.raise b 14 0 0)))

/-- Counters, histograms and dumps (R383 - R389, R393 - R395): a selection is written at once and counts from the next boundary, an
unassigned one is reported; a read of the low word latches the high one; a sample of a unit adds one to its bin and to SAMPLES below
throttle level 1 (R390); a word of the unit's INPUT is sampled (R389); a dump that is due is built and sent, or skipped. Choices of the
model in it: assumption 77. -/
def Obligations.MonitorsAct : Prop :=
  (∀ (d : Dev) (u b : Nat) (h : Histo), h = AMap.get d.perf.histos u {} →
    (1 ≤ d.throttlePick → d.histo u b = d) ∧
    (d.throttlePick = 0 → AMap.get h.bins b 0 + 1 < 2 ^ 48 - 1 → h.samples + 1 < 2 ^ 64 - 1 → d.histo u b =
      { d with perf := { d.perf with histos := AMap.put d.perf.histos u
                                       { h with bins := AMap.put h.bins b (AMap.get h.bins b 0 + 1), samples := h.samples + 1 } } })) ∧
  (∀ (d : Dev) (k input : Nat) (code : Int),
    (input = (AMap.get d.perf.histos (33 + k) {}).input → -32768 ≤ code → code ≤ 32767 →
      d.wordHisto k input code = d.histo (33 + k) ((code + 32768).toNat / 2048)) ∧
    (input ≠ (AMap.get d.perf.histos (33 + k) {}).input → d.wordHisto k input code = d)) ∧
  (∀ (s : State) (d e w : Dev) (n v : Nat), s.dev = d → s.runs = true → n < 64 →
    e = (((d.wr (F.PERF_SEL.EVENT n) (bits v 7 0)).wr (F.PERF_SEL.MODE n) (bits v 9 8)).wr (F.PERF_SEL.POL n) (bits v 12 12)).wr
      (F.PERF_SEL.QUAL n) (bits v 21 16) →
    w = { e with perf := { e.perf with selPend := e.perf.selPend ++ [n] } } →
    (bits v 9 8 = 3 ∨ bits v 9 8 = 0 ∧ evAssigned (bits v 7 0) = true ∨ 1 ≤ bits v 9 8 ∧ bits v 7 0 ≤ 22 →
      exec (.perfSelWrite n v) s = .next (s.put w)) ∧
    (bits v 9 8 = 0 → evAssigned (bits v 7 0) = false →
      exec (.perfSelWrite n v) s = .next (s.put (w.raise 0x2B 6 n 1))) ∧
    (bits v 9 8 = 1 ∨ bits v 9 8 = 2 → 22 < bits v 7 0 →
      exec (.perfSelWrite n v) s = .next (s.put (w.raise 0x2B 11 n (bits v 7 0))))) ∧
  (∀ (s : State) (d : Dev) (n v : Nat), s.dev = d → s.runs = true → n < 64 →
    exec (.perfCntRead n) s = .next (s.put (((d.wr (F.PERF_CNT_LO.COUNT_LO n) (d.ctr n).val).wr (F.PERF_CNT_HI.COUNT_HI n)
      ((d.ctr n).val / 2 ^ 32)).setFlag (F.PERF_CNT_HI.OVF n) (d.ctr n).ovf)) ∧
    exec (.ovf n v) s = .next (s.put ((d.putCtr n { d.ctr n with ovf := false }).setFlag (F.PERF_CNT_HI.OVF n) false))) ∧
  (∀ (s : State) (d e : Dev) (u v : Nat), s.dev = d → s.runs = true → u < 35 →
    (33 ≤ u → 30 ≤ bits v 12 8 → exec (.histoCfgWrite u v) s = .next s) ∧
    (u < 33 ∨ bits v 12 8 < 30 →
      e = ((d.wr (F.HISTO_CFG.SHIFT u) (bits v 3 0)).wr (F.HISTO_CFG.INPUT u) (bits v 12 8)).wr (F.HISTO_CFG.BASE u) (bits v 31 16) →
      exec (.histoCfgWrite u v) s = .next (s.put { e with perf := { e.perf with cfgPend := e.perf.cfgPend ++ [u] } }))) ∧
  (∀ (s : State) (d e : Dev) (slot seq : Nat) (sn : Snap), s.dev = d → s.runs = true →
    (d.perf.dump = none → exec .bobbinSnapshot s = .next s) ∧
    (d.perf.dump = some (seq, sn) → e = { d with perf := { d.perf with dump := none } } → slot = d.rd F.BOB_CFG.BOB_SESSION →
      (slot = 0 ∨ 16 < slot → exec .bobbinSnapshot s = .next (s.put e)) ∧
      (slot ≠ 0 → slot ≤ 16 → d.session slot = none → exec .bobbinSnapshot s = .next (s.put (e.bump F.BOB_CNT.SKIP 1))) ∧
      (slot ≠ 0 → slot ≤ 16 → ∀ ss : Session, d.session slot = some ss → ss.opening = true →
        exec .bobbinSnapshot s = .next (s.put (e.bump F.BOB_CNT.SKIP 1))) ∧
      (slot ≠ 0 → slot ≤ 16 → ∀ (ss : Session) (r : Dev × Bool), d.session slot = some ss → ss.opening = false →
        (ss.priv = 0 → ss.ctrRead = false →
          exec .bobbinSnapshot s = .next (s.put ((e.bump F.BOB_CNT.SKIP 1).raise 0x2B 7 slot 0))) ∧
        (ss.priv ≠ 0 ∨ ss.ctrRead = true → ∀ q : Dev × Bool, q = e.dumpParts 0xB1 slot 4 seq sn ss
            ((List.range 64).map (fun n => ctrEntry sn n) ++ sn.words.map (fun w => beBytes 4 w)) →
          r = (if q.2 && e.flag F.BOB_CFG.HISTO_EN then
            q.1.dumpParts 0xB2 slot 5 seq sn ss ((List.range 35).map (fun u => histoEntry sn u)) else q) →
          exec .bobbinSnapshot s =
            .next (s.put (if r.2 then r.1 else (r.1.bump F.BOB_CNT.DROP 1).raise 0x2B 2 slot seq))))))

/-- Reed and Loam (R402 - R407, R410): a request is refused by its path or window, held behind a lock, or granted and answered; the ends of
a locked sequence and of a reset master; windows; the errors of Loam; the end of an export. Choices of the model in it: assumptions 10, 17,
18, 78. -/
def Obligations.StoresAct : Prop :=
  (∀ (s : State) (d : Dev) (m addr : Nat) (write : Bool) (words : List Nat) (count : Nat) (lock unlock barrier : Bool), s.dev = d →
    s.runs = true → m < 12 →
    (addr % 4 ≠ 0 → exec (.reedRequest m addr write words count lock unlock barrier) s = .next s) ∧
    (addr % 4 = 0 → barrier = true ∨ ((if write then words.length else count) ≠ 0 ∧
        (d.reedCheck m addr (4 * (if write then words.length else count)) write).2 = none) →
      exec (.reedRequest m addr write words count lock unlock barrier) s = .next (s.put (
        ({ d with reed := { d.reed with waiting := d.reed.waiting ++ [
          { master := m, addr := addr, write := write, words := words, count := count, lock := lock, unlock := unlock, barrier := barrier,
            sinceTb := d.time.tb, starved := false, longHeld := false }] } } : Dev).reedDrain (d.reed.waiting.length + 1)))) ∧
    (addr % 4 = 0 → barrier = false → (if write then words.length else count) = 0 →
      exec (.reedRequest m addr write words count lock unlock barrier) s =
        .next (s.put ((d.raise 0x02 5 (addr % 2 ^ 32) 0).reedError m addr 0)))) ∧
  (∀ (s : State) (d : Dev) (m addr : Nat) (write : Bool) (words : List Nat) (count : Nat) (lock unlock : Bool), s.dev = d → s.runs = true →
    m < 12 → addr % 4 = 0 → (write = true → words ≠ []) → (write = false → count ≠ 0) →
    (∀ src t, d.reedCheck m addr (4 * (if write then words.length else count)) write = (t, some src) →
      exec (.reedRequest m addr write words count lock unlock false) s =
        .next (s.put ((d.raise 0x02 src (addr % 2 ^ 32) t).reedError m addr t))) ∧
    (∀ t, d.reedCheck m addr (4 * (if write then words.length else count)) write = (t, none) → d.reed.waiting = [] →
      (∀ l : ReedLock, AMap.find d.reed.locks t = some l → l.master ≠ m →
        exec (.reedRequest m addr write words count lock unlock false) s = .next (s.put { d with reed := { d.reed with waiting := [
          { master := m, addr := addr, write := write, words := words, count := count, lock := lock, unlock := unlock, barrier := false,
            sinceTb := d.time.tb, starved := false, longHeld := false }] } })) ∧
      (d.reed.locks = [] → lock = false → ∀ e : Dev, e = { d with reed := { d.reed with rot := AMap.put d.reed.rot t m } } →
        (∀ v x, write = true → words = [v] → x = e.reedWrite addr v → x.2 = true →
          exec (.reedRequest m addr write words count lock unlock false) s = .next (s.put { x.1 with reed := { x.1.reed with
            done := some { master := m, addr := addr, error := false, words := [] } } })) ∧
        (∀ v x, write = false → count = 1 → x = e.reedRead addr → x.2 = some v →
          exec (.reedRequest m addr write words count lock unlock false) s = .next (s.put { x.1 with reed := { x.1.reed with
            done := some { master := m, addr := addr, error := false, words := [v] } } })) ∧
        (∀ x, write = false → count = 1 → x = e.reedRead addr → x.2 = none →
          exec (.reedRequest m addr write words count lock unlock false) s =
            .next (s.put ((x.1.raise 0x02 5 (addr % 2 ^ 32) t).reedError m addr t)))))) ∧
  (∀ (s : State) (d e : Dev) (t : Nat) (l : ReedLock), s.dev = d → s.runs = true → t < 10 →
    (AMap.find d.reed.locks t = none → exec (.reedLockTimeout t) s = .next s) ∧
    (AMap.find d.reed.locks t = some l → d.before (l.sinceTb + 10000) = true →
      e = d.wait (l.sinceTb + 10000) →
      exec (.reedLockTimeout t) s = .next (s.put
        (let x := ({ e with reed := { e.reed with locks := AMap.del e.reed.locks t } }.raise 0x02 2 ((l.writes.headD (0, 0)).1 % 2 ^ 32)
          l.master).reedError l.master ((l.writes.headD (0, 0)).1) t
         x.reedDrain x.reed.waiting.length)))) ∧
  (∀ (s : State) (d e : Dev) (m t : Nat) (q : ReedReq), s.dev = d → s.runs = true → m < 12 → t < 10 →
    ((∀ x ∈ d.reed.waiting, x.master = m → ReedReq_target x = t → x.starved = true) → exec (.starve m t) s = .next s) ∧
    (d.reed.waiting = [] → exec (.orderHoldLong m t) s = .next s) ∧
    (d.reed.waiting.find? (fun (x : ReedReq) => x.master = m && ReedReq_target x = t && !x.starved) = some q →
      d.before (q.sinceTb + 100000) = true → e = d.wait (q.sinceTb + 100000) →
      exec (.starve m t) s = .next (s.put
        ((e.markReq q (fun (x : ReedReq) => { x with starved := true })).raise 0x02 8 t (e.time.tb - q.sinceTb)))) ∧
    (∀ i : Nat, d.reed.waiting.zipIdx.find? (fun (ri : ReedReq × Nat) => ri.1.master = m && ReedReq_target ri.1 = t && !ri.1.longHeld &&
        d.orderHeld (d.reed.waiting.take ri.2) ri.1) = some (q, i) →
      d.before (q.sinceTb + 50001) = true → e = d.wait (q.sinceTb + 50001) →
      exec (.orderHoldLong m t) s = .next (s.put
        ((e.markReq q (fun (x : ReedReq) => { x with longHeld := true })).raise 0x02 3 t (e.time.tb - q.sinceTb))))) ∧
  (∀ (s : State) (d : Dev) (m addr : Nat) (words : List Nat) (item : Option Nat), s.dev = d → s.runs = true → m < 12 →
    exec (.masterReset m addr words item) s = .next (s.put (
      let ends := fun (d : Dev) (a t : Nat) => (d.raise 0x02 4 (a % 2 ^ 32) m).reedError m a t
      let a : Dev := { d with reed := { d.reed with
        locks := d.reed.locks.filter (fun (tl : Nat × ReedLock) => tl.2.master ≠ m)
        waiting := d.reed.waiting.filter (fun (x : ReedReq) => x.master ≠ m) } }
      let b := if m ≤ 3 then a.raise 0x2A 6 m 0 else if m = 5 ∨ 8 ≤ m ∧ m ≤ 10 then a.raise 0x02 9 m 0
        else if m = 11 then { a with boot := { a.boot with unlocked := false } } else a
      let c := b.reedCheck m addr (4 * words.length) true
      let f := if words = [] ∨ c.2 ≠ none then b
        else ends (b.reedWrites (words.zipIdx.map (fun (vi : Nat × Nat) => (addr + 4 * vi.2, vi.1)))).1 addr c.1
      let g := forEach (d.reed.waiting.filter (fun (x : ReedReq) => x.master = m))
        (fun (x : ReedReq) (d : Dev) => ends d x.addr (ReedReq_target x)) f
      let h := forEach (d.reed.locks.filter (fun (tl : Nat × ReedLock) => tl.2.master = m))
        (fun (tl : Nat × ReedLock) (d : Dev) => ends d ((tl.2.writes.headD (0, 0)).1) tl.1) g
      let k := match item with
        | none => h
        | some i =>
          if 3 < m || ((h.item i).map (fun (r : ItemRec) => r.fin.isNone && !r.committed)) ≠ some true then h
          else if h.reed.rerun.contains i then h.finish i St.aborted []
          else { h with reed := { h.reed with rerun := h.reed.rerun ++ [i] } }
      k.reedDrain k.reed.waiting.length))) ∧
  (∀ (s : State) (d e : Dev) (n v : Nat), s.dev = d → s.runs = true → n < 16 →
    (e = d.wr (F.REED_WIN_BASE.BASE n) (bits v 27 0) →
      exec (.reedWinWrite n false v) s = .next (s.put (if e.winOk n then e else d.raise 0x02 7 n 1))) ∧
    (e = ((((d.wr (F.REED_WIN_CTL.SIZE_LOG2 n) (bits v 5 0)).wr (F.REED_WIN_CTL.MASTERS n) (bits v 27 16)).setFlag
        (F.REED_WIN_CTL.READ n) (bit v 28)).setFlag (F.REED_WIN_CTL.WRITE n) (bit v 29)).setFlag (F.REED_WIN_CTL.EN n) (bit v 31) →
      exec (.reedWinWrite n true v) s = .next (s.put (if e.winOk n then e else d.raise 0x02 7 n 1)))) ∧
  (∀ (s : State) (d e : Dev) (m o : Nat), s.dev = d → s.runs = true → m < 12 → o < 2 ^ 32 →
    exec (.dramError m (0x100000000 + o) true) s = .next (s.put (d.raise 0x03 1 o 0)) ∧
    (e = (d.raise 0x03 2 o 0).reedError m (0x100000000 + o) 4 →
      (d.loam.retired.contains (o / 2048) = true → exec (.dramError m (0x100000000 + o) false) s = .next (s.put e)) ∧
      (d.loam.retired.contains (o / 2048) = false → d.loam.retired.length < 4095 →
        exec (.dramError m (0x100000000 + o) false) s =
          .next (s.put ({ e with loam := { e.loam with retired := d.loam.retired ++ [o / 2048] } }.raise 0x03 8 o 0))) ∧
      (d.loam.retired.contains (o / 2048) = false → d.loam.retired.length = 4095 →
        exec (.dramError m (0x100000000 + o) false) s = .next (s.put
          (({ e with loam := { e.loam with retired := d.loam.retired ++ [o / 2048] } }.raise 0x03 8 o 0).raise 0x03 9 o 0))) ∧
      (d.loam.retired.contains (o / 2048) = false → 4096 ≤ d.loam.retired.length →
        exec (.dramError m (0x100000000 + o) false) s = .next (s.put (e.raise 0x03 9 o 0))))) ∧
  (∀ (s : State) (m addr : Nat) (corrected : Bool), s.runs = true → m < 12 → (addr < 0x100000000 ∨ 0x200000000 ≤ addr) →
    exec (.dramError m addr corrected) s = .next s) ∧
  (∀ (s : State) (d e : Dev) (x : Export), s.dev = d → s.runs = true →
    (d.loam.export_ = none → exec .traceExportEnd s = .next s) ∧
    (∀ (ss : Session) (ps : List (List (List Byte))), d.loam.export_ = some x → d.session x.slot = some ss →
      ps = splitUpTo 65535 List.length (d.roomOf ss.addr 7 - 44) (d.ringBytes x.src x.start x.count) →
      e = (let f := d.exportFrames ss x ps.length ps.zipIdx x.start
           ({ f with loam := { f.loam with export_ := none } } : Dev).setFlag F.TRACE_STAT.EXPORTING false) →
      exec .traceExportEnd s = .next (s.put (e.finish x.item St.ok (((e.item x.item).map (fun (r : ItemRec) => r.result)).getD [])))) ∧
    (d.loam.export_ = some x → d.session x.slot = none →
      e = ({ d with loam := { d.loam with export_ := none } } : Dev).setFlag F.TRACE_STAT.EXPORTING false →
      exec .traceExportEnd s = .next (s.put (e.finish x.item St.ok (((e.item x.item).map (fun (r : ItemRec) => r.result)).getD [])))))

/-- Marl (R411, R412, R414): the next operation by rank starts, one of rank 1 between two rounds of another; rounds pass, the last commits;
a failed round takes a spare block, with none left its operation ends in error; the fault-log buffer is flushed when full or 1 s old.
Choices of the model in it: assumptions 10, 24, 79. -/
def Obligations.MarlActs : Prop :=
  (∀ (s : State) (d e : Dev) (op q : MarlOp) (qs : List MarlOp), s.dev = d → s.coreRuns = true →
    (d.therm.shut ≠ 0 ∨ d.marl.queue = [] → exec .marlOperationStart s = .next s) ∧
    (d.therm.shut = 0 → d.marl.queue = q :: qs → op = qs.foldl (fun (b : MarlOp) (x : MarlOp) => if x.rank < b.rank then x else b) q →
      e = { d with
        marl := { d.marl with queue := d.marl.queue.erase op, run := some { op := op, step := 0, left := 1 }, below := d.marl.run }
        nv := { d.nv with open_ := d.nv.open_ + 1 } } →
      (d.marl.run = none → exec .marlOperationStart s = .next (s.put e.marlStat)) ∧
      (∀ r : MarlRun, d.marl.run = some r →
        (op.rank = 1 → 1 < r.op.rank → d.marl.below = none → exec .marlOperationStart s = .next (s.put e.marlStat)) ∧
        (op.rank ≠ 1 ∨ r.op.rank ≤ 1 ∨ d.marl.below.isSome = true → exec .marlOperationStart s = .next s)))) ∧
  (∀ (s : State) (d e w x y : Dev) (r : MarlRun), s.dev = d → s.coreRuns = true →
    (d.marl.run = none → ∀ good, exec (.marlRoundDone good) s = .next s) ∧
    (d.marl.run = some r → ∀ n1 n2 : Nat, n1 = r.op.kind.rounds 1 → n2 = r.op.kind.rounds 2 →
      ∀ wear : Nat, wear = AMap.get d.nv.wear r.op.kind.region 0 + (if r.left = 1 then 1 else 0) →
      w = (if r.step = 1 then { d with nv := { d.nv with wear := AMap.put d.nv.wear r.op.kind.region wear } } else d) →
      (d.therm.shut ≠ 0 → 1 < r.left ∨ r.step ≠ 3 → exec (.marlRoundDone true) s =
        .next (s.put ({ w with marl := { w.marl with run := none, below := none, queue := [] } } : Dev).marlStat)) ∧
      (d.therm.shut = 0 → 1 < r.left → exec (.marlRoundDone true) s =
        .next (s.put ({ w with marl := { w.marl with run := some { r with left := r.left - 1 } } } : Dev).marlStat)) ∧
      (d.therm.shut = 0 → r.left ≤ 1 → r.step = 0 → exec (.marlRoundDone true) s =
        .next (s.put ({ d with marl := { d.marl with run := some (if n1 = 0 then { r with step := 2, left := n2 }
          else { r with step := 1, left := n1 }) } } : Dev).marlStat)) ∧
      (d.therm.shut = 0 → r.left ≤ 1 → r.step = 1 → exec (.marlRoundDone true) s =
        .next (s.put ({ w with marl := { w.marl with run := some { r with step := 2, left := n2 } } } : Dev).marlStat)) ∧
      (d.therm.shut = 0 → r.left ≤ 1 → r.step = 2 → exec (.marlRoundDone true) s =
        .next (s.put ({ d with marl := { d.marl with run := some { r with step := 3, left := 1 } } } : Dev).marlStat)) ∧
      (r.left ≤ 1 → r.step = 3 →
        e = { d with
          marl := { d.marl with run := d.marl.below, below := none }
          nv := { d.nv with open_ := d.nv.open_ - 1 } } →
        exec (.marlRoundDone true) s = .next (s.put (e.marlCommit r.op).marlStat)) ∧
      (d.nv.spares = 0 → x = d.raise 0x04 (if r.step = 1 then 1 else 0) r.op.kind.region 0 →
        exec (.marlRoundDone false) s = .next (s.put ((x.marlEndRun).marlFailed r.op St.marlError).marlStat)) ∧
      (d.nv.spares ≠ 0 → x = d.raise 0x04 (if r.step = 1 then 1 else 0) r.op.kind.region 0 →
        y = ({ x with nv := { x.nv with spares := d.nv.spares - 1 } } : Dev).raise 0x04 4 r.op.kind.region (d.nv.spares - 1) →
        (32 < d.nv.spares → exec (.marlRoundDone false) s = .next (s.put y.marlStat)) ∧
        (d.nv.spares = 1 → exec (.marlRoundDone false) s = .next (s.put (y.raise 0x04 6 0 0).marlStat)) ∧
        (1 < d.nv.spares → d.nv.spares ≤ 32 →
          exec (.marlRoundDone false) s = .next (s.put (y.raise 0x04 5 (d.nv.spares - 1) 0).marlStat))))) ∧
  (∀ (s : State) (d : Dev), s.dev = d → s.coreRuns = true →
    (d.marl.buf = [] ∨ (∃ o ∈ d.marl.queue, o.kind = .faultLog) → exec .marlLogFlush s = .next s) ∧
    (d.marl.buf ≠ [] → (∀ o ∈ d.marl.queue, o.kind ≠ .faultLog) →
      ∀ e : Dev, (512 ≤ d.marl.buf.length ∧ e = d ∨ d.marl.buf.length < 512 ∧ d.before (d.marl.bufTb + 1000000000) = true ∧
        e = d.wait (d.marl.bufTb + 1000000000)) →
      exec .marlLogFlush s = .next (s.put ({ e with marl := { e.marl with queue := e.marl.queue ++
        [{ rank := 1, kind := .faultLog, item := none }] } } : Dev).marlStat)))
end

