-- ==== Sys2Proof/Laws/Map.lean ====
section
/-! SUPPORT. The laws of sparse maps: a read after a write, the canonical form kept. -/

namespace Sys2Proof.Machine
open Sys2Proof

variable {α : Type}

/-- What `put` writes is found. -/
@[simp] theorem AMap.find_put_self (m : List (Nat × α)) (k : Nat) (v : α) : AMap.find (AMap.put m k v) k = some v := by
  induction m with
  | nil => simp [AMap.put, AMap.find]
  | cons kv m ih =>
    obtain ⟨k', v'⟩ := kv
    by_cases h1 : k < k'
    · simp [AMap.put, AMap.find, h1]
    · by_cases h2 : k = k'
      · simp [AMap.put, AMap.find, h2]
      · have h3 : ¬ k' = k := fun h => h2 h.symm
        simp [AMap.put, AMap.find, h1, h2, h3, ih]

/-- `put` leaves every other key. -/
theorem AMap.find_put_ne (m : List (Nat × α)) (k j : Nat) (v : α) (h : j ≠ k) : AMap.find (AMap.put m k v) j = AMap.find m j := by
  have hk : ¬ k = j := fun e => h e.symm
  induction m with
  | nil => simp [AMap.put, AMap.find, hk]
  | cons kv m ih =>
    obtain ⟨k', v'⟩ := kv
    by_cases h1 : k < k'
    · simp [AMap.put, AMap.find, h1, hk]
    · by_cases h2 : k = k'
      · subst h2; simp [AMap.put, AMap.find, hk]
      · by_cases h3 : k' = j
        · subst h3; simp [AMap.put, AMap.find, h1, h2]
        · simp [AMap.put, AMap.find, h1, h2, h3, ih]

/-- What `del` removes is not found. -/
@[simp] theorem AMap.find_del_self (m : List (Nat × α)) (k : Nat) : AMap.find (AMap.del m k) k = none := by
  induction m with
  | nil => rfl
  | cons kv m ih =>
    obtain ⟨k', v'⟩ := kv
    by_cases h : k' = k <;> simp [AMap.del, AMap.find, h, ih]

/-- `del` leaves every other key. -/
theorem AMap.find_del_ne (m : List (Nat × α)) (k j : Nat) (h : j ≠ k) : AMap.find (AMap.del m k) j = AMap.find m j := by
  induction m with
  | nil => rfl
  | cons kv m ih =>
    obtain ⟨k', v'⟩ := kv
    by_cases h1 : k' = k
    · subst h1
      have h2 : ¬ k' = j := fun e => h e.symm
      simp [AMap.del, AMap.find, h2, ih]
    · by_cases h2 : k' = j
      · subst h2; simp [AMap.del, AMap.find, h1]
      · simp [AMap.del, AMap.find, h1, h2, ih]

/-- A read of a key after `set` of it, with the same default. -/
@[simp] theorem AMap.get_set_self [DecidableEq α] (m : List (Nat × α)) (k : Nat) (v d : α) : AMap.get (AMap.set m k v d) k d = v := by
  by_cases h : v = d <;> simp [AMap.get, AMap.set, h]

/-- A read of another key after `set`. -/
theorem AMap.get_set_ne [DecidableEq α] (m : List (Nat × α)) (k j : Nat) (v d e : α) (h : j ≠ k) :
    AMap.get (AMap.set m k v d) j e = AMap.get m j e := by
  by_cases hv : v = d <;> simp [AMap.get, AMap.set, hv, AMap.find_del_ne _ _ _ h, AMap.find_put_ne _ _ _ _ h]

@[simp] theorem AMap.get_put_self (m : List (Nat × α)) (k : Nat) (v d : α) : AMap.get (AMap.put m k v) k d = v := by
  simp [AMap.get]

theorem AMap.get_put_ne (m : List (Nat × α)) (k j : Nat) (v d : α) (h : j ≠ k) : AMap.get (AMap.put m k v) j d = AMap.get m j d := by
  simp [AMap.get, AMap.find_put_ne _ _ _ _ h]

/-- The keys of a map. -/
def AMap.keys (m : List (Nat × α)) : List Nat := m.map (fun (kv : Nat × α) => kv.1)

/-- The canonical form: the keys strictly rise. -/
theorem AMap.wf_iff (m : List (Nat × α)) : AMap.wf m = true ↔ (AMap.keys m).Pairwise (· < ·) := by
  induction m with
  | nil => simp [AMap.wf, AMap.keys]
  | cons kv m ih =>
    cases m with
    | nil => simp [AMap.wf, AMap.keys]
    | cons kv' m =>
      obtain ⟨k, v⟩ := kv
      obtain ⟨k', v'⟩ := kv'
      simp only [AMap.wf, Bool.and_eq_true, decide_eq_true_eq, ih]
      simp only [AMap.keys, List.map_cons, List.pairwise_cons]
      constructor
      · rintro ⟨h, h2, h3⟩
        refine ⟨?_, h2, h3⟩
        intro a ha
        cases ha with
        | head => exact h
        | tail _ ha => exact Nat.lt_trans h (h2 a ha)
      · rintro ⟨h, h2, h3⟩
        exact ⟨h k' (List.mem_cons_self ..), h2, h3⟩

theorem AMap.mem_keys_put (m : List (Nat × α)) (k : Nat) (v : α) (j : Nat) (h : j ∈ AMap.keys (AMap.put m k v)) :
    j = k ∨ j ∈ AMap.keys m := by
  induction m with
  | nil => simp [AMap.put, AMap.keys] at h; exact Or.inl h
  | cons kv m ih =>
    obtain ⟨k', v'⟩ := kv
    simp only [AMap.put] at h
    split at h
    · simp [AMap.keys] at h ⊢; omega
    · split at h
      · simp [AMap.keys] at h ⊢
        rcases h with h | h
        · exact Or.inl h
        · exact Or.inr (Or.inr h)
      · simp only [AMap.keys, List.map_cons, List.mem_cons] at h ⊢
        rcases h with h | h
        · exact Or.inr (Or.inl h)
        · rcases ih h with h | h
          · exact Or.inl h
          · exact Or.inr (Or.inr h)

/-- `put` keeps the canonical form. -/
theorem AMap.wf_put (m : List (Nat × α)) (k : Nat) (v : α) (h : AMap.wf m = true) : AMap.wf (AMap.put m k v) = true := by
  rw [AMap.wf_iff] at h ⊢
  induction m with
  | nil => simp [AMap.put, AMap.keys]
  | cons kv m ih =>
    obtain ⟨k', v'⟩ := kv
    simp only [AMap.keys, List.map_cons, List.pairwise_cons] at h
    simp only [AMap.put]
    split
    case isTrue h1 =>
      simp only [AMap.keys, List.map_cons, List.pairwise_cons, List.mem_cons]
      refine ⟨?_, h⟩
      rintro a (rfl | ha)
      · exact h1
      · exact Nat.lt_trans h1 (h.1 a ha)
    case isFalse h1 =>
      split
      case isTrue h2 => subst h2; simpa [AMap.keys] using h
      case isFalse h2 =>
        simp only [AMap.keys, List.map_cons, List.pairwise_cons]
        refine ⟨?_, ih h.2⟩
        intro a ha
        rcases AMap.mem_keys_put m k v a ha with rfl | ha
        · omega
        · exact h.1 a ha

theorem AMap.mem_keys_del (m : List (Nat × α)) (k j : Nat) (h : j ∈ AMap.keys (AMap.del m k)) : j ∈ AMap.keys m := by
  induction m with
  | nil => exact h
  | cons kv m ih =>
    obtain ⟨k', v'⟩ := kv
    simp only [AMap.del] at h
    split at h
    · exact List.mem_cons_of_mem _ (ih h)
    · simp only [AMap.keys, List.map_cons, List.mem_cons] at h ⊢
      rcases h with h | h
      · exact Or.inl h
      · exact Or.inr (ih h)

/-- `del` keeps the canonical form. -/
theorem AMap.wf_del (m : List (Nat × α)) (k : Nat) (h : AMap.wf m = true) : AMap.wf (AMap.del m k) = true := by
  rw [AMap.wf_iff] at h ⊢
  induction m with
  | nil => exact h
  | cons kv m ih =>
    obtain ⟨k', v'⟩ := kv
    simp only [AMap.keys, List.map_cons, List.pairwise_cons] at h
    simp only [AMap.del]
    split
    · exact ih h.2
    · simp only [AMap.keys, List.map_cons, List.pairwise_cons]
      exact ⟨fun a ha => h.1 a (AMap.mem_keys_del m k a ha), ih h.2⟩

/-- `set` keeps the canonical form. -/
theorem AMap.wf_set [DecidableEq α] (m : List (Nat × α)) (k : Nat) (v d : α) (h : AMap.wf m = true) :
    AMap.wf (AMap.set m k v d) = true := by
  unfold AMap.set; split
  · exact AMap.wf_del m k h
  · exact AMap.wf_put m k v h

end Sys2Proof.Machine
end

