-- ==== Sys2Proof/Laws/State.lean ====
section
/-! SUPPORT. What each named update of the state changes, field by field, and what a command can answer. -/

namespace Sys2Proof.Machine
open Sys2Proof

/-! ## The state -/

@[simp] theorem State.onDev_pending (s : State) (f : Dev → Dev) : (s.onDev f).pending = s.pending := rfl
@[simp] theorem State.onDev_dev (s : State) (f : Dev → Dev) : (s.onDev f).dev = f s.dev := rfl
@[simp] theorem State.onDev_onDev (s : State) (f g : Dev → Dev) : (s.onDev f).onDev g = s.onDev (fun d => g (f d)) := rfl
@[simp] theorem State.onDev_id (s : State) : s.onDev (fun d => d) = s := rfl

/-! ## Commands: what each of the four ways to reach the block can answer -/

/-- `raw` answers a next state: the effect where the operands are good, otherwise the same state. -/
theorem State.raw_next (s : State) (ok : Bool) (f : Dev → Dev) : s.raw ok f = .next (if ok then s.onDev f else s) := rfl
theorem State.core_next (s : State) (ok : Bool) (f : Dev → Dev) :
    s.core ok f = .next (if ok && !s.dev.therm.trip && !s.dev.sup.held then s.onDev f else s) := rfl
theorem State.run_next (s : State) (ok : Bool) (f : Dev → Dev) : s.run ok f = .next (if ok && !s.dev.held then s.onDev f else s) := rfl
theorem State.live_next (s : State) (ok : Bool) (f : Dev → Dev) :
    s.live ok f = .next (if ok && !s.dev.held && decide (s.dev.therm.shut < 2) then s.onDev f else s) := rfl

/-- A block that is not held takes the command. -/
theorem State.run_acts (s : State) (f : Dev → Dev) (h : s.dev.held = false) : s.run true f = .next (s.onDev f) := by
  simp [State.run, h]
theorem State.run_acts_if (s : State) (ok : Bool) (f : Dev → Dev) (ho : ok = true) (h : s.dev.held = false) :
    s.run ok f = .next (s.onDev f) := by
  simp [State.run, ho, h]
theorem State.live_acts (s : State) (ok : Bool) (f : Dev → Dev) (ho : ok = true) (h : s.dev.held = false) (hs : s.dev.therm.shut < 2) :
    s.live ok f = .next (s.onDev f) := by
  simp [State.live, ho, h, hs]
theorem State.core_acts (s : State) (ok : Bool) (f : Dev → Dev) (ho : ok = true) (ht : s.dev.therm.trip = false) (hr : s.dev.sup.held = false) :
    s.core ok f = .next (s.onDev f) := by
  simp [State.core, ho, ht, hr]
theorem State.raw_acts (s : State) (ok : Bool) (f : Dev → Dev) (ho : ok = true) : s.raw ok f = .next (s.onDev f) := by
  simp [State.raw, ho]

/-- A held block does not. -/
theorem State.run_held (s : State) (ok : Bool) (f : Dev → Dev) (h : s.dev.held = true) : s.run ok f = .next s := by
  simp [State.run, h]
theorem State.live_held (s : State) (ok : Bool) (f : Dev → Dev) (h : s.dev.held = true) : s.live ok f = .next s := by
  simp [State.live, h]
theorem State.live_stopped (s : State) (ok : Bool) (f : Dev → Dev) (h : 2 ≤ s.dev.therm.shut) : s.live ok f = .next s := by
  have h' : ¬ s.dev.therm.shut < 2 := by omega
  simp [State.live, h']
theorem State.core_tripped (s : State) (ok : Bool) (f : Dev → Dev) (h : s.dev.therm.trip = true) : s.core ok f = .next s := by
  simp [State.core, h]

/-- The comparator holds every block. -/
theorem Dev.held_of_trip (d : Dev) (h : d.therm.trip = true) : d.held = true := by simp [Dev.held, h]

/-! ## Register and record fields -/

/-- A field reads as what was written, cut to its width. -/
@[simp] theorem Dev.rd_wr_self (d : Dev) (f : Fld) (v : Nat) : (d.wr f v).rd f = v % 2 ^ (f.hi - f.lo + 1) := by
  simp [Dev.rd, Dev.wr]

/-- Every other field reads as before. -/
theorem Dev.rd_wr_ne (d : Dev) (f g : Fld) (v : Nat) (h : g.key ≠ f.key) : (d.wr f v).rd g = d.rd g := by
  simp only [Dev.rd, Dev.wr, AMap.get_set_ne _ _ _ _ _ _ h]

/-- A write keeps the canonical form of the fields. -/
theorem Dev.wr_mem_wf (d : Dev) (f : Fld) (v : Nat) (h : AMap.wf d.mem = true) : AMap.wf (d.wr f v).mem = true :=
  AMap.wf_set _ _ _ _ h

/-- Reads look at the fields alone. -/
theorem Dev.rd_of_mem (d e : Dev) (f : Fld) (h : e.mem = d.mem) : e.rd f = d.rd f := by simp [Dev.rd, h]
theorem Dev.flag_of_mem (d e : Dev) (f : Fld) (h : e.mem = d.mem) : e.flag f = d.flag f := by
  unfold Dev.flag; rw [Dev.rd_of_mem d e f h]


@[simp] theorem Dev.wr_ev (d : Dev) (f : Fld) (v : Nat) : (d.wr f v).ev = d.ev := rfl
@[simp] theorem Dev.wr_perf (d : Dev) (f : Fld) (v : Nat) : (d.wr f v).perf = d.perf := rfl
@[simp] theorem Dev.wr_time (d : Dev) (f : Fld) (v : Nat) : (d.wr f v).time = d.time := rfl
@[simp] theorem Dev.wr_pick (d : Dev) (f : Fld) (v : Nat) : (d.wr f v).pick = d.pick := rfl
@[simp] theorem Dev.wr_cheda (d : Dev) (f : Fld) (v : Nat) : (d.wr f v).cheda = d.cheda := rfl
@[simp] theorem Dev.wr_reed (d : Dev) (f : Fld) (v : Nat) : (d.wr f v).reed = d.reed := rfl
@[simp] theorem Dev.wr_loam (d : Dev) (f : Fld) (v : Nat) : (d.wr f v).loam = d.loam := rfl
@[simp] theorem Dev.wr_draft (d : Dev) (f : Fld) (v : Nat) : (d.wr f v).draft = d.draft := rfl
@[simp] theorem Dev.wr_loop (d : Dev) (f : Fld) (v : Nat) : (d.wr f v).loop = d.loop := rfl
@[simp] theorem Dev.wr_trd (d : Dev) (f : Fld) (v : Nat) : (d.wr f v).trd = d.trd := rfl
@[simp] theorem Dev.wr_cell (d : Dev) (f : Fld) (v : Nat) : (d.wr f v).cell = d.cell := rfl
@[simp] theorem Dev.wr_cal (d : Dev) (f : Fld) (v : Nat) : (d.wr f v).cal = d.cal := rfl
@[simp] theorem Dev.wr_cir (d : Dev) (f : Fld) (v : Nat) : (d.wr f v).cir = d.cir := rfl
@[simp] theorem Dev.wr_tilth (d : Dev) (f : Fld) (v : Nat) : (d.wr f v).tilth = d.tilth := rfl
@[simp] theorem Dev.wr_weft (d : Dev) (f : Fld) (v : Nat) : (d.wr f v).weft = d.weft := rfl
@[simp] theorem Dev.wr_slv (d : Dev) (f : Fld) (v : Nat) : (d.wr f v).slv = d.slv := rfl
@[simp] theorem Dev.wr_free (d : Dev) (f : Fld) (v : Nat) : (d.wr f v).free = d.free := rfl
@[simp] theorem Dev.wr_nv (d : Dev) (f : Fld) (v : Nat) : (d.wr f v).nv = d.nv := rfl
@[simp] theorem Dev.wr_marl (d : Dev) (f : Fld) (v : Nat) : (d.wr f v).marl = d.marl := rfl
@[simp] theorem Dev.wr_sched (d : Dev) (f : Fld) (v : Nat) : (d.wr f v).sched = d.sched := rfl
@[simp] theorem Dev.wr_boot (d : Dev) (f : Fld) (v : Nat) : (d.wr f v).boot = d.boot := rfl
@[simp] theorem Dev.wr_net (d : Dev) (f : Fld) (v : Nat) : (d.wr f v).net = d.net := rfl
@[simp] theorem Dev.wr_teth (d : Dev) (f : Fld) (v : Nat) : (d.wr f v).teth = d.teth := rfl
@[simp] theorem Dev.wr_pol (d : Dev) (f : Fld) (v : Nat) : (d.wr f v).pol = d.pol := rfl
@[simp] theorem Dev.wr_sieve (d : Dev) (f : Fld) (v : Nat) : (d.wr f v).sieve = d.sieve := rfl
@[simp] theorem Dev.wr_dac (d : Dev) (f : Fld) (v : Nat) : (d.wr f v).dac = d.dac := rfl
@[simp] theorem Dev.wr_therm (d : Dev) (f : Fld) (v : Nat) : (d.wr f v).therm = d.therm := rfl
@[simp] theorem Dev.wr_silt (d : Dev) (f : Fld) (v : Nat) : (d.wr f v).silt = d.silt := rfl
@[simp] theorem Dev.wr_sup (d : Dev) (f : Fld) (v : Nat) : (d.wr f v).sup = d.sup := rfl
@[simp] theorem Dev.wr_regs (d : Dev) (f : Fld) (v : Nat) : (d.wr f v).regs = d.regs := rfl

@[simp] theorem Dev.setFlag_ev (d : Dev) (f : Fld) (b : Bool) : (d.setFlag f b).ev = d.ev := rfl
@[simp] theorem Dev.setFlag_perf (d : Dev) (f : Fld) (b : Bool) : (d.setFlag f b).perf = d.perf := rfl
@[simp] theorem Dev.setFlag_time (d : Dev) (f : Fld) (b : Bool) : (d.setFlag f b).time = d.time := rfl
@[simp] theorem Dev.setFlag_pick (d : Dev) (f : Fld) (b : Bool) : (d.setFlag f b).pick = d.pick := rfl
@[simp] theorem Dev.setFlag_cheda (d : Dev) (f : Fld) (b : Bool) : (d.setFlag f b).cheda = d.cheda := rfl
@[simp] theorem Dev.setFlag_reed (d : Dev) (f : Fld) (b : Bool) : (d.setFlag f b).reed = d.reed := rfl
@[simp] theorem Dev.setFlag_loam (d : Dev) (f : Fld) (b : Bool) : (d.setFlag f b).loam = d.loam := rfl
@[simp] theorem Dev.setFlag_draft (d : Dev) (f : Fld) (b : Bool) : (d.setFlag f b).draft = d.draft := rfl
@[simp] theorem Dev.setFlag_loop (d : Dev) (f : Fld) (b : Bool) : (d.setFlag f b).loop = d.loop := rfl
@[simp] theorem Dev.setFlag_trd (d : Dev) (f : Fld) (b : Bool) : (d.setFlag f b).trd = d.trd := rfl
@[simp] theorem Dev.setFlag_cell (d : Dev) (f : Fld) (b : Bool) : (d.setFlag f b).cell = d.cell := rfl
@[simp] theorem Dev.setFlag_cal (d : Dev) (f : Fld) (b : Bool) : (d.setFlag f b).cal = d.cal := rfl
@[simp] theorem Dev.setFlag_cir (d : Dev) (f : Fld) (b : Bool) : (d.setFlag f b).cir = d.cir := rfl
@[simp] theorem Dev.setFlag_tilth (d : Dev) (f : Fld) (b : Bool) : (d.setFlag f b).tilth = d.tilth := rfl
@[simp] theorem Dev.setFlag_weft (d : Dev) (f : Fld) (b : Bool) : (d.setFlag f b).weft = d.weft := rfl
@[simp] theorem Dev.setFlag_slv (d : Dev) (f : Fld) (b : Bool) : (d.setFlag f b).slv = d.slv := rfl
@[simp] theorem Dev.setFlag_free (d : Dev) (f : Fld) (b : Bool) : (d.setFlag f b).free = d.free := rfl
@[simp] theorem Dev.setFlag_nv (d : Dev) (f : Fld) (b : Bool) : (d.setFlag f b).nv = d.nv := rfl
@[simp] theorem Dev.setFlag_marl (d : Dev) (f : Fld) (b : Bool) : (d.setFlag f b).marl = d.marl := rfl
@[simp] theorem Dev.setFlag_sched (d : Dev) (f : Fld) (b : Bool) : (d.setFlag f b).sched = d.sched := rfl
@[simp] theorem Dev.setFlag_boot (d : Dev) (f : Fld) (b : Bool) : (d.setFlag f b).boot = d.boot := rfl
@[simp] theorem Dev.setFlag_net (d : Dev) (f : Fld) (b : Bool) : (d.setFlag f b).net = d.net := rfl
@[simp] theorem Dev.setFlag_teth (d : Dev) (f : Fld) (b : Bool) : (d.setFlag f b).teth = d.teth := rfl
@[simp] theorem Dev.setFlag_pol (d : Dev) (f : Fld) (b : Bool) : (d.setFlag f b).pol = d.pol := rfl
@[simp] theorem Dev.setFlag_sieve (d : Dev) (f : Fld) (b : Bool) : (d.setFlag f b).sieve = d.sieve := rfl
@[simp] theorem Dev.setFlag_dac (d : Dev) (f : Fld) (b : Bool) : (d.setFlag f b).dac = d.dac := rfl
@[simp] theorem Dev.setFlag_therm (d : Dev) (f : Fld) (b : Bool) : (d.setFlag f b).therm = d.therm := rfl
@[simp] theorem Dev.setFlag_silt (d : Dev) (f : Fld) (b : Bool) : (d.setFlag f b).silt = d.silt := rfl
@[simp] theorem Dev.setFlag_sup (d : Dev) (f : Fld) (b : Bool) : (d.setFlag f b).sup = d.sup := rfl
@[simp] theorem Dev.setFlag_regs (d : Dev) (f : Fld) (b : Bool) : (d.setFlag f b).regs = d.regs := rfl

@[simp] theorem Dev.bump_ev (d : Dev) (f : Fld) (n : Nat) : (d.bump f n).ev = d.ev := rfl
@[simp] theorem Dev.bump_perf (d : Dev) (f : Fld) (n : Nat) : (d.bump f n).perf = d.perf := rfl
@[simp] theorem Dev.bump_time (d : Dev) (f : Fld) (n : Nat) : (d.bump f n).time = d.time := rfl
@[simp] theorem Dev.bump_pick (d : Dev) (f : Fld) (n : Nat) : (d.bump f n).pick = d.pick := rfl
@[simp] theorem Dev.bump_cheda (d : Dev) (f : Fld) (n : Nat) : (d.bump f n).cheda = d.cheda := rfl
@[simp] theorem Dev.bump_reed (d : Dev) (f : Fld) (n : Nat) : (d.bump f n).reed = d.reed := rfl
@[simp] theorem Dev.bump_loam (d : Dev) (f : Fld) (n : Nat) : (d.bump f n).loam = d.loam := rfl
@[simp] theorem Dev.bump_draft (d : Dev) (f : Fld) (n : Nat) : (d.bump f n).draft = d.draft := rfl
@[simp] theorem Dev.bump_loop (d : Dev) (f : Fld) (n : Nat) : (d.bump f n).loop = d.loop := rfl
@[simp] theorem Dev.bump_trd (d : Dev) (f : Fld) (n : Nat) : (d.bump f n).trd = d.trd := rfl
@[simp] theorem Dev.bump_cell (d : Dev) (f : Fld) (n : Nat) : (d.bump f n).cell = d.cell := rfl
@[simp] theorem Dev.bump_cal (d : Dev) (f : Fld) (n : Nat) : (d.bump f n).cal = d.cal := rfl
@[simp] theorem Dev.bump_cir (d : Dev) (f : Fld) (n : Nat) : (d.bump f n).cir = d.cir := rfl
@[simp] theorem Dev.bump_tilth (d : Dev) (f : Fld) (n : Nat) : (d.bump f n).tilth = d.tilth := rfl
@[simp] theorem Dev.bump_weft (d : Dev) (f : Fld) (n : Nat) : (d.bump f n).weft = d.weft := rfl
@[simp] theorem Dev.bump_slv (d : Dev) (f : Fld) (n : Nat) : (d.bump f n).slv = d.slv := rfl
@[simp] theorem Dev.bump_free (d : Dev) (f : Fld) (n : Nat) : (d.bump f n).free = d.free := rfl
@[simp] theorem Dev.bump_nv (d : Dev) (f : Fld) (n : Nat) : (d.bump f n).nv = d.nv := rfl
@[simp] theorem Dev.bump_marl (d : Dev) (f : Fld) (n : Nat) : (d.bump f n).marl = d.marl := rfl
@[simp] theorem Dev.bump_sched (d : Dev) (f : Fld) (n : Nat) : (d.bump f n).sched = d.sched := rfl
@[simp] theorem Dev.bump_boot (d : Dev) (f : Fld) (n : Nat) : (d.bump f n).boot = d.boot := rfl
@[simp] theorem Dev.bump_net (d : Dev) (f : Fld) (n : Nat) : (d.bump f n).net = d.net := rfl
@[simp] theorem Dev.bump_teth (d : Dev) (f : Fld) (n : Nat) : (d.bump f n).teth = d.teth := rfl
@[simp] theorem Dev.bump_pol (d : Dev) (f : Fld) (n : Nat) : (d.bump f n).pol = d.pol := rfl
@[simp] theorem Dev.bump_sieve (d : Dev) (f : Fld) (n : Nat) : (d.bump f n).sieve = d.sieve := rfl
@[simp] theorem Dev.bump_dac (d : Dev) (f : Fld) (n : Nat) : (d.bump f n).dac = d.dac := rfl
@[simp] theorem Dev.bump_therm (d : Dev) (f : Fld) (n : Nat) : (d.bump f n).therm = d.therm := rfl
@[simp] theorem Dev.bump_silt (d : Dev) (f : Fld) (n : Nat) : (d.bump f n).silt = d.silt := rfl
@[simp] theorem Dev.bump_sup (d : Dev) (f : Fld) (n : Nat) : (d.bump f n).sup = d.sup := rfl
@[simp] theorem Dev.bump_regs (d : Dev) (f : Fld) (n : Nat) : (d.bump f n).regs = d.regs := rfl

@[simp] theorem Dev.bumpWrap_ev (d : Dev) (f : Fld) (n : Nat) : (d.bumpWrap f n).ev = d.ev := rfl
@[simp] theorem Dev.bumpWrap_perf (d : Dev) (f : Fld) (n : Nat) : (d.bumpWrap f n).perf = d.perf := rfl
@[simp] theorem Dev.bumpWrap_time (d : Dev) (f : Fld) (n : Nat) : (d.bumpWrap f n).time = d.time := rfl
@[simp] theorem Dev.bumpWrap_pick (d : Dev) (f : Fld) (n : Nat) : (d.bumpWrap f n).pick = d.pick := rfl
@[simp] theorem Dev.bumpWrap_cheda (d : Dev) (f : Fld) (n : Nat) : (d.bumpWrap f n).cheda = d.cheda := rfl
@[simp] theorem Dev.bumpWrap_reed (d : Dev) (f : Fld) (n : Nat) : (d.bumpWrap f n).reed = d.reed := rfl
@[simp] theorem Dev.bumpWrap_loam (d : Dev) (f : Fld) (n : Nat) : (d.bumpWrap f n).loam = d.loam := rfl
@[simp] theorem Dev.bumpWrap_draft (d : Dev) (f : Fld) (n : Nat) : (d.bumpWrap f n).draft = d.draft := rfl
@[simp] theorem Dev.bumpWrap_loop (d : Dev) (f : Fld) (n : Nat) : (d.bumpWrap f n).loop = d.loop := rfl
@[simp] theorem Dev.bumpWrap_trd (d : Dev) (f : Fld) (n : Nat) : (d.bumpWrap f n).trd = d.trd := rfl
@[simp] theorem Dev.bumpWrap_cell (d : Dev) (f : Fld) (n : Nat) : (d.bumpWrap f n).cell = d.cell := rfl
@[simp] theorem Dev.bumpWrap_cal (d : Dev) (f : Fld) (n : Nat) : (d.bumpWrap f n).cal = d.cal := rfl
@[simp] theorem Dev.bumpWrap_cir (d : Dev) (f : Fld) (n : Nat) : (d.bumpWrap f n).cir = d.cir := rfl
@[simp] theorem Dev.bumpWrap_tilth (d : Dev) (f : Fld) (n : Nat) : (d.bumpWrap f n).tilth = d.tilth := rfl
@[simp] theorem Dev.bumpWrap_weft (d : Dev) (f : Fld) (n : Nat) : (d.bumpWrap f n).weft = d.weft := rfl
@[simp] theorem Dev.bumpWrap_slv (d : Dev) (f : Fld) (n : Nat) : (d.bumpWrap f n).slv = d.slv := rfl
@[simp] theorem Dev.bumpWrap_free (d : Dev) (f : Fld) (n : Nat) : (d.bumpWrap f n).free = d.free := rfl
@[simp] theorem Dev.bumpWrap_nv (d : Dev) (f : Fld) (n : Nat) : (d.bumpWrap f n).nv = d.nv := rfl
@[simp] theorem Dev.bumpWrap_marl (d : Dev) (f : Fld) (n : Nat) : (d.bumpWrap f n).marl = d.marl := rfl
@[simp] theorem Dev.bumpWrap_sched (d : Dev) (f : Fld) (n : Nat) : (d.bumpWrap f n).sched = d.sched := rfl
@[simp] theorem Dev.bumpWrap_boot (d : Dev) (f : Fld) (n : Nat) : (d.bumpWrap f n).boot = d.boot := rfl
@[simp] theorem Dev.bumpWrap_net (d : Dev) (f : Fld) (n : Nat) : (d.bumpWrap f n).net = d.net := rfl
@[simp] theorem Dev.bumpWrap_teth (d : Dev) (f : Fld) (n : Nat) : (d.bumpWrap f n).teth = d.teth := rfl
@[simp] theorem Dev.bumpWrap_pol (d : Dev) (f : Fld) (n : Nat) : (d.bumpWrap f n).pol = d.pol := rfl
@[simp] theorem Dev.bumpWrap_sieve (d : Dev) (f : Fld) (n : Nat) : (d.bumpWrap f n).sieve = d.sieve := rfl
@[simp] theorem Dev.bumpWrap_dac (d : Dev) (f : Fld) (n : Nat) : (d.bumpWrap f n).dac = d.dac := rfl
@[simp] theorem Dev.bumpWrap_therm (d : Dev) (f : Fld) (n : Nat) : (d.bumpWrap f n).therm = d.therm := rfl
@[simp] theorem Dev.bumpWrap_silt (d : Dev) (f : Fld) (n : Nat) : (d.bumpWrap f n).silt = d.silt := rfl
@[simp] theorem Dev.bumpWrap_sup (d : Dev) (f : Fld) (n : Nat) : (d.bumpWrap f n).sup = d.sup := rfl
@[simp] theorem Dev.bumpWrap_regs (d : Dev) (f : Fld) (n : Nat) : (d.bumpWrap f n).regs = d.regs := rfl

/-- A flag reads as it was set. -/
theorem Dev.flag_setFlag_self (d : Dev) (f : Fld) (b : Bool) : (d.setFlag f b).flag f = b := by
  have h : (1 : Nat) % 2 ^ (f.hi - f.lo + 1) = 1 := by
    apply Nat.mod_eq_of_lt
    have := Nat.pow_le_pow_right (show 0 < 2 by decide) (show 1 ≤ f.hi - f.lo + 1 by omega)
    omega
  cases b <;> simp [Dev.flag, Dev.setFlag, h]

/-! ## Occurrences -/


@[simp] theorem Dev.raiseSev_mem (d : Dev) (b x : Nat) (v : Option Nat) (o w : Nat) : (d.raiseSev b x v o w).mem = d.mem := rfl
@[simp] theorem Dev.raiseSev_perf (d : Dev) (b x : Nat) (v : Option Nat) (o w : Nat) : (d.raiseSev b x v o w).perf = d.perf := rfl
@[simp] theorem Dev.raiseSev_time (d : Dev) (b x : Nat) (v : Option Nat) (o w : Nat) : (d.raiseSev b x v o w).time = d.time := rfl
@[simp] theorem Dev.raiseSev_pick (d : Dev) (b x : Nat) (v : Option Nat) (o w : Nat) : (d.raiseSev b x v o w).pick = d.pick := rfl
@[simp] theorem Dev.raiseSev_cheda (d : Dev) (b x : Nat) (v : Option Nat) (o w : Nat) : (d.raiseSev b x v o w).cheda = d.cheda := rfl
@[simp] theorem Dev.raiseSev_reed (d : Dev) (b x : Nat) (v : Option Nat) (o w : Nat) : (d.raiseSev b x v o w).reed = d.reed := rfl
@[simp] theorem Dev.raiseSev_loam (d : Dev) (b x : Nat) (v : Option Nat) (o w : Nat) : (d.raiseSev b x v o w).loam = d.loam := rfl
@[simp] theorem Dev.raiseSev_draft (d : Dev) (b x : Nat) (v : Option Nat) (o w : Nat) : (d.raiseSev b x v o w).draft = d.draft := rfl
@[simp] theorem Dev.raiseSev_loop (d : Dev) (b x : Nat) (v : Option Nat) (o w : Nat) : (d.raiseSev b x v o w).loop = d.loop := rfl
@[simp] theorem Dev.raiseSev_trd (d : Dev) (b x : Nat) (v : Option Nat) (o w : Nat) : (d.raiseSev b x v o w).trd = d.trd := rfl
@[simp] theorem Dev.raiseSev_cell (d : Dev) (b x : Nat) (v : Option Nat) (o w : Nat) : (d.raiseSev b x v o w).cell = d.cell := rfl
@[simp] theorem Dev.raiseSev_cal (d : Dev) (b x : Nat) (v : Option Nat) (o w : Nat) : (d.raiseSev b x v o w).cal = d.cal := rfl
@[simp] theorem Dev.raiseSev_cir (d : Dev) (b x : Nat) (v : Option Nat) (o w : Nat) : (d.raiseSev b x v o w).cir = d.cir := rfl
@[simp] theorem Dev.raiseSev_tilth (d : Dev) (b x : Nat) (v : Option Nat) (o w : Nat) : (d.raiseSev b x v o w).tilth = d.tilth := rfl
@[simp] theorem Dev.raiseSev_weft (d : Dev) (b x : Nat) (v : Option Nat) (o w : Nat) : (d.raiseSev b x v o w).weft = d.weft := rfl
@[simp] theorem Dev.raiseSev_slv (d : Dev) (b x : Nat) (v : Option Nat) (o w : Nat) : (d.raiseSev b x v o w).slv = d.slv := rfl
@[simp] theorem Dev.raiseSev_free (d : Dev) (b x : Nat) (v : Option Nat) (o w : Nat) : (d.raiseSev b x v o w).free = d.free := rfl
@[simp] theorem Dev.raiseSev_nv (d : Dev) (b x : Nat) (v : Option Nat) (o w : Nat) : (d.raiseSev b x v o w).nv = d.nv := rfl
@[simp] theorem Dev.raiseSev_marl (d : Dev) (b x : Nat) (v : Option Nat) (o w : Nat) : (d.raiseSev b x v o w).marl = d.marl := rfl
@[simp] theorem Dev.raiseSev_sched (d : Dev) (b x : Nat) (v : Option Nat) (o w : Nat) : (d.raiseSev b x v o w).sched = d.sched := rfl
@[simp] theorem Dev.raiseSev_boot (d : Dev) (b x : Nat) (v : Option Nat) (o w : Nat) : (d.raiseSev b x v o w).boot = d.boot := rfl
@[simp] theorem Dev.raiseSev_net (d : Dev) (b x : Nat) (v : Option Nat) (o w : Nat) : (d.raiseSev b x v o w).net = d.net := rfl
@[simp] theorem Dev.raiseSev_teth (d : Dev) (b x : Nat) (v : Option Nat) (o w : Nat) : (d.raiseSev b x v o w).teth = d.teth := rfl
@[simp] theorem Dev.raiseSev_pol (d : Dev) (b x : Nat) (v : Option Nat) (o w : Nat) : (d.raiseSev b x v o w).pol = d.pol := rfl
@[simp] theorem Dev.raiseSev_sieve (d : Dev) (b x : Nat) (v : Option Nat) (o w : Nat) : (d.raiseSev b x v o w).sieve = d.sieve := rfl
@[simp] theorem Dev.raiseSev_dac (d : Dev) (b x : Nat) (v : Option Nat) (o w : Nat) : (d.raiseSev b x v o w).dac = d.dac := rfl
@[simp] theorem Dev.raiseSev_therm (d : Dev) (b x : Nat) (v : Option Nat) (o w : Nat) : (d.raiseSev b x v o w).therm = d.therm := rfl
@[simp] theorem Dev.raiseSev_silt (d : Dev) (b x : Nat) (v : Option Nat) (o w : Nat) : (d.raiseSev b x v o w).silt = d.silt := rfl
@[simp] theorem Dev.raiseSev_sup (d : Dev) (b x : Nat) (v : Option Nat) (o w : Nat) : (d.raiseSev b x v o w).sup = d.sup := rfl
@[simp] theorem Dev.raiseSev_regs (d : Dev) (b x : Nat) (v : Option Nat) (o w : Nat) : (d.raiseSev b x v o w).regs = d.regs := rfl

@[simp] theorem Dev.raise_mem (d : Dev) (b x o w : Nat) : (d.raise b x o w).mem = d.mem := rfl
@[simp] theorem Dev.raise_perf (d : Dev) (b x o w : Nat) : (d.raise b x o w).perf = d.perf := rfl
@[simp] theorem Dev.raise_time (d : Dev) (b x o w : Nat) : (d.raise b x o w).time = d.time := rfl
@[simp] theorem Dev.raise_pick (d : Dev) (b x o w : Nat) : (d.raise b x o w).pick = d.pick := rfl
@[simp] theorem Dev.raise_cheda (d : Dev) (b x o w : Nat) : (d.raise b x o w).cheda = d.cheda := rfl
@[simp] theorem Dev.raise_reed (d : Dev) (b x o w : Nat) : (d.raise b x o w).reed = d.reed := rfl
@[simp] theorem Dev.raise_loam (d : Dev) (b x o w : Nat) : (d.raise b x o w).loam = d.loam := rfl
@[simp] theorem Dev.raise_draft (d : Dev) (b x o w : Nat) : (d.raise b x o w).draft = d.draft := rfl
@[simp] theorem Dev.raise_loop (d : Dev) (b x o w : Nat) : (d.raise b x o w).loop = d.loop := rfl
@[simp] theorem Dev.raise_trd (d : Dev) (b x o w : Nat) : (d.raise b x o w).trd = d.trd := rfl
@[simp] theorem Dev.raise_cell (d : Dev) (b x o w : Nat) : (d.raise b x o w).cell = d.cell := rfl
@[simp] theorem Dev.raise_cal (d : Dev) (b x o w : Nat) : (d.raise b x o w).cal = d.cal := rfl
@[simp] theorem Dev.raise_cir (d : Dev) (b x o w : Nat) : (d.raise b x o w).cir = d.cir := rfl
@[simp] theorem Dev.raise_tilth (d : Dev) (b x o w : Nat) : (d.raise b x o w).tilth = d.tilth := rfl
@[simp] theorem Dev.raise_weft (d : Dev) (b x o w : Nat) : (d.raise b x o w).weft = d.weft := rfl
@[simp] theorem Dev.raise_slv (d : Dev) (b x o w : Nat) : (d.raise b x o w).slv = d.slv := rfl
@[simp] theorem Dev.raise_free (d : Dev) (b x o w : Nat) : (d.raise b x o w).free = d.free := rfl
@[simp] theorem Dev.raise_nv (d : Dev) (b x o w : Nat) : (d.raise b x o w).nv = d.nv := rfl
@[simp] theorem Dev.raise_marl (d : Dev) (b x o w : Nat) : (d.raise b x o w).marl = d.marl := rfl
@[simp] theorem Dev.raise_sched (d : Dev) (b x o w : Nat) : (d.raise b x o w).sched = d.sched := rfl
@[simp] theorem Dev.raise_boot (d : Dev) (b x o w : Nat) : (d.raise b x o w).boot = d.boot := rfl
@[simp] theorem Dev.raise_net (d : Dev) (b x o w : Nat) : (d.raise b x o w).net = d.net := rfl
@[simp] theorem Dev.raise_teth (d : Dev) (b x o w : Nat) : (d.raise b x o w).teth = d.teth := rfl
@[simp] theorem Dev.raise_pol (d : Dev) (b x o w : Nat) : (d.raise b x o w).pol = d.pol := rfl
@[simp] theorem Dev.raise_sieve (d : Dev) (b x o w : Nat) : (d.raise b x o w).sieve = d.sieve := rfl
@[simp] theorem Dev.raise_dac (d : Dev) (b x o w : Nat) : (d.raise b x o w).dac = d.dac := rfl
@[simp] theorem Dev.raise_therm (d : Dev) (b x o w : Nat) : (d.raise b x o w).therm = d.therm := rfl
@[simp] theorem Dev.raise_silt (d : Dev) (b x o w : Nat) : (d.raise b x o w).silt = d.silt := rfl
@[simp] theorem Dev.raise_sup (d : Dev) (b x o w : Nat) : (d.raise b x o w).sup = d.sup := rfl
@[simp] theorem Dev.raise_regs (d : Dev) (b x o w : Nat) : (d.raise b x o w).regs = d.regs := rfl
@[simp] theorem Dev.raise_rd (d : Dev) (b x o w : Nat) (f : Fld) : (d.raise b x o w).rd f = d.rd f := rfl

/-! ## Counted events: everything but the counters and the occurrences they raise stays -/

/-- What counting leaves of the device. -/
theorem Dev.addCtrs_keeps {β : Type} (g : Dev → β) (hp : ∀ (d : Dev) p, g { d with perf := p } = g d)
    (hr : ∀ (d : Dev) b x o w, g (d.raise b x o w) = g d) (d : Dev) (sel : Ctr → Bool) (n : Nat) : g (d.addCtrs sel n) = g d := by
  unfold Dev.addCtrs
  generalize d.perf.ctrs = l
  induction l generalizing d with
  | nil => rfl
  | cons a l ih =>
    simp only [List.foldl_cons]
    refine (ih _).trans ?_
    split
    · split
      · exact (hr _ _ _ _ _).trans (hp _ _)
      · exact hp _ _
    · rfl

@[simp] theorem Dev.addCtrs_mem (d : Dev) (sel : Ctr → Bool) (n : Nat) : (d.addCtrs sel n).mem = d.mem :=
  Dev.addCtrs_keeps (fun d => d.mem) (fun _ _ => rfl) (fun _ _ _ _ _ => rfl) d sel n
@[simp] theorem Dev.addCtrs_time (d : Dev) (sel : Ctr → Bool) (n : Nat) : (d.addCtrs sel n).time = d.time :=
  Dev.addCtrs_keeps (fun d => d.time) (fun _ _ => rfl) (fun _ _ _ _ _ => rfl) d sel n
@[simp] theorem Dev.addCtrs_pick (d : Dev) (sel : Ctr → Bool) (n : Nat) : (d.addCtrs sel n).pick = d.pick :=
  Dev.addCtrs_keeps (fun d => d.pick) (fun _ _ => rfl) (fun _ _ _ _ _ => rfl) d sel n
@[simp] theorem Dev.addCtrs_cheda (d : Dev) (sel : Ctr → Bool) (n : Nat) : (d.addCtrs sel n).cheda = d.cheda :=
  Dev.addCtrs_keeps (fun d => d.cheda) (fun _ _ => rfl) (fun _ _ _ _ _ => rfl) d sel n
@[simp] theorem Dev.addCtrs_reed (d : Dev) (sel : Ctr → Bool) (n : Nat) : (d.addCtrs sel n).reed = d.reed :=
  Dev.addCtrs_keeps (fun d => d.reed) (fun _ _ => rfl) (fun _ _ _ _ _ => rfl) d sel n
@[simp] theorem Dev.addCtrs_loam (d : Dev) (sel : Ctr → Bool) (n : Nat) : (d.addCtrs sel n).loam = d.loam :=
  Dev.addCtrs_keeps (fun d => d.loam) (fun _ _ => rfl) (fun _ _ _ _ _ => rfl) d sel n
@[simp] theorem Dev.addCtrs_draft (d : Dev) (sel : Ctr → Bool) (n : Nat) : (d.addCtrs sel n).draft = d.draft :=
  Dev.addCtrs_keeps (fun d => d.draft) (fun _ _ => rfl) (fun _ _ _ _ _ => rfl) d sel n
@[simp] theorem Dev.addCtrs_loop (d : Dev) (sel : Ctr → Bool) (n : Nat) : (d.addCtrs sel n).loop = d.loop :=
  Dev.addCtrs_keeps (fun d => d.loop) (fun _ _ => rfl) (fun _ _ _ _ _ => rfl) d sel n
@[simp] theorem Dev.addCtrs_trd (d : Dev) (sel : Ctr → Bool) (n : Nat) : (d.addCtrs sel n).trd = d.trd :=
  Dev.addCtrs_keeps (fun d => d.trd) (fun _ _ => rfl) (fun _ _ _ _ _ => rfl) d sel n
@[simp] theorem Dev.addCtrs_cell (d : Dev) (sel : Ctr → Bool) (n : Nat) : (d.addCtrs sel n).cell = d.cell :=
  Dev.addCtrs_keeps (fun d => d.cell) (fun _ _ => rfl) (fun _ _ _ _ _ => rfl) d sel n
@[simp] theorem Dev.addCtrs_cal (d : Dev) (sel : Ctr → Bool) (n : Nat) : (d.addCtrs sel n).cal = d.cal :=
  Dev.addCtrs_keeps (fun d => d.cal) (fun _ _ => rfl) (fun _ _ _ _ _ => rfl) d sel n
@[simp] theorem Dev.addCtrs_cir (d : Dev) (sel : Ctr → Bool) (n : Nat) : (d.addCtrs sel n).cir = d.cir :=
  Dev.addCtrs_keeps (fun d => d.cir) (fun _ _ => rfl) (fun _ _ _ _ _ => rfl) d sel n
@[simp] theorem Dev.addCtrs_tilth (d : Dev) (sel : Ctr → Bool) (n : Nat) : (d.addCtrs sel n).tilth = d.tilth :=
  Dev.addCtrs_keeps (fun d => d.tilth) (fun _ _ => rfl) (fun _ _ _ _ _ => rfl) d sel n
@[simp] theorem Dev.addCtrs_weft (d : Dev) (sel : Ctr → Bool) (n : Nat) : (d.addCtrs sel n).weft = d.weft :=
  Dev.addCtrs_keeps (fun d => d.weft) (fun _ _ => rfl) (fun _ _ _ _ _ => rfl) d sel n
@[simp] theorem Dev.addCtrs_slv (d : Dev) (sel : Ctr → Bool) (n : Nat) : (d.addCtrs sel n).slv = d.slv :=
  Dev.addCtrs_keeps (fun d => d.slv) (fun _ _ => rfl) (fun _ _ _ _ _ => rfl) d sel n
@[simp] theorem Dev.addCtrs_free (d : Dev) (sel : Ctr → Bool) (n : Nat) : (d.addCtrs sel n).free = d.free :=
  Dev.addCtrs_keeps (fun d => d.free) (fun _ _ => rfl) (fun _ _ _ _ _ => rfl) d sel n
@[simp] theorem Dev.addCtrs_nv (d : Dev) (sel : Ctr → Bool) (n : Nat) : (d.addCtrs sel n).nv = d.nv :=
  Dev.addCtrs_keeps (fun d => d.nv) (fun _ _ => rfl) (fun _ _ _ _ _ => rfl) d sel n
@[simp] theorem Dev.addCtrs_marl (d : Dev) (sel : Ctr → Bool) (n : Nat) : (d.addCtrs sel n).marl = d.marl :=
  Dev.addCtrs_keeps (fun d => d.marl) (fun _ _ => rfl) (fun _ _ _ _ _ => rfl) d sel n
@[simp] theorem Dev.addCtrs_sched (d : Dev) (sel : Ctr → Bool) (n : Nat) : (d.addCtrs sel n).sched = d.sched :=
  Dev.addCtrs_keeps (fun d => d.sched) (fun _ _ => rfl) (fun _ _ _ _ _ => rfl) d sel n
@[simp] theorem Dev.addCtrs_boot (d : Dev) (sel : Ctr → Bool) (n : Nat) : (d.addCtrs sel n).boot = d.boot :=
  Dev.addCtrs_keeps (fun d => d.boot) (fun _ _ => rfl) (fun _ _ _ _ _ => rfl) d sel n
@[simp] theorem Dev.addCtrs_net (d : Dev) (sel : Ctr → Bool) (n : Nat) : (d.addCtrs sel n).net = d.net :=
  Dev.addCtrs_keeps (fun d => d.net) (fun _ _ => rfl) (fun _ _ _ _ _ => rfl) d sel n
@[simp] theorem Dev.addCtrs_teth (d : Dev) (sel : Ctr → Bool) (n : Nat) : (d.addCtrs sel n).teth = d.teth :=
  Dev.addCtrs_keeps (fun d => d.teth) (fun _ _ => rfl) (fun _ _ _ _ _ => rfl) d sel n
@[simp] theorem Dev.addCtrs_pol (d : Dev) (sel : Ctr → Bool) (n : Nat) : (d.addCtrs sel n).pol = d.pol :=
  Dev.addCtrs_keeps (fun d => d.pol) (fun _ _ => rfl) (fun _ _ _ _ _ => rfl) d sel n
@[simp] theorem Dev.addCtrs_sieve (d : Dev) (sel : Ctr → Bool) (n : Nat) : (d.addCtrs sel n).sieve = d.sieve :=
  Dev.addCtrs_keeps (fun d => d.sieve) (fun _ _ => rfl) (fun _ _ _ _ _ => rfl) d sel n
@[simp] theorem Dev.addCtrs_dac (d : Dev) (sel : Ctr → Bool) (n : Nat) : (d.addCtrs sel n).dac = d.dac :=
  Dev.addCtrs_keeps (fun d => d.dac) (fun _ _ => rfl) (fun _ _ _ _ _ => rfl) d sel n
@[simp] theorem Dev.addCtrs_therm (d : Dev) (sel : Ctr → Bool) (n : Nat) : (d.addCtrs sel n).therm = d.therm :=
  Dev.addCtrs_keeps (fun d => d.therm) (fun _ _ => rfl) (fun _ _ _ _ _ => rfl) d sel n
@[simp] theorem Dev.addCtrs_silt (d : Dev) (sel : Ctr → Bool) (n : Nat) : (d.addCtrs sel n).silt = d.silt :=
  Dev.addCtrs_keeps (fun d => d.silt) (fun _ _ => rfl) (fun _ _ _ _ _ => rfl) d sel n
@[simp] theorem Dev.addCtrs_sup (d : Dev) (sel : Ctr → Bool) (n : Nat) : (d.addCtrs sel n).sup = d.sup :=
  Dev.addCtrs_keeps (fun d => d.sup) (fun _ _ => rfl) (fun _ _ _ _ _ => rfl) d sel n
@[simp] theorem Dev.addCtrs_regs (d : Dev) (sel : Ctr → Bool) (n : Nat) : (d.addCtrs sel n).regs = d.regs :=
  Dev.addCtrs_keeps (fun d => d.regs) (fun _ _ => rfl) (fun _ _ _ _ _ => rfl) d sel n

@[simp] theorem Dev.countQ_mem (d : Dev) (num inst : Nat) : (d.countQ num inst).mem = d.mem := by simp [Dev.countQ, Dev.countN]
@[simp] theorem Dev.countQ_time (d : Dev) (num inst : Nat) : (d.countQ num inst).time = d.time := by simp [Dev.countQ, Dev.countN]
@[simp] theorem Dev.countQ_pick (d : Dev) (num inst : Nat) : (d.countQ num inst).pick = d.pick := by simp [Dev.countQ, Dev.countN]
@[simp] theorem Dev.countQ_cheda (d : Dev) (num inst : Nat) : (d.countQ num inst).cheda = d.cheda := by simp [Dev.countQ, Dev.countN]
@[simp] theorem Dev.countQ_reed (d : Dev) (num inst : Nat) : (d.countQ num inst).reed = d.reed := by simp [Dev.countQ, Dev.countN]
@[simp] theorem Dev.countQ_loam (d : Dev) (num inst : Nat) : (d.countQ num inst).loam = d.loam := by simp [Dev.countQ, Dev.countN]
@[simp] theorem Dev.countQ_draft (d : Dev) (num inst : Nat) : (d.countQ num inst).draft = d.draft := by simp [Dev.countQ, Dev.countN]
@[simp] theorem Dev.countQ_loop (d : Dev) (num inst : Nat) : (d.countQ num inst).loop = d.loop := by simp [Dev.countQ, Dev.countN]
@[simp] theorem Dev.countQ_trd (d : Dev) (num inst : Nat) : (d.countQ num inst).trd = d.trd := by simp [Dev.countQ, Dev.countN]
@[simp] theorem Dev.countQ_cell (d : Dev) (num inst : Nat) : (d.countQ num inst).cell = d.cell := by simp [Dev.countQ, Dev.countN]
@[simp] theorem Dev.countQ_cal (d : Dev) (num inst : Nat) : (d.countQ num inst).cal = d.cal := by simp [Dev.countQ, Dev.countN]
@[simp] theorem Dev.countQ_cir (d : Dev) (num inst : Nat) : (d.countQ num inst).cir = d.cir := by simp [Dev.countQ, Dev.countN]
@[simp] theorem Dev.countQ_tilth (d : Dev) (num inst : Nat) : (d.countQ num inst).tilth = d.tilth := by simp [Dev.countQ, Dev.countN]
@[simp] theorem Dev.countQ_weft (d : Dev) (num inst : Nat) : (d.countQ num inst).weft = d.weft := by simp [Dev.countQ, Dev.countN]
@[simp] theorem Dev.countQ_slv (d : Dev) (num inst : Nat) : (d.countQ num inst).slv = d.slv := by simp [Dev.countQ, Dev.countN]
@[simp] theorem Dev.countQ_free (d : Dev) (num inst : Nat) : (d.countQ num inst).free = d.free := by simp [Dev.countQ, Dev.countN]
@[simp] theorem Dev.countQ_nv (d : Dev) (num inst : Nat) : (d.countQ num inst).nv = d.nv := by simp [Dev.countQ, Dev.countN]
@[simp] theorem Dev.countQ_marl (d : Dev) (num inst : Nat) : (d.countQ num inst).marl = d.marl := by simp [Dev.countQ, Dev.countN]
@[simp] theorem Dev.countQ_sched (d : Dev) (num inst : Nat) : (d.countQ num inst).sched = d.sched := by simp [Dev.countQ, Dev.countN]
@[simp] theorem Dev.countQ_boot (d : Dev) (num inst : Nat) : (d.countQ num inst).boot = d.boot := by simp [Dev.countQ, Dev.countN]
@[simp] theorem Dev.countQ_net (d : Dev) (num inst : Nat) : (d.countQ num inst).net = d.net := by simp [Dev.countQ, Dev.countN]
@[simp] theorem Dev.countQ_teth (d : Dev) (num inst : Nat) : (d.countQ num inst).teth = d.teth := by simp [Dev.countQ, Dev.countN]
@[simp] theorem Dev.countQ_pol (d : Dev) (num inst : Nat) : (d.countQ num inst).pol = d.pol := by simp [Dev.countQ, Dev.countN]
@[simp] theorem Dev.countQ_sieve (d : Dev) (num inst : Nat) : (d.countQ num inst).sieve = d.sieve := by simp [Dev.countQ, Dev.countN]
@[simp] theorem Dev.countQ_dac (d : Dev) (num inst : Nat) : (d.countQ num inst).dac = d.dac := by simp [Dev.countQ, Dev.countN]
@[simp] theorem Dev.countQ_therm (d : Dev) (num inst : Nat) : (d.countQ num inst).therm = d.therm := by simp [Dev.countQ, Dev.countN]
@[simp] theorem Dev.countQ_silt (d : Dev) (num inst : Nat) : (d.countQ num inst).silt = d.silt := by simp [Dev.countQ, Dev.countN]
@[simp] theorem Dev.countQ_sup (d : Dev) (num inst : Nat) : (d.countQ num inst).sup = d.sup := by simp [Dev.countQ, Dev.countN]
@[simp] theorem Dev.countQ_regs (d : Dev) (num inst : Nat) : (d.countQ num inst).regs = d.regs := by simp [Dev.countQ, Dev.countN]

@[simp] theorem Dev.count_mem (d : Dev) (num : Nat) : (d.count num).mem = d.mem := by simp [Dev.count]
@[simp] theorem Dev.count_time (d : Dev) (num : Nat) : (d.count num).time = d.time := by simp [Dev.count]
@[simp] theorem Dev.count_pick (d : Dev) (num : Nat) : (d.count num).pick = d.pick := by simp [Dev.count]
@[simp] theorem Dev.count_cheda (d : Dev) (num : Nat) : (d.count num).cheda = d.cheda := by simp [Dev.count]
@[simp] theorem Dev.count_reed (d : Dev) (num : Nat) : (d.count num).reed = d.reed := by simp [Dev.count]
@[simp] theorem Dev.count_loam (d : Dev) (num : Nat) : (d.count num).loam = d.loam := by simp [Dev.count]
@[simp] theorem Dev.count_draft (d : Dev) (num : Nat) : (d.count num).draft = d.draft := by simp [Dev.count]
@[simp] theorem Dev.count_loop (d : Dev) (num : Nat) : (d.count num).loop = d.loop := by simp [Dev.count]
@[simp] theorem Dev.count_trd (d : Dev) (num : Nat) : (d.count num).trd = d.trd := by simp [Dev.count]
@[simp] theorem Dev.count_cell (d : Dev) (num : Nat) : (d.count num).cell = d.cell := by simp [Dev.count]
@[simp] theorem Dev.count_cal (d : Dev) (num : Nat) : (d.count num).cal = d.cal := by simp [Dev.count]
@[simp] theorem Dev.count_cir (d : Dev) (num : Nat) : (d.count num).cir = d.cir := by simp [Dev.count]
@[simp] theorem Dev.count_tilth (d : Dev) (num : Nat) : (d.count num).tilth = d.tilth := by simp [Dev.count]
@[simp] theorem Dev.count_weft (d : Dev) (num : Nat) : (d.count num).weft = d.weft := by simp [Dev.count]
@[simp] theorem Dev.count_slv (d : Dev) (num : Nat) : (d.count num).slv = d.slv := by simp [Dev.count]
@[simp] theorem Dev.count_free (d : Dev) (num : Nat) : (d.count num).free = d.free := by simp [Dev.count]
@[simp] theorem Dev.count_nv (d : Dev) (num : Nat) : (d.count num).nv = d.nv := by simp [Dev.count]
@[simp] theorem Dev.count_marl (d : Dev) (num : Nat) : (d.count num).marl = d.marl := by simp [Dev.count]
@[simp] theorem Dev.count_sched (d : Dev) (num : Nat) : (d.count num).sched = d.sched := by simp [Dev.count]
@[simp] theorem Dev.count_boot (d : Dev) (num : Nat) : (d.count num).boot = d.boot := by simp [Dev.count]
@[simp] theorem Dev.count_net (d : Dev) (num : Nat) : (d.count num).net = d.net := by simp [Dev.count]
@[simp] theorem Dev.count_teth (d : Dev) (num : Nat) : (d.count num).teth = d.teth := by simp [Dev.count]
@[simp] theorem Dev.count_pol (d : Dev) (num : Nat) : (d.count num).pol = d.pol := by simp [Dev.count]
@[simp] theorem Dev.count_sieve (d : Dev) (num : Nat) : (d.count num).sieve = d.sieve := by simp [Dev.count]
@[simp] theorem Dev.count_dac (d : Dev) (num : Nat) : (d.count num).dac = d.dac := by simp [Dev.count]
@[simp] theorem Dev.count_therm (d : Dev) (num : Nat) : (d.count num).therm = d.therm := by simp [Dev.count]
@[simp] theorem Dev.count_silt (d : Dev) (num : Nat) : (d.count num).silt = d.silt := by simp [Dev.count]
@[simp] theorem Dev.count_sup (d : Dev) (num : Nat) : (d.count num).sup = d.sup := by simp [Dev.count]
@[simp] theorem Dev.count_regs (d : Dev) (num : Nat) : (d.count num).regs = d.regs := by simp [Dev.count]

@[simp] theorem Dev.count_rd (d : Dev) (num : Nat) (f : Fld) : (d.count num).rd f = d.rd f := Dev.rd_of_mem _ _ _ (by simp)
@[simp] theorem Dev.countQ_rd (d : Dev) (num inst : Nat) (f : Fld) : (d.countQ num inst).rd f = d.rd f := Dev.rd_of_mem _ _ _ (by simp)

theorem Dev.signal_keeps {β : Type} (g : Dev → β) (hp : ∀ (d : Dev) p, g { d with perf := p } = g d)
    (hr : ∀ (d : Dev) b x o w, g (d.raise b x o w) = g d) (d : Dev) (sig : Nat) (high : Bool) : g (d.signal sig high) = g d := by
  unfold Dev.signal
  dsimp only
  by_cases h : d.perf.high.contains sig = high
  · rw [if_pos h]
  · rw [if_neg h]
    exact (hp _ _).trans (Dev.addCtrs_keeps g hp hr _ _ _)

@[simp] theorem Dev.signal_mem (d : Dev) (sig : Nat) (high : Bool) : (d.signal sig high).mem = d.mem :=
  Dev.signal_keeps (fun d => d.mem) (fun _ _ => rfl) (fun _ _ _ _ _ => rfl) d sig high
@[simp] theorem Dev.signal_time (d : Dev) (sig : Nat) (high : Bool) : (d.signal sig high).time = d.time :=
  Dev.signal_keeps (fun d => d.time) (fun _ _ => rfl) (fun _ _ _ _ _ => rfl) d sig high
@[simp] theorem Dev.signal_pick (d : Dev) (sig : Nat) (high : Bool) : (d.signal sig high).pick = d.pick :=
  Dev.signal_keeps (fun d => d.pick) (fun _ _ => rfl) (fun _ _ _ _ _ => rfl) d sig high
@[simp] theorem Dev.signal_cheda (d : Dev) (sig : Nat) (high : Bool) : (d.signal sig high).cheda = d.cheda :=
  Dev.signal_keeps (fun d => d.cheda) (fun _ _ => rfl) (fun _ _ _ _ _ => rfl) d sig high
@[simp] theorem Dev.signal_reed (d : Dev) (sig : Nat) (high : Bool) : (d.signal sig high).reed = d.reed :=
  Dev.signal_keeps (fun d => d.reed) (fun _ _ => rfl) (fun _ _ _ _ _ => rfl) d sig high
@[simp] theorem Dev.signal_loam (d : Dev) (sig : Nat) (high : Bool) : (d.signal sig high).loam = d.loam :=
  Dev.signal_keeps (fun d => d.loam) (fun _ _ => rfl) (fun _ _ _ _ _ => rfl) d sig high
@[simp] theorem Dev.signal_draft (d : Dev) (sig : Nat) (high : Bool) : (d.signal sig high).draft = d.draft :=
  Dev.signal_keeps (fun d => d.draft) (fun _ _ => rfl) (fun _ _ _ _ _ => rfl) d sig high
@[simp] theorem Dev.signal_loop (d : Dev) (sig : Nat) (high : Bool) : (d.signal sig high).loop = d.loop :=
  Dev.signal_keeps (fun d => d.loop) (fun _ _ => rfl) (fun _ _ _ _ _ => rfl) d sig high
@[simp] theorem Dev.signal_trd (d : Dev) (sig : Nat) (high : Bool) : (d.signal sig high).trd = d.trd :=
  Dev.signal_keeps (fun d => d.trd) (fun _ _ => rfl) (fun _ _ _ _ _ => rfl) d sig high
@[simp] theorem Dev.signal_cell (d : Dev) (sig : Nat) (high : Bool) : (d.signal sig high).cell = d.cell :=
  Dev.signal_keeps (fun d => d.cell) (fun _ _ => rfl) (fun _ _ _ _ _ => rfl) d sig high
@[simp] theorem Dev.signal_cal (d : Dev) (sig : Nat) (high : Bool) : (d.signal sig high).cal = d.cal :=
  Dev.signal_keeps (fun d => d.cal) (fun _ _ => rfl) (fun _ _ _ _ _ => rfl) d sig high
@[simp] theorem Dev.signal_cir (d : Dev) (sig : Nat) (high : Bool) : (d.signal sig high).cir = d.cir :=
  Dev.signal_keeps (fun d => d.cir) (fun _ _ => rfl) (fun _ _ _ _ _ => rfl) d sig high
@[simp] theorem Dev.signal_tilth (d : Dev) (sig : Nat) (high : Bool) : (d.signal sig high).tilth = d.tilth :=
  Dev.signal_keeps (fun d => d.tilth) (fun _ _ => rfl) (fun _ _ _ _ _ => rfl) d sig high
@[simp] theorem Dev.signal_weft (d : Dev) (sig : Nat) (high : Bool) : (d.signal sig high).weft = d.weft :=
  Dev.signal_keeps (fun d => d.weft) (fun _ _ => rfl) (fun _ _ _ _ _ => rfl) d sig high
@[simp] theorem Dev.signal_slv (d : Dev) (sig : Nat) (high : Bool) : (d.signal sig high).slv = d.slv :=
  Dev.signal_keeps (fun d => d.slv) (fun _ _ => rfl) (fun _ _ _ _ _ => rfl) d sig high
@[simp] theorem Dev.signal_free (d : Dev) (sig : Nat) (high : Bool) : (d.signal sig high).free = d.free :=
  Dev.signal_keeps (fun d => d.free) (fun _ _ => rfl) (fun _ _ _ _ _ => rfl) d sig high
@[simp] theorem Dev.signal_nv (d : Dev) (sig : Nat) (high : Bool) : (d.signal sig high).nv = d.nv :=
  Dev.signal_keeps (fun d => d.nv) (fun _ _ => rfl) (fun _ _ _ _ _ => rfl) d sig high
@[simp] theorem Dev.signal_marl (d : Dev) (sig : Nat) (high : Bool) : (d.signal sig high).marl = d.marl :=
  Dev.signal_keeps (fun d => d.marl) (fun _ _ => rfl) (fun _ _ _ _ _ => rfl) d sig high
@[simp] theorem Dev.signal_sched (d : Dev) (sig : Nat) (high : Bool) : (d.signal sig high).sched = d.sched :=
  Dev.signal_keeps (fun d => d.sched) (fun _ _ => rfl) (fun _ _ _ _ _ => rfl) d sig high
@[simp] theorem Dev.signal_boot (d : Dev) (sig : Nat) (high : Bool) : (d.signal sig high).boot = d.boot :=
  Dev.signal_keeps (fun d => d.boot) (fun _ _ => rfl) (fun _ _ _ _ _ => rfl) d sig high
@[simp] theorem Dev.signal_net (d : Dev) (sig : Nat) (high : Bool) : (d.signal sig high).net = d.net :=
  Dev.signal_keeps (fun d => d.net) (fun _ _ => rfl) (fun _ _ _ _ _ => rfl) d sig high
@[simp] theorem Dev.signal_teth (d : Dev) (sig : Nat) (high : Bool) : (d.signal sig high).teth = d.teth :=
  Dev.signal_keeps (fun d => d.teth) (fun _ _ => rfl) (fun _ _ _ _ _ => rfl) d sig high
@[simp] theorem Dev.signal_pol (d : Dev) (sig : Nat) (high : Bool) : (d.signal sig high).pol = d.pol :=
  Dev.signal_keeps (fun d => d.pol) (fun _ _ => rfl) (fun _ _ _ _ _ => rfl) d sig high
@[simp] theorem Dev.signal_sieve (d : Dev) (sig : Nat) (high : Bool) : (d.signal sig high).sieve = d.sieve :=
  Dev.signal_keeps (fun d => d.sieve) (fun _ _ => rfl) (fun _ _ _ _ _ => rfl) d sig high
@[simp] theorem Dev.signal_dac (d : Dev) (sig : Nat) (high : Bool) : (d.signal sig high).dac = d.dac :=
  Dev.signal_keeps (fun d => d.dac) (fun _ _ => rfl) (fun _ _ _ _ _ => rfl) d sig high
@[simp] theorem Dev.signal_therm (d : Dev) (sig : Nat) (high : Bool) : (d.signal sig high).therm = d.therm :=
  Dev.signal_keeps (fun d => d.therm) (fun _ _ => rfl) (fun _ _ _ _ _ => rfl) d sig high
@[simp] theorem Dev.signal_silt (d : Dev) (sig : Nat) (high : Bool) : (d.signal sig high).silt = d.silt :=
  Dev.signal_keeps (fun d => d.silt) (fun _ _ => rfl) (fun _ _ _ _ _ => rfl) d sig high
@[simp] theorem Dev.signal_sup (d : Dev) (sig : Nat) (high : Bool) : (d.signal sig high).sup = d.sup :=
  Dev.signal_keeps (fun d => d.sup) (fun _ _ => rfl) (fun _ _ _ _ _ => rfl) d sig high
@[simp] theorem Dev.signal_regs (d : Dev) (sig : Nat) (high : Bool) : (d.signal sig high).regs = d.regs :=
  Dev.signal_keeps (fun d => d.regs) (fun _ _ => rfl) (fun _ _ _ _ _ => rfl) d sig high
@[simp] theorem Dev.advance_mem (d : Dev) (tb : Nat) : (d.advance tb).mem = d.mem := by
  unfold Dev.advance Dev.clockCount; split <;> simp
@[simp] theorem Dev.advance_pick (d : Dev) (tb : Nat) : (d.advance tb).pick = d.pick := by
  unfold Dev.advance Dev.clockCount; split <;> simp
@[simp] theorem Dev.advance_cheda (d : Dev) (tb : Nat) : (d.advance tb).cheda = d.cheda := by
  unfold Dev.advance Dev.clockCount; split <;> simp
@[simp] theorem Dev.advance_reed (d : Dev) (tb : Nat) : (d.advance tb).reed = d.reed := by
  unfold Dev.advance Dev.clockCount; split <;> simp
@[simp] theorem Dev.advance_loam (d : Dev) (tb : Nat) : (d.advance tb).loam = d.loam := by
  unfold Dev.advance Dev.clockCount; split <;> simp
@[simp] theorem Dev.advance_draft (d : Dev) (tb : Nat) : (d.advance tb).draft = d.draft := by
  unfold Dev.advance Dev.clockCount; split <;> simp
@[simp] theorem Dev.advance_loop (d : Dev) (tb : Nat) : (d.advance tb).loop = d.loop := by
  unfold Dev.advance Dev.clockCount; split <;> simp
@[simp] theorem Dev.advance_trd (d : Dev) (tb : Nat) : (d.advance tb).trd = d.trd := by
  unfold Dev.advance Dev.clockCount; split <;> simp
@[simp] theorem Dev.advance_cell (d : Dev) (tb : Nat) : (d.advance tb).cell = d.cell := by
  unfold Dev.advance Dev.clockCount; split <;> simp
@[simp] theorem Dev.advance_cal (d : Dev) (tb : Nat) : (d.advance tb).cal = d.cal := by
  unfold Dev.advance Dev.clockCount; split <;> simp
@[simp] theorem Dev.advance_cir (d : Dev) (tb : Nat) : (d.advance tb).cir = d.cir := by
  unfold Dev.advance Dev.clockCount; split <;> simp
@[simp] theorem Dev.advance_tilth (d : Dev) (tb : Nat) : (d.advance tb).tilth = d.tilth := by
  unfold Dev.advance Dev.clockCount; split <;> simp
@[simp] theorem Dev.advance_weft (d : Dev) (tb : Nat) : (d.advance tb).weft = d.weft := by
  unfold Dev.advance Dev.clockCount; split <;> simp
@[simp] theorem Dev.advance_slv (d : Dev) (tb : Nat) : (d.advance tb).slv = d.slv := by
  unfold Dev.advance Dev.clockCount; split <;> simp
@[simp] theorem Dev.advance_free (d : Dev) (tb : Nat) : (d.advance tb).free = d.free := by
  unfold Dev.advance Dev.clockCount; split <;> simp
@[simp] theorem Dev.advance_nv (d : Dev) (tb : Nat) : (d.advance tb).nv = d.nv := by
  unfold Dev.advance Dev.clockCount; split <;> simp
@[simp] theorem Dev.advance_marl (d : Dev) (tb : Nat) : (d.advance tb).marl = d.marl := by
  unfold Dev.advance Dev.clockCount; split <;> simp
@[simp] theorem Dev.advance_sched (d : Dev) (tb : Nat) : (d.advance tb).sched = d.sched := by
  unfold Dev.advance Dev.clockCount; split <;> simp
@[simp] theorem Dev.advance_boot (d : Dev) (tb : Nat) : (d.advance tb).boot = d.boot := by
  unfold Dev.advance Dev.clockCount; split <;> simp
@[simp] theorem Dev.advance_net (d : Dev) (tb : Nat) : (d.advance tb).net = d.net := by
  unfold Dev.advance Dev.clockCount; split <;> simp
@[simp] theorem Dev.advance_teth (d : Dev) (tb : Nat) : (d.advance tb).teth = d.teth := by
  unfold Dev.advance Dev.clockCount; split <;> simp
@[simp] theorem Dev.advance_pol (d : Dev) (tb : Nat) : (d.advance tb).pol = d.pol := by
  unfold Dev.advance Dev.clockCount; split <;> simp
@[simp] theorem Dev.advance_sieve (d : Dev) (tb : Nat) : (d.advance tb).sieve = d.sieve := by
  unfold Dev.advance Dev.clockCount; split <;> simp
@[simp] theorem Dev.advance_dac (d : Dev) (tb : Nat) : (d.advance tb).dac = d.dac := by
  unfold Dev.advance Dev.clockCount; split <;> simp
@[simp] theorem Dev.advance_therm (d : Dev) (tb : Nat) : (d.advance tb).therm = d.therm := by
  unfold Dev.advance Dev.clockCount; split <;> simp
@[simp] theorem Dev.advance_silt (d : Dev) (tb : Nat) : (d.advance tb).silt = d.silt := by
  unfold Dev.advance Dev.clockCount; split <;> simp
@[simp] theorem Dev.advance_sup (d : Dev) (tb : Nat) : (d.advance tb).sup = d.sup := by
  unfold Dev.advance Dev.clockCount; split <;> simp
@[simp] theorem Dev.advance_regs (d : Dev) (tb : Nat) : (d.advance tb).regs = d.regs := by
  unfold Dev.advance Dev.clockCount; split <;> simp

/-- The timebase never runs back. -/
theorem Dev.advance_tb (d : Dev) (tb : Nat) : (d.advance tb).time.tb = max d.time.tb tb := by
  unfold Dev.advance Dev.clockCount; split
  · omega
  · show tb = max d.time.tb tb
    omega
@[simp] theorem Dev.advance_rd (d : Dev) (tb : Nat) (f : Fld) : (d.advance tb).rd f = d.rd f := Dev.rd_of_mem _ _ _ (by simp)

/-! ## The mirror carries nothing where there is nothing to carry -/

@[simp] theorem Dev.mirrorConfig_nil (d : Dev) (i : Option Nat) : d.mirrorConfig [] i = d := by simp [Dev.mirrorConfig]

end Sys2Proof.Machine
end

