-- ==== Sys2Proof/Laws/Items.lean ====
section
/-! SUPPORT. How the row of an item comes to the meaning of its opcode, and how an item ends. -/

namespace Sys2Proof.Machine
open Sys2Proof

/-- An item that reaches its checks is judged by its opcode. -/
theorem Dev.itemRow_reaches (d : Dev) (src : ItemSrc) (ss : Session) (op : Nat) (par : List Byte)
    (h : d.itemReaches src ss op par = true) :
    d.itemRow src op par = (Dev.settleItem (d.begun src op ss) (d.itemOf src ss par)
      ((d.begun src op ss).judgeItem (d.itemOf src ss par) op)).replyAdd src.slot src.seq (d.itemOf src ss par).item := by
  simp only [Dev.itemReaches, Bool.and_eq_true, decide_eq_true_eq] at h
  obtain ⟨⟨⟨⟨⟨⟨⟨⟨h1, h2⟩, h3⟩, h4⟩, h5⟩, _⟩, _⟩, _⟩, _⟩ := h
  have h2' : src.slot ≠ 0 := by simpa using h2
  have h4' : ss.opening = false := by simpa using h4
  unfold Dev.itemRow
  simp only [h1, h2', h3, h4', Bool.not_true, Bool.false_eq_true, if_false]
  simp only [Dev.entry] at h5
  simp only [Dev.begun, Dev.itemOf, Dev.entry, Dev.takeItem]
  split at h5 <;> rename_i hj
  · simp only [hj, if_true]; rfl
  · simp only [hj, Bool.false_eq_true, if_false, h5, if_true]; rfl

/-- What judging comes to for an item that reaches its checks. -/
theorem Dev.judge_reaches (d : Dev) (src : ItemSrc) (ss : Session) (op : Nat) (par : List Byte)
    (h : d.itemReaches src ss op par = true) :
    (d.begun src op ss).judgeItem (d.itemOf src ss par) op =
      match (d.begun src op ss).ownTxn src.slot with
      | some t => if stageable.contains op then (d.begun src op ss).stageItem (d.itemOf src ss par) op t
                  else if runsInTxn.contains op then (d.begun src op ss).runItem (d.itemOf src ss par) op
                  else (d.begun src op ss).ends St.notInSet
      | none => (d.begun src op ss).runItem (d.itemOf src ss par) op := by
  simp only [Dev.itemReaches, Bool.and_eq_true, decide_eq_true_eq] at h
  obtain ⟨⟨⟨⟨⟨_, _⟩, h6⟩, h7⟩, h8⟩, h9⟩ := h
  obtain ⟨p, hp, hp'⟩ : ∃ p, AMap.find opcodes op = some p ∧ p ≤ ss.priv := by
    cases hf : AMap.find opcodes op with
    | none => simp [hf] at h7
    | some p => exact ⟨p, rfl, by simpa [hf] using h7⟩
  unfold Dev.judgeItem
  simp only [hp]
  have hx : (d.itemOf src ss par).par = par := rfl
  have hq : (d.itemOf src ss par).priv = ss.priv := rfl
  have hc : (d.itemOf src ss par).ctrRead = ss.ctrRead := rfl
  have hs : (d.itemOf src ss par).slot = src.slot := rfl
  have h9' : ((d.begun src op ss).flag F.BOOT_STAT.RECOVERY && !recoveryOps.contains op) = false := by
    cases hr : (d.begun src op ss).flag F.BOOT_STAT.RECOVERY <;> simp [hr] at h9 ⊢
    exact h9
  have hl : ¬ ss.priv < p := by omega
  have h8' : ((op = 0x0700 || op = 0x0701) && ss.priv = 0 && !ss.ctrRead) = false := by
    cases hh : ss.ctrRead <;> simp_all <;> omega
  simp only [hx, hq, hc, hs, h6, h9', Bool.not_true, Bool.false_eq_true, if_false]
  have hlt : decide (ss.priv < p) = false := by simpa using hl
  rw [hlt, Bool.false_or, h8']
  simp only [Bool.false_eq_true, if_false]
  all_goals (cases (d.begun src op ss).ownTxn src.slot <;> rfl)

/-- An item that is run at once comes to the meaning of its opcode. -/
theorem Dev.itemRow_runs (d : Dev) (src : ItemSrc) (ss : Session) (op : Nat) (par : List Byte) (h : d.itemRuns src ss op par = true) :
    d.itemRow src op par = (Dev.settleItem (d.begun src op ss) (d.itemOf src ss par)
      ((d.begun src op ss).runItem (d.itemOf src ss par) op)).replyAdd src.slot src.seq (d.itemOf src ss par).item := by
  simp only [Dev.itemRuns, Bool.and_eq_true] at h
  rw [d.itemRow_reaches src ss op par h.1, d.judge_reaches src ss op par h.1]
  cases ht : (d.begun src op ss).ownTxn src.slot with
  | none => rfl
  | some t =>
    have h2 := h.2
    simp only [ht, Option.all_some, Bool.and_eq_true, Bool.not_eq_true'] at h2
    simp only [h2.1, h2.2, Bool.false_eq_true, if_false, if_true]

/-- An item that its transaction stages. -/
theorem Dev.itemRow_stages (d : Dev) (src : ItemSrc) (ss : Session) (op : Nat) (par : List Byte) (t : Txn)
    (h : d.itemReaches src ss op par = true) (ht : (d.begun src op ss).ownTxn src.slot = some t) (hs : stageable.contains op = true)
    (hst : (d.begun src op ss).stageStatus (d.itemOf src ss par) op = St.ok) (hn : t.staged.length < 2048)
    (hb : (t.staged.map (fun (g : Staged) => g.par.length)).sum + par.length ≤ 524288) :
    d.itemRow src op par =
      ((d.begun src op ss).stagedIn (d.itemOf src ss par) op t).replyAdd src.slot src.seq (d.itemOf src ss par).item := by
  have hp : (d.itemOf src ss par).par = par := rfl
  rw [d.itemRow_reaches src ss op par h, d.judge_reaches src ss op par h]
  simp only [ht, hs, if_true, Dev.stageItem, hst, hp, ne_eq, not_true, if_false]
  have h1 : (decide (2048 ≤ t.staged.length) || decide (524288 < (t.staged.map (fun (g : Staged) => g.par.length)).sum + par.length)) = false := by
    simp; omega
  rw [h1]
  rfl

/-- A status that ends the item, with a result that fits its reply. -/
theorem Dev.settle_ends (b d : Dev) (x : ItemIn) (st : Nat) (res : List Byte) (h : st ≠ St.pending) (hf : b.fits x res = true) :
    Dev.settleItem b x (d, st, res) = d.finish x.item st res := by
  have h1 : ¬ (b.roomOf x.src.addr 2 - 12 - (if x.slot = 0 then 0 else 16) < (entryBytes 0 0 0 res).length) := by
    have := of_decide_eq_true hf; omega
  unfold Dev.settleItem
  simp only [h, if_false]
  rw [if_neg h1]

/-- PENDING: the item goes on. -/
theorem Dev.settle_pending (b d : Dev) (x : ItemIn) (res : List Byte) : Dev.settleItem b x (d, St.pending, res) = d := by
  simp [Dev.settleItem]

end Sys2Proof.Machine
end

