-- ==== Sys2Proof/Laws/Regs.lean ====
section
/-! SUPPORT. A register command at its register: the row of its address, what it comes to when taken and when refused. -/

namespace Sys2Proof.Machine
open Sys2Proof

/-- The row of an address: the first register of its array and its indices. -/
def rowAt (a : Nat) : Option (Nat × List Nat) :=
  match regAt a with
  | some (.row base idx _) => some (base, idx)
  | _ => none

theorem regAt_of_rowAt {a base : Nat} {idx : List Nat} (h : rowAt a = some (base, idx)) :
    ∃ fields, regAt a = some (.row base idx fields) := by
  unfold rowAt at h
  split at h
  · cases h; exact ⟨_, by assumption⟩
  · cases h

/-- A write of a register that no rule of the pair owns. -/
theorem Dev.regCommand_plain (d e : Dev) (a v base : Nat) (idx : List Nat) (h : rowAt a = some (base, idx))
    (hp : d.pairOwned base idx = false) (hq : e.pairOwned base idx = false)
    (hw : ∀ fields, d.rowWrite a base idx fields v = (e, St.ok)) : d.regCommand a v = e := by
  obtain ⟨fs, hf⟩ := regAt_of_rowAt h
  have h1 : d.regWrite a v = (e, St.ok) := by simp [Dev.regWrite, hf, hp, hw]
  have h2 : d.regMirrored a = false := by simp [Dev.regMirrored, hf, hp]
  have h3 : e.regMirrored a = false := by simp [Dev.regMirrored, hf, hq]
  simp [Dev.regCommand, Dev.regWrites, h1, h2, h3, Dev.regRecs, Dev.mirrorConfig]

/-- A write of a register that the pair owns, on the unit in pair role ACTIVE: it travels to the peer. -/
theorem Dev.regCommand_mirrored (d e : Dev) (a v base : Nat) (idx : List Nat) (h : rowAt a = some (base, idx))
    (hp : d.pairOwned base idx = true) (hb : base ≠ R.CAL_CTRL) (ha : d.isActive = true)
    (hw : ∀ fields, d.rowWrite a base idx fields v = (e, St.ok)) :
    d.regCommand a v = e.mirrorConfig [(a, MirBody.reg (e.mirVal a))] none := by
  obtain ⟨fs, hf⟩ := regAt_of_rowAt h
  have h1 : d.regWrite a v = (e, St.ok) := by simp [Dev.regWrite, hf, ha, hw]
  have h2 : d.regMirrored a = true := by simp [Dev.regMirrored, hf, hp, hb]
  simp [Dev.regCommand, Dev.regWrites, h1, h2, Dev.regRecs]

/-- CAL_CTRL belongs to the active unit and travels nowhere. -/
theorem Dev.regCommand_cal (d e : Dev) (v : Nat) (h : rowAt R.CAL_CTRL = some (R.CAL_CTRL, []))
    (ha : d.isActive = true) (hw : ∀ fields, d.rowWrite R.CAL_CTRL R.CAL_CTRL [] fields v = (e, St.ok)) : d.regCommand R.CAL_CTRL v = e := by
  obtain ⟨fs, hf⟩ := regAt_of_rowAt h
  have h1 : d.regWrite R.CAL_CTRL v = (e, St.ok) := by simp [Dev.regWrite, hf, ha, hw]
  have h2 : ∀ x : Dev, x.regMirrored R.CAL_CTRL = false := fun x => by simp [Dev.regMirrored, hf]
  simp [Dev.regCommand, Dev.regWrites, h1, h2, Dev.regRecs, Dev.mirrorConfig]

/-- A write refused by the register, or by the role, has no effect but its report. -/
theorem Dev.regCommand_refused (d : Dev) (a v : Nat) (hr : (d.regWrite a v).2 ≠ St.ok) :
    d.regCommand a v = d.regRejected a v (d.regWrite a v).2 := by
  simp [Dev.regCommand, Dev.regWrites, hr]

/-- An address with no report of its own. -/
theorem Dev.regRejected_none (d : Dev) (a v st : Nat) (h1 : ¬ (0x20400 ≤ a ∧ a < 0x20500)) (h2 : a ≠ R.SV_INJ 0) (h3 : a ≠ R.SV_INJ 1)
    (h4 : ¬ (0x270400 ≤ a ∧ a < 0x270500)) : d.regRejected a v st = d := by
  have g1 : (decide (0x20400 ≤ a) && decide (a < 0x20500)) = false := by simpa using h1
  have g4 : (decide (st = St.valueInvalid) && decide (0x270400 ≤ a) && decide (a < 0x270500)) = false := by
    simpa [Bool.and_assoc] using fun _ => by simpa using h4
  simp [Dev.regRejected, g1, g4, h2, h3]

theorem Dev.regWrite_standby (d : Dev) (a v base : Nat) (idx : List Nat) (h : rowAt a = some (base, idx))
    (hp : d.pairOwned base idx = true) (ha : d.isActive = false) : d.regWrite a v = (d, St.roleStandby) := by
  obtain ⟨fs, hf⟩ := regAt_of_rowAt h
  simp [Dev.regWrite, hf, hp, ha]

theorem Dev.regWrite_row (d : Dev) (a v base : Nat) (idx : List Nat) (r : Dev × Nat) (h : rowAt a = some (base, idx))
    (hp : (d.pairOwned base idx && !d.isActive) = false) (hw : ∀ fields, d.rowWrite a base idx fields v = r) : d.regWrite a v = r := by
  obtain ⟨fs, hf⟩ := regAt_of_rowAt h
  simp only [Dev.regWrite, hf, hp, Bool.false_eq_true, if_false, hw]

/-! ## The rows of the registers that commands name -/

theorem rowAt_START_CTRL : rowAt R.START_CTRL = some (R.START_CTRL, []) := by decide
theorem rowAt_CAL_CTRL : rowAt R.CAL_CTRL = some (R.CAL_CTRL, []) := by decide
theorem rowAt_TRD_CTRL : rowAt R.TRD_CTRL = some (R.TRD_CTRL, []) := by decide
theorem rowAt_PICK_CFG : rowAt R.PICK_CFG = some (R.PICK_CFG, []) := by decide
theorem rowAt_PICK_NUM_LO : rowAt R.PICK_NUM_LO = some (R.PICK_NUM_LO, []) := by decide
theorem rowAt_DRAFT_CTRL : rowAt R.DRAFT_CTRL = some (R.DRAFT_CTRL, []) := by decide
theorem rowAt_DAC_STROBE : rowAt R.DAC_STROBE = some (R.DAC_STROBE, []) := by decide
theorem rowAt_THERM_RETIRE : rowAt R.THERM_RETIRE = some (R.THERM_RETIRE, []) := by decide
theorem rowAt_SILT_CTRL : rowAt R.SILT_CTRL = some (R.SILT_CTRL, []) := by decide
theorem rowAt_TIME_CFG : rowAt R.TIME_CFG = some (R.TIME_CFG, []) := by decide
theorem rowAt_TB_NS_LO : rowAt R.TB_NS_LO = some (R.TB_NS_LO, []) := by decide
theorem rowAt_WEFT_CTRL : ∀ i < 16, rowAt (R.WEFT_CTRL i) = some (R.WEFT_CTRL 0, [i]) := by decide
theorem rowAt_TRK_CFG : ∀ i < 4, rowAt (R.TRK_CFG i) = some (R.TRK_CFG 0, [i]) := by decide
theorem rowAt_TRK_BASE_HI : ∀ i < 4, rowAt (R.TRK_BASE_HI i) = some (R.TRK_BASE_HI 0, [i]) := by decide
theorem rowAt_SV_CTRL : ∀ i < 2, rowAt (R.SV_CTRL i) = some (R.SV_CTRL 0, [i]) := by decide
theorem rowAt_SV_SCAN_LEN : ∀ i < 2, rowAt (R.SV_SCAN_LEN i) = some (R.SV_SCAN_LEN 0, [i]) := by decide
theorem rowAt_SV_INJ : ∀ i < 2, rowAt (R.SV_INJ i) = some (R.SV_INJ 0, [i]) := by decide
theorem rowAt_DAC_CODE : ∀ i < 48, rowAt (R.DAC_CODE i) = some (R.DAC_CODE 0, [i]) := by decide
theorem rowAt_DAC_CH_CFG : ∀ i < 48, rowAt (R.DAC_CH_CFG i) = some (R.DAC_CH_CFG 0, [i]) := by decide
theorem rowAt_SINE_CFG : ∀ i < 16, rowAt (R.SINE_CFG i) = some (R.SINE_CFG 0, [i]) := by decide
theorem rowAt_SINE_FTW : ∀ i < 16, rowAt (R.SINE_FTW i) = some (R.SINE_FTW 0, [i]) := by decide
theorem rowAt_SINE_AMP : ∀ i < 16, rowAt (R.SINE_AMP i) = some (R.SINE_AMP 0, [i]) := by decide
theorem rowAt_SINE_PHASE0 : ∀ i < 16, rowAt (R.SINE_PHASE0 i) = some (R.SINE_PHASE0 0, [i]) := by decide
theorem rowAt_TEC_CFG : ∀ i < 16, rowAt (R.TEC_CFG i) = some (R.TEC_CFG 0, [i]) := by decide
theorem rowAt_RULE_CTL : ∀ i < 32, rowAt (R.RULE_CTL i) = some (R.RULE_CTL 0, [i]) := by decide
theorem rowAt_PULSE_CFG : ∀ i < 4, rowAt (R.PULSE_CFG i) = some (R.PULSE_CFG 0, [i]) := by decide
theorem rowAt_PULSE_START_HI : ∀ i < 4, rowAt (R.PULSE_START_HI i) = some (R.PULSE_START_HI 0, [i]) := by decide
theorem rowAt_EV_INJECT : ∀ i < 45, rowAt (R.EV_INJECT i) = some (R.EV_INJECT 0, [i]) := by decide
theorem rowAt_EV_STATUS : ∀ i < 45, rowAt (R.EV_STATUS i) = some (R.EV_STATUS 0, [i]) := by decide
theorem rowAt_EV_INJ_STATUS : ∀ i < 45, rowAt (R.EV_INJ_STATUS i) = some (R.EV_INJ_STATUS 0, [i]) := by decide
theorem rowAt_EV_FIRST : ∀ i < 45, rowAt (R.EV_FIRST i) = some (R.EV_FIRST 0, [i]) := by decide
theorem rowAt_EV_CTRL : ∀ i < 45, rowAt (R.EV_CTRL i) = some (R.EV_CTRL 0, [i]) := by decide
theorem rowAt_PERF_SEL : ∀ i < 64, rowAt (R.PERF_SEL i) = some (R.PERF_SEL 0, [i]) := by decide
theorem rowAt_PERF_CNT_LO : ∀ i < 64, rowAt (R.PERF_CNT_LO i) = some (R.PERF_CNT_LO 0, [i]) := by decide
theorem rowAt_PERF_CNT_HI : ∀ i < 64, rowAt (R.PERF_CNT_HI i) = some (R.PERF_CNT_HI 0, [i]) := by decide
theorem rowAt_HISTO_CFG : ∀ i < 35, rowAt (R.HISTO_CFG i) = some (R.HISTO_CFG 0, [i]) := by decide
theorem rowAt_REED_WIN_BASE : ∀ i < 16, rowAt (R.REED_WIN_BASE i) = some (R.REED_WIN_BASE 0, [i]) := by decide
theorem rowAt_REED_WIN_CTL : ∀ i < 16, rowAt (R.REED_WIN_CTL i) = some (R.REED_WIN_CTL 0, [i]) := by decide
theorem rowAt_SV_SCAN : ∀ k < 2, ∀ i < 16, rowAt (R.SV_SCAN k i) = some (R.SV_SCAN 0 0, [k, i]) := by decide
theorem rowAt_SV_DWELL : ∀ k < 2, ∀ i < 16, rowAt (R.SV_DWELL k i) = some (R.SV_DWELL 0 0, [k, i]) := by decide

end Sys2Proof.Machine
end

