-- ==== Sys2Proof/Tests/Slice0.lean ====
section
/-! SUPPORT. Tests: for the premises of every statement a state and operands that meet them, ill-formed terms that WellFormed refuses,
words of the spec's own layouts. -/

-- one theorem at a time: the kernel evaluates each, and many at once would take many threads
set_option Elab.async false

open Sys2Proof Sys2Proof.Machine

/-- The reset state with the device changed. -/
def atDev (f : Dev → Dev) : State := { pending := [], dev := f State.reset.dev }

/-- The device of reset as the unit in pair role ACTIVE. -/
def active : Dev := State.reset.dev.wr F.SLV_STAT.ROLE Pr.active

/-- The device of reset as the unit in pair role STANDBY. -/
def standby : Dev := State.reset.dev.wr F.SLV_STAT.ROLE Pr.standby

/-- The active unit with its pick running: boundary 0 lies at TB 0, the next one after it. -/
def running : Dev := { active with pick := { active.pick with started := true } }

/-- A state of a device. -/
def ofDev (d : Dev) : State := { pending := [], dev := d }

/-- A pick whose next boundary lies far ahead, so that a timer's instant comes before it. -/
def farPick : PickS := { started := true, chgTb := 10 ^ 15 }

/-- The active unit with its next boundary far ahead. -/
def calm : Dev := { active with pick := farPick }

/-! ## Holds, resets, registers -/

/-- A tripped device with a command that waits; a shut-down that holds the blocks, one that stops the fabric. -/
theorem test_hold_premises :
    ((atDev (fun d => d.withTrip true)).dev.therm.trip = true ∧ actsTripped (.go 1) = false ∧
      ∀ c ∈ ({ pending := [.go 1], dev := State.reset.dev.withTrip true } : State).pending, actsTripped c = false) ∧
    ((atDev (fun d => { d with therm := { d.therm with shut := 3 } })).dev.therm.shut = 3 ∧ actsShut (.go 1) = false ∧
      ∀ c ∈ ({ pending := [.go 1, .failover], dev := { State.reset.dev with therm := { shut := 3 } } } : State).pending,
        actsShut c = false) ∧
    (2 ≤ (atDev (fun d => { d with therm := { d.therm with shut := 2 } })).dev.therm.shut ∧ fabricCommand (.loopStep 65535) = true) := by
  decide

/-- The queue empty; a step while tripped answers a next state. -/
theorem test_queue_premises : State.reset.pending = [] ∧ ∃ s' : State,
    step { pending := [.go 1], dev := State.reset.dev.withTrip true } = .next s' := ⟨rfl, _, rfl⟩

/-- Resets with their premises: samples that agree, a rail not yet seen low, a tripped and an untripped comparator. -/
theorem test_reset_premises :
    State.reset.coreRuns = true ∧ [3, 7].getLast? = some 7 ∧ (∀ y ∈ [3, 7], y % 4 = 7 % 4) ∧ 11 < 12 ∧
    State.reset.dev.sup.low.contains 11 = false ∧ (atDev (fun d => d.withTrip true)).dev.therm.trip = true ∧
    State.reset.dev.therm.trip = false := by decide

/-- A word with a field of each kind (REED_WIN_CTL's kind and a W1C of a counter). -/
theorem test_word_premises :
    let fs : List FRow := [{ lo := 0, width := 6, acc := .rw, rst := 0, marl := none }, { lo := 31, width := 1, acc := .w1c, rst := 0, marl := none },
      { lo := 8, width := 1, acc := .ro, rst := 0, marl := none }]
    (fs.map FRow.lo).Nodup ∧ (∀ f ∈ fs, f.lo < 32) ∧ (∃ f ∈ fs, f.acc = .rw) ∧ (∃ f ∈ fs, f.acc = .w1c) ∧
    (∀ f ∈ fs, 8 = 0 * 32 + f.lo → f.acc ≠ .rw ∧ f.acc ≠ .w1c) ∧ AMap.wf State.reset.dev.mem = true := by decide

/-- RESET_N takes UNIT_ID from the strap. -/
theorem test_reset_strap : ∃ t, exec (.resetN [1]) State.reset = .next t ∧ t.dev.rd F.SLV_STAT.UNIT_ID = 1 := ⟨_, rfl, by decide⟩

/-! ## Start-up -/

def boot1 : Dev := { State.reset.dev with pick := farPick }

/-- Premises of the supply, boot and self-test clauses. -/
theorem test_supply_premises :
    ((ofDev boot1).runs = true ∧ boot1.stage = 1 ∧ boot1.boot.vidLate = false ∧ boot1.before 5000000 = true) ∧
    (let d := (boot1.setStage 3).wr F.SILT_VID.VID_MV 790
     (ofDev d).runs = true ∧ 2 < d.stage ∧ d.before (d.sup.vidTb + 1000000) = true ∧ d.sup.vid ≠ d.vidTarget) ∧
    (let i : Image := { version := 7, secVer := 0, good := true }
     let d := { boot1 with nv := { boot1.nv with slots := [(1, i)], preferred := 1 } }
     (ofDev d).runs = true ∧ d.stage = 1 ∧ d.nv.slots = [(1, i)] ∧ i.good = true ∧ d.nv.fuse ≤ i.secVer ∧ d.nv.preferred = 1) ∧
    (let d := { boot1 with nv := { boot1.nv with slots := [] } }
     (ofDev d).runs = true ∧ d.stage = 1 ∧ d.nv.slots = []) := by decide

/-- Premises of the self-test's ends: bursts at and below the rate, both converters calibrated and one not. -/
theorem test_self_test_premises :
    let d := boot1.setStage 3
    ((ofDev d).runs = true ∧ d.stage = 3 ∧ d.boot.held = false ∧ d.rd F.BOOT_STAT.WAIT ≠ 4) ∧
    (d.burstSlow 63 2048000 = false ∧ d.burstSlow 63 3000000 = true ∧ d.burstSlow 64 3000000 = false) ∧
    (List.range 2).any (fun k => (d.svCalTake 0 0 393216).rd (F.SV_STAT.CAL_RESULT k) ≠ 1) = true ∧
    (List.range 2).any (fun k => ((d.svCalTake 0 0 393216).svCalTake 1 0 393216).rd (F.SV_STAT.CAL_RESULT k) ≠ 1) = false ∧
    firstFailed 5 true true = 2 ∧ firstFailed 1 true false = 1 ∧
    (d.setFlag F.START_CFG.AUTO true).flag F.START_CFG.AUTO = true ∧ (d.setFlag F.START_CFG.AUTO false).flag F.START_CFG.AUTO = false := by
  decide

/-- A tile at a stage of its start-up, on the active unit with its pick running. -/
def tileAt (n mode : Nat) (x : TileStart) : Dev :=
  let d := calm.wr (F.TILE_MODE.MODE 15) mode
  { d with boot := { d.boot with tiles := [(15, { x with stage := n })] }, therm := { d.therm with bandKnown := [15] } }

/-- Premises of the stages of start-up. -/
theorem test_stage_premises :
    ((ofDev boot1).runs = true ∧ boot1.boot.held = false) ∧
    (let d := { boot1.setStage 5 with boot := { held := true } }; (ofDev d).runs = true ∧ d.boot.held = true ∧ d.stage = 5) ∧
    (let d := { boot1.setStage 3 with boot := { held := true } }; (ofDev d).runs = true ∧ d.boot.held = true ∧ d.stage = 3) ∧
    (let d := boot1.setStage 5
     (ofDev d).runs = true ∧ d.stage = 5 ∧ d.boot.held = false ∧ d.rd F.BOOT_STAT.WAIT ≠ 1 ∧ d.discoveryDone = true ∧
     d.before (d.boot.stageTb + 1000000000 * max 1 (d.rd F.START_CFG.DISCOVER_S)) = true) ∧
    (let d := (tileAt 7 Tm.fenced { stage := 7 }).updLink 15 (fun k => { k with wake := [7] })
     (ofDev d).fabricRuns = true ∧ d.controls = true ∧ (d.link 15).wake ≠ [] ∧ d.tileMode 15 = Tm.fenced ∧ (d.link 15).modeQ = []) ∧
    (let x : TileStart := { stage := 8, temps := [(0, 5)], wakeEnd := some (10 ^ 13) }
     let d := { tileAt 8 Tm.fenced x with time := { tb := 10 ^ 13 } }
     10 ^ 13 ≤ 10 ^ 13 + 1000000000 * d.rd F.START_CFG.STABLE_MAX_S ∧
     (ofDev d).runs = true ∧ d.tileStart 15 = some x ∧ x.settled = false ∧ x.deferred = false ∧ d.isActive = true ∧
     d.tileMode 15 = Tm.fenced ∧ d.isSettled x = true) ∧
    (let x : TileStart := { stage := 8, wakeEnd := some 5 }
     let d := tileAt 8 Tm.fenced x
     (ofDev d).runs = true ∧ d.tileStart 15 = some x ∧ x.settled = false ∧ x.deferred = false ∧ x.wakeEnd = some 5 ∧
     d.before (5 + 1000000000 * d.rd F.START_CFG.STABLE_MAX_S) = true) ∧
    (let x : TileStart := { stage := 9 }
     let d := tileAt 9 Tm.fenced x
     (ofDev d).fabricRuns = true ∧ d.tileStart 15 = some x ∧ d.isActive = true ∧ d.tileMode 15 = Tm.fenced ∧
     d.therm.bandKnown.contains 15 = true) ∧
    (let d := active.setStage 7; (ofDev d).runs = true ∧ d.boot.okRaised = false ∧ d.readyStage = some 11) ∧
    (let d := (standby.setStage 6).wr F.SLV_STAT.MIRROR 2; (ofDev d).runs = true ∧ d.boot.okRaised = false ∧ d.readyStage = some 12) := by
  decide

/-- Premises of the calibration clauses. -/
theorem test_calibration_premises :
    let r : CalRun := { tile := 15, cell := none, pass := 16, item := none, fails := 0, aborted := false, stage8 := false }
    (let d := { tileAt 8 Tm.cal { stage := 8 } with cal := { runs := [r] } }
     (ofDev d).fabricRuns = true ∧ d.isActive = true ∧ d.tileMode 15 = Tm.cal ∧ d.cal.runs = [r] ∧ r.tile = 15 ∧ r.pass = 16 ∧ r.cell = none) ∧
    ((ofDev standby).fabricRuns = true ∧ standby.role = Pr.standby ∧ (ofDev standby).runs = true ∧ standby.isActive = false) ∧
    (let d := { standby with cal := { recs := { heads := [(15, { part := 0, rev := 0, band := 0, pick := 0, witCal := 0 })] } } }
     (ofDev d).fabricRuns = true ∧ d.role = Pr.standby ∧ (AMap.find d.cal.recs.heads 15).isSome = true) ∧
    (let d := { calm with cal := { runs := [{ r with pass := 17, cell := some 61439 }] } }
     (ofDev d).fabricRuns = true ∧ d.isActive = true ∧ d.marlHas .cal = false) ∧
    bit 2 0 = false := by decide

/-! ## The pick, links, loops, cells -/

/-- The active unit with tile 15 in its draft, in the mode, its link UP. -/
def tiled (mode : Nat) : Dev :=
  let d := (calm.wr (F.TILE_MODE.MODE 15) mode).wr (F.WEFT_STAT.LINK 15) 2
  { d with draft := { active := [(304, 1)] } }

/-- Premises of the boundary's clauses: no shut-down, a shut-down, a reset that is due; of the rates. -/
theorem test_boundary_premises :
    (let d := State.reset.dev; (ofDev d).runs = true ∧ d.pick.started = false ∧ (d.nextBoundary).boot.resetAt = none ∧ (d.nextBoundary).therm.shut = 0) ∧
    (let d := { State.reset.dev with therm := { State.reset.dev.therm with shut := 1 } }
     (ofDev d).runs = true ∧ (d.nextBoundary).boot.resetAt = none ∧ 0 < (d.nextBoundary).therm.shut) ∧
    (let d := { State.reset.dev with boot := { State.reset.dev.boot with resetAt := some 10 } }
     (ofDev d).runs = true ∧ (d.nextBoundary).boot.resetAt = some 10 ∧ 10 ≤ (d.nextBoundary).time.tb) ∧
    (∀ r < 4, ({ State.reset.dev with pick := { rate := r } } : Dev).pick.rate = r) ∧
    ({ State.reset.dev with pick := { beat := 2 } } : Dev).beatLen = 16 ∧ State.reset.dev.pick.chgPick ≤ 0 := by decide

/-- The lanes of a sense frame: header words 0 and 1, no stage or port block whole, a tail of zeros with its CRC unless it is cut off. -/
def senseLanes (w0 pick : Nat) (tail : Bool) : List (List Nat) :=
  let body := beBytes 4 w0 ++ beBytes 4 pick ++ zeros 54
  let end_ := zeros 448 ++ beBytes 2 (crc16 (byteBits (zeros 448)))
  [blocks64 (body ++ beBytes 2 (crc16 (byteBits body)) ++ zeros 1824 ++ (if tail then end_ else []))]

/-- Premises of the frames of a tile: the last tile, the last chunk; a lost header at a beat's end and inside a beat. -/
theorem test_tile_frame_premises :
    (let d := tiled Tm.active
     (ofDev d).fabricRuns = true ∧ d.linkUp 15 = true ∧ (d.link 15).heard = false ∧ (d.link 15).closed.contains 15 = false ∧
     d.leftOut 15 15 = []) ∧
    (let f := parseSense 15 []
     f.crcOk = false ∧ ((tiled Tm.active).senseFrame 15 f).pick.num % 16 = 0 ∧
     (({ tiled Tm.active with pick := { farPick with num := 17 } }).senseFrame 15 f).pick.num % 16 ≠ 0) ∧
    (let d := tiled Tm.holdover
     (ofDev d).fabricRuns = true ∧ d.controls = true ∧ d.tileMode 15 = Tm.holdover ∧
     ((d.link 15).ackTb.getD 0) + 50000000 < d.tbOf (d.pick.num + 1)) := by decide +kernel

set_option maxRecDepth 100000 in
/-- Premises of the sense frames whose header is right: without thermal samples, with a bad tail, with a good one. -/
theorem test_sense_frame_premises :
    (let f := parseSense 15 (senseLanes (0x5E1 * 2 ^ 20 + 3 * 2 ^ 10) 0 true)
     f.crcOk = true ∧ bit (f.words.getD 0 0) 18 = false) ∧
    (let f := parseSense 15 (senseLanes (0x5E1 * 2 ^ 20 + 2 ^ 18 + 3 * 2 ^ 10) 0 false)
     f.crcOk = true ∧ bit (f.words.getD 0 0) 18 = true ∧ f.tailOk = false) ∧
    (let f := parseSense 15 (senseLanes (0x5E1 * 2 ^ 20 + 2 ^ 18 + 3 * 2 ^ 10) 0 true)
     f.crcOk = true ∧ bit (f.words.getD 0 0) 18 = true ∧ f.tailOk = true) := by decide +kernel

/-- The bytes that a tile reads back from what the two drive lanes carry (R169, R173). -/
theorem test_drive_lanes :
    let f : DriveFrame := { listen := false, tile := 5, band := 0, rate := 0, claimOnly := true, claim := 7, pick := 0x123456, snsMask := 15, dt := 0
                            modes := [], entries := [] }
    laneBytes f.lanes = f.bytes ++ zeros 4 ∧ f.bytes.length = 20 ∧ beAt f.bytes 0 4 = 0xD5150200 ∧ beAt f.bytes 8 4 = 0x123456 := by
  decide +kernel

/-- Premises of the links' clauses. -/
theorem test_link_premises :
    (let d := ((tiled Tm.active).setStage 4).updLink 15 (fun k => { k with lanes := 63 })
     (ofDev d).fabricRuns = true ∧ 4 ≤ d.stage ∧ (d.wr (F.WEFT_STAT.LINK 15) 1).rd (F.WEFT_STAT.LINK 15) = 1 ∧ d.linkUp 15 = true ∧
     bit (d.link 15).lanes 5 = true ∧ (ofDev d).runs = true ∧ (d.updLink 15 (fun k => { k with lanes := 31 })).before
       ((d.link 15).laneTb + retrainNs) = true ∧ ((d.updLink 15 (fun k => { k with lanes := 31 })).link 15).lanes ≠ 63) ∧
    ([17, 17, 17, 17].length = 4 ∧ (∀ n ∈ [17, 17, 17, 17], 16 < n) ∧ ∃ n ∈ [17, 16, 17, 17], n ≤ 16) ∧
    (let d := (calm.setStage 4)
     (ofDev d).fabricRuns = true ∧ d.rd (F.WEFT_STAT.LINK 15) = 0 ∧ 4 ≤ d.stage ∧ d.before ((d.link 15).trainTb + retrainNs) = true ∧
     bits 1 13 8 = d.rd (F.WEFT_CTRL.LANE_DIS 15) ∧ bit 1 0 = true ∧ bit 1 1 = false ∧
     (d.wr (F.WEFT_CTRL.LANE_DIS 15) (bits 1 13 8)).flag (F.WEFT_CTRL.RETRAIN 15) = false ∧
     bits 2 13 8 = d.rd (F.WEFT_CTRL.LANE_DIS 15) ∧ bit 2 0 = false ∧ bit 2 1 = true) := by decide

/-- The frame deadline and the cut-off of chunk 6 in the example of chapter 8 (R177): 200 kHz picks, FLIGHT_PS 38,000. -/
theorem test_cutoff :
    let d := ({ tiled Tm.active with pick := { started := true, rate := 2 } }).wr (F.WEFT_FLIGHT.FLIGHT_PS 15) 38000
    d.frameDeadline 15 = (d.tbOf 0 + 4862) * 1000 ∧ d.cutoff 15 6 = d.tbOf 0 + 4117 := by decide +kernel

/-- Cell 61439 of the last tile in a mode. -/
def celled (m : Nat) : Dev := (tiled Tm.active).wr (F.CELL.MODE 61439) m

/-- Premises of the loop and cell clauses: the last VOA loop and the last cell. -/
theorem test_loop_premises :
    (let d := { tiled Tm.active with pick := { farPick with num := 65535 } }
     (ofDev d).fabricRuns = true ∧ d.controls = true ∧ d.tileRole (loopTile 65535) ≠ 0 ∧ d.tileMode (loopTile 65535) = Tm.active ∧
     d.stepOpen 65535 = true ∧ (d.laux 65535).stepped ≠ some d.pick.num ∧ d.stepDue 65535 = true ∧ isVoa 65535 = true ∧
     d.cir.due.any (fun (u : Due) => u.voas.contains 65535) = false) ∧
    (let d := { (celled Cm.hold).setFlag (F.LOOP.EN 65279) true with pick := { farPick with num := 65279 } }
     d.stepOpen 65279 = true ∧ d.stepDue 65279 = true ∧ isVoa 65279 = false ∧ d.flag (F.LOOP.EN 65279) = true ∧
     d.cellMode (loopCell 65279) = Cm.hold ∧ d.tileMode (loopTile 65279) = Tm.active) ∧
    (let d := { celled Cm.switch with pick := { farPick with num := 300 } }
     (ofDev d).fabricRuns = true ∧ d.controls = true ∧ d.cellMode 61439 = Cm.switch ∧ d.tileMode (cellTile 61439) = Tm.active ∧
     (d.caux 61439).entry + max 1 (d.rd F.CELL_CFG.SWITCH_MAX) ≤ d.pick.num + 1) ∧
    (let d := (celled Cm.settle).updAux 61439 (fun a => { a with steps := 1 })
     (ofDev d).fabricRuns = true ∧ d.cellMode 61439 = Cm.settle ∧ d.tileMode (cellTile 61439) = Tm.active ∧ 1 ≤ (d.caux 61439).steps ∧
     d.shareAt 61439 (d.tbOf (d.pick.num + 1)) ≤ 1) ∧
    (let d := celled Cm.faulted
     (ofDev d).fabricRuns = true ∧ d.controls = true ∧ d.cellMode 61439 = Cm.faulted ∧ d.causeStands 61439 = false ∧
     (d.caux 61439).quietFrom + d.cellQuietNs < d.tbOf (d.pick.num + 1) ∧ d.tileMode (cellTile 61439) = Tm.active) := by decide

/-- Premises of the treadle's clauses. -/
theorem test_treadle_premises :
    (let d := calm.updTrk 3 (fun t => { t with mode := 1 })
     ∀ st ∈ [1, 2, 3], (let e := d.wr (F.TRK_STAT.STATE 3) st
      (ofDev e).fabricRuns = true ∧ (e.trk 3).mode = 1 ∧ e.trkState 3 = st ∧ (e.trk 3).lost = false ∧
      e.before ((e.trk 3).lastWord + 1000001) = true ∧
      e.before ((e.trk 3).updTb + ((e.trk 3).updNo + 1) * nominalPeriod (e.trk 3).fund / 16) = true)) ∧
    (let d := (calm.updTrk 3 (fun t => { t with coastTb := 0 })).wr (F.TRK_STAT.STATE 3) 3
     d.trkState 3 = 3 ∧ d.before ((d.trk 3).coastTb + max 1 (d.rd (F.TRK_CFG.COAST_MAX 3)) * nominalPeriod (d.trk 3).fund) = true) ∧
    (let d := calm.wr F.TRD_MIRROR.RATE 1
     (ofDev d).fabricRuns = true ∧ d.controls = true ∧ d.rd F.TRD_MIRROR.RATE ≠ 0 ∧ d.trd.dirty = [] ∧ d.trd.dirtyClear = []) ∧
    (let x : TrdSave := { item := some 3, gen := {} }
     let r : MarlRun := { op := { rank := 3, kind := .treadle, item := none }, step := 3, left := 1 }
     let d := { calm with trd := { calm.trd with save := some x } }
     (ofDev d).fabricRuns = true ∧ d.trd.save = some x ∧ (ofDev d).runs = true ∧ d.trd.save.isSome = true ∧ d.marl.run = none ∧
     d.marl.below = none ∧ ({ d with marl := { d.marl with run := some r } } : Dev).marl.run = some r ∧ r.op.kind = .treadle ∧ r.step = 3 ∧ r.left ≤ 1) ∧
    calm.trd.save = none := by decide

/-- Premises of the pick's registers: a role that owns them and one that does not, values inside and outside the rule. -/
theorem test_pick_register_premises :
    (ofDev active).runs = true ∧ active.isActive = true ∧ State.reset.dev.isActive = false ∧ bits 0 5 4 ≠ 3 ∧ bits 0x30 5 4 = 3 ∧
    bits 0x43 6 4 ≤ 4 ∧ 4 < bits 0x50 6 4 := by decide

/-- A command of the Circuit unit. -/
def cmdOf (k : CmdKind) (at_ : Option Nat) : Cmd :=
  { no := 9, item := none, kind := k, par := { id := 5, flags := 0, inPort := 0, outPort := 1, voa := 0, via := 0, rsv := 0, time := 0, route := [] }
    members := [], at_ := at_, plan := none, planFailed := none, moves := 0, darkMoves := 0, late := false, overridden := false, waited := [] }

def noPlan : PlanProp := { pick := 0, moves := [], route := [] }

/-- Premises of the commit points: an open command, a protection command and a timed one that end at their point. -/
theorem test_commit_premises :
    (let d := { calm with cir := { calm.cir with queue := [cmdOf .release none] } }
     (ofDev d).fabricRuns = true ∧ d.commitsOpen = true ∧ d.protDue = [] ∧ d.timedDue = [] ∧
     d.cir.queue.find? (fun (q : Cmd) => q.at_.isNone) = some (cmdOf .release none)) ∧
    (let d := { calm with cir := { calm.cir with prot := [cmdOf .protect (some 1)] } }
     d.protDue = [cmdOf .protect (some 1)] ∧ (d.runCmd (cmdOf .protect (some 1)) noPlan).2 = false) ∧
    (let d := { calm with cir := { calm.cir with queue := [cmdOf .release (some 1)] } }
     d.timedDue = [cmdOf .release (some 1)] ∧ (d.runCmd (cmdOf .release (some 1)) noPlan).2 = false) ∧
    (let d := { calm with cir := { calm.cir with queue := [cmdOf .establish none] } }
     (ofDev d).fabricRuns = true ∧ d.isActive = true ∧ d.cir.queue.find? (fun (q : Cmd) => q.no = 9) = some (cmdOf .establish none) ∧
     d.commitOrder.takeWhile (fun (q : Cmd) => q.no ≠ 9) = [] ∧ (cmdOf .establish none).plans = true ∧
     (cmdOf .establish none).planned = false ∧ d.cir.lastSlice ≤ d.pick.num + 1) := by decide

/-- A plan that fails (no tile), so that its clause has a case. -/
theorem test_plan_fails :
    let d := { calm with cir := { calm.cir with queue := [cmdOf .establish none] } }
    let c := cmdOf .establish none
    (d.planOf c.kind c.par d.cir.csn noPlan).toOption.isNone = true := by decide

/-- Premises of the pins and of the timers of circuits. -/
theorem test_circuit_timer_premises :
    (let d := calm.wr F.PROT_CFG.PIN_EN 128
     (ofDev d).runs = true ∧ d.before (d.time.tb + 500) = true ∧ ((d.wait (d.time.tb + 500)).pin 7).level ≠ true ∧
     (let p := (d.pin 7).sinceTb + d.rd F.PROT_CFG.DEBOUNCE_NS
      d.before p = true ∧ ((d.wait p).pin 7).level = bit ((d.wait p).rd F.PROT_CFG.PIN_POL) 7 ∧ ((d.wait p).pin 7).deb = false ∧
      ((d.wait p).pin 7).triggered = false ∧ bit ((d.wait p).rd F.PROT_CFG.PIN_EN) 7 = true ∧ (d.wait p).controls = true)) ∧
    (let d := calm.putPin 7 { level := true }
     let p := (d.pin 7).sinceTb + d.rd F.PROT_CFG.DEBOUNCE_NS
     (ofDev d).fabricRuns = true ∧ d.before p = true ∧ ((d.wait p).pin 7).level ≠ bit ((d.wait p).rd F.PROT_CFG.PIN_POL) 7) ∧
    (let d := { calm with silt := { calm.silt with ramps := [(61439, { start := 0, stop := 9, i := 0 })] } }
     (AMap.find d.silt.ramps 61439).isSome = true ∧ AMap.find calm.silt.ramps 61439 = none) ∧
    (let r : Rsv := { handle := 3, inPort := 0, outPort := 0, via := none, untilTb := 0, route := [] }
     let d := { calm with tilth := { calm.tilth with rsv := [r] } }
     d.tilth.rsv.find? (fun (x : Rsv) => x.handle = 3) = some r ∧ d.before r.untilTb = true) ∧
    (let p : Plan := { route := [], moves := [], basis := 0, warmTb := some 0, viaAlt := false }
     let c := { cmdOf .establish none with plan := some p }
     let d := { calm with cir := { calm.cir with queue := [c] }, pick := { calm.pick with num := 10 ^ 12 } }
     d.cir.queue.find? (fun (q : Cmd) => q.no = 9) = some c ∧ c.plan = some p ∧ p.warmTb = some 0 ∧
     d.before (0 + max 1 (d.rd F.TILTH_TMO.RA_WARM_MS) * 1000000) = true) ∧
    (let d := { tiled Tm.active with tilth := { holdoff := [(15, some 0)] } }
     (ofDev d).fabricRuns = true ∧ AMap.find d.tilth.holdoff 15 = some (some 0) ∧ d.before 0 = true ∧ d.tileCause 15 = false) := by decide

/-- Premises of a piece that has not locked in time, and of one whose lock was lost. -/
theorem test_piece_premises :
    let p : Piece := {
      entry := 1023, item := none, isMove := false, cmd := 0, old := [], new := [], split := 0, joinNew := 0, joinOld := 0, phase := 1,
      n := 0, start := 0, lockAt := 0, len := 0, trim := 0, good := 0, bad := 2, beats := 65535, est := 0, paused := false, csn := 0, spSplit := 0,
      spJoin := 0, joinIn := false }
    let d := { calm with cir := { calm.cir with pieces := [p] } }
    (ofDev d).fabricRuns = true ∧ d.cir.pieces.find? (fun (x : Piece) => x.entry = 1023) = some p ∧ p.phase = 1 ∧ d.lockMax ≤ p.beats ∧
    ({ p with phase := 2 } : Piece).phase = 2 ∧ 2 ≤ p.bad := by decide

/-- A plan that is found: one tile of role 4; for a command by itself and as the member of a group. -/
theorem test_plan_found :
    let m : GroupMem := { item := 3, kind := .establish, par := (cmdOf .establish none).par }
    let g := { cmdOf .group none with members := [m] }
    let d := { calm with cir := { calm.cir with queue := [cmdOf .establish none] }, draft := { active := [(304, 4)] } }
    let e := { d with cir := { d.cir with queue := [g] } }
    let c := cmdOf .establish none
    (d.planOf c.kind c.par d.cir.csn noPlan).toOption.isSome = true ∧ g.plans = true ∧ g.planned = false ∧
    e.commitOrder.takeWhile (fun (q : Cmd) => q.no ≠ 9) = [] ∧
    (Dev.planMembers noPlan g.members e.cir.csn (e.releasesDone g.members)).toOption.isSome = true := by
  decide +kernel

/-! ## Converters, DAC, sensors, Silt -/

/-- A converter setting: the DAC monitor's input, its order 3, the finest grid. -/
def svSet : SvCfg := { input := 27, gain := 0, order := 0, decim := 0, notch := 0 }

/-- The active unit with converter 1 set so. -/
def conv1 (f : Conv → Conv) : Dev := calm.updConv 1 (fun c => f { c with run := true, len := 1, cfg := some svSet })

def injOf : Inj := { cfg := svSet, paired := false, host := true, chk := false }

/-- Premises of the words: of a scan that settles and one that has settled, of an injection before its last word and at it. -/
theorem test_sieve_word_premises :
    (let d := conv1 (fun c => { c with settle := 2 })
     (ofDev d).runs = true ∧ 0 < (d.conv 1).settle ∧ (d.conv 1).now = some svSet ∧ (d.conv 1).inCal (d.conv 1).at_ = false ∧ (d.conv 1).inj = none ∧
     d.before ((d.conv 1).at_ + svSet.grid) = true ∧ (List.replicate 16 (0 : Int)).length = svSet.decimation ∧ ([] : List Int).length ≠ svSet.decimation) ∧
    (let d := conv1 (fun c => c)
     (d.conv 1).settle = 0 ∧ (d.conv 1).now = some svSet ∧ svSet.full (2 ^ 40) = true ∧ svSet.full 0 = false) ∧
    (∀ left ∈ [1, 2], (let d := conv1 (fun c => { c with inj := some (injOf, left) })
     (d.conv 1).inj = some (injOf, left) ∧ injOf.chk = false ∧ injOf.host = true ∧ (d.conv 1).now = some injOf.cfg ∧
     (d.conv 1).inCal (d.conv 1).at_ = false ∧ d.before ((d.conv 1).at_ + injOf.cfg.grid) = true)) := by decide

/-- Premises of what happens at a word boundary: a calibration that is due, nothing that waits, a head that begins. -/
theorem test_word_turn_premises :
    ((conv1 (fun c => { c with calAt := some 5 })).conv 1).calAt = some 5 ∧
    (((conv1 (fun c => c)).conv 1).calAt = none ∧ ((conv1 (fun c => c)).conv 1).queue = []) ∧
    (let d := conv1 (fun c => { c with queue := [injOf] })
     (d.conv 1).calAt = none ∧ (d.conv 1).queue = [injOf] ∧ injOf.paired = false ∧ (d.conv 1).injFree 25600 = true) := by decide

/-- The code of three quarters of VREF held through the whole filter (R194): 0.75 · 32768, whichever order and rate; with GAIN 2 V/V it clips. -/
theorem test_code :
    (∀ o < 4, ∀ r < 2, let g := { svSet with order := o, decim := r }
      g.code (List.replicate g.keeps (3 * 2 ^ 29)) = 24576) ∧
    ({ svSet with gain := 1 } : SvCfg).full (3 * 2 ^ 29) = true ∧ ({ svSet with gain := 1 } : SvCfg).full (2 ^ 30 - 1) = false := by decide +kernel

/-- The setting in force while its scan runs. -/
theorem test_sieve_now : ((conv1 (fun c => c)).conv 1).now = some svSet := by decide

/-- Premises of the background interval, calibration and scan. -/
theorem test_sieve_scan_premises :
    (let d := conv1 (fun c => c)
     (ofDev d).runs = true ∧ d.before ((d.conv 1).bgAt + 26214400) = true ∧
     (let e := d.wait ((d.conv 1).bgAt + 26214400)
      let u := e.updConv 1 (fun c => { c with bgAt := c.bgAt + 26214400, spoilt := (e.conv 1).inCal e.time.tb })
      (u.setFlag (F.SV_CTRL.BG_EN 1) false).flag (F.SV_CTRL.BG_EN 1) = false ∧ (e.conv 1).inCal e.time.tb = false ∧ (e.conv 1).spoilt = false)) ∧
    (let d := (conv1 (fun c => c)).setFlag (F.SV_CTRL.BG_EN 1) true
     let e := d.wait ((d.conv 1).bgAt + 26214400)
     let u := e.updConv 1 (fun c => { c with bgAt := c.bgAt + 26214400, spoilt := (e.conv 1).inCal e.time.tb })
     u.flag (F.SV_CTRL.BG_EN 1) = true ∧ u.rd (F.SV_BG.BG_MIN 1) ≤ 65535 ∧ (u.wr (F.SV_BG.BG_MIN 1) 9).rd (F.SV_BG.BG_MIN 1) = 9 ∧
     (e.conv 1).inCal e.time.tb = false ∧ (e.conv 1).spoilt = false ∧
     (∀ i < 12, ([1] : List Int).getD i 0 ≠ 0 → ((List.range 12).map (fun i => clampI (-(trimLimit i)) (trimLimit i)
       ((e.conv 1).trims.getD i 0 - (([1] : List Int).getD i 0).sign))).getD i 0 ≠ (e.conv 1).trims.getD i 0) ∧
     ((conv1 (fun c => { c with trims := [trimLimit 0] })).conv 1).trims.getD 0 0 = clampI (-(trimLimit 0)) (trimLimit 0)
       (((conv1 (fun c => { c with trims := [trimLimit 0] })).conv 1).trims.getD 0 0 - (-1 : Int).sign)) ∧
    (let d := conv1 (fun c => { c with queue := [injOf] })
     d.flag (F.SV_CTRL.CAL 1) = false ∧ (d.conv 1).queue ≠ []) ∧
    (let d := conv1 (fun c => { c with calAt := some 5 })
     (d.conv 1).calAt = some 5 ∧ d.before (5 + 236800) = true ∧ 4096 < (-4097 : Int).natAbs) ∧
    (let d := conv1 (fun c => c); 28 ≤ 31 % 32 ∧ 27 % 32 < 28 ∧ (d.wr (F.SV_SCAN_LEN.LEN 1) 1).scanLen 1 ≠ 0) ∧ bit 3 2 = false := by decide

/-- Premises of the injections and the checker's rounds. -/
theorem test_injection_premises :
    (putBit 27 31 true % 32 < 30 ∧ calm.flag (F.SV_INJ.GO 1) = false ∧ (calm.setFlag (F.SV_INJ.GO 1) true).flag (F.SV_INJ.GO 1) = true ∧
     (calm.conv 0).queue.length < 4 ∧ (calm.conv 1).queue.length < 4 ∧ 30 ≤ putBit 31 31 true % 32) ∧
    (let d := conv1 (fun c => { c with queue := [injOf, injOf, injOf, injOf] }); (ofDev d).runs = true ∧ 4 ≤ (d.conv 1).queue.length) ∧
    (let d := conv1 (fun c => { c with queue := [injOf] })
     (d.conv 1).queue = [injOf] ∧ injOf.paired = false ∧ (d.conv 1).injFree d.time.tb = true ∧ (d.injBoundary 1 injOf.cfg.grid).isSome = true) ∧
    (let i := { injOf with paired := true }
     let d := (conv1 (fun c => { c with queue := [i] })).updConv 0 (fun c => { c with queue := [i] })
     (d.conv 1).queue = [i] ∧ i.paired = true ∧ d.pairHeads 1 d.time.tb = true ∧ (d.conv 1).injFree d.time.tb = true ∧
     d.injBoundary 1 25600 = d.injBoundary 0 25600 ∧ (d.injBoundary 1 25600).isSome = true ∧
     (∀ m, d.injBoundary 1 25600 = some m → m % 25600 = 0 ∧ (d.conv 1).standsAt m = true ∧ (d.conv 0).standsAt m = true)) ∧
    xchkInputOk 27 = true ∧ xchkInputOk 28 = false ∧
    (let d := (calm.setFlag F.WIT_CFG.WIT_EN true).wr F.XCHK_CFG.XCHK_MS 1
     (ofDev d).runs = true ∧ d.isActive = true ∧ d.flag F.WIT_CFG.WIT_EN = true ∧ d.flag F.WIT_CTRL.HOLD = false ∧ d.sieve.job = none ∧
     d.before d.sieve.roundTb = true ∧ (∀ t < 16, (d.wait d.sieve.roundTb).linkUp t = false) ∧ d.rd F.XCHK_CFG.XCHK_MS ≠ 0 ∧
     d.before d.sieve.crossTb = true) ∧
    (let d := ((calm.setFlag F.WIT_CFG.WIT_EN true).wr (F.WEFT_STAT.LINK 0) 2).wr (F.TILE_MODE.MODE 0) Tm.active
     let e := d.wait d.sieve.roundTb
     (e.sieve.turn + 1) % 16 = 0 ∧ e.linkUp 0 = true ∧ e.tileMode 0 = Tm.active) := by decide

/-- Premises of the codes and loads: an IMMEDIATE channel, a channel that TEC owns, a SHARED one, each source of a load. -/
theorem test_dac_load_premises :
    (calm.flag (F.DAC_CH_CFG.SHARED 47) = false ∧ calm.dacNow.dacOwned 47 = St.ok ∧ calm.dac.agenda = [] ∧
     calm.dacNow.flag (F.DAC_CH_CFG.SHARED 47) = calm.flag (F.DAC_CH_CFG.SHARED 47)) ∧
    (let d := calm.setFlag (F.DAC_CH_CFG.SHARED 47) true
     d.flag (F.DAC_CH_CFG.SHARED 47) = true ∧ d.isActive = true ∧ d.dacNow.dacOwned 47 = St.ok ∧ d.dacNow.flag (F.DAC_CH_CFG.SHARED 47) = true) ∧
    (calm.wr (F.DAC_LOAD_CFG.SRC 3) 0).dacSrc 47 = 0 ∧ (calm.wr (F.DAC_LOAD_CFG.SRC 3) 1).dacSrc 47 ≠ 0 ∧
    (let d := calm.setFlag (F.TEC_CFG.TEC_EN 15) true; d.dacNow.flag (F.DAC_CH_CFG.SHARED 15) = d.flag (F.DAC_CH_CFG.SHARED 15) ∧ d.dacNow.dacOwned 15 ≠ St.ok) ∧
    (let d := standby.setFlag (F.DAC_CH_CFG.SHARED 47) true; (ofDev d).runs = true ∧ d.flag (F.DAC_CH_CFG.SHARED 47) = true ∧ d.isActive = false) ∧
    (let d := (calm.wr (F.DAC_LOAD_CFG.SRC 3) 2).setFlag (F.DAC_CH_STAT.PEND 47) true
     (d.wr (F.DAC_CH_CFG.GROUP 47) 3).dacSrc 47 ≠ 0 ∧ d.flag (F.DAC_CH_STAT.PEND 47) = true ∧ d.flag (F.DAC_CH_STAT.RANGING 47) = false ∧
     d.genRuns 47 = false ∧ bit (d.rd F.DAC_STAT.LOAD_LVL) 3 = false ∧
     ((d.wr F.DAC_STAT.LOAD_LVL (putBit (d.rd F.DAC_STAT.LOAD_LVL) 3 true)).signal (12 + 3) true).rd (F.DAC_LOAD_CFG.SRC 3) = 2) := by decide

/-- Premises of ranges, clear, over-temperature, SHARED channels. -/
theorem test_dac_channel_premises :
    (let d := calm
     (ofDev d).runs = true ∧ d.flag (F.DAC_CH_CFG.SHARED 15) = false ∧ bit 1 10 = false ∧ d.dacNow.rangeOwned 15 (bits 1 1 0) = St.ok ∧
     (d.wr (F.DAC_CH_CFG.RANGE 15) 2).rd (F.DAC_CH_CFG.RANGE 15) ≠ bits 1 1 0) ∧
    (let d := (calm.setFlag (F.TEC_CFG.TEC_EN 15) true).wr (F.DAC_CH_CFG.RANGE 15) 2
     d.flag (F.DAC_CH_CFG.SHARED 15) = false ∧ d.flag (F.TEC_CFG.TEC_EN 15) = true ∧ d.rd (F.DAC_CH_CFG.RANGE 15) ≠ bits 1 1 0 ∧
     d.dacNow.rangeOwned 15 (bits 1 1 0) ≠ St.ok) ∧
    (let d := { calm with dac := { calm.dac with ranging := [(47, 9)], redrive := [(47, 9)] } }
     AMap.find d.dacNow.dac.ranging 47 = some 9 ∧ AMap.find d.dac.redrive 47 = some 9 ∧ d.before 9 = true) ∧
    (calm.flag (F.DAC_CH_STAT.OT 31) = false ∧ (calm.setFlag (F.DAC_CH_STAT.OT 47) true).flag (F.DAC_CH_STAT.OT 47) = true) ∧
    (let d := { calm with dac := { calm.dac with entered := some 0 }, pick := { farPick with num := 8 } }
     (ofDev d).fabricRuns = true ∧ d.dac.entered = some 0 ∧ d.controls = true ∧ 0 + 8 ≤ d.pick.num) ∧
    (let d := { calm with dac := { calm.dac with entered := some 0 }, pick := { farPick with num := 7 } }; d.pick.num < 0 + 8) := by decide

/-- Each rank of R219 on channel 47: high impedance, the clear, RANGING, a sine, ACTIVE. -/
theorem test_dac_rank_premises :
    (State.reset.dev.held = false ∧ (State.reset.dev.setFlag (F.DAC_CH_CFG.SHARED 47) true).flag (F.DAC_CH_CFG.SHARED 47) = true ∧
      State.reset.dev.dac.sharedOn = false) ∧ State.reset.dev.flag F.DAC_STAT.CLR_INT = true ∧
    (let d := State.reset.dev.setFlag F.DAC_STAT.CLR_INT false
     d.flag F.DAC_STAT.CLR_INT = false ∧ d.flag F.DAC_STAT.CLR_PIN = false ∧ d.flag (F.DAC_CH_CFG.SHARED 47) = false ∧
     d.flag (F.DAC_CH_CFG.OT_POLICY 47) = false ∧ (d.setFlag (F.DAC_CH_STAT.RANGING 47) true).flag (F.DAC_CH_STAT.RANGING 47) = true ∧
     d.flag (F.DAC_CH_STAT.RANGING 47) = false ∧ AMap.find d.dac.gens 15 = none ∧
     (AMap.find ({ d with dac := { d.dac with gens := [(15, {})] } } : Dev).dac.gens (47 - 32)).isSome = true) := by decide

/-- Premises of the generators and TEC loops. -/
theorem test_sine_tec_premises :
    (calm.flag (F.SINE_CFG.EN 15) = false ∧ (calm.setFlag (F.SINE_CFG.EN 15) true).flag (F.SINE_CFG.EN 15) = true) ∧
    (let g : Gen := { phase := 5, since := 0, ftw := 4294967295, ending := true }
     let d := { calm.setFlag (F.SINE_CFG.EN 15) true with dac := { calm.dac with gens := [(15, g)] } }
     AMap.find d.dacNow.dac.gens 15 = some g ∧ g.ending = true ∧ g.ftw ≠ 0 ∧
     d.dacNow.before (g.since + 20 * ((2 ^ 32 - g.phase + g.ftw - 1) / g.ftw)) = true ∧ ({ g with ftw := 0 } : Gen).ftw = 0) ∧
    AMap.find calm.dacNow.dac.gens 15 = none ∧ calm.isActive = true ∧ bit 0 0 = false ∧ bit 1 0 = true ∧
    calm.flag (F.TEC_CFG.TEC_EN 15) = false ∧ State.reset.dev.isActive = false ∧
    (let d := (calm.setFlag (F.TEC_CFG.TEC_EN 15) true).updTec 15 (fun _ => { invalid := some 5 })
     d.flag (F.TEC_CFG.TEC_EN 15) = true ∧ d.flag (F.TEC_STAT.SAFE 15) = false ∧ (d.tecAux 15).invalid = some 5 ∧
     d.before (5 + 1000000 * max 1 (d.rd (F.TEC_CFG.HOLD_MS 15))) = true) := by decide

/-- Premises of a scan: no sensor passes, one passes below and one at the shut-down's level. -/
theorem test_therm_scan_premises :
    (ofDev calm).runs = true ∧ calm.before calm.therm.scanTb = true ∧
    (let e := (calm.wait calm.therm.scanTb).count 0x45
     (let x := { e with therm := { e.therm with last := [(0, degC 30)] } }; ∃ n h, x.hotNow = some (n, h) ∧ h < degC 115) ∧
     (let x := { e with therm := { e.therm with last := [(0, degC 115)] } }; ∃ n h, x.hotNow = some (n, h) ∧ degC 115 ≤ h ∧ x.therm.shut = 0)) :=
  ⟨by decide, by decide, ⟨0, degC 30, by decide, by decide⟩, ⟨0, degC 115, by decide, by decide, by decide⟩⟩

/-- Premises of throttle steps, the journal's end, the restart. -/
theorem test_throttle_premises :
    (let d := { calm.setFlag F.THERM_STAT.THROTTLE true with therm := { calm.therm with stepTb := some 9 } }
     (ofDev d).runs = true ∧ d.therm.stepTb = some 9 ∧ d.before 9 = true ∧ (d.wait 9).flag F.THERM_STAT.THROTTLE = true) ∧
    (let d := { calm with therm := { calm.therm with stepTb := some 9 } }
     (d.wait 9).flag F.THERM_STAT.THROTTLE = false ∧ (d.wait 9).thrHeld = false ∧
     ((d.setFlag F.THERM_STAT.LOWSENS true).wait 9).thrHeld = true) ∧
    (let r : MarlRun := { op := { rank := 1, kind := .faultLog, item := none }, step := 3, left := 1 }
     let d := { calm with therm := { calm.therm with shut := 1 }, marl := { calm.marl with run := some r } }
     (ofDev d).coreRuns = true ∧ d.therm.shut ≠ 0 ∧ d.marl.run = some r ∧ d.hot < degC 120 ∧ r.step = 3 ∧ r.left ≤ 1 ∧
     ({ r with step := 2 } : MarlRun).step ≠ 3 ∧ degC 120 ≤ (d.wr F.THERM_STAT.HOT (120 * 256)).hot) ∧
    (let d := { calm.setFlag F.THERM_CFG.SHUT_RESTART true with therm := { calm.therm with shut := 3, belowTb := some 4 } }
     (ofDev d).coreRuns = true ∧ d.therm.shut = 3 ∧ d.flag F.THERM_CFG.SHUT_RESTART = true ∧ d.therm.belowTb = some 4) := by decide

/-- Premises of Silt's clauses. -/
theorem test_silt_premises :
    (0 < stepRateF calm.sup.vid (calm.sensRead (engSensor 63)) ∧ (ofDev calm).fabricRuns = true) ∧
    (calm.before (calm.silt.hourTb + 3600000000000) = true ∧ (calm.wait (calm.silt.hourTb + 3600000000000)).rd F.SILT_HOURS.HOURS = 0 ∧
      (calm.wr F.SILT_HOURS.HOURS 1).linksUsed = [] ∧ (calm.wr F.SILT_HOURS.HOURS 1).silt.bursts = []) ∧
    (let d := { calm with silt := { calm.silt with due := true } }
     d.silt.due = true ∧ d.silt.replanning = false ∧ d.isActive = true ∧ (d.setFlag F.SILT_CFG.EN true).flag F.SILT_CFG.EN = true ∧
     (d.setFlag F.SILT_CFG.EN false).flag F.SILT_CFG.EN = false) ∧
    bit 0 0 = false ∧ bit 1 1 = false ∧ calm.marlHas .silt = false ∧ (calm.marlAsk 3 .silt none).marlHas .silt = true ∧
    (let d := { calm with silt := { calm.silt with measTb := some 9 } }; d.silt.measTb = some 9 ∧ d.before 9 = true) := by decide

/-! ## Ports, egress, tether -/

/-- A frame with its FCS. -/
def frame (bs : List Byte) : List Byte := bs ++ (beBytes 4 (crc32 bs)).reverse

/-- A frame of 64 bytes to everyone with the EtherType and the body's first bytes. -/
def frame64 (etype : Nat) (body : List Byte) : List Byte :=
  frame (beBytes 6 0xFFFFFFFFFFFF ++ zeros 6 ++ beBytes 2 etype ++ body ++ zeros (46 - body.length))

/-- The device with the last host port receiving. -/
def port1 : Dev := calm.setFlag (F.MAC_CTRL.RX_EN 1) true

/-- A frame that passes, one too short, one too long, one with a bad FCS. -/
theorem test_frame_premises :
    (State.reset.dev.setFlag (F.MAC_CTRL.RX_EN 1) false).flag (F.MAC_CTRL.RX_EN 1) = false ∧ (ofDev port1).runs = true ∧ port1.flag (F.MAC_CTRL.RX_EN 1) = true ∧
    (zeros 63).length < 64 ∧ 9216 < (zeros 9217).length ∧ fcsGood (zeros 64) = false ∧
    (frame64 0x88B5 []).length = 64 ∧ fcsGood (frame64 0x88B5 []) = true ∧ port1.addrAccepted 1 (beAt (frame64 0x88B5 []) 0 6) = true ∧
    port1.addrAccepted 1 5 = false ∧ (parseEth (frame64 0x88B5 [])).etype = 0x88B5 ∧
    port1.vlanRefused 1 (parseEth (frame64 0x88B5 [])) = false ∧ port1.vlanRefused 1 (parseEth (frame64 0x88A8 [])) = true := by
  decide +kernel

/-- PAUSE received and refused. -/
theorem test_pause_premises :
    let bs := frame (beBytes 6 0x0180C2000001 ++ zeros 6 ++ beBytes 2 0x8808 ++ beBytes 2 1 ++ zeros 44)
    bs.length = 64 ∧ fcsGood bs = true ∧ (parseEth bs).etype = 0x8808 ∧ beAt (parseEth bs).body 0 2 = 1 ∧
    (parseEth bs).dst = 0x0180C2000001 ∧ port1.addrAccepted 1 (beAt bs 0 6) = true ∧
    (port1.setFlag (F.MAC_CTRL.PAUSE_RX_EN 1) true).flag (F.MAC_CTRL.PAUSE_RX_EN 1) = true ∧
    (port1.setFlag (F.MAC_CTRL.PAUSE_RX_EN 1) false).flag (F.MAC_CTRL.PAUSE_RX_EN 1) = false := by decide +kernel

/-- Each end of the IP stage. -/
theorem test_ip_stage_premises :
    (port1.ipStage 1 (parseEth (frame64 0x0800 [0x55])) = .ipErr) ∧
    (port1.ipStage 1 (parseEth (frame64 0x0800 (beBytes 8 0x4500001400002000 ++ beBytes 4 0x40115ADA))) = .frag) ∧
    ((port1.setFlag (F.MAC_CTRL.UDP0_ACCEPT 1) false).ipStage 1 (parseEth (frame64 0x0800 (beBytes 8 0x4500001C00000000 ++ beBytes 4 0x40117AD2))) =
      .udpErr) ∧
    (port1.ipStage 1 (parseEth (frame64 0x88B5 [])) ≠ .ipErr ∧ port1.ipStage 1 (parseEth (frame64 0x88B5 [])) ≠ .frag ∧
      port1.ipStage 1 (parseEth (frame64 0x88B5 [])) ≠ .udpErr) := by decide +kernel

/-- Steering: a frame that no rule takes is dropped or goes to the default queue; the meter takes it; the queue has room or none. -/
theorem test_steer_premises :
    let e := parseEth (frame64 0x1234 [])
    let ip := port1.ipStage 1 e
    let a := (port1.setFlag F.RX_DEFAULT.DROP true).steer 1 e ip
    let b := ((port1.setFlag F.RX_DEFAULT.DROP false).wr F.RX_DEFAULT.QUEUE 7).steer 1 e ip
    a.2 = none ∧ b.2 = some 7 ∧ (b.1.police 7 64 (b.1.rxq 7).length e ip).2 = true ∧
    ((b.1.police 7 64 (b.1.rxq 7).length e ip).1.rxq 7).length < (b.1.police 7 64 (b.1.rxq 7).length e ip).1.rxDepth 7 := by
  decide +kernel

/-- Premises of PAUSE, the link, the rules and the peer port. -/
theorem test_port_premises :
    (let d := { calm with net := { calm.net with pausedTo := [(1, 95)], xoff := [(1, 0)] } }
     (ofDev d).runs = true ∧ AMap.find d.net.pausedTo 1 = some 95 ∧ d.before ((95 + 9) / 10) = true ∧ AMap.find d.net.xoff 1 = some 0 ∧
     d.before (0 + d.pauseTime 1 * 256 / 10) = true ∧
     (let e := d.wait (0 + d.pauseTime 1 * 256 / 10)
      e.flag (F.MAC_CTRL.PAUSE_TX_EN 1) = false ∧ (e.setFlag (F.MAC_CTRL.PAUSE_TX_EN 1) true).flag (F.MAC_CTRL.PAUSE_TX_EN 1) = true ∧
      (e.wr (F.PAUSE_CFG.XOFF_KIB 1) 0).xonBytes 1 ≤ e.rxHeld 1)) ∧
    (let d := calm.setFlag (F.MAC_STAT.LINK 2) true
     d.flag (F.MAC_STAT.LINK 2) = true ∧ (d.macLink 2 false false false false).flag (F.MAC_STAT.LINK 2) = false ∧
     calm.flag (F.MAC_STAT.LINK 2) = false) ∧
    (regAt (R.RULE_CTL 31)).isSome = true ∧
    (let d := calm.setFlag (F.MAC_CTRL.RX_EN 2) true
     d.flag (F.MAC_CTRL.RX_EN 2) = true ∧ d.addrAccepted 2 (beAt (frame64 0x88B6 []) 0 6) = true ∧ fcsGood (frame64 0x88B6 []) = true ∧
     beAt (frame64 0x88B6 []) 12 2 = 0x88B6 ∧ beAt (frame64 0x88B6 []) 0 6 = 0xFFFFFFFFFFFF ∧ beAt (frame64 0x1234 []) 12 2 ≠ 0x88B6 ∧
     beAt (frame64 0x8808 []) 12 2 = 0x8808 ∧ fcsGood (frame64 0x1234 []) = true ∧ fcsGood (frame64 0x8808 []) = true) := by decide +kernel

def gatesOf : GateList := { enable := true, start := 0, cycle := 1000, entries := [(255, 1000)] }

/-- Premises of the egress: room, the limit of a queue, the port's frame, gates. -/
theorem test_egress_premises :
    (let f := calm.mkFrame 1 1 5 none (zeros 46)
     calm.egFill 1 7 + f.size ≤ calm.egLimit 1 7 ∧ calm.egRoom 1 7 f.size = true ∧ f.size = 64) ∧
    (let d := calm.wr (F.EQ_CFG.LIMIT_KIB 1 7) 0; 7 ≠ 1 ∧ d.egLimit 1 7 < d.egFill 1 7 + (d.mkFrame 1 7 5 none (zeros 46)).size) ∧
    (let t : TxFrame := { calm.mkFrame 1 1 5 none (zeros 46) with size := 131072 }
     let d := calm.putEgress 1 1 [t]
     d.egRoom 1 1 64 = false ∧ d.canPush 1 1 64 = false) ∧
    (let d := { calm with net := { calm.net with pauseDue := [(1, 9)] } }
     let d := ((d.setFlag (F.MAC_STAT.LINK 1) true).setFlag (F.MAC_CTRL.TX_EN 1) true)
     d.before (max ((AMap.get d.net.busy 1 0 + 9) / 10) d.time.tb) = true ∧ AMap.find d.net.pauseDue 1 = some 9 ∧ d.portSends 1 = true) ∧
    (AMap.find calm.net.pauseDue 1 = none ∧ AMap.get calm.net.pausedTo 1 0 ≤ calm.time.tb * 10 ∧
      calm.time.tb * 10 < AMap.get ({ calm with net := { calm.net with pausedTo := [(1, 5)] } } : Dev).net.pausedTo 1 0 ∧
      ((calm.dropNoFit 1).chooseQueue 1).2 = none) ∧
    (let d := calm.putEgress 1 0 [calm.mkFrame 1 0 5 none (zeros 46)]
     ((d.dropNoFit 1).chooseQueue 1).2 = some 0 ∧ (((d.dropNoFit 1).chooseQueue 1).1.putEgress 1 0 []).portSends 1 = false) ∧
    calm.before ((calm.sched.refillTb / 1000 + 1) * 1000) = true ∧ calm.before ((calm.pol.refillTb / 1000 + 1) * 1000) = true ∧
    (let d := { calm with sched := { calm.sched with oper := [(1, gatesOf)], await := [(1, gatesOf)] } }
     d.gates 1 = some gatesOf ∧ segAt gatesOf.segs (gatesOf.phase d.ptpNow) = some ((0, 255, 1000), 1000) ∧ d.before (d.time.tb + 1000) = true ∧
     AMap.find d.sched.await 1 = some gatesOf ∧ d.before ((gatesOf.start : Int) - d.time.ofs).toNat = true) := by decide +kernel

/-- Premises of the tether. -/
theorem test_tether_premises :
    (let d := calm.setFlag F.TETH_CTRL.EN true
     d.flag F.TETH_CTRL.EN = true ∧ fcsGood (frame64 0x88B6 []) = true ∧ beAt (frame64 0x88B6 []) 12 2 = 0x88B6 ∧
     (frame64 0x88B6 []).length = 64 ∧ beAt (frame64 0x1234 []) 12 2 ≠ 0x88B6 ∧ fcsGood (frame64 0x1234 []) = true ∧
     1522 < (zeros 1523).length) ∧
    (let x : TethTx := { frame := zeros 64, attempts := 15 }
     let d := { calm.setFlag F.TETH_CTRL.EN true with teth := { claim := none, heart := some x } }
     d.flag F.TETH_CTRL.EN = true ∧ d.tethNext = some (1, x) ∧ x.backTo = none ∧ 15 ≤ x.attempts ∧ ({ x with attempts := 14 } : TethTx).attempts < 15) ∧
    (let x : TethTx := { frame := zeros 64, attempts := 1, backTo := some 9 }
     let d := { calm with teth := { claim := some x } }
     d.tethNext = some (0, x) ∧ x.backTo = some 9 ∧ d.before 9 = true) ∧
    (let d := (calm.setFlag F.TETH_CTRL.PLCA_EN true).setFlag F.TETH_STAT.PLCA_ACTIVE true
     d.flag F.TETH_CTRL.PLCA_EN = true ∧ d.flag F.TETH_STAT.PLCA_ACTIVE = true ∧ d.before (d.teth.beacon.getD 0 + d.plcaWait) = true) ∧
    (let d := { calm.wr F.BOOT_STAT.STAGE 6 with slv := { calm.slv with hbTbT := some 9 } }
     (ofDev d).fabricRuns = true ∧ 6 ≤ d.rd F.BOOT_STAT.STAGE ∧ d.slv.hbTbT = some 9 ∧
     d.before (9 + (if d.isActive then 100000 else 1000000)) = true) := by decide +kernel

/-! ## Packets, sessions, items -/

/-- Session 16 of the highest privilege, at a raw address behind MAC_B. -/
def at16 : Addr := { port := 1, mac := 5, tag := none, carrier := .raw }

def sess : Session := {
  opening := false, closing := false, keyId := 7, priv := 3, ctrRead := true, hostId := 9, takeover := false, hostNonce := zeros 16,
  devNonce := zeros 16, sk := zeros 32, openTb := 0, lastTb := 0, addr := at16, hs := none, acc := [], minSev := 5, evSeq := 1, shed := {} }

def src16 : ItemSrc := { slot := 16, seq := 1, tag := 2, addr := at16, rxTs := 0 }

/-- The device with the session open and the Cheda cores running. -/
def seat (d : Dev) : Dev :=
  let e := d.wr F.BOOT_STAT.STAGE 11
  { e with cheda := { e.cheda with sessions := [(16, sess)] } }

/-- The device and the item when the item's own checks begin. -/
abbrev bg (d : Dev) (op : Nat) : Dev := d.begun src16 op sess
abbrev it (d : Dev) (par : List Byte) : ItemIn := d.itemOf src16 sess par

/-- The item is taken and run, and the result fits. -/
def comes (d : Dev) (op : Nat) (par result : List Byte) : Bool :=
  (ofDev d).runs && d.itemRuns src16 sess op par && (bg d op).fits (it d par) result

/-- Premises of packets and replies. -/
theorem test_packet_premises :
    (let f : RxFrame := { port := 1, ts := 0, bytes := frame64 0x88B5 (zeros 46) }
     let d := { seat calm with net := { (seat calm).net with rxq := [(1, [f])] } }
     (ofDev d).runs = true ∧ d.coresRun = true ∧ (List.range 7).find? (fun i => !(d.rxq (i + 1)).isEmpty) = some 0 ∧ (d.rxPop 1).2 = some f ∧
     (match (d.rxPop 1).1.carried f with | .packet _ _ => true | _ => false) = true ∧
     (d.rxPop 1).1.carried { f with bytes := frame64 0x1234 [] } = .other) ∧
    (∀ i < 7, (seat calm).rxq (i + 1) = []) ∧
    (let i : ItemRec := {
       id := 4, src := src16, op := 4, hostId := 9, fin := some 0, refer := false, result := [], csn := 0, told := false, finTb := 0, takenTb := 0,
       staged := false, committed := false }
     let r : ReplyRec := { slot := 16, seq := 1, addr := at16, items := [4], sent := false, lastTb := 0, stale := false }
     let d := { seat calm with cheda := { (seat calm).cheda with replies := [r], items := [i] } }
     let e := { seat calm with cheda := { (seat calm).cheda with replies := [r], items := [{ i with fin := none }] } }
     let w := { seat calm with cheda := { (seat calm).cheda with replies := [{ r with sent := true }], items := [i] } }
     d.cheda.replies.find? (fun (r : ReplyRec) => r.slot = 16 && r.seq = 1 && !r.sent) = some r ∧ (∀ i ∈ d.replyItems r, i.fin.isSome = true) ∧
     (∃ i ∈ e.replyItems r, i.fin = none) ∧ e.before (r.lastTb + 10000 * max 1 (e.rd F.CHEDA_CFG.REPLY_WAIT)) = true ∧
     w.cheda.replies.find? (fun (r : ReplyRec) => r.slot = 16 && r.seq = 1 && r.sent) = some { r with sent := true } ∧
     w.session 16 = some sess ∧ (w.replyItems { r with sent := true }).filter (fun (i : ItemRec) => i.fin.isSome && !i.told) ≠ []) := by
  decide +kernel

/-- A packet for another unit's address. -/
theorem test_bad_dst : ((seat calm).setFlag (F.MAC_CTRL.UDP0_ACCEPT 1) true).carried ⟨1, 0,
    frame64 0x0800 (beBytes 8 0x4500001C00000000 ++ beBytes 4 0x40118E0A ++ beBytes 4 0x7F000001 ++ beBytes 4 0x0A636363 ++ beBytes 2 5 ++
      beBytes 2 47102 ++ beBytes 2 8 ++ beBytes 2 0)⟩ = .badDst := by decide +kernel

def src0 : ItemSrc := { src16 with slot := 0 }

/-- The device and the item of an opening. -/
abbrev bo (d : Dev) (op host : Nat) : Dev := (((d.openReply 0 src0.seq src0.addr).count 0x60).newItem src0 op host).1
abbrev io (d : Dev) (par : List Byte) : ItemIn :=
  { item := ((d.openReply 0 src0.seq src0.addr).count 0x60).cheda.nextItem, slot := 0, priv := 0, ctrRead := false, src := src0, par := par }

/-- SESSION_OPEN of KEY_ID 7 with PRIV 3 for HOST_ID 8, and of one that is in session already. -/
def openPar (priv host : Nat) : List Byte := [7, BitVec.ofNat 8 priv] ++ beBytes 2 host ++ zeros 16

def keyed (maxPriv : Nat) : Dev :=
  let d := seat calm
  { d with nv := { d.nv with keys := [(7, { key := zeros 32, maxPriv := maxPriv, perm := 1 })] } }

/-- Premises of SESSION_OPEN's ends. -/
theorem test_open_premises :
    (ofDev (seat calm)).runs = true ∧ (seat calm).coresRun = true ∧ src0.slot = 0 ∧ formatGood 0x0001 (openPar 3 8) = true ∧
    (bo (seat calm) 1 8).fits (io (seat calm) (openPar 3 8)) [] = true ∧
    AMap.find (bo { seat calm with nv := { (seat calm).nv with keys := [] } } 1 8).nv.keys (beAt (openPar 3 8) 0 1) = none ∧
    (AMap.find (bo (keyed 2) 1 8).nv.keys 7).any (fun k => decide (k.maxPriv < beAt (openPar 3 8) 1 1 % 4)) = true ∧
    (let d := { keyed 3 with cheda := { (keyed 3).cheda with locked := [(7, 0)] } }
     (AMap.find (bo d 1 8).nv.keys 7).any (fun k => decide (beAt (openPar 3 8) 1 1 % 4 ≤ k.maxPriv)) = true ∧
     (AMap.find (bo d 1 8).cheda.locked 7).isSome = true) ∧
    AMap.find (bo (keyed 3) 1 8).cheda.locked 7 = none ∧
    (let d := { keyed 3 with cheda := { (keyed 3).cheda with sessions := (List.range 16).map (fun i => (i + 1, sess)) } }
     (List.range 16).find? (fun i => ((bo d 1 8).session (i + 1)).isNone) = none) ∧
    (List.range 16).find? (fun i => ((bo (keyed 3) 1 8).session (i + 1)).isNone) = some 0 ∧
    ((bo (keyed 3) 1 9).sessionOfHost 9).isSome = true ∧ bit (beAt (openPar 3 9) 1 1) 7 = false ∧
    (bo (keyed 3) 1 8).sessionOfHost 8 = none ∧ bit (beAt (openPar 131 9) 1 1) 7 = true ∧
    (bo (keyed 3) 1 8).fits (io (keyed 3) (openPar 3 8)) (zeros 28) = true := by decide +kernel

/-- The device with session 16 waiting for its proof. -/
def proving : Dev :=
  let d := keyed 3
  { d with cheda := { d.cheda with sessions := [(16, { sess with opening := true })] } }

/-- Premises of SESSION_PROVE: a wrong proof, and the right one. -/
theorem test_prove_premises :
    let ss := { sess with opening := true }
    let bad : List Byte := [16, 0, 0, 0] ++ zeros 32
    let good : List Byte := [16, 0, 0, 0] ++ (bo proving 2 9).hostProof 16 ss
    ((proving.openReply 0 src0.seq src0.addr).count 0x60).session (beAt bad 0 1) = some ss ∧ (bo proving 2 9).session (beAt bad 0 1) = some ss ∧
    ss.opening = true ∧ formatGood 0x0002 bad = true ∧ (bad.drop 4).take 32 ≠ (bo proving 2 9).hostProof (beAt bad 0 1) ss ∧
    (bo proving 2 9).fits (io proving bad) [] = true ∧ formatGood 0x0002 good = true ∧ beAt good 0 1 = 16 ∧
    (good.drop 4).take 32 = (bo proving 2 9).hostProof (beAt good 0 1) ss ∧ (bo proving 2 9).sessionOfHost ss.hostId = none ∧
    (bo proving 2 9).fits (io proving good) (zeros 32) = true := by decide +kernel

/-- Premises of the sessions' timers. -/
theorem test_session_timer_premises :
    proving.before (0 + 1000000000) = true ∧ (proving.session 16).any (fun s => s.opening) = true ∧
    (seat calm).before (sess.lastTb + 1000000000 * max 1 ((seat calm).rd F.CHEDA_TMO.IDLE_S)) = true ∧ (seat calm).session 16 = some sess ∧
    (let d := { calm with cheda := { calm.cheda with locked := [(7, 5)] } }
     AMap.find d.cheda.locked 7 = some 5 ∧ d.before (5 + 60000000000) = true) := by decide +kernel

/-- Premises of the session items: each is taken and run on the session, at its bounds. -/
theorem test_session_item_premises :
    (comes (seat calm) 0x0003 [] [] = true ∧ ((bg (seat calm) 3).session 16).isSome = true) ∧
    comes (seat calm) 0x0004 (zeros 1024) (zeros 1024) = true ∧
    (comes (seat calm) 0x0005 (beBytes 2 9 ++ beBytes 2 65 ++ zeros 4) [] = true ∧ 64 < beAt (beBytes 2 9 ++ beBytes 2 65 ++ zeros 4) 2 2) ∧
    (let par := beBytes 2 8 ++ beBytes 2 64 ++ zeros 4
     comes (seat calm) 0x0005 par (zeros 8) = true ∧ 0 < beAt par 2 2 ∧ beAt par 2 2 ≤ 64 ∧
     (bg (seat calm) 5).cheda.ledger.filter (fun (e : LedgerRec) => e.hostId = beAt par 0 2) = []) ∧
    (let par := beBytes 2 9 ++ beBytes 2 1 ++ beBytes 4 1
     comes (seat calm) 0x0005 par (zeros 28) = true ∧
     ((bg (seat calm) 5).cheda.ledger.filter (fun (e : LedgerRec) => e.hostId = beAt par 0 2)).map (fun e => e.seq) = [1]) ∧
    (comes (seat calm) 0x0006 [5, 0, 0, 0] [] = true ∧ comes (seat calm) 0x0006 [6, 0, 0, 0] [] = true) ∧
    (comes (seat calm) 0x0007 [44, 1, 255, 255] [] = true ∧ comes (seat calm) 0x0007 [45, 1, 0, 0] [] = true ∧
      comes (seat calm) 0x0007 [255, 2, 0, 1] [] = true) ∧
    comes (seat calm) 0x0008 ([8, 3, 1, 0] ++ zeros 32) [] = true ∧
    (comes (seat calm) 0x0008 ([7, 3, 1, 0] ++ zeros 32) [] = true ∧ (it (seat calm) []).priv = 3) := by decide +kernel

/-- KEY_WRITE of a privilege above the session's. -/
theorem test_key_write_denied :
    let s2 := { sess with priv := 2 }
    let d := { seat calm with cheda := { (seat calm).cheda with sessions := [(16, s2)] } }
    d.itemRuns src16 s2 0x0008 ([7, 3, 1, 0] ++ zeros 32) = true ∧ (d.itemOf src16 s2 []).priv < 3 := by decide +kernel

/-- The session with a transaction open. -/
def inSet (st : List Staged) : Dev :=
  let d := seat calm
  { d with cheda := { d.cheda with txn := some { slot := 16, staged := st, lastTb := 0, commit := none } } }

/-- Premises of the sets. -/
theorem test_set_premises :
    (comes (inSet []) 0x0010 [] [] = true ∧ (bg (inSet []) 16).cheda.txn.isSome = true) ∧
    (comes (seat calm) 0x0010 [] [] = true ∧ (bg (seat calm) 16).cheda.txn = none) ∧
    (let d := (inSet []).wr F.SLV_STAT.ROLE Pr.standby
     comes d 0x0011 [] [] = true ∧ ((bg d 17).ownTxn 16).isSome = true ∧ (bg d 17).isActive = false) ∧
    (comes (inSet []) 0x0011 [] [] = true ∧ (bg (inSet []) 17).ownTxn 16 = some { slot := 16, staged := [], lastTb := 0, commit := none } ∧
      (bg (inSet []) 17).isActive = true) ∧
    (let g : Staged := { item := 3, op := 0x0603, par := [] }
     let d := { inSet [g] with silt := { (inSet [g]).silt with replanning := true } }
     comes d 0x0011 [] [] = true ∧ (bg d 17).ownTxn 16 = some { slot := 16, staged := [g], lastTb := 0, commit := none } ∧ (bg d 17).isActive = true ∧
     g.op = 0x0603) ∧
    ((ofDev (inSet [])).runs = true ∧ (inSet []).itemReaches src16 sess 0x0603 [] = true ∧ (bg (inSet []) 0x0603).draftLocked = false ∧
      comes (seat calm) 0x0603 [] [] = true) ∧
    (let par := [1, 1, 1, 0] ++ zeros 8 ++ beBytes 4 1000 ++ zeros 8
     (inSet []).itemReaches src16 sess 0x0800 par = true ∧ (parseGates par).isSome = true ∧ comes (seat calm) 0x0800 par [] = true) ∧
    (let d := inSet [{ item := 3, op := 0x0603, par := [] }]
     comes d 0x0012 [] [] = true ∧ ((bg d 18).ownTxn 16).isSome = true ∧ AMap.get d.cir.held 16 [] = [] ∧
     d.before (0 + 1000000000 * max 1 (d.rd F.CHEDA_TMO.TXN_IDLE_S)) = true) ∧
    (comes (seat calm) 0x0012 [] [] = true ∧ comes (seat calm) 0x0011 [] [] = true ∧ (bg (seat calm) 18).cheda.txn = none) := by
  decide +kernel

/-! ## Items of the fabric and of service -/

/-- A register item's parameters: one word, a read, a write, a modify. -/
def rdPar (a n : Nat) : List Byte := beBytes 4 a ++ beBytes 2 n ++ zeros 2
def wrPar (a v : Nat) : List Byte := beBytes 4 a ++ beBytes 2 1 ++ zeros 2 ++ beBytes 4 v
def modPar (a m v : Nat) : List Byte := beBytes 4 a ++ beBytes 4 m ++ beBytes 4 v

/-- A write that is taken, answered by the writes of its words. -/
def wrOk (d : Dev) (op : Nat) (par : List Byte) : Bool :=
  comes d op par [] && Dev.regStatus true (it d par) ((bg d op).regItem op par).1 ((bg d op).regItem op par).2.length = St.ok &&
  !(bg d op).stagedAddr op par && ((bg d op).regWrites ((bg d op).regItem op par).1 0 ((bg d op).regItem op par).2 []).toOption.isSome

/-- A write that is refused by its register. -/
def wrBad (d : Dev) (op : Nat) (par : List Byte) : Bool :=
  comes d op par (zeros 4) && Dev.regStatus true (it d par) ((bg d op).regItem op par).1 ((bg d op).regItem op par).2.length = St.ok &&
  !(bg d op).stagedAddr op par && ((bg d op).regWrites ((bg d op).regItem op par).1 0 ((bg d op).regItem op par).2 []).toOption.isNone

/-- Premises of the register items: EV_MASK of the last block, PERF_SEL, a TRK_CFG that asks for MODE 3, an address outside the map. -/
theorem test_register_item_premises :
    (comes (seat calm) 0x0100 (rdPar (R.EV_MASK 44) 1) (zeros 4) = true ∧
      Dev.regStatus false (it (seat calm) (rdPar (R.EV_MASK 44) 1)) (R.EV_MASK 44) 1 = St.ok) ∧
    (comes (seat calm) 0x0100 (rdPar (R.EV_MASK 44) 257) [] = true ∧
      Dev.regStatus false (it (seat calm) (rdPar (R.EV_MASK 44) 257)) (R.EV_MASK 44) 257 = St.valueInvalid) ∧
    wrOk (seat calm) 0x0101 (wrPar (R.EV_MASK 44) 5) = true ∧ wrBad (seat calm) 0x0101 (wrPar (R.TRK_CFG 3) 0x30) = true ∧
    wrOk (seat calm) 0x0102 (modPar (R.EV_MASK 44) 0xFF 5) = true ∧
    (calm.regWrite (R.EV_MASK 44) 5).2 = St.ok ∧ calm.regMirrored (R.EV_MASK 44) = false ∧
    (calm.regWrite (R.EV_MASK 44) 5).1.regMirrored (R.EV_MASK 44) = false ∧ (calm.regWrite (R.TRK_CFG 3) 0x30).2 ≠ St.ok := by decide +kernel

/-- Parameters of a circuit item. -/
def cirPar (id flags : Nat) : List Byte := beBytes 2 id ++ beBytes 2 flags ++ zeros 12 ++ (if bit flags 1 then beBytes 8 30000 else [])

/-- Premises of the six circuit commands: refused, entered, held for a group, timed, timed in the past. -/
theorem test_circuit_item_premises :
    (∀ op ∈ [0x0200, 0x0201, 0x0202, 0x0203, 0x0204, 0x0205],
      (let d := (seat calm).wr F.SLV_STAT.ROLE Pr.standby
       comes d op (cirPar 5 0) cirNone = true ∧ (bg d op).cirStatus (cirKind op) (parseCir (cirPar 5 0)) = St.roleStandby) ∧
      (comes (seat calm) op (cirPar 5 0) [] = true ∧ (bg (seat calm) op).cirStatus (cirKind op) (parseCir (cirPar 5 0)) = St.ok ∧
        bit (parseCir (cirPar 5 0)).flags 0 = false ∧ bit (parseCir (cirPar 5 0)).flags 1 = false) ∧
      (comes (seat calm) op (cirPar 5 1) [] = true ∧ bit (parseCir (cirPar 5 1)).flags 0 = true ∧
        (bg (seat calm) op).cirStatus (cirKind op) (parseCir (cirPar 5 1)) = St.ok ∧ (AMap.get (bg (seat calm) op).cir.held 16 []).length < 2048) ∧
      (comes (seat calm) op (cirPar 5 2) cirNone = true ∧ bit (parseCir (cirPar 5 2)).flags 1 = true ∧
        (bg (seat calm) op).cirStatus (cirKind op) (parseCir (cirPar 5 2)) = St.ok)) ∧
    (let d := seat running
     comes d 0x0200 (cirPar 5 2) [] = true ∧ ((bg d 0x0200).timedAt (parseCir (cirPar 5 2)).time).toOption.any (fun x => x.2 = false) = true) ∧
    ((bg (seat calm) 0x0200).timedAt (parseCir (cirPar 5 2)).time).toOption.isNone = true ∧
    (let d := { seat calm with cir := { calm.cir with held := [(16, [{ item := 3, kind := .release, par := parseCir (cirPar 5 1) }])] } }
     comes d 0x0206 [] cirNone = true ∧ (bg d 0x0206).isActive = true ∧ AMap.get (bg d 0x0206).cir.held 16 [] ≠ [] ∧
     ∀ m ∈ AMap.get (bg d 0x0206).cir.held 16 [], bit m.par.flags 1 = false) := by decide +kernel

/-- A live circuit of ID 5 in entry 0, its alternate in entry 1024. -/
def circuits : Dev := ((((seat calm).wr (F.CIR.STATE 0) 1).wr (F.CIR.ID 0) 5).wr (F.CIR.STATE 1024) 1).wr (F.CIR.ID 1024) 5

def rsv3 : Rsv := { handle := 3, inPort := 0, outPort := 0, via := none, untilTb := 0, route := [] }

/-- Premises of the circuit reads and reservations. -/
theorem test_circuit_read_premises :
    (let par := cirPar 5 0
     comes circuits 0x0207 par (zeros 256) = true ∧ (bg circuits 0x0207).liveOf 5 = some 0 ∧ bit (beAt par 2 2) 13 = false ∧
     comes (seat calm) 0x0207 par [] = true ∧ (bg (seat calm) 0x0207).liveOf 5 = none) ∧
    (let par := beBytes 2 0 ++ beBytes 2 1 ++ [255, 0] ++ beBytes 2 1
     let d := { seat calm with draft := { active := [(304, 4)] } }
     comes d 0x0208 par (zeros 4) = true ∧ (bg d 0x0208).isActive = true ∧ beAt par 0 2 < 1024 ∧ beAt par 4 1 = 255 ∧ beAt par 6 2 ≠ 0 ∧
     (List.range 256).find? (fun h => !(bg d 0x0208).tilth.rsv.any (fun (r : Rsv) => r.handle = h + 1)) = some 0 ∧
     comes (d.wr F.SLV_STAT.ROLE Pr.standby) 0x0208 par [] = true) ∧
    (let d := { seat calm with tilth := { calm.tilth with rsv := [rsv3] } }
     comes d 0x0209 (beBytes 2 3 ++ zeros 2) [] = true ∧ (∃ r ∈ (bg d 0x0209).tilth.rsv, r.handle = 3) ∧
     comes (seat calm) 0x0209 (beBytes 2 3 ++ zeros 2) [] = true ∧ (∀ r ∈ (bg (seat calm) 0x0209).tilth.rsv, r.handle ≠ 3) ∧
     comes d 0x020A ([1, 0] ++ beBytes 2 3) (zeros 4) = true ∧
     (bg d 0x020A).tilth.rsv.find? (fun (r : Rsv) => r.handle = 3) = some rsv3) ∧
    (comes circuits 0x020A ([0, 0] ++ beBytes 2 5) (zeros 4) = true ∧ (bg circuits 0x020A).altOf 5 = some 1024) ∧
    (comes (seat calm) 0x020B (beBytes 2 0x7FF ++ zeros 2) (zeros 128) = true ∧ comes (seat calm) 0x020B (beBytes 2 0x800 ++ zeros 2) [] = true) := by
  decide +kernel

/-- The session on the active unit with tile 15, its last cell and the tile in these modes. -/
def seatedTile (cm tm : Nat) : Dev := seat (((tiled tm).wr (F.CELL.MODE 61439) cm).setFlag (F.TILE_MODE.CAL_VALID 15) true)

/-- EPA of cell 61439. -/
def lastEpa : List Byte := beBytes 4 (15 * 65536 + 14 * 4096 + 255 * 4)

/-- Premises of the cell items. -/
theorem test_cell_item_premises :
    epaCell (beAt lastEpa 0 4) = some 61439 ∧ epaCell (beAt (beBytes 4 (2 ^ 20)) 0 4) = none ∧
    (let d := seatedTile Cm.hold Tm.active
     comes d 0x0300 lastEpa (wordBytes (d.cellReport 61439)) = true ∧ (bg d 0x0300).tileRole (cellTile 61439) ≠ 0 ∧
     comes d 0x0300 (beBytes 4 (2 ^ 20)) [] = true ∧ comes d 0x0301 lastEpa [] = true ∧ (bg d 0x0301).controls = true ∧
     (bg d 0x0301).cellMode 61439 = Cm.hold ∧ (bg d 0x0301).flag (F.CELL.ALT 61439) = false ∧ (bg d 0x0301).tileMode (cellTile 61439) ≠ Tm.offline ∧
     comes d 0x0302 lastEpa [] = true ∧ (bg d 0x0302).cellMode 61439 ≠ Cm.frozen ∧ comes d 0x0303 lastEpa [] = true ∧
     (bg d 0x0303).spotAllowed 61439 = false) ∧
    (let d := seatedTile Cm.frozen Tm.active
     comes d 0x0301 lastEpa [] = true ∧ (bg d 0x0301).cellMode 61439 = Cm.frozen ∧ comes d 0x0302 lastEpa [] = true) ∧
    (let d := seatedTile Cm.parked Tm.active
     comes d 0x0303 lastEpa [] = true ∧ (bg d 0x0303).spotAllowed 61439 = true ∧ ∀ r ∈ (bg d 0x0303).cal.runs, r.cell ≠ some 61439) := by
  decide +kernel

/-- Premises of the tile items. -/
theorem test_tile_item_premises :
    let par : List Byte := [15, 0, 0, 0]
    (let d := seatedTile Cm.parked Tm.fenced
     comes d 0x0310 par [] = true ∧ (bg d 0x0310).isActive = true ∧ (bg d 0x0310).tileRole 15 ≠ 0 ∧ (bg d 0x0310).tileMode 15 = Tm.fenced ∧
     (bg d 0x0310).flag (F.TILE_MODE.CAL_VALID 15) = true ∧ ((bg d 0x0310).link 15).wakeFor = none ∧
     (bg (d.setFlag (F.TILE_MODE.CAL_VALID 15) false) 0x0310).flag (F.TILE_MODE.CAL_VALID 15) = false ∧
     comes (d.setFlag (F.TILE_MODE.CAL_VALID 15) false) 0x0310 par [] = true ∧
     comes d 0x0312 par [] = true ∧ (∀ r ∈ (bg d 0x0312).cal.runs, r.tile ≠ 15) ∧ comes d 0x0313 par [] = true) ∧
    (let d := seatedTile Cm.parked Tm.active
     comes d 0x0311 par [] = true ∧ (bg d 0x0311).tileMode 15 = Tm.active ∧ ∀ e ∈ (bg d 0x0311).usedEntries, ∀ h ∈ (bg d 0x0311).route e, h.tile ≠ 15) ∧
    (let d := ((((seatedTile Cm.parked Tm.active).wr (F.CIR.STATE 0) 1).wr (F.CIR.ID 0) 5).wr (F.CIR.HOP_TILE 0 0) 15).wr (F.CIR.HOP_VALID 0 0) 1
     comes d 0x0311 par [] = true ∧ 0 ∈ (bg d 0x0311).usedEntries ∧ ∃ h ∈ (bg d 0x0311).route 0, h.tile = 15) ∧
    (∀ op ∈ [0x0310, 0x0311, 0x0312, 0x0313],
      comes ((seat calm).wr F.SLV_STAT.ROLE Pr.standby) op par [] = true ∧ comes (seat calm) op par [] = true ∧
      (bg (seat calm) op).tileRole 15 = 0) := by decide +kernel

/-- Premises of loops, coefficients, tables, drafts. -/
theorem test_table_item_premises :
    (let d := seatedTile Cm.parked Tm.active
     let l := beBytes 2 65535
     comes d 0x0400 (l ++ [0x7C, 1]) (zeros 4) = true ∧ (bg d 0x0400).tileRole (loopTile 65535) ≠ 0 ∧
     (∃ off ∈ (List.range 32).map (fun i => 4 * i), ((bg d 0x0401).loopWriteOf (l ++ [BitVec.ofNat 8 off, 0] ++ zeros 8)).toOption.isSome = true) ∧
     comes d 0x0401 (l ++ [0x7D, 0] ++ zeros 8) [] = true ∧ ((bg d 0x0401).loopWriteOf (l ++ [0x7D, 0] ++ zeros 8)).toOption.isNone = true ∧
     comes d 0x0402 (l ++ [0, 0] ++ beBytes 2 1023 ++ zeros 2) [] = true ∧ (bg d 0x0402).engineOf 65535 ≠ 0 ∧ (bg d 0x0402).loop.moves = [] ∧
     comes d 0x0403 [63, 0xFC, 1, 0] (zeros 4) = true ∧
     comes d 0x0404 ([63, 0, 0, 0] ++ zeros 8) [] = true ∧ (coefWriteOf ([63, 0, 0, 0] ++ zeros 8)).toOption.isSome = true ∧
     (bg d 0x0404).controls = true ∧ (bg d 0x0404).stagedAddr 0x0404 ([63, 0, 0, 0] ++ zeros 8) = false ∧
     comes (d.wr F.SLV_STAT.ROLE Pr.standby) 0x0404 ([63, 0, 0, 0] ++ zeros 8) [] = true ∧
     comes d 0x0500 (l ++ zeros 2) (zeros 512) = true ∧ comes d 0x0501 (l ++ zeros 514) [] = true ∧ (bg d 0x0501).tableStatus 65535 = St.ok ∧
     comes d 0x0502 ([0, 0] ++ l) [] = true ∧ (bg d 0x0502).cheda.txn = none ∧ comes d 0x0503 [] [] = true ∧ (bg d 0x0503).trd.save = none) ∧
    (let d := { seat calm with trd := { calm.trd with save := some { item := none, gen := {} } } }; comes d 0x0503 [] [] = true) ∧
    comes (seat calm) 0x0600 ([1, 0] ++ beBytes 2 1024 ++ beBytes 4 (131072 - 1024)) (zeros 1024) = true ∧
    (∀ op ∈ [0x0601, 0x0602],
      let par := if op = 0x0601 then beBytes 2 4 ++ zeros 2 ++ beBytes 4 (131072 - 4) ++ zeros 4 else beBytes 4 2
      comes (seat calm) op par [] = true ∧ draftForm op par = St.ok ∧ (bg (seat calm) op).draftLocked = false ∧
      comes { seat calm with draft := { calm.draft with swapDue := true } } op par [] = true ∧
      (bg { seat calm with draft := { calm.draft with swapDue := true } } op).draftLocked = true ∧
      comes ((seat calm).wr F.SLV_STAT.ROLE Pr.standby) op par [] = true) := by decide +kernel

/-- Premises of the service items. -/
theorem test_service_item_premises :
    let d := seat calm
    (comes d 0x0700 [0, 64, 0, 0] (zeros (8 + 768)) = true ∧ comes d 0x0701 [34, 0, 0, 0] (zeros 224) = true ∧
      comes d 0x0702 ([7, 0] ++ zeros 2 ++ zeros 8 ++ beBytes 8 (2 ^ 35 - 1)) [] = true ∧ comes d 0x0702 (zeros 20) [] = true) ∧
    (comes d 0x0703 ([0, 0] ++ beBytes 2 44 ++ zeros 8) [] = true ∧ comes d 0x0703 ([0, 0] ++ beBytes 2 43 ++ zeros 8) (zeros 24) = true ∧
      (bg d 0x0703).ev.logNext = (bg d 0x0703).ev.log.length) ∧
    (comes d 0x0704 ([0, 0] ++ beBytes 2 0 ++ zeros 8) [] = true ∧ comes d 0x0704 ([0, 0] ++ beBytes 2 87 ++ zeros 8) (zeros 24) = true ∧
      (bg d 0x0704).loam.trace = [] ∧ (bg d 0x0704).loam.traceNext = 0) ∧
    (let e := { d with sched := { d.sched with oper := [(1, gatesOf)] } }
     comes e 0x0801 [1, 0, 0, 0] (zeros 24) = true ∧ AMap.find (bg e 0x0801).sched.oper 1 = some gatesOf ∧ comes d 0x0801 [2, 0, 0, 0] [] = true) ∧
    (comes d 0x0802 (zeros 12) [] = true ∧ comes d 0x0802 ([4] ++ zeros 11) [] = true ∧ comes d 0x0802 ([2] ++ zeros 11) [] = true ∧
      (bg d 0x0802).time.step = none ∧ (bg d 0x0802).stepFits ((bg d 0x0802).pick.num + 2) 2 0 = true) ∧
    comes d 0x0900 [] (bg d 0x0900).pairStatus = true ∧ comes (d.wr F.SLV_STAT.ROLE Pr.standby) 0x0901 (zeros 4) [] = true ∧
    (let e := { d.wr F.SLV_STAT.PEER_ROLE Pr.standby with slv := { d.slv with peerMirror := 2 } }
     let e := e.setFlag F.SLV_STAT.P_LOST false
     comes e 0x0901 (zeros 4) [] = true ∧ (bg e 0x0901).rd F.SLV_STAT.PEER_ROLE = Pr.standby ∧ (bg e 0x0901).flag F.SLV_STAT.P_LOST = false ∧
     (bg e 0x0901).slv.peerMirror = 2 ∧ (bg e 0x0901).slv.handTb = none ∧ (bg e 0x0901).slv.agreed = 0) ∧
    (comes d 0x0A00 [] [] = true ∧ comes d 0x0A01 (beBytes 4 (2 ^ 26 - 4) ++ beBytes 2 4 ++ zeros 2 ++ zeros 4) [] = true ∧
      comes d 0x0A02 (beBytes 4 (2 ^ 26) ++ zeros 4) [] = true ∧ bit (beAt (beBytes 4 (2 ^ 26) ++ zeros 4) 4 1) 0 = false ∧ (bg d 0x0A02).nv.fuse = 0) ∧
    (comes d 0x0A03 [] [] = true ∧ comes d 0x0A04 (zeros 4) (zeros 32) = true ∧ comes d 0x0A04 ([1] ++ zeros 99) [] = true ∧
      (bg d 0x0A04).boot.challenge = none ∧ comes d 0x0A04 [2, 0, 0, 0] [] = true ∧ comes d 0x0A04 [3, 0, 0, 0] [] = true ∧
      comes { d with boot := { d.boot with challenge := some (zeros 32) } } 0x0A04 ([1] ++ zeros 99) [] = true) := by decide +kernel

/-- Whether an image or a debug signature is good is a free value (assumption 1): the two clauses that name it divide every case. -/
theorem test_free_premises (m : List (Nat × Nat)) (n : Nat) (a b : List Byte) :
    (Config.imageGood m n = true ∨ Config.imageGood m n = false) ∧ (Config.debugSigGood a b = true ∨ Config.debugSigGood a b = false) := by
  constructor
  · cases Config.imageGood m n <;> simp
  · cases Config.debugSigGood a b <;> simp

/-- Premises of a loss trip: the last egress loop of a live circuit with an armed alternate. -/
theorem test_loss_trip_premises :
    let c := (((circuits.wr (F.CIR.HOP_TILE 0 0) 15).wr (F.CIR.HOP_OUT 0 0) 255).wr (F.CIR.HOP_VALID 0 0) 1).setFlag (F.CIR.AUTO 1024) true
    let d := { c with cir := { c.cir with trips := [(65535, 65535)] } }
    (ofDev d).fabricRuns = true ∧ d.controls = true ∧ max 1 (d.rd F.CIRC_CFG.TRIP_PICKS) ≤ AMap.get d.cir.trips 65535 0 ∧
    d.portUse (loopTile 65535) (65535 % 256) = some (0, true) ∧
    (let e := { d with cir := { d.cir with trips := AMap.del d.cir.trips 65535 } }
     e.altOf (e.eId 0) = some 1024 ∧ e.flag (F.CIR.AUTO 1024) = true) := by decide +kernel

/-- A tile's path exists whichever one of equally good paths is named. -/
theorem tileRoutes_one (d : Dev) (o : Obst) (w : Bool) (pick : Nat) (tpq : Nat × Nat × Nat) (hr : o.rule = .free)
    (h : d.tilePaths o w tpq.1 tpq.2.1 tpq.2.2 ≠ []) : (d.tileRoutes o w pick [tpq] 0).isSome = true := by
  obtain ⟨x, xs, e⟩ := List.exists_cons_of_ne_nil h
  unfold Dev.tileRoutes
  simp only [hr, e, List.filterMap_cons, List.map_cons]
  simp [Dev.tileRoutes, hr, List.eraseDups_cons]
  have hk : ∀ ys : List (Nat × List Hop), AMap.find ((0, []) :: ys) 0 = some [] := by intro ys; simp [AMap.find]
  simp only [hk, Option.map_some, List.length_cons]
  exact Nat.lt_of_lt_of_le (Nat.mod_lt _ (by omega)) (by omega)

/-- A route in one tile of role 4 exists whichever one of equally good paths is named. -/
theorem planRoute_one (d : Dev) (o : Obst) (w : Bool) (pick n m t p q : Nat) (h1 : Img.inPort d.draft.active n = some (t, p))
    (h2 : Img.outPort d.draft.active m = some (t, q)) (h3 : d.tileRole t = 4) (hr : o.rule = .free) (h : d.tilePaths o w t p q ≠ []) :
    (d.planRoute o w pick none n m).isSome = true := by
  unfold Dev.planRoute
  simp only [h1, h2]
  rw [if_pos h3]
  exact tileRoutes_one d o w pick (t, p, q) hr h

/-- The session on a unit whose draft has one tile of role 4. -/
def seat4 : Dev := { seat calm with draft := { active := [(304, 4)] } }

/-- A reservation finds its path whichever one of equally good paths the free value names. -/
theorem test_reserve_route (pick : Nat) : (seat4.planRoute (seat4.obst 0 .free none) true pick none 0 1).isSome = true :=
  planRoute_one seat4 (seat4.obst 0 .free none) true pick 0 1 15 0 1 (by decide +kernel) (by decide +kernel) (by decide +kernel) rfl (by decide +kernel)

/-! ## Time, pair, events, monitors, stores -/

/-- Premises of the reference and REFCLK. -/
theorem test_reference_premises :
    (calm.setFlag F.TIME_STAT.REF true).flag F.TIME_STAT.REF = true ∧ (calm.setFlag F.TIME_STAT.REF false).flag F.TIME_STAT.REF = false ∧
    calm.time.refOkSince = none ∧ calm.time.refclk = true ∧
    ({ calm with time := { calm.time with refclk := false } } : Dev).time.refclk = false := by decide

/-- An event message of PTP (Sync) on the port in use, another frame, a message on the other port. -/
theorem test_ptp_premises :
    (let f : RxFrame := ⟨0, 5, frame64 0x88F7 ([0x10, 2] ++ beBytes 2 44 ++ zeros 40)⟩
     let g : RxFrame := ⟨0, 5, frame64 0x1234 []⟩
     let d := { calm with net := { calm.net with rxq := [(0, [f])] } }
     (ofDev d).runs = true ∧ (d.rxPop 0).2 = some f ∧
     (ptpPart (beBytes 2 (parseEth f.bytes).etype ++ (parseEth f.bytes).body)).isSome = true ∧ f.port = (d.rxPop 0).1.ptpPort ∧
     ({ f with port := 1 } : RxFrame).port ≠ (d.rxPop 0).1.ptpPort ∧
     ptpPart (beBytes 2 (parseEth g.bytes).etype ++ (parseEth g.bytes).body) = none) ∧
    (calm.before (calm.time.tb + 500) = true ∧ (calm.wait (calm.time.tb + 500)).time.ppsTb = none ∧
      (calm.wr F.TIME_CFG.SRC 2).rd F.TIME_CFG.SRC = 2 ∧ (calm.wr F.TIME_CFG.SRC 1).rd F.TIME_CFG.SRC = 1) ∧
    (let d := calm.wr F.TIME_STAT.SERVO 2
     d.rd F.TIME_STAT.SERVO = 2 ∧ d.before (d.time.lastSync + 3 * d.announceNs) = true ∧ d.before (d.time.lastPps + 3000000000) = true) ∧
    (calm.wr F.TIME_STAT.PORT_STATE 6).rd F.TIME_STAT.PORT_STATE = 6 ∧ (calm.setFlag F.TIME_CFG.DELAY_MECH true).flag F.TIME_CFG.DELAY_MECH = true ∧
    (calm.wr F.TIME_STAT.PORT_STATE 9).rd F.TIME_STAT.PORT_STATE ≠ 6 := by decide +kernel

/-- The fields of a register's row. -/
def rowFields (a : Nat) : List FRow := match regAt a with
  | some (.row _ _ fs) => fs
  | _ => []

/-- Premises of the time registers and pulses. -/
theorem test_time_register_premises :
    calm.time.portNow = none ∧ regAt R.TIME_CFG = some (.row R.TIME_CFG [] (rowFields R.TIME_CFG)) ∧
    (let e := calm.storeWord R.TIME_CFG R.TIME_CFG [] (rowFields R.TIME_CFG) (putBit 0 31 true)
     e.rd F.TIME_CFG.SRC = calm.rd F.TIME_CFG.SRC ∧ e.rd F.TIME_CFG.PTP_PORT = calm.rd F.TIME_CFG.PTP_PORT) ∧
    (let d := calm.wr F.TIME_CFG.SRC 1
     let e := d.storeWord R.TIME_CFG R.TIME_CFG [] (rowFields R.TIME_CFG) 0
     e.rd F.TIME_CFG.SRC ≠ d.rd F.TIME_CFG.SRC ∧ e.servoSrc.rd F.TIME_CFG.PTP_PORT = d.rd F.TIME_CFG.PTP_PORT ∧ bit 0 31 = false) ∧
    regAt (R.PULSE_CFG 3) = some (.row (R.PULSE_CFG 0) [3] (rowFields (R.PULSE_CFG 3))) ∧
    (calm.storeWord (R.PULSE_CFG 3) (R.PULSE_CFG 0) [3] (rowFields (R.PULSE_CFG 3)) 0).rd (F.PULSE_CFG.MODE 3) = 0 ∧
    (∃ k < 32, (calm.storeWord (R.PULSE_CFG 3) (R.PULSE_CFG 0) [3] (rowFields (R.PULSE_CFG 3)) (2 ^ k)).rd (F.PULSE_CFG.MODE 3) ≠ 0) ∧
    (let d := calm.putPulse 3 { fallTb := some 9 }; (d.pulse 3).fallTb = some 9 ∧ d.before 9 = true) ∧
    (let d := (calm.putPulse 3 { armed := true, next := 9 }).wr (F.PULSE_CFG.MODE 3) 2
     (d.pulse 3).fallTb = none ∧ (d.pulse 3).armed = true ∧ d.rd (F.PULSE_CFG.MODE 3) ≠ 0 ∧ d.rd (F.PULSE_CFG.MODE 3) ≠ 3 ∧
     d.before (((d.pulse 3).next : Int) - d.time.ofs).toNat = true) := by decide +kernel

/-- A heartbeat of the peer (the other UNIT_ID) as its unit would send it. -/
def peerFrame (d : Dev) (kind seq : Nat) : List Byte := (d.setFlag F.SLV_STAT.UNIT_ID (!d.flag F.SLV_STAT.UNIT_ID)).hbFrame kind seq

/-- Premises of heartbeats, claims and the loss of a path. -/
theorem test_heartbeat_premises :
    (let d := { calm.wr F.BOOT_STAT.STAGE 6 with slv := { calm.slv with hbTbP := some 9 } }
     (ofDev d).fabricRuns = true ∧ 6 ≤ d.rd F.BOOT_STAT.STAGE ∧ d.slv.hbTbP = some 9 ∧ d.before (9 + 10000) = true) ∧
    (∀ kind ∈ [1, 2], ∀ path < 2,
      calm.slvGood (peerFrame calm kind 65535) kind (some 46) path = true ∧ calm.slvGood (zeros 46) kind (some 46) path = false ∧
      AMap.find calm.slv.seenSeq (path * 2 + kind) ≠ some (beAt (peerFrame calm kind 65535) 10 2) ∧
      AMap.find ({ calm with slv := { calm.slv with seenSeq := [(path * 2 + kind, 65535)] } } : Dev).slv.seenSeq (path * 2 + kind) =
        some (beAt (peerFrame calm kind 65535) 10 2) ∧
      beAt (peerFrame calm kind 65535) 4 1 % 2 ≠ calm.rd F.SLV_STAT.UNIT_ID) ∧
    (let d := (calm.setFlag F.SLV_STAT.P_LOST false).setFlag F.SLV_STAT.T_LOST false
     d.flag F.SLV_STAT.P_LOST = false ∧ d.flag F.SLV_STAT.T_LOST = false ∧ d.flag (F.MAC_STAT.LINK 2) = false ∧ d.role = Pr.active ∧
     (d.setFlag (F.MAC_STAT.LINK 2) true).flag (F.MAC_STAT.LINK 2) = true ∧
     d.before (d.slv.lastP + 10000 * max 2 (d.rd F.SLV_CFG.HB_MISS_P)) = true ∧
     d.before (d.slv.lastT + (if d.slv.peerTether then 100000 else 1000000) * max 1 (d.rd F.SLV_CFG.HB_MISS_T)) = true ∧
     (((d.setFlag F.SLV_STAT.P_LOST true).bump F.SLV_CNT_B.P_LOSSES 1).pathLoss).role = Pr.active ∧
     (d.setFlag F.SLV_STAT.P_LOST true).flag F.SLV_STAT.P_LOST = true ∧ (d.setFlag F.SLV_STAT.T_LOST true).flag F.SLV_STAT.T_LOST = true) := by
  decide +kernel

/-- Premises of the mirror. -/
theorem test_mirror_premises :
    (standby.role = Pr.standby ∧ calm.role ≠ Pr.standby ∧ calm.controls = true ∧ calm.rd F.SLV_CFG.PAIR_ID ≠ 999) ∧
    (let ack := calm.slvHead 0x11 16 ++ zeros 8
     let ask := calm.slvHead 0x12 8
     calm.slvGood ack 0x11 (some 16) 0 = true ∧ calm.slvGood (zeros 16) 0x11 (some 16) 0 = false ∧ calm.slvGood ask 0x12 (some 8) 0 = true) ∧
    ({ calm with slv := { calm.slv with snapTaken := some (3, []) } } : Dev).slv.snapTaken = some (3, []) ∧ calm.slv.snapTaken = none ∧
    ({ calm with pick := { farPick with num := 17 } } : Dev).pick.num % 16 ≠ 0 ∧ (calm.pick.num % 16 = 0 ∧ calm.pick.started = true) ∧
    (let o : MirVer := { config := false, version := 3, recs := [], resends := 5, lastTb := 9, items := [] }
     let d := { calm with slv := { calm.slv with unacked := [o] } }
     d.slv.unacked = [o] ∧ d.before (o.lastTb + 200000) = true ∧ 5 ≤ o.resends ∧ ({ o with resends := 4 } : MirVer).resends < 5) ∧
    (let d := { calm with slv := { calm.slv with gapTb := some 9 } }; d.slv.gapTb = some 9 ∧ d.before (9 + 1000000) = true) := by decide +kernel

/-- The unit that looks for its role, in stage 6. -/
def seeking : Dev :=
  let d := State.reset.dev.wr F.BOOT_STAT.STAGE 6
  { d with pick := farPick }

/-- Premises of the roles. -/
theorem test_role_premises :
    (calm.role ≠ Pr.resolving ∧ calm.role ≠ Pr.claiming) ∧
    (let d := { seeking with time := { seeking.time with tb := 20000000 } }
     (ofDev d).runs = true ∧ d.role = Pr.resolving ∧ 6 ≤ d.rd F.BOOT_STAT.STAGE ∧ d.slv.claiming = false ∧ d.slv.conflict = false ∧
     d.slv.heardP = false ∧ d.slv.heardT = false ∧ d.draftTiles = [] ∧
     max d.slv.readAt (max d.slv.lastP d.slv.lastT) + 20000000 ≤ d.time.tb) ∧
    seeking.time.tb < max seeking.slv.readAt (max seeking.slv.lastP seeking.slv.lastT) + 20000000 ∧
    (let d := { seeking with slv := { seeking.slv with silentSince := [(0, 9)] } }
     d.role = Pr.resolving ∧ AMap.find d.slv.silentSince 0 = some 9 ∧ d.before (9 + 20000000) = true) ∧
    (standby.failoverHolds = false ∧ standby.role = Pr.standby) ∧
    (let d := ((((standby.setFlag F.SLV_STAT.PREFER true).setFlag F.SLV_CFG.TAKEBACK_EN true).wr F.SLV_STAT.MIRROR 2).setFlag F.SLV_STAT.P_LOST
       false).setFlag F.SLV_STAT.T_LOST false
     d.flag F.SLV_STAT.PREFER = true ∧ d.flag F.SLV_CFG.TAKEBACK_EN = true ∧ d.slv.peerUnit / 2 = 0 ∧ d.takebackHolds = true) ∧
    (standby.setFlag F.SLV_CFG.TAKEBACK_EN false).flag F.SLV_CFG.TAKEBACK_EN = false ∧
    (let d := { calm with slv := { calm.slv with handTb := some 9, handItem := some 3 } }
     (ofDev d).runs = true ∧ d.isActive = true ∧ d.slv.handTb.isSome = true ∧ d.tilth.led = [] ∧ d.cal.runs = [] ∧ d.cell.aux = [] ∧ d.cir.pieces = [] ∧
     d.slv.handTb = some 9 ∧ d.before (9 + 1000000000) = true) := by decide +kernel

/-- A failover that holds (the one tile of the draft is silent), a healthy unit, a link to hand over. -/
theorem test_role_more_premises :
    (let d := (((tiled Tm.active).wr F.SLV_STAT.ROLE Pr.standby).setFlag (F.WEFT_STAT.HOLDER_SILENT 15) true).wr (F.WEFT_CLAIM.CLAIM_HELD 15) 7
     d.failoverHolds = true ∧ d.role = Pr.standby) ∧
    ({ standby.wr F.SLV_HEALTH.HEALTH_S 65535 with slv := { standby.slv with healthTb := some 0 } } : Dev).healthy = true ∧
    (let d := ((((tiled Tm.active).wr (F.WEFT_STAT.LINK 15) 0).setFlag F.SLV_CFG.LINK_HANDOVER true).wr F.SLV_STAT.PEER_ROLE Pr.standby).setFlag
       F.SLV_STAT.P_LOST false
     let d := { d with slv := { d.slv with linkLostTb := [(0, 9)], peerMirror := 2, peerLinks := 2 ^ 15 } }
     AMap.find d.slv.linkLostTb 0 = some 9 ∧ d.linkHandHolds = true ∧ d.slv.handTb = none ∧
     d.before (9 + 1000000 * max 1 (min 40 (d.rd F.SLV_TMO.LINK_HOLD_MS))) = true) := by decide +kernel

/-- Premises of the arbiters and levels: occurrences of sources 3 and 2 wait, source 2 granted last; a class with an active unacknowledged
source of level 4; a repeat of neither kind. -/
theorem test_event_premises :
    (let o (s : Nat) : Occ := { src := s, sev := none, obj := 0, val := 0, inj := false, pick := 5, time := 6 }
     let d := { calm with ev := { calm.ev with waiting := [(44, [o 2, o 3])], rot := [(44, 2)] } }
     (ofDev d).runs = true ∧ AMap.get d.ev.waiting 0 [] = [] ∧
     nextOcc (AMap.get d.ev.rot 44 15) (AMap.get d.ev.waiting 44 []) = some (o 3)) ∧
    (let d := ((calm.wr (F.EV_STATUS.ACTIVE 44) 16).wr (F.EV_STATUS.UNACK 44) 16)
     let d := { d with ev := { d.ev with src := [(evKey 44 4 false, { lvl := 4 })] } }
     d.isRepeat 44 8 false = false ∧ d.classLevel 44 (evClass 44 8).1 false = some 4) ∧
    regAt (R.EV_INJECT 44) = some (.row (R.EV_INJECT 0) [44] (rowFields (R.EV_INJECT 44))) := by decide +kernel

/-- Premises of recovery, holds and sends. -/
theorem test_event_end_premises :
    (let d := (calm.wr (F.EV_STATUS.ACTIVE 44) 16).wr (F.EV_STATUS.UNACK 44) 16
     let e := { d with pick := { d.pick with chgTb := 10 ^ 12 }, time := { d.time with tb := 10 ^ 12 } }
     d.isActiveSrc 44 4 true = false ∧ d.isActiveSrc 44 3 false = false ∧ d.heldSrc 44 4 = false ∧ e.pick.started = true ∧
     d.isActiveSrc 44 4 false = true ∧ (d.srcS 44 4 false).held = false ∧
     (calm.srcS 44 4 false).quietFrom = 0 ∧ (let d := { d with pick := { d.pick with chgTb := 0 } }; d.tbOf d.pick.num < (d.srcS 44 4 false).quietFrom + 1000000 * max 1 (d.rd (F.EV_QUIET.QUIET_MS 44))) ∧
     ({ d with sup := { d.sup with low := [11] } } : Dev).heldSrc 44 8 = true ∧
     e.isActiveSrc 44 4 false = true ∧
     (e.srcS 44 4 false).quietFrom + 1000000 * max 1 (e.rd (F.EV_QUIET.QUIET_MS 44)) ≤ e.tbOf e.pick.num) ∧
    (let r : EvRec := { block := 44, src := 15, sev := 4, coal := false, recov := false, esc := false, inj := true, cls := 1, count := 1, pick := 0, time := 0, obj := 0, val := 0, since := 0, hold := 9 }
     let d := { calm with ev := { calm.ev with pend := [r] } }
     d.pendRec 44 15 true = some r ∧ d.before r.hold = true ∧ d.time.tb < r.hold ∧ (∀ q ∈ d.ev.pend, d.time.tb < q.hold) ∧
     (let e := { seat calm with ev := { calm.ev with pend := [{ r with hold := 0 }] } }
      e.pendRec 44 15 true = some { r with hold := 0 } ∧ (∃ q ∈ e.ev.pend, q.hold ≤ e.time.tb) ∧
      ∀ ks ∈ e.cheda.sessions, ks.2.opening = true ∨ 4 < ks.2.minSev)) ∧
    (let s := { sess with minSev := 4, shed := { event := 1 } }
     let d := (seat calm).putSession 16 s
     d.session 16 = some s ∧ s.opening = false ∧ s.minSev ≤ 4 ∧ d.shedLeft 16 s ≠ {} ∧ (seat calm).session 16 = some sess ∧
     (seat calm).shedLeft 16 sess = {} ∧ 4 < sess.minSev ∧ ({ sess with opening := true } : Session).opening = true) := by decide +kernel

/-- Premises of counters and histograms: each kind of selection, at the edges of its range. -/
theorem test_monitor_premises :
    bits 0x300 9 8 = 3 ∧ (bits 0x77 9 8 = 0 ∧ evAssigned (bits 0x77 7 0) = true) ∧ (bits 0x78 9 8 = 0 ∧ evAssigned (bits 0x78 7 0) = false) ∧
    (1 ≤ bits 0x116 9 8 ∧ bits 0x116 7 0 ≤ 22) ∧ (bits 0x217 9 8 = 2 ∧ 22 < bits 0x217 7 0) ∧ bits 0x117 9 8 = 1 ∧
    bits 0x1E00 12 8 = 30 ∧ bits 0x1D00 12 8 < 30 := by decide

/-- Premises of the histogram samples: an empty unit and one next to its top, below and at throttle level 1; a word of INPUT and one of
another. -/
theorem test_histo_premises :
    calm.throttlePick = 0 ∧ 1 ≤ ({ calm with therm := { calm.therm with levelPick := 1 } } : Dev).throttlePick ∧
    (let h := AMap.get calm.perf.histos 34 {}; AMap.get h.bins 31 0 + 1 < 2 ^ 48 - 1 ∧ h.samples + 1 < 2 ^ 64 - 1 ∧ h.input = 16) ∧
    (let d : Dev := { calm with perf := { calm.perf with histos := [(0, { bins := [(31, 2 ^ 48 - 3)], samples := 2 ^ 48 - 3 })] } }
     let h := AMap.get d.perf.histos 0 {}; AMap.get h.bins 31 0 + 1 < 2 ^ 48 - 1 ∧ h.samples + 1 < 2 ^ 64 - 1) := by decide +kernel

/-- Premises of the dump: none; no session chosen; one that is not open; one that may not read; one that may. -/
theorem test_dump_premises :
    calm.perf.dump = none ∧
    (let d := { seat calm with perf := { calm.perf with dump := some (2 ^ 32 - 1, {}) } }
     d.rd F.BOB_CFG.BOB_SESSION = 0 ∧ 16 < (d.wr F.BOB_CFG.BOB_SESSION 17).rd F.BOB_CFG.BOB_SESSION ∧
     (let e := d.wr F.BOB_CFG.BOB_SESSION 1
      e.perf.dump = some (2 ^ 32 - 1, {}) ∧ e.rd F.BOB_CFG.BOB_SESSION ≠ 0 ∧ e.rd F.BOB_CFG.BOB_SESSION ≤ 16 ∧ e.session (e.rd F.BOB_CFG.BOB_SESSION) = none) ∧
     (let e := (d.wr F.BOB_CFG.BOB_SESSION 16).setFlag F.BOB_CFG.HISTO_EN false
      e.perf.dump = some (2 ^ 32 - 1, {}) ∧ e.rd F.BOB_CFG.BOB_SESSION = 16 ∧ e.session 16 = some sess ∧ sess.opening = false ∧ sess.priv ≠ 0 ∧
      e.flag F.BOB_CFG.HISTO_EN = false ∧
      (let s := { sess with priv := 0, ctrRead := false }; (e.putSession 16 s).session 16 = some s ∧ s.priv = 0 ∧ s.ctrRead = false))) := by decide +kernel

/-- Requests of Reed: outside a window, off the map, no path; granted reads and writes; behind another master's lock. -/
theorem test_reed_premises :
    calm.reedCheck 8 0x100000000 4 false = (4, some 0) ∧ calm.reedCheck 0 0x03000000 4 false = (15, some 5) ∧
    calm.reedCheck 4 0x01000000 4 true = (0, some 1) ∧ calm.reedCheck 6 0x01404000 4 false = (3, some 1) ∧
    calm.reedCheck 11 0 4 true = (6, some 6) ∧
    calm.reedCheck 0 0x100000000 4 true = (4, none) ∧ calm.reed.waiting = [] ∧ calm.reed.locks = [] ∧
    (calm.reedWrite 0x100000000 5).2 = true ∧ (calm.reedRead 0x01744000).2 = some 0 ∧ calm.reedCheck 0 0x01744000 4 false = (3, none) ∧
    calm.reedCheck 0 0x000CFFFC 4 false = (6, none) ∧ (calm.reedRead 0x000CFFFC).2 = none ∧
    (let l : ReedLock := { master := 1, writes := [], words := 1, sinceTb := 0 }
     let d := { calm with reed := { calm.reed with locks := [(4, l)] } }
     d.reedCheck 0 0x100000000 4 true = (4, none) ∧ d.reed.waiting = [] ∧ AMap.find d.reed.locks 4 = some l ∧ l.master ≠ 0 ∧
     AMap.find d.reed.locks 9 = none ∧ d.before (l.sinceTb + 10000) = true ∧ (d.wait (l.sinceTb + 10000)).reed = d.reed) := by decide +kernel

/-- Waiting requests: one alone, one behind its master's lock on another target; a master reset with and without its lock; an item to run again. -/
theorem test_reed_wait_premises :
    (let q : ReedReq := { master := 11, addr := 0x08000000, write := false, words := [], count := 1, lock := false, unlock := false, barrier := false, sinceTb := 0, starved := false, longHeld := false }
     let l : ReedLock := { master := 11, writes := [], words := 1, sinceTb := 0 }
     let d := { calm with reed := { calm.reed with waiting := [q], locks := [(4, l)] } }
     d.reed.waiting = [q] ∧ ReedReq_target q = 9 ∧ q.starved = false ∧ q.longHeld = false ∧ d.orderHeld [] q = true ∧
     d.before (q.sinceTb + 100000) = true ∧ (d.wait (q.sinceTb + 100000)).reed = d.reed ∧
     d.before (q.sinceTb + 50001) = true ∧ (d.wait (q.sinceTb + 50001)).reed = d.reed) ∧
    (let l : ReedLock := { master := 3, writes := [(0x100000000, 1)], words := 1, sinceTb := 0 }
     ({ calm with reed := { calm.reed with locks := [(4, l)] } } : Dev).reed.locks = [(4, l)]) ∧
    (let r : ItemRec := { id := 4, src := src16, op := 4, hostId := 9, fin := none, refer := false, result := [], csn := 0, told := false, finTb := 0, takenTb := 0, staged := false, committed := false }
     let d := { calm with cheda := { calm.cheda with items := [r] } }
     d.reed.locks = [] ∧ d.item 4 = some r ∧ r.fin = none ∧ r.committed = false ∧ d.reed.rerun.contains 4 = false ∧
     ({ d with reed := { d.reed with rerun := [4] } } : Dev).reed.rerun.contains 4 = true) := by decide +kernel

/-- Premises of Loam: a row retired, none, the last that fits and the one past it; an export without its session. -/
theorem test_loam_premises :
    (let d := fun (rs : List Nat) => ({ calm with loam := { calm.loam with retired := rs } } : Dev)
     (d [2097151]).loam.retired.contains ((2 ^ 32 - 1) / 2048) = true ∧ (d []).loam.retired.contains 0 = false ∧ (d []).loam.retired.length < 4095 ∧
     (d (List.range 4095)).loam.retired.contains 4095 = false ∧ (d (List.range 4095)).loam.retired.length = 4095 ∧
     (d (List.range 4096)).loam.retired.contains 4096 = false ∧ 4096 ≤ (d (List.range 4096)).loam.retired.length) ∧
    calm.loam.export_ = none ∧
    (let x : Export := { src := 0, slot := 16, start := 0, count := 0, item := 4, pick := 0, time := 0 }
     let d := { calm with loam := { calm.loam with export_ := some x } }
     d.loam.export_ = some x ∧ d.session x.slot = none) := by decide +kernel

/-- Premises of Marl. -/
theorem test_marl_premises :
    (let lo : MarlOp := { rank := 4, kind := .config, item := none }
     let hi : MarlOp := { rank := 1, kind := .faultLog, item := none }
     let d := { calm with marl := { calm.marl with queue := [hi], run := some { op := lo, step := 2, left := 1 } } }
     (ofDev d).coreRuns = true ∧ d.therm.shut = 0 ∧ d.marl.queue = [hi] ∧ hi.rank = 1 ∧ 1 < lo.rank ∧ d.marl.below = none ∧ calm.marl.run = none ∧
     calm.marl.queue = [] ∧ ({ calm with therm := { calm.therm with shut := 1 } } : Dev).therm.shut ≠ 0 ∧
     lo.rank ≠ 1) ∧
    32 < calm.nv.spares ∧ ({ calm with nv := { calm.nv with spares := 0 } } : Dev).nv.spares = 0 ∧
    (let op : MarlOp := { rank := 4, kind := .config, item := none }
     ∀ sl ∈ [(0, 2), (1, 1), (2, 1), (3, 1)], let r : MarlRun := { op := op, step := sl.1, left := sl.2 }
       ({ calm with marl := { calm.marl with run := some r } } : Dev).marl.run = some r) ∧
    (let r : EvRec := { block := 44, src := 15, sev := 4, coal := false, recov := false, esc := false, inj := true, cls := 1, count := 1, pick := 0, time := 0, obj := 0, val := 0, since := 0, hold := 9 }
     let d := fun (k : Nat) (t : Nat) => ({ calm with marl := { calm.marl with buf := List.replicate k r }, time := { calm.time with tb := t } } : Dev)
     calm.marl.buf = [] ∧ ((d 511 (10 ^ 9)).marl.buf.length < 512 ∧ ({ d 511 (10 ^ 9) with pick := farPick } : Dev).before 1000000000 = true) ∧
     512 ≤ (d 512 0).marl.buf.length ∧ (d 1 0).marl.bufTb = 0 ∧ (d 1 0).marl.buf ≠ [] ∧
     (∀ o ∈ (d 1 0).marl.queue, o.kind ≠ .faultLog)) := by decide +kernel

/-! ## Well-formedness and layouts -/

/-- For each kind of operand a command one past its bound, which WellFormed refuses. -/
theorem test_ill_formed_index :
    Instr.wf (.railUndervoltage 12 0) = false ∧ Instr.wf (.railUndervoltage 0 3) = false ∧ Instr.wf (.go (2 ^ 32)) = false ∧
    Instr.wf (.tileWake 16) = false ∧ Instr.wf (.calPass 0 17 [] [] 0) = false ∧ Instr.wf (.loopStep 65536) = false ∧
    Instr.wf (.settleEnd 61440) = false ∧ Instr.wf (.chunkCutoff 0 16 0) = false ∧ Instr.wf (.laneFail 0 { lane := 6, lock := true, bad := [] }) = false ∧
    Instr.wf (.trackerLost 4) = false ∧ Instr.wf (.treadleSaveDone 4) = false ∧ Instr.wf (.protectDebounce 8) = false ∧
    Instr.wf (.pieceLockTimeout 1024) = false ∧ Instr.wf (.injectionStart 2) = false ∧ Instr.wf (.svScanWrite 0 33 0) = false ∧
    Instr.wf (.otRedrive 48) = false ∧ Instr.wf (.dacLoadPin 4 true) = false ∧ Instr.wf (.sineStop 16) = false ∧
    Instr.wf (.sineParamWrite 0 3 0) = false ∧ Instr.wf (.sineTableWrite 0 512 0) = false ∧ Instr.wf (.thermScan [] (2 ^ 24)) = false ∧
    Instr.wf (.referenceBurst 64 0) = false ∧ Instr.wf (.pauseExpiry 2) = false ∧ Instr.wf (.macLinkChange 3 true true true true) = false ∧
    Instr.wf (.ruleCtlWrite 32 0) = false ∧ Instr.wf (.egressEnqueue 0 8 0 none []) = false ∧ Instr.wf (.egressEnqueue 0 0 0 (some 4096) []) = false ∧
    Instr.wf (.summarySend 17) = false ∧ Instr.wf (.keyLockoutExpiry 65536) = false ∧ Instr.wf (.registerWrite (2 ^ 32) 0) = false ∧
    Instr.wf (.ptpMasterSend 16) = false ∧ Instr.wf (.pulseEdge 4) = false ∧ Instr.wf (.eventGrant 45) = false ∧ Instr.wf (.eventRecovery 0 16) = false ∧
    Instr.wf (.perfCntRead 64) = false ∧ Instr.wf (.histoCfgWrite 35 0) = false ∧ Instr.wf (.reedLockTimeout 10) = false ∧
    Instr.wf (.dramError 12 0 true) = false ∧ Instr.wf (.dramError 0 (2 ^ 40) true) = false ∧ Instr.wf (.reedWinWrite 16 true 0) = false ∧
    Instr.wf (.tileWake 15) = true ∧ Instr.wf (.loopStep 65535) = true ∧ Instr.wf (.go (2 ^ 32 - 1)) = true := by decide

/-- Each structured operand with one field past its bound. -/
theorem test_ill_formed_operand :
    ({ at16 with port := 2 } : Addr).wf = false ∧ ({ at16 with tag := some 65536 } : Addr).wf = false ∧ ({ src16 with slot := 17 } : ItemSrc).wf = false ∧
    ({ src16 with tag := 65536 } : ItemSrc).wf = false ∧ src16.wf = true ∧
    ({ heads := [0, 0, 0, 0, 0, 0, 0], skewIn := 0, skewOut := 0, trips := [], turn := 0, snsLat := 0, ident := [] } : TrainResult).wf = false ∧
    ({ heads := [0, 0, 0, 0, 0, 0], skewIn := 0, skewOut := 0, trips := [], turn := 0, snsLat := 0, ident := [2 ^ 32] } : TrainResult).wf = false ∧
    ({ tile := 0, inp := 256, out := 0, lines := [], cross := 0 } : Hop).wf = false ∧
    ({ pick := 0, moves := [], route := [{ tile := 16, inp := 0, out := 0, lines := [], cross := 0 }] } : PlanProp).wf = false ∧
    lanesWf [[2 ^ 64]] = false ∧ lanesWf [[], [], [], [], []] = false ∧ Instr.wf (.senseFrame 16 []) = false ∧ Instr.wf (.senseFrame 15 [[2 ^ 64 - 1]]) = true ∧
    Instr.wf (.calPass 0 0 [{ cell := 61440, phases := List.replicate 17 0, yBar := 0, yCross := 0, offset := 0, tau := 0, fcEff := 0, fcPulse := 0 }] [] 0) = false ∧
    Instr.wf (.calPass 0 0 [] [{ port := 256, voaStart := 0, monOffset := 0 }] 0) = false ∧
    Instr.wf (.nop src16 (List.replicate 65535 0)) = true := by decide +kernel

/-- No row of the table has bits: no word spells a command. -/
theorem test_no_word (n w : Nat) : decodeTableWord n w = none ∧ State.reset.withFetchWord n w = State.reset := ⟨rfl, rfl⟩

/-! ## More cases of the items -/

/-- Register items: a modify and a write refused by their register, by their address, by a set that stages the same word. -/
theorem test_register_refusals :
    (comes (seat calm) 0x0102 (modPar (R.TRK_CFG 3) 0x30 0x30) [] = true ∧
      ((bg (seat calm) 0x0102).regWrites (R.TRK_CFG 3) 0 ((bg (seat calm) 0x0102).regItem 0x0102 (modPar (R.TRK_CFG 3) 0x30 0x30)).2
        []).toOption.isNone = true) ∧
    (∀ op ∈ [0x0101, 0x0102], (let par := if op = 0x0101 then wrPar (2 ^ 32 - 4) 5 else modPar (2 ^ 32 - 4) 1 1
      comes (seat calm) op par [] = true ∧ Dev.regStatus true (it (seat calm) par) ((bg (seat calm) op).regItem op par).1 1 = St.addrInvalid)) ∧
    (let t : Txn := { slot := 1, staged := [{ item := 3, op := 0x0101, par := wrPar (R.EV_MASK 44) 5 }], lastTb := 0, commit := none }
     let d := { seat calm with cheda := { (seat calm).cheda with txn := some t } }
     ∀ op ∈ [0x0101, 0x0102], (let par := if op = 0x0101 then wrPar (R.EV_MASK 44) 5 else modPar (R.EV_MASK 44) 1 1
       comes d op par [] = true ∧ (bg d op).stagedAddr op par = true ∧
       Dev.regStatus true (it d par) ((bg d op).regItem op par).1 1 = St.ok)) := by decide +kernel

/-- 64 commands that wait for their times. -/
def timed64 (d : Dev) : Dev := { d with cir := { d.cir with queue := List.replicate 64 (cmdOf .release (some 9)) } }

/-- A circuit item with a time. -/
def timePar (flags time : Nat) : List Byte := beBytes 2 5 ++ beBytes 2 flags ++ zeros 12 ++ beBytes 8 time

/-- Circuit commands: too far ahead, a full hold, late under LATE_POLICY, 64 that wait. -/
theorem test_circuit_item_more :
    (∀ op ∈ [0x0200, 0x0201, 0x0202, 0x0203, 0x0205],
      (comes (seat calm) op (timePar 2 (2 ^ 62)) cirNone = true ∧ (bg (seat calm) op).cirStatus (cirKind op) (parseCir (timePar 2 (2 ^ 62))) = St.ok ∧
        (bg (seat calm) op).ptpNow + 86400000000000 < (parseCir (timePar 2 (2 ^ 62))).time) ∧
      (let m : GroupMem := { item := 3, kind := .release, par := parseCir (cirPar 5 1) }
       let d := { seat calm with cir := { calm.cir with held := [(16, List.replicate 2048 m)] } }
       comes d op (cirPar 5 1) cirNone = true ∧ 2048 ≤ (AMap.get (bg d op).cir.held 16 []).length) ∧
      (comes (timed64 (seat calm)) op (timePar 2 0) cirNone = true ∧ 64 ≤ (bg (timed64 (seat calm)) op).timedCount) ∧
      (let d := (seat calm).setFlag F.CIRC_CFG.LATE_POLICY true
       comes d op (timePar 2 0) [] = true ∧ ((bg d op).timedAt (parseCir (timePar 2 0)).time).toOption.any (fun x => x.2) = true)) := by decide +kernel

/-- A session that holds one member with a time. -/
def heldTimed (time : Nat) : Dev :=
  { seat calm with cir := { calm.cir with held := [(16, [{ item := 3, kind := .release, par := parseCir (timePar 3 time) }])] } }

/-- The status of what is refused; 0 of what is taken. -/
def errOf {α : Type} : Except Nat α → Nat
  | .error e => e
  | .ok _ => 0

/-- GROUP_COMMIT with a time: ahead, late, refused. -/
theorem test_group_timed :
    (let d := heldTimed 0
     comes d 0x0206 [] cirNone = true ∧ (bg d 0x0206).heldTimes 16 ≠ [] ∧ errOf ((bg d 0x0206).timedAt (((bg d 0x0206).heldTimes 16).foldl max 0)) = St.timePast) ∧
    (let d := (heldTimed 0).setFlag F.CIRC_CFG.LATE_POLICY true
     comes d 0x0206 [] [] = true ∧ ((bg d 0x0206).timedAt (((bg d 0x0206).heldTimes 16).foldl max 0)).toOption.any (fun x => x.2) = true) ∧
    (let d := heldTimed (2 ^ 62)
     comes d 0x0206 [] cirNone = true ∧ errOf ((bg d 0x0206).timedAt (((bg d 0x0206).heldTimes 16).foldl max 0)) = St.valueInvalid) ∧
    (let d := timed64 (heldTimed 0)
     comes d 0x0206 [] cirNone = true ∧ errOf ((bg d 0x0206).timedAt (((bg d 0x0206).heldTimes 16).foldl max 0)) = St.busy) := by
  decide +kernel

/-- CIRCUIT_READ by index, reserved IDs, indices past the end; reservations refused; PLAN_STATUS refused. -/
theorem test_circuit_read_more :
    (let d := seat calm
     comes d 0x0207 (cirPar 0x7FF 0x2000) (zeros 256) = true ∧ bit 0x2000 13 = true ∧
     comes d 0x0207 (cirPar 0x800 0x2000) [] = true ∧ comes d 0x0207 (cirPar 0xFFFF 0) [] = true ∧
     comes d 0x0208 (beBytes 2 1024 ++ beBytes 2 1 ++ [255, 0] ++ beBytes 2 1) [] = true ∧
     comes d 0x0208 (zeros 4 ++ [16, 0] ++ beBytes 2 1) [] = true ∧
     comes d 0x020A ([2, 0] ++ beBytes 2 5) [] = true ∧ comes d 0x020A ([0, 0] ++ beBytes 2 0xFFFF) [] = true ∧
     comes d 0x020A ([0, 0] ++ beBytes 2 5) [] = true ∧ (bg d 0x020A).altOf 5 = none ∧ comes d 0x020A ([1, 0] ++ beBytes 2 3) [] = true ∧
     (∀ r ∈ (bg d 0x020A).tilth.rsv, r.handle ≠ 3)) ∧
    (let d := (seat calm).wr F.SLV_STAT.ROLE Pr.standby
     comes d 0x0209 (beBytes 2 3 ++ zeros 2) [] = true ∧ comes d 0x020A ([1, 0] ++ beBytes 2 3) [] = true ∧ (bg d 0x0209).isActive = false) ∧
    (let d := { seat calm with tilth := { calm.tilth with rsv := (List.range 256).map (fun h => { rsv3 with handle := h + 1 }) } }
     comes d 0x0208 (zeros 4 ++ [255, 0] ++ zeros 2) [] = true ∧ ∀ h < 256, (bg d 0x0208).tilth.rsv.any (fun r => r.handle = h + 1) = true) := by
  decide +kernel

/-- A draft without tiles has no route for a reservation, whichever path is named. -/
theorem test_reserve_no_route (pick : Nat) : (seat calm).planRoute ((seat calm).obst 0 .free none) true pick none 0 1 = none := by
  have h : Img.inPort (seat calm).draft.active 0 = none := by decide +kernel
  unfold Dev.planRoute
  simp only [h]

/-- Cell items: on a cell in WARM, of an alternate, in CAL; off the map, absent, on the standby. -/
theorem test_cell_item_more :
    (let d := seatedTile Cm.warm Tm.active
     comes d 0x0301 lastEpa [] = true ∧ (bg d 0x0301).cellMode 61439 ∉ [Cm.hold, Cm.parked, Cm.frozen, Cm.cal, Cm.faulted] ∧
     (bg d 0x0301).flag (F.CELL.ALT 61439) = false ∧ comes (d.setFlag (F.CELL.ALT 61439) true) 0x0301 lastEpa [] = true) ∧
    (let d := seatedTile Cm.cal Tm.active; comes d 0x0301 lastEpa [] = true ∧ (bg d 0x0301).cellMode 61439 = Cm.cal) ∧
    (let d := seatedTile Cm.hold Tm.active; comes d 0x0303 lastEpa [] = true ∧ (bg d 0x0303).spotAllowed 61439 = false) ∧
    (∀ op ∈ [0x0301, 0x0302, 0x0303],
      comes (seatedTile Cm.hold Tm.active) op (beBytes 4 (2 ^ 20)) [] = true ∧
      comes ((seatedTile Cm.hold Tm.active).wr F.SLV_STAT.ROLE Pr.standby) op lastEpa [] = true ∧
      comes (seat calm) op lastEpa [] = true ∧ (bg (seat calm) op).tileRole (cellTile 61439) = 0 ∧ (bg (seat calm) op).controls = true) ∧
    comes (seat calm) 0x0300 lastEpa [] = true := by decide +kernel

/-- Tile items: already there, refused by the mode, a wake under way, a calibration under way, TILE past 15. -/
theorem test_tile_item_more :
    let par : List Byte := [15, 0, 0, 0]
    (∀ om ∈ [(0x0310, Tm.active), (0x0311, Tm.fenced), (0x0313, Tm.offline)],
      (let d := seatedTile Cm.parked om.2; comes d om.1 par [] = true ∧ (bg d om.1).tileMode 15 = om.2)) ∧
    (∀ op ∈ [0x0310, 0x0311, 0x0312, 0x0313],
      (let d := seatedTile Cm.parked Tm.holdover; comes d op par [] = true ∧ (bg d op).tileMode 15 = Tm.holdover) ∧
      comes (seat calm) op [16, 0, 0, 0] [] = true) ∧
    (let d := (seatedTile Cm.parked Tm.fenced).updLink 15 (fun k => { k with wakeFor := some Tm.active })
     comes d 0x0310 par [] = true ∧ ((bg d 0x0310).link 15).wakeFor = some Tm.active ∧ comes d 0x0312 par [] = true) ∧
    (let d := (seatedTile Cm.parked Tm.fenced).updLink 15 (fun k => { k with wakeFor := some Tm.cal })
     comes d 0x0310 par [] = true ∧ ((bg d 0x0310).link 15).wakeFor = some Tm.cal ∧ Tm.cal ≠ Tm.active) ∧
    (let d := seatedTile Cm.parked Tm.cal; comes d 0x0312 par [] = true ∧ (bg d 0x0312).tileMode 15 = Tm.cal) := by decide +kernel

/-- Loop, coefficient, treadle and draft items refused. -/
theorem test_table_item_more :
    (let d := seatedTile Cm.parked Tm.active
     let l := beBytes 2 65535
     comes (seat calm) 0x0400 (l ++ [0, 1]) [] = true ∧ (bg (seat calm) 0x0400).tileRole (loopTile 65535) = 0 ∧
     comes d 0x0400 (l ++ [0x7C, 2]) [] = true ∧ comes d 0x0402 (l ++ [64, 0] ++ zeros 4) [] = true ∧
     comes d 0x0403 [64, 0, 1, 0] [] = true ∧ comes d 0x0403 [63, 0, 0, 0] [] = true ∧
     comes d 0x0502 ([1, 0] ++ beBytes 2 16) [] = true ∧ comes d 0x0502 ([1, 0] ++ beBytes 2 15) [] = true ∧
     comes d 0x0502 ([2, 0] ++ l) [] = true ∧ comes (seat calm) 0x0502 ([0, 0] ++ l) [] = true ∧
     (let g : Staged := { item := 3, op := 0x0501, par := l ++ zeros 514 }
      let e := { d with cheda := { d.cheda with txn := some { slot := 1, staged := [g], lastTb := 0, commit := none } } }
      comes e 0x0502 ([0, 0] ++ l) [] = true ∧ g ∈ [g] ∧ g.op = 0x0501 ∧ beAt g.par 0 2 = beAt ([0, 0] ++ l) 2 2) ∧
     comes (seat calm) 0x0501 (l ++ zeros 514) [] = true ∧ (bg (seat calm) 0x0501).tableStatus 65535 ≠ St.ok ∧
     comes d 0x0600 ([2, 0] ++ beBytes 2 4 ++ zeros 4) [] = true) ∧
    (let d := seatedTile Cm.parked Tm.active
     let m : Move := { loop := 65535, engine := 0, slot := 1023, item := none }
     let e := { d with loop := { d.loop with moves := [m] } }
     comes e 0x0402 (beBytes 2 65535 ++ [0, 0] ++ beBytes 2 1023 ++ zeros 2) [] = true ∧ (bg e 0x0402).loop.moves = [m] ∧
     (bg e 0x0402).engineOf 65535 ≠ 0) ∧
    (∀ op ∈ [0x0601, 0x0602],
      let par := if op = 0x0601 then beBytes 2 4 ++ zeros 2 ++ beBytes 4 131072 ++ zeros 4 else beBytes 4 99
      comes (seat calm) op par [] = true ∧ draftForm op par ≠ St.ok ∧ draftForm op par ≠ St.pending) := by decide +kernel

/-- The bounds of the reads; an export under way. -/
theorem test_service_item_more :
    let d := seat calm
    (comes d 0x0700 [0, 65, 0, 0] [] = true ∧ comes d 0x0701 [35, 0, 0, 0] [] = true ∧ comes d 0x0702 ([8, 0] ++ zeros 18) [] = true ∧
      comes d 0x0703 ([2, 0] ++ beBytes 2 1 ++ zeros 8) [] = true ∧ comes d 0x0703 ([1, 0] ++ beBytes 2 43 ++ beBytes 8 (2 ^ 64 - 1)) (zeros 24) = true ∧
      comes d 0x0704 ([1, 0] ++ beBytes 2 7 ++ zeros 8) (zeros 24) = true ∧ comes d 0x0704 ([1, 0] ++ beBytes 2 8 ++ zeros 8) [] = true ∧
      comes d 0x0704 ([1, 1] ++ beBytes 2 2048 ++ zeros 8) [] = true ∧ (bg d 0x0704).loam.export_ = none) ∧
    (let x : Export := { src := 0, slot := 16, start := 0, count := 0, item := 4, pick := 0, time := 0 }
     let e := { d with loam := { d.loam with export_ := some x } }
     comes e 0x0704 ([1, 1] ++ beBytes 2 2048 ++ zeros 8) [] = true ∧ (bg e 0x0704).loam.export_ ≠ none) := by decide +kernel

/-- TIME_STEP, the gate lists, PAIR_HANDOVER and the firmware's bounds. -/
theorem test_step_and_pair_more :
    let d := seat calm
    (comes d 0x0801 [1, 1, 0, 0] [0] = true ∧ comes d 0x0801 [1, 2, 0, 0] [] = true ∧ AMap.find (bg d 0x0801).sched.await 1 = none) ∧
    (comes d 0x0802 ([1] ++ zeros 11) [] = true ∧ (bg d 0x0802).stepValue 1 0 = some 0 ∧ (bg d 0x0802).stepFits ((bg d 0x0802).pick.num + 2) 1 0 = true ∧
      comes d 0x0802 ([1] ++ zeros 3 ++ beBytes 8 (2 ^ 63 - 1)) [] = true ∧
      (bg d 0x0802).stepFits ((bg d 0x0802).pick.num + 2) 1 (2 ^ 63 - 1) = false ∧ (bg d 0x0802).stepValue 1 (2 ^ 63 - 1) = some (2 ^ 63 - 1) ∧
      comes d 0x0802 ([3] ++ zeros 11) [] = true ∧ (bg d 0x0802).time.meas = none) ∧
    (comes d 0x0901 (zeros 4) [] = true ∧ (bg d 0x0901).rd F.SLV_STAT.PEER_ROLE ≠ Pr.standby) ∧
    (let e := { d.wr F.SLV_STAT.PEER_ROLE Pr.standby with slv := { d.slv with peerMirror := 2, handTb := some 5 } }
     let e := e.setFlag F.SLV_STAT.P_LOST false
     comes e 0x0901 (zeros 4) [] = true ∧ (bg e 0x0901).slv.handTb ≠ none ∧ (bg e 0x0901).slv.peerMirror = 2) ∧
    (comes d 0x0A01 (beBytes 4 (2 ^ 26 - 4) ++ beBytes 2 8 ++ zeros 2 ++ zeros 8) [] = true ∧ comes d 0x0A02 (beBytes 4 (2 ^ 26 + 1) ++ zeros 4) [] = true) := by
  decide +kernel

/-! ## More cases of time, the pair, events and the stores -/

/-- An edge within half a second of the last, a servo not locked, a port without the delay mechanism; the second pulse register; no pulse armed. -/
theorem test_time_more :
    (let d := { calm with time := { calm.time with ppsTb := some calm.time.tb } }
     (d.wait (d.time.tb + 500)).time.ppsTb = some calm.time.tb ∧ (d.wait (d.time.tb + 500)).time.tb < calm.time.tb + 500000000) ∧
    calm.rd F.TIME_STAT.SERVO ≠ 2 ∧ (calm.setFlag F.TIME_CFG.DELAY_MECH false).flag F.TIME_CFG.DELAY_MECH = false ∧
    regAt (R.PULSE_START_HI 3) = some (.row (R.PULSE_START_HI 0) [3] (rowFields (R.PULSE_START_HI 3))) ∧
    (∀ m ∈ [0, 2], (let d := calm.wr (F.PULSE_CFG.MODE 3) m
      (d.storeWord (R.PULSE_START_HI 3) (R.PULSE_START_HI 0) [3] (rowFields (R.PULSE_START_HI 3)) 5).rd (F.PULSE_CFG.MODE 3) = m)) ∧
    ((calm.pulse 3).fallTb = none ∧ (calm.pulse 3).armed = false) := by decide +kernel

/-- Heartbeats: none sent yet, before stage 6; a frame with this unit's UNIT_ID. -/
theorem test_heartbeat_more :
    (let d := calm.wr F.BOOT_STAT.STAGE 6
     (ofDev d).fabricRuns = true ∧ d.slv.hbTbP = none ∧ d.before d.time.tb = true) ∧ calm.rd F.BOOT_STAT.STAGE < 6 ∧
    (∀ kind ∈ [1, 2], ∀ path < 2, calm.slvGood (calm.hbFrame kind 65535) kind (some 46) path = true ∧
      beAt (calm.hbFrame kind 65535) 4 1 % 2 = calm.rd F.SLV_STAT.UNIT_ID) := by decide +kernel

/-- MIRROR frames: a good one, a bad one; a unit that does not control; two versions that wait. -/
theorem test_mirror_more :
    standby.slvGood (standby.slvHead 0x10 8) 0x10 none 0 = true ∧ standby.slvGood [] 0x10 none 0 = false ∧ standby.controls = false ∧
    standby.slvGood (standby.slvHead 0x12 8) 0x12 (some 8) 0 = true ∧ calm.slv.unacked = [] ∧ calm.slv.gapTb = none ∧
    (∃ d : Dev, d.controls = true ∧ d.pick.num = 16 * 3 ∧ d.pick.started = true) :=
  ⟨by decide +kernel, by decide +kernel, by decide +kernel, by decide +kernel, rfl, rfl,
    { calm with pick := { calm.pick with num := 48 } }, by decide +kernel⟩

/-- The bytes of a record read back: the words of a circuit's entry, a table of 256 bins with its count of writes. -/
theorem test_record_bytes :
    (let r : MirRec := { typ := 2, version := 2 ^ 32 - 1, obj := 0x7FF, close := true, retry := false, body := .entry [1, 2 ^ 32 - 1] }
     bytesRec (recBytes r ++ [7]) = some (some r, [7])) ∧
    (let r : MirRec := { typ := 5, version := 0, obj := 65535, close := false, retry := true, body := .table ((List.range 256).map (· * 257)) 9 }
     bytesRec (recBytes r ++ [7]) = some (some r, [7])) := by decide +kernel

/-- Roles: the peer chosen, a tile held by another unit, a peer that resolves too, ranked above and below. -/
theorem test_role_cases :
    (let d := { seeking.wr F.SLV_STAT.PEER_ROLE Pr.active with slv := { seeking.slv with heardP := true } }
     let d := d.setFlag F.SLV_STAT.P_LOST false
     (d.slv.heardP && !d.flag F.SLV_STAT.P_LOST) = true ∧ d.rd F.SLV_STAT.PEER_ROLE = Pr.active ∧
     (d.wr F.SLV_STAT.PEER_ROLE Pr.resolving).rd F.SLV_STAT.PEER_ROLE = Pr.resolving) ∧
    (let d := ((tiled Tm.active).wr F.SLV_STAT.ROLE Pr.resolving).wr (F.WEFT_CLAIM.CLAIM_HELD 15) 7
     ∃ t ∈ d.draftTiles, d.linkUp t = true ∧ d.claimHeld t ≠ 0 ∧ d.flag (F.WEFT_STAT.HOLDER_SILENT t) = false) ∧
    ((seeking.setFlag F.SLV_STAT.PREFER true).flag F.SLV_STAT.PREFER = true ∧ seeking.slv.peerUnit / 2 ≠ 1) ∧
    (seeking.flag F.SLV_STAT.PREFER = false ∧ ({ seeking with slv := { seeking.slv with peerUnit := 2 } } : Dev).slv.peerUnit / 2 = 1) ∧
    (calm.role ≠ Pr.standby ∧ AMap.find calm.slv.linkLostTb 0 = none ∧ calm.slv.handTb = none ∧ calm.rd F.BOOT_STAT.STAGE < 6) := by
  decide +kernel

/-- Events: an injection while one waits; a count that waits to be cleared; records that are sent to a session that subscribes. -/
theorem test_event_more :
    (let o : Occ := { src := 3, sev := none, obj := 0, val := 0, inj := true, pick := 5, time := 6 }
     let d := { calm with ev := { calm.ev with waiting := [(44, [o])], clearPend := [44] } }
     (∃ x ∈ AMap.get d.ev.waiting 44 [], x.inj = true) ∧ 44 ∈ d.ev.clearPend ∧
     (∀ x ∈ AMap.get ({ d with ev := { d.ev with waiting := [(44, [{ o with inj := false }])] } } : Dev).ev.waiting 44 [], x.inj = false)) ∧
    (let r : EvRec := { block := 44, src := 15, sev := 4, coal := false, recov := false, esc := false, inj := true, cls := 1, count := 1, pick := 0,
                        time := 0, obj := 0, val := 0, since := 0, hold := 0 }
     let d := (seat calm).putSession 16 { sess with minSev := 0 }
     let d := { d with ev := { calm.ev with pend := [r] } }
     d.ev.pend.filter (fun (r : EvRec) => decide (r.hold ≤ d.time.tb)) ≠ []) := by decide +kernel

/-- Reed: a barrier, no words, an address that is no word's; starve and order held: none waits; a reset master with words to write. -/
theorem test_reed_more :
    (0x08000000 % 4 = 0 ∧ 0x08000001 % 4 ≠ 0 ∧ calm.reed.waiting = [] ∧
      (calm.reedCheck 0 0x100000000 4 true).2 = none ∧ AMap.find calm.reed.locks 9 = none) ∧
    (let x : Export := { src := 0, slot := 16, start := 0, count := 0, item := 4, pick := 0, time := 0 }
     let d := { seat calm with loam := { calm.loam with export_ := some x } }
     d.loam.export_ = some x ∧ d.session x.slot = some sess) := by decide +kernel

/-- Marl: a shut-down with a round under way, every step with its last round, spares at each bound. -/
theorem test_marl_more :
    (let r : MarlRun := { op := { rank := 4, kind := .config, item := none }, step := 2, left := 1 }
     let d := { calm with marl := { calm.marl with run := some r } }
     ({ d with therm := { d.therm with shut := 1 } } : Dev).therm.shut ≠ 0 ∧ d.marl.run = some r ∧ r.step ≠ 3 ∧ d.therm.shut = 0) ∧
    (∀ n ∈ [0, 1, 2, 32, 33], ({ calm with nv := { calm.nv with spares := n } } : Dev).nv.spares = n) := by decide +kernel

/-- Calibration: a cell's run in and out of CAL, a lit run, a tile's run at its end, another tile's run; saves that end otherwise. -/
theorem test_calibration_more :
    let r : CalRun := { tile := 15, cell := none, pass := 17, item := none, fails := 0, aborted := false, stage8 := false }
    (∀ m ∈ [Cm.cal, Cm.parked], (let d := { celled m with cal := { runs := [{ r with cell := some 61439, pass := 3 }] } }
      (ofDev d).fabricRuns = true ∧ d.role ≠ Pr.standby ∧ d.cellMode 61439 = m ∧
      (d.cal.runs.find? (fun (r : CalRun) => r.tile = 15 && decide (r.pass = 3))).isSome = true ∧
      d.cal.runs.find? (fun (r : CalRun) => r.tile = 14 && decide (r.pass = 3)) = none)) ∧
    ({ r with lit := true } : CalRun).lit = true ∧
    (let d := { tileAt 8 Tm.cal { stage := 8 } with cal := { runs := [r] } }
     d.cal.runs.find? (fun (r : CalRun) => r.tile = 15 && r.pass = 17) = some r ∧ r.cell = none ∧
     d.cal.runs.find? (fun (r : CalRun) => r.tile = 14 && r.pass = 17) = none) ∧
    AMap.find standby.cal.recs.heads 15 = none ∧ calm.trd.save = none ∧ (calm.wr F.TRD_MIRROR.RATE 0).rd F.TRD_MIRROR.RATE = 0 ∧ standby.controls = false ∧
    (∀ q : MarlRun, calm.marl.run = some q → q.step ≠ 3) := by
  refine ⟨by decide +kernel, by decide +kernel, by decide +kernel, by decide +kernel, by decide +kernel, by decide +kernel, by decide +kernel, ?_⟩
  intro q h
  cases h
end

