-- ==== Sys2Proof/Proofs/StoredWord.lean ====
section
/-! PROOFS. What a stored word (R7) leaves in the register memory: one field at a time, then the whole word. -/

namespace Sys2Proof.Machine
open Sys2Proof

/-! ## Clearing the bits that are written 1 -/

/-- Clearing bits borrows nothing from the bits above, so it commutes with dropping the lowest bit. -/
theorem sub_and_div_two (m x : Nat) : (m - (m &&& x)) / 2 = m / 2 - (m / 2 &&& x / 2) := by
  have hhalf : (m &&& x) / 2 = m / 2 &&& x / 2 := Nat.and_div_two
  have hle : m &&& x ≤ m := Nat.and_le_left
  have hodd : (m &&& x) % 2 = 1 → m % 2 = 1 := fun h => (Nat.and_mod_two_eq_one.mp h).1
  omega

/-- Subtracting the bits that `m` and `x` share clears in `m` the bits of `x`. -/
theorem testBit_sub_and (m x i : Nat) : (m - (m &&& x)).testBit i = (m.testBit i && !x.testBit i) := by
  induction i generalizing m x with
  | zero =>
    have hle : m &&& x ≤ m := Nat.and_le_left
    have hlow : (m &&& x) % 2 = 1 ↔ m % 2 = 1 ∧ x % 2 = 1 := Nat.and_mod_two_eq_one
    rw [Bool.eq_iff_iff]
    simp only [Nat.testBit_zero, Bool.and_eq_true, Bool.not_eq_true', decide_eq_true_eq, decide_eq_false_iff_not]
    omega
  | succ i ih => simp only [Nat.testBit_succ, sub_and_div_two, ih]

/-! ## One field of a stored word -/

/-- The value of a field after a write of `x` over `old`, by its access code (R7). -/
def Acc.stored : Acc → Nat → Nat → Nat
  | .rw, _, x => x
  | .w1c, old, x => old - (old &&& x)
  | _, old, _ => old

/-- The register memory after one field of a word is stored. -/
def storeField (a base : Nat) (idx : List Nat) (v : Nat) (m : List (Nat × Nat)) (f : FRow) : List (Nat × Nat) :=
  let k := a * 32 + f.lo
  let r := rowRst base idx f
  let new := f.acc.stored (AMap.get m k r) (v / 2 ^ f.lo % 2 ^ f.width)
  if f.acc = .rw ∨ f.acc = .w1c then AMap.set m k new r else m

section
variable (a base : Nat) (idx : List Nat) (v : Nat) (m : List (Nat × Nat))

/-- The stored field reads as its access code says. -/
theorem get_storeField_self (f : FRow) :
    AMap.get (storeField a base idx v m f) (a * 32 + f.lo) (rowRst base idx f) =
      f.acc.stored (AMap.get m (a * 32 + f.lo) (rowRst base idx f)) (v / 2 ^ f.lo % 2 ^ f.width) := by
  cases h : f.acc <;> simp [storeField, Acc.stored, h]

/-- A key that is not of a field that takes writes reads as before, with any default. -/
theorem get_storeField_other (f : FRow) (k r : Nat) (h : k = a * 32 + f.lo → f.acc ≠ .rw ∧ f.acc ≠ .w1c) :
    AMap.get (storeField a base idx v m f) k r = AMap.get m k r := by
  unfold storeField
  split
  case isTrue hacc =>
    have hk : k ≠ a * 32 + f.lo := fun e => hacc.elim (h e).1 (h e).2
    exact AMap.get_set_ne _ _ _ _ _ _ hk
  case isFalse => rfl

theorem storeField_wf (f : FRow) (h : AMap.wf m = true) : AMap.wf (storeField a base idx v m f) = true := by
  unfold storeField
  split
  case isTrue => exact AMap.wf_set _ _ _ _ h
  case isFalse => exact h

/-! ## The whole word -/

/-- The first field of a word is stored, then the others. -/
theorem Dev.storeWord_cons (d : Dev) (f : FRow) (fs : List FRow) :
    d.storeWord a base idx (f :: fs) v = ({ d with mem := storeField a base idx v d.mem f } : Dev).storeWord a base idx fs v := by
  cases h : f.acc <;> simp [Dev.storeWord, forEach, storeField, Acc.stored, h]

/-- A stored word changes the register memory alone, field by field. -/
theorem Dev.storeWord_eq (d : Dev) (fields : List FRow) :
    d.storeWord a base idx fields v = { d with mem := fields.foldl (storeField a base idx v) d.mem } := by
  induction fields generalizing d with
  | nil => rfl
  | cons f fs ih => rw [Dev.storeWord_cons, ih, List.foldl_cons]

theorem get_storeFields_other (fields : List FRow) (k r : Nat)
    (h : ∀ f ∈ fields, k = a * 32 + f.lo → f.acc ≠ .rw ∧ f.acc ≠ .w1c) :
    AMap.get (fields.foldl (storeField a base idx v) m) k r = AMap.get m k r := by
  induction fields generalizing m with
  | nil => rfl
  | cons f fs ih =>
    obtain ⟨hf, hfs⟩ := List.forall_mem_cons.mp h
    rw [List.foldl_cons, ih _ hfs, get_storeField_other _ _ _ _ _ _ _ _ hf]

/-- No two fields of a word begin at one bit, so each field reads as its own store left it. -/
theorem get_storeFields_of_mem (fields : List FRow) (hlo : (fields.map FRow.lo).Nodup) (f : FRow) (hf : f ∈ fields) :
    AMap.get (fields.foldl (storeField a base idx v) m) (a * 32 + f.lo) (rowRst base idx f) =
      f.acc.stored (AMap.get m (a * 32 + f.lo) (rowRst base idx f)) (v / 2 ^ f.lo % 2 ^ f.width) := by
  induction fields generalizing m with
  | nil => cases hf
  | cons g gs ih =>
    obtain ⟨hg, hgs⟩ := List.nodup_cons.mp hlo
    have hne : ∀ x ∈ gs, g.lo ≠ x.lo := fun x hx e => hg (e ▸ List.mem_map_of_mem hx)
    rw [List.foldl_cons]
    rcases List.mem_cons.mp hf with rfl | hf
    · rw [get_storeFields_other, get_storeField_self]
      intro x hx e
      exact absurd (Nat.add_left_cancel e) (hne x hx)
    · rw [ih _ hgs hf, get_storeField_other]
      intro e
      exact absurd (Nat.add_left_cancel e).symm (hne f hf)

theorem storeFields_wf (fields : List FRow) (h : AMap.wf m = true) :
    AMap.wf (fields.foldl (storeField a base idx v) m) = true := by
  induction fields generalizing m with
  | nil => exact h
  | cons f fs ih => exact ih _ (storeField_wf a base idx v m f h)

end

/-- Settles O10: the word is stored field by field, and each field's store is read back under its access code. -/
theorem storedWordTakesAccessCodes : Obligations.StoredWordTakesAccessCodes := by
  intro d e a base idx fields v hlo _ he
  rw [Dev.storeWord_eq] at he
  subst he
  refine ⟨?_, ?_, ?_, ?_, rfl⟩
  · intro f hf hacc
    rw [get_storeFields_of_mem a base idx v d.mem fields hlo f hf, hacc]
    rfl
  · intro f hf hacc i
    rw [get_storeFields_of_mem a base idx v d.mem fields hlo f hf, hacc]
    exact testBit_sub_and _ _ i
  · exact get_storeFields_other a base idx v d.mem fields
  · exact storeFields_wf a base idx v d.mem fields

end Sys2Proof.Machine
end

