-- ==== Sys2Proof/Proofs/PickBoundary.lean ====
section
/-! PROOFS. The pick: the length of picks and beats (R12), and the boundary between two picks (R13). -/

namespace Sys2Proof.Machine
open Sys2Proof

/-! ## Picks and beats (R12) -/

/-- A pick lasts as many nanoseconds as the divisor of its rate. -/
theorem Dev.pickNs_of_rate {d : Dev} {r : Nat} (h : d.pick.rate = r) : d.pickNs = divisor r := by
  rw [Dev.pickNs, h]

/-- From the pick of the last change of rate on, each boundary comes one pick after the one before it. -/
theorem Dev.tbOf_succ (d : Dev) (k : Nat) (hk : d.pick.chgPick ≤ k) : d.tbOf (k + 1) = d.tbOf k + d.pickNs := by
  simp only [Dev.tbOf, Dev.pickNs, Nat.sub_add_comm hk, Nat.add_mul, Nat.one_mul, Nat.add_assoc]

/-- Settles O15: a pick is the divisor of its rate, and a beat multiplies it. -/
theorem pickLengths : Obligations.PickLengths := by
  refine ⟨fun _ => Dev.pickNs_of_rate, fun _ => Dev.pickNs_of_rate, fun _ => Dev.pickNs_of_rate, fun _ => Dev.pickNs_of_rate,
    fun d hbeat => ?_, Dev.tbOf_succ⟩
  rw [hbeat]
  refine ⟨fun h => ?_, fun h => ?_, fun h => ?_, fun h => ?_⟩ <;> rw [Dev.pickNs_of_rate h] <;> rfl

/-! ## The DAC clock up to the boundary -/

/-- With no act placed, the DAC clock runs and nothing changes. -/
theorem Dev.dacUpTo_of_agenda_nil {d : Dev} (t : Nat) (h : d.dac.agenda = []) : d.dacUpTo t = d := by
  simp only [Dev.dacUpTo, h, List.length_nil, Nat.mul_zero, Dev.dacRun]

/-! ## The boundary (R13) -/

/-- A block that is not held takes the boundary. -/
theorem exec_pickBoundary {s : State} (slack : List Nat) (h : s.runs = true) :
    exec (.pickBoundary slack) s = .next (s.put (s.dev.pickBoundary slack)) :=
  State.run_acts s _ (by simpa [State.runs] using h)

/-- The boundary that comes has the number due next. -/
@[simp] theorem Dev.nextBoundary_num (d : Dev) : d.nextBoundary.pick.num = d.nextPick := rfl
@[simp] theorem Dev.nextBoundary_started (d : Dev) : d.nextBoundary.pick.started = true := rfl

/-- Settles O14: the command runs `Dev.pickBoundary`, whose stages are the pick that ends, the DAC's edges, the number and the work. -/
theorem pickBoundaryActs : Obligations.PickBoundaryActs := by
  refine ⟨?boundary, fun d => ⟨d.nextBoundary_num, d.nextBoundary_started⟩, fun _ t => Dev.dacUpTo_of_agenda_nil t⟩
  case boundary =>
    rintro s slack hruns w e rfl rfl
    exact exec_pickBoundary slack hruns

end Sys2Proof.Machine
end

