-- ==== Sys2Proof/Proofs/Adjacency.lean ====
section
/-! PROOFS. The geometry of the cells: a cell's number gives back its place in the tile, and the cells adjacent to it are its neighbours
in the grid of stages and elements (R29). -/

namespace Sys2Proof.Machine
open Sys2Proof

/-! ## The coordinates of a numbered cell -/

/-- A stage and a tile hold whole rows of 256 elements. -/
theorem cellElem_cellNo (t j : Nat) {e : Nat} (he : e < 256) : cellElem (cellNo t j e) = e := by
  unfold cellElem cellNo
  omega

theorem cellStage_cellNo (t : Nat) {j e : Nat} (hj : j < 15) (he : e < 256) : cellStage (cellNo t j e) = j := by
  unfold cellStage cellNo
  omega

/-! ## One step in the grid -/

theorem cellNo_pred_elem (t j : Nat) {e : Nat} (he : 0 < e) : cellNo t j (e - 1) = cellNo t j e - 1 := by
  unfold cellNo
  omega

theorem cellNo_succ_elem (t j e : Nat) : cellNo t j (e + 1) = cellNo t j e + 1 := by
  unfold cellNo
  omega

theorem cellNo_pred_stage (t e : Nat) {j : Nat} (hj : 0 < j) : cellNo t (j - 1) e = cellNo t j e - 256 := by
  unfold cellNo
  omega

theorem cellNo_succ_stage (t j e : Nat) : cellNo t (j + 1) e = cellNo t j e + 256 := by
  unfold cellNo
  omega

/-! ## Adjacency (R29) -/

/-- The adjacent cells by number: one away inside the stage, 256 away inside the tile. -/
theorem mem_adjacent (c x : Nat) :
    x ∈ adjacent c ↔
      (0 < cellElem c ∧ x = c - 1) ∨ (cellElem c < 255 ∧ x = c + 1) ∨
      (0 < cellStage c ∧ x = c - 256) ∨ (cellStage c < 14 ∧ x = c + 256) := by
  simp only [adjacent, List.mem_append, List.mem_ite_nil_right, List.mem_singleton, or_assoc, gt_iff_lt]

/-- Settles O16: each of the four numbers that `mem_adjacent` gives is that of the neighbour one step away in the grid. -/
theorem adjacencyIsR29 : Obligations.AdjacencyIsR29 := by
  intro t j e x _ hj he
  rw [mem_adjacent, cellElem_cellNo t j he, cellStage_cellNo t hj he]
  have hleft : (0 < e ∧ x = cellNo t j e - 1) ↔ (0 < e ∧ x = cellNo t j (e - 1)) :=
    and_congr_right fun h => by rw [cellNo_pred_elem t j h]
  have hright : (e < 255 ∧ x = cellNo t j e + 1) ↔ (e + 1 < 256 ∧ x = cellNo t j (e + 1)) :=
    and_congr Nat.succ_lt_succ_iff.symm (by rw [cellNo_succ_elem])
  have hbefore : (0 < j ∧ x = cellNo t j e - 256) ↔ (0 < j ∧ x = cellNo t (j - 1) e) :=
    and_congr_right fun h => by rw [cellNo_pred_stage t e h]
  have hafter : (j < 14 ∧ x = cellNo t j e + 256) ↔ (j + 1 < 15 ∧ x = cellNo t (j + 1) e) :=
    and_congr Nat.succ_lt_succ_iff.symm (by rw [cellNo_succ_stage])
  rw [hleft, hright, hbefore, hafter]

end Sys2Proof.Machine
end

