-- ==== Sys2Proof/Proofs/Commands.lean ====
section
/-! PROOFS. How a command comes to its effect: a command to a block that runs, a host item at the meaning of its opcode. -/

namespace Sys2Proof.Machine
open Sys2Proof

/-! ## Commands -/

@[simp] theorem State.put_dev (s : State) : s.put s.dev = s := rfl

/-- A command with good operands to a block that is not held has its effect. -/
theorem State.run_of_runs {s : State} {ok : Bool} (f : Dev → Dev) (ho : ok = true) (h : s.runs = true) :
    s.run ok f = .next (s.put (f s.dev)) :=
  s.run_acts_if ok f ho (by simpa [State.runs] using h)

/-- The same of a fabric block that no shut-down has stopped. -/
theorem State.live_of_fabricRuns {s : State} {ok : Bool} (f : Dev → Dev) (ho : ok = true) (h : s.fabricRuns = true) :
    s.live ok f = .next (s.put (f s.dev)) := by
  obtain ⟨hheld, hshut⟩ : s.dev.held = false ∧ s.dev.therm.shut < 2 := by simpa [State.fabricRuns] using h
  exact s.live_acts ok f ho hheld hshut

/-! ## Items -/

section
variable {row : ItemSrc → List Byte → Instr} {op : Nat} {cond : Dev → ItemIn → Prop} {eff : Dev → ItemIn → Dev}

/-- The row is the row of a host item with this opcode. -/
def RowOf (row : ItemSrc → List Byte → Instr) (op : Nat) : Prop :=
  ∀ (src : ItemSrc) (par : List Byte) (s : State), exec (row src par) s = s.run true (fun d => d.itemRow src op par)

/-- An opcode whose item ends at once. -/
theorem itemEnds_of_runItem {status : Nat} {result : Dev → ItemIn → List Byte} (hrow : RowOf row op) (hst : status ≠ St.pending)
    (hrun : ∀ d x, cond d x → d.runItem x op = (eff d x, status, result d x)) : ItemEnds row op status cond eff result := by
  intro s src ss par hs hreach hcond hfits
  rw [hrow, State.run_of_runs _ rfl hs, Dev.itemRow_runs _ src ss op par hreach, hrun _ _ hcond, Dev.settle_ends _ _ _ _ _ hst hfits]

/-- An opcode whose item goes on. -/
theorem itemGoesOn_of_runItem (hrow : RowOf row op) (hrun : ∀ d x, cond d x → d.runItem x op = (eff d x).ends St.pending) :
    ItemGoesOn row op cond eff := by
  intro s src ss par hs hreach hcond
  rw [hrow, State.run_of_runs _ rfl hs, Dev.itemRow_runs _ src ss op par hreach, hrun _ _ hcond, Dev.ends, Dev.settle_pending]
end

end Sys2Proof.Machine
end

