-- ==== Sys2Proof/Proofs/LoopsAndCells.lean ====
section
/-! PROOFS. Loops and cells inside a pick: the step of a loop (R61), the timers of a cell (R98, R105, R106), the loss trip (R146). -/

namespace Sys2Proof.Machine
open Sys2Proof

/-! ## The commands -/

theorem exec_loopStep {s : State} {l : Nat} (h : s.fabricRuns = true) (hl : l < 65536) :
    exec (.loopStep l) s = .next (s.put (s.dev.loopStep l)) :=
  State.live_of_fabricRuns _ (decide_eq_true hl) h

theorem exec_switchMaxExpiry {s : State} {c : Nat} (h : s.fabricRuns = true) (hc : c < 61440) :
    exec (.switchMaxExpiry c) s = .next (s.put (s.dev.switchMaxExpiry c)) :=
  State.live_of_fabricRuns _ (decide_eq_true hc) h

theorem exec_settleEnd {s : State} {c : Nat} (h : s.fabricRuns = true) (hc : c < 61440) :
    exec (.settleEnd c) s = .next (s.put (s.dev.settleEnd c)) :=
  State.live_of_fabricRuns _ (decide_eq_true hc) h

theorem exec_cellFaultQuiet {s : State} {c : Nat} (h : s.fabricRuns = true) (hc : c < 61440) :
    exec (.cellFaultQuiet c) s = .next (s.put (s.dev.cellFaultQuiet c)) :=
  State.live_of_fabricRuns _ (decide_eq_true hc) h

theorem exec_lossTrip {s : State} {l : Nat} (h : s.fabricRuns = true) (hl : l < 65536) :
    exec (.lossTrip l) s = .next (s.put (s.dev.lossTrip l)) :=
  State.live_of_fabricRuns _ (decide_eq_true hl) h

/-! ## A loop's step (R56, R61, R177) -/

/-- The loop may step now: the unit controls the fabric, the loop's tile is ACTIVE and its chunk open, and this pick is one of its picks and
has not seen it step (R56). -/
structure Dev.StepTaken (d : Dev) (l : Nat) : Prop where
  isLoop : l < 65536
  controls : d.controls = true
  role : d.tileRole (loopTile l) ≠ 0
  active : d.tileMode (loopTile l) = Tm.active
  isOpen : d.stepOpen l = true
  notYet : (d.laux l).stepped ≠ some d.pick.num
  isDue : d.stepDue l = true

theorem Dev.stepLoop_of_stepTaken {d : Dev} {l : Nat} (h : d.StepTaken l) :
    d.stepLoop l =
      if isVoa l then (d.keepLoop l).voaStep l
      else if d.flag (F.LOOP.EN l) && (d.cellMode (loopCell l) = Cm.hold || d.cellMode (loopCell l) = Cm.switch ||
          d.cellMode (loopCell l) = Cm.settle || d.cellMode (loopCell l) = Cm.piece) then (d.keepLoop l).thStep l
      else d := by
  obtain ⟨hl, hc, hr, ha, ho, hs, hd⟩ := h
  simp only [Dev.stepLoop, hc, hr, ha, ho, hs, hd, Nat.not_le.mpr hl, decide_false, Bool.not_true, Bool.or_false, ne_eq, not_true,
    Bool.false_eq_true, if_false]

theorem Dev.stepLoop_voa {d : Dev} {l : Nat} (h : d.StepTaken l) (hv : isVoa l = true) : d.stepLoop l = (d.keepLoop l).voaStep l := by
  rw [Dev.stepLoop_of_stepTaken h, if_pos hv]

theorem Dev.stepLoop_th {d : Dev} {l : Nat} (h : d.StepTaken l) (hv : isVoa l = false) (hen : d.flag (F.LOOP.EN l) = true)
    (hm : d.cellMode (loopCell l) = Cm.hold ∨ d.cellMode (loopCell l) = Cm.switch ∨ d.cellMode (loopCell l) = Cm.settle ∨
      d.cellMode (loopCell l) = Cm.piece) : d.stepLoop l = (d.keepLoop l).thStep l := by
  rw [Dev.stepLoop_of_stepTaken h, if_neg (by simp [hv]), if_pos (by simpa [hen, or_assoc] using hm)]

section
variable {d : Dev} {l : Nat}

/-- The code that the step of a loop left for the frame is the one that stood there, or its entry still fits. -/
def Dev.StepFits (d : Dev) (l : Nat) : Prop :=
  AMap.find ((d.stepLoop l).link (loopTile l)).codes l = AMap.find (d.link (loopTile l)).codes l ∨
  (AMap.find ((d.stepLoop l).link (loopTile l)).codes l).all (d.entryFits l) = true

theorem Dev.loopStep_of_stepFits (h : d.StepFits l) : d.loopStep l = d.stepLoop l :=
  if_pos (by simpa [Dev.StepFits] using h)

theorem Dev.loopStep_of_not_stepFits (h : ¬ d.StepFits l) :
    d.loopStep l = ((d.omitted l).lateStep l 0).updLaux l (fun a => { a with stepped := some d.pick.num }) :=
  if_neg (by simpa [Dev.StepFits] using h)
end

/-! ## Timers of a cell (R98, R105, R106) -/

theorem Dev.switchMaxExpiry_due {d : Dev} {c : Nat} (hc : d.controls = true) (hm : d.cellMode c = Cm.switch)
    (ht : d.tileMode (cellTile c) = Tm.active) (hdue : (d.caux c).entry + max 1 (d.rd F.CELL_CFG.SWITCH_MAX) ≤ d.pick.num + 1) :
    d.switchMaxExpiry c = d.trigger c 9 (.arrive true) :=
  if_pos (by simp only [hc, hm, ht, hdue, decide_true, Bool.and_self])

theorem Dev.settleEnd_due {d : Dev} {c : Nat} (hc : d.controls = true) (hm : d.cellMode c = Cm.settle)
    (ht : d.tileMode (cellTile c) = Tm.active) (hs : 1 ≤ (d.caux c).steps) (hsh : d.shareAt c (d.tbOf (d.pick.num + 1)) ≤ 1) :
    d.settleEnd c = d.trigger c 9 .settled :=
  if_pos (by simp only [hc, hm, ht, hs, hsh, decide_true, Bool.and_self])

theorem Dev.cellFaultQuiet_due {d : Dev} {c : Nat} (hc : d.controls = true) (hm : d.cellMode c = Cm.faulted) (hs : d.causeStands c = false)
    (hdue : (d.caux c).quietFrom + d.cellQuietNs < d.tbOf (d.pick.num + 1)) (ht : d.tileMode (cellTile c) = Tm.active) :
    d.cellFaultQuiet c = ((d.advance ((d.caux c).quietFrom + d.cellQuietNs)).updAux c (fun a => { a with causes := [] })).trigger c 1 .clear :=
  if_neg (by simp [hc, hm, hs, ht, Nat.not_le.mpr hdue, Tm.active, Tm.holdover])

/-! ## The loss trip (R146) -/

/-- The device with the count of a loop's low steps begun anew. -/
def Dev.tripCleared (d : Dev) (l : Nat) : Dev := { d with cir := { d.cir with trips := AMap.del d.cir.trips l } }

theorem Dev.lossTrip_auto {d : Dev} {l n a : Nat} (hc : d.controls = true)
    (hrun : max 1 (d.rd F.CIRC_CFG.TRIP_PICKS) ≤ AMap.get d.cir.trips l 0) (hport : d.portUse (loopTile l) (l % 256) = some (n, true))
    (halt : (d.tripCleared l).altOf ((d.tripCleared l).eId n) = some a) (hauto : (d.tripCleared l).flag (F.CIR.AUTO a) = true) :
    d.lossTrip l =
      let w := (d.tripCleared l).raise 0x0C 6 ((d.tripCleared l).eId n) ((d.tripCleared l).rd (F.CIR.CSN n))
      if w.flag (F.CIR.BROKEN a) then w.raise 0x0C 4 (w.eId n) (w.rd (F.CIR.CSN n)) else w.queueProtect (w.eId n) := by
  have hgo : (!d.controls || decide (AMap.get d.cir.trips l 0 < max 1 (d.rd F.CIRC_CFG.TRIP_PICKS))) = false := by
    simp [hc, Nat.not_lt.mpr hrun]
  have hauto' : ¬ (!(d.tripCleared l).flag (F.CIR.AUTO a)) = true := by simp [hauto]
  rw [Dev.lossTrip, hgo, if_neg Bool.false_ne_true, hport]
  show (match (d.tripCleared l).altOf ((d.tripCleared l).eId n) with | some a => _ | none => _) = _
  rw [halt]
  exact if_neg hauto'

/-- Settles O19: a step that is taken is the loop's own, or late where its entry does not fit; each timer acts when it is due. -/
theorem loopsAndCellsAct : Obligations.LoopsAndCellsAct := by
  refine ⟨?step, ?switch, ?settle, ?quiet, ?loss⟩
  case step =>
    rintro s d l rfl hruns hl hcon hrole hact hopen hnot hdue e hkind new rfl
    have htaken : s.dev.StepTaken l := ⟨hl, hcon, hrole, hact, hopen, hnot, hdue⟩
    have hstep : s.dev.stepLoop l = e := by
      rcases hkind with ⟨hv, rfl⟩ | ⟨hv, hen, hm, rfl⟩
      · exact Dev.stepLoop_voa htaken hv
      · exact Dev.stepLoop_th htaken hv hen hm
    subst hstep
    rw [exec_loopStep hruns hl]
    refine ⟨fun hfit => ?_, fun hne hlate => ?_⟩
    · rw [Dev.loopStep_of_stepFits hfit]
    · rw [Dev.loopStep_of_not_stepFits (not_or.mpr ⟨hne, by simp [hlate]⟩)]
  case switch =>
    rintro s d c rfl hruns hc hcon hm ht hdue
    rw [exec_switchMaxExpiry hruns hc, Dev.switchMaxExpiry_due hcon hm ht hdue]
  case settle =>
    rintro s d c rfl hruns hc hcon hm ht hsteps hshare
    rw [exec_settleEnd hruns hc, Dev.settleEnd_due hcon hm ht hsteps hshare]
  case quiet =>
    rintro s d c rfl hruns hc hcon hm hcause hdue ht
    rw [exec_cellFaultQuiet hruns hc, Dev.cellFaultQuiet_due hcon hm hcause hdue ht]
  case loss =>
    rintro s d e l n a rfl hruns hl hcon hrun hport rfl halt hauto w rfl
    rw [exec_lossTrip hruns hl, Dev.lossTrip_auto hcon hrun hport halt hauto]
    rfl

end Sys2Proof.Machine
end

