-- ==== Sys2Proof/Proofs/PickRegisters.lean ====
section
/-! PROOFS. Registers of the pick and of the pair: when a write is taken, mirrored or refused (R53, R83, R96); CHECK (R51). -/

namespace Sys2Proof.Machine
open Sys2Proof

/-! ## The commands -/

theorem exec_trkCfgWrite {s : State} {n : Nat} (v : Nat) (h : s.runs = true) (hn : n < 4) :
    exec (.trkCfgWrite n v) s = .next (s.put (s.dev.regCommand (R.TRK_CFG n) v)) :=
  State.run_of_runs _ (decide_eq_true hn) h

theorem exec_trkBaseHiWrite {s : State} {n : Nat} (v : Nat) (h : s.runs = true) (hn : n < 4) :
    exec (.trkBaseHiWrite n v) s = .next (s.put (s.dev.regCommand (R.TRK_BASE_HI n) v)) :=
  State.run_of_runs _ (decide_eq_true hn) h

theorem exec_pickCfgWrite {s : State} (v : Nat) (h : s.runs = true) :
    exec (.pickCfgWrite v) s = .next (s.put (s.dev.regCommand R.PICK_CFG v)) :=
  State.run_of_runs _ rfl h

theorem exec_pickNumRead {s : State} (h : s.runs = true) : exec .pickNumRead s = .next (s.put (s.dev.regRead R.PICK_NUM_LO).1) :=
  State.run_of_runs _ rfl h

theorem exec_check {s : State} (v : Nat) (h : s.runs = true) :
    exec (.check v) s = .next (s.put (s.dev.regCommand R.DRAFT_CTRL (putBit v 0 true))) :=
  State.run_of_runs _ rfl h

/-! ## Refused writes -/

theorem Dev.regRejected_TRK_CFG (d : Dev) {n : Nat} (v st : Nat) (hn : n < 4) : d.regRejected (R.TRK_CFG n) v st = d := by
  apply Dev.regRejected_none <;> simp only [R.TRK_CFG, R.SV_INJ] <;> omega

theorem Dev.regRejected_TRK_BASE_HI (d : Dev) {n : Nat} (v st : Nat) (hn : n < 4) : d.regRejected (R.TRK_BASE_HI n) v st = d := by
  apply Dev.regRejected_none <;> simp only [R.TRK_BASE_HI, R.SV_INJ] <;> omega

theorem Dev.regRejected_PICK_CFG (d : Dev) (v st : Nat) : d.regRejected R.PICK_CFG v st = d := by
  apply Dev.regRejected_none <;> decide

theorem Dev.pairOwned_of_pairWritten (d : Dev) {base : Nat} (idx : List Nat) (h : pairWritten base = true) : d.pairOwned base idx = true := by
  rw [Dev.pairOwned, h, Bool.true_or]

/-- A register of the pair is refused on a unit that is not ACTIVE, and where its row refuses the value: where it reports no refusal, the
write has no effect. -/
theorem Dev.regCommand_pairRefused {d : Dev} {a v base : Nat} {idx : List Nat} (h : rowAt a = some (base, idx))
    (hp : pairWritten base = true) (hs : ∀ st, d.regRejected a v st = d)
    (hno : d.isActive = true → ∀ fields, d.rowWrite a base idx fields v = (d, St.valueInvalid)) : d.regCommand a v = d := by
  have hr : ∃ st, st ≠ St.ok ∧ d.regWrite a v = (d, st) := by
    cases hact : d.isActive with
    | false => exact ⟨St.roleStandby, by decide, d.regWrite_standby a v base idx h (d.pairOwned_of_pairWritten idx hp) hact⟩
    | true =>
      exact ⟨St.valueInvalid, by decide, d.regWrite_row a v base idx _ h (by simp [hact]) (hno hact)⟩
  obtain ⟨st, hst, hr⟩ := hr
  rw [d.regCommand_refused a v (by rw [hr]; exact hst), hs]

/-! ## What the rows of these registers do -/

section
variable (d : Dev) (a : Nat) (idx : List Nat) (fields : List FRow) {v : Nat}

theorem Dev.rowWrite_TRK_CFG (h : bits v 5 4 ≠ 3) :
    d.rowWrite a (R.TRK_CFG 0) idx fields v = ((d.atBeat a v).updTrk (idx.headD 0) (fun t => { t with pend := true }), St.ok) := by
  rw [Dev.rowWrite, if_neg (by decide), if_neg (by decide), if_pos rfl, if_neg h]

theorem Dev.rowWrite_TRK_CFG_invalid (h : bits v 5 4 = 3) : d.rowWrite a (R.TRK_CFG 0) idx fields v = (d, St.valueInvalid) := by
  rw [Dev.rowWrite, if_neg (by decide), if_neg (by decide), if_pos rfl, if_pos h]

theorem Dev.rowWrite_TRK_BASE_HI (v : Nat) :
    d.rowWrite a (R.TRK_BASE_HI 0) idx fields v = ((d.atBeat a v).updTrk (idx.headD 0) (fun t => { t with
      pendBase := some (v % 2 ^ 32 * 2 ^ 32 + d.regVal (R.TRK_BASE_LO (idx.headD 0))) }), St.ok) := by
  rw [Dev.rowWrite, if_neg (by decide), if_neg (by decide), if_neg (by decide), if_neg (by decide), if_pos rfl]

theorem Dev.rowWrite_PICK_CFG (v : Nat) : d.rowWrite a R.PICK_CFG idx fields v = d.pickCfg v := by
  rw [Dev.rowWrite, if_neg (by decide), if_pos rfl]

theorem Dev.rowWrite_DRAFT_CTRL (h : bit v 0 = true) : d.rowWrite a R.DRAFT_CTRL idx fields v = (d.draftCheck, St.ok) := by
  rw [Dev.rowWrite, if_pos rfl, if_pos h]
end

/-! ## The pick's configuration and number (R53, R54) -/

theorem Dev.pickCfg_active {d : Dev} {v : Nat} (ha : d.isActive = true) (hb : bits v 6 4 ≤ 4) :
    d.pickCfg v =
      (let w := (d.wr F.PICK_CFG.RATE (bits v 1 0)).wr F.PICK_CFG.BEAT (bits v 6 4)
       let p := { w with pick := { w.pick with due := some (d.pick.due.getD ((d.pick.num + 1) / 64 * 64 + 64)) } }
       p.retime d.pick.num, St.ok) := by
  rw [Dev.pickCfg, if_neg (by simp [ha]), if_neg (Nat.not_lt.mpr hb)]
  rfl

theorem Dev.pickCfg_invalid {d : Dev} {v : Nat} (ha : d.isActive = true) (hb : 4 < bits v 6 4) : d.pickCfg v = (d, St.valueInvalid) := by
  rw [Dev.pickCfg, if_neg (by simp [ha]), if_pos hb]

theorem Dev.regRead_PICK_NUM_LO (d : Dev) : (d.regRead R.PICK_NUM_LO).1 = d.pickNumRead := by
  obtain ⟨fields, h⟩ := regAt_of_rowAt rowAt_PICK_NUM_LO
  simp only [Dev.regRead, h, if_true]

/-! ## CHECK (R51) -/

theorem bit_putBit_zero (v : Nat) (b : Bool) : bit (putBit v 0 b) 0 = b := by
  cases b <;> simp [bit, putBit, putBits, bits] <;> omega

theorem Dev.pairOwned_DRAFT_CTRL (d : Dev) : d.pairOwned R.DRAFT_CTRL [] = false := by
  rw [Dev.pairOwned]; rfl

/-- Settles O21: each command is a write or a read of its register, taken or refused as the pair's rule and its row say. -/
theorem pickRegistersAct : Obligations.PickRegistersAct := by
  refine ⟨?cfg, ?cfgRefused, ?base, ?baseRefused, ?pick, ?pickRefused, ?num, ?check⟩
  case cfg =>
    rintro s d e n v rfl hruns hn hact hv rfl
    have hown := s.dev.pairOwned_of_pairWritten (base := R.TRK_CFG 0) [n] (by decide)
    rw [exec_trkCfgWrite v hruns hn, Dev.regCommand_mirrored _ _ _ v _ _ (rowAt_TRK_CFG n hn) hown (by decide) hact
      fun fields => Dev.rowWrite_TRK_CFG _ _ _ fields hv]
    rfl
  case cfgRefused =>
    rintro s d n v rfl hruns hn hno
    have hno' : s.dev.isActive = true → ∀ fields, s.dev.rowWrite (R.TRK_CFG n) (R.TRK_CFG 0) [n] fields v = (s.dev, St.valueInvalid) :=
      fun hact fields => s.dev.rowWrite_TRK_CFG_invalid _ _ fields (hno.resolve_left (by simp [hact]))
    rw [exec_trkCfgWrite v hruns hn,
      Dev.regCommand_pairRefused (rowAt_TRK_CFG n hn) (by decide) (s.dev.regRejected_TRK_CFG v · hn) hno', State.put_dev]
  case base =>
    rintro s d e n v rfl hruns hn hact rfl
    have hown := s.dev.pairOwned_of_pairWritten (base := R.TRK_BASE_HI 0) [n] (by decide)
    rw [exec_trkBaseHiWrite v hruns hn, Dev.regCommand_mirrored _ _ _ v _ _ (rowAt_TRK_BASE_HI n hn) hown (by decide) hact
      fun fields => Dev.rowWrite_TRK_BASE_HI _ _ _ fields v]
    rfl
  case baseRefused =>
    rintro s d n v rfl hruns hn hact
    rw [exec_trkBaseHiWrite v hruns hn,
      Dev.regCommand_pairRefused (rowAt_TRK_BASE_HI n hn) (by decide) (s.dev.regRejected_TRK_BASE_HI v · hn) (by simp [hact]), State.put_dev]
  case pick =>
    rintro s d w p e v rfl hruns hact hbeat rfl rfl rfl
    have hown := s.dev.pairOwned_of_pairWritten (base := R.PICK_CFG) [] (by decide)
    rw [exec_pickCfgWrite v hruns, Dev.regCommand_mirrored _ _ _ v _ _ rowAt_PICK_CFG hown (by decide) hact
      fun fields => (s.dev.rowWrite_PICK_CFG _ _ fields v).trans (Dev.pickCfg_active hact hbeat)]
  case pickRefused =>
    rintro s d v rfl hruns hno
    have hno' : s.dev.isActive = true → ∀ fields, s.dev.rowWrite R.PICK_CFG R.PICK_CFG [] fields v = (s.dev, St.valueInvalid) :=
      fun hact fields => by rw [Dev.rowWrite_PICK_CFG, Dev.pickCfg_invalid hact (hno.resolve_left (by simp [hact]))]
    rw [exec_pickCfgWrite v hruns,
      Dev.regCommand_pairRefused rowAt_PICK_CFG (by decide) (s.dev.regRejected_PICK_CFG v) hno', State.put_dev]
  case num =>
    rintro s d p rfl hruns rfl
    rw [exec_pickNumRead hruns, Dev.regRead_PICK_NUM_LO]
    rfl
  case check =>
    rintro s d v n rfl hruns rfl
    rw [exec_check v hruns, Dev.regCommand_plain _ _ _ _ _ _ rowAt_DRAFT_CTRL s.dev.pairOwned_DRAFT_CTRL (Dev.pairOwned_DRAFT_CTRL _)
      fun fields => s.dev.rowWrite_DRAFT_CTRL _ _ fields (bit_putBit_zero v true)]
    rfl

end Sys2Proof.Machine
end

