-- ==== Sys2Proof/Proofs/LoopAndTableItems.lean ====
section
/-! PROOFS. Items on loops, coefficient sets, treadle tables and drafts: what each opcode answers, case by case. -/

namespace Sys2Proof.Machine
open Sys2Proof

/-! ## The rows -/

theorem rowOf_loopRead : RowOf .loopRead 0x0400 := fun _ _ _ => rfl
theorem rowOf_loopWrite : RowOf .loopWrite 0x0401 := fun _ _ _ => rfl
theorem rowOf_loopMove : RowOf .loopMove 0x0402 := fun _ _ _ => rfl
theorem rowOf_coefRead : RowOf .coefRead 0x0403 := fun _ _ _ => rfl
theorem rowOf_coefWrite : RowOf .coefWrite 0x0404 := fun _ _ _ => rfl
theorem rowOf_treadleRead : RowOf .treadleRead 0x0500 := fun _ _ _ => rfl
theorem rowOf_treadleWrite : RowOf .treadleWrite 0x0501 := fun _ _ _ => rfl
theorem rowOf_treadleClear : RowOf .treadleClear 0x0502 := fun _ _ _ => rfl
theorem rowOf_treadleSave : RowOf .treadleSave 0x0503 := fun _ _ _ => rfl
theorem rowOf_draftRead : RowOf .draftRead 0x0600 := fun _ _ _ => rfl
theorem rowOf_draftWrite : RowOf .draftWrite 0x0601 := fun _ _ _ => rfl
theorem rowOf_draftLoadPredefined : RowOf .draftLoadPredefined 0x0602 := fun _ _ _ => rfl

section
variable {d : Dev} {x : ItemIn}

/-! ## Loops (R73 - R76) -/

theorem Dev.itemLoopRead_absent (hr : d.tileRole (loopTile (beAt x.par 0 2)) = 0) : d.itemLoopRead x = d.ends St.tileAbsent :=
  if_pos hr

theorem Dev.itemLoopRead_invalid (hr : d.tileRole (loopTile (beAt x.par 0 2)) ≠ 0)
    (h : beAt x.par 2 1 % 4 ≠ 0 ∨ beAt x.par 3 1 = 0 ∨ 0x80 < beAt x.par 2 1 + 4 * beAt x.par 3 1) :
    d.itemLoopRead x = d.ends St.valueInvalid :=
  (if_neg hr).trans (if_pos (by simp only [Bool.or_eq_true, decide_eq_true_eq]; omega))

theorem Dev.itemLoopRead_ok (hr : d.tileRole (loopTile (beAt x.par 0 2)) ≠ 0) (ho : beAt x.par 2 1 % 4 = 0) (hn : 0 < beAt x.par 3 1)
    (hmax : beAt x.par 3 1 ≤ 32) (hend : beAt x.par 2 1 + 4 * beAt x.par 3 1 ≤ 0x80) :
    d.itemLoopRead x =
      d.okWith (wordBytes ((List.range (beAt x.par 3 1)).map (fun i => d.loopWord (beAt x.par 0 2) (beAt x.par 2 1 + 4 * i)))) :=
  (if_neg hr).trans (if_neg (by simp only [Bool.or_eq_true, decide_eq_true_eq]; omega))

theorem Dev.itemLoopWrite_error {st : Nat} (h : d.loopWriteOf x.par = .error st) : d.itemLoopWrite x = d.ends st := by
  rw [Dev.itemLoopWrite, h]

theorem Dev.itemLoopWrite_ok {ws : List (Nat × Nat)} (h : d.loopWriteOf x.par = .ok ws) (hs : d.stagedAddr 0x0401 x.par = false) :
    d.itemLoopWrite x =
      ({ d with loop := { d.loop with
        shadow := ws.foldl (fun (m : List (Nat × Nat)) (kv : Nat × Nat) => AMap.put m kv.1 kv.2) d.loop.shadow
        shadowItems := d.loop.shadowItems ++ [x.item] } } : Dev).ends St.pending := by
  rw [Dev.itemLoopWrite, h]
  exact if_neg (by simp [hs])

/-- A move is accepted where no move that waits names its loop's slot or the slot it goes to. -/
theorem Dev.acceptMove_free {m : Move} (h : ∀ y ∈ d.loop.moves, ∀ i ∈ [d.slotOf y.loop, y.engine * 1024 + y.slot],
      i ≠ d.slotOf m.loop ∧ i ≠ m.engine * 1024 + m.slot) :
    d.acceptMove m =
      some ((({ d with loop := { d.loop with moves := d.loop.moves ++ [m] } } : Dev).keepLoop m.loop).setFlag (F.LOOP.MOVING m.loop) true) :=
  if_neg (by simpa using h)

theorem Dev.acceptMove_named {m : Move} (h : ∃ y ∈ d.loop.moves, ∃ i ∈ [d.slotOf y.loop, y.engine * 1024 + y.slot],
      i = d.slotOf m.loop ∨ i = m.engine * 1024 + m.slot) : d.acceptMove m = none :=
  if_pos (by simpa using h)

/-- The move that the item asks for. -/
def ItemIn.move (x : ItemIn) : Move := { loop := beAt x.par 0 2, engine := beAt x.par 2 1, slot := beAt x.par 4 2, item := some x.item }

theorem Dev.itemLoopMove_invalid (hr : d.tileRole (loopTile (beAt x.par 0 2)) ≠ 0)
    (h : 63 < beAt x.par 2 1 ∨ 1023 < beAt x.par 4 2 ∨ d.engineOf (beAt x.par 0 2) = beAt x.par 2 1) :
    d.itemLoopMove x = d.ends St.valueInvalid :=
  (if_neg hr).trans (if_pos (by simpa [or_assoc] using h))

section
variable (hr : d.tileRole (loopTile (beAt x.par 0 2)) ≠ 0) (he : beAt x.par 2 1 < 64) (hs : beAt x.par 4 2 < 1024)
  (hne : d.engineOf (beAt x.par 0 2) ≠ beAt x.par 2 1)
include hr he hs hne

/-- A move of a loop to a slot of another engine is accepted or not. -/
theorem Dev.itemLoopMove_judged : d.itemLoopMove x =
    match d.acceptMove x.move with
    | some e => e.ends St.pending
    | none => d.ends St.busy := by
  have hgood : ¬ (decide (63 < beAt x.par 2 1) || decide (1023 < beAt x.par 4 2) ||
      decide (d.engineOf (beAt x.par 0 2) = beAt x.par 2 1)) = true := by
    simp only [Bool.or_eq_true, decide_eq_true_eq]; omega
  exact (if_neg hr).trans (if_neg hgood)

theorem Dev.itemLoopMove_accepted {e : Dev} (h : d.acceptMove x.move = some e) : d.itemLoopMove x = e.ends St.pending := by
  rw [Dev.itemLoopMove_judged hr he hs hne, h]

theorem Dev.itemLoopMove_busy (h : d.acceptMove x.move = none) : d.itemLoopMove x = d.ends St.busy := by
  rw [Dev.itemLoopMove_judged hr he hs hne, h]
end

/-! ## Coefficient sets (R70 - R72) -/

theorem Dev.itemCoefRead_invalid (h : 63 < beAt x.par 0 1 ∨ beAt x.par 1 1 % 4 ≠ 0 ∨ beAt x.par 2 1 = 0 ∨
      0x100 < beAt x.par 1 1 + 4 * beAt x.par 2 1) : d.itemCoefRead x = d.ends St.valueInvalid :=
  if_pos (by simpa [or_assoc] using h)

theorem Dev.itemCoefRead_ok (hset : beAt x.par 0 1 < 64) (ho : beAt x.par 1 1 % 4 = 0) (hn : 0 < beAt x.par 2 1)
    (hend : beAt x.par 1 1 + 4 * beAt x.par 2 1 ≤ 0x100) :
    d.itemCoefRead x = d.okWith (wordBytes (((d.setWords (beAt x.par 0 1)).drop (beAt x.par 1 1 / 4)).take (beAt x.par 2 1))) :=
  if_neg (by simp only [Bool.or_eq_true, decide_eq_true_eq]; omega)

theorem Dev.itemCoefWrite_standby (hc : d.controls = false) : d.itemCoefWrite x = d.ends St.roleStandby :=
  if_pos (by simp [hc])

/-- The device with field values put into the coefficients' shadow for an item. -/
def Dev.coefShadowed (d : Dev) (ws : List (Nat × Nat)) (item : Nat) : Dev :=
  { d with loop := { d.loop with
      coefShadow := ws.foldl (fun (m : List (Nat × Nat)) (kv : Nat × Nat) => AMap.put m kv.1 kv.2) d.loop.coefShadow
      coefItems := d.loop.coefItems ++ [item] } }

theorem Dev.itemCoefWrite_ok {ws : List (Nat × Nat)} (hc : d.controls = true) (h : coefWriteOf x.par = .ok ws)
    (hs : d.stagedAddr 0x0404 x.par = false) :
    d.itemCoefWrite x =
      (let e := d.coefShadowed ws x.item
       e.mirrorConfig [(beAt x.par 0 1, .coefSet ((forEach e.loop.coefShadow (fun (kv : Nat × Nat) (d : Dev) => d.putCoefKey kv.1 kv.2) e).setWords
         (beAt x.par 0 1)))] (some x.item)).ends St.pending := by
  rw [Dev.itemCoefWrite, if_neg (by simp [hc]), h]
  exact if_neg (by simp [hs])

/-! ## Treadle tables (R88, R92, R95) -/

theorem Dev.itemTreadleRead_ok (hr : d.tileRole (loopTile (beAt x.par 0 2)) ≠ 0) :
    d.itemTreadleRead x = d.okWith ((List.range 256).flatMap (fun b => beBytes 2 (d.binRd (beAt x.par 0 2) b))) :=
  if_neg hr

theorem Dev.itemTreadleWrite_refused (h : d.tableStatus (beAt x.par 0 2) ≠ St.ok) :
    d.itemTreadleWrite x = d.ends (d.tableStatus (beAt x.par 0 2)) :=
  if_pos h

theorem Dev.itemTreadleWrite_ok (h : d.tableStatus (beAt x.par 0 2) = St.ok) (hs : d.stagedAddr 0x0501 x.par = false) :
    d.itemTreadleWrite x =
      ({ d with trd := { d.trd with write := d.trd.write ++ [(beAt x.par 0 2, tablePairs (x.par.drop 4), x.item)] } } : Dev).ends St.pending :=
  (if_neg (not_not_intro h)).trans (if_neg (by simp [hs]))

/-- What a clear asks for: one loop, or the loops of a class. -/
def Dev.clearAsked (d : Dev) (x : ItemIn) : ClrReq :=
  if beAt x.par 0 1 = 0 then { loops := [beAt x.par 2 2], others := false, but := [], item := some x.item }
  else { d.classLoops (beAt x.par 2 2) with item := some x.item }

theorem Dev.itemTreadleClear_invalid (h : 1 < beAt x.par 0 1 ∨ beAt x.par 0 1 = 1 ∧ 15 < beAt x.par 2 2) :
    d.itemTreadleClear x = d.ends St.valueInvalid :=
  if_pos (by simpa using h)

theorem Dev.itemTreadleClear_absent (hsel : beAt x.par 0 1 = 0) (hr : d.tileRole (loopTile (beAt x.par 2 2)) = 0) :
    d.itemTreadleClear x = d.ends St.tileAbsent :=
  (if_neg (by simp [hsel])).trans (if_pos (by simp [hsel, hr]))

/-- A clear of a loop that exists, or of a class: refused where the open transaction has staged a table that it names. -/
theorem Dev.itemTreadleClear_judged (h : beAt x.par 0 1 = 0 ∧ d.tileRole (loopTile (beAt x.par 2 2)) ≠ 0 ∨
      beAt x.par 0 1 = 1 ∧ beAt x.par 2 2 < 16) :
    d.itemTreadleClear x =
      if d.cheda.txn.any (fun (t : Txn) => t.staged.any (fun (s : Staged) => s.op = 0x0501 && (d.clearAsked x).names (beAt s.par 0 2))) then
        d.ends St.busy
      else ({ d with trd := { d.trd with clears := d.trd.clears ++ [d.clearAsked x] } } : Dev).ends St.pending := by
  rcases h with ⟨hsel, hr⟩ | ⟨hsel, hv⟩
  · simp only [Dev.itemTreadleClear, Dev.clearAsked, hsel, hr]
    rfl
  · simp only [Dev.itemTreadleClear, Dev.clearAsked, hsel, Nat.not_lt.mpr (Nat.le_of_lt_succ hv)]
    rfl

theorem Dev.itemTreadleSave_busy (h : d.trd.save.isSome = true) : d.itemTreadleSave x = d.ends St.busy := by
  rw [Dev.itemTreadleSave, Dev.treadleSaveStart, if_pos h]

theorem Dev.itemTreadleSave_ok (h : d.trd.save = none) :
    d.itemTreadleSave x =
      (({ d with trd := { d.trd with save := some { item := some x.item, gen := d.treadleGen } } } : Dev).marlAsk 3 .treadle
        (some x.item)).ends St.pending := by
  rw [Dev.itemTreadleSave, Dev.treadleSaveStart, if_neg (by simp [h])]

/-! ## Drafts (R37, R46) -/

theorem Dev.itemDraftRead_invalid (h : 1 < beAt x.par 0 1 ∨ beAt x.par 2 2 < 4 ∨ 4096 < beAt x.par 2 2 ∨ beAt x.par 2 2 % 4 ≠ 0 ∨
      beAt x.par 4 4 % 4 ≠ 0 ∨ 131072 < beAt x.par 4 4 + beAt x.par 2 2) : d.itemDraftRead x = d.ends St.valueInvalid :=
  if_pos (by simpa [or_assoc] using h)

theorem Dev.itemDraftRead_ok (hslot : beAt x.par 0 1 ≤ 1) (hmin : 4 ≤ beAt x.par 2 2) (hmax : beAt x.par 2 2 ≤ 4096)
    (hn : beAt x.par 2 2 % 4 = 0) (ho : beAt x.par 4 4 % 4 = 0) (hend : beAt x.par 4 4 + beAt x.par 2 2 ≤ 131072) :
    d.itemDraftRead x = d.okWith (wordBytes ((List.range (beAt x.par 2 2 / 4)).map (fun i =>
      draftWord (if beAt x.par 0 1 = 0 then d.draft.active else d.draft.staged) (beAt x.par 4 4 + 4 * i)))) :=
  if_neg (by simp only [Bool.or_eq_true, decide_eq_true_eq]; omega)

variable {op : Nat}

theorem Dev.itemDraftPut_standby (ha : d.isActive = false) : d.itemDraftPut x op = d.ends St.roleStandby :=
  if_pos (by simp [ha])

section
variable (ha : d.isActive = true)
include ha

theorem Dev.itemDraftPut_invalid (hf : draftForm op x.par ≠ St.ok) : d.itemDraftPut x op = d.ends (draftForm op x.par) :=
  (if_neg (by simp [ha])).trans (if_pos hf)

theorem Dev.itemDraftPut_busy (hf : draftForm op x.par = St.ok) (h : d.draftLocked = true ∨ d.stagedAddr op x.par = true) :
    d.itemDraftPut x op = d.ends St.busy :=
  (if_neg (by simp [ha])).trans ((if_neg (not_not_intro hf)).trans (if_pos (by simpa using h)))

theorem Dev.itemDraftPut_ok (hf : draftForm op x.par = St.ok) (hl : d.draftLocked = false) (hs : d.stagedAddr op x.par = false) :
    d.itemDraftPut x op =
      ((({ d with draft := { d.draft with staged := draftPut d.draft.staged op x.par } } : Dev).mirrorConfig [(0, .staged op x.par)]
        (some x.item)).finishAcked x.item St.ok []).ends St.pending :=
  (if_neg (by simp [ha])).trans ((if_neg (not_not_intro hf)).trans (if_neg (by simp [hl, hs])))
end
end

/-- Settles O49: each row comes to its opcode's meaning, and each clause is one case of that meaning. -/
theorem loopAndTableItemsAct : Obligations.LoopAndTableItemsAct := by
  refine ⟨?loopRead, ?loopWrite, ?loopWriteError, ?loopReadAbsent, ?loopReadInvalid, ?move, ?moveBusy, ?moveInvalid, ?coefRead,
    ?coefReadInvalid, ?coefStandby, ?coefWrite, ?treadleRead, ?treadleWrite, ?treadleRefused, ?clear, ?clearBusy, ?clearInvalid,
    ?clearAbsent, ?save, ?saveBusy, ?draftRead, ?draftReadInvalid, ?draftPut⟩
  case loopRead =>
    exact itemEnds_of_runItem rowOf_loopRead (by decide) fun d x ⟨hr, ho, hn, hmax, hend⟩ => Dev.itemLoopRead_ok hr ho hn hmax hend
  case loopWrite => exact fun ws => itemGoesOn_of_runItem rowOf_loopWrite fun d x ⟨h, hs⟩ => Dev.itemLoopWrite_ok h hs
  case loopWriteError =>
    exact fun st hst => itemEnds_of_runItem rowOf_loopWrite hst fun d x h => Dev.itemLoopWrite_error h
  case loopReadAbsent => exact itemEnds_of_runItem rowOf_loopRead (by decide) fun d x h => Dev.itemLoopRead_absent h
  case loopReadInvalid => exact itemEnds_of_runItem rowOf_loopRead (by decide) fun d x ⟨hr, h⟩ => Dev.itemLoopRead_invalid hr h
  case move =>
    exact itemGoesOn_of_runItem rowOf_loopMove fun d x ⟨hr, he, hs, hne, hfree⟩ =>
      Dev.itemLoopMove_accepted hr he hs hne (Dev.acceptMove_free hfree)
  case moveBusy =>
    exact itemEnds_of_runItem rowOf_loopMove (by decide) fun d x ⟨hr, he, hs, hne, hnamed⟩ =>
      Dev.itemLoopMove_busy hr he hs hne (Dev.acceptMove_named hnamed)
  case moveInvalid => exact itemEnds_of_runItem rowOf_loopMove (by decide) fun d x ⟨hr, h⟩ => Dev.itemLoopMove_invalid hr h
  case coefRead =>
    exact itemEnds_of_runItem rowOf_coefRead (by decide) fun d x ⟨hset, ho, hn, hend⟩ => Dev.itemCoefRead_ok hset ho hn hend
  case coefReadInvalid => exact itemEnds_of_runItem rowOf_coefRead (by decide) fun d x h => Dev.itemCoefRead_invalid h
  case coefStandby => exact itemEnds_of_runItem rowOf_coefWrite (by decide) fun d x h => Dev.itemCoefWrite_standby h
  case coefWrite => exact fun ws => itemGoesOn_of_runItem rowOf_coefWrite fun d x ⟨hc, h, hs⟩ => Dev.itemCoefWrite_ok hc h hs
  case treadleRead => exact itemEnds_of_runItem rowOf_treadleRead (by decide) fun d x h => Dev.itemTreadleRead_ok h
  case treadleWrite => exact itemGoesOn_of_runItem rowOf_treadleWrite fun d x ⟨h, hs⟩ => Dev.itemTreadleWrite_ok h hs
  case treadleRefused =>
    refine fun st hok hpend => itemEnds_of_runItem rowOf_treadleWrite hpend ?_
    rintro d x rfl
    exact Dev.itemTreadleWrite_refused hok
  case clear =>
    exact itemGoesOn_of_runItem rowOf_treadleClear fun d x ⟨htxn, h⟩ => (Dev.itemTreadleClear_judged h).trans (if_neg (by simp [htxn]))
  case clearBusy =>
    refine itemEnds_of_runItem rowOf_treadleClear (by decide) ?_
    rintro d x ⟨hsel, hr, t, htxn, s, hs, hop, hloop⟩
    refine (Dev.itemTreadleClear_judged (.inl ⟨hsel, hr⟩)).trans (if_pos ?_)
    have hnames : (d.clearAsked x).names (beAt s.par 0 2) = true := by simp [Dev.clearAsked, hsel, ClrReq.names, hloop]
    rw [htxn]
    exact List.any_eq_true.mpr ⟨s, hs, by simp [hop, hnames]⟩
  case clearInvalid => exact itemEnds_of_runItem rowOf_treadleClear (by decide) fun d x h => Dev.itemTreadleClear_invalid h
  case clearAbsent =>
    exact itemEnds_of_runItem rowOf_treadleClear (by decide) fun d x ⟨hsel, hr⟩ => Dev.itemTreadleClear_absent hsel hr
  case save => exact itemGoesOn_of_runItem rowOf_treadleSave fun d x h => Dev.itemTreadleSave_ok h
  case saveBusy => exact itemEnds_of_runItem rowOf_treadleSave (by decide) fun d x h => Dev.itemTreadleSave_busy h
  case draftRead =>
    exact itemEnds_of_runItem rowOf_draftRead (by decide) fun d x ⟨hslot, hmin, hmax, hn, ho, hend⟩ =>
      Dev.itemDraftRead_ok hslot hmin hmax hn ho hend
  case draftReadInvalid => exact itemEnds_of_runItem rowOf_draftRead (by decide) fun d x h => Dev.itemDraftRead_invalid h
  case draftPut =>
    intro row op hrow
    have hrun : RowOf row op ∧ ∀ (d : Dev) (x : ItemIn), d.runItem x op = d.itemDraftPut x op := by
      rcases hrow with ⟨rfl, rfl⟩ | ⟨rfl, rfl⟩
      · exact ⟨rowOf_draftWrite, fun _ _ => rfl⟩
      · exact ⟨rowOf_draftLoadPredefined, fun _ _ => rfl⟩
    obtain ⟨hrow, hput⟩ := hrun
    refine ⟨?standby, ?invalid, ?busy, ?good⟩
    case standby => exact itemEnds_of_runItem hrow (by decide) fun d x ha => (hput d x).trans (Dev.itemDraftPut_standby ha)
    case invalid =>
      refine fun st hok hpend => itemEnds_of_runItem hrow hpend ?_
      rintro d x ⟨ha, rfl⟩
      exact (hput d x).trans (Dev.itemDraftPut_invalid ha hok)
    case busy =>
      exact itemEnds_of_runItem hrow (by decide) fun d x ⟨ha, hf, h⟩ => (hput d x).trans (Dev.itemDraftPut_busy ha hf h)
    case good =>
      exact itemGoesOn_of_runItem hrow fun d x ⟨ha, hf, hl, hs⟩ => (hput d x).trans (Dev.itemDraftPut_ok ha hf hl hs)

end Sys2Proof.Machine
end

