-- ==== Sys2Proof/Proofs/Treadle.lean ====
section
/-! PROOFS. The treadle: the trackers' timers (R82, R83), the mirror sweep (R93), saves of the tables (R95). -/

namespace Sys2Proof.Machine
open Sys2Proof

/-! ## The commands -/

theorem exec_trackerUpdate {s : State} {n : Nat} (h : s.fabricRuns = true) (hn : n < 4) :
    exec (.trackerUpdate n () () () ()) s = .next (s.put (s.dev.trackerUpdate n)) :=
  State.live_of_fabricRuns _ (decide_eq_true hn) h

theorem exec_trackerSourceLoss {s : State} {n : Nat} (h : s.fabricRuns = true) (hn : n < 4) :
    exec (.trackerSourceLoss n) s = .next (s.put (s.dev.trackerSourceLoss n)) :=
  State.live_of_fabricRuns _ (decide_eq_true hn) h

theorem exec_trackerLost {s : State} {n : Nat} (h : s.fabricRuns = true) (hn : n < 4) :
    exec (.trackerLost n) s = .next (s.put (s.dev.trackerLost n)) :=
  State.live_of_fabricRuns _ (decide_eq_true hn) h

theorem exec_treadleMirrorSend {s : State} (h : s.fabricRuns = true) :
    exec .treadleMirrorSend s = .next (s.put s.dev.treadleMirrorSend) :=
  State.live_of_fabricRuns _ rfl h

theorem exec_treadleSaveDone {s : State} {result : Nat} (h : s.fabricRuns = true) (hr : result < 4) :
    exec (.treadleSaveDone result) s = .next (s.put (s.dev.treadleSaveDone result)) :=
  State.live_of_fabricRuns _ (decide_eq_true hr) h

theorem exec_trdSave {s : State} (v : Nat) (h : s.runs = true) :
    exec (.trdSave v) s = .next (s.put (s.dev.regCommand R.TRD_CTRL (putBit v 0 true))) :=
  State.run_of_runs _ rfl h

/-! ## Timers of a tracker (R82, R83) -/

/-- A timer whose instant lies before the next boundary acts when the clock has reached it. -/
theorem Dev.fire_of_before {d : Dev} {due : Nat} (f : Dev → Dev) (h : d.before due = true) : d.fire due f = f (d.wait due) :=
  if_pos (of_decide_eq_true h)

section
variable {d : Dev} {n : Nat}

theorem Dev.trackerUpdate_due (hn : n < 4) (hm : (d.trk n).mode = 1) (hs : d.trkState n ≠ 0)
    (hdue : d.before ((d.trk n).updTb + ((d.trk n).updNo + 1) * nominalPeriod (d.trk n).fund / 16) = true) :
    d.trackerUpdate n =
      (d.wait ((d.trk n).updTb + ((d.trk n).updNo + 1) * nominalPeriod (d.trk n).fund / 16)).trackerMix n :=
  (if_neg (by simp [hn, hm, hs])).trans (Dev.fire_of_before _ hdue)

/-- The device once it has found, more than 1 ms after the last valid word, that the tracker's source is lost. -/
def Dev.sourceLost (d : Dev) (n : Nat) : Dev :=
  ((d.wait ((d.trk n).lastWord + 1000001)).raise 0x1D 10 n 0).updTrk n (fun t => { t with lost := true })

theorem Dev.trackerSourceLoss_due (hn : n < 4) (hm : (d.trk n).mode = 1) (hs : d.trkState n ≠ 0) (hl : (d.trk n).lost = false)
    (hdue : d.before ((d.trk n).lastWord + 1000001) = true) :
    d.trackerSourceLoss n =
      if d.trkState n = 2 then (d.sourceLost n).updTrk n (fun t => { t with goes := some 3 })
      else (d.sourceLost n).updTrk n (fun t => { t with lockRun := 0 }) :=
  (if_neg (by simp [hn, hm, hs, hl])).trans (Dev.fire_of_before _ hdue)

theorem Dev.trackerLost_due (hn : n < 4) (hs : d.trkState n = 3)
    (hdue : d.before ((d.trk n).coastTb + max 1 (d.rd (F.TRK_CFG.COAST_MAX n)) * nominalPeriod (d.trk n).fund) = true) :
    d.trackerLost n =
      (d.wait ((d.trk n).coastTb + max 1 (d.rd (F.TRK_CFG.COAST_MAX n)) * nominalPeriod (d.trk n).fund)).updTrk n
        (fun t => { t with goes := some 4 }) :=
  (if_neg (by simp [hn, hs])).trans (Dev.fire_of_before _ hdue)
end

/-! ## The mirror sweep (R93) -/

theorem Dev.treadleMirrorSend_paused {d : Dev} (h : d.controls = false ∨ d.rd F.TRD_MIRROR.RATE = 0) : d.treadleMirrorSend = d :=
  if_pos (by simpa using h)

/-- With no table changed since its last copy, a sweep ends at once: no record is sent, the next sweep begins now. -/
theorem Dev.treadleMirrorSend_clean {d : Dev} (hc : d.controls = true) (hr : d.rd F.TRD_MIRROR.RATE ≠ 0) (hd : d.trd.dirty = [])
    (hcl : d.trd.dirtyClear = []) :
    d.treadleMirrorSend =
      ({ d with trd := { d.trd with sweepAt := 0, sweepFrom := some d.time.tb } } : Dev).wr F.TRD_SWEEP.SWEEP_MS
        (min ((d.time.tb - d.trd.sweepFrom.getD d.time.tb) / 1000000) 65535) := by
  have hgo : ¬ ((!d.controls || decide (d.rd F.TRD_MIRROR.RATE = 0)) = true) := by simp [hc, hr]
  have hahead : ((List.range 65536).drop d.trd.sweepAt).filter (fun l => d.trd.dirty.contains l) = [] := by simp [hd]
  rw [Dev.treadleMirrorSend, if_neg hgo]
  simp only [hahead]
  simp [hd, hcl]

/-! ## Saves (R95) -/

/-- A run of Marl whose next round is the COMMIT round of a save of the treadle tables. -/
def MarlRun.commitsTreadle (r : MarlRun) : Prop := r.op.kind = .treadle ∧ r.step = 3 ∧ r.left ≤ 1

section
variable {d : Dev}

theorem Dev.treadleSaveDone_commits {x : TrdSave} {r : MarlRun} (hs : d.trd.save = some x) (hrun : d.marl.run = some r)
    (hr : r.commitsTreadle) : d.treadleSaveDone 1 = d.marlRound true := by
  obtain ⟨hkind, hstep, hleft⟩ := hr
  simp [Dev.treadleSaveDone, hs, hrun, hkind, hstep, hleft]

theorem Dev.treadleSaveDone_noSave (result : Nat) (hs : d.trd.save = none) : d.treadleSaveDone result = d :=
  if_pos (by simp [hs])

theorem Dev.treadleSaveDone_zero (d : Dev) : d.treadleSaveDone 0 = d := by
  simp [Dev.treadleSaveDone]

/-- No COMMIT round of a save is under way, so none completes. -/
theorem Dev.treadleSaveDone_noCommit (h : ∀ r, d.marl.run = some r → ¬ r.commitsTreadle) : d.treadleSaveDone 1 = d := by
  have hno : d.marl.run.any (fun r => decide (r.op.kind = MarlKind.treadle) && decide (r.step = 3) && decide (r.left ≤ 1)) = false := by
    cases hrun : d.marl.run with
    | none => rfl
    | some r => simpa [MarlRun.commitsTreadle] using h r hrun
  simp [Dev.treadleSaveDone, hno]

/-- The device with every operation of a treadle save taken from Marl: the one that runs, the one it was placed into, those that wait. -/
def Dev.treadleDropped (d : Dev) : Dev :=
  let mine := fun (r : MarlRun) => decide (r.op.kind = MarlKind.treadle)
  { d with marl := { d.marl with
      run := if d.marl.run.any mine then d.marl.below else d.marl.run
      below := (if d.marl.run.any mine then none else d.marl.below).filter (fun r => !mine r)
      queue := d.marl.queue.filter (fun (o : MarlOp) => o.kind ≠ MarlKind.treadle) } }

theorem Dev.treadleSaveDone_ends {x : TrdSave} {result : Nat} (hs : d.trd.save = some x) (hr : 2 ≤ result) :
    d.treadleSaveDone result = (d.treadleDropped.treadleSaveEnds result).marlStat := by
  have h0 : result ≠ 0 := by omega
  have h1 : result ≠ 1 := by omega
  cases hmine : d.marl.run.any (fun r => decide (r.op.kind = MarlKind.treadle)) <;>
    simp [Dev.treadleSaveDone, Dev.treadleDropped, hs, h0, h1, hmine]

/-- A save that ends without its COMMIT record leaves the generations as they are, raises its event and ends its item. -/
theorem Dev.treadleSaveEnds_failed {x : TrdSave} {result : Nat} (hs : d.trd.save = some x) (hr : 2 ≤ result) :
    d.treadleSaveEnds result =
      let e := ({ d with trd := { d.trd with save := none } } : Dev).wr F.TRD_STAT.SAVE_RESULT result
      (e.raise 0x09 8 e.treadleOlder result).finishOpt x.item (if result = 2 then St.aborted else St.marlError) [] := by
  have h1 : result ≠ 1 := by omega
  simp only [Dev.treadleSaveEnds, hs, h1, if_false]

/-! ## TRD_CTRL.SAVE (R95, R96) -/

theorem Dev.pairOwned_TRD_CTRL (d : Dev) : d.pairOwned R.TRD_CTRL [] = false := by
  rw [Dev.pairOwned]; rfl

theorem Dev.rowWrite_TRD_CTRL {a v : Nat} {idx : List Nat} {fields : List FRow} (h : bit v 0 = true) :
    d.rowWrite a R.TRD_CTRL idx fields v = (d.treadleSaveStart none).elim (d, St.busy) (fun e => (e, St.ok)) := by
  have hbit : ¬ (!bit v 0) = true := by simp [h]
  rw [Dev.rowWrite, if_neg (by decide), if_neg (by decide), if_neg (by decide), if_neg (by decide), if_neg (by decide), if_pos rfl,
    if_neg hbit]
  cases d.treadleSaveStart none <;> rfl

/-- Where no save runs, a write of 1 to SAVE starts one. -/
theorem Dev.regCommand_TRD_CTRL_starts {v : Nat} (hv : bit v 0 = true) (hs : d.trd.save = none) :
    d.regCommand R.TRD_CTRL v =
      ({ d with trd := { d.trd with save := some { item := none, gen := d.treadleGen } } } : Dev).marlAsk 3 .treadle none :=
  Dev.regCommand_plain _ _ _ _ _ _ rowAt_TRD_CTRL d.pairOwned_TRD_CTRL (Dev.pairOwned_TRD_CTRL _) fun fields => by
    rw [Dev.rowWrite_TRD_CTRL hv, Dev.treadleSaveStart, if_neg (by simp [hs]), Option.elim_some]

/-- While a save runs, the write is refused with BUSY, which a register write does not report. -/
theorem Dev.regCommand_TRD_CTRL_busy {v : Nat} (hv : bit v 0 = true) (hs : d.trd.save.isSome = true) : d.regCommand R.TRD_CTRL v = d := by
  have hw : d.regWrite R.TRD_CTRL v = (d, St.busy) :=
    d.regWrite_row _ v _ _ _ rowAt_TRD_CTRL (by rw [Dev.pairOwned_TRD_CTRL]; rfl) fun fields => by
      rw [Dev.rowWrite_TRD_CTRL hv, Dev.treadleSaveStart, if_pos hs, Option.elim_none]
  rw [d.regCommand_refused _ _ (by rw [hw]; exact (by decide : St.busy ≠ St.ok))]
  apply Dev.regRejected_none <;> decide
end

/-- Settles O20: each timer acts when it is due, a sweep with nothing to send ends, and a save starts, completes or ends as Marl has it. -/
theorem treadleActs : Obligations.TreadleActs := by
  refine ⟨?update, ?sourceLoss, ?lost, ?clean, ?send, ?paused, ?commits, ?idle, ?failed, ?save, ?busy⟩
  case update =>
    rintro s d n due rfl hruns hn hm hs rfl hdue
    rw [exec_trackerUpdate hruns hn, Dev.trackerUpdate_due hn hm hs hdue]
  case sourceLoss =>
    rintro s d e n rfl hruns hn hm hl hdue rfl
    rw [exec_trackerSourceLoss hruns hn]
    refine ⟨fun hs => ?_, fun hs => ?_⟩
    · rw [Dev.trackerSourceLoss_due hn hm (by simp [hs]) hl hdue, if_pos hs, Dev.sourceLost]
    · rw [Dev.trackerSourceLoss_due hn hm (by omega) hl hdue, if_neg (by omega), Dev.sourceLost]
  case lost =>
    rintro s d n due rfl hruns hn hs rfl hdue
    rw [exec_trackerLost hruns hn, Dev.trackerLost_due hn hs hdue]
  case clean =>
    rintro s d rfl hruns hc hr hd hcl
    rw [exec_treadleMirrorSend hruns, Dev.treadleMirrorSend_clean hc hr hd hcl]
  case send =>
    rintro s d rfl hruns - -
    exact exec_treadleMirrorSend hruns
  case paused =>
    intro s hruns hp
    rw [exec_treadleMirrorSend hruns, Dev.treadleMirrorSend_paused hp, State.put_dev]
  case commits =>
    rintro s d x r rfl hruns hs hrun hkind hstep hleft
    rw [exec_treadleSaveDone hruns (by decide), Dev.treadleSaveDone_commits hs hrun ⟨hkind, hstep, hleft⟩]
  case idle =>
    intro s result hruns hres hidle
    have hsame : s.dev.treadleSaveDone result = s.dev := by
      rcases hidle with hs | rfl | ⟨rfl, hno⟩
      · exact Dev.treadleSaveDone_noSave result hs
      · exact s.dev.treadleSaveDone_zero
      · refine Dev.treadleSaveDone_noCommit fun r hrun ⟨hkind, hstep, hleft⟩ => ?_
        rcases hno r hrun with h | h | h
        · exact h hkind
        · exact h hstep
        · exact Nat.not_le.mpr h hleft
    rw [exec_treadleSaveDone hruns hres, hsame, State.put_dev]
  case failed =>
    rintro s d w e x result rfl hruns hs hge hres rfl rfl
    have hs' : s.dev.treadleDropped.trd.save = some x := hs
    rw [exec_treadleSaveDone hruns hres, Dev.treadleSaveDone_ends hs hge, Dev.treadleSaveEnds_failed hs' hge]
    rfl
  case save =>
    rintro s d v rfl hruns hs
    rw [exec_trdSave v hruns, Dev.regCommand_TRD_CTRL_starts (bit_putBit_zero v true) hs]
  case busy =>
    rintro s d v rfl hruns hs
    rw [exec_trdSave v hruns, Dev.regCommand_TRD_CTRL_busy (bit_putBit_zero v true) hs, State.put_dev]

end Sys2Proof.Machine
end

