-- ==== Sys2Proof/Proofs/TileFrames.lean ====
section
/-! PROOFS. What comes from a tile and goes to it: the boundary marker (R170), the sense frame (R178, R236), the chunk's cutoff (R177), the
timeout of a tile in HOLDOVER (R108). -/

namespace Sys2Proof.Machine
open Sys2Proof

/-! ## The commands -/

theorem exec_boundaryMarker {s : State} {t : Nat} (h : s.fabricRuns = true) (ht : t < 16) :
    exec (.boundaryMarker t) s = .next (s.put (s.dev.boundaryMarker t)) :=
  State.live_of_fabricRuns _ (decide_eq_true ht) h

theorem exec_senseFrame {s : State} {t : Nat} (lanes : List (List Nat)) (h : s.fabricRuns = true) (ht : t < 16) :
    exec (.senseFrame t lanes) s = .next (s.put (s.dev.senseIn t (parseSense t lanes))) :=
  State.live_of_fabricRuns _ (decide_eq_true ht) h

theorem exec_chunkCutoff {s : State} {t c : Nat} (slack : Nat) (h : s.fabricRuns = true) (ht : t < 16) (hc : c < 16) :
    exec (.chunkCutoff t c slack) s = .next (s.put (s.dev.chunkCutoff t c slack)) :=
  State.live_of_fabricRuns _ (by simp [ht, hc]) h

theorem exec_tileOfflineTimeout {s : State} {t : Nat} (h : s.fabricRuns = true) (ht : t < 16) :
    exec (.tileOfflineTimeout t) s = .next (s.put (s.dev.tileOfflineTimeout t)) :=
  State.live_of_fabricRuns _ (decide_eq_true ht) h

/-! ## The marker and the chunks (R170, R177) -/

section
variable {d : Dev} {t : Nat}

theorem Dev.boundaryMarker_up (h : d.linkUp t = true) :
    d.boundaryMarker t =
      (d.advance ((d.tbOf (d.pick.num + 1) * 1000 - d.rd (F.WEFT_FLIGHT.FLIGHT_PS t)) / 1000)).updLink t (fun k => { k with
        marker := some ((d.tbOf (d.pick.num + 1) * 1000 - d.rd (F.WEFT_FLIGHT.FLIGHT_PS t)) * 2 / 125, markerBlock (d.pick.num + 1)) }) :=
  if_neg (by simp [h])

theorem Dev.chunkCutoff_handedOver {c : Nat} (slack : Nat) (h : d.leftOut t c = []) : d.chunkCutoff t c slack = d.chunkClose t c slack :=
  if_pos (by simp [h])

theorem Dev.chunkCutoff_due {c : Nat} (slack : Nat) (h : d.leftOut t c ≠ []) (hdue : d.before (d.cutoff t c) = true) :
    d.chunkCutoff t c slack = (d.wait (d.cutoff t c)).chunkClose t c slack :=
  (if_neg (by simpa using h)).trans (Dev.fire_of_before _ hdue)

/-! ## The timeout (R108) -/

theorem Dev.tileOfflineTimeout_due (hc : d.controls = true) (hm : d.tileMode t = Tm.holdover)
    (hdue : (d.link t).ackTb.getD 0 + 50000000 < d.tbOf (d.pick.num + 1)) :
    d.tileOfflineTimeout t = (d.advance ((d.link t).ackTb.getD 0 + 50000000)).tileTrigger t Tm.offline false [] :=
  if_pos (by simp [hc, hm, hdue])

/-! ## The sense frame (R178, R236) -/

/-- The link hears a sense frame of its tile: it is up, and has heard none in this pick. -/
structure Dev.Hears (d : Dev) (t : Nat) : Prop where
  isTile : t < 16
  up : d.linkUp t = true
  notYet : (d.link t).heard = false

/-- The device after a frame with a good CRC has brought its blocks and its claim. -/
def Dev.senseClaimed (d : Dev) (t : Nat) (f : SenseFrame) : Dev := (d.senseFrame t f).senseClaims (f.words.getD 1 0)

/-- The device after a frame's thermal samples have given the tile's temperature. -/
def Dev.senseTemp (d : Dev) (t : Nat) (f : SenseFrame) : Dev :=
  (d.tileTemp t f.thermal ((d.link t).flags.map (fun w => w % 65536))).settleNote t

theorem Dev.Hears.taken (h : d.Hears t) : ¬ (decide (16 ≤ t) || !d.linkUp t || (d.link t).heard) = true := by
  obtain ⟨ht, hup, hno⟩ := h
  simp [ht, hup, hno]

variable {f : SenseFrame}

theorem Dev.senseIn_crcBad (h : d.Hears t) (hc : f.crcOk = false) :
    d.senseIn t f =
      if (d.senseFrame t f).pick.num % 16 = 0 then (d.senseFrame t f).tileReadingFails t 0 else d.senseFrame t f :=
  (if_neg h.taken).trans (if_pos (by simp [hc]))

/-- What a frame with a good CRC brings besides its blocks and its claim. -/
theorem Dev.senseIn_crcOk (h : d.Hears t) (hc : f.crcOk = true) :
    d.senseIn t f =
      if !bit (f.words.getD 0 0) 18 then d.senseClaimed t f
      else if !f.tailOk then (d.senseClaimed t f).tileReadingFails t 0
      else
        let e := (d.senseClaimed t f).senseTemp t f
        if e.tecValid t then e.tecStep t (e.rdS (F.TILE_TEMP.TEMP t)) else e :=
  (if_neg h.taken).trans (if_neg (by simp [hc]))
end

/-- Settles O17: each command acts when its link is up and its instant due, and a sense frame's clauses are the
cases of its CRC and its samples. -/
theorem tileFramesAct : Obligations.TileFramesAct := by
  refine ⟨?marker, ?sense, ?chunk, ?timeout⟩
  case marker =>
    rintro s d t rfl hruns ht hup ps rfl
    rw [exec_boundaryMarker hruns ht, Dev.boundaryMarker_up hup]
  case sense =>
    rintro s d t ls f rfl hruns ht hup hheard rfl
    have hears : s.dev.Hears t := ⟨ht, hup, hheard⟩
    rw [exec_senseFrame ls hruns ht]
    refine ⟨fun hc hp => ?blocks, fun hc hp => ?fails, fun hc hb => ?claims, fun hc hb htail => ?tailBad,
      fun hc hb htail a b ha hb' => ?thermal⟩
    case blocks => rw [Dev.senseIn_crcBad hears hc, if_neg hp]
    case fails => rw [Dev.senseIn_crcBad hears hc, if_pos hp]
    case claims => rw [Dev.senseIn_crcOk hears hc, if_pos (by rw [hb]; decide), Dev.senseClaimed]
    case tailBad => rw [Dev.senseIn_crcOk hears hc, if_neg (by rw [hb]; decide), if_pos (by simp [htail]), Dev.senseClaimed]
    case thermal =>
      subst ha hb'
      rw [Dev.senseIn_crcOk hears hc, if_neg (by rw [hb]; decide), if_neg (by simp [htail])]
      rfl
  case chunk =>
    rintro s d t c slack rfl hruns ht hc hup hopen
    rw [exec_chunkCutoff slack hruns ht hc]
    refine ⟨fun hall => ?handedOver, fun hsome hdue => ?due, ?closes⟩
    case handedOver => rw [Dev.chunkCutoff_handedOver slack hall]
    case due => rw [Dev.chunkCutoff_due slack hsome hdue]
    case closes => exact if_neg (by rw [hup, hopen]; simp [hc])
  case timeout =>
    rintro s d t due rfl hruns ht hcon hm rfl hdue
    rw [exec_tileOfflineTimeout hruns ht, Dev.tileOfflineTimeout_due hcon hm hdue]

end Sys2Proof.Machine
end

