-- ==== Sys2Proof/Proofs/CellAndTileItems.lean ====
section
/-! PROOFS. Items on cells and tiles: the checks they share, and what each asks of a present cell or tile in its mode (R102, R103, R108,
R117, R428). -/

namespace Sys2Proof.Machine
open Sys2Proof

/-! ## The rows -/

theorem rowOf_cellRead : RowOf .cellRead 0x0300 := fun _ _ _ => rfl
theorem rowOf_cellFreeze : RowOf .cellFreeze 0x0301 := fun _ _ _ => rfl
theorem rowOf_cellUnfreeze : RowOf .cellUnfreeze 0x0302 := fun _ _ _ => rfl
theorem rowOf_cellCal : RowOf .cellCal 0x0303 := fun _ _ _ => rfl
theorem rowOf_tileActivate : RowOf .tileActivate 0x0310 := fun _ _ _ => rfl
theorem rowOf_tileFence : RowOf .tileFence 0x0311 := fun _ _ _ => rfl
theorem rowOf_tileCalibrate : RowOf .tileCalibrate 0x0312 := fun _ _ _ => rfl
theorem rowOf_tileOffline : RowOf .tileOffline 0x0313 := fun _ _ _ => rfl

section
variable {d : Dev} {x : ItemIn} {c t : Nat}

/-! ## Cells: the checks (R102) -/

theorem Dev.itemCellRead_invalid (he : epaCell (beAt x.par 0 4) = none) : d.itemCellRead x = d.ends St.epaInvalid := by
  rw [Dev.itemCellRead, he]

theorem Dev.itemCellRead_absent (he : epaCell (beAt x.par 0 4) = some c) (hr : d.tileRole (cellTile c) = 0) :
    d.itemCellRead x = d.ends St.tileAbsent := by
  rw [Dev.itemCellRead, he]
  exact if_pos hr

theorem Dev.itemCellRead_ok (he : epaCell (beAt x.par 0 4) = some c) (hr : d.tileRole (cellTile c) ≠ 0) :
    d.itemCellRead x = d.okWith (wordBytes (d.cellReport c)) := by
  rw [Dev.itemCellRead, he]
  exact if_neg hr

section
variable (f : Nat → Taken)

theorem Dev.cellChecked_invalid (he : epaCell (beAt x.par 0 4) = none) : d.cellChecked x f = d.ends St.epaInvalid := by
  rw [Dev.cellChecked, he]

theorem Dev.cellChecked_standby (he : (epaCell (beAt x.par 0 4)).isSome = true) (hc : d.controls = false) :
    d.cellChecked x f = d.ends St.roleStandby := by
  obtain ⟨c, he⟩ := Option.isSome_iff_exists.mp he
  rw [Dev.cellChecked, he]
  exact if_pos (by simp [hc])

theorem Dev.cellChecked_absent (he : epaCell (beAt x.par 0 4) = some c) (hc : d.controls = true) (hr : d.tileRole (cellTile c) = 0) :
    d.cellChecked x f = d.ends St.tileAbsent := by
  rw [Dev.cellChecked, he]
  exact (if_neg (by simp [hc])).trans (if_pos hr)
end

/-- The item names a cell of a present tile, on a unit that controls the fabric. -/
structure Dev.NamesCell (d : Dev) (x : ItemIn) (c : Nat) : Prop where
  epa : epaCell (beAt x.par 0 4) = some c
  controls : d.controls = true
  role : d.tileRole (cellTile c) ≠ 0

theorem Dev.cellChecked_names (h : d.NamesCell x c) (f : Nat → Taken) : d.cellChecked x f = f c := by
  obtain ⟨he, hc, hr⟩ := h
  rw [Dev.cellChecked, he]
  exact (if_neg (by simp [hc])).trans (if_neg hr)

/-! ## CELL_FREEZE, CELL_UNFREEZE (R102) -/

/-- The device with an item among those that wait for a cell's freeze. -/
def Dev.freezeJoined (d : Dev) (c item : Nat) : Dev := d.updAux c (fun a => { a with freezeItems := a.freezeItems ++ [item] })

/-- The cell may not be frozen: it is in calibration, faulted or held by an alternate, or its tile is OFFLINE. -/
def Dev.FreezeRefused (d : Dev) (c : Nat) : Prop :=
  d.cellMode c = Cm.cal ∨ d.cellMode c = Cm.faulted ∨ d.flag (F.CELL.ALT c) = true ∨ d.tileMode (cellTile c) = Tm.offline

theorem Dev.freezeRefused_iff :
    (decide (d.cellMode c = Cm.cal) || decide (d.cellMode c = Cm.faulted) || d.flag (F.CELL.ALT c) ||
      decide (d.tileMode (cellTile c) = Tm.offline)) = true ↔ d.FreezeRefused c := by
  simp [Dev.FreezeRefused, or_assoc]

theorem Dev.itemFreeze_frozen (h : d.NamesCell x c) (hm : d.cellMode c = Cm.frozen) : d.itemFreeze x = d.ends St.ok :=
  (Dev.cellChecked_names h _).trans (if_pos hm)

theorem Dev.itemFreeze_refused (h : d.NamesCell x c) (hm : d.cellMode c ≠ Cm.frozen) (hr : d.FreezeRefused c) :
    d.itemFreeze x = d.ends St.modeRefused :=
  (Dev.cellChecked_names h _).trans ((if_neg hm).trans (if_pos (Dev.freezeRefused_iff.mpr hr)))

/-- A cell that rests freezes at the next boundary; any other one is marked, and freezes when its movement has ended. -/
theorem Dev.itemFreeze_taken (h : d.NamesCell x c) (hm : d.cellMode c ≠ Cm.frozen) (hr : ¬ d.FreezeRefused c) :
    d.itemFreeze x =
      if decide (d.cellMode c = Cm.parked) || decide (d.cellMode c = Cm.hold) then
        ((d.freezeJoined c x.item).trigger c 5 (.freeze x.item)).ends St.pending
      else
        let e := (d.freezeJoined c x.item).setFlag (F.CELL.FREEZE_PEND c) true
        (if d.cellMode c = Cm.warm then e.trigger c 7 (.undo 2) else e).ends St.pending :=
  (Dev.cellChecked_names h _).trans ((if_neg hm).trans (if_neg (mt Dev.freezeRefused_iff.mp hr)))

theorem Dev.itemUnfreeze_frozen (h : d.NamesCell x c) (hm : d.cellMode c = Cm.frozen) :
    d.itemUnfreeze x = (d.trigger c 5 (.unfreeze x.item)).ends St.pending :=
  (Dev.cellChecked_names h _).trans (if_pos hm)

theorem Dev.itemUnfreeze_other (h : d.NamesCell x c) (hm : d.cellMode c ≠ Cm.frozen) : d.itemUnfreeze x = d.ends St.ok :=
  (Dev.cellChecked_names h _).trans (if_neg hm)

/-! ## CELL_CAL (R103) -/

/-- The calibration of one cell that the item asks for. -/
def ItemIn.spotRun (x : ItemIn) (c : Nat) : CalRun :=
  { tile := cellTile c, cell := some c, pass := calPassOf c, item := some x.item, fails := 0, aborted := false, stage8 := false }

theorem Dev.itemCellCal_ok (h : d.NamesCell x c) (hs : d.spotAllowed c = true) (hno : ∀ r ∈ d.cal.runs, r.cell ≠ some c) :
    d.itemCellCal x =
      (((d.startCal (x.spotRun c)).updAux c (fun a => { a with calItem := some x.item })).trigger c 6 .calStart).ends St.pending :=
  (Dev.cellChecked_names h _).trans (if_neg (by simpa [hs] using hno))

theorem Dev.itemCellCal_refused (h : d.NamesCell x c) (hs : d.spotAllowed c = false ∨ ∃ r ∈ d.cal.runs, r.cell = some c) :
    d.itemCellCal x = d.ends St.modeRefused :=
  (Dev.cellChecked_names h _).trans (if_pos (by simpa using hs))

/-! ## Tiles: the checks (R108, R109) -/

section
variable (f : Nat → Nat → Taken)

theorem Dev.tileChecked_standby (ha : d.isActive = false) : d.tileChecked x f = d.ends St.roleStandby :=
  if_pos (by simp [ha])

theorem Dev.tileChecked_invalid (ha : d.isActive = true) (ht : 15 < beAt x.par 0 1) : d.tileChecked x f = d.ends St.valueInvalid :=
  (if_neg (by simp [ha])).trans (if_pos ht)

theorem Dev.tileChecked_absent (ha : d.isActive = true) (ht : beAt x.par 0 1 < 16) (hr : d.tileRole (beAt x.par 0 1) = 0) :
    d.tileChecked x f = d.ends St.tileAbsent :=
  (if_neg (by simp [ha])).trans ((if_neg (by omega)).trans (if_pos hr))
end

/-- The item names a present tile, on the unit in pair role ACTIVE. -/
structure Dev.NamesTile (d : Dev) (x : ItemIn) (t : Nat) : Prop where
  named : beAt x.par 0 1 = t
  isTile : t < 16
  isActive : d.isActive = true
  role : d.tileRole t ≠ 0

theorem Dev.tileChecked_names (h : d.NamesTile x t) (f : Nat → Nat → Taken) : d.tileChecked x f = f t (d.tileMode t) := by
  obtain ⟨rfl, ht, ha, hr⟩ := h
  exact (if_neg (by simp [ha])).trans ((if_neg (by omega)).trans (if_neg hr))

/-- The tile is in calibration, or a calibration or a wake of it is under way. -/
def Dev.CalBusy (d : Dev) (t : Nat) : Prop :=
  d.tileMode t = Tm.cal ∨ d.tileMode t = Tm.fenced ∧ ((∃ r ∈ d.cal.runs, r.tile = t) ∨ (d.link t).wakeFor ≠ none)

theorem Dev.calBusy_iff :
    (decide (d.tileMode t = Tm.cal) || (decide (d.tileMode t = Tm.fenced) &&
      (d.cal.runs.any (fun (r : CalRun) => r.tile = t) || (d.link t).wakeFor.isSome))) = true ↔ d.CalBusy t := by
  simp [Dev.CalBusy, Option.isSome_iff_ne_none]

section
variable (h : d.NamesTile x t)
include h

/-! ## TILE_ACTIVATE (R108, R428) -/

theorem Dev.itemTileActivate_there (hm : d.tileMode t = Tm.active) : d.itemTileActivate x = d.ends St.ok :=
  (Dev.tileChecked_names h _).trans (if_pos hm)

theorem Dev.itemTileActivate_refused (hm : d.tileMode t ≠ Tm.active)
    (hr : d.tileMode t ≠ Tm.fenced ∨ d.flag (F.TILE_MODE.CAL_VALID t) = false) : d.itemTileActivate x = d.ends St.modeRefused :=
  (Dev.tileChecked_names h _).trans ((if_neg hm).trans (if_pos (by simpa using hr)))

/-- A calibrated tile in FENCED is woken, unless a wake of it is under way. -/
theorem Dev.itemTileActivate_fenced (hm : d.tileMode t = Tm.fenced) (hv : d.flag (F.TILE_MODE.CAL_VALID t) = true) :
    d.itemTileActivate x = (d.link t).wakeFor.elim ((d.startWake t (some Tm.active) [x.item] false).ends St.pending) (fun w =>
      if w = Tm.active then (d.updLink t (fun k => { k with wakeItems := k.wakeItems ++ [x.item] })).ends St.pending else d.ends St.busy) := by
  rw [Dev.itemTileActivate, Dev.tileChecked_names h, hm, if_neg (by decide), if_neg (by simp [hv])]
  cases (d.link t).wakeFor <;> rfl

/-! ## TILE_FENCE (R108, R117) -/

theorem Dev.itemTileFence_there (hm : d.tileMode t = Tm.fenced) : d.itemTileFence x = d.ends St.ok :=
  (Dev.tileChecked_names h _).trans (if_pos hm)

theorem Dev.itemTileFence_refused (hm : d.tileMode t ≠ Tm.fenced) (ha : d.tileMode t ≠ Tm.active) :
    d.itemTileFence x = d.ends St.modeRefused :=
  (Dev.tileChecked_names h _).trans ((if_neg hm).trans (if_pos ha))

theorem Dev.itemTileFence_active (hm : d.tileMode t = Tm.active) :
    d.itemTileFence x =
      if d.usedEntries.any (fun e => (d.route e).any (fun (hop : Hop) => hop.tile = t)) then d.ends St.tileBusy
      else (d.tileTrigger t Tm.fenced false [x.item]).ends St.pending := by
  rw [Dev.itemTileFence, Dev.tileChecked_names h, hm, if_neg (by decide), if_neg (by simp)]

/-! ## TILE_CALIBRATE -/

/-- The calibration of a whole tile that the item asks for. -/
def ItemIn.tileRun (x : ItemIn) (t : Nat) : CalRun :=
  { tile := t, cell := none, pass := 0, item := some x.item, fails := 0, aborted := false, stage8 := false }

theorem Dev.itemTileCal_busy (hb : d.CalBusy t) : d.itemTileCal x = d.ends St.busy :=
  (Dev.tileChecked_names h _).trans (if_pos (Dev.calBusy_iff.mpr hb))

theorem Dev.itemTileCal_refused (hm : d.tileMode t ≠ Tm.cal) (hf : d.tileMode t ≠ Tm.fenced) : d.itemTileCal x = d.ends St.modeRefused :=
  (Dev.tileChecked_names h _).trans ((if_neg (by simp [hm, hf])).trans (if_pos hf))

theorem Dev.itemTileCal_ok (hf : d.tileMode t = Tm.fenced) (hno : ∀ r ∈ d.cal.runs, r.tile ≠ t) (hw : (d.link t).wakeFor = none) :
    d.itemTileCal x = ((d.startCal (x.tileRun t)).startWake t (some Tm.cal) [] false).ends St.pending := by
  have hfree : ¬ d.CalBusy t := by
    rw [Dev.CalBusy, hf, hw]
    rintro (hcal | ⟨-, ⟨r, hr, hrt⟩ | hwake⟩)
    · exact absurd hcal (by decide)
    · exact hno r hr hrt
    · exact hwake rfl
  exact (Dev.tileChecked_names h _).trans ((if_neg (mt Dev.calBusy_iff.mp hfree)).trans (if_neg (not_not_intro hf)))

/-! ## TILE_OFFLINE -/

theorem Dev.itemTileOffline_there (hm : d.tileMode t = Tm.offline) : d.itemTileOffline x = d.ends St.ok :=
  (Dev.tileChecked_names h _).trans (if_pos hm)

theorem Dev.itemTileOffline_refused (hm : d.tileMode t ≠ Tm.offline) (hf : d.tileMode t ≠ Tm.fenced) :
    d.itemTileOffline x = d.ends St.modeRefused :=
  (Dev.tileChecked_names h _).trans ((if_neg hm).trans (if_pos hf))

theorem Dev.itemTileOffline_fenced (hf : d.tileMode t = Tm.fenced) :
    d.itemTileOffline x = (d.tileTrigger t Tm.offline false [x.item]).ends St.pending := by
  rw [Dev.itemTileOffline, Dev.tileChecked_names h, hf, if_neg (by decide), if_neg (by simp)]
end
end

/-! ## Rows that share their checks -/

section
variable {row : ItemSrc → List Byte → Instr} {op : Nat}

/-- The row's opcode is one of the three that check a cell. -/
theorem cellRow_checked (h : row = .cellFreeze ∧ op = 0x0301 ∨ row = .cellUnfreeze ∧ op = 0x0302 ∨ row = .cellCal ∧ op = 0x0303) :
    RowOf row op ∧ ∀ (d : Dev) (x : ItemIn), ∃ f, d.runItem x op = d.cellChecked x f := by
  rcases h with ⟨rfl, rfl⟩ | ⟨rfl, rfl⟩ | ⟨rfl, rfl⟩
  · exact ⟨rowOf_cellFreeze, fun d x => ⟨_, Dev.itemFreeze.eq_def d x⟩⟩
  · exact ⟨rowOf_cellUnfreeze, fun d x => ⟨_, Dev.itemUnfreeze.eq_def d x⟩⟩
  · exact ⟨rowOf_cellCal, fun d x => ⟨_, Dev.itemCellCal.eq_def d x⟩⟩

/-- The row's opcode is one of the four that check a tile. -/
theorem tileRow_checked (h : row = .tileActivate ∧ op = 0x0310 ∨ row = .tileFence ∧ op = 0x0311 ∨ row = .tileCalibrate ∧ op = 0x0312 ∨
      row = .tileOffline ∧ op = 0x0313) :
    RowOf row op ∧ ∀ (d : Dev) (x : ItemIn), ∃ f, d.runItem x op = d.tileChecked x f := by
  rcases h with ⟨rfl, rfl⟩ | ⟨rfl, rfl⟩ | ⟨rfl, rfl⟩ | ⟨rfl, rfl⟩
  · exact ⟨rowOf_tileActivate, fun d x => ⟨_, Dev.itemTileActivate.eq_def d x⟩⟩
  · exact ⟨rowOf_tileFence, fun d x => ⟨_, Dev.itemTileFence.eq_def d x⟩⟩
  · exact ⟨rowOf_tileCalibrate, fun d x => ⟨_, Dev.itemTileCal.eq_def d x⟩⟩
  · exact ⟨rowOf_tileOffline, fun d x => ⟨_, Dev.itemTileOffline.eq_def d x⟩⟩
end

/-- Settles O48: each row comes to its opcode's meaning; the checks it shares refuse it, or its clause is one
case of the named object's mode. -/
theorem cellAndTileItemsAct : Obligations.CellAndTileItemsAct := by
  refine ⟨?read, ?readInvalid, ?freeze, ?freezeWaits, ?freezeRefused, ?frozen, ?unfreeze, ?unfrozen, ?spot, ?spotRefused, ?cellChecks,
    ?readAbsent, ?activate, ?activateJoins, ?activateBusy, ?activateRefused, ?there, ?modeRefused, ?calBusy, ?fence, ?fenceBusy, ?cal,
    ?offline, ?tileChecks⟩
  case read => exact fun c => itemEnds_of_runItem rowOf_cellRead (by decide) fun d x ⟨he, hr⟩ => Dev.itemCellRead_ok he hr
  case readInvalid => exact itemEnds_of_runItem rowOf_cellRead (by decide) fun d x he => Dev.itemCellRead_invalid he
  case readAbsent => exact fun c => itemEnds_of_runItem rowOf_cellRead (by decide) fun d x ⟨he, hr⟩ => Dev.itemCellRead_absent he hr
  case freeze =>
    refine fun c => itemGoesOn_of_runItem rowOf_cellFreeze fun d x ⟨he, hc, hr, hm, halt, hoff⟩ => ?_
    have hmode : d.cellMode c ≠ Cm.frozen ∧ d.cellMode c ≠ Cm.cal ∧ d.cellMode c ≠ Cm.faulted := by
      rcases hm with hm | hm <;> rw [hm] <;> decide
    obtain ⟨hfrozen, hcal, hfault⟩ := hmode
    exact (Dev.itemFreeze_taken ⟨he, hc, hr⟩ hfrozen (by simp [Dev.FreezeRefused, hcal, hfault, halt, hoff])).trans
      (if_pos (by simpa using hm.symm))
  case freezeWaits =>
    refine fun c => itemGoesOn_of_runItem rowOf_cellFreeze fun d x ⟨he, hc, hr, hm, halt, hoff⟩ => ?_
    simp only [List.mem_cons, List.not_mem_nil, or_false, not_or] at hm
    obtain ⟨hhold, hparked, hfrozen, hcal, hfault⟩ := hm
    exact (Dev.itemFreeze_taken ⟨he, hc, hr⟩ hfrozen (by simp [Dev.FreezeRefused, hcal, hfault, halt, hoff])).trans
      (if_neg (by simp [hhold, hparked]))
  case freezeRefused =>
    exact fun c => itemEnds_of_runItem rowOf_cellFreeze (by decide) fun d x ⟨he, hc, hr, hm, href⟩ =>
      Dev.itemFreeze_refused ⟨he, hc, hr⟩ hm href
  case frozen =>
    exact fun c => itemEnds_of_runItem rowOf_cellFreeze (by decide) fun d x ⟨he, hc, hr, hm⟩ => Dev.itemFreeze_frozen ⟨he, hc, hr⟩ hm
  case unfreeze =>
    exact fun c => itemGoesOn_of_runItem rowOf_cellUnfreeze fun d x ⟨he, hc, hr, hm⟩ => Dev.itemUnfreeze_frozen ⟨he, hc, hr⟩ hm
  case unfrozen =>
    exact fun c => itemEnds_of_runItem rowOf_cellUnfreeze (by decide) fun d x ⟨he, hc, hr, hm⟩ => Dev.itemUnfreeze_other ⟨he, hc, hr⟩ hm
  case spot =>
    exact fun c => itemGoesOn_of_runItem rowOf_cellCal fun d x ⟨he, hc, hr, hs, hno⟩ => Dev.itemCellCal_ok ⟨he, hc, hr⟩ hs hno
  case spotRefused =>
    exact fun c => itemEnds_of_runItem rowOf_cellCal (by decide) fun d x ⟨he, hc, hr, hs⟩ => Dev.itemCellCal_refused ⟨he, hc, hr⟩ hs
  case cellChecks =>
    intro row op h
    obtain ⟨hrow, hrun⟩ := cellRow_checked h
    refine ⟨itemEnds_of_runItem hrow (by decide) fun d x he => ?_, itemEnds_of_runItem hrow (by decide) fun d x ⟨he, hc⟩ => ?_,
      itemEnds_of_runItem hrow (by decide) fun d x ⟨c, he, hc, hr⟩ => ?_⟩ <;> obtain ⟨f, hf⟩ := hrun d x
    · exact hf.trans (Dev.cellChecked_invalid f he)
    · exact hf.trans (Dev.cellChecked_standby f he hc)
    · exact hf.trans (Dev.cellChecked_absent f he hc hr)
  case activate =>
    refine fun t => itemGoesOn_of_runItem rowOf_tileActivate fun d x ⟨hn, ht, ha, hr, hm, hv, hw⟩ => ?_
    exact (Dev.itemTileActivate_fenced ⟨hn, ht, ha, hr⟩ hm hv).trans (by rw [hw]; rfl)
  case activateJoins =>
    refine fun t => itemGoesOn_of_runItem rowOf_tileActivate fun d x ⟨hn, ht, ha, hr, hm, hv, hw⟩ => ?_
    exact (Dev.itemTileActivate_fenced ⟨hn, ht, ha, hr⟩ hm hv).trans (by rw [hw]; rfl)
  case activateBusy =>
    refine fun t w => itemEnds_of_runItem rowOf_tileActivate (by decide) fun d x ⟨hn, ht, ha, hr, hm, hv, hw, hne⟩ => ?_
    exact (Dev.itemTileActivate_fenced ⟨hn, ht, ha, hr⟩ hm hv).trans (by rw [hw]; exact if_neg hne)
  case activateRefused =>
    exact fun t => itemEnds_of_runItem rowOf_tileActivate (by decide) fun d x ⟨hn, ht, ha, hr, hm, href⟩ =>
      Dev.itemTileActivate_refused ⟨hn, ht, ha, hr⟩ hm href
  case there =>
    rintro row op m (⟨rfl, rfl, rfl⟩ | ⟨rfl, rfl, rfl⟩ | ⟨rfl, rfl, rfl⟩)
    · exact itemEnds_of_runItem rowOf_tileActivate (by decide) fun d x ⟨ht, ha, hr, hm⟩ => Dev.itemTileActivate_there ⟨rfl, ht, ha, hr⟩ hm
    · exact itemEnds_of_runItem rowOf_tileFence (by decide) fun d x ⟨ht, ha, hr, hm⟩ => Dev.itemTileFence_there ⟨rfl, ht, ha, hr⟩ hm
    · exact itemEnds_of_runItem rowOf_tileOffline (by decide) fun d x ⟨ht, ha, hr, hm⟩ => Dev.itemTileOffline_there ⟨rfl, ht, ha, hr⟩ hm
  case modeRefused =>
    rintro row op a b (⟨rfl, rfl, rfl, rfl⟩ | ⟨rfl, rfl, rfl, rfl⟩ | ⟨rfl, rfl, rfl, rfl⟩)
    · exact itemEnds_of_runItem rowOf_tileFence (by decide) fun d x ⟨ht, ha, hr, hm, hm'⟩ =>
        Dev.itemTileFence_refused ⟨rfl, ht, ha, hr⟩ hm hm'
    · exact itemEnds_of_runItem rowOf_tileCalibrate (by decide) fun d x ⟨ht, ha, hr, hm, hm'⟩ =>
        Dev.itemTileCal_refused ⟨rfl, ht, ha, hr⟩ hm hm'
    · exact itemEnds_of_runItem rowOf_tileOffline (by decide) fun d x ⟨ht, ha, hr, hm, hm'⟩ =>
        Dev.itemTileOffline_refused ⟨rfl, ht, ha, hr⟩ hm hm'
  case calBusy =>
    exact fun t => itemEnds_of_runItem rowOf_tileCalibrate (by decide) fun d x ⟨hn, ht, ha, hr, hb⟩ =>
      Dev.itemTileCal_busy ⟨hn, ht, ha, hr⟩ hb
  case fence =>
    refine fun t => itemGoesOn_of_runItem rowOf_tileFence fun d x ⟨hn, ht, ha, hr, hm, hfree⟩ => ?_
    exact (Dev.itemTileFence_active ⟨hn, ht, ha, hr⟩ hm).trans (if_neg (by simpa using hfree))
  case fenceBusy =>
    refine fun t e => itemEnds_of_runItem rowOf_tileFence (by decide) fun d x ⟨hn, ht, ha, hr, hm, he, hop, hhop, htile⟩ => ?_
    have hused : d.usedEntries.any (fun e => (d.route e).any (fun (hop : Hop) => hop.tile = t)) = true :=
      List.any_eq_true.mpr ⟨e, he, List.any_eq_true.mpr ⟨hop, hhop, decide_eq_true htile⟩⟩
    exact (Dev.itemTileFence_active ⟨hn, ht, ha, hr⟩ hm).trans (if_pos hused)
  case cal =>
    exact fun t => itemGoesOn_of_runItem rowOf_tileCalibrate fun d x ⟨hn, ht, ha, hr, hf, hno, hw⟩ =>
      Dev.itemTileCal_ok ⟨hn, ht, ha, hr⟩ hf hno hw
  case offline =>
    exact fun t => itemGoesOn_of_runItem rowOf_tileOffline fun d x ⟨hn, ht, ha, hr, hf⟩ => Dev.itemTileOffline_fenced ⟨hn, ht, ha, hr⟩ hf
  case tileChecks =>
    intro row op h
    obtain ⟨hrow, hrun⟩ := tileRow_checked h
    refine ⟨itemEnds_of_runItem hrow (by decide) fun d x ha => ?_, itemEnds_of_runItem hrow (by decide) fun d x ⟨ha, ht⟩ => ?_,
      itemEnds_of_runItem hrow (by decide) fun d x ⟨ht, ha, hr⟩ => ?_⟩ <;> obtain ⟨f, hf⟩ := hrun d x
    · exact hf.trans (Dev.tileChecked_standby f ha)
    · exact hf.trans (Dev.tileChecked_invalid f ha ht)
    · exact hf.trans (Dev.tileChecked_absent f ha ht hr)

end Sys2Proof.Machine
end

