-- ==== Sys2Proof/Proofs/CommitPoints.lean ====
section
/-! PROOFS. What is taken at a commit point (R125, R126, R149, R150), and plans made ahead of it (R135). -/

namespace Sys2Proof.Machine
open Sys2Proof

/-! ## The commands -/

section
variable {s : State} (h : s.fabricRuns = true)
include h

theorem exec_commitPoint (p : PlanProp) : exec (.commitPoint p) s = .next (s.put (s.dev.commitPoint p)) :=
  State.live_of_fabricRuns _ rfl h

theorem exec_timedCommitDue (p : PlanProp) : exec (.timedCommitDue p) s = .next (s.put (s.dev.timedCommit p)) :=
  State.live_of_fabricRuns _ rfl h

theorem exec_restoration {e : Nat} (pick : Nat) (he : e < 1024) :
    exec (.restoration e pick) s = .next (s.put (s.dev.restoration e pick)) :=
  State.live_of_fabricRuns _ (decide_eq_true he) h

theorem exec_shuttlePlan (no : Nat) (p : PlanProp) : exec (.shuttlePlan no p) s = .next (s.put (s.dev.shuttlePlan no p)) :=
  State.live_of_fabricRuns _ rfl h
end

section
variable {d : Dev} {p : PlanProp} {c : Cmd} {cs : List Cmd}

/-! ## Commit order (R125, R126, R149) -/

/-- A head that does not wait is the one command taken. -/
theorem Dev.firstCmd_cons_taken (h : (d.runCmd c p).2 = false) : Dev.firstCmd (c :: cs) p d = ((d.runCmd c p).1, true) :=
  if_neg (by simp [h])

theorem Dev.commitPoint_protDue (ho : d.commitsOpen = true) (hp : d.protDue = c :: cs) (hw : (d.runCmd c p).2 = false) :
    d.commitPoint p = (d.runCmd c p).1 := by
  simp only [Dev.commitPoint, ho, hp, Dev.firstCmd_cons_taken hw, Bool.not_true, Bool.false_eq_true, if_false, if_true]

/-- With no switch and no timed command due, the first command without a time has its turn, unless slices are still to come (R137). -/
theorem Dev.commitPoint_untimed (ho : d.commitsOpen = true) (hp : d.protDue = []) (ht : d.timedDue = [])
    (hs : d.cir.lastSlice ≤ d.pick.num + 1) (hc : d.cir.queue.find? (fun (q : Cmd) => q.at_.isNone) = some c) :
    d.commitPoint p = (d.runCmd c p).1 := by
  simp only [Dev.commitPoint, ho, hp, ht, hc, Dev.firstCmd, Bool.not_true, Bool.false_eq_true, if_false, List.append_nil, List.any_nil,
    Bool.false_or, Nat.not_lt.mpr hs, decide_false]

theorem Dev.timedCommit_due (ho : d.commitsOpen = true) (ht : (d.allCmds d.protDue p).timedDue = c :: cs)
    (hw : ((d.allCmds d.protDue p).runCmd c p).2 = false) : d.timedCommit p = ((d.allCmds d.protDue p).runCmd c p).1 := by
  simp only [Dev.timedCommit, ho, ht, Dev.firstCmd_cons_taken hw, if_true]

theorem Dev.restoration_open (e pick : Nat) (ho : d.commitsOpen = true) : d.restoration e pick = d.restore e pick :=
  if_pos ho

/-! ## Plans (R135) -/

/-- The command of this number waits for its plan, and none is before it in commit order. -/
structure Dev.PlanNext (d : Dev) (no : Nat) (c : Cmd) : Prop where
  active : d.isActive = true
  queued : d.cir.queue.find? (fun (q : Cmd) => q.no = no) = some c
  isFirst : d.commitOrder.takeWhile (fun (q : Cmd) => q.no ≠ no) = []
  plans : c.plans = true
  unplanned : c.planned = false

/-- Such a command is planned on the table as it stands. -/
theorem Dev.shuttlePlan_next {no : Nat} (h : d.PlanNext no c) : d.shuttlePlan no p =
    if c.kind = .group then
      match Dev.planMembers p c.members d.cir.csn (d.releasesDone c.members) with
      | .error st => d.updCmd no (fun q => { q with planFailed := some st })
      | .ok ps => d.updCmd no (fun q => { q with mplans := ps, planFailed := none })
    else
      match d.planOf c.kind c.par d.cir.csn p with
      | .error st => d.updCmd no (fun q => { q with planFailed := some st })
      | .ok x => d.updCmd no (fun q => { q with plan := some x, planFailed := none }) := by
  obtain ⟨ha, hq, hf, hp, hu⟩ := h
  simp only [Dev.shuttlePlan, hq, hf]
  exact if_neg (by simp [ha, hp, hu])
end

/-- Settles O22: at a commit point the first command due is the one taken, in the order of R125; a plan is made on the table as it
stands when no command is before its own. -/
theorem commitPointsAct : Obligations.CommitPointsAct := by
  refine ⟨?untimed, ?protection, ?timed, ?restoration, ?plan⟩
  case untimed =>
    rintro s d p c rfl hruns ho hp ht hs hc
    rw [exec_commitPoint hruns, Dev.commitPoint_untimed ho hp ht hs hc]
  case protection =>
    rintro s d p c cs rfl hruns ho hp hw
    rw [exec_commitPoint hruns, Dev.commitPoint_protDue ho hp hw]
  case timed =>
    rintro s d e p c cs rfl hruns ho rfl ht hw
    rw [exec_timedCommitDue hruns, Dev.timedCommit_due ho ht hw]
  case restoration =>
    rintro s d e pick rfl hruns he ho
    rw [exec_restoration hruns pick he, Dev.restoration_open e pick ho]
  case plan =>
    rintro s d no p c rfl hruns ha hq hf hp hu
    rw [exec_shuttlePlan hruns, Dev.shuttlePlan_next ⟨ha, hq, hf, hp, hu⟩]
    refine ⟨fun hk st hx => ?_, fun hk x hx => ?_, fun hk ps hx => ?_⟩
    · rw [if_neg hk, hx]
    · rw [if_neg hk, hx]
    · rw [if_pos hk, hx]

end Sys2Proof.Machine
end

