-- ==== Sys2Proof/Proofs/CircuitTimers.lean ====
section
/-! PROOFS. Protection pins (R147), and the timers of pieces (R144), ramps (R157, R245), reservations, plans and hold-off (R163). -/

namespace Sys2Proof.Machine
open Sys2Proof

/-! ## The commands -/

theorem exec_protectInEdge {s : State} {n : Nat} (high : Bool) (delay : Nat) (h : s.runs = true) (hn : n < 8) :
    exec (.protectInEdge n high delay) s = .next (s.put (s.dev.protectEdge n high delay)) :=
  State.run_of_runs _ (decide_eq_true hn) h

section
variable {s : State} (h : s.fabricRuns = true)
include h

theorem exec_protectDebounce {n : Nat} (hn : n < 8) : exec (.protectDebounce n) s = .next (s.put (s.dev.protectDebounce n)) :=
  State.live_of_fabricRuns _ (decide_eq_true hn) h

theorem exec_pieceLockTimeout {e : Nat} (he : e < 1024) :
    exec (.pieceLockTimeout e) s = .next (s.put (s.dev.pieceLockTimeout e)) :=
  State.live_of_fabricRuns _ (decide_eq_true he) h

theorem exec_rampStep {c : Nat} (hc : c < 61440) : exec (.rampStep c) s = .next (s.put (s.dev.rampAny c)) :=
  State.live_of_fabricRuns _ (decide_eq_true hc) h

theorem exec_reservationTimeout (handle : Nat) : exec (.reservationTimeout handle) s = .next (s.put (s.dev.rsvTimeout handle)) :=
  State.live_of_fabricRuns _ rfl h

theorem exec_raWarmTimeout (no : Nat) : exec (.raWarmTimeout no) s = .next (s.put (s.dev.raTimeout no)) :=
  State.live_of_fabricRuns _ rfl h

theorem exec_tilthHoldoffExpiry {t : Nat} (ht : t < 16) : exec (.tilthHoldoffExpiry t) s = .next (s.put (s.dev.holdoffExpiry t)) :=
  State.live_of_fabricRuns _ (decide_eq_true ht) h
end

/-! ## Pins (R147) -/

section
variable {d : Dev} {n : Nat}

@[simp] theorem Dev.pin_putPin (d : Dev) (n : Nat) (p : ProtPin) : (d.putPin n p).pin n = p := AMap.get_put_self ..

theorem Dev.protectEdge_due {delay : Nat} {high : Bool} (hn : n < 8) (hdue : d.before (d.time.tb + delay) = true)
    (hl : ((d.wait (d.time.tb + delay)).pin n).level ≠ high) :
    d.protectEdge n high delay = ((d.wait (d.time.tb + delay)).signal n high).putPin n
      { (d.wait (d.time.tb + delay)).pin n with level := high, sinceTb := (d.wait (d.time.tb + delay)).time.tb } :=
  ((if_neg (Nat.not_le.mpr hn)).trans (Dev.fire_of_before _ hdue)).trans (if_neg hl)

/-- The level of a pin is the one that PIN_POL says is asserted. -/
def Dev.pinAsserted (d : Dev) (n : Nat) : Prop := (d.pin n).level = bit (d.rd F.PROT_CFG.PIN_POL) n

/-- The pin's record when the pin, debounced as asserted just now, triggers. -/
def Dev.pinTriggered (d : Dev) (n : Nat) : ProtPin := { d.pin n with deb := true, edge := d.ptpNow, triggered := true }

/-- The protection switch that a pin asks for: at the boundary that ends this pick when that is 1,000 ns or more away, otherwise at the
next (R147). -/
def Dev.pinSwitch (d : Dev) (n : Nat) : Cmd where
  no := d.cir.nextCmd
  item := none
  kind := .protect
  par := { id := 0, flags := 2 ^ 12 + n * 2 ^ 9, inPort := 0, outPort := 0, voa := 0, via := 0, rsv := 0, time := d.ptpNow, route := [] }
  members := []
  at_ := some (if d.time.tb + 1000 ≤ d.tbOf (d.pick.num + 1) then d.pick.num + 1 else d.pick.num + 2)
  plan := none
  planFailed := none
  moves := 0
  darkMoves := 0
  late := false
  overridden := false
  waited := []

/-- The device with the switch of a pin last among the protection switches. -/
def Dev.withPinSwitch (d : Dev) (n : Nat) : Dev :=
  let e := d.putPin n (d.pinTriggered n)
  { e with cir := { e.cir with prot := e.cir.prot ++ [d.pinSwitch n], nextCmd := d.cir.nextCmd + 1 } }

section
variable {e : Dev} (hn : n < 8) (hdue : d.before ((d.pin n).sinceTb + d.rd F.PROT_CFG.DEBOUNCE_NS) = true)
  (he : e = d.wait ((d.pin n).sinceTb + d.rd F.PROT_CFG.DEBOUNCE_NS))
include hn hdue he

theorem Dev.protectDebounce_deasserted (hl : ¬ e.pinAsserted n) :
    d.protectDebounce n = e.putPin n { e.pin n with deb := false, triggered := false, served := false } := by
  subst he
  exact ((if_neg (Nat.not_le.mpr hn)).trans (Dev.fire_of_before _ hdue)).trans (if_pos (by simpa [Dev.pinAsserted] using hl))

theorem Dev.protectDebounce_triggers (hl : e.pinAsserted n) (hd : (e.pin n).deb = false) (ht : (e.pin n).triggered = false)
    (hen : bit (e.rd F.PROT_CFG.PIN_EN) n = true) (hc : e.controls = true) : d.protectDebounce n = e.withPinSwitch n := by
  subst he
  refine ((if_neg (Nat.not_le.mpr hn)).trans (Dev.fire_of_before _ hdue)).trans ((if_neg (by simpa [Dev.pinAsserted] using hl)).trans ?_)
  simp only [hd, Bool.false_eq_true, if_false, decide_eq_true_eq]
  exact if_neg (by simp [ht, hen, hc])
end
end

/-! ## Pieces (R144) and ramps (R157, R245) -/

section
variable {d : Dev}

theorem Dev.pieceLockTimeout_past {e : Nat} {p : Piece} (hp : d.cir.pieces.find? (fun (x : Piece) => x.entry = e) = some p)
    (h : (p.phase = 1 ∧ d.lockMax ≤ p.beats) ∨ (p.phase = 2 ∧ 2 ≤ p.bad)) :
    d.pieceLockTimeout e =
      if d.flag F.PIECE_CFG.DARK_FALLBACK && !d.flag (F.CIR.NO_DARK e) then d.pieceToDark p false else d.abortPiece p St.pieceAborted := by
  rw [Dev.pieceLockTimeout, hp]
  exact if_pos (by simpa using h)

theorem Dev.rampAny_recentre {c : Nat} (h : (AMap.find d.silt.ramps c).isSome = true) : d.rampAny c = d.recentreStep c := if_pos h

theorem Dev.rampAny_ledger {c : Nat} (h : AMap.find d.silt.ramps c = none) : d.rampAny c = d.rampStep c := if_neg (by simp [h])

/-! ## Reservations, plans, hold-off (R163) -/

theorem Dev.rsvTimeout_due {handle : Nat} {r : Rsv} (hr : d.tilth.rsv.find? (fun (x : Rsv) => x.handle = handle) = some r)
    (hdue : d.before r.untilTb = true) : d.rsvTimeout handle = (d.wait r.untilTb).dropRsv handle 1 := by
  rw [Dev.rsvTimeout, hr]
  exact Dev.fire_of_before _ hdue

theorem Dev.raTimeout_due {no t : Nat} {c : Cmd} {p : Plan} (hc : d.cir.queue.find? (fun (q : Cmd) => q.no = no) = some c)
    (hp : c.plan = some p) (ht : p.warmTb = some t) (hdue : d.before (t + max 1 (d.rd F.TILTH_TMO.RA_WARM_MS) * 1000000) = true) :
    d.raTimeout no = (d.wait (t + max 1 (d.rd F.TILTH_TMO.RA_WARM_MS) * 1000000)).tilthSweep 1 := by
  have hwarm : ((some c).bind (fun (q : Cmd) => q.plansHeld.head?)).bind (fun (p : Plan) => p.warmTb) = some t := by
    simp [Cmd.plansHeld, hp, ht]
  rw [Dev.raTimeout, hc, hwarm]
  exact Dev.fire_of_before _ hdue

theorem Dev.holdoffExpiry_due {t u : Nat} (hu : AMap.find d.tilth.holdoff t = some (some u)) (hcause : d.tileCause t = false)
    (hdue : d.before u = true) :
    d.holdoffExpiry t = { d.wait u with tilth := { (d.wait u).tilth with holdoff := AMap.del (d.wait u).tilth.holdoff t } } := by
  rw [Dev.holdoffExpiry, hu]
  exact (if_neg (by simp [hcause])).trans (Dev.fire_of_before _ hdue)
end

/-- Settles O23: each timer acts when its instant has come, and a pin held as asserted puts its switch last among the protection
switches. -/
theorem circuitTimersAct : Obligations.CircuitTimersAct := by
  refine ⟨?edge, ?debounce, ?piece, ?ramp, ?reservation, ?plan, ?holdoff⟩
  case edge =>
    rintro s d n delay high e rfl hruns hn hdue rfl hl
    rw [exec_protectInEdge high delay hruns hn, Dev.protectEdge_due hn hdue hl]
  case debounce =>
    rintro s d e n rfl hruns hn hdue he
    rw [exec_protectDebounce hruns hn]
    refine ⟨fun hl => ?deasserted, fun hl hd ht hen hc => ?triggers⟩
    case deasserted => rw [Dev.protectDebounce_deasserted hn hdue he hl]
    case triggers =>
      rw [Dev.protectDebounce_triggers hn hdue he hl hd ht hen hc]
      exact ⟨_, e.pinSwitch n, rfl, rfl, rfl, rfl, rfl, rfl, Dev.pin_putPin _ n _, rfl, rfl⟩
  case piece =>
    rintro s d e p rfl hruns he hp h
    rw [exec_pieceLockTimeout hruns he, Dev.pieceLockTimeout_past hp h]
  case ramp =>
    rintro s d c rfl hruns hc
    rw [exec_rampStep hruns hc]
    exact ⟨fun h => by rw [Dev.rampAny_recentre h], fun h => by rw [Dev.rampAny_ledger h]⟩
  case reservation =>
    rintro s d e h r rfl hruns hr hdue rfl
    rw [exec_reservationTimeout hruns, Dev.rsvTimeout_due hr hdue, Dev.dropRsv]
  case plan =>
    rintro s d no t due c p rfl hruns hc hp ht rfl hdue
    rw [exec_raWarmTimeout hruns, Dev.raTimeout_due hc hp ht hdue]
  case holdoff =>
    rintro s d e t u rfl hruns ht hu hcause hdue rfl
    rw [exec_tilthHoldoffExpiry hruns ht, Dev.holdoffExpiry_due hu hcause hdue]

end Sys2Proof.Machine
end

