-- ==== Sys2Proof/Proofs/CircuitItems.lean ====
section
/-! PROOFS. Circuit commands (R121 - R124, R149, R297): their checks, what a group holds, the time they name, their entry in commit
order. -/

namespace Sys2Proof.Machine
open Sys2Proof

/-! ## The rows -/

theorem rowOf_groupCommit : RowOf .groupCommit 0x0206 := fun _ _ _ => rfl

/-- The row's opcode is one of the six that ask for one circuit command; 0x0204 alone disarms an alternate. -/
theorem circuitRow {row : ItemSrc → List Byte → Instr} {op : Nat}
    (h : row = .circuitEstablish ∧ op = 0x0200 ∨ row = .circuitRelease ∧ op = 0x0201 ∨ row = .circuitMigrate ∧ op = 0x0202 ∨
      row = .altArm ∧ op = 0x0203 ∨ row = .altDisarm ∧ op = 0x0204 ∨ row = .protectSwitch ∧ op = 0x0205) :
    RowOf row op ∧ (∀ (d : Dev) (x : ItemIn), d.runItem x op = d.itemCircuit x op) ∧ (cirKind op = .altDisarm ↔ op = 0x0204) := by
  rcases h with ⟨rfl, rfl⟩ | ⟨rfl, rfl⟩ | ⟨rfl, rfl⟩ | ⟨rfl, rfl⟩ | ⟨rfl, rfl⟩ | ⟨rfl, rfl⟩ <;>
    exact ⟨fun _ _ _ => rfl, fun _ _ => rfl, by decide⟩

/-! ## Timed commands at acceptance (R149) -/

section
variable {d : Dev} {time : Nat}

theorem Dev.timedAt_full (h : 64 ≤ d.timedCount) : d.timedAt time = .error St.busy := if_pos h

/-- A time that is neither refused as too far ahead nor for want of room lies within a day. -/
theorem Dev.timedAt_within_day (hb : d.timedAt time ≠ .error St.busy) (hv : d.timedAt time ≠ .error St.valueInvalid) :
    time ≤ d.ptpNow + 86400000000000 := by
  refine Nat.le_of_not_lt fun hfar => ?_
  by_cases hfull : 64 ≤ d.timedCount
  · exact hb (Dev.timedAt_full hfull)
  · exact hv ((if_neg hfull).trans (if_pos hfar))

theorem Dev.within_day_of_ok {r : Nat × Bool} (h : d.timedAt time = .ok r) : time ≤ d.ptpNow + 86400000000000 :=
  Dev.timedAt_within_day (by simp [h]) (by simp [h])

theorem Dev.within_day_of_timePast (h : d.timedAt time = .error St.timePast) : time ≤ d.ptpNow + 86400000000000 :=
  Dev.timedAt_within_day (by simp [h, St.timePast, St.busy]) (by simp [h, St.timePast, St.valueInvalid])
end

/-! ## One circuit command (R121 - R124, R297) -/

section
variable {d : Dev} {x : ItemIn} {op : Nat}

theorem Dev.itemCircuit_refused (hs : d.cirStatus (cirKind op) (parseCir x.par) ≠ St.ok) :
    d.itemCircuit x op = (d, d.cirStatus (cirKind op) (parseCir x.par), cirNone) := by
  simp [Dev.itemCircuit, hs]

section
variable (hs : d.cirStatus (cirKind op) (parseCir x.par) = St.ok)
include hs

theorem Dev.itemCircuit_now
    (h : cirKind op = .altDisarm ∨ (bit (parseCir x.par).flags 0 = false ∧ bit (parseCir x.par).flags 1 = false)) :
    d.itemCircuit x op = (d.enqueue (some x.item) (cirKind op) (parseCir x.par) [] none false).ends St.pending := by
  rcases h with hk | ⟨h0, h1⟩
  · simp [Dev.itemCircuit, hk, hk ▸ hs]
  · simp [Dev.itemCircuit, hs, h0, h1]

variable (hk : cirKind op ≠ .altDisarm)
include hk

theorem Dev.itemCircuit_far (h1 : bit (parseCir x.par).flags 1 = true) (hfar : d.ptpNow + 86400000000000 < (parseCir x.par).time) :
    d.itemCircuit x op = (d, St.valueInvalid, cirNone) := by
  simp [Dev.itemCircuit, hs, hk, h1, hfar, St.valueInvalid, St.ok]

section
variable (h0 : bit (parseCir x.par).flags 0 = true)
  (hnear : bit (parseCir x.par).flags 1 = true → (parseCir x.par).time ≤ d.ptpNow + 86400000000000)
include h0 hnear

theorem Dev.itemCircuit_groupFull (hn : 2048 ≤ (AMap.get d.cir.held x.slot []).length) : d.itemCircuit x op = (d, St.busy, cirNone) := by
  have hfar := not_and.mpr fun h1 => Nat.not_lt.mpr (hnear h1)
  simp [Dev.itemCircuit, hs, hk, h0, hfar, hn]

/-- The device with the item's command held for its session's group. -/
def Dev.heldForGroup (d : Dev) (x : ItemIn) (op : Nat) : Dev :=
  { d with cir := { d.cir with held := AMap.put d.cir.held x.slot (AMap.get d.cir.held x.slot [] ++
    [{ item := x.item, kind := cirKind op, par := parseCir x.par }]) } }

theorem Dev.itemCircuit_held (hn : (AMap.get d.cir.held x.slot []).length < 2048) :
    d.itemCircuit x op = (d.heldForGroup x op).ends St.pending := by
  have hfar := not_and.mpr fun h1 => Nat.not_lt.mpr (hnear h1)
  simp [Dev.itemCircuit, hs, hk, h0, hfar, Nat.not_le.mpr hn, Dev.heldForGroup]
end

section
variable (h0 : bit (parseCir x.par).flags 0 = false) (h1 : bit (parseCir x.par).flags 1 = true)
include h0 h1

theorem Dev.itemCircuit_timed {b : Nat} {late : Bool} (ht : d.timedAt (parseCir x.par).time = .ok (b, late)) :
    d.itemCircuit x op = ((if late then d.lateSeen (parseCir x.par).id else d).enqueue (some x.item) (cirKind op) (parseCir x.par) []
      (some b) late).ends St.pending := by
  simp [Dev.itemCircuit, hs, hk, h0, h1, ht, Nat.not_lt.mpr (Dev.within_day_of_ok ht)]

theorem Dev.itemCircuit_untimely {st : Nat} (hnear : (parseCir x.par).time ≤ d.ptpNow + 86400000000000)
    (ht : d.timedAt (parseCir x.par).time = .error st) :
    d.itemCircuit x op = (if st = St.timePast then d.lateSeen (parseCir x.par).id else d, st, cirNone) := by
  simp [Dev.itemCircuit, hs, hk, h0, h1, ht, Nat.not_lt.mpr hnear]
end
end

/-! ## GROUP_COMMIT (R124, R149) -/

/-- The device with the session's held items taken into their group. -/
def Dev.groupTaken (d : Dev) (slot : Nat) : Dev := { d with cir := { d.cir with held := AMap.del d.cir.held slot } }

/-- The last of the times that the held items name. -/
def Dev.groupTime (d : Dev) (slot : Nat) : Nat := (d.heldTimes slot).foldl max 0

theorem Dev.heldTimes_eq_nil {slot : Nat} (h : ∀ m ∈ AMap.get d.cir.held slot [], bit m.par.flags 1 = false) : d.heldTimes slot = [] :=
  List.filterMap_eq_nil_iff.mpr fun m hm => if_neg (by simp [h m hm])

theorem Dev.itemGroup_standby (ha : d.isActive = false) : d.itemGroup x = (d, St.roleStandby, cirNone) := if_pos (by simp [ha])

section
variable (ha : d.isActive = true)
include ha

theorem Dev.itemGroup_now (ht : d.heldTimes x.slot = []) :
    d.itemGroup x = ((d.groupTaken x.slot).enqueue (some x.item) .group { noPar with time := 0 } (AMap.get d.cir.held x.slot []) none
      false).ends St.pending := by
  rw [Dev.heldTimes] at ht
  simp [Dev.itemGroup, ha, ht, Dev.groupTaken]

/-- What becomes of a group whose time is judged so (R149). -/
def Dev.groupJudged (d : Dev) (x : ItemIn) : Except Nat (Nat × Bool) → Taken
  | .error st =>
    if st ≠ St.timePast then (d, st, cirNone)
    else (forEach (AMap.get d.cir.held x.slot []) (fun (m : GroupMem) (d : Dev) => d.finish m.item st cirNone)
      ((d.groupTaken x.slot).lateSeen 0), st, cirNone)
  | .ok (b, late) =>
    ((if late then (d.groupTaken x.slot).lateSeen 0 else d.groupTaken x.slot).enqueue (some x.item) .group
      { noPar with time := d.groupTime x.slot } (AMap.get d.cir.held x.slot []) (some b) late).ends St.pending

section
variable (hne : d.heldTimes x.slot ≠ [])
include hne

theorem Dev.itemGroup_judged : d.itemGroup x = d.groupJudged x (d.timedAt (d.groupTime x.slot)) :=
  (if_neg (by simp [ha])).trans (if_neg (mt List.isEmpty_iff.mp hne))

theorem Dev.itemGroup_timed {b : Nat} {late : Bool} (ht : d.timedAt (d.groupTime x.slot) = .ok (b, late)) :
    d.itemGroup x = ((if late then (d.groupTaken x.slot).lateSeen 0 else d.groupTaken x.slot).enqueue (some x.item) .group
      { noPar with time := d.groupTime x.slot } (AMap.get d.cir.held x.slot []) (some b) late).ends St.pending := by
  rw [Dev.itemGroup_judged ha hne, ht, Dev.groupJudged]

/-- A group whose time is refused stays held, unless it is late. -/
theorem Dev.itemGroup_refused {st : Nat} (hst : st ≠ St.timePast) (ht : d.timedAt (d.groupTime x.slot) = .error st) :
    d.itemGroup x = (d, st, cirNone) := by
  rw [Dev.itemGroup_judged ha hne, ht, Dev.groupJudged, if_pos hst]

theorem Dev.itemGroup_late (ht : d.timedAt (d.groupTime x.slot) = .error St.timePast) :
    d.itemGroup x = (forEach (AMap.get d.cir.held x.slot []) (fun (m : GroupMem) (d : Dev) => d.finish m.item St.timePast cirNone)
      ((d.groupTaken x.slot).lateSeen 0), St.timePast, cirNone) := by
  rw [Dev.itemGroup_judged ha hne, ht, Dev.groupJudged, if_neg (not_not_intro rfl)]
end
end
end

/-! ## Entry in commit order (R125) -/

section
variable {d : Dev} {item : Option Nat} {kind : CmdKind} {par : CirPar} {ms : List GroupMem} {at_ : Option Nat} {late : Bool}

/-- The command that is entered next. -/
def Dev.newCmd (d : Dev) (item : Option Nat) (kind : CmdKind) (par : CirPar) (ms : List GroupMem) (at_ : Option Nat)
    (late : Bool) : Cmd where
  no := d.cir.nextCmd
  item := item
  kind := kind
  par := par
  members := ms
  at_ := at_
  plan := none
  planFailed := none
  moves := 0
  darkMoves := 0
  late := late
  overridden := false
  waited := []

/-- A protection switch without a time goes last among the switches. -/
theorem Dev.enqueue_prot (h : kind = .protect ∧ at_ = none) :
    (d.enqueue item kind par ms at_ late).cir =
      { d.cir with nextCmd := d.cir.nextCmd + 1, prot := d.cir.prot ++ [d.newCmd item kind par ms at_ late] } := by
  rw [Dev.enqueue, if_pos (by simp [h])]
  rfl

/-- Every other command goes last in the queue. -/
theorem Dev.enqueue_queue (h : kind ≠ .protect ∨ at_ ≠ none) :
    (d.enqueue item kind par ms at_ late).cir =
      { d.cir with nextCmd := d.cir.nextCmd + 1, queue := d.cir.queue ++ [d.newCmd item kind par ms at_ late] } := by
  rw [Dev.enqueue, if_neg (by rcases h with h | h <;> simp [h])]
  rfl

theorem Dev.enqueue_nextCmd : (d.enqueue item kind par ms at_ late).cir.nextCmd = d.cir.nextCmd + 1 := by
  by_cases h : kind = .protect ∧ at_ = none
  · rw [Dev.enqueue_prot h]
  · rw [Dev.enqueue_queue (Decidable.not_and_iff_or_not.mp h)]
end

/-- Settles O46: each row comes to its opcode's meaning, a command or a group; what its checks, its flags and its time say is one of the
clauses; and what is accepted goes last of its kind in commit order. -/
theorem circuitItemsAct : Obligations.CircuitItemsAct := by
  refine ⟨?command, ?groupStandby, ?groupNow, ?groupTimed, ?groupRefused, ?groupLate, ?enqueue⟩
  case command =>
    intro row op h
    obtain ⟨hrow, hrun, hkind⟩ := circuitRow h
    refine ⟨?refused, ?now, ?far, ?groupFull, ?held, ?timed, ?noRoom, ?timePast⟩
    case refused =>
      refine fun st hok hpend => itemEnds_of_runItem hrow hpend ?_
      rintro d x rfl
      exact (hrun d x).trans (Dev.itemCircuit_refused hok)
    case now =>
      exact itemGoesOn_of_runItem hrow fun d x ⟨hs, h⟩ => (hrun d x).trans (Dev.itemCircuit_now hs (h.imp_left hkind.mpr))
    case far =>
      exact itemEnds_of_runItem hrow (by decide) fun d x ⟨hs, hop, h1, hfar⟩ =>
        (hrun d x).trans (Dev.itemCircuit_far hs (mt hkind.mp hop) h1 hfar)
    case groupFull =>
      exact itemEnds_of_runItem hrow (by decide) fun d x ⟨hs, hop, h0, hnear, hn⟩ =>
        (hrun d x).trans (Dev.itemCircuit_groupFull hs (mt hkind.mp hop) h0 hnear hn)
    case held =>
      exact itemGoesOn_of_runItem hrow fun d x ⟨hs, hop, h0, hnear, hn⟩ =>
        (hrun d x).trans (Dev.itemCircuit_held hs (mt hkind.mp hop) h0 hnear hn)
    case timed =>
      exact fun b late => itemGoesOn_of_runItem hrow fun d x ⟨hs, hop, h0, h1, ht⟩ =>
        (hrun d x).trans (Dev.itemCircuit_timed hs (mt hkind.mp hop) h0 h1 ht)
    case noRoom =>
      exact itemEnds_of_runItem hrow (by decide) fun d x ⟨hs, hop, h0, h1, hnear, hn⟩ =>
        (hrun d x).trans (Dev.itemCircuit_untimely hs (mt hkind.mp hop) h0 h1 hnear (Dev.timedAt_full hn))
    case timePast =>
      exact itemEnds_of_runItem hrow (by decide) fun d x ⟨hs, hop, h0, h1, ht⟩ =>
        (hrun d x).trans (Dev.itemCircuit_untimely hs (mt hkind.mp hop) h0 h1 (Dev.within_day_of_timePast ht) ht)
  case groupStandby => exact itemEnds_of_runItem rowOf_groupCommit (by decide) fun d x ha => Dev.itemGroup_standby ha
  case groupNow =>
    exact itemGoesOn_of_runItem rowOf_groupCommit fun d x ⟨ha, h⟩ => Dev.itemGroup_now ha (Dev.heldTimes_eq_nil h)
  case groupTimed =>
    exact fun b late => itemGoesOn_of_runItem rowOf_groupCommit fun d x ⟨ha, hne, ht⟩ => Dev.itemGroup_timed ha hne ht
  case groupRefused =>
    intro st hst
    obtain ⟨hpend, hpast⟩ : st ≠ St.pending ∧ st ≠ St.timePast := by rcases hst with rfl | rfl <;> decide
    exact itemEnds_of_runItem rowOf_groupCommit hpend fun d x ⟨ha, hne, ht⟩ => Dev.itemGroup_refused ha hne hpast ht
  case groupLate =>
    exact itemEnds_of_runItem rowOf_groupCommit (by decide) fun d x ⟨ha, hne, ht⟩ => Dev.itemGroup_late ha hne ht
  case enqueue =>
    rintro d item kind par ms at_ late c rfl
    refine ⟨?number, fun h => ?prot, fun h => ?queue⟩
    case number => exact Dev.enqueue_nextCmd
    case prot => rw [Dev.enqueue_prot h]; exact ⟨rfl, rfl⟩
    case queue => rw [Dev.enqueue_queue h]; exact ⟨rfl, rfl⟩

end Sys2Proof.Machine
end

