-- ==== Sys2Proof/Proofs/CircuitReadItems.lean ====
section
/-! PROOFS. Reads of circuits, paths and plans, and reservations: what each opcode answers, case by case (R69, R121, R154, R162). -/

namespace Sys2Proof.Machine
open Sys2Proof

/-! ## The rows -/

theorem rowOf_circuitRead : RowOf .circuitRead 0x0207 := fun _ _ _ => rfl
theorem rowOf_circuitReserve : RowOf .circuitReserve 0x0208 := fun _ _ _ => rfl
theorem rowOf_reserveCancel : RowOf .reserveCancel 0x0209 := fun _ _ _ => rfl
theorem rowOf_planStatus : RowOf .planStatus 0x020A := fun _ _ _ => rfl
theorem rowOf_pathRead : RowOf .pathRead 0x020B := fun _ _ _ => rfl

section
variable {d : Dev} {x : ItemIn}

/-! ## CIRCUIT_READ (R121) -/

section
variable (hb : bit (beAt x.par 2 2) 13 = true)
include hb

theorem Dev.itemCircuitRead_entry (hmax : beAt x.par 0 2 ≤ 0x7FF) :
    d.itemCircuitRead x = d.okWith (wordBytes (d.entryWords (beAt x.par 0 2))) :=
  (if_pos hb).trans (if_neg (Nat.not_lt.mpr hmax))

theorem Dev.itemCircuitRead_noEntry (hmax : 0x7FF < beAt x.par 0 2) : d.itemCircuitRead x = d.ends St.valueInvalid :=
  (if_pos hb).trans (if_pos hmax)
end

section
variable (hb : bit (beAt x.par 2 2) 13 = false)
include hb

theorem Dev.itemCircuitRead_noId (h : beAt x.par 0 2 = 0 ∨ beAt x.par 0 2 = 0xFFFF) : d.itemCircuitRead x = d.ends St.valueInvalid :=
  (if_neg (by simp [hb])).trans (if_pos (by simpa using h))

variable (h0 : beAt x.par 0 2 ≠ 0) (hf : beAt x.par 0 2 ≠ 0xFFFF)
include h0 hf

theorem Dev.itemCircuitRead_live {e : Nat} (hl : d.liveOf (beAt x.par 0 2) = some e) :
    d.itemCircuitRead x = d.okWith (wordBytes (d.entryWords e)) := by
  simp [Dev.itemCircuitRead, hb, h0, hf, hl]

theorem Dev.itemCircuitRead_unknown (hl : d.liveOf (beAt x.par 0 2) = none) : d.itemCircuitRead x = d.ends St.circuitUnknown := by
  simp [Dev.itemCircuitRead, hb, h0, hf, hl]
end

/-! ## CIRCUIT_RESERVE (R154) -/

theorem Dev.itemReserve_standby (ha : d.isActive = false) : d.itemReserve x = d.ends St.roleStandby := if_pos (by simp [ha])

theorem Dev.itemReserve_invalid (ha : d.isActive = true)
    (h : 1024 ≤ beAt x.par 0 2 ∨ 1024 ≤ beAt x.par 2 2 ∨ (16 ≤ beAt x.par 4 1 ∧ beAt x.par 4 1 ≠ 255)) :
    d.itemReserve x = d.ends St.valueInvalid :=
  (if_neg (by simp [ha])).trans (if_pos (by simpa [or_assoc] using h))

/-- The ACTIVE unit is asked for a reservation between two ports that there are, through any tile or a tile that there is. -/
structure Dev.ReserveGood (d : Dev) (x : ItemIn) : Prop where
  active : d.isActive = true
  inPort : beAt x.par 0 2 < 1024
  outPort : beAt x.par 2 2 < 1024
  via : beAt x.par 4 1 < 16 ∨ beAt x.par 4 1 = 255

/-- The tile that the item asks to route through; none for any. -/
def ItemIn.reserveVia (x : ItemIn) : Option Nat := if beAt x.par 4 1 = 255 then none else some (beAt x.par 4 1)

/-- The first handle less 1 that no reservation has. -/
def Dev.freeHandle (d : Dev) : Option Nat := (List.range 256).find? (fun h => !d.tilth.rsv.any (fun (r : Rsv) => r.handle = h + 1))

theorem Dev.freeHandle_eq_none : d.freeHandle = none ↔ ∀ h < 256, ∃ r ∈ d.tilth.rsv, r.handle = h + 1 := by
  simp [Dev.freeHandle]

theorem Dev.freeHandle_exists (h : ∃ h < 256, ∀ r ∈ d.tilth.rsv, r.handle ≠ h + 1) : ∃ h, d.freeHandle = some h := by
  obtain ⟨h, hlt, hfree⟩ := h
  refine Option.ne_none_iff_exists'.mp fun hnone => ?_
  obtain ⟨r, hr, hh⟩ := Dev.freeHandle_eq_none.mp hnone h hlt
  exact hfree r hr hh

theorem ItemIn.reserveVia_eq {via : Option Nat}
    (h : beAt x.par 4 1 = 255 ∧ via = none ∨ beAt x.par 4 1 < 16 ∧ via = some (beAt x.par 4 1)) :
    x.reserveVia = via := by
  rcases h with ⟨hv, rfl⟩ | ⟨hv, rfl⟩
  · exact if_pos hv
  · exact if_neg (by omega)

/-- The device with a reservation of these two ports, for the asked time or the default one. -/
def Dev.reserved (d : Dev) (x : ItemIn) (h : Nat) (route : List Hop) : Dev :=
  { d with tilth := { d.tilth with rsv := d.tilth.rsv ++ [{
      handle := h + 1, inPort := beAt x.par 0 2, outPort := beAt x.par 2 2, via := x.reserveVia
      untilTb := d.time.tb + Dev.msNs (if beAt x.par 6 2 = 0 then d.rd F.TILTH_TMO.RSV_DEF_MS else beAt x.par 6 2), route := route }] } }

section
variable (hg : d.ReserveGood x)
include hg

theorem Dev.ReserveGood.notRefused :
    ¬ (!d.isActive) = true ∧ ¬ (decide (1024 ≤ beAt x.par 0 2) || decide (1024 ≤ beAt x.par 2 2) ||
      (decide (16 ≤ beAt x.par 4 1) && decide (beAt x.par 4 1 ≠ 255))) = true := by
  obtain ⟨ha, hi, ho, hv⟩ := hg
  refine ⟨by simp [ha], ?_⟩
  simp only [Bool.or_eq_true, Bool.and_eq_true, decide_eq_true_eq]
  omega

theorem Dev.itemReserve_busy (hh : d.freeHandle = none) : d.itemReserve x = d.ends St.busy := by
  obtain ⟨ha, hv⟩ := hg.notRefused
  rw [Dev.freeHandle] at hh
  rw [Dev.itemReserve, if_neg ha, if_neg hv, hh]

variable {e : Dev} {h pick : Nat} (hh : d.freeHandle = some h) (hdraw : d.draw (2 ^ 32) = (pick, e))
include hh hdraw

theorem Dev.itemReserve_noRoute
    (hr : e.planRoute (e.obst 0 .free none) true pick x.reserveVia (beAt x.par 0 2) (beAt x.par 2 2) = none) :
    d.itemReserve x = e.ends St.noRoute := by
  obtain ⟨ha, hv⟩ := hg.notRefused
  rw [Dev.freeHandle] at hh
  rw [ItemIn.reserveVia] at hr
  simp only [Dev.itemReserve, if_neg ha, if_neg hv, hh, hdraw, hr]

theorem Dev.itemReserve_ok {route : List Hop}
    (hr : e.planRoute (e.obst 0 .free none) true pick x.reserveVia (beAt x.par 0 2) (beAt x.par 2 2) = some route) :
    d.itemReserve x = (e.reserved x h route).okWith (beBytes 2 (h + 1) ++ zeros 2) := by
  obtain ⟨ha, hv⟩ := hg.notRefused
  rw [Dev.freeHandle] at hh
  rw [ItemIn.reserveVia] at hr
  simp only [Dev.itemReserve, if_neg ha, if_neg hv, hh, hdraw, hr]
  rfl
end

/-! ## RESERVE_CANCEL (R154, R163) -/

theorem Dev.itemReserveCancel_standby (ha : d.isActive = false) : d.itemReserveCancel x = d.ends St.roleStandby := if_pos (by simp [ha])

theorem Dev.itemReserveCancel_known (ha : d.isActive = true) (h : ∃ r ∈ d.tilth.rsv, r.handle = beAt x.par 0 2) :
    d.itemReserveCancel x = (d.dropRsv (beAt x.par 0 2) 0).ends St.ok :=
  (if_neg (by simp [ha])).trans (if_pos (by simpa using h))

theorem Dev.itemReserveCancel_unknown (ha : d.isActive = true) (h : ∀ r ∈ d.tilth.rsv, r.handle ≠ beAt x.par 0 2) :
    d.itemReserveCancel x = d.ends St.rsvUnknown :=
  (if_neg (by simp [ha])).trans (if_neg (by simpa using h))

/-! ## PLAN_STATUS (R154, R162) -/

theorem Dev.itemPlanStatus_standby (ha : d.isActive = false) : d.itemPlanStatus x = d.ends St.roleStandby := if_pos (by simp [ha])

section
variable (ha : d.isActive = true)
include ha

theorem Dev.itemPlanStatus_noSelector (h : 1 < beAt x.par 0 1) : d.itemPlanStatus x = d.ends St.valueInvalid :=
  (if_neg (by simp [ha])).trans (if_pos h)

theorem Dev.itemPlanStatus_rsv {r : Rsv} (hs : beAt x.par 0 1 = 1)
    (hr : d.tilth.rsv.find? (fun (r : Rsv) => r.handle = beAt x.par 2 2) = some r) :
    d.itemPlanStatus x = d.okWith (beBytes 1 (if d.planArmed [] r.route then 1 else 0) ++ zeros 3) := by
  simp [Dev.itemPlanStatus, ha, hs, hr]

theorem Dev.itemPlanStatus_rsvUnknown (hs : beAt x.par 0 1 = 1) (hr : ∀ r ∈ d.tilth.rsv, r.handle ≠ beAt x.par 2 2) :
    d.itemPlanStatus x = d.ends St.rsvUnknown := by
  have hnone : d.tilth.rsv.find? (fun (r : Rsv) => r.handle = beAt x.par 2 2) = none := List.find?_eq_none.mpr (by simpa using hr)
  simp [Dev.itemPlanStatus, ha, hs, hnone]

theorem Dev.itemPlanStatus_noId (hs : beAt x.par 0 1 = 0) (h : beAt x.par 2 2 = 0 ∨ beAt x.par 2 2 = 0xFFFF) :
    d.itemPlanStatus x = d.ends St.valueInvalid := by
  simp [Dev.itemPlanStatus, ha, hs, h]

variable (hs : beAt x.par 0 1 = 0) (h0 : beAt x.par 2 2 ≠ 0) (hf : beAt x.par 2 2 ≠ 0xFFFF)
include hs h0 hf

theorem Dev.itemPlanStatus_alt {a : Nat} (h : d.altOf (beAt x.par 2 2) = some a) :
    d.itemPlanStatus x = d.okWith (beBytes 1 (if d.altArmed a then 1 else 0) ++ zeros 3) := by
  simp [Dev.itemPlanStatus, ha, hs, h0, hf, h]

theorem Dev.itemPlanStatus_altUnknown (h : d.altOf (beAt x.par 2 2) = none) : d.itemPlanStatus x = d.ends St.circuitUnknown := by
  simp [Dev.itemPlanStatus, ha, hs, h0, hf, h]
end

/-! ## PATH_READ (R69) -/

theorem Dev.itemPathRead_ok (h : beAt x.par 0 2 ≤ 0x7FF) : d.itemPathRead x = d.okWith (wordBytes (d.pathWords (beAt x.par 0 2))) :=
  if_neg (Nat.not_lt.mpr h)

theorem Dev.itemPathRead_invalid (h : 0x7FF < beAt x.par 0 2) : d.itemPathRead x = d.ends St.valueInvalid := if_pos h
end

/-- Settles O47: each row comes to its opcode's meaning, and each clause is one case of that meaning. -/
theorem circuitReadItemsEnd : Obligations.CircuitReadItemsEnd := by
  refine ⟨?readLive, ?readEntry, ?readInvalid, ?readUnknown, ?reserve, ?reserveNoRoute, ?reserveBusy, ?reserveInvalid, ?reserveStandby,
    ?cancel, ?cancelStandby, ?cancelUnknown, ?planStandby, ?planInvalid, ?planAltUnknown, ?planRsvUnknown, ?planAlt, ?planRsv,
    ?path, ?pathInvalid⟩
  case readLive =>
    exact fun e => itemEnds_of_runItem rowOf_circuitRead (by decide) fun d x ⟨hb, h0, hf, hl⟩ => Dev.itemCircuitRead_live hb h0 hf hl
  case readEntry => exact itemEnds_of_runItem rowOf_circuitRead (by decide) fun d x ⟨hb, hmax⟩ => Dev.itemCircuitRead_entry hb hmax
  case readInvalid =>
    refine itemEnds_of_runItem rowOf_circuitRead (by decide) fun d x h => ?_
    split at h
    next hb => exact Dev.itemCircuitRead_noEntry hb h
    next hb => exact Dev.itemCircuitRead_noId (by simpa using hb) h
  case readUnknown =>
    exact itemEnds_of_runItem rowOf_circuitRead (by decide) fun d x ⟨hb, h0, hf, hl⟩ => Dev.itemCircuitRead_unknown hb h0 hf hl
  case reserve =>
    refine fun e pick via route h => itemEnds_of_runItem rowOf_circuitReserve (by decide) fun d x ⟨ha, hi, ho, hv, hh, hdraw, hr⟩ => ?_
    obtain rfl := ItemIn.reserveVia_eq hv
    exact Dev.itemReserve_ok ⟨ha, hi, ho, by omega⟩ hh hdraw hr
  case reserveNoRoute =>
    refine fun e pick via => itemEnds_of_runItem rowOf_circuitReserve (by decide) fun d x ⟨ha, hi, ho, hv, hh, hdraw, hr⟩ => ?_
    obtain rfl := ItemIn.reserveVia_eq hv
    obtain ⟨h, hfree⟩ := Dev.freeHandle_exists hh
    exact Dev.itemReserve_noRoute ⟨ha, hi, ho, by omega⟩ hfree hdraw hr
  case reserveBusy =>
    exact itemEnds_of_runItem rowOf_circuitReserve (by decide) fun d x ⟨ha, hi, ho, hv, hh⟩ =>
      Dev.itemReserve_busy ⟨ha, hi, ho, hv⟩ (Dev.freeHandle_eq_none.mpr hh)
  case reserveInvalid => exact itemEnds_of_runItem rowOf_circuitReserve (by decide) fun d x ⟨ha, h⟩ => Dev.itemReserve_invalid ha h
  case reserveStandby => exact itemEnds_of_runItem rowOf_circuitReserve (by decide) fun d x ha => Dev.itemReserve_standby ha
  case cancel => exact itemEnds_of_runItem rowOf_reserveCancel (by decide) fun d x ⟨ha, h⟩ => Dev.itemReserveCancel_known ha h
  case cancelStandby => exact itemEnds_of_runItem rowOf_reserveCancel (by decide) fun d x ha => Dev.itemReserveCancel_standby ha
  case cancelUnknown => exact itemEnds_of_runItem rowOf_reserveCancel (by decide) fun d x ⟨ha, h⟩ => Dev.itemReserveCancel_unknown ha h
  case planStandby => exact itemEnds_of_runItem rowOf_planStatus (by decide) fun d x ha => Dev.itemPlanStatus_standby ha
  case planInvalid =>
    refine itemEnds_of_runItem rowOf_planStatus (by decide) fun d x ⟨ha, h⟩ => ?_
    rcases h with hs | ⟨hs, h⟩
    · exact Dev.itemPlanStatus_noSelector ha hs
    · exact Dev.itemPlanStatus_noId ha hs h
  case planAltUnknown =>
    exact itemEnds_of_runItem rowOf_planStatus (by decide) fun d x ⟨ha, hs, h0, hf, h⟩ => Dev.itemPlanStatus_altUnknown ha hs h0 hf h
  case planRsvUnknown =>
    exact itemEnds_of_runItem rowOf_planStatus (by decide) fun d x ⟨ha, hs, h⟩ => Dev.itemPlanStatus_rsvUnknown ha hs h
  case planAlt =>
    exact fun a => itemEnds_of_runItem rowOf_planStatus (by decide) fun d x ⟨ha, hs, h0, hf, h⟩ => Dev.itemPlanStatus_alt ha hs h0 hf h
  case planRsv => exact fun r => itemEnds_of_runItem rowOf_planStatus (by decide) fun d x ⟨ha, hs, h⟩ => Dev.itemPlanStatus_rsv ha hs h
  case path => exact itemEnds_of_runItem rowOf_pathRead (by decide) fun d x h => Dev.itemPathRead_ok h
  case pathInvalid => exact itemEnds_of_runItem rowOf_pathRead (by decide) fun d x h => Dev.itemPathRead_invalid h

end Sys2Proof.Machine
end

