-- ==== Sys2Proof/Proofs/Links.lean ====
section
/-! PROOFS. The links of the tiles: training and its timer (R172, R187), a lane that fails or comes back (R186), writes of WEFT_CTRL
(R190). -/

namespace Sys2Proof.Machine
open Sys2Proof

/-! ## The commands -/

theorem exec_linkTrain {s : State} {t : Nat} (r : TrainResult) (h : s.fabricRuns = true) (ht : t < 16) :
    exec (.linkTrain t r) s = .next (s.put (s.dev.startTrain t r)) :=
  State.live_of_fabricRuns _ (decide_eq_true ht) h

theorem exec_linkDown {s : State} {t : Nat} (h : s.fabricRuns = true) (ht : t < 16) :
    exec (.linkDown t) s = .next (s.put (if s.dev.linkUp t then s.dev.retrainStart t else s.dev)) :=
  State.live_of_fabricRuns _ (decide_eq_true ht) h

theorem exec_linkRetrainTimer {s : State} {t : Nat} (h : s.fabricRuns = true) (ht : t < 16) :
    exec (.linkRetrainTimer t) s = .next (s.put (s.dev.linkRetry t)) :=
  State.live_of_fabricRuns _ (decide_eq_true ht) h

theorem exec_laneFail {s : State} {t : Nat} {r : LaneReport} (h : s.fabricRuns = true) (ht : t < 16) (hr : r.lane < 6) :
    exec (.laneFail t r) s = .next (s.put (s.dev.laneJudge t r)) :=
  State.live_of_fabricRuns _ (by simp [ht, hr]) h

theorem exec_laneRetrain {s : State} {t : Nat} (passed : Nat) (h : s.fabricRuns = true) (ht : t < 16) :
    exec (.laneRetrain t passed) s = .next (s.put (s.dev.laneRetrain t passed)) :=
  State.live_of_fabricRuns _ (decide_eq_true ht) h

theorem exec_retrain {s : State} {t : Nat} (v : Nat) (h : s.runs = true) (ht : t < 16) :
    exec (.retrain t v) s = .next (s.put (s.dev.regCommand (R.WEFT_CTRL t) (putBit v 0 true))) :=
  State.run_of_runs _ (decide_eq_true ht) h

theorem exec_burst {s : State} {t : Nat} (v : Nat) (h : s.runs = true) (ht : t < 16) :
    exec (.burst t v) s = .next (s.put (s.dev.regCommand (R.WEFT_CTRL t) (putBit v 1 true))) :=
  State.run_of_runs _ (decide_eq_true ht) h

/-! ## Waiting for an instant -/

/-- While the clock runs on, every field reads as before and every link stays as it is. -/
@[simp] theorem Dev.wait_rd (d : Dev) (due : Nat) (f : Fld) : (d.wait due).rd f = d.rd f := d.advance_rd _ f

@[simp] theorem Dev.wait_link (d : Dev) (due t : Nat) : (d.wait due).link t = d.link t := by
  rw [Dev.link, Dev.wait, Dev.advance_weft, Dev.link]

section
variable {d : Dev} {t : Nat}

/-! ## Training (R172, R187) -/

theorem Dev.startTrain_training (r : TrainResult) (hs : 4 ≤ d.stage) (hl : d.rd (F.WEFT_STAT.LINK t) = 1) :
    d.startTrain t r =
      (let e := d.linkTrain t r
       { e with boot := { e.boot with
          tried := if e.boot.tried.contains t then e.boot.tried else e.boot.tried ++ [t] } } : Dev).stage4Check :=
  if_neg (by simpa [hl] using hs)

theorem Dev.rd_LINK_of_up (h : d.linkUp t = true) : d.rd (F.WEFT_STAT.LINK t) ≠ 0 := by
  intro h0
  simp [Dev.linkUp, h0] at h

/-- A link that carries frames drops with its event, and hears and sends no more. -/
theorem Dev.linkDown_up (h : d.linkUp t = true) :
    d.linkDown t =
      ((d.wr (F.WEFT_STAT.LINK t) 0).raise (weftBlock t) 1 (laneObj t (63 - (d.link t).lanes)) 1).updLink t
        (fun k => { k with sent := none, heard := false, trained := false }) := by
  rw [Dev.linkDown, if_neg (Dev.rd_LINK_of_up h)]
  simp only [h, if_true]
  rfl

theorem Dev.linkDown_down (h : d.rd (F.WEFT_STAT.LINK t) = 0) : d.linkDown t = d := if_pos h

/-- A link that is DOWN is trained again when the interval since its last attempt has run out. -/
theorem Dev.linkRetry_due (hl : d.rd (F.WEFT_STAT.LINK t) = 0) (hs : 4 ≤ d.stage)
    (hdue : d.before ((d.link t).trainTb + retrainNs) = true) :
    d.linkRetry t = ((d.wait ((d.link t).trainTb + retrainNs)).bump (F.WEFT_STAT.RETRAINS t) 1).trainStart t := by
  have hgo : ¬ (decide (d.rd (F.WEFT_STAT.LINK t) ≠ 0) || decide (d.rd F.BOOT_STAT.STAGE < 4)) = true := by
    simpa [hl, Dev.stage] using hs
  rw [Dev.linkRetry, if_neg hgo, Dev.fire_of_before _ hdue, Dev.retrainStart, Dev.linkDown_down (by rw [Dev.wait_rd, hl])]

/-! ## Lanes (R186) -/

theorem Dev.laneJudge_fails {r : LaneReport} (h : r.lock = false ∨ (r.bad.length = 4 ∧ ∀ n ∈ r.bad, 16 < n)) :
    d.laneJudge t r = d.laneFail t r.lane :=
  if_pos (by simpa using h)

theorem Dev.laneJudge_stands {r : LaneReport} (hl : r.lock = true) (h : r.bad.length ≠ 4 ∨ ∃ n ∈ r.bad, n ≤ 16) :
    d.laneJudge t r = d := by
  refine if_neg fun hfails => ?_
  obtain ⟨hfour, hbad⟩ : r.bad.length = 4 ∧ ∀ n ∈ r.bad, 16 < n := by simpa [hl] using hfails
  rcases h with hlen | ⟨n, hn, hle⟩
  · exact hlen hfour
  · exact absurd (hbad n hn) (Nat.not_lt.mpr hle)

/-- The failed lanes that have passed will rejoin; the next attempt is counted from now. -/
theorem Dev.laneRetrain_due (passed : Nat) (hup : d.linkUp t = true) (hl : (d.link t).lanes ≠ 63)
    (hdue : d.before ((d.link t).laneTb + retrainNs) = true) :
    d.laneRetrain t passed =
      (let e := d.wait ((d.link t).laneTb + retrainNs)
       e.updLink t (fun k => { k with
        laneTb := e.time.tb
        rejoin := ((bitsSet (e.goodLanes t (passed % 64)) 6).filter (fun i => !bit (d.link t).lanes i)).foldl
          (fun a i => putBit a i true) k.rejoin })) := by
  have hgo : ¬ (!d.linkUp t || decide ((d.link t).lanes = 63)) = true := by simp [hup, hl]
  rw [Dev.laneRetrain, if_neg hgo, Dev.fire_of_before _ hdue]
  simp only [Dev.wait_link]

/-! ## WEFT_CTRL (R190) -/

theorem Dev.pairOwned_WEFT_CTRL (d : Dev) (idx : List Nat) : d.pairOwned (R.WEFT_CTRL 0) idx = false := by
  rw [Dev.pairOwned]; rfl

theorem Dev.rowWrite_WEFT_CTRL (d : Dev) (a : Nat) (idx : List Nat) (fields : List FRow) (v : Nat) :
    d.rowWrite a (R.WEFT_CTRL 0) idx fields v = (d.weftCtrlWrite (idx.headD 0) v, St.ok) := by
  rw [Dev.rowWrite, if_neg (by decide), if_neg (by decide), if_neg (by decide), if_neg (by decide), if_neg (by decide), if_neg (by decide),
    if_neg (by decide), if_neg (by decide), if_pos rfl]

/-- A write of WEFT_CTRL is refused on neither unit and travels nowhere. -/
theorem Dev.regCommand_WEFT_CTRL (d : Dev) (ht : t < 16) (v : Nat) : d.regCommand (R.WEFT_CTRL t) v = d.weftCtrlWrite t v :=
  Dev.regCommand_plain _ _ _ _ _ _ (rowAt_WEFT_CTRL t ht) (d.pairOwned_WEFT_CTRL _) (Dev.pairOwned_WEFT_CTRL _ _)
    fun fields => d.rowWrite_WEFT_CTRL _ _ fields v

theorem forEach_of_fixed {α β : Type} {f : α → β → β} {b : β} (l : List α) (h : ∀ a ∈ l, f a b = b) : forEach l f b = b := by
  induction l with
  | nil => rfl
  | cons a l ih =>
    obtain ⟨ha, hl⟩ := List.forall_mem_cons.mp h
    exact (congrArg (forEach l f) ha).trans (ih hl)

/-- No lane fails where every lane disabled now was disabled before. -/
theorem Dev.forEach_laneFail_none (d : Dev) (t mask : Nat) :
    forEach (bitsSet mask 6) (fun l (d : Dev) => if bit mask l then d else d.laneFail t l) d = d :=
  forEach_of_fixed _ fun _ hl => if_pos (List.mem_filter.mp hl).2

section
variable {v : Nat} (hdis : bits v 13 8 = d.rd (F.WEFT_CTRL.LANE_DIS t))
include hdis

/-- A write that leaves LANE_DIS as it is acts by RETRAIN, then by BURST. -/
theorem Dev.weftCtrlWrite_sameLanes :
    d.weftCtrlWrite t v =
      (let w := d.wr (F.WEFT_CTRL.LANE_DIS t) (bits v 13 8)
       let e := if bit v 0 && !w.flag (F.WEFT_CTRL.RETRAIN t) then (w.retrainStart t).setFlag (F.WEFT_CTRL.RETRAIN t) true else w
       if bit v 1 then e.updLink t (fun k => { k with burst := true }) else e) := by
  simp only [Dev.weftCtrlWrite, ← hdis, Dev.forEach_laneFail_none]

theorem Dev.weftCtrlWrite_retrain (h0 : bit v 0 = true) (h1 : bit v 1 = false)
    (hidle : (d.wr (F.WEFT_CTRL.LANE_DIS t) (bits v 13 8)).flag (F.WEFT_CTRL.RETRAIN t) = false) :
    d.weftCtrlWrite t v =
      ((d.wr (F.WEFT_CTRL.LANE_DIS t) (bits v 13 8)).retrainStart t).setFlag (F.WEFT_CTRL.RETRAIN t) true := by
  rw [Dev.weftCtrlWrite_sameLanes hdis]
  simp [h0, h1, hidle]

theorem Dev.weftCtrlWrite_burst (h0 : bit v 0 = false) (h1 : bit v 1 = true) :
    d.weftCtrlWrite t v = (d.wr (F.WEFT_CTRL.LANE_DIS t) (bits v 13 8)).updLink t (fun k => { k with burst := true }) := by
  rw [Dev.weftCtrlWrite_sameLanes hdis]
  simp [h0, h1]
end
end

/-- Settles O18: each command acts when its link is in the state it asks for and its instant due; the retrain and the burst
are writes of WEFT_CTRL. -/
theorem linksAct : Obligations.LinksAct := by
  refine ⟨?train, ?down, ?retry, ?laneFail, ?laneRetrain, ?ctrl, ?retrain, ?burst⟩
  case train =>
    rintro s d t r rfl hruns ht hs hl e w rfl rfl
    rw [exec_linkTrain r hruns ht, Dev.startTrain_training r hs hl]
  case down =>
    rintro s d t rfl hruns ht hup
    rw [exec_linkDown hruns ht, if_pos hup, Dev.retrainStart, Dev.linkDown_up hup]
  case retry =>
    rintro s d t rfl hruns ht hl hs hdue
    rw [exec_linkRetrainTimer hruns ht, Dev.linkRetry_due hl hs hdue]
  case laneFail =>
    rintro s d t r rfl hruns ht hr - -
    rw [exec_laneFail hruns ht hr]
    refine ⟨fun h => ?fails, fun hl h => ?stands⟩
    case fails => rw [Dev.laneJudge_fails h]
    case stands => rw [Dev.laneJudge_stands hl h, State.put_dev]
  case laneRetrain =>
    rintro s d e t passed rfl hruns ht hup hl hdue rfl
    rw [exec_laneRetrain passed hruns ht, Dev.laneRetrain_due passed hup hl hdue]
  case ctrl =>
    rintro s d t v rfl hruns ht
    rw [exec_retrain v hruns ht, exec_burst v hruns ht, Dev.regCommand_WEFT_CTRL _ ht, Dev.regCommand_WEFT_CTRL _ ht]
    exact ⟨rfl, rfl⟩
  case retrain => exact fun d t v hdis h0 h1 hidle => Dev.weftCtrlWrite_retrain hdis h0 h1 hidle
  case burst => exact fun d t v hdis h0 h1 => Dev.weftCtrlWrite_burst hdis h0 h1

end Sys2Proof.Machine
end

