-- ==== Sys2Proof/Proofs/SieveRegisters.lean ====
section
/-! PROOFS. The converters' registers: a command's single bit put into a word, the words of SV_CTRL, SV_SCAN, SV_DWELL, SV_SCAN_LEN and
SV_INJ at their rows (R198 - R200), and what a converter's record reads as after an update. -/

namespace Sys2Proof.Machine
open Sys2Proof

/-! ## One bit of a word -/

/-- A bit is put between the bits above it and the bits below it. -/
theorem putBit_eq (v n : Nat) (b : Bool) : putBit v n b = (v / 2 ^ n - v / 2 ^ n % 2 + b.toNat) * 2 ^ n + v % 2 ^ n := by
  have hv : 2 ^ n * (v / 2 ^ n) + v % 2 ^ n = v := Nat.div_add_mod v (2 ^ n)
  have hle : v / 2 ^ n % 2 * 2 ^ n ≤ v / 2 ^ n * 2 ^ n := Nat.mul_le_mul_right _ (Nat.mod_le _ _)
  have hb : (if b then 1 else 0) % 2 = b.toNat := by cases b <;> rfl
  simp only [putBit, putBits, bits, Nat.sub_self, Nat.zero_add, Nat.pow_one, hb, Nat.add_mul, Nat.sub_mul]
  rw [Nat.mul_comm] at hv
  omega

theorem bit_putBit_self (v n : Nat) (b : Bool) : bit (putBit v n b) n = b := by
  have hdiv : putBit v n b / 2 ^ n = v / 2 ^ n - v / 2 ^ n % 2 + b.toNat := by
    rw [putBit_eq, Nat.mul_comm, Nat.mul_add_div (Nat.two_pow_pos n), Nat.div_eq_of_lt (Nat.mod_lt _ (Nat.two_pow_pos n)), Nat.add_zero]
  rw [bit, hdiv]
  cases b <;> simp <;> omega

theorem bit_eq_testBit (v n : Nat) : bit v n = v.testBit n := Nat.testBit_eq_decide_div_mod_eq.symm

/-- The bits below the one that is put stay. -/
theorem bit_putBit_of_lt (v : Nat) {m n : Nat} (b : Bool) (h : m < n) : bit (putBit v n b) m = bit v m := by
  have hmod : putBit v n b % 2 ^ n = v % 2 ^ n := by rw [putBit_eq, Nat.mul_add_mod_self_right, Nat.mod_mod]
  have hlow : ∀ x, bit x m = (x % 2 ^ n).testBit m := fun x => by
    rw [bit_eq_testBit, Nat.testBit_mod_two_pow, decide_eq_true h, Bool.true_and]
  rw [hlow, hmod, ← hlow]

/-! ## A converter's record -/

section
variable (d : Dev) (k : Nat)

@[simp] theorem Dev.setFlag_conv (f : Fld) (b : Bool) : (d.setFlag f b).conv k = d.conv k := rfl
@[simp] theorem Dev.conv_updConv_self (f : Conv → Conv) : (d.updConv k f).conv k = f (d.conv k) := AMap.get_put_self _ _ _ _

/-! ## The rows -/

variable (a : Nat) (idx : List Nat) (fields : List FRow) (v : Nat)

theorem Dev.rowWrite_SV_CTRL : d.rowWrite a (R.SV_CTRL 0) idx fields v = (d.svCtrlWrite (idx.headD 0) v, St.ok) := rfl
theorem Dev.rowWrite_SV_INJ : d.rowWrite a (R.SV_INJ 0) idx fields v = d.injectGo (idx.headD 0) v := rfl
theorem Dev.rowWrite_SV_SCAN : d.rowWrite a (R.SV_SCAN 0 0) idx fields v = d.svScan (idx.headD 0) (idx.getD 1 0) v := rfl
theorem Dev.rowWrite_SV_DWELL : d.rowWrite a (R.SV_DWELL 0 0) idx fields v = d.svScan (idx.headD 0) (16 + idx.getD 1 0) v := rfl
theorem Dev.rowWrite_SV_SCAN_LEN : d.rowWrite a (R.SV_SCAN_LEN 0) idx fields v = d.svScan (idx.headD 0) 32 v := rfl
end

/-! ## The registers of the converters belong to no pair -/

section
variable {d e : Dev} {a base : Nat} {idx : List Nat} {v : Nat}

/-- The registers of the converters that commands write. -/
def sieveBase (base : Nat) : Bool := [R.SV_CTRL 0, R.SV_INJ 0, R.SV_SCAN 0 0, R.SV_DWELL 0 0, R.SV_SCAN_LEN 0].contains base

theorem Dev.pairOwned_sieveBase (d : Dev) (h : sieveBase base = true) : d.pairOwned base idx = false := by
  simp only [sieveBase, List.contains_cons, List.contains_nil, Bool.or_false, Bool.or_eq_true, beq_iff_eq] at h
  rcases h with rfl | rfl | rfl | rfl | rfl <;> rw [Dev.pairOwned] <;> rfl

theorem Dev.regCommand_sieveTaken (h : rowAt a = some (base, idx)) (hb : sieveBase base = true)
    (hw : ∀ fields, d.rowWrite a base idx fields v = (e, St.ok)) : d.regCommand a v = e :=
  Dev.regCommand_plain _ _ _ _ _ _ h (d.pairOwned_sieveBase hb) (e.pairOwned_sieveBase hb) hw

theorem Dev.regCommand_sieveRefused {st : Nat} (h : rowAt a = some (base, idx)) (hb : sieveBase base = true) (hst : st ≠ St.ok)
    (hw : ∀ fields, d.rowWrite a base idx fields v = (e, st)) : d.regCommand a v = d.regRejected a v st := by
  have hr : d.regWrite a v = (e, st) := d.regWrite_row a v base idx _ h (by rw [d.pairOwned_sieveBase hb, Bool.false_and]) hw
  rw [d.regCommand_refused a v (by rw [hr]; exact hst), hr]

theorem Dev.regCommand_SV_CTRL {k : Nat} (hk : k < 2) : d.regCommand (R.SV_CTRL k) v = d.svCtrlWrite k v :=
  Dev.regCommand_sieveTaken (rowAt_SV_CTRL k hk) rfl fun fields => d.rowWrite_SV_CTRL _ _ fields v
end

end Sys2Proof.Machine
end

