-- ==== Sys2Proof/Proofs/SieveWords.lean ====
section
/-! PROOFS. The words of the converters: their layout (R195), what ends with a word (R194, R195, R202) and whose turn follows (R199, R201). -/

namespace Sys2Proof.Machine
open Sys2Proof

/-! ## The layout of a word (R195) -/

theorem bit_eq_iff (w n : Nat) (b : Bool) : bit w n = b ↔ w / 2 ^ n % 2 = b.toNat := by
  cases b <;> simp [bit]

theorem ite_two_pow (n : Nat) (b : Bool) : (if b then 2 ^ n else 0) = b.toNat * 2 ^ n := by
  cases b <;> simp

theorem svWord_eq (data : Int) (input seq : Nat) (valid inj ovr : Bool) :
    svWord data input valid inj ovr seq =
      ofS 16 (sat16 data) + input * 2 ^ 16 + valid.toNat * 2 ^ 21 + inj.toNat * 2 ^ 22 + ovr.toNat * 2 ^ 23 + seq % 256 * 2 ^ 24 := by
  simp only [svWord, ite_two_pow]

theorem ofS_sixteen_lt (x : Int) : ofS 16 x < 2 ^ 16 := by
  rw [ofS]
  omega

/-- The DATA field holds every saturated code. -/
theorem toS_ofS_sat16 (x : Int) : toS 16 (ofS 16 (sat16 x)) = sat16 x := by
  have hlo : -2 ^ 15 ≤ sat16 x := by rw [sat16, satI]; omega
  have hhi : sat16 x < 2 ^ 15 := by rw [sat16, satI]; omega
  rw [toS, ofS]
  omega

/-- Settles O25: every field lies below the next one's first bit, so that each is read back alone. -/
theorem sieveWordLayout : Obligations.SieveWordLayout := by
  intro data input seq valid inj ovr hinput
  have hdata : ofS 16 (sat16 data) < 2 ^ 16 := ofS_sixteen_lt _
  have hvalid := valid.toNat_le
  have hinj := inj.toNat_le
  have hovr := ovr.toNat_le
  have hcode : bits (svWord data input valid inj ovr seq) 15 0 = ofS 16 (sat16 data) := by rw [svWord_eq, bits]; omega
  rw [hcode, svWord_eq]
  refine ⟨toS_ofS_sat16 data, ?inputField, (bit_eq_iff _ _ _).mpr ?validBit, (bit_eq_iff _ _ _).mpr ?injBit, (bit_eq_iff _ _ _).mpr ?ovrBit,
    ?seqField⟩
  case inputField | seqField => rw [bits]; omega
  case validBit | injBit | ovrBit => omega

/-! ## The end of a word (R194, R199) -/

theorem exec_sieveWord {s : State} {k : Nat} (vs : List Int) (limit : Bool) (h : s.runs = true) (hk : k < 2) :
    exec (.sieveWord k vs limit) s = .next (s.put (s.dev.sieveWord k vs limit)) :=
  State.run_of_runs _ (decide_eq_true hk) h

/-- The device when the clock has reached the end of a word and the filter has taken its samples. -/
def Dev.windowEnd (d : Dev) (k b : Nat) (hist : List Int) : Dev :=
  (d.wait b).updConv k (fun c => { c with hist := hist, at_ := b })

section
variable {d : Dev} {k : Nat} {g : SvCfg} {vs : List Int} {limit ovr : Bool} {hist : List Int} {b : Nat}

theorem Dev.sieveWord_otherLength (hnow : (d.conv k).now = some g) (hlen : vs.length ≠ g.decimation) : d.sieveWord k vs limit = d := by
  simp [Dev.sieveWord, hnow, hlen]

/-- A converter makes words of a setting, and one of its right length, with these samples in its filter, ends at `b`. -/
structure Dev.WordEnds (d : Dev) (k : Nat) (g : SvCfg) (vs : List Int) (limit : Bool) (b : Nat) (hist : List Int) (ovr : Bool) : Prop where
  two : k < 2
  now : (d.conv k).now = some g
  noCal : (d.conv k).inCal (d.conv k).at_ = false
  whole : vs.length = g.decimation
  ends : b = (d.conv k).at_ + g.grid
  due : d.before b = true
  filter : hist = (vs.reverse ++ (d.conv k).hist).take g.keeps
  overrange : ovr = (limit || vs.any g.full)

section
variable (h : d.WordEnds k g vs limit b hist ovr)
include h

theorem Dev.WordEnds.taken : (decide (2 ≤ k) || (d.conv k).inCal (d.conv k).at_ || decide (vs.length ≠ g.decimation)) = false := by
  simp [Nat.not_le.mpr h.two, h.noCal, h.whole]

theorem Dev.sieveWord_scan (hinj : (d.conv k).inj = none) :
    d.sieveWord k vs limit =
      ((((d.windowEnd k b hist).wordOut k b g (g.code hist) ovr (decide (0 < (d.conv k).settle)) false).1.updConv k (fun c => { c with
        settle := c.settle - 1, cnt := if c.settle = 0 && !ovr then min 65535 (c.cnt + 1) else c.cnt })).wordTurn k b
        (fun f => f.scanBoundary k b)) := by
  have htaken := h.taken
  obtain ⟨-, hnow, -, -, rfl, hdue, rfl, rfl⟩ := h
  simp only [Dev.sieveWord, hnow, hinj, htaken, Dev.fire_of_before _ hdue, Bool.false_eq_true, if_false, Dev.windowEnd]

theorem Dev.sieveWord_injectionGoesOn {i : Inj} {left : Nat} (hinj : (d.conv k).inj = some (i, left)) (hleft : 1 < left) :
    d.sieveWord k vs limit =
      (((d.windowEnd k b hist).wordOut k b g (g.code hist) ovr true true).1.updConv k
        (fun c => { c with inj := some (i, left - 1) })).svStat k := by
  have htaken := h.taken
  obtain ⟨-, hnow, -, -, rfl, hdue, rfl, rfl⟩ := h
  simp only [Dev.sieveWord, hnow, hinj, htaken, hleft, Dev.fire_of_before _ hdue, decide_true, Bool.false_eq_true, if_false, if_true,
    Dev.windowEnd]

theorem Dev.sieveWord_injectionResult {i : Inj} {left : Nat} (hinj : (d.conv k).inj = some (i, left)) (hleft : left ≤ 1) :
    d.sieveWord k vs limit =
      (let y := (d.windowEnd k b hist).wordOut k b g (g.code hist) ovr false true
       let z := if i.host then (y.1.wr (F.SV_INJ_RES.WORD k) y.2).setFlag (F.SV_INJ.GO k) false else y.1.wr (F.SV_INJ_RES.WORD k) y.2
       let a := (z.updConv k (fun c => { c with inj := none, calWait := c.calWait.map (fun n => n - 1) })).calArm k b
       (if i.chk then a.chkResult k y.2 else a).wordTurn k b (fun f => f.scanResume k b)) := by
  have htaken := h.taken
  obtain ⟨-, hnow, -, -, rfl, hdue, rfl, rfl⟩ := h
  simp only [Dev.sieveWord, hnow, hinj, htaken, Nat.not_lt.mpr hleft, Dev.fire_of_before _ hdue, decide_false, Bool.false_eq_true, if_false,
    Dev.windowEnd]
end
end

/-! ## The word that is put out (R195, R202) -/

section
variable (d : Dev) (k b : Nat) (g : SvCfg) (code : Int) (inj : Bool)

theorem Dev.wordOut_settling :
    d.wordOut k b g code false true inj =
      (((d.updConv k (fun c => { c with seq := (c.seq + 1) % 256 })).ringPut k (svWord code g.input false inj false (d.conv k).seq) b).countQ
        0x40 k, svWord code g.input false inj false (d.conv k).seq) := by
  simp [Dev.wordOut]

theorem Dev.wordOut_overrange (settling : Bool) :
    d.wordOut k b g code true settling inj =
      (((((d.updConv k (fun c => { c with seq := (c.seq + 1) % 256, spoilt := true })).ringPut k
          (svWord code g.input false inj true (d.conv k).seq) b).countQ 0x40 k).countQ 0x43 k).raise (0x1D + k) 4 g.input
          (svWord code g.input false inj true (d.conv k).seq % 65536),
        svWord code g.input false inj true (d.conv k).seq) := by
  simp [Dev.wordOut]

/-- A valid word is counted as one and goes to SV_LAST of its input, where that has one, and from Sieve A's supply-sense inputs to the
trackers. -/
theorem Dev.wordOut_valid :
    d.wordOut k b g code false false inj =
      (let w := svWord code g.input true inj false (d.conv k).seq
       let x := ((((d.updConv k (fun c => { c with seq := (c.seq + 1) % 256 })).ringPut k w b).countQ 0x40 k).countQ 0x41 k).wordHisto
         k g.input code
       let y := if g.input < 28 then x.wr (F.SV_LAST.WORD k g.input) w else x
       (if k = 0 ∧ 16 ≤ g.input ∧ g.input < 20 then y.trackerWord (g.input - 16) (sat16 code) else y, w)) := by
  simp [Dev.wordOut, and_assoc]
end

/-! ## Whose turn it is at a word boundary (R201) -/

section
variable {d : Dev} {k b : Nat} (scan : Dev → Dev)

theorem Dev.wordTurn_calibration {t : Nat} (hcal : (d.conv k).calAt = some t) (ht : t ≤ b) :
    d.wordTurn k b scan = (d.updConv k (fun c => { c with at_ := b })).svStat k := by
  simp [Dev.wordTurn, hcal, ht]

theorem Dev.wordTurn_scan (hcal : (d.conv k).calAt = none) (hqueue : (d.conv k).queue = []) : d.wordTurn k b scan = scan d := by
  simp [Dev.wordTurn, hcal, hqueue]

theorem Dev.wordTurn_injection {i : Inj} {q : List Inj} (hcal : (d.conv k).calAt = none) (hqueue : (d.conv k).queue = i :: q)
    (hpaired : i.paired = false) (hfree : (d.conv k).injFree b = true) : d.wordTurn k b scan = d.injBegin k b := by
  simp [Dev.wordTurn, hcal, hqueue, hpaired, hfree]
end

/-- Settles O24: a word that ends is one of a scan, of an injection or its result; what is put out turns on whether it is valid, and the
turn at its boundary is the calibration's, the queue's or the scan's. -/
theorem sieveWordsAct : Obligations.SieveWordsAct := by
  refine ⟨?ends, ?out, ?tracker, fun d k b t scan => Dev.wordTurn_calibration scan, fun d k b scan => Dev.wordTurn_scan scan,
    fun d k b i q scan => Dev.wordTurn_injection scan⟩
  case ends =>
    rintro s d x k b vs hist limit ovr g rfl hruns hk hnow hcal hb hdue
    rw [exec_sieveWord vs limit hruns hk]
    refine ⟨fun hlen => by rw [Dev.sieveWord_otherLength hnow hlen, State.put_dev], ?_⟩
    rintro hlen hhist hovr rfl
    have hends : s.dev.WordEnds k g vs limit b hist ovr := ⟨hk, hnow, hcal, hlen, hb, hdue, hhist, hovr⟩
    refine ⟨?scan, ?goesOn, ?result⟩
    case scan =>
      rintro hinj y rfl
      rw [Dev.sieveWord_scan hends hinj, Dev.windowEnd]
    case goesOn =>
      rintro i left hinj hleft y rfl
      rw [Dev.sieveWord_injectionGoesOn hends hinj hleft, Dev.windowEnd]
    case result =>
      rintro i left hinj hleft y z a rfl rfl rfl
      rw [Dev.sieveWord_injectionResult hends hinj hleft, Dev.windowEnd]
  case out =>
    rintro d x k b w g code inj hno
    refine ⟨?settling, ?valid, ?overrange⟩
    case settling =>
      rintro rfl rfl
      exact d.wordOut_settling k b g code inj
    case valid =>
      rintro rfl rfl
      have hno' : ¬(k = 0 ∧ 16 ≤ g.input ∧ g.input < 20) := by omega
      rw [Dev.wordOut_valid]
      by_cases hlast : g.input < 28 <;> simp only [hno', hlast, if_true, if_false]
    case overrange =>
      rintro settling rfl rfl
      exact d.wordOut_overrange k b g code inj settling
  case tracker =>
    rintro d x b w g code inj hlo hhi rfl rfl
    have hlast : g.input < 28 := by omega
    rw [Dev.wordOut_valid]
    simp only [hlo, hhi, hlast, and_self, if_true]

end Sys2Proof.Machine
end

