-- ==== Sys2Proof/Proofs/SieveScanAndCal.lean ====
section
/-! PROOFS. Background correction (R193), foreground calibration (R200), RUN and the registers of the scan (R198). -/

namespace Sys2Proof.Machine
open Sys2Proof

/-! ## The commands -/

theorem exec_sieveBgInterval {s : State} {k : Nat} (est : List Int) (rms : Nat) (h : s.runs = true) (hk : k < 2) :
    exec (.sieveBgInterval k est rms) s = .next (s.put (s.dev.svBackground k est rms)) :=
  State.run_of_runs _ (decide_eq_true hk) h

theorem exec_cal {s : State} {k : Nat} (v : Nat) (h : s.runs = true) (hk : k < 2) :
    exec (.cal k v) s = .next (s.put (s.dev.svCtrlWrite k (putBit v 2 true))) :=
  (State.run_of_runs _ (decide_eq_true hk) h).trans (by rw [Dev.regCommand_SV_CTRL hk])

theorem exec_run {s : State} {k : Nat} (v : Nat) (h : s.runs = true) (hk : k < 2) :
    exec (.run k v) s = .next (s.put (s.dev.svCtrlWrite k v)) :=
  (State.run_of_runs _ (decide_eq_true hk) h).trans (by rw [Dev.regCommand_SV_CTRL hk])

theorem exec_sieveCalDone {s : State} {k : Nat} (zero ref : Int) (h : s.runs = true) (hk : k < 2) :
    exec (.sieveCalDone k zero ref) s = .next (s.put (s.dev.svCalDone k zero ref)) :=
  State.run_of_runs _ (decide_eq_true hk) h

theorem exec_svScanWrite {s : State} {k reg : Nat} (v : Nat) (h : s.runs = true) (hk : k < 2) (hreg : reg < 33) :
    exec (.svScanWrite k reg v) s = .next (s.put (s.dev.regCommand (scanReg k reg) v)) :=
  State.run_of_runs _ (by simp [hk, hreg]) h

/-! ## Background correction (R193) -/

/-- The trims after an interval: each at most one step against its estimate, inside its limits; as they were after a bad interval. -/
def bgTrims (bad : Bool) (trims est : List Int) : List Int :=
  (List.range 12).map (fun i =>
    if bad then trims.getD i 0 else clampI (-(trimLimit i)) (trimLimit i) (trims.getD i 0 - (est.getD i 0).sign))

/-- The trims that moved in each of the last eight intervals. -/
def bgMoved (moved : List (List Nat)) (trims new : List Int) : List (List Nat) :=
  keepLast 8 (moved ++ [(List.range 12).filter (fun i => decide (new.getD i 0 ≠ trims.getD i 0))])

/-- In the last eight intervals no trim has moved more than once. -/
def bgConverged (hist : List (List Nat)) : Bool :=
  hist.length = 8 && (List.range 12).all (fun i => decide ((hist.filter (fun m => m.contains i)).length ≤ 1))

/-- A trim stands at its limit while its estimate asks it to move. -/
def bgStuck (trims est new : List Int) : Bool :=
  (List.range 12).any (fun i => decide (new.getD i 0 = trims.getD i 0) && decide ((new.getD i 0).natAbs = (trimLimit i).natAbs) &&
    decide (est.getD i 0 ≠ 0))

theorem bgStuck_of_exists {trims est new : List Int}
    (h : ∃ i < 12, new.getD i 0 = trims.getD i 0 ∧ (new.getD i 0).natAbs = (trimLimit i).natAbs ∧ est.getD i 0 ≠ 0) :
    bgStuck trims est new = true := by
  obtain ⟨i, hi, hstands, hlimit, hest⟩ := h
  refine List.any_eq_true.mpr ⟨i, List.mem_range.mpr hi, ?_⟩
  rw [decide_eq_true hstands, decide_eq_true hlimit, decide_eq_true hest, Bool.and_self, Bool.and_self]

theorem bgStuck_of_allMoved {trims est new : List Int} (h : ∀ i < 12, est.getD i 0 ≠ 0 → new.getD i 0 ≠ trims.getD i 0) :
    bgStuck trims est new = false := by
  refine List.any_eq_false.mpr fun i hi hstuck => ?_
  simp only [Bool.and_eq_true, decide_eq_true_eq] at hstuck
  obtain ⟨⟨hstands, -⟩, hest⟩ := hstuck
  exact h i (List.mem_range.mp hi) hest hstands

/-- The device at the end of an interval of background correction, the next one begun. -/
def Dev.bgEnd (d : Dev) (k : Nat) : Dev :=
  let e := d.wait ((d.conv k).bgAt + 26214400)
  e.updConv k (fun c => { c with bgAt := c.bgAt + 26214400, spoilt := (e.conv k).inCal e.time.tb })

/-- An interval without effect: too small an input, or spoilt by an overrange or a calibration. -/
def Dev.bgBad (d : Dev) (k rms : Nat) : Bool :=
  let e := d.wait ((d.conv k).bgAt + 26214400)
  rms < (d.bgEnd k).rd (F.SV_BG.BG_MIN k) || (e.conv k).spoilt || (e.conv k).inCal e.time.tb

/-- The device with the trims and their history. -/
def Dev.bgTaken (d : Dev) (k : Nat) (new : List Int) (hist : List (List Nat)) : Dev :=
  (d.updConv k (fun c => { c with trims := new, moved := hist })).setFlag (F.SV_BG.CONVERGED k) (bgConverged hist)

section
variable {d : Dev} {k : Nat} (est : List Int) (rms : Nat) (hk : k < 2) (hdue : d.before ((d.conv k).bgAt + 26214400) = true)
include hk hdue

theorem Dev.svBackground_off (hoff : (d.bgEnd k).flag (F.SV_CTRL.BG_EN k) = false) : d.svBackground k est rms = d.bgEnd k := by
  rw [Dev.svBackground, if_neg (Nat.not_le.mpr hk), Dev.fire_of_before _ hdue]
  exact if_pos ((Bool.not_eq_true' _).mpr hoff)

theorem Dev.svBackground_on (hon : (d.bgEnd k).flag (F.SV_CTRL.BG_EN k) = true) :
    d.svBackground k est rms =
      (let e := d.wait ((d.conv k).bgAt + 26214400)
       let new := bgTrims (d.bgBad k rms) (e.conv k).trims est
       let w := (d.bgEnd k).bgTaken k new (bgMoved (e.conv k).moved (e.conv k).trims new)
       if d.bgBad k rms then w.bump (F.SV_BG.DISCARDS k) 1
       else if bgStuck (e.conv k).trims est new then w.raise (0x1D + k) 8 k 0 else w) := by
  rw [Dev.svBackground, if_neg (Nat.not_le.mpr hk), Dev.fire_of_before _ hdue]
  exact if_neg ((Bool.not_not_eq).mpr hon)
end

/-! ## SV_CTRL: CAL and RUN (R198, R200) -/

section
variable {d : Dev} {k : Nat}

theorem Dev.svCtrlWrite_cal (v : Nat) :
    d.svCtrlWrite k (putBit v 2 true) = ((d.setFlag (F.SV_CTRL.BG_EN k) (bit v 1)).svRun k (bit v 0)).svCal k := by
  rw [Dev.svCtrlWrite, bit_putBit_of_lt v true (by decide : 1 < 2), bit_putBit_of_lt v true (by decide : 0 < 2), bit_putBit_self, if_pos rfl]

theorem Dev.svCtrlWrite_run {v : Nat} (h : bit v 2 = false) :
    d.svCtrlWrite k v = (d.setFlag (F.SV_CTRL.BG_EN k) (bit v 1)).svRun k (bit v 0) := by
  rw [Dev.svCtrlWrite, h, if_neg Bool.false_ne_true]

theorem Dev.calArm_waiting (b : Nat) (h : (d.conv k).calWait ≠ some 0) : d.calArm k b = d :=
  if_neg (by simp [h])

/-- With injections queued, a calibration waits for them and is not placed yet. -/
theorem Dev.svCal_waits (hk : k < 2) (hidle : d.flag (F.SV_CTRL.CAL k) = false) (hqueue : (d.conv k).queue ≠ []) :
    d.svCal k = (d.setFlag (F.SV_CTRL.CAL k) true).updConv k (fun c => { c with
      calWait := some (c.queue.length + (if c.inj.isSome then 1 else 0)) }) := by
  have hgo : ¬(decide (2 ≤ k) || d.flag (F.SV_CTRL.CAL k)) = true := by simp [hk, hidle]
  rw [Dev.svCal, if_neg hgo]
  exact Dev.calArm_waiting _ (by simp [hqueue])

/-! ## The end of a calibration (R200) -/

theorem Dev.svCalDone_due {t : Nat} (zero ref : Int) (hcal : (d.conv k).calAt = some t) (hdue : d.before (t + 236800) = true) :
    d.svCalDone k zero ref =
      (((((d.wait (t + 236800)).setFlag (F.SV_CTRL.CAL k) false).svCalTake k zero ref).updConv k
        (fun c => { c with calWait := none, calAt := none, spoilt := true })).wordTurn k (t + 236800)
        (fun f => f.scanResume k (t + 236800))) := by
  simp only [Dev.svCalDone, hcal, Dev.fire_of_before _ hdue]

/-- An average of ZERO out of range leaves the corrections and is reported by itself. -/
theorem Dev.svCalTake_zeroOut {zero : Int} (ref : Int) (h : 4096 < zero.natAbs) :
    d.svCalTake k zero ref = (d.wr (F.SV_STAT.CAL_RESULT k) 2).raise (0x1D + k) 0 28 (ofS 32 (divRound zero 16)) := by
  have hout : ¬zero.natAbs ≤ 256 * 16 := Nat.not_le.mpr h
  have hout' : 256 * 16 < zero.natAbs := h
  simp only [Dev.svCalTake, hout, hout', decide_false, Bool.false_and, Bool.false_eq_true, if_false, if_true]

theorem Dev.svCalTake_ideal :
    d.svCalTake k 0 (24576 * 16) =
      ((d.wr (F.SV_CAL.OFFSET_CORR k) 0).wr (F.SV_CAL.GAIN_CORR k) 0).wr (F.SV_STAT.CAL_RESULT k) 1 := by
  have hoffset : satS 16 (-0) = 0 := by decide
  have hgain : satS 16 (divRound (24576 * 16 * 2 ^ 20) ((24576 * 16 - 0 : Int).toNat) - 2 ^ 20) = 0 := by decide
  have hspan : ¬((24576 * 16 - 0 : Int) ≤ 0) := by decide
  have hok : (decide ((0 : Int).natAbs ≤ 256 * 16) &&
      decide (((24576 * 16 : Int) - 0 - 24576 * 16).natAbs * 100 ≤ 2 * (24576 * 16))) = true := by decide
  simp only [Dev.svCalTake, hspan, hok, hoffset, hgain, if_false, if_true]

/-! ## The registers of the scan (R198) -/

section
variable {v : Nat}

theorem Dev.svScan_entry {reg : Nat} (hk : k < 2) (hreg : reg < 16) (hv : v % 32 < 28) :
    d.svScan k reg v =
      ((((((d.wr (F.SV_SCAN.INPUT k reg) (v % 32)).wr (F.SV_SCAN.GAIN k reg) (bits v 6 5)).wr (F.SV_SCAN.ORDER k reg) (bits v 9 8)).wr
        (F.SV_SCAN.DECIM k reg) (bits v 14 12)).wr (F.SV_SCAN.NOTCH k reg) (bits v 25 16)).updConv k (fun c =>
          if c.cfg.isSome && c.idx = reg then { c with touched := true } else c), St.ok) := by
  rw [Dev.svScan, if_neg (by simp; omega), if_pos hreg, if_neg (Nat.not_le.mpr hv)]

theorem Dev.svScan_absentInput {reg : Nat} (hk : k < 2) (hreg : reg < 16) (hv : 28 ≤ v % 32) :
    d.svScan k reg v = (d, St.valueInvalid) := by
  rw [Dev.svScan, if_neg (by simp; omega), if_pos hreg, if_pos hv]

theorem Dev.svScan_dwell {reg : Nat} (hk : k < 2) (hreg : reg < 16) : d.svScan k (16 + reg) v = (d.wr (F.SV_DWELL.DWELL k reg) v, St.ok) := by
  rw [Dev.svScan, if_neg (by simp; omega), if_neg (by omega), if_pos (by omega), Nat.add_sub_cancel_left]

/-- A length of a scan that is not empty; the scan is not asked for anew. -/
theorem Dev.svScan_length (hk : k < 2) (hlen : d.scanLen k ≠ 0) : d.svScan k 32 v = (d.wr (F.SV_SCAN_LEN.LEN k) v, St.ok) := by
  rw [Dev.svScan, if_neg (by simp; omega), if_neg (by decide), if_neg (by decide)]
  simp only [hlen, if_false]

theorem scanReg_entry {reg : Nat} (hreg : reg < 16) : scanReg k reg = R.SV_SCAN k reg := if_pos hreg
theorem scanReg_dwell {reg : Nat} (hreg : reg < 16) : scanReg k (16 + reg) = R.SV_DWELL k reg := by
  rw [scanReg, if_neg (by omega), if_pos (by omega), Nat.add_sub_cancel_left]
theorem scanReg_length : scanReg k 32 = R.SV_SCAN_LEN k := rfl

theorem Dev.regRejected_SV_SCAN {reg : Nat} (st : Nat) (hk : k < 2) (hreg : reg < 16) : d.regRejected (R.SV_SCAN k reg) v st = d := by
  apply Dev.regRejected_none <;> simp only [R.SV_SCAN, R.SV_INJ] <;> omega

theorem Dev.regCommand_SV_SCAN {reg : Nat} {e : Dev} (hk : k < 2) (hreg : reg < 16) (h : d.svScan k reg v = (e, St.ok)) :
    d.regCommand (scanReg k reg) v = e := by
  rw [scanReg_entry hreg]
  exact Dev.regCommand_sieveTaken (rowAt_SV_SCAN k hk reg hreg) rfl fun fields => (d.rowWrite_SV_SCAN _ _ fields v).trans h

theorem Dev.regCommand_SV_SCAN_absentInput {reg : Nat} (hk : k < 2) (hreg : reg < 16) (hv : 28 ≤ v % 32) :
    d.regCommand (scanReg k reg) v = d := by
  rw [scanReg_entry hreg, Dev.regCommand_sieveRefused (rowAt_SV_SCAN k hk reg hreg) rfl (by decide)
    (fun fields => (d.rowWrite_SV_SCAN _ _ fields v).trans (Dev.svScan_absentInput hk hreg hv)), Dev.regRejected_SV_SCAN _ hk hreg]

theorem Dev.regCommand_SV_DWELL {reg : Nat} (hk : k < 2) (hreg : reg < 16) :
    d.regCommand (scanReg k (16 + reg)) v = d.wr (F.SV_DWELL.DWELL k reg) v := by
  rw [scanReg_dwell hreg]
  exact Dev.regCommand_sieveTaken (rowAt_SV_DWELL k hk reg hreg) rfl fun fields =>
    (d.rowWrite_SV_DWELL _ _ fields v).trans (Dev.svScan_dwell hk hreg)

theorem Dev.regCommand_SV_SCAN_LEN (hk : k < 2) (hlen : d.scanLen k ≠ 0) : d.regCommand (scanReg k 32) v = d.wr (F.SV_SCAN_LEN.LEN k) v := by
  rw [scanReg_length]
  exact Dev.regCommand_sieveTaken (rowAt_SV_SCAN_LEN k hk) rfl fun fields =>
    (d.rowWrite_SV_SCAN_LEN _ _ fields v).trans (Dev.svScan_length hk hlen)
end
end

/-- Settles O26: an interval moves its trims or is discarded; CAL and RUN are writes of SV_CTRL, the scan's registers take their words as
`Dev.svScan` does. -/
theorem sieveScanAndCalAct : Obligations.SieveScanAndCalAct := by
  refine ⟨?background, ?control, fun d k => Dev.svCal_waits, ?done, fun d k zero ref => Dev.svCalTake_zeroOut ref,
    fun d k => Dev.svCalTake_ideal, ?scan⟩
  case background =>
    rintro s d e u k rms est rfl hruns hk hdue rfl rfl
    rw [exec_sieveBgInterval est rms hruns hk]
    refine ⟨fun hoff => by rw [Dev.svBackground_off est rms hk hdue hoff]; rfl, ?_⟩
    rintro bad new hist w hon hbad hnew rfl rfl
    obtain rfl : bad = s.dev.bgBad k rms := hbad
    obtain rfl : new = bgTrims (s.dev.bgBad k rms) ((s.dev.wait ((s.dev.conv k).bgAt + 26214400)).conv k).trims est := hnew
    rw [Dev.svBackground_on est rms hk hdue hon]
    refine ⟨fun h => ?discarded, fun h hstuck => ?stuck, fun h hmoved => ?moved⟩
    case discarded => rw [if_pos h]; rfl
    case stuck => rw [if_neg (ne_true_of_eq_false h), if_pos (bgStuck_of_exists hstuck)]; rfl
    case moved => rw [if_neg (ne_true_of_eq_false h), if_neg (ne_true_of_eq_false (bgStuck_of_allMoved hmoved))]; rfl
  case control =>
    rintro s d k v rfl hruns hk -
    rw [exec_cal v hruns hk, exec_run v hruns hk, Dev.svCtrlWrite_cal]
    exact ⟨rfl, fun h => by rw [Dev.svCtrlWrite_run h]⟩
  case done =>
    rintro s d e x k t zero ref rfl hruns hk hcal hdue rfl rfl
    rw [exec_sieveCalDone zero ref hruns hk, Dev.svCalDone_due zero ref hcal hdue]
  case scan =>
    rintro s d k reg v rfl hruns hk hreg
    rw [exec_svScanWrite v hruns hk (by omega : reg < 33), exec_svScanWrite v hruns hk (by omega : 16 + reg < 33),
      exec_svScanWrite v hruns hk (by decide : 32 < 33), Dev.regCommand_SV_DWELL hk hreg]
    refine ⟨fun hv => ?entry, fun hv => ?absent, rfl, fun hlen => ?length⟩
    case entry => rw [Dev.regCommand_SV_SCAN hk hreg (Dev.svScan_entry hk hreg hv)]
    case absent => rw [Dev.regCommand_SV_SCAN_absentInput hk hreg hv, State.put_dev]
    case length => rw [Dev.regCommand_SV_SCAN_LEN hk hlen]

end Sys2Proof.Machine
end

