-- ==== Sys2Proof/Proofs/Injections.lean ====
section
/-! PROOFS. Injections (R199): requests, queues and the start at a word boundary; the checker's rounds and cross checks (R204, R206); the
reference's supply (R451). -/

namespace Sys2Proof.Machine
open Sys2Proof

/-! ## The commands -/

theorem exec_injectGo {s : State} {k : Nat} (v : Nat) (h : s.runs = true) (hk : k < 2) :
    exec (.injectGo k v) s = .next (s.put (s.dev.regCommand (R.SV_INJ k) (putBit v 31 true))) :=
  State.run_of_runs _ (decide_eq_true hk) h

theorem exec_injectionStart {s : State} {k : Nat} (h : s.runs = true) (hk : k < 2) :
    exec (.injectionStart k) s = .next (s.put (s.dev.injectionStart k)) :=
  State.run_of_runs _ (decide_eq_true hk) h

theorem exec_witnessRound {s : State} (h : s.runs = true) : exec .witnessRound s = .next (s.put s.dev.witnessRound) :=
  State.run_of_runs _ rfl h

theorem exec_xchkPeriodic {s : State} (h : s.runs = true) : exec .xchkPeriodic s = .next (s.put s.dev.xchkPeriodic) :=
  State.run_of_runs _ rfl h

theorem exec_vrefRange {s : State} {k : Nat} (h : s.runs = true) (hk : k < 2) :
    exec (.vrefRange k) s = .next (s.put (s.dev.raise (0x1D + k) 9 k 0)) :=
  (State.run_of_runs _ (decide_eq_true hk) h).trans (by rw [Dev.vrefRange, if_neg (Nat.not_le.mpr hk)])

/-! ## The queues -/

section
variable {d : Dev} {k : Nat} {i : Inj}

/-- The converters on whose queues an injection goes. -/
def Inj.converters (i : Inj) (k : Nat) : List Nat := if i.paired then [0, 1] else [k]

theorem Inj.mem_converters_self (hk : k < 2) : k ∈ i.converters k := by
  unfold Inj.converters
  split
  case isTrue => simp only [List.mem_cons, List.not_mem_nil, or_false]; omega
  case isFalse => exact List.mem_singleton_self k

theorem Inj.lt_two_of_mem_converters (hk : k < 2) {j : Nat} (hj : j ∈ i.converters k) : j < 2 := by
  unfold Inj.converters at hj
  split at hj
  case isTrue => simp only [List.mem_cons, List.not_mem_nil, or_false] at hj; omega
  case isFalse => rwa [List.mem_singleton.mp hj]

theorem Dev.inject_full (hk : k < 2) (h : 4 ≤ (d.conv k).queue.length) : d.inject k i = (d.injDropped k i.cfg.input, false) :=
  if_pos (List.any_eq_true.mpr ⟨k, Inj.mem_converters_self hk, decide_eq_true h⟩)

theorem Dev.inject_room (h : ∀ j ∈ i.converters k, (d.conv j).queue.length < 4) :
    d.inject k i =
      (forEach (i.converters k) (fun j (d : Dev) => (d.updConv j (fun c => { c with
        queue := c.queue ++ [{ i with host := i.host && j = k }] })).svStat j) d, true) :=
  if_neg fun hfull => by
    obtain ⟨j, hj, hlen⟩ := List.any_eq_true.mp hfull
    exact absurd (of_decide_eq_true hlen) (Nat.not_le.mpr (h j hj))

/-- With room in both queues a request is taken, PAIRED or not. -/
theorem Dev.inject_taken (hk : k < 2) (h0 : (d.conv 0).queue.length < 4) (h1 : (d.conv 1).queue.length < 4) : (d.inject k i).2 = true := by
  rw [Dev.inject_room fun j hj => ?_]
  have hj2 := Inj.lt_two_of_mem_converters hk hj
  obtain rfl | rfl : j = 0 ∨ j = 1 := by omega
  · exact h0
  · exact h1

theorem Dev.inject_unpaired (hp : i.paired = false) (h : (d.conv k).queue.length < 4) :
    (d.inject k i).1 = (d.updConv k (fun c => { c with queue := c.queue ++ [i] })).svStat k := by
  have hself : i.converters k = [k] := if_neg (by simp [hp])
  rw [Dev.inject_room (by rw [hself]; simpa using h), hself]
  simp [forEach]

/-! ## Requests: SV_INJ (R199) -/

/-- The injection that a word of SV_INJ asks for. -/
def injAsked (w : Nat) : Inj :=
  { cfg := { input := w % 32, gain := bits w 6 5, order := bits w 9 8, decim := bits w 14 12, notch := bits w 25 16 }
    paired := bit w 30, host := true, chk := false }

/-- The fields of SV_INJ but GO as a word has them. -/
def Dev.injFields (d : Dev) (k w : Nat) : Dev :=
  (((((d.wr (F.SV_INJ.INPUT k) (w % 32)).wr (F.SV_INJ.GAIN k) (bits w 6 5)).wr (F.SV_INJ.ORDER k) (bits w 9 8)).wr
    (F.SV_INJ.DECIM k) (bits w 14 12)).wr (F.SV_INJ.NOTCH k) (bits w 25 16)).setFlag (F.SV_INJ.PAIRED k) (bit w 30)

theorem Dev.regCommand_SV_INJ {w : Nat} {e : Dev} (hk : k < 2) (h : d.injectGo k w = (e, St.ok)) : d.regCommand (R.SV_INJ k) w = e :=
  Dev.regCommand_sieveTaken (rowAt_SV_INJ k hk) rfl fun fields => (d.rowWrite_SV_INJ _ _ fields w).trans h

theorem Dev.regCommand_SV_INJ_refused {w st : Nat} {e : Dev} (hk : k < 2) (hst : st ≠ St.ok) (h : d.injectGo k w = (e, st)) :
    d.regCommand (R.SV_INJ k) w = d.regRejected (R.SV_INJ k) w st :=
  Dev.regCommand_sieveRefused (rowAt_SV_INJ k hk) rfl hst fun fields => (d.rowWrite_SV_INJ _ _ fields w).trans h

/-- A request that finds a queue full is counted and reported. -/
theorem Dev.regRejected_SV_INJ_busy (w : Nat) (hk : k < 2) : d.regRejected (R.SV_INJ k) w St.busy = d.injDropped k (w % 32) := by
  obtain rfl | rfl : k = 0 ∨ k = 1 := by omega
  · rfl
  · rfl

/-- Another refusal of SV_INJ leaves no trace. -/
theorem Dev.regRejected_SV_INJ_invalid (w : Nat) (hk : k < 2) : d.regRejected (R.SV_INJ k) w St.valueInvalid = d := by
  obtain rfl | rfl : k = 0 ∨ k = 1 := by omega
  · rfl
  · rfl

theorem Dev.injectGo_absentInput {w : Nat} (hk : k < 2) (hw : 30 ≤ w % 32) : d.injectGo k w = (d, St.valueInvalid) := by
  rw [Dev.injectGo, if_neg (Nat.not_le.mpr hk), if_pos hw]

section
variable {w : Nat} (hk : k < 2) (hw : w % 32 < 30)
include hk hw

/-- GO has no effect while it reads 1. -/
theorem Dev.injectGo_pending (hgo : d.flag (F.SV_INJ.GO k) = true) : d.injectGo k w = (d.injFields k w, St.ok) := by
  rw [Dev.injectGo, if_neg (Nat.not_le.mpr hk), if_neg (Nat.not_le.mpr hw)]
  exact if_pos (by rw [hgo, Bool.or_true])

variable (hbit : bit w 31 = true) (hgo : d.flag (F.SV_INJ.GO k) = false)
include hbit hgo

theorem Dev.injectGo_asks :
    d.injectGo k w =
      (let r := d.inject k (injAsked w)
       if r.2 then ((r.1.injFields k w).setFlag (F.SV_INJ.GO k) true, St.ok) else (r.1, St.busy)) := by
  rw [Dev.injectGo, if_neg (Nat.not_le.mpr hk), if_neg (Nat.not_le.mpr hw)]
  exact if_neg (by rw [hbit, hgo]; decide)

theorem Dev.injectGo_queued (h0 : (d.conv 0).queue.length < 4) (h1 : (d.conv 1).queue.length < 4) :
    d.injectGo k w = (((d.inject k (injAsked w)).1.injFields k w).setFlag (F.SV_INJ.GO k) true, St.ok) :=
  (Dev.injectGo_asks hk hw hbit hgo).trans (if_pos (Dev.inject_taken hk h0 h1))

theorem Dev.injectGo_full (h : 4 ≤ (d.conv k).queue.length) : d.injectGo k w = (d.injDropped k (w % 32), St.busy) := by
  rw [Dev.injectGo_asks hk hw hbit hgo, Dev.inject_full hk h]
  rfl
end

/-! ## The start of the head of a queue (R199) -/

theorem Dev.injBegin_head {q : List Inj} (b : Nat) (hqueue : (d.conv k).queue = i :: q) :
    d.injBegin k b =
      ((d.updConv k (fun c => { c with
        queue := q, inj := some (i, i.cfg.order + 3), hist := [], at_ := gridAt i.cfg.grid b })).countQ 0x42 k).svStat k := by
  rw [Dev.injBegin, hqueue]

theorem Dev.injectionStart_unpaired {b : Nat} {q : List Inj} (hqueue : (d.conv k).queue = i :: q) (hp : i.paired = false)
    (hfree : (d.conv k).injFree d.time.tb = true) (hb : d.injBoundary k i.cfg.grid = some b) : d.injectionStart k = d.injBegin k b := by
  simp [Dev.injectionStart, hqueue, hp, hfree, hb]

/-- A PAIRED head begins on both converters where both stand at the later of their boundaries. -/
theorem Dev.injectionStart_paired {a b : Nat} {q : List Inj} (hqueue : (d.conv k).queue = i :: q) (hp : i.paired = true)
    (hheads : d.pairHeads k d.time.tb = true) (hfree : (d.conv k).injFree d.time.tb = true) (ha : d.injBoundary k 25600 = some a)
    (hb : d.injBoundary (1 - k) 25600 = some b) (hgrid : max a b % 25600 = 0) (hself : (d.conv k).standsAt (max a b) = true)
    (hother : (d.conv (1 - k)).standsAt (max a b) = true) :
    d.injectionStart k = (d.injBegin k (max a b)).injBegin (1 - k) (max a b) := by
  simp [Dev.injectionStart, hqueue, hp, hfree, hheads, ha, hb, hgrid, hself, hother]
end

/-! ## The checker's rounds (R204) -/

section
variable {d : Dev}

/-- A tile takes part in the rounds: it is ACTIVE or FENCED and its link carries frames. -/
def Dev.inRounds (d : Dev) (t : Nat) : Bool := (d.tileMode t = Tm.active || d.tileMode t = Tm.fenced) && d.linkUp t

/-- The tiles from the one after `n` on, in the order of the rounds. -/
def tilesAfter (n : Nat) : List Nat := (List.range 16).map (fun i => (n + 1 + i) % 16)

theorem find?_tilesAfter_none (n : Nat) (h : ∀ t < 16, d.linkUp t = false ∨ (d.tileMode t ≠ Tm.active ∧ d.tileMode t ≠ Tm.fenced)) :
    (tilesAfter n).find? d.inRounds = none := by
  refine List.find?_eq_none.mpr fun t ht hin => ?_
  obtain ⟨i, -, rfl⟩ := List.mem_map.mp ht
  simp only [Dev.inRounds, Bool.and_eq_true, Bool.or_eq_true, decide_eq_true_eq] at hin
  obtain ⟨hmode, hup⟩ := hin
  rcases h _ (Nat.mod_lt _ (by decide)) with hdown | ⟨hactive, hfenced⟩
  · exact absurd hup (ne_true_of_eq_false hdown)
  · exact hmode.elim hactive hfenced

theorem find?_tilesAfter_next {n : Nat} (h : d.inRounds ((n + 1) % 16) = true) :
    (tilesAfter n).find? d.inRounds = some ((n + 1) % 16) :=
  List.find?_cons_of_pos h

/-- The device when a round is due, the next one placed. -/
def Dev.roundDue (d : Dev) : Dev :=
  let e := d.wait d.sieve.roundTb
  { e with sieve := { e.sieve with roundTb := e.time.tb + 1000000 * max 1 (e.rd F.WIT_CFG.WIT_PERIOD_MS) } }

/-- The device with the turn at endpoint `ep` of tile `t`, a new run of failures begun. -/
def Dev.turnAt (d : Dev) (t ep : Nat) : Dev :=
  { d with sieve := { d.sieve with turn := t, last := AMap.put d.sieve.last t ep, fails := 0 } }

section
variable (hact : d.isActive = true) (hen : d.flag F.WIT_CFG.WIT_EN = true) (hhold : d.flag F.WIT_CTRL.HOLD = false)
  (hjob : d.sieve.job = none) (hdue : d.before d.sieve.roundTb = true)
include hact hen hhold hjob hdue

theorem Dev.witnessRound_due :
    d.witnessRound =
      match (tilesAfter d.roundDue.sieve.turn).find? d.roundDue.inRounds with
      | none => d.roundDue
      | some t =>
        let ep := nextMonitor 70000 (AMap.get d.roundDue.sieve.last t 65535)
        let f := d.roundDue.turnAt t ep
        if f.roundSkips t ep then f else f.roundStart t ep := by
  have hgo : ¬(!d.isActive || !d.flag F.WIT_CFG.WIT_EN || d.flag F.WIT_CTRL.HOLD || d.sieve.job.isSome) = true := by
    simp [hact, hen, hhold, hjob]
  rw [Dev.witnessRound, if_neg hgo, Dev.fire_of_before _ hdue]
  rfl

theorem Dev.witnessRound_noTile
    (hno : ∀ t < 16, d.roundDue.linkUp t = false ∨ (d.roundDue.tileMode t ≠ Tm.active ∧ d.roundDue.tileMode t ≠ Tm.fenced)) :
    d.witnessRound = d.roundDue := by
  rw [Dev.witnessRound_due hact hen hhold hjob hdue, find?_tilesAfter_none _ hno]

theorem Dev.witnessRound_next {t ep : Nat} (ht : t = (d.roundDue.sieve.turn + 1) % 16) (hin : d.roundDue.inRounds t = true)
    (hep : ep = nextMonitor 70000 (AMap.get d.roundDue.sieve.last t 65535)) :
    d.witnessRound =
      if (d.roundDue.turnAt t ep).roundSkips t ep then d.roundDue.turnAt t ep else (d.roundDue.turnAt t ep).roundStart t ep := by
  subst ht hep
  rw [Dev.witnessRound_due hact hen hhold hjob hdue, find?_tilesAfter_next hin]
end

/-! ## Periodic cross checks (R206) -/

/-- The device when a periodic cross check is due, the next one placed. -/
def Dev.crossDue (d : Dev) : Dev :=
  let e := d.wait d.sieve.crossTb
  { e with sieve := { e.sieve with crossTb := e.time.tb + d.rd F.XCHK_CFG.XCHK_MS * 100000000 } }

theorem Dev.xchkPeriodic_due (hact : d.isActive = true) (hms : d.rd F.XCHK_CFG.XCHK_MS ≠ 0) (hjob : d.sieve.job = none)
    (hdue : d.before d.sieve.crossTb = true) :
    d.xchkPeriodic =
      if xchkInputOk (d.crossDue.rd F.XCHK_CFG.XCHK_INPUT) then
        d.crossDue.chkAsk { kind := .periodic, tile := 16, ep := 0, at_ := d.crossDue.pick.num }
      else d.crossDue := by
  have hgo : ¬(!d.isActive || d.rd F.XCHK_CFG.XCHK_MS = 0 || d.sieve.job.isSome) = true := by simp [hact, hms, hjob]
  rw [Dev.xchkPeriodic, if_neg hgo, Dev.fire_of_before _ hdue]
  rfl
end

/-- Settles O27: a request is a write of SV_INJ that its queue takes or refuses; the head of a queue begins where its converter, or both,
stand at a boundary; the checker asks for its injections when its instant has come. -/
theorem injectionsAct : Obligations.InjectionsAct := by
  refine ⟨?request, ?absent, fun d k i => Dev.inject_unpaired, ?start, ?startPaired, ?round, ?cross, ?vref⟩
  case request =>
    rintro s d k v w i rfl hruns hk rfl hinput rfl put hput
    obtain rfl : put = fun x => x.injFields k (putBit v 31 true) := funext hput
    have hbit := bit_putBit_self v 31 true
    rw [exec_injectGo v hruns hk]
    refine ⟨fun hgo => ?pending, fun hgo h0 h1 => ?queued, fun hgo hfull => ?full⟩
    case pending => rw [Dev.regCommand_SV_INJ hk (Dev.injectGo_pending hk hinput hgo)]
    case queued =>
      rw [Dev.regCommand_SV_INJ hk (Dev.injectGo_queued hk hinput hbit hgo h0 h1)]
      rfl
    case full =>
      rw [Dev.regCommand_SV_INJ_refused hk (by decide) (Dev.injectGo_full hk hinput hbit hgo hfull), Dev.regRejected_SV_INJ_busy _ hk]
      rfl
  case absent =>
    rintro s k v hruns hk hinput
    rw [exec_injectGo v hruns hk, Dev.regCommand_SV_INJ_refused hk (by decide) (Dev.injectGo_absentInput hk hinput),
      Dev.regRejected_SV_INJ_invalid _ hk, State.put_dev]
  case start =>
    rintro s d k b i q rfl hruns hk hqueue hp hfree hb
    rw [exec_injectionStart hruns hk, Dev.injectionStart_unpaired hqueue hp hfree hb, Dev.injBegin_head b hqueue]
  case startPaired =>
    rintro s d k a b m i q rfl hruns hk hqueue hp hheads hfree ha hb rfl hgrid hself hother
    rw [exec_injectionStart hruns hk, Dev.injectionStart_paired hqueue hp hheads hfree ha hb hgrid hself hother]
  case round =>
    rintro s d e rfl hruns hact hen hhold hjob hdue he
    obtain rfl : e = s.dev.roundDue := he
    rw [exec_witnessRound hruns]
    refine ⟨fun hno => ?noTile, fun t ep ht hup hmode hep f hf => ?next⟩
    case noTile => rw [Dev.witnessRound_noTile hact hen hhold hjob hdue hno]
    case next =>
      obtain rfl : f = s.dev.roundDue.turnAt t ep := hf
      have hin : s.dev.roundDue.inRounds t = true := by simp [Dev.inRounds, hup, hmode]
      rw [Dev.witnessRound_next hact hen hhold hjob hdue ht hin hep]
  case cross =>
    rintro s d e rfl hruns hact hms hjob hdue he
    obtain rfl : e = s.dev.crossDue := he
    rw [exec_xchkPeriodic hruns, Dev.xchkPeriodic_due hact hms hjob hdue]
    exact ⟨fun hok => by rw [if_pos hok], fun hno => by rw [if_neg (ne_true_of_eq_false hno)]⟩
  case vref =>
    rintro s d k rfl hruns hk
    exact exec_vrefRange hruns hk

end Sys2Proof.Machine
end

