-- ==== Sys2Proof/Proofs/DacRegisters.lean ====
section
/-! PROOFS. The registers of the DAC at their rows (R223): codes, strobes and ranges, sine generators, TEC loops; whose write travels to the
peer (R217), and that a refused one leaves no trace. -/

namespace Sys2Proof.Machine
open Sys2Proof

/-! ## The rows -/

section
variable (d : Dev) (a : Nat) (idx : List Nat) (fields : List FRow) (v : Nat)

theorem Dev.rowWrite_DAC_CODE : d.rowWrite a (R.DAC_CODE 0) idx fields v = d.dacNow.dacCode (idx.headD 0) (v % 65536) := rfl
theorem Dev.rowWrite_DAC_CH_CFG : d.rowWrite a (R.DAC_CH_CFG 0) idx fields v = d.dacCfgWrite (idx.headD 0) v := rfl
theorem Dev.rowWrite_DAC_STROBE : d.rowWrite a R.DAC_STROBE idx fields v = (d.dacNow.dacStrobe (bits v 3 0), St.ok) := rfl
theorem Dev.rowWrite_TEC_CFG : d.rowWrite a (R.TEC_CFG 0) idx fields v = d.tecCfgWrite (idx.headD 0) v := rfl
theorem Dev.rowWrite_SINE_CFG : d.rowWrite a (R.SINE_CFG 0) idx fields v = (d.sineCfgWrite (idx.headD 0) v, St.ok) := rfl

/-- SINE_FTW, SINE_AMP and SINE_PHASE0 stand one after the other. -/
theorem Dev.rowWrite_SINE_param {reg : Nat} (hreg : reg < 3) :
    d.rowWrite a (R.SINE_FTW 0 + 4 * reg) idx fields v = (d.sineParam (idx.headD 0) reg v, St.ok) := by
  obtain rfl | rfl | rfl : reg = 0 ∨ reg = 1 ∨ reg = 2 := by omega
  · rfl
  · rfl
  · rfl
end

theorem rowAt_SINE_param : ∀ g < 16, ∀ reg < 3, rowAt (R.SINE_FTW g + 4 * reg) = some (R.SINE_FTW 0 + 4 * reg, [g]) := by decide

/-- Word `i` of the table of generator `g`. -/
theorem regAt_sineTable {g i : Nat} (hg : g < 16) (hi : i < 512) : regAt (0x1F8000 + 0x800 * g + 4 * i) = some (.sine g i) := by
  have hoff : 0x1F8000 + 0x800 * g + 4 * i - 0x1F8000 = 0x800 * g + 4 * i := by omega
  have hgen : (0x800 * g + 4 * i) / 0x800 = g := by omega
  have hword : (0x800 * g + 4 * i) % 0x800 / 4 = i := by omega
  have hin : (decide (0x1F8000 ≤ 0x1F8000 + 0x800 * g + 4 * i) && decide (0x1F8000 + 0x800 * g + 4 * i < 0x200000)) = true := by
    simp only [Bool.and_eq_true, decide_eq_true_eq]
    omega
  rw [regAt, if_neg (by omega), if_pos hin, hoff, hgen, hword]

/-! ## Whose writes travel to the peer (R217) -/

section
variable {d : Dev} {a v : Nat}

theorem Dev.pairOwned_DAC_CODE (d : Dev) (c : Nat) : d.pairOwned (R.DAC_CODE 0) [c] = d.flag (F.DAC_CH_CFG.SHARED c) := rfl
theorem Dev.pairOwned_DAC_CH_CFG (d : Dev) (c : Nat) : d.pairOwned (R.DAC_CH_CFG 0) [c] = d.flag (F.DAC_CH_CFG.SHARED c) := rfl
theorem Dev.pairOwned_DAC_STROBE (d : Dev) : d.pairOwned R.DAC_STROBE [] = false := rfl
theorem Dev.pairOwned_SINE_CFG (d : Dev) (g : Nat) : d.pairOwned (R.SINE_CFG 0) [g] = false := rfl

theorem Dev.pairOwned_SINE_param (d : Dev) (g : Nat) {reg : Nat} (hreg : reg < 3) : d.pairOwned (R.SINE_FTW 0 + 4 * reg) [g] = false := by
  obtain rfl | rfl | rfl : reg = 0 ∨ reg = 1 ∨ reg = 2 := by omega
  · rfl
  · rfl
  · rfl

/-! ## Refused writes -/

/-- The DAC's registers and tables report no refusal. -/
theorem Dev.regRejected_dac (d : Dev) (v st : Nat) (hlo : 0x1F0000 ≤ a) (hhi : a < 0x200000) : d.regRejected a v st = d :=
  d.regRejected_none a v st (by omega) (by simp only [R.SV_INJ]; omega) (by simp only [R.SV_INJ]; omega) (by omega)

theorem Dev.regCommand_dacRefused {r : Dev × Nat} (hlo : 0x1F0000 ≤ a) (hhi : a < 0x200000) (hw : d.regWrite a v = r) (hst : r.2 ≠ St.ok) :
    d.regCommand a v = d := by
  rw [d.regCommand_refused a v (by rw [hw]; exact hst), d.regRejected_dac v _ hlo hhi]
end

/-! ## The registers that commands write -/

section
variable {d e : Dev} {v : Nat}

theorem Dev.regCommand_SINE_CFG {g : Nat} (hg : g < 16) : d.regCommand (R.SINE_CFG g) v = d.sineCfgWrite g v :=
  Dev.regCommand_plain _ _ _ _ _ _ (rowAt_SINE_CFG g hg) (d.pairOwned_SINE_CFG g) (Dev.pairOwned_SINE_CFG _ g)
    fun fields => d.rowWrite_SINE_CFG _ _ fields v

theorem Dev.regCommand_SINE_param {g reg : Nat} (hg : g < 16) (hreg : reg < 3) :
    d.regCommand (R.SINE_FTW g + 4 * reg) v = d.sineParam g reg v :=
  Dev.regCommand_plain _ _ _ _ _ _ (rowAt_SINE_param g hg reg hreg) (d.pairOwned_SINE_param g hreg) (Dev.pairOwned_SINE_param _ g hreg)
    fun fields => d.rowWrite_SINE_param _ _ fields v hreg

theorem Dev.regWrite_sineTable {g i : Nat} (hg : g < 16) (hi : i < 512) :
    d.regWrite (0x1F8000 + 0x800 * g + 4 * i) v = d.dacNow.sineTable g i v := by
  simp only [Dev.regWrite, regAt_sineTable hg hi]

/-- A word of a table travels to no peer. -/
theorem Dev.regCommand_sineTable {g i : Nat} (hg : g < 16) (hi : i < 512) (hw : d.dacNow.sineTable g i v = (e, St.ok)) :
    d.regCommand (0x1F8000 + 0x800 * g + 4 * i) v = e := by
  have hhere : ∀ x : Dev, x.regMirrored (0x1F8000 + 0x800 * g + 4 * i) = false := fun x => by
    simp only [Dev.regMirrored, regAt_sineTable hg hi]
  simp [Dev.regCommand, Dev.regWrites, Dev.regWrite_sineTable hg hi, hw, hhere, Dev.regRecs]

theorem Dev.regCommand_TEC_CFG {t : Nat} (ht : t < 16) (hact : d.isActive = true) (hw : d.tecCfgWrite t v = (e, St.ok)) :
    d.regCommand (R.TEC_CFG t) v = e.mirrorConfig [(R.TEC_CFG t, MirBody.reg (e.mirVal (R.TEC_CFG t)))] none :=
  Dev.regCommand_mirrored _ _ _ _ _ _ (rowAt_TEC_CFG t ht) (d.pairOwned_of_pairWritten (base := R.TEC_CFG 0) [t] rfl) (by decide) hact
    fun fields => (d.rowWrite_TEC_CFG _ _ fields v).trans hw

theorem Dev.regCommand_TEC_CFG_standby {t : Nat} (ht : t < 16) (hact : d.isActive = false) : d.regCommand (R.TEC_CFG t) v = d :=
  Dev.regCommand_dacRefused (by simp only [R.TEC_CFG]; omega) (by simp only [R.TEC_CFG]; omega)
    (d.regWrite_standby _ v _ _ (rowAt_TEC_CFG t ht) (d.pairOwned_of_pairWritten (base := R.TEC_CFG 0) [t] rfl) hact)
    (by decide : St.roleStandby ≠ St.ok)
end

end Sys2Proof.Machine
end

