-- ==== Sys2Proof/Proofs/DacLoads.lean ====
section
/-! PROOFS. Codes and loads of the DAC (R210 - R213, R217): what a code, a strobe and a load pin do on the 48 channels, and the channel
number past them at which the statement about a code that leaves the FIFO fails. -/

namespace Sys2Proof.Machine
open Sys2Proof

/-! ## The commands -/

theorem exec_dacCodeWrite {s : State} {c : Nat} (v : Nat) (h : s.runs = true) (hc : c < 48) :
    exec (.dacCodeWrite c v) s = .next (s.put (s.dev.regCommand (R.DAC_CODE c) v)) :=
  State.run_of_runs _ (decide_eq_true hc) h

theorem exec_dacStrobe {s : State} (v : Nat) (h : s.runs = true) :
    exec (.dacStrobe v) s = .next (s.put (s.dev.dacNow.dacFifo (.strobe (bits v 3 0)))) :=
  (State.run_of_runs _ rfl h).trans (by
    rw [Dev.regCommand_plain _ _ _ v _ _ rowAt_DAC_STROBE s.dev.pairOwned_DAC_STROBE (Dev.pairOwned_DAC_STROBE _)
      fun fields => s.dev.rowWrite_DAC_STROBE _ _ fields v, Dev.dacStrobe])

theorem exec_dacLoadPin {s : State} {g : Nat} (high : Bool) (h : s.runs = true) (hg : g < 4) :
    exec (.dacLoadPin g high) s = .next (s.put (s.dev.dacPin g high)) :=
  State.run_of_runs _ (decide_eq_true hg) h

/-! ## Codes that enter the FIFO (R210, R213, R217) -/

section
variable {d : Dev} {c v : Nat}

/-- The FIFO of an idle DAC passes a write on at the next edge. -/
theorem Dev.dacFifo_idle (a : DacAct) (h : d.dac.agenda = []) :
    d.dacFifo a = { d with dac := { d.dac with agenda := [((d.time.tb / 20 + 1) * 20, a)] } } := by
  have hedge : max (dacEdge d.time.tb 1) (0 + 20) = (d.time.tb / 20 + 1) * 20 := by
    rw [dacEdge]
    omega
  simp only [Dev.dacFifo, Dev.dacAt, h, List.filterMap_nil, List.foldl_nil, List.takeWhile_nil, List.dropWhile_nil, List.nil_append, hedge]

theorem Dev.dacCode_taken (hc : c < 48) (h : d.dacOwned c = St.ok) : d.dacCode c v = (d.dacFifo (.leave c v), St.ok) := by
  rw [Dev.dacCode, if_neg (Nat.not_le.mpr hc)]
  exact if_neg (not_not_intro h)

theorem Dev.dacCode_refused (hc : c < 48) (h : d.dacOwned c ≠ St.ok) : d.dacCode c v = (d, d.dacOwned c) := by
  rw [Dev.dacCode, if_neg (Nat.not_le.mpr hc)]
  exact if_pos h

section
variable (hc : c < 48)
include hc

theorem Dev.regCommand_DAC_CODE (hshared : d.flag (F.DAC_CH_CFG.SHARED c) = false) (hkeep : d.dacNow.flag (F.DAC_CH_CFG.SHARED c) = false)
    (h : d.dacNow.dacOwned c = St.ok) : d.regCommand (R.DAC_CODE c) v = d.dacNow.dacFifo (.leave c (v % 65536)) :=
  Dev.regCommand_plain _ _ _ v _ _ (rowAt_DAC_CODE c hc) ((d.pairOwned_DAC_CODE c).trans hshared) ((Dev.pairOwned_DAC_CODE _ c).trans hkeep)
    fun fields => (d.rowWrite_DAC_CODE _ _ fields v).trans (Dev.dacCode_taken hc h)

/-- On the unit in pair role ACTIVE a code of a SHARED channel travels. -/
theorem Dev.regCommand_DAC_CODE_shared (hshared : d.flag (F.DAC_CH_CFG.SHARED c) = true) (hact : d.isActive = true)
    (h : d.dacNow.dacOwned c = St.ok) :
    d.regCommand (R.DAC_CODE c) v =
      (let e := d.dacNow.dacFifo (.leave c (v % 65536))
       e.mirrorConfig [(R.DAC_CODE c, MirBody.reg (e.mirVal (R.DAC_CODE c)))] none) :=
  Dev.regCommand_mirrored _ _ _ v _ _ (rowAt_DAC_CODE c hc) ((d.pairOwned_DAC_CODE c).trans hshared) (by decide) hact
    fun fields => (d.rowWrite_DAC_CODE _ _ fields v).trans (Dev.dacCode_taken hc h)

theorem Dev.regCommand_DAC_CODE_standby (hshared : d.flag (F.DAC_CH_CFG.SHARED c) = true) (hact : d.isActive = false) :
    d.regCommand (R.DAC_CODE c) v = d :=
  Dev.regCommand_dacRefused (by simp only [R.DAC_CODE]; omega) (by simp only [R.DAC_CODE]; omega)
    (d.regWrite_standby _ v _ _ (rowAt_DAC_CODE c hc) ((d.pairOwned_DAC_CODE c).trans hshared) hact) (by decide : St.roleStandby ≠ St.ok)

theorem Dev.regCommand_DAC_CODE_owned (h : d.dacNow.dacOwned c ≠ St.ok) : d.regCommand (R.DAC_CODE c) v = d := by
  cases hstandby : d.flag (F.DAC_CH_CFG.SHARED c) && !d.isActive with
  | true =>
    obtain ⟨hshared, hact⟩ : d.flag (F.DAC_CH_CFG.SHARED c) = true ∧ d.isActive = false := by simpa using hstandby
    exact Dev.regCommand_DAC_CODE_standby hc hshared hact
  | false =>
    exact Dev.regCommand_dacRefused (by simp only [R.DAC_CODE]; omega) (by simp only [R.DAC_CODE]; omega)
      (d.regWrite_row _ v _ _ _ (rowAt_DAC_CODE c hc) hstandby
        fun fields => (d.rowWrite_DAC_CODE _ _ fields v).trans (Dev.dacCode_refused hc h)) h
end
end

/-! ## Loads (R212, R213) -/

section
variable {d : Dev} {c : Nat}

/-- The device with a code in PENDING. -/
def Dev.withPending (d : Dev) (c v : Nat) : Dev := (d.wr (F.DAC_CODE.PENDING c) v).setFlag (F.DAC_CH_STAT.PEND c) true

/-- A code that leaves goes into PENDING; the load source that decides is read after it. -/
theorem Dev.dacDo_leave (v t : Nat) :
    d.dacDo t (.leave c v) =
      if (d.withPending c v).dacSrc c = 0 then (d.withPending c v).dacAt (dacEdge t 1) (.load c) else d.withPending c v := rfl

/-- PENDING of a channel that there is lies below DAC_LOAD_CFG, so that a code leaves the load sources as they are. -/
theorem Dev.dacSrc_withPending (v : Nat) (hc : c < 48) : (d.withPending c v).dacSrc c = d.dacSrc c := by
  have hkeep : ∀ f : Fld, f.key ≠ (F.DAC_CODE.PENDING c).key → f.key ≠ (F.DAC_CH_STAT.PEND c).key → (d.withPending c v).rd f = d.rd f :=
    fun f hcode hstat => (Dev.rd_wr_ne _ _ f _ hstat).trans (Dev.rd_wr_ne _ _ f _ hcode)
  have hgroup : (d.withPending c v).rd (F.DAC_CH_CFG.GROUP c) = d.rd (F.DAC_CH_CFG.GROUP c) := by
    apply hkeep <;> simp only [Fld.key] <;> omega
  rw [Dev.dacSrc, hgroup, Dev.dacSrc]
  apply hkeep <;> simp only [Fld.key, R.DAC_LOAD_CFG, R.DAC_CODE, R.DAC_CH_STAT] <;> omega

/-- A code that leaves on a channel that there is loads at the edge after where the channel's group is IMMEDIATE. -/
theorem Dev.dacDo_leave_of_channel (v t : Nat) (hc : c < 48) :
    d.dacDo t (.leave c v) = if d.dacSrc c = 0 then (d.withPending c v).dacAt (dacEdge t 1) (.load c) else d.withPending c v := by
  rw [Dev.dacDo_leave, Dev.dacSrc_withPending v hc]

theorem Dev.dacDo_load (t : Nat) (hpend : d.flag (F.DAC_CH_STAT.PEND c) = true) (hrange : d.flag (F.DAC_CH_STAT.RANGING c) = false)
    (hgen : d.genRuns c = false) :
    d.dacDo t (.load c) = (d.wr (F.DAC_CODE.ACTIVE c) (d.rd (F.DAC_CODE.PENDING c))).setFlag (F.DAC_CH_STAT.PEND c) false :=
  if_neg (by simp [hpend, hrange, hgen])

/-- The device with the level of a load pin. -/
def Dev.withLoadLevel (d : Dev) (g : Nat) (high : Bool) : Dev :=
  (d.wr F.DAC_STAT.LOAD_LVL (putBit (d.rd F.DAC_STAT.LOAD_LVL) g high)).signal (12 + g) high

variable {g : Nat} (hg : g < 4)
include hg

/-- A level that is no rising edge, and a pin of a group that loads on something else, load nothing. -/
theorem Dev.dacPin_level {high : Bool} (h : high = false ∨ bit (d.dacNow.rd F.DAC_STAT.LOAD_LVL) g = true ∨
      (d.dacNow.withLoadLevel g high).rd (F.DAC_LOAD_CFG.SRC g) ≠ 2) : d.dacPin g high = d.dacNow.withLoadLevel g high := by
  rw [Dev.dacPin, if_neg (Nat.not_le.mpr hg)]
  refine if_pos ?_
  rcases h with rfl | hwas | hsrc
  · simp
  · simp [hwas]
  · simpa [Dev.withLoadLevel] using Or.inr hsrc

theorem Dev.dacPin_rises (hlow : bit (d.dacNow.rd F.DAC_STAT.LOAD_LVL) g = false)
    (hsrc : (d.dacNow.withLoadLevel g true).rd (F.DAC_LOAD_CFG.SRC g) = 2) :
    d.dacPin g true =
      (d.dacNow.withLoadLevel g true).dacAt (dacEdge (d.dacNow.withLoadLevel g true).time.tb 3) (.group g true) := by
  rw [Dev.dacPin, if_neg (Nat.not_le.mpr hg)]
  exact if_neg (by simpa [Dev.withLoadLevel, hlow] using hsrc)
end

/-- What O28 says, with a code that leaves the FIFO kept to the 48 channels that there are. -/
theorem dacLoads_of_channels :
    (∀ (s : State) (c v : Nat), s.runs = true → c < 48 → s.dev.dacNow.flag (F.DAC_CH_CFG.SHARED c) = s.dev.flag (F.DAC_CH_CFG.SHARED c) →
      let e := s.dev.dacNow.dacFifo (.leave c (v % 65536))
      (s.dev.flag (F.DAC_CH_CFG.SHARED c) = false → s.dev.dacNow.dacOwned c = St.ok → exec (.dacCodeWrite c v) s = .next (s.put e)) ∧
      (s.dev.flag (F.DAC_CH_CFG.SHARED c) = true → s.dev.isActive = true → s.dev.dacNow.dacOwned c = St.ok →
        exec (.dacCodeWrite c v) s = .next (s.put (e.mirrorConfig [(R.DAC_CODE c, MirBody.reg (e.mirVal (R.DAC_CODE c)))] none))) ∧
      (s.dev.dacNow.dacOwned c ≠ St.ok → exec (.dacCodeWrite c v) s = .next s)) ∧
    (∀ (s : State) (c v : Nat), s.runs = true → c < 48 → s.dev.flag (F.DAC_CH_CFG.SHARED c) = true → s.dev.isActive = false →
      exec (.dacCodeWrite c v) s = .next s) ∧
    (∀ (d : Dev) (a : DacAct), d.dac.agenda = [] →
      d.dacFifo a = { d with dac := { d.dac with agenda := [((d.time.tb / 20 + 1) * 20, a)] } }) ∧
    (∀ (d : Dev) (c v t : Nat), c < 48 →
      d.dacDo t (.leave c v) = if d.dacSrc c = 0 then (d.withPending c v).dacAt (dacEdge t 1) (.load c) else d.withPending c v) ∧
    (∀ (d : Dev) (c t : Nat), d.flag (F.DAC_CH_STAT.PEND c) = true → d.flag (F.DAC_CH_STAT.RANGING c) = false → d.genRuns c = false →
      d.dacDo t (.load c) = (d.wr (F.DAC_CODE.ACTIVE c) (d.rd (F.DAC_CODE.PENDING c))).setFlag (F.DAC_CH_STAT.PEND c) false) ∧
    (∀ (s : State) (v : Nat), s.runs = true → exec (.dacStrobe v) s = .next (s.put (s.dev.dacNow.dacFifo (.strobe (bits v 3 0))))) ∧
    (∀ (d : Dev) (t mask : Nat), d.dacDo t (.strobe mask) = forEach (bitsSet mask 4) (fun g (d : Dev) =>
      if d.rd (F.DAC_LOAD_CFG.SRC g) = 1 then d.dacAt (dacEdge t 1) (.group g false) else d.raise 0x1F 10 g 1) d) ∧
    (∀ (s : State) (g : Nat) (high : Bool), s.runs = true → g < 4 →
      let e := s.dev.dacNow.withLoadLevel g high
      (high = false ∨ bit (s.dev.dacNow.rd F.DAC_STAT.LOAD_LVL) g = true ∨ e.rd (F.DAC_LOAD_CFG.SRC g) ≠ 2 →
        exec (.dacLoadPin g high) s = .next (s.put e)) ∧
      (high = true → bit (s.dev.dacNow.rd F.DAC_STAT.LOAD_LVL) g = false → e.rd (F.DAC_LOAD_CFG.SRC g) = 2 →
        exec (.dacLoadPin g high) s = .next (s.put (e.dacAt (dacEdge e.time.tb 3) (.group g true))))) := by
  refine ⟨?code, ?standby, fun d a => Dev.dacFifo_idle a, fun d c => Dev.dacDo_leave_of_channel, fun d c => Dev.dacDo_load,
    fun s => exec_dacStrobe, fun d t mask => rfl, ?pin⟩
  case code =>
    intro s c v hruns hc hkeep
    rw [exec_dacCodeWrite v hruns hc]
    refine ⟨fun hshared hown => ?own, fun hshared hact hown => ?shared, fun hno => ?refused⟩
    case own => rw [Dev.regCommand_DAC_CODE hc hshared (hkeep.trans hshared) hown]
    case shared => rw [Dev.regCommand_DAC_CODE_shared hc hshared hact hown]
    case refused => rw [Dev.regCommand_DAC_CODE_owned hc hno, State.put_dev]
  case standby =>
    intro s c v hruns hc hshared hact
    rw [exec_dacCodeWrite v hruns hc, Dev.regCommand_DAC_CODE_standby hc hshared hact, State.put_dev]
  case pin =>
    intro s g high hruns hg
    rw [exec_dacLoadPin high hruns hg]
    refine ⟨fun hlevel => ?level, ?rises⟩
    case level => rw [Dev.dacPin_level hg hlevel]
    case rises =>
      rintro rfl hlow hsrc
      rw [Dev.dacPin_rises hg hlow hsrc]

/-- Refutes O28: its clause on a code that leaves the FIFO speaks of every number `c`. No register of a channel from 48 on is one of that
channel: PENDING of number 64 is the word of DAC_STROBE, and its GROUP lies in DAC_LOAD_CFG. With 32 in that GROUP, the load source of
number 64 is the PENDING that the code 1 goes into: IMMEDIATE before, it is not when it is read, and nothing loads. On the 48 channels
the clause holds (`dacLoads_of_channels`). -/
theorem not_dacLoadsAct : ¬ Obligations.DacLoadsAct := by
  rintro ⟨-, -, -, hleave, -⟩
  have hload := (hleave { mem := [((F.DAC_CH_CFG.GROUP 64).key, 32)] } _ 64 1 0 rfl).1 (by decide)
  exact absurd (congrArg (fun d => d.dac.agenda) hload) (by decide)

end Sys2Proof.Machine
end

