-- ==== Sys2Proof/Proofs/DacChannels.lean ====
section
/-! PROOFS. The channels of the DAC: ranges (R211, R214), the clear pin (R215), SHARED channels (R217), buffers past their temperature
(R218). -/

namespace Sys2Proof.Machine
open Sys2Proof

/-! ## The commands -/

theorem exec_range {s : State} {c : Nat} (v : Nat) (h : s.runs = true) (hc : c < 48) :
    exec (.range c v) s = .next (s.put (s.dev.regCommand (R.DAC_CH_CFG c) v)) :=
  State.run_of_runs _ (decide_eq_true hc) h

theorem exec_rangingEnd {s : State} {c : Nat} (h : s.runs = true) (hc : c < 48) :
    exec (.rangingEnd c) s = .next (s.put (s.dev.rangingEnd c)) :=
  State.run_of_runs _ (decide_eq_true hc) h

theorem exec_dacClrN {s : State} (low : Bool) (h : s.runs = true) : exec (.dacClrN low) s = .next (s.put (s.dev.dacClrN low)) :=
  State.run_of_runs _ rfl h

theorem exec_dacBufferOt {s : State} {c : Nat} (hot : Bool) (h : s.runs = true) (hc : c < 48) :
    exec (.dacBufferOt c hot) s = .next (s.put (s.dev.dacOt c hot)) :=
  State.run_of_runs _ (decide_eq_true hc) h

theorem exec_otRedrive {s : State} {c : Nat} (h : s.runs = true) (hc : c < 48) :
    exec (.otRedrive c) s = .next (s.put (s.dev.otRedrive c)) :=
  State.run_of_runs _ (decide_eq_true hc) h

theorem exec_sharedDriveStart {s : State} (h : s.fabricRuns = true) :
    exec .sharedDriveStart s = .next (s.put s.dev.sharedStart) :=
  State.live_of_fabricRuns _ rfl h

/-! ## Ranges (R211, R214) -/

section
variable {d : Dev} {c v : Nat}

theorem Dev.dacCfgWrite_taken (h : d.dacNow.rangeOwned c (bits v 1 0) = St.ok) :
    d.dacCfgWrite c v = ((d.dacNow.dacCfgPut c v).dacAt (dacEdge d.dacNow.time.tb 1) (.cfg c v), St.ok) :=
  if_neg (not_not_intro h)

theorem Dev.dacCfgWrite_refused (h : d.dacNow.rangeOwned c (bits v 1 0) ≠ St.ok) :
    d.dacCfgWrite c v = (d.dacNow, d.dacNow.rangeOwned c (bits v 1 0)) :=
  if_pos h

/-- A word of DAC_CH_CFG makes its channel SHARED, or not. -/
theorem Dev.flag_SHARED_dacCfgPut : (d.dacCfgPut c v).flag (F.DAC_CH_CFG.SHARED c) = bit v 10 := by
  have hpolicy : (F.DAC_CH_CFG.SHARED c).key ≠ (F.DAC_CH_CFG.OT_POLICY c).key := by
    simp only [Fld.key]
    omega
  rw [Dev.flag, Dev.dacCfgPut, Dev.rd_wr_ne _ _ _ _ hpolicy, Dev.rd_wr_self]
  simp [bits, bit]

section
variable (hc : c < 48) (hshared : d.flag (F.DAC_CH_CFG.SHARED c) = false)
include hc hshared

theorem Dev.regCommand_DAC_CH_CFG (hv : bit v 10 = false) (h : d.dacNow.rangeOwned c (bits v 1 0) = St.ok) :
    d.regCommand (R.DAC_CH_CFG c) v = (d.dacNow.dacCfgPut c v).dacAt (dacEdge d.dacNow.time.tb 1) (.cfg c v) :=
  Dev.regCommand_plain _ _ _ v _ _ (rowAt_DAC_CH_CFG c hc) ((d.pairOwned_DAC_CH_CFG c).trans hshared)
    ((Dev.pairOwned_DAC_CH_CFG _ c).trans (Dev.flag_SHARED_dacCfgPut.trans hv))
    fun fields => (d.rowWrite_DAC_CH_CFG _ _ fields v).trans (Dev.dacCfgWrite_taken h)

theorem Dev.regCommand_DAC_CH_CFG_owned (h : d.dacNow.rangeOwned c (bits v 1 0) ≠ St.ok) : d.regCommand (R.DAC_CH_CFG c) v = d :=
  Dev.regCommand_dacRefused (by simp only [R.DAC_CH_CFG]; omega) (by simp only [R.DAC_CH_CFG]; omega)
    (d.regWrite_row _ v _ _ _ (rowAt_DAC_CH_CFG c hc) (by rw [Dev.pairOwned_DAC_CH_CFG, hshared, Bool.false_and])
      fun fields => (d.rowWrite_DAC_CH_CFG _ _ fields v).trans (Dev.dacCfgWrite_refused h)) h
end

/-- A channel that its TEC loop or its generator drives keeps its range. -/
theorem Dev.rangeOwned_driven {r : Nat} (hshared : d.flag (F.DAC_CH_CFG.SHARED c) = false) (hr : d.rd (F.DAC_CH_CFG.RANGE c) ≠ r)
    (h : (c < 16 ∧ d.flag (F.TEC_CFG.TEC_EN c) = true) ∨ d.genRuns c = true) : d.rangeOwned c r = St.fieldOwned := by
  rw [Dev.rangeOwned, if_neg (by simp [hshared]), if_neg hr, if_pos (by simpa using h)]

/-- The device with a channel at a new range: its codes clear, RANGING for 20 µs. -/
theorem Dev.dacSetRange_new {r : Nat} (t : Nat) (hr : d.rd (F.DAC_CH_CFG.RANGE c) ≠ r) :
    d.dacSetRange c r t =
      (let e := ((((d.wr (F.DAC_CH_CFG.RANGE c) r).wr (F.DAC_CODE.PENDING c) (clearCode r)).wr
         (F.DAC_CODE.ACTIVE c) (clearCode r)).setFlag (F.DAC_CH_STAT.PEND c) false).setFlag (F.DAC_CH_STAT.RANGING c) true
       { e with dac := { e.dac with ranging := AMap.put e.dac.ranging c (t + 20000) } }) :=
  if_neg hr

theorem Dev.dacDo_cfg (t : Nat) :
    d.dacDo t (.cfg c v) = ((d.dacSetRange c (bits v 1 0) t).wr (F.DAC_CH_CFG.GROUP c) (bits v 5 4)).gensWake t := rfl

theorem Dev.rangingEnd_ranging {t : Nat} (h : AMap.find d.dacNow.dac.ranging c = some t) :
    d.rangingEnd c =
      (let e := { d.dacNow.setFlag (F.DAC_CH_STAT.RANGING c) false with
         dac := { d.dacNow.dac with ranging := AMap.del d.dacNow.dac.ranging c } }
       if e.dacSrc c = 0 then e.dacLoad c else e) := by
  rw [Dev.rangingEnd, h]

/-! ## Buffers past their temperature (R218) -/

/-- The device with the flag of a buffer past its temperature, in the channel's status and in its word of all of them. -/
def Dev.withOt (d : Dev) (c : Nat) (hot : Bool) : Dev :=
  let e := d.setFlag (F.DAC_CH_STAT.OT c) hot
  if c < 32 then e.wr F.DAC_OT_LO.OT (putBit (e.rd F.DAC_OT_LO.OT) c hot)
  else e.wr F.DAC_OT_HI.OT (putBit (e.rd F.DAC_OT_HI.OT) (c - 32) hot)

section
variable (hc : c < 48)
include hc

theorem Dev.dacOt_sets (hwas : d.flag (F.DAC_CH_STAT.OT c) = false) :
    d.dacOt c true =
      (let w := (((d.withOt c true).setFlag (F.DAC_CH_STAT.OT_STICKY c) true).bump (F.DAC_CH_STAT.OT_CNT c) 1).raise 0x1F 0 c 0
       { w with dac := { w.dac with redrive := AMap.del w.dac.redrive c } }) := by
  rw [Dev.dacOt, if_neg (Nat.not_le.mpr hc), hwas]
  rfl

theorem Dev.dacOt_clears (hwas : d.flag (F.DAC_CH_STAT.OT c) = true) :
    d.dacOt c false =
      (let e := d.withOt c false
       { e with dac := { e.dac with redrive := AMap.put e.dac.redrive c (e.time.tb + 1000000) } }) := by
  rw [Dev.dacOt, if_neg (Nat.not_le.mpr hc), hwas]
  rfl
end

theorem Dev.otRedrive_due {t : Nat} (h : AMap.find d.dac.redrive c = some t) (hdue : d.before t = true) :
    d.otRedrive c = { d.wait t with dac := { (d.wait t).dac with redrive := AMap.del (d.wait t).dac.redrive c } } := by
  rw [Dev.otRedrive, h]
  exact Dev.fire_of_before _ hdue

/-! ## SHARED channels (R217) -/

theorem Dev.sharedStart_from {p : Nat} (hin : d.dac.entered = some p) (hcon : d.controls = true) (hpick : p + 8 ≤ d.pick.num) :
    d.sharedStart = { d with dac := { d.dac with sharedOn := true } } := by
  rw [Dev.sharedStart, hin]
  exact if_pos (by rw [hcon, decide_eq_true hpick, Bool.and_self])

theorem Dev.sharedStart_early {p : Nat} (hin : d.dac.entered = some p) (hpick : d.pick.num < p + 8) : d.sharedStart = d := by
  rw [Dev.sharedStart, hin]
  exact if_neg (by simp [Nat.not_le.mpr hpick])
end

/-- Settles O29: a range is a write of DAC_CH_CFG that takes effect at an edge, or is refused; each of the other commands acts on the channel,
the pin or the buffer in the state that its clause asks for. -/
theorem dacChannelsAct : Obligations.DacChannelsAct := by
  refine ⟨?range, fun d c r => Dev.rangeOwned_driven, ?newRange, ?rangingEnd, ?clear, ?otSets, ?otClears, ?redrive, ?shared, ?sharedEarly⟩
  case range =>
    rintro s d n e c v rfl hruns hc hshared hv rfl rfl
    rw [exec_range v hruns hc]
    refine ⟨fun hown => ?taken, fun hno => ?refused⟩
    case taken =>
      rw [Dev.regCommand_DAC_CH_CFG hc hshared hv hown]
      rfl
    case refused => rw [Dev.regCommand_DAC_CH_CFG_owned hc hshared hno, State.put_dev]
  case newRange =>
    rintro d e c v t hr rfl
    rw [Dev.dacDo_cfg, Dev.dacSetRange_new t hr]
    rfl
  case rangingEnd =>
    rintro s d n e c t rfl hruns hc rfl hrange rfl
    rw [exec_rangingEnd hruns hc, Dev.rangingEnd_ranging hrange]
  case clear =>
    rintro s d e low rfl hruns rfl
    rw [exec_dacClrN low hruns, Dev.dacClrN]
  case otSets =>
    rintro s d e w c rfl hruns hc hwas rfl rfl
    rw [exec_dacBufferOt true hruns (by omega), Dev.dacOt_sets (by omega) hwas, Dev.withOt, if_pos hc]
  case otClears =>
    rintro s d e c rfl hruns hlo hc hwas rfl
    rw [exec_dacBufferOt false hruns hc, Dev.dacOt_clears hc hwas, Dev.withOt, if_neg (Nat.not_lt.mpr hlo)]
  case redrive =>
    rintro s d e c t rfl hruns hc hwaits hdue rfl
    rw [exec_otRedrive hruns hc, Dev.otRedrive_due hwaits hdue]
  case shared =>
    rintro s d p rfl hruns hin hcon hpick
    rw [exec_sharedDriveStart hruns, Dev.sharedStart_from hin hcon hpick]
  case sharedEarly =>
    rintro s d p rfl hruns hin hpick
    rw [exec_sharedDriveStart hruns, Dev.sharedStart_early hin hpick, State.put_dev]

end Sys2Proof.Machine
end

