-- ==== Sys2Proof/Proofs/DacOutputs.lean ====
section
/-! PROOFS. Which code reaches a ball (R219): the first of the ranks that applies. -/

namespace Sys2Proof.Machine
open Sys2Proof

section
variable {d : Dev} {c : Nat}

theorem Dev.dacHiZ_iff :
    d.dacHiZ c = true ↔ d.held = true ∨ (d.flag (F.DAC_CH_CFG.SHARED c) = true ∧ d.dac.sharedOn = false) ∨
      (d.flag (F.DAC_CH_CFG.OT_POLICY c) = true ∧
        (d.flag (F.DAC_CH_STAT.OT c) = true ∨ (AMap.find d.dac.redrive c).isSome = true)) := by
  simp only [Dev.dacHiZ, Bool.or_eq_true, Bool.and_eq_true, Bool.not_eq_true', or_assoc]

theorem Dev.dacForced_iff :
    d.dacForced c = true ↔ d.flag F.DAC_STAT.CLR_INT = true ∨
      (d.flag F.DAC_STAT.CLR_PIN = true ∧ d.flag (F.DAC_CH_CFG.CLR_EN c) = true) := by
  simp only [Dev.dacForced, Bool.or_eq_true, Bool.and_eq_true]

/-! ## The ranks, from the first -/

theorem Dev.ballOut_hiZ (h : d.dacHiZ c = true) : d.ballOut c = none := if_pos h

section
variable (hhi : ¬ d.dacHiZ c = true)
include hhi

theorem Dev.ballOut_forced (h : d.dacForced c = true) :
    d.ballOut c = some (if d.flag (F.DAC_CH_CFG.CLR_SEL c) then d.rd (F.DAC_CLR_CODE.CLR_CODE c)
      else clearCode (d.rd (F.DAC_CH_CFG.RANGE c))) := by
  rw [Dev.ballOut, if_neg hhi, if_pos h]

variable (hclear : ¬ d.dacForced c = true)
include hclear

theorem Dev.ballOut_ranging (h : d.flag (F.DAC_CH_STAT.RANGING c) = true) :
    d.ballOut c = some (clearCode (d.rd (F.DAC_CH_CFG.RANGE c))) := by
  rw [Dev.ballOut, if_neg hhi, if_neg hclear, if_pos h]

variable (hrange : ¬ d.flag (F.DAC_CH_STAT.RANGING c) = true)
include hrange

theorem Dev.ballOut_sine {g : Gen} (hc : 32 ≤ c) (hg : AMap.find d.dac.gens (c - 32) = some g) :
    d.ballOut c = some (d.sineCode (c - 32) g) := by
  rw [Dev.ballOut, if_neg hhi, if_neg hclear, if_neg hrange, if_pos hc, hg]

theorem Dev.ballOut_active (h : ¬ (32 ≤ c ∧ (AMap.find d.dac.gens (c - 32)).isSome = true)) :
    d.ballOut c = some (d.rd (F.DAC_CODE.ACTIVE c)) := by
  have hgen : (if 32 ≤ c then AMap.find d.dac.gens (c - 32) else none) = none := by
    split
    case isTrue hc => simpa using fun hsome => h ⟨hc, hsome⟩
    case isFalse => rfl
  rw [Dev.ballOut, if_neg hhi, if_neg hclear, if_neg hrange, hgen]
end
end

/-- Settles O30: the four conditions are the model's, and each rank is one lemma on `Dev.ballOut`. -/
theorem dacOutputRanks : Obligations.DacOutputRanks := by
  refine ⟨fun d c => rfl, ?ranks⟩
  intro d c hiZ forced ranging running hhi hforced hranging hrunning
  rw [← Dev.dacHiZ_iff] at hhi
  rw [← Dev.dacForced_iff] at hforced
  rw [hhi, hforced, hranging, hrunning]
  refine ⟨Dev.ballOut_hiZ, Dev.ballOut_forced, Dev.ballOut_ranging, ?sine, Dev.ballOut_active⟩
  case sine =>
    rintro hhi hclear hrange ⟨hc, hsome⟩
    obtain ⟨g, hg⟩ := Option.isSome_iff_exists.mp hsome
    exact ⟨g, hg, Dev.ballOut_sine hhi hclear hrange hc hg⟩

end Sys2Proof.Machine
end

