-- ==== Sys2Proof/Proofs/SineAndTec.lean ====
section
/-! PROOFS. Sine generators: their start, their stop, their parameters and tables (R220). TEC loops: their start and stop, and the safe
code (R222). -/

namespace Sys2Proof.Machine
open Sys2Proof

/-! ## The commands -/

theorem exec_sineEnable {s : State} {g : Nat} (v : Nat) (h : s.runs = true) (hg : g < 16) :
    exec (.sineEnable g v) s = .next (s.put (s.dev.sineEnable g)) :=
  (State.run_of_runs _ (decide_eq_true hg) h).trans (by
    rw [Dev.regCommand_SINE_CFG hg, Dev.sineCfgWrite, bit_putBit_zero, if_pos rfl])

theorem exec_sineDisable {s : State} {g : Nat} (v : Nat) (h : s.runs = true) (hg : g < 16) :
    exec (.sineDisable g v) s = .next (s.put (s.dev.sineDisable g)) :=
  (State.run_of_runs _ (decide_eq_true hg) h).trans (by
    rw [Dev.regCommand_SINE_CFG hg, Dev.sineCfgWrite, bit_putBit_zero, if_neg Bool.false_ne_true])

theorem exec_sineStop {s : State} {g : Nat} (h : s.runs = true) (hg : g < 16) :
    exec (.sineStop g) s = .next (s.put (s.dev.sineStop g)) :=
  State.run_of_runs _ (decide_eq_true hg) h

theorem exec_sineParamWrite {s : State} {g reg : Nat} (v : Nat) (h : s.runs = true) (hg : g < 16) (hreg : reg < 3) :
    exec (.sineParamWrite g reg v) s = .next (s.put (s.dev.sineParam g reg v)) :=
  (State.run_of_runs _ (by simp [hg, hreg]) h).trans (by rw [Dev.regCommand_SINE_param hg hreg])

theorem exec_sineTableWrite {s : State} {g i : Nat} (v : Nat) (h : s.runs = true) (hg : g < 16) (hi : i < 512) :
    exec (.sineTableWrite g i v) s = .next (s.put (s.dev.regCommand (0x1F8000 + 0x800 * g + 4 * i) v)) :=
  State.run_of_runs _ (by simp [hg, hi]) h

theorem exec_tecEn {s : State} {t : Nat} (v : Nat) (h : s.runs = true) (ht : t < 16) :
    exec (.tecEn t v) s = .next (s.put (s.dev.regCommand (R.TEC_CFG t) v)) :=
  State.run_of_runs _ (decide_eq_true ht) h

theorem exec_tecSafe {s : State} {t : Nat} (h : s.runs = true) (ht : t < 16) :
    exec (.tecSafe t) s = .next (s.put (s.dev.tecSafe t)) :=
  State.run_of_runs _ (decide_eq_true ht) h

/-! ## Start and stop of a generator (R220) -/

section
variable {d : Dev} {g : Nat}

/-- The device with a generator enabled: it waits for its channel's load edge. -/
def Dev.sineWaits (d : Dev) (g : Nat) : Dev :=
  { d.setFlag (F.SINE_CFG.EN g) true with dac := { d.dac with genWait := d.dac.genWait ++ [g] } }

/-- The device with a generator disabled: it waits for no edge. -/
def Dev.sineOff (d : Dev) (g : Nat) : Dev :=
  { d.setFlag (F.SINE_CFG.EN g) false with dac := { d.dac with genWait := d.dac.genWait.filter (· ≠ g) } }

/-- The device with a generator that ends, its phase and its word as at edge `t`. -/
def Dev.sineEnds (d : Dev) (g t : Nat) (x : Gen) : Dev :=
  { d with dac := { d.dac with gens := AMap.put d.dac.gens g { x with phase := x.at_ t, since := t, ending := true } } }

theorem Dev.sineEnable_on (h : d.flag (F.SINE_CFG.EN g) = true) : d.sineEnable g = d := if_pos (by rw [h, Bool.or_true])

section
variable (hg : g < 16)
include hg

theorem Dev.sineEnable_off (h : d.flag (F.SINE_CFG.EN g) = false) :
    d.sineEnable g =
      (let e := d.dacNow.sineWaits g
       if e.dacSrc (32 + g) = 0 then e.dacAt (dacEdge e.time.tb 1) (.start g) else e) :=
  if_neg (by simp [h, hg])

section
variable (hen : d.flag (F.SINE_CFG.EN g) = true)
include hen

theorem Dev.sineDisable_idle (hgen : AMap.find (d.dacNow.sineOff g).dac.gens g = none) : d.sineDisable g = d.dacNow.sineOff g := by
  rw [Dev.sineDisable, if_neg (by simp [hen, hg])]
  show (match AMap.find (d.dacNow.sineOff g).dac.gens g with | none => _ | some x => _) = _
  rw [hgen]
  rfl

theorem Dev.sineDisable_running {x : Gen} {t : Nat} (hgen : AMap.find (d.dacNow.sineOff g).dac.gens g = some x)
    (ht : t = (d.dacNow.sineOff g).time.tb / 20 * 20) :
    d.sineDisable g =
      (let w := (d.dacNow.sineOff g).sineEnds g t x
       if x.ftw = 0 then w.dacAt (t + 20) (.stop g) else w) := by
  have hedge : dacEdge t 1 = t + 20 := by
    rw [dacEdge]
    omega
  rw [Dev.sineDisable, if_neg (by simp [hen, hg]), ← hedge, ht]
  show (match AMap.find (d.dacNow.sineOff g).dac.gens g with | none => _ | some x => _) = _
  rw [hgen]
  rfl
end
end

/-- A generator that ends stops when its phase wraps. -/
theorem Dev.sineStop_wraps {x : Gen} {due : Nat} (hgen : AMap.find d.dacNow.dac.gens g = some x) (hend : x.ending = true) (hftw : x.ftw ≠ 0)
    (hdue : due = x.since + 20 * ((2 ^ 32 - x.phase + x.ftw - 1) / x.ftw)) (hbefore : d.dacNow.before due = true) :
    d.sineStop g = (d.dacNow.wait due).genStop g := by
  subst hdue
  rw [Dev.sineStop, hgen]
  exact (if_neg (by simp [hend, hftw])).trans (Dev.fire_of_before _ hbefore)

/-! ## Parameters and tables (R220) -/

theorem Dev.sineParam_idle {reg v : Nat} (hg : g < 16) (hgen : AMap.find d.dacNow.dac.gens g = none) :
    d.sineParam g reg v = d.dacNow.sinePut g reg v := by
  rw [Dev.sineParam, if_neg (Nat.not_le.mpr hg)]
  exact if_neg (by simp [hgen])

theorem Dev.sineParam_running {reg v : Nat} (hg : g < 16) (hgen : (AMap.find d.dacNow.dac.gens g).isSome = true) :
    d.sineParam g reg v = d.dacNow.dacAt (dacEdge d.dacNow.time.tb 1) (.param g reg v) := by
  rw [Dev.sineParam, if_neg (Nat.not_le.mpr hg)]
  exact if_pos hgen

section
variable {i v : Nat} (hg : g < 16) (hi : i < 512)
include hg hi

theorem Dev.sineTable_idle (hgen : AMap.find d.dac.gens g = none) :
    d.sineTable g i v =
      ({ d with dac := { d.dac with
        table := AMap.set (AMap.set d.dac.table (g * 1024 + 2 * i) (v % 65536) (ofS 16 (sineReset (2 * i))))
          (g * 1024 + (2 * i + 1)) (v / 65536 % 65536) (ofS 16 (sineReset (2 * i + 1))) } }, St.ok) := by
  rw [Dev.sineTable, if_neg (by simp [hg, hi])]
  exact if_neg (by simp [hgen])

theorem Dev.sineTable_running (hgen : (AMap.find d.dac.gens g).isSome = true) : d.sineTable g i v = (d, St.fieldOwned) := by
  rw [Dev.sineTable, if_neg (by simp [hg, hi]), if_pos hgen]

theorem Dev.regCommand_sineTable_running (hgen : (AMap.find d.dacNow.dac.gens g).isSome = true) :
    d.regCommand (0x1F8000 + 0x800 * g + 4 * i) v = d :=
  Dev.regCommand_dacRefused (by omega) (by omega) ((Dev.regWrite_sineTable hg hi).trans (Dev.sineTable_running hg hi hgen))
    (by decide : St.fieldOwned ≠ St.ok)
end
end

/-! ## TEC loops (R222) -/

section
variable {d : Dev} {t : Nat}

/-- The device with the fields of a word of TEC_CFG but TEC_EN. -/
def Dev.tecFields (d : Dev) (t v : Nat) : Dev :=
  ((d.wr (F.TEC_CFG.TEC_POL t) (bits v 1 1)).wr (F.TEC_CFG.HOLD_MS t) (bits v 15 8)).wr (F.TEC_CFG.TEC_SAFE t) (bits v 31 16)

theorem Dev.tecCfgWrite_eq (v : Nat) : d.tecCfgWrite t v = ((d.tecFields t v).tecEnPut t (bit v 0), St.ok) := rfl

theorem Dev.tecEnPut_same {on : Bool} (h : on = d.flag (F.TEC_CFG.TEC_EN t)) : d.tecEnPut t on = d.setFlag (F.TEC_CFG.TEC_EN t) on := by
  simp [Dev.tecEnPut, ← h]

theorem Dev.tecEnPut_stops (h : d.flag (F.TEC_CFG.TEC_EN t) = true) :
    d.tecEnPut t false = (d.setFlag (F.TEC_CFG.TEC_EN t) false).setFlag (F.TEC_STAT.SAFE t) false := by
  simp [Dev.tecEnPut, h]

theorem Dev.tecEnPut_starts (h : d.flag (F.TEC_CFG.TEC_EN t) = false) :
    d.tecEnPut t true =
      ((d.setFlag (F.TEC_CFG.TEC_EN t) true).setFlag (F.TEC_STAT.SAFE t) false).updTec t (fun _ => {}) := by
  simp [Dev.tecEnPut, h]

/-- HOLD_MS after the loop's temperature was last valid, the safe code goes into PENDING. -/
theorem Dev.tecSafe_due {since due : Nat} (ht : t < 16) (hen : d.flag (F.TEC_CFG.TEC_EN t) = true)
    (hsafe : d.flag (F.TEC_STAT.SAFE t) = false) (hinvalid : (d.tecAux t).invalid = some since)
    (hdue : due = since + 1000000 * max 1 (d.rd (F.TEC_CFG.HOLD_MS t))) (hbefore : d.before due = true) :
    d.tecSafe t =
      (let w := d.wait due
       (((w.setFlag (F.TEC_STAT.SAFE t) true).raise 0x1F 2 t (ofS 32 (w.rdS (F.TILE_TEMP.TEMP t)))).dacNow).dacPut t
         (w.rd (F.TEC_CFG.TEC_SAFE t)) w.time.tb) := by
  subst hdue
  rw [Dev.tecSafe, if_neg (by simp [ht, hen, hsafe]), hinvalid]
  exact Dev.fire_of_before _ hbefore
end

/-- Settles O31: EN, a parameter and a word of the table are writes of the generator's registers, which turn on whether it runs; a generator
stops, and a loop becomes safe, when its instant has come; TEC_EN is a write of TEC_CFG, which starts the loop, stops it or leaves it. -/
theorem sineAndTecAct : Obligations.SineAndTecAct := by
  refine ⟨?enable, ?enabled, ?disable, ?stop, ?stopped, ?paramIdle, ?paramRunning, ?table, ?tecEn, ?tecStandby, ?tecSafe⟩
  case enable =>
    rintro s d n e g v rfl hruns hg hen rfl rfl
    rw [exec_sineEnable v hruns hg, Dev.sineEnable_off hg hen]
    rfl
  case enabled =>
    rintro s g v hruns hg hen
    rw [exec_sineEnable v hruns hg, Dev.sineEnable_on hen, State.put_dev]
  case disable =>
    rintro s d n e g v rfl hruns hg hen rfl rfl
    rw [exec_sineDisable v hruns hg]
    refine ⟨fun hgen => ?idle, ?running⟩
    case idle =>
      rw [Dev.sineDisable_idle hg hen hgen]
      rfl
    case running =>
      rintro x t w hgen ht rfl
      rw [Dev.sineDisable_running hg hen hgen ht]
      rfl
  case stop =>
    rintro s d n g due x rfl hruns hg rfl hgen hend hftw hdue hbefore
    rw [exec_sineStop hruns hg, Dev.sineStop_wraps hgen hend hftw hdue hbefore]
  case stopped =>
    rintro d e g rfl
    rw [Dev.genStop]
  case paramIdle =>
    rintro s d n g v rfl hruns hg rfl hgen
    rw [exec_sineParamWrite v hruns hg (by decide), exec_sineParamWrite v hruns hg (by decide), exec_sineParamWrite v hruns hg (by decide),
      Dev.sineParam_idle hg hgen, Dev.sineParam_idle hg hgen, Dev.sineParam_idle hg hgen]
    exact ⟨rfl, rfl, rfl⟩
  case paramRunning =>
    rintro s d n g reg v rfl hruns hg hreg rfl hgen
    rw [exec_sineParamWrite v hruns hg hreg, Dev.sineParam_running hg hgen, dacEdge]
  case table =>
    rintro s d n g i v rfl hruns hg hi rfl
    rw [exec_sineTableWrite v hruns hg hi]
    refine ⟨?idle, fun hgen => ?running⟩
    case idle =>
      rintro hgen m rfl
      rw [Dev.regCommand_sineTable hg hi (Dev.sineTable_idle hg hi hgen)]
    case running => rw [Dev.regCommand_sineTable_running hg hi hgen, State.put_dev]
  case tecEn =>
    rintro s d e w t v rfl hruns ht hact he hcase
    obtain rfl : e = s.dev.tecFields t v := he
    have hput : (s.dev.tecFields t v).tecEnPut t (bit v 0) = w := by
      rcases hcase with ⟨hsame, rfl⟩ | ⟨hoff, hwas, rfl⟩ | ⟨hon, hwas, rfl⟩
      · exact Dev.tecEnPut_same hsame
      · rw [hoff, Dev.tecEnPut_stops hwas]
      · rw [hon, Dev.tecEnPut_starts hwas]
    rw [exec_tecEn v hruns ht, Dev.regCommand_TEC_CFG ht hact ((Dev.tecCfgWrite_eq v).trans (by rw [hput]))]
  case tecStandby =>
    rintro s t v hruns ht hact
    rw [exec_tecEn v hruns ht, Dev.regCommand_TEC_CFG_standby ht hact, State.put_dev]
  case tecSafe =>
    rintro s d w n t since due rfl hruns ht hen hsafe hinvalid hdue hbefore rfl rfl
    rw [exec_tecSafe hruns ht, Dev.tecSafe_due ht hen hsafe hinvalid hdue hbefore]

end Sys2Proof.Machine
end

