-- ==== Sys2Proof/Proofs/Holds.lean ====
section
/-! PROOFS. What a hold stops (R232, R235): the way that each command takes to its block, the holds that stop each way, and the steps and
runs of a machine all of whose commands are stopped. -/

namespace Sys2Proof.Machine
open Sys2Proof

/-! ## The ways to the blocks -/

/-- The four ways in which a command reaches its block. -/
inductive Way where
  | raw
  | core
  | run
  | live

/-- A command that goes this way. -/
def Way.take : Way → State → Bool → (Dev → Dev) → Host.Outcome State Fault Refusal
  | .raw, s => s.raw
  | .core, s => s.core
  | .run, s => s.run
  | .live, s => s.live

/-- Commands that no hold keeps from the device: those of power, rails and comparator, and VID_STEP, whose effect looks at the holds itself. -/
def takenRaw : Instr → Bool
  | .vidStep _ => true
  | c => actsTripped c

/-- The way of a command. -/
def wayOf (c : Instr) : Way :=
  if fabricCommand c then .live else if !actsShut c then .run else if takenRaw c then .raw else .core

/-- Each row of the table is one effect, which its command has by its way. -/
theorem exec_eq_take (c : Instr) : ∃ (ok : Bool) (f : Dev → Dev), ∀ s : State, exec c s = (wayOf c).take s ok f := by
  cases c <;> exact ⟨_, _, fun _ => rfl⟩

section
variable {c : Instr}

theorem wayOf_of_fabricCommand (h : fabricCommand c = true) : wayOf c = .live := if_pos h

theorem wayOf_of_not_actsShut (h : actsShut c = false) : wayOf c = .run ∨ wayOf c = .live := by
  by_cases hf : fabricCommand c = true
  · exact .inr (wayOf_of_fabricCommand hf)
  · exact .inl (by rw [wayOf, if_neg hf, h]; rfl)

theorem wayOf_ne_raw (h : takenRaw c = false) : wayOf c ≠ .raw := by
  rw [wayOf, h, if_neg Bool.false_ne_true]
  split
  case isTrue => nofun
  case isFalse => split <;> nofun

theorem takenRaw_iff : takenRaw c = true ↔ actsTripped c = true ∨ ∃ pinsOk, c = .vidStep pinsOk := by
  cases c <;> simp [takenRaw, actsTripped]
end

/-! ## The holds -/

/-- The comparator stops every way but one. -/
theorem Way.take_tripped {w : Way} {s : State} (hw : w ≠ .raw) (ht : s.dev.therm.trip = true) (ok : Bool) (f : Dev → Dev) :
    w.take s ok f = .next s := by
  cases w with
  | raw => exact absurd rfl hw
  | core => exact s.core_tripped ok f ht
  | run => exact s.run_held ok f (s.dev.held_of_trip ht)
  | live => exact s.live_held ok f (s.dev.held_of_trip ht)

theorem Dev.held_of_shut {d : Dev} (h : d.therm.shut = 3) : d.held = true := by simp [Dev.held, h]

/-- VID_STEP leaves the code of a device that the comparator holds. -/
theorem Dev.vidStep_tripped {d : Dev} (h : d.therm.trip = true) (pinsOk : Bool) : d.vidStep pinsOk = d := if_pos (by simp [h])

/-- A hold under which the commands that do not act change nothing. -/
def Stops (hold : Dev → Prop) (acts : Instr → Bool) : Prop :=
  ∀ (c : Instr) (s : State), hold s.dev → acts c = false → exec c s = .next s

theorem stops_of_trip : Stops (fun d => d.therm.trip = true) actsTripped := by
  intro c s ht hc
  by_cases hraw : takenRaw c = true
  case pos =>
    obtain hact | ⟨pinsOk, rfl⟩ := takenRaw_iff.mp hraw
    · exact absurd hact (by simp [hc])
    · show Host.Outcome.next { s with dev := s.dev.vidStep pinsOk } = .next s
      rw [Dev.vidStep_tripped ht]
  case neg =>
    obtain ⟨ok, f, hexec⟩ := exec_eq_take c
    rw [hexec, Way.take_tripped (wayOf_ne_raw (by simpa using hraw)) ht]

theorem stops_of_shut : Stops (fun d => d.therm.shut = 3) actsShut := by
  intro c s hs hc
  obtain ⟨ok, f, hexec⟩ := exec_eq_take c
  obtain hw | hw := wayOf_of_not_actsShut hc
  · rw [hexec, hw]
    exact s.run_held ok f (Dev.held_of_shut hs)
  · rw [hexec, hw]
    exact s.live_held ok f (Dev.held_of_shut hs)

/-- From the first pick boundary of a shut-down the fabric's commands change nothing. -/
theorem exec_fabricCommand_stopped {c : Instr} {s : State} (hs : 2 ≤ s.dev.therm.shut) (hc : fabricCommand c = true) :
    exec c s = .next s := by
  obtain ⟨ok, f, hexec⟩ := exec_eq_take c
  rw [hexec, wayOf_of_fabricCommand hc]
  exact s.live_stopped ok f hs

/-! ## Steps and runs under a hold -/

/-- A step that answers a next state is the first of a run. -/
theorem run_succ_of_step {m : Host.Core} {k : Nat} {s s' : m.State} (h : m.step s = .next s') : m.run (k + 1) s = m.run k s' := by
  rw [Host.Core.run, h]

section
variable {hold : Dev → Prop} {acts : Instr → Bool} (hstops : Stops hold acts)
include hstops

/-- A step takes the front command off the queue and does no more. -/
theorem step_of_stops {s : State} (hdev : hold s.dev) (hq : ∀ c ∈ s.pending, acts c = false) :
    step s = .next { s with pending := s.pending.drop 1 } := by
  obtain ⟨pending, dev⟩ := s
  cases pending with
  | nil => rfl
  | cons c cs => exact hstops c { pending := cs, dev := dev } hdev (hq c List.mem_cons_self)

theorem run_of_stops (k : Nat) {s : State} (hdev : hold s.dev) (hq : ∀ c ∈ s.pending, acts c = false) :
    Sys2Proof.core.run k s = .next { s with pending := s.pending.drop k } := by
  induction k generalizing s with
  | zero => rfl
  | succ k ih =>
    have hrest : ∀ c ∈ s.pending.drop 1, acts c = false := fun c hc => hq c (List.mem_of_mem_drop hc)
    calc Sys2Proof.core.run (k + 1) s
        = Sys2Proof.core.run k { s with pending := s.pending.drop 1 } :=
          run_succ_of_step (m := Sys2Proof.core) (step_of_stops hstops hdev hq)
      _ = .next { s with pending := (s.pending.drop 1).drop k } := ih (s := { s with pending := s.pending.drop 1 }) hdev hrest
      _ = .next { s with pending := s.pending.drop (k + 1) } := by rw [List.drop_drop, Nat.add_comm]
end

/-- Settles O5: the step takes the front command off the queue, whose rest holds no command that acts. -/
theorem comparatorHoldIsInvariant : Obligations.ComparatorHoldIsInvariant := by
  rintro d s s' ⟨rfl, htrip, hq⟩ hstep
  obtain rfl : { s with pending := s.pending.drop 1 } = s' :=
    Host.Outcome.next.inj ((step_of_stops stops_of_trip htrip hq).symm.trans hstep)
  exact ⟨rfl, htrip, fun c hc => hq c (List.mem_of_mem_drop hc)⟩

/-- Settles O6, by induction on the length of the run. -/
theorem comparatorHoldsEveryRun : Obligations.ComparatorHoldsEveryRun := fun k _ => run_of_stops stops_of_trip k

/-- Settles O7, by the same induction. -/
theorem shutdownHoldsEveryRun : Obligations.ShutdownHoldsEveryRun := fun k _ => run_of_stops stops_of_shut k

/-- Settles O3: the comparator stops every way to a block but the one of power, rails and comparator; VID_STEP looks at it itself. -/
theorem comparatorStopsCommands : Obligations.ComparatorStopsCommands := stops_of_trip

/-- Settles O4: the blocks in reset take no command of the ways `run` and `live`, the fabric in a shut-down none of the way `live`. -/
theorem shutdownStopsCommands : Obligations.ShutdownStopsCommands := ⟨stops_of_shut, fun _ _ => exec_fabricCommand_stopped⟩

end Sys2Proof.Machine
end

