-- ==== Sys2Proof/Proofs/Therm.lean ====
section
/-! PROOFS. Therm: the scan of the sensors (R225, R227, R229, R230), throttle steps (R231), the journal's end in a shut-down and the restart
(R233, R234), retired sensors (R226). -/

namespace Sys2Proof.Machine
open Sys2Proof

/-! ## The commands -/

theorem Dev.not_held {d : Dev} (h : d.held = false) : d.therm.trip = false ∧ d.sup.held = false := by
  simp only [Dev.held, Bool.or_eq_false_iff] at h
  obtain ⟨⟨_, htrip⟩, hsup⟩ := h
  exact ⟨htrip, hsup⟩

theorem State.held_of_runs {s : State} (h : s.runs = true) : s.dev.held = false := by simpa [State.runs] using h

/-- Therm, Marl and Supply run where every block runs. -/
theorem State.coreRuns_of_runs {s : State} (h : s.runs = true) : s.coreRuns = true := by
  obtain ⟨htrip, hsup⟩ := Dev.not_held (State.held_of_runs h)
  simp [State.coreRuns, htrip, hsup]

theorem State.core_of_coreRuns {s : State} (f : Dev → Dev) (h : s.coreRuns = true) : s.core true f = .next (s.put (f s.dev)) := by
  obtain ⟨htrip, hsup⟩ : s.dev.therm.trip = false ∧ s.dev.sup.held = false := by simpa [State.coreRuns] using h
  exact s.core_acts true f rfl htrip hsup

theorem exec_thermScan {s : State} (temps : List Int) (errs : Nat) (h : s.runs = true) :
    exec (.thermScan temps errs) s = .next (s.put (s.dev.thermScan temps errs)) :=
  State.core_of_coreRuns _ (State.coreRuns_of_runs h)

theorem exec_throttleStep {s : State} (h : s.runs = true) : exec .throttleStep s = .next (s.put s.dev.throttleStep) :=
  State.core_of_coreRuns _ (State.coreRuns_of_runs h)

theorem exec_shutdownMarlEnd {s : State} (h : s.coreRuns = true) : exec .shutdownMarlEnd s = .next (s.put s.dev.shutMarl) :=
  State.core_of_coreRuns _ h

theorem exec_thermRestart {s : State} (h : s.coreRuns = true) : exec .thermRestart s = .next (s.put s.dev.thermRestart) :=
  State.core_of_coreRuns _ h

theorem Dev.pairOwned_THERM_RETIRE (d : Dev) : d.pairOwned R.THERM_RETIRE [] = false := rfl

theorem Dev.rowWrite_THERM_RETIRE (d : Dev) (a : Nat) (idx : List Nat) (fields : List FRow) (v : Nat) :
    d.rowWrite a R.THERM_RETIRE idx fields v = (d.thermRetire (bits v 23 0), St.ok) := rfl

theorem exec_thermRetireWrite {s : State} (v : Nat) (h : s.coreRuns = true) :
    exec (.thermRetireWrite v) s = .next (s.put (s.dev.thermRetire (bits v 23 0))) :=
  (State.core_of_coreRuns _ h).trans (by
    rw [Dev.regCommand_plain _ _ _ v _ _ rowAt_THERM_RETIRE s.dev.pairOwned_THERM_RETIRE (Dev.pairOwned_THERM_RETIRE _)
      fun fields => s.dev.rowWrite_THERM_RETIRE _ _ fields v])

/-! ## Timers of Therm -/

section
variable {d : Dev} {due : Nat} (f : Dev → Dev)

/-- While the blocks run, a timer of Therm is one of assumption 10. -/
theorem Dev.fireHeld_of_runs (hheld : d.held = false) (h : d.before due = true) : d.fireHeld due f = f (d.wait due) := by
  rw [Dev.fireHeld, hheld]
  exact Dev.fire_of_before f h

/-- While they are held, no pick boundary bounds it. -/
theorem Dev.fireHeld_of_held (hheld : d.held = true) : d.fireHeld due f = f (d.advance due) := by
  rw [Dev.fireHeld, if_pos hheld]
end

/-! ## The scan (R225 - R230) -/

/-- The sensors that pass the scan (R226). -/
def Dev.scanPass (d : Dev) (temps : List Int) (errs : Nat) : List Bool := (List.range 24).map (fun n => d.sensPass temps errs n)

/-- The device with the readings of a scan, those of passing sensors kept. -/
def Dev.withReadings (d : Dev) (temps : List Int) (pass : List Bool) : Dev :=
  forEach (List.range 24) (fun n (d : Dev) =>
    let r := satI 16 (temps.getD n 0)
    let d := d.wr (F.THERM_SENS.TEMP n) (ofS 16 r)
    if pass.getD n false then { d with therm := { d.therm with last := AMap.put d.therm.last n r } } else d) d

/-- The device with the shut-down that its hottest reading asks for. -/
def Dev.shutIfHot (d : Dev) : Dev :=
  match d.hotNow with
  | some (n, h) => if degC 115 ≤ h && d.therm.shut = 0 then d.shutFound n h else d
  | none => d

/-- The device with the next scan due, and the time since when a shut-down finds it cool. -/
def Dev.scanEnd (d : Dev) : Dev :=
  let w := d.wr F.THERM_STAT.SCAN d.scanCode
  { w with therm := { w.therm with
    scanTb := w.time.tb + scanNs d.scanCode
    belowTb := if w.therm.shut = 0 || !decide (d.hot < degC 105) then none else some (w.therm.belowTb.getD w.time.tb) } }

/-- The device with a scan taken: shut-down first, then failures and restorations, then the thresholds. -/
def Dev.scanned (d : Dev) (temps : List Int) (pass : List Bool) : Dev :=
  ((((d.withReadings temps pass).shutIfHot.judgeSensors pass).publishHot.lowSensors).thresholds).scanEnd

section
variable {d : Dev}

theorem Dev.thermScan_due {e : Dev} (temps : List Int) (errs : Nat) (hheld : d.held = false) (h : d.before d.therm.scanTb = true)
    (he : e = (d.wait d.therm.scanTb).count 0x45) : d.thermScan temps errs = e.scanned temps (e.scanPass temps errs) := by
  have hgo : (d.therm.trip || d.sup.held) = false := by
    obtain ⟨htrip, hsup⟩ := Dev.not_held hheld
    rw [htrip, hsup, Bool.or_false]
  rw [Dev.thermScan, hgo, if_neg Bool.false_ne_true, Dev.fireHeld_of_runs _ hheld h, he]
  extract_lets counted pass x y z
  have hx : x = counted.withReadings temps pass := rfl
  clear_value x
  have hy : y = x.shutIfHot := rfl
  clear_value y
  have hz : z = ((y.judgeSensors pass).publishHot.lowSensors).thresholds := rfl
  clear_value z
  show _ = counted.scanned temps pass
  rw [Dev.scanned, ← hx, ← hy, ← hz]
  rfl

theorem Dev.shutIfHot_none (h : d.hotNow = none) : d.shutIfHot = d := by rw [Dev.shutIfHot, h]

section
variable {n : Nat} {t : Int} (hhot : d.hotNow = some (n, t))
include hhot

theorem Dev.shutIfHot_cool (h : t < degC 115 ∨ d.therm.shut ≠ 0) : d.shutIfHot = d := by
  rw [Dev.shutIfHot, hhot]
  refine if_neg ?_
  simp only [Bool.and_eq_true, decide_eq_true_eq]
  omega

theorem Dev.shutIfHot_hot (h : degC 115 ≤ t ∧ d.therm.shut = 0) : d.shutIfHot = d.shutFound n t := by
  rw [Dev.shutIfHot, hhot]
  exact if_pos (by simp [h])
end
end

/-- Settles O32: a scan that is due reads the sensors, finds the shut-down, judges the sensors and the thresholds, and sets its next instant;
the shut-down it finds is the one that the hottest passing sensor asks for. -/
theorem thermScanActs : Obligations.ThermScanActs := by
  rintro s d e x y z temps errs pass hd hruns hdue he hpass hx hshut hz
  have hreadings : x = e.withReadings temps pass := hx
  have hfound : x.shutIfHot = y := by
    rcases hshut with ⟨hnone, rfl⟩ | ⟨n, t, hhot, ⟨hcool, rfl⟩ | ⟨hpast, rfl⟩⟩
    · exact Dev.shutIfHot_none hnone
    · exact Dev.shutIfHot_cool hhot hcool
    · exact Dev.shutIfHot_hot hhot hpast
  have hscan : s.dev.thermScan temps errs = z.scanEnd := by
    subst hd
    rw [Dev.thermScan_due temps errs (State.held_of_runs hruns) hdue he, Dev.scanPass, ← hpass, Dev.scanned, ← hreadings, hfound, ← hz]
  rw [exec_thermScan temps errs hruns, hscan]
  rfl

/-! ## Throttle steps (R231) -/

section
variable {d : Dev} {t : Nat}

/-- A step of the throttle while its threshold is passed. -/
def Dev.throttleRise (d : Dev) : Dev :=
  let w := { d with therm := { d.therm with ref := d.hot, stepTb := some (d.time.tb + d.thrStepNs) } }
  if decide ((d.rd F.THERM_CFG.THR_FALL : Int) * 256 ≤ (d.therm.ref - d.hot) * 10) then w
  else w.setLevel (min 6 (d.rd F.THERM_STAT.LEVEL + 1))

/-- A step of the throttle back. -/
def Dev.throttleFall (d : Dev) : Dev :=
  let level := d.rd F.THERM_STAT.LEVEL
  let w := { d with therm := { d.therm with
    stepTb := if level ≤ 1 && !d.thrHeld then none else some (d.time.tb + d.thrStepNs) } }
  if d.thrHeld then w else w.setLevel (level - 1)

theorem Dev.throttleStep_due (ht : d.therm.stepTb = some t) (hheld : d.held = false) (h : d.before t = true) :
    d.throttleStep =
      if (d.wait t).flag F.THERM_STAT.THROTTLE then (d.wait t).throttleRise else (d.wait t).throttleFall := by
  rw [Dev.throttleStep, ht]
  exact Dev.fireHeld_of_runs _ hheld h

theorem Dev.throttleFall_free (h : d.thrHeld = false) :
    d.throttleFall =
      ({ d with therm := { d.therm with
        stepTb := if d.rd F.THERM_STAT.LEVEL ≤ 1 then none else some (d.time.tb + d.thrStepNs) } } : Dev).setLevel
        (d.rd F.THERM_STAT.LEVEL - 1) := by
  simp [Dev.throttleFall, h]

theorem Dev.throttleFall_held (h : d.thrHeld = true) :
    d.throttleFall = { d with therm := { d.therm with stepTb := some (d.time.tb + d.thrStepNs) } } := by
  simp [Dev.throttleFall, h]
end

/-! ## The journal's end (R233) and the restart (R234) -/

/-- The device with Marl's operations dropped. -/
def Dev.marlDropped (d : Dev) : Dev := ({ d with marl := { d.marl with run := none, below := none, queue := [] } } : Dev).marlStat

section
variable {d : Dev} {r : MarlRun}

section
variable (hshut : d.therm.shut ≠ 0) (hrun : d.marl.run = some r)
include hshut hrun

/-- The page under way ends by the heat, and by whether it is the last of a COMMIT. -/
theorem Dev.shutMarl_run {hot : Bool} (hhot : decide (degC 120 ≤ d.hot) = hot) :
    d.shutMarl =
      (let e := if hot then d.raise 0x04 10 r.op.kind.region (ofS 16 d.hot) else d
       if !hot && r.step = 3 && r.left ≤ 1 then e.marlRound true else e.marlDropped) := by
  rw [Dev.shutMarl, if_neg hshut, hrun, ← hhot]
  rfl

theorem Dev.shutMarl_finished (hcool : d.hot < degC 120) (hstep : r.step = 3) (hleft : r.left ≤ 1) : d.shutMarl = d.marlRound true := by
  rw [Dev.shutMarl_run hshut hrun (decide_eq_false (Int.not_le.mpr hcool))]
  exact if_pos (by simp [hstep, hleft])

theorem Dev.shutMarl_open (hcool : d.hot < degC 120) (hopen : r.step ≠ 3 ∨ 1 < r.left) : d.shutMarl = d.marlDropped := by
  rw [Dev.shutMarl_run hshut hrun (decide_eq_false (Int.not_le.mpr hcool))]
  refine if_neg ?_
  simp only [Bool.not_false, Bool.true_and, Bool.and_eq_true, decide_eq_true_eq]
  omega

theorem Dev.shutMarl_hot (hhot : degC 120 ≤ d.hot) :
    d.shutMarl = (d.raise 0x04 10 r.op.kind.region (ofS 16 d.hot)).marlDropped := by
  rw [Dev.shutMarl_run hshut hrun (decide_eq_true hhot)]
  rfl
end

theorem Dev.thermRestart_due {b : Nat} (hshut : d.therm.shut = 3) (hrestart : d.flag F.THERM_CFG.SHUT_RESTART = true)
    (hbelow : d.therm.belowTb = some b) :
    d.thermRestart = (d.advance (b + 1000000000 * max 1 (d.rd F.THERM_CFG.RESTART_S))).resetSelf.raise 0x20 10 0 0 := by
  rw [Dev.thermRestart, if_neg (by simp [hshut, hrestart]), hbelow]
  exact Dev.fireHeld_of_held _ (Dev.held_of_shut hshut)
end

/-- Settles O33: the throttle's step when it is due, by its threshold and by what holds its level; the page under way, by the heat; the
restart while the blocks are held; the write of THERM_RETIRE. -/
theorem throttleAndShutdownAct : Obligations.ThrottleAndShutdownAct := by
  refine ⟨?throttle, ?journal, ?restart, ?retire⟩
  case throttle =>
    rintro s d e w t rfl hruns hstep hdue rfl
    rw [exec_throttleStep hruns, Dev.throttleStep_due hstep (State.held_of_runs hruns) hdue]
    refine ⟨?rise, ?fall, ?stays⟩
    case rise =>
      rintro hthr rfl
      rw [if_pos hthr]
      rfl
    case fall =>
      rintro hthr hfree rfl
      rw [if_neg (by simp [hthr]), Dev.throttleFall_free hfree]
    case stays =>
      intro hthr hheld
      rw [if_neg (by simp [hthr]), Dev.throttleFall_held hheld]
  case journal =>
    rintro s d r rfl hruns hshut hrun
    rw [exec_shutdownMarlEnd hruns]
    refine ⟨fun hcool hstep hleft => ?finished, fun hcool hopen => ?aborted, ?hot⟩
    case finished => rw [Dev.shutMarl_finished hshut hrun hcool hstep hleft]
    case aborted =>
      rw [Dev.shutMarl_open hshut hrun hcool hopen]
      rfl
    case hot =>
      rintro hhot e rfl
      rw [Dev.shutMarl_hot hshut hrun hhot]
      rfl
  case restart =>
    rintro s d b rfl hruns hshut hrestart hbelow
    rw [exec_thermRestart hruns, Dev.thermRestart_due hshut hrestart hbelow]
  case retire =>
    rintro s d e v rfl hruns rfl
    rw [exec_thermRetireWrite v hruns]
    rfl

end Sys2Proof.Machine
end

