-- ==== Sys2Proof/Proofs/Silt.lean ====
section
/-! PROOFS. Silt: the age factor of a reference burst (R239), the operating hour (R240), re-plans, SILT_CTRL and the measurement after a voltage
step (R242). -/

namespace Sys2Proof.Machine
open Sys2Proof

/-! ## The commands -/

theorem exec_referenceBurst {s : State} {n : Nat} (ps : Nat) (h : s.fabricRuns = true) (hn : n < 64) :
    exec (.referenceBurst n ps) s = .next (s.put (s.dev.refBurst n ps)) :=
  State.live_of_fabricRuns _ (decide_eq_true hn) h

theorem exec_siltHourly {s : State} (h : s.runs = true) : exec .siltHourly s = .next (s.put s.dev.siltHourly) :=
  State.run_of_runs _ rfl h

theorem exec_siltReplan {s : State} (h : s.runs = true) : exec .siltReplan s = .next (s.put s.dev.siltReplan) :=
  State.run_of_runs _ rfl h

theorem exec_siltVoltageRemeasure {s : State} (ps : List Nat) (h : s.runs = true) :
    exec (.siltVoltageRemeasure ps) s = .next (s.put (s.dev.siltRemeasure ps)) :=
  State.run_of_runs _ rfl h

theorem Dev.pairOwned_SILT_CTRL (d : Dev) : d.pairOwned R.SILT_CTRL [] = false := rfl

theorem Dev.rowWrite_SILT_CTRL (d : Dev) (a : Nat) (idx : List Nat) (fields : List FRow) (v : Nat) :
    d.rowWrite a R.SILT_CTRL idx fields v = (d.siltCtrlWrite v, St.ok) := rfl

theorem Dev.regCommand_SILT_CTRL (d : Dev) (v : Nat) : d.regCommand R.SILT_CTRL v = d.siltCtrlWrite v :=
  Dev.regCommand_plain _ _ _ v _ _ rowAt_SILT_CTRL d.pairOwned_SILT_CTRL (Dev.pairOwned_SILT_CTRL _)
    fun fields => d.rowWrite_SILT_CTRL _ _ fields v

theorem exec_replan {s : State} (v : Nat) (h : s.runs = true) :
    exec (.replan v) s = .next (s.put (s.dev.siltCtrlWrite (putBit v 1 true))) :=
  (State.run_of_runs _ rfl h).trans (by rw [Dev.regCommand_SILT_CTRL])

theorem exec_siltSave {s : State} (v : Nat) (h : s.runs = true) :
    exec (.siltSave v) s = .next (s.put (s.dev.siltCtrlWrite (putBit v 0 true))) :=
  (State.run_of_runs _ rfl h).trans (by rw [Dev.regCommand_SILT_CTRL])

/-! ## Bits above the one that is put -/

theorem putBit_div_of_lt (v : Nat) {m n : Nat} (b : Bool) (h : n < m) : putBit v n b / 2 ^ m = v / 2 ^ m := by
  obtain ⟨k, rfl⟩ := Nat.exists_eq_add_of_lt h
  have hsplit : ∀ x, x / 2 ^ (n + k + 1) = x / 2 ^ n / 2 / 2 ^ k := fun x => by
    rw [Nat.div_div_eq_div_mul, Nat.div_div_eq_div_mul, Nat.pow_succ, Nat.pow_add, Nat.mul_right_comm, Nat.mul_assoc]
  have hdiv : putBit v n b / 2 ^ n = v / 2 ^ n - v / 2 ^ n % 2 + b.toNat := by
    rw [putBit_eq, Nat.mul_comm, Nat.mul_add_div (Nat.two_pow_pos n), Nat.div_eq_of_lt (Nat.mod_lt _ (Nat.two_pow_pos n)), Nat.add_zero]
  have hhalf : (v / 2 ^ n - v / 2 ^ n % 2 + b.toNat) / 2 = v / 2 ^ n / 2 := by
    have hb := b.toNat_lt
    generalize v / 2 ^ n = q
    omega
  rw [hsplit, hsplit, hdiv, hhalf]

theorem bits_putBit_of_lt (v : Nat) {n hi lo : Nat} (b : Bool) (h : n < lo) : bits (putBit v n b) hi lo = bits v hi lo := by
  rw [bits, putBit_div_of_lt v b h, bits]

theorem bit_putBit_of_gt (v : Nat) {m n : Nat} (b : Bool) (h : n < m) : bit (putBit v n b) m = bit v m := by
  rw [bit, putBit_div_of_lt v b h, bit]

/-! ## SILT_CTRL (R240, R242) -/

section
variable (d : Dev) (v : Nat)

/-- The device with the trend going to Marl, unless it waits there. -/
def Dev.withSave (d : Dev) (save : Bool) : Dev := if save && !d.marlHas .silt then d.siltSave else d

/-- The device with a re-plan begun, unless one is due or under way. -/
def Dev.withReplan (d : Dev) (replan : Bool) : Dev := if replan && !d.silt.replanning && !d.silt.due then d.replanNow else d

theorem Dev.siltCtrlWrite_eq :
    d.siltCtrlWrite v = ((d.wr F.SILT_CTRL.CELL_SEL (bits v 31 16)).withSave (bit v 0)).withReplan (bit v 1) := rfl

theorem Dev.withSave_true : d.withSave true = if d.marlHas .silt then d else d.siltSave := by
  cases h : d.marlHas .silt <;> simp [Dev.withSave, h]

theorem Dev.withReplan_true : d.withReplan true = if d.silt.replanning || d.silt.due then d else d.replanNow := by
  cases h : d.silt.replanning <;> cases h' : d.silt.due <;> simp [Dev.withReplan, h, h']

theorem Dev.siltCtrlWrite_replan :
    d.siltCtrlWrite (putBit v 1 true) = ((d.wr F.SILT_CTRL.CELL_SEL (bits v 31 16)).withSave (bit v 0)).withReplan true := by
  rw [Dev.siltCtrlWrite_eq, bits_putBit_of_lt v true (by decide), bit_putBit_of_lt v true (by decide), bit_putBit_self]

theorem Dev.siltCtrlWrite_save :
    d.siltCtrlWrite (putBit v 0 true) = ((d.wr F.SILT_CTRL.CELL_SEL (bits v 31 16)).withSave true).withReplan (bit v 1) := by
  rw [Dev.siltCtrlWrite_eq, bits_putBit_of_lt v true (by decide), bit_putBit_self, bit_putBit_of_gt v true (by decide)]
end

/-- No re-plan starts that is not due, or beside another. -/
theorem Dev.siltReplan_idle {d : Dev} (h : d.silt.due = false ∨ d.silt.replanning = true) : d.siltReplan = d :=
  if_pos (by simpa using h)

/-- The device with the bursts of a measurement taken: the slack reaches its target, or the voltage rises again. -/
def Dev.remeasured (d : Dev) (ps : List Nat) : Dev :=
  let w := forEach ps.zipIdx (fun (px : Nat × Nat) (d : Dev) => d.refBurst px.2 px.1) { d with silt := { d.silt with measTb := none } }
  let p := w.project
  if p.1.slackMet p.1.engLoads then { p.1 with silt := { p.1.silt with replanning := false } } else p.1.raiseVolts

theorem Dev.siltRemeasure_due {d : Dev} {t : Nat} (ps : List Nat) (ht : d.silt.measTb = some t) (hdue : d.before t = true) :
    d.siltRemeasure ps = (d.wait t).remeasured ps := by
  rw [Dev.siltRemeasure, ht]
  exact Dev.fire_of_before _ hdue

/-- Settles O34: a burst of an engine gives its age; the hour and the measurement act when they are due, a re-plan when it is due and none is
under way; REPLAN and SAVE are writes of SILT_CTRL, each with its own bit put to one. -/
theorem siltActs : Obligations.SiltActs := by
  refine ⟨?burst, ?hour, ?replan, ?idle, ?ctrl, ?remeasure⟩
  case burst =>
    rintro s d e n ps r a rfl hruns hn hps rfl rfl rfl
    rw [exec_referenceBurst ps hruns hn, Dev.refBurst, if_neg (by simp [hn, Nat.ne_of_gt hps])]
  case hour =>
    rintro s d e rfl hruns hdue he
    rw [exec_siltHourly hruns, Dev.siltHourly, Dev.fire_of_before _ hdue, ← he]
  case replan =>
    rintro s d e rfl hruns hdue hfree he w x hw hx r hr
    rw [exec_siltReplan hruns, Dev.siltReplan, if_neg (by simp [hdue, hfree]), ← he, hr, hx, hw]
  case idle =>
    intro s hruns h
    rw [exec_siltReplan hruns, Dev.siltReplan_idle h, State.put_dev]
  case ctrl =>
    rintro s d e w v rfl hruns - rfl
    refine ⟨?replanBit, ?saveBit⟩
    case replanBit =>
      rintro rfl
      rw [exec_replan v hruns, Dev.siltCtrlWrite_replan, Dev.withReplan_true]
      rfl
    case saveBit =>
      rintro rfl
      rw [exec_siltSave v hruns, Dev.siltCtrlWrite_save, Dev.withSave_true]
      rfl
  case remeasure =>
    rintro s d e t ps rfl hruns ht hdue he w hw p hp
    rw [exec_siltVoltageRemeasure ps hruns, Dev.siltRemeasure_due ps ht hdue, ← he, hp, hw]
    rfl

end Sys2Proof.Machine
end

