-- ==== Sys2Proof/Proofs/Steps.lean ====
section
/-! PROOFS. One step: what it takes from the queue, and that each command answers a next state with the queue as it was. -/

namespace Sys2Proof.Machine
open Sys2Proof

/-- Settles O1: a step is the run of the front command on the queue's rest. -/
theorem stepRunsTheFrontCommand : Obligations.StepRunsTheFrontCommand := by
  refine ⟨fun c s => rfl, fun s hempty => ?_⟩
  rw [step, hempty]

/-- By any way to a block, a command changes the device at most. -/
theorem Way.take_next (w : Way) (s : State) (ok : Bool) (f : Dev → Dev) : ∃ d : Dev, w.take s ok f = .next (s.put d) := by
  have hite : ∀ b : Bool, ∃ d : Dev, (if b then s.onDev f else s) = s.put d := fun b => by
    cases b
    case false => exact ⟨s.dev, rfl⟩
    case true => exact ⟨f s.dev, rfl⟩
  cases w with
  | raw => exact (hite ok).imp fun _ h => by rw [Way.take, s.raw_next, h]
  | core => exact (hite (ok && !s.dev.therm.trip && !s.dev.sup.held)).imp fun _ h => by rw [Way.take, s.core_next, h]
  | run => exact (hite (ok && !s.dev.held)).imp fun _ h => by rw [Way.take, s.run_next, h]
  | live => exact (hite (ok && !s.dev.held && decide (s.dev.therm.shut < 2))).imp fun _ h => by rw [Way.take, s.live_next, h]

/-- Settles O2: each command is one effect, which it has by its way. -/
theorem everyCommandAnswersNext : Obligations.EveryCommandAnswersNext := by
  intro c s
  obtain ⟨ok, f, hexec⟩ := exec_eq_take c
  rw [hexec]
  exact (wayOf c).take_next s ok f

end Sys2Proof.Machine
end

