-- ==== Sys2Proof/Proofs/Tether.lean ====
section
/-! PROOFS. The tether: what it receives (R269), and its sending side with collisions, back-off, heartbeat and PLCA (R265, R266, R268). -/

namespace Sys2Proof.Machine
open Sys2Proof

/-! ## The commands -/

section
variable {s : State} (h : s.runs = true)
include h

theorem exec_tetherReceive (bs : List Byte) : exec (.tetherReceive bs) s = .next (s.put (s.dev.tetherReceive bs)) :=
  State.run_of_runs _ rfl h

theorem exec_tetherTransmit : exec .tetherTransmit s = .next (s.put s.dev.tetherTransmit) := State.run_of_runs _ rfl h

theorem exec_tetherCollision (late : Bool) : exec (.tetherCollision late) s = .next (s.put (s.dev.tetherCollision late)) :=
  State.run_of_runs _ rfl h

theorem exec_tetherBackoffExpiry : exec .tetherBackoffExpiry s = .next (s.put s.dev.tetherBackoff) := State.run_of_runs _ rfl h

theorem exec_plcaBeaconLoss : exec .plcaBeaconLoss s = .next (s.put s.dev.plcaLoss) := State.run_of_runs _ rfl h

theorem exec_plcaBeaconsResume : exec .plcaBeaconsResume s = .next (s.put s.dev.plcaResume) := State.run_of_runs _ rfl h
end

theorem exec_tetherHeartbeatTimer {s : State} (h : s.fabricRuns = true) :
    exec .tetherHeartbeatTimer s = .next (s.put s.dev.heartbeatT) :=
  State.live_of_fabricRuns _ rfl h

section
variable {d : Dev}

/-! ## Received frames (R269) -/

section
variable {bs : List Byte} (hen : d.flag F.TETH_CTRL.EN = true)
include hen

theorem Dev.tetherReceive_bad (h : bs.length < 64 ∨ 1522 < bs.length ∨ fcsGood bs = false) :
    d.tetherReceive bs = (d.bump F.TETH_CNT_D.RX_ERR 1).raise 0x25 3 (3 * 256) 1 :=
  (if_neg (by simp [hen])).trans (if_pos (by simpa [or_assoc] using h))

variable (hlo : 64 ≤ bs.length) (hhi : bs.length ≤ 1522) (hfcs : fcsGood bs = true)
include hlo hhi hfcs

theorem Dev.tetherReceive_wellFormed :
    d.tetherReceive bs =
      if beAt bs 12 2 ≠ 0x88B6 then (d.bump F.TETH_CNT_D.RX_OTHER 1).raise 0x25 4 3 1
      else
        let e := (d.bumpWrap F.TETH_CNT_A.RX_OK 1).countQ 0x50 3
        { e with net := { e.net with passed := AMap.put e.net.passed 3 bs } } :=
  (if_neg (by simp [hen])).trans (if_neg (by simp [hfcs, hlo, hhi]))

theorem Dev.tetherReceive_other (h : beAt bs 12 2 ≠ 0x88B6) :
    d.tetherReceive bs = (d.bump F.TETH_CNT_D.RX_OTHER 1).raise 0x25 4 3 1 :=
  (Dev.tetherReceive_wellFormed hen hlo hhi hfcs).trans (if_pos h)

theorem Dev.tetherReceive_selvage (h : beAt bs 12 2 = 0x88B6) :
    d.tetherReceive bs =
      (let e := (d.bumpWrap F.TETH_CNT_A.RX_OK 1).countQ 0x50 3
       { e with net := { e.net with passed := AMap.put e.net.passed 3 bs } }) :=
  (Dev.tetherReceive_wellFormed hen hlo hhi hfcs).trans (if_neg (not_not.mpr h))
end

/-! ## The frame whose turn it is (R265) -/

section
variable {kind : Nat} {x : TethTx} (hnext : d.tethNext = some (kind, x))
include hnext

theorem Dev.tetherTransmit_waits (hback : x.backTo.isSome = true) : d.tetherTransmit = d := by
  simp [Dev.tetherTransmit, hnext, hback]

theorem Dev.tetherBackoff_due {t : Nat} (hback : x.backTo = some t) (hdue : d.before t = true) :
    d.tetherBackoff = (d.wait t).tethSet kind (some { x with backTo := none }) := by
  simp only [Dev.tetherBackoff, hnext, hback, Dev.fire_of_before _ hdue]

variable (hen : d.flag F.TETH_CTRL.EN = true) (hback : x.backTo = none)
include hen hback

theorem Dev.tetherTransmit_sends :
    d.tetherTransmit =
      (let e := ((d.tethSet kind none).bumpWrap F.TETH_CNT_A.TX_OK 1).countQ 0x51 3
       { e with net := { e.net with sent := AMap.put e.net.sent 3 x.frame } }) := by
  simp [Dev.tetherTransmit, hen, hnext, hback]

theorem Dev.tetherCollision_late :
    d.tetherCollision true = ((d.tethSet kind none).bump F.TETH_CNT_B.LATE 1).raise 0x25 1 (3 * 256) 1 := by
  simp [Dev.tetherCollision, hen, hnext, hback]

theorem Dev.tetherCollision_sixteenth (h : 15 ≤ x.attempts) :
    d.tetherCollision false =
      (((d.bump F.TETH_CNT_B.COLLISIONS 1).tethSet kind none).bump F.TETH_CNT_C.EXCESSIVE 1).raise 0x25 0 (3 * 256) 1 := by
  simp [Dev.tetherCollision, hen, hnext, hback, h]

theorem Dev.tetherCollision_backsOff (h : x.attempts < 15) :
    d.tetherCollision false =
      (let r := (d.bump F.TETH_CNT_B.COLLISIONS 1).draw (2 ^ min (x.attempts + 1) 10)
       r.2.tethSet kind (some { x with attempts := x.attempts + 1, backTo := some (r.2.time.tb + r.1 * 51200) })) := by
  simp [Dev.tetherCollision, hen, hnext, hback, Nat.not_le.mpr h]
end

/-! ## PLCA (R268) and the heartbeat (R266) -/

theorem Dev.plcaLoss_due (hen : d.flag F.TETH_CTRL.PLCA_EN = true) (hact : d.flag F.TETH_STAT.PLCA_ACTIVE = true)
    (hdue : d.before (d.teth.beacon.getD 0 + d.plcaWait) = true) :
    d.plcaLoss = ((d.wait (d.teth.beacon.getD 0 + d.plcaWait)).setFlag F.TETH_STAT.PLCA_ACTIVE false).raise 0x25 2 (3 * 256) 1 :=
  (if_neg (by simp [hen, hact])).trans (Dev.fire_of_before _ hdue)

theorem Dev.plcaResume_enabled (hen : d.flag F.TETH_CTRL.EN = true) (hplca : d.flag F.TETH_CTRL.PLCA_EN = true) :
    d.plcaResume = { d.setFlag F.TETH_STAT.PLCA_ACTIVE true with teth := { d.teth with beacon := some d.time.tb } } :=
  if_neg (by simp [hen, hplca])

theorem Dev.heartbeatT_due {t : Nat} (hstage : 6 ≤ d.rd F.BOOT_STAT.STAGE) (ht : d.slv.hbTbT = some t)
    (hdue : d.before (t + (if d.isActive then 100000 else 1000000)) = true) :
    d.heartbeatT =
      (let e := d.wait (t + (if d.isActive then 100000 else 1000000))
       let seq := (e.slv.hbSeqT + 1) % 65536
       ((e.updSlv (fun s => { s with hbSeqT := seq, hbTbT := some e.time.tb })).tethPut 1 (e.tetherBytes (e.hbFrame 1 seq))).count 0x6A) := by
  simp only [Dev.heartbeatT, if_neg (Nat.not_lt.mpr hstage), ht, Dev.fire_of_before _ hdue]
end

/-- Settles O38: size and FCS come first, then the EtherType; the destination is not looked at. -/
theorem tetherReceiveIsR269 : Obligations.TetherReceiveIsR269 := by
  rintro s d e bs rfl hruns hen
  rw [exec_tetherReceive hruns]
  refine ⟨?selvage, ?bad, ?other⟩
  case selvage =>
    rintro ⟨hlo, hhi, hfcs, htype⟩ rfl
    rw [Dev.tetherReceive_selvage hen hlo hhi hfcs htype]
  case bad => exact fun hbad => by rw [Dev.tetherReceive_bad hen hbad]
  case other => exact fun ⟨hlo, hhi, hfcs, htype⟩ => by rw [Dev.tetherReceive_other hen hlo hhi hfcs htype]

/-- Settles O39: each command acts on the frame whose turn it is, by its attempts and its back-off; the timers act when they are due. -/
theorem tetherSendActs : Obligations.TetherSendActs := by
  refine ⟨?send, ?backoff, ?loss, ?resume, ?heartbeat⟩
  case send =>
    rintro s d e kind x rfl hruns hen hnext hback
    refine ⟨?sent, ?late, fun hmax => ?sixteenth, ?again⟩
    case sent =>
      rintro rfl
      rw [exec_tetherTransmit hruns, Dev.tetherTransmit_sends hnext hen hback]
    case late => rw [exec_tetherCollision hruns, Dev.tetherCollision_late hnext hen hback]
    case sixteenth => rw [exec_tetherCollision hruns, Dev.tetherCollision_sixteenth hnext hen hback hmax]
    case again =>
      rintro hfew r rfl
      rw [exec_tetherCollision hruns, Dev.tetherCollision_backsOff hnext hen hback hfew]
  case backoff =>
    rintro s d kind t x rfl hruns hnext hback
    refine ⟨fun hdue => ?ends, ?waits⟩
    case ends => rw [exec_tetherBackoffExpiry hruns, Dev.tetherBackoff_due hnext hback hdue]
    case waits => rw [exec_tetherTransmit hruns, Dev.tetherTransmit_waits hnext (by rw [hback]; rfl), State.put_dev]
  case loss =>
    rintro s d t rfl hruns hen hact rfl hdue
    rw [exec_plcaBeaconLoss hruns, Dev.plcaLoss_due hen hact hdue]
  case resume =>
    rintro s d e rfl hruns hen hplca rfl
    rw [exec_plcaBeaconsResume hruns, Dev.plcaResume_enabled hen hplca]
    rfl
  case heartbeat =>
    rintro s d e t seq rfl hruns hstage ht hdue rfl rfl
    rw [exec_tetherHeartbeatTimer hruns, Dev.heartbeatT_due hstage ht hdue]

end Sys2Proof.Machine
end

