-- ==== Sys2Proof/Proofs/RegisterRows.lean ====
section
/-! PROOFS. A register command whose row stores the word: the command comes to its row's effect, with the fields that its address has. -/

namespace Sys2Proof.Machine
open Sys2Proof

section
variable {d e : Dev} {a v base : Nat} {idx : List Nat} {fields : List FRow}

/-- A write of a register that no rule of the pair owns, at its row. -/
theorem Dev.regCommand_atRow (h : regAt a = some (.row base idx fields)) (hp : ∀ x : Dev, x.pairOwned base idx = false)
    (hw : d.rowWrite a base idx fields v = (e, St.ok)) : d.regCommand a v = e := by
  have hwrite : d.regWrite a v = (e, St.ok) := by simp only [Dev.regWrite, h, hp, Bool.false_and, Bool.false_eq_true, if_false, hw]
  have hhere : ∀ x : Dev, x.regMirrored a = false := fun x => by simp only [Dev.regMirrored, h, hp, Bool.false_and]
  simp [Dev.regCommand, Dev.regWrites, hwrite, hhere, Dev.regRecs]

/-- A register that is neither the pair's nor a DAC channel's belongs to no unit alone. -/
theorem Dev.pairOwned_of_notShared (d : Dev) (idx : List Nat) (hpair : pairWritten base = false)
    (hdac : (decide (base = R.DAC_CH_CFG 0) || decide (base = R.DAC_CODE 0) || decide (base = R.DAC_CLR_CODE 0)) = false) :
    d.pairOwned base idx = false := by
  rw [Dev.pairOwned, hpair, hdac]
  rfl
end

end Sys2Proof.Machine
end

