-- ==== Sys2Proof/Proofs/HostPorts.lean ====
section
/-! PROOFS. The host ports and the peer port: the stages of a received frame (R252), PAUSE (R262, R263), the link (R251), the rules (R259),
the peer port's frames (R264). -/

namespace Sys2Proof.Machine
open Sys2Proof

/-! ## The commands -/

theorem exec_frameReceive {s : State} {p : Nat} (room : Bool) (bs : List Byte) (h : s.runs = true) (hp : p < 2) :
    exec (.frameReceive p room bs) s = .next (s.put (s.dev.frameReceive p room bs)) :=
  State.run_of_runs _ (decide_eq_true hp) h

theorem exec_pauseExpiry {s : State} {p : Nat} (h : s.runs = true) (hp : p < 2) :
    exec (.pauseExpiry p) s = .next (s.put (s.dev.pauseExpiry p)) :=
  State.run_of_runs _ (decide_eq_true hp) h

theorem exec_pauseRefresh {s : State} {p : Nat} (h : s.runs = true) (hp : p < 2) :
    exec (.pauseRefresh p) s = .next (s.put (s.dev.pauseRefresh p)) :=
  State.run_of_runs _ (decide_eq_true hp) h

theorem exec_macLinkChange {s : State} {p : Nat} (lock hiBer localF remoteF : Bool) (h : s.runs = true) (hp : p < 3) :
    exec (.macLinkChange p lock hiBer localF remoteF) s = .next (s.put (s.dev.macChange p lock hiBer localF remoteF)) :=
  State.run_of_runs _ (decide_eq_true hp) h

theorem exec_ruleCtlWrite {s : State} {n : Nat} (v : Nat) (h : s.runs = true) (hn : n < 32) :
    exec (.ruleCtlWrite n v) s = .next (s.put (s.dev.regCommand (R.RULE_CTL n) v)) :=
  State.run_of_runs _ (decide_eq_true hn) h

theorem exec_peerFrameReceive {s : State} (room : Bool) (bs : List Byte) (h : s.runs = true) :
    exec (.peerFrameReceive room bs) s = .next (s.put (s.dev.peerFrame room bs)) :=
  State.run_of_runs _ rfl h

section
variable {d : Dev} {p : Nat} {room : Bool} {bs : List Byte}

/-! ## Stages 1 to 4 (R252 - R254) -/

theorem Dev.rxEarly_runt (h : bs.length < 64) : d.rxEarly p room bs = (d.rxDrop p (F.RX_DROP_A.RUNT p) (some 8), false) := if_pos h

theorem Dev.rxEarly_oversize (h : 9216 < bs.length) : d.rxEarly p room bs = (d.rxDrop p (F.RX_DROP_A.OVERSIZE p) (some 7), false) :=
  (if_neg (by omega)).trans (if_pos h)

section
variable (hlo : 64 ≤ bs.length) (hhi : bs.length ≤ 9216)
include hlo hhi

theorem Dev.rxEarly_badFcs (h : fcsGood bs = false) : d.rxEarly p room bs = (d.rxDrop p (F.RX_DROP_B.FCS p) none, false) :=
  (if_neg (Nat.not_lt.mpr hlo)).trans ((if_neg (Nat.not_lt.mpr hhi)).trans (if_pos (by simp [h])))

variable (hfcs : fcsGood bs = true)
include hfcs

theorem Dev.rxEarly_goodFcs :
    d.rxEarly p room bs =
      if !room then (d.rxDrop p (F.RX_DROP_F.FIFO p) (some 4), false)
      else if !d.addrAccepted p (beAt bs 0 6) then (d.rxDrop p (F.RX_DROP_B.ADDR p) none, false)
      else (d, true) :=
  (if_neg (Nat.not_lt.mpr hlo)).trans ((if_neg (Nat.not_lt.mpr hhi)).trans (if_neg (by simp [hfcs])))

theorem Dev.rxEarly_noRoom (h : room = false) : d.rxEarly p room bs = (d.rxDrop p (F.RX_DROP_F.FIFO p) (some 4), false) :=
  (Dev.rxEarly_goodFcs hlo hhi hfcs).trans (if_pos (by simp [h]))

theorem Dev.rxEarly_otherAddress (hroom : room = true) (h : d.addrAccepted p (beAt bs 0 6) = false) :
    d.rxEarly p room bs = (d.rxDrop p (F.RX_DROP_B.ADDR p) none, false) :=
  (Dev.rxEarly_goodFcs hlo hhi hfcs).trans ((if_neg (by simp [hroom])).trans (if_pos (by simp [h])))

theorem Dev.rxEarly_passes (hroom : room = true) (h : d.addrAccepted p (beAt bs 0 6) = true) : d.rxEarly p room bs = (d, true) :=
  (Dev.rxEarly_goodFcs hlo hhi hfcs).trans ((if_neg (by simp [hroom])).trans (if_neg (by simp [h])))
end

/-! ## Stages 8 and 9 (R258, R318) -/

section
variable {e : Eth} {ip : IpRes}

theorem Dev.rxLate_filtered (h : (d.steer p e ip).2 = none) :
    d.rxLate p bs e ip = (d.steer p e ip).1.rxDrop p (F.RX_DROP_E.FILTER p) (some 10) := by
  simp only [Dev.rxLate, h]

variable {q : Nat} {m : Dev × Bool} (hq : (d.steer p e ip).2 = some q)
  (hm : m = (d.steer p e ip).1.police q bs.length ((d.steer p e ip).1.rxq q).length e ip)
include hq hm

theorem Dev.rxLate_steered :
    d.rxLate p bs e ip =
      if !m.2 then m.1.countQ 0x52 p
      else if m.1.rxDepth q ≤ (m.1.rxq q).length then m.1.rxDrop p (F.RX_DROP_F.QFULL p) (some 5)
      else (((m.1.rxPut p q bs).bumpWrap (F.RX_OK.COUNT p) 1).countQ 0x50 p).pauseCheck p := by
  simp only [Dev.rxLate, hq, hm]

theorem Dev.rxLate_policed (h : m.2 = false) : d.rxLate p bs e ip = m.1.countQ 0x52 p :=
  (Dev.rxLate_steered hq hm).trans (if_pos (by simp [h]))

theorem Dev.rxLate_queueFull (h : m.2 = true) (hfull : m.1.rxDepth q ≤ (m.1.rxq q).length) :
    d.rxLate p bs e ip = m.1.rxDrop p (F.RX_DROP_F.QFULL p) (some 5) :=
  (Dev.rxLate_steered hq hm).trans ((if_neg (by simp [h])).trans (if_pos hfull))

theorem Dev.rxLate_queued (h : m.2 = true) (hroom : (m.1.rxq q).length < m.1.rxDepth q) :
    d.rxLate p bs e ip = (((m.1.rxPut p q bs).bumpWrap (F.RX_OK.COUNT p) 1).countQ 0x50 p).pauseCheck p :=
  (Dev.rxLate_steered hq hm).trans ((if_neg (by simp [h])).trans (if_neg (Nat.not_le.mpr hroom)))
end

/-! ## The stages in order (R252) -/

theorem Dev.frameReceive_disabled (h : d.flag (F.MAC_CTRL.RX_EN p) = false) : d.frameReceive p room bs = d := if_pos (by simp [h])

section
variable (hp : p < 2) (hen : d.flag (F.MAC_CTRL.RX_EN p) = true)
include hp hen

theorem Dev.frameReceive_goes : (decide (1 < p) || !d.flag (F.MAC_CTRL.RX_EN p)) = false := by
  simp only [hen, Bool.not_true, Bool.or_false, decide_eq_false_iff_not]
  omega

theorem Dev.frameReceive_early {e : Dev} (h : d.rxEarly p room bs = (e, false)) : d.frameReceive p room bs = e := by
  simp [Dev.frameReceive, Dev.frameReceive_goes hp hen, h]

variable (hearly : d.rxEarly p room bs = (d, true))
include hearly

theorem Dev.frameReceive_pause (ht : (parseEth bs).etype = 0x8808) (hop : beAt (parseEth bs).body 0 2 = 1)
    (hdst : (parseEth bs).dst = 0x0180C2000001 ∨ (parseEth bs).dst = d.station p) (hpause : d.flag (F.MAC_CTRL.PAUSE_RX_EN p) = true) :
    d.frameReceive p room bs = d.takePause p (beAt (parseEth bs).body 2 2) := by
  simp [Dev.frameReceive, Dev.frameReceive_goes hp hen, hearly, ht, hop, hdst, hpause]

theorem Dev.frameReceive_control (ht : (parseEth bs).etype = 0x8808)
    (h : beAt (parseEth bs).body 0 2 ≠ 1 ∨ d.flag (F.MAC_CTRL.PAUSE_RX_EN p) = false) :
    d.frameReceive p room bs = d.rxDrop p (F.RX_DROP_C.MACCTL p) none := by
  rcases h with h | h
  · simp [Dev.frameReceive, Dev.frameReceive_goes hp hen, hearly, ht, h]
  · simp [Dev.frameReceive, Dev.frameReceive_goes hp hen, hearly, ht, h]

variable (ht : (parseEth bs).etype ≠ 0x8808)
include ht

theorem Dev.frameReceive_vlan (h : d.vlanRefused p (parseEth bs) = true) :
    d.frameReceive p room bs = d.rxDrop p (F.RX_DROP_C.VLAN p) none := by
  simp [Dev.frameReceive, Dev.frameReceive_goes hp hen, hearly, ht, h]

variable (hvlan : d.vlanRefused p (parseEth bs) = false)
include hvlan

theorem Dev.frameReceive_ipErr (h : d.ipStage p (parseEth bs) = .ipErr) :
    d.frameReceive p room bs = d.rxDrop p (F.RX_DROP_D.IP_ERR p) none := by
  simp [Dev.frameReceive, Dev.frameReceive_goes hp hen, hearly, ht, hvlan, h]

theorem Dev.frameReceive_fragment (h : d.ipStage p (parseEth bs) = .frag) :
    d.frameReceive p room bs = d.rxDrop p (F.RX_DROP_E.FRAG p) none := by
  simp [Dev.frameReceive, Dev.frameReceive_goes hp hen, hearly, ht, hvlan, h]

theorem Dev.frameReceive_udpErr (h : d.ipStage p (parseEth bs) = .udpErr) :
    d.frameReceive p room bs = d.rxDrop p (F.RX_DROP_D.UDP_ERR p) none := by
  simp [Dev.frameReceive, Dev.frameReceive_goes hp hen, hearly, ht, hvlan, h]

theorem Dev.frameReceive_late (hip : d.ipStage p (parseEth bs) ≠ .ipErr) (hfrag : d.ipStage p (parseEth bs) ≠ .frag)
    (hudp : d.ipStage p (parseEth bs) ≠ .udpErr) :
    d.frameReceive p room bs = d.rxLate p bs (parseEth bs) (d.ipStage p (parseEth bs)) := by
  simp only [Dev.frameReceive, Dev.frameReceive_goes hp hen, hearly, ht, hvlan, Bool.not_true, Bool.false_eq_true, if_false]
end

/-! ## PAUSE (R262, R263) -/

theorem Dev.pauseExpiry_due {t : Nat} (ht : AMap.find d.net.pausedTo p = some t) (hdue : d.before ((t + 9) / 10) = true) :
    d.pauseExpiry p =
      (let e := d.wait ((t + 9) / 10)
       { e with net := { e.net with pausedTo := AMap.del e.net.pausedTo p } }.setFlag (F.MAC_STAT.TX_PAUSED p) false) := by
  simp only [Dev.pauseExpiry, ht, Dev.fire_of_before _ hdue]

theorem Dev.pauseRefresh_due {t : Nat} (ht : AMap.find d.net.xoff p = some t)
    (hdue : d.before (t + d.pauseTime p * 256 / 10) = true) :
    d.pauseRefresh p =
      (let e := d.wait (t + d.pauseTime p * 256 / 10)
       if !e.flag (F.MAC_CTRL.PAUSE_TX_EN p) || decide (e.rxHeld p < e.xonBytes p) then e
       else { e with net := { e.net with
         xoff := AMap.put e.net.xoff p e.time.tb
         pauseDue := AMap.put e.net.pauseDue p (e.pauseTime p) } }) := by
  simp only [Dev.pauseRefresh, ht, Dev.fire_of_before _ hdue]

/-! ## The link (R251) -/

section
variable {lock hiBer localF remoteF : Bool}

theorem Dev.macChange_stands (h : d.flag (F.MAC_STAT.LINK p) = false ∨
      (d.macLink p lock hiBer localF remoteF).flag (F.MAC_STAT.LINK p) = true) :
    d.macChange p lock hiBer localF remoteF = d.macLink p lock hiBer localF remoteF :=
  if_neg (by rcases h with h | h <;> simp [h])

theorem Dev.macChange_falls (hwas : d.flag (F.MAC_STAT.LINK p) = true)
    (hnow : (d.macLink p lock hiBer localF remoteF).flag (F.MAC_STAT.LINK p) = false) :
    d.macChange p lock hiBer localF remoteF =
      if p = 2 then (d.macLink p lock hiBer localF remoteF).pLostNow else (d.macLink p lock hiBer localF remoteF).ptpFallback p :=
  if_pos (by simp [hwas, hnow])
end

theorem Dev.macLink_down (h : d.flag (F.MAC_STAT.LINK p) = true) :
    d.macLink p false false false false = (((((((d.setFlag (F.MAC_STAT.BLOCK_LOCK p) false).setFlag (F.MAC_STAT.HI_BER p) false).setFlag
      (F.MAC_STAT.LOCAL_FAULT p) false).setFlag (F.MAC_STAT.REMOTE_FAULT p) false).setFlag (F.MAC_STAT.LINK p) false).bump
      (F.MAC_STAT.LINK_DOWNS p) 1).raise (0x22 + p) 0 (p * 256) 1) := by
  simp [Dev.macLink, h]

/-! ## The rules (R259) -/

theorem Dev.regCommand_RULE_CTL {n v : Nat} {fields : List FRow} (h : regAt (R.RULE_CTL n) = some (.row (R.RULE_CTL 0) [n] fields)) :
    d.regCommand (R.RULE_CTL n) v = (d.storeWord (R.RULE_CTL n) (R.RULE_CTL 0) [n] fields v).ruleInForce n :=
  Dev.regCommand_atRow h (fun x => x.pairOwned_of_notShared [n] (by decide) (by decide)) rfl

/-! ## The peer port (R264) -/

section
variable (hen : d.flag (F.MAC_CTRL.RX_EN 2) = true) (hearly : d.rxEarly 2 room bs = (d, true))
include hen hearly

theorem Dev.peerFrame_passed :
    d.peerFrame room bs =
      if beAt bs 12 2 = 0x8808 then d.rxDrop 2 (F.RX_DROP_C.MACCTL 2) none
      else if beAt bs 12 2 = 0x88B6 && (beAt bs 0 6 = d.station 2 || beAt bs 0 6 = 0xFFFFFFFFFFFF) then
        { (d.bumpWrap (F.RX_OK.COUNT 2) 1).countQ 0x50 2 with net := { d.net with passed := AMap.put d.net.passed 2 bs } }
      else d.rxDrop 2 (F.RX_DROP_E.FILTER 2) (some 10) := by
  rw [Dev.peerFrame, if_neg (by simp [hen]), hearly]
  rfl

theorem Dev.peerFrame_control (ht : beAt bs 12 2 = 0x8808) : d.peerFrame room bs = d.rxDrop 2 (F.RX_DROP_C.MACCTL 2) none :=
  (Dev.peerFrame_passed hen hearly).trans (if_pos ht)

theorem Dev.peerFrame_selvage (ht : beAt bs 12 2 = 0x88B6) (hdst : beAt bs 0 6 = d.station 2 ∨ beAt bs 0 6 = 0xFFFFFFFFFFFF) :
    d.peerFrame room bs =
      (let e := (d.bumpWrap (F.RX_OK.COUNT 2) 1).countQ 0x50 2
       { e with net := { e.net with passed := AMap.put e.net.passed 2 bs } }) := by
  rw [Dev.peerFrame_passed hen hearly, if_neg (by simp [ht]), if_pos (by simp [ht, hdst])]
  simp

theorem Dev.peerFrame_other (hc : beAt bs 12 2 ≠ 0x8808)
    (h : beAt bs 12 2 ≠ 0x88B6 ∨ (beAt bs 0 6 ≠ d.station 2 ∧ beAt bs 0 6 ≠ 0xFFFFFFFFFFFF)) :
    d.peerFrame room bs = d.rxDrop 2 (F.RX_DROP_E.FILTER 2) (some 10) :=
  (Dev.peerFrame_passed hen hearly).trans ((if_neg hc).trans (if_neg (by rcases h with h | h <;> simp [h])))
end
end

/-- Settles O35: the first stage that fails drops the frame with its own counter; one that passes them all goes to its queue. -/
theorem frameStagesAct : Obligations.FrameStagesAct := by
  refine ⟨fun s p room bs hruns hp hoff => ?disabled, ?enabled⟩
  case disabled => rw [exec_frameReceive room bs hruns hp, Dev.frameReceive_disabled hoff, State.put_dev]
  case enabled =>
    rintro s d p room bs rfl hruns hp hen
    rw [exec_frameReceive room bs hruns hp]
    refine ⟨fun h => ?runt, fun h => ?oversize, fun hlo hhi hfcs => ?badFcs, fun hlo hhi hfcs => ⟨fun hroom => ?noRoom,
      fun hroom haddr => ?otherAddress, fun hroom haddr => ?passed⟩⟩
    case runt => rw [Dev.frameReceive_early hp hen (Dev.rxEarly_runt h)]
    case oversize => rw [Dev.frameReceive_early hp hen (Dev.rxEarly_oversize h)]
    case badFcs => rw [Dev.frameReceive_early hp hen (Dev.rxEarly_badFcs hlo hhi hfcs)]
    case noRoom => rw [Dev.frameReceive_early hp hen (Dev.rxEarly_noRoom hlo hhi hfcs hroom)]
    case otherAddress => rw [Dev.frameReceive_early hp hen (Dev.rxEarly_otherAddress hlo hhi hfcs hroom haddr)]
    case passed =>
      have hearly := Dev.rxEarly_passes hlo hhi hfcs hroom haddr
      refine ⟨fun ht => ⟨fun ⟨hop, hdst, hpause⟩ => ?pause, fun h => ?control⟩, fun ht hvlan => ?vlan, fun ht hvlan => ?ip⟩
      case pause => rw [Dev.frameReceive_pause hp hen hearly ht hop hdst hpause]
      case control => rw [Dev.frameReceive_control hp hen hearly ht h]
      case vlan => rw [Dev.frameReceive_vlan hp hen hearly ht hvlan]
      case ip =>
        refine ⟨fun h => ?ipErr, fun h => ?fragment, fun h => ?udpErr, fun hip hfrag hudp => ?late⟩
        case ipErr => rw [Dev.frameReceive_ipErr hp hen hearly ht hvlan h]
        case fragment => rw [Dev.frameReceive_fragment hp hen hearly ht hvlan h]
        case udpErr => rw [Dev.frameReceive_udpErr hp hen hearly ht hvlan h]
        case late =>
          rw [Dev.frameReceive_late hp hen hearly ht hvlan hip hfrag hudp]
          rintro r rfl
          refine ⟨fun h => ?filtered, fun q hq m hm => ⟨fun h => ?policed, fun h hfull => ?full, fun h hfits => ?queued⟩⟩
          case filtered => rw [Dev.rxLate_filtered h]
          case policed => rw [Dev.rxLate_policed hq hm h]
          case full => rw [Dev.rxLate_queueFull hq hm h hfull]
          case queued => rw [Dev.rxLate_queued hq hm h hfits]

/-- Settles O36: each timer acts when it is due; a link that falls takes the PTP port or the peer path with it; a write of RULE_CTL puts its
rule in force; MAC_P passes the pair's own frames on. -/
theorem portsAct : Obligations.PortsAct := by
  refine ⟨?expiry, ?refresh, ?link, fun d p => Dev.macLink_down, ?rule, fun _ _ => rfl, ?peer⟩
  case expiry =>
    rintro s d e p t rfl hruns hp ht hdue rfl
    rw [exec_pauseExpiry hruns hp, Dev.pauseExpiry_due ht hdue]
  case refresh =>
    rintro s d e p t rfl hruns hp ht hdue rfl
    rw [exec_pauseRefresh hruns hp, Dev.pauseRefresh_due ht hdue]
    refine ⟨fun hen hheld => ?sends, fun h => ?stops⟩
    case sends =>
      dsimp only
      rw [if_neg (by simp [hen, hheld])]
    case stops =>
      dsimp only
      rw [if_pos (by simpa using h)]
  case link =>
    rintro s d e p lock hiBer localF remoteF rfl hruns hp rfl
    rw [exec_macLinkChange lock hiBer localF remoteF hruns hp]
    exact ⟨fun h => by rw [Dev.macChange_stands h], fun hwas hnow => by rw [Dev.macChange_falls hwas hnow]⟩
  case rule =>
    rintro s d n v rfl hruns hn fields hrow
    rw [exec_ruleCtlWrite v hruns hn, Dev.regCommand_RULE_CTL hrow]
  case peer =>
    rintro s d room bs rfl hruns hen hlo hhi hfcs hroom haddr
    have hearly := Dev.rxEarly_passes hlo hhi hfcs hroom haddr
    rw [exec_peerFrameReceive room bs hruns]
    refine ⟨fun ht => ?control, ?selvage, fun hc h => ?other⟩
    case control => rw [Dev.peerFrame_control hen hearly ht]
    case selvage =>
      rintro ht hdst e rfl
      rw [Dev.peerFrame_selvage hen hearly ht hdst]
    case other => rw [Dev.peerFrame_other hen hearly hc h]

end Sys2Proof.Machine
end

