-- ==== Sys2Proof/Proofs/Egress.lean ====
section
/-! PROOFS. Egress: what a queue admits (R307), what a port sends when it becomes idle (R310), the refills of shapers and policers (R312,
R317), the gates (R313, R315). -/

namespace Sys2Proof.Machine
open Sys2Proof

/-! ## The commands -/

theorem exec_egressEnqueue {s : State} {p q : Nat} (dst : Nat) (vid : Option Nat) (body : List Byte) (h : s.runs = true) (hp : p < 2)
    (hq : q < 8) :
    exec (.egressEnqueue p q dst vid body) s = .next (s.put (s.dev.enqueueTx p q (s.dev.mkFrame p q dst vid body)).1) :=
  State.run_of_runs _ (by simp [hp, hq]) h

theorem exec_txOpportunity {s : State} {p : Nat} (h : s.runs = true) (hp : p < 2) :
    exec (.txOpportunity p) s = .next (s.put (s.dev.txOpportunity p).ptpFollow) :=
  State.run_of_runs _ (decide_eq_true hp) h

theorem exec_shaperRefill {s : State} (h : s.runs = true) : exec .shaperRefill s = .next (s.put s.dev.shaperRefill) :=
  State.run_of_runs _ rfl h

theorem exec_policerRefill {s : State} (h : s.runs = true) : exec .policerRefill s = .next (s.put s.dev.policerRefill) :=
  State.run_of_runs _ rfl h

theorem exec_gateEntryChange {s : State} {p : Nat} (h : s.runs = true) (hp : p < 2) :
    exec (.gateEntryChange p) s = .next (s.put (s.dev.gateEntryChange p)) :=
  State.run_of_runs _ (decide_eq_true hp) h

theorem exec_gateListStart {s : State} {p : Nat} (h : s.runs = true) (hp : p < 2) :
    exec (.gateListStart p) s = .next (s.put (s.dev.gateListStart p)) :=
  State.run_of_runs _ (decide_eq_true hp) h

section
variable {d : Dev} {p : Nat}

/-! ## Admission (R307, R308) -/

section
variable {q : Nat} {f : TxFrame}

theorem Dev.enqueueTx_overLimit (hq : q ≠ 1) (h : d.egLimit p q < d.egFill p q + f.size) :
    d.enqueueTx p q f = ((d.bump (F.EQ_DROP.TAIL p q) 1).egDropped p q f, false) :=
  if_pos (by simp [hq, h])

variable (hlim : q = 1 ∨ d.egFill p q + f.size ≤ d.egLimit p q)
include hlim

theorem Dev.enqueueTx_withinLimit : ¬ (decide (q ≠ 1) && decide (d.egLimit p q < d.egFill p q + f.size)) = true := by
  simp only [Bool.and_eq_true, decide_eq_true_eq]
  omega

theorem Dev.enqueueTx_room (h : d.egRoom p q f.size = true) : d.enqueueTx p q f = (d.putEgress p q (d.egress p q ++ [f]), true) :=
  (if_neg (Dev.enqueueTx_withinLimit hlim)).trans (if_pos h)

theorem Dev.enqueueTx_noRoom (h : d.egRoom p q f.size = false) (hpush : d.canPush p q f.size = false) :
    d.enqueueTx p q f = ((d.bump (F.EQ_DROP.TAIL p q) 1).egDropped p q f, false) :=
  (if_neg (Dev.enqueueTx_withinLimit hlim)).trans ((if_neg (by simp [h])).trans (if_pos (by simp [hpush])))
end

/-! ## The port becomes idle (R310) -/

/-- The device when port `p` becomes idle: no frame is under way on it, and its fills say so. -/
def Dev.portIdle (d : Dev) (p : Nat) : Dev :=
  let e := d.wait (max ((AMap.get d.net.busy p 0 + 9) / 10) d.time.tb)
  forEach (List.range 8) (fun q (d : Dev) => d.wr (F.EQ_STAT.FILL p q) (d.egFill p q))
    { e with sched := { e.sched with sending := AMap.del e.sched.sending p } }

/-- What port `p` sends of its own or of its queues, from the device in which it is idle. -/
def Dev.idleSends (w : Dev) (p : Nat) : Dev :=
  match AMap.find w.net.pauseDue p with
  | some t => if w.portSends p then w.startPause p t else { w with net := { w.net with pauseDue := AMap.del w.net.pauseDue p } }
  | none =>
    if w.time.tb * 10 < AMap.get w.net.pausedTo p 0 then w
    else
      let r := (w.dropNoFit p).chooseQueue p
      match r.2 with
      | none => r.1
      | some q =>
        match r.1.egress p q with
        | [] => r.1
        | f :: fs =>
          let x := r.1.putEgress p q fs
          if x.portSends p then (x.startTx p q f).putEgress p q fs
          else ((x.bump (F.TX_DROP.LINKDOWN p) 1).countQ 0x53 p).raise (0x22 + p) 9 (p * 256) 1

theorem Dev.txOpportunity_due (hp : p < 2) (hdue : d.before (max ((AMap.get d.net.busy p 0 + 9) / 10) d.time.tb) = true) :
    d.txOpportunity p = (d.portIdle p).idleSends p := by
  rw [Dev.txOpportunity, if_neg (by omega), Dev.fire_of_before _ hdue]
  extract_lets +onlyGivenNames sched e w
  have hw : w = d.portIdle p := rfl
  clear_value w
  rw [← hw]
  unfold Dev.idleSends
  generalize (w.dropNoFit p).chooseQueue p = r
  rfl

section
variable {w : Dev}

section
variable {t : Nat} (ht : AMap.find w.net.pauseDue p = some t)
include ht

theorem Dev.idleSends_pause (h : w.portSends p = true) : w.idleSends p = w.startPause p t := by
  simp only [Dev.idleSends, ht, h, if_true]

theorem Dev.idleSends_pauseLost (h : w.portSends p = false) :
    w.idleSends p = { w with net := { w.net with pauseDue := AMap.del w.net.pauseDue p } } := by
  simp only [Dev.idleSends, ht, h, Bool.false_eq_true, if_false]
end

section
variable (hnone : AMap.find w.net.pauseDue p = none)
include hnone

theorem Dev.idleSends_paused (h : w.time.tb * 10 < AMap.get w.net.pausedTo p 0) : w.idleSends p = w := by
  simp only [Dev.idleSends, hnone, h, if_true]

variable (hfree : AMap.get w.net.pausedTo p 0 ≤ w.time.tb * 10)
include hfree

variable {r : Dev × Option Nat} (hr : r = (w.dropNoFit p).chooseQueue p)
include hr

theorem Dev.idleSends_noQueue (hq : r.2 = none) : w.idleSends p = r.1 := by
  simp only [Dev.idleSends, hnone, if_neg (Nat.not_lt.mpr hfree), ← hr, hq]

variable {q : Nat} {f : TxFrame} {fs : List TxFrame} (hq : r.2 = some q) (hhead : r.1.egress p q = f :: fs)
include hq hhead

theorem Dev.idleSends_frame (h : (r.1.putEgress p q fs).portSends p = true) :
    w.idleSends p = ((r.1.putEgress p q fs).startTx p q f).putEgress p q fs := by
  simp only [Dev.idleSends, hnone, if_neg (Nat.not_lt.mpr hfree), ← hr, hq, hhead, h, if_true]

theorem Dev.idleSends_frameLost (h : (r.1.putEgress p q fs).portSends p = false) :
    w.idleSends p = (((r.1.putEgress p q fs).bump (F.TX_DROP.LINKDOWN p) 1).countQ 0x53 p).raise (0x22 + p) 9 (p * 256) 1 := by
  simp only [Dev.idleSends, hnone, if_neg (Nat.not_lt.mpr hfree), ← hr, hq, hhead, h, Bool.false_eq_true, if_false]
end
end

/-! ## Gates (R313, R315) -/

theorem Dev.gateEntryChange_due {g : GateList} {k : Nat × Nat × Nat} {left : Nat} (hg : d.gates p = some g)
    (hseg : segAt g.segs (g.phase d.ptpNow) = some (k, left)) (hdue : d.before (d.time.tb + left) = true) :
    d.gateEntryChange p = (d.wait (d.time.tb + left)).gclStat p := by
  simp only [Dev.gateEntryChange, hg, hseg, Dev.fire_of_before _ hdue]

theorem Dev.gateListStart_due {g : GateList} (hg : AMap.find d.sched.await p = some g)
    (hdue : d.before ((g.start : Int) - d.time.ofs).toNat = true) :
    d.gateListStart p =
      (let e := d.wait ((g.start : Int) - d.time.ofs).toNat
       ({ e with sched := { e.sched with
         oper := if g.enable then AMap.put e.sched.oper p g else AMap.del e.sched.oper p
         await := AMap.del e.sched.await p } }.gclStat p).raise 0x26 5 p 1) := by
  simp only [Dev.gateListStart, hg, Dev.fire_of_before _ hdue]
end

/-- Settles O37: a frame joins its queue, or is dropped where its limit or the buffer has no room for it; a port that becomes idle sends its
own PAUSE first, then the frame chosen; the refills and the gates act when they are due. -/
theorem egressActs : Obligations.EgressActs := by
  refine ⟨?enqueue, ?send, fun s hruns _ => exec_shaperRefill hruns, fun s hruns _ => exec_policerRefill hruns, ?gateEntry, ?gateStart⟩
  case enqueue =>
    rintro s d p q dst vid body f rfl hruns hp hq rfl
    rw [exec_egressEnqueue dst vid body hruns hp hq]
    refine ⟨fun hlim hroom => ?room, fun hq1 hlong => ?tail, fun hlim hroom hpush => ?full⟩
    case room => rw [Dev.enqueueTx_room hlim hroom]
    case tail => rw [Dev.enqueueTx_overLimit hq1 hlong]
    case full => rw [Dev.enqueueTx_noRoom hlim hroom hpush]
  case send =>
    rintro s d e w p rfl hruns hp hdue rfl hw
    obtain rfl : w = s.dev.portIdle p := hw
    rw [exec_txOpportunity hruns hp, Dev.txOpportunity_due hp hdue]
    refine ⟨fun t ht hsends => ?pause, fun t ht hsends => ?pauseLost, fun hnone hpaused => ?paused, fun r hnone hfree hr => ?queues⟩
    case pause => rw [Dev.idleSends_pause ht hsends]
    case pauseLost => rw [Dev.idleSends_pauseLost ht hsends]
    case paused => rw [Dev.idleSends_paused hnone hpaused]
    case queues =>
      refine ⟨fun hq => ?noQueue, fun q f fs hq hhead hsends => ?frame, fun q f fs hq hhead hsends => ?frameLost⟩
      case noQueue => rw [Dev.idleSends_noQueue hnone hfree hr hq]
      case frame => rw [Dev.idleSends_frame hnone hfree hr hq hhead hsends]
      case frameLost => rw [Dev.idleSends_frameLost hnone hfree hr hq hhead hsends]
  case gateEntry =>
    rintro s d p left k g rfl hruns hp hg hseg hdue
    rw [exec_gateEntryChange hruns hp, Dev.gateEntryChange_due hg hseg hdue]
  case gateStart =>
    rintro s d e p due g rfl hruns hp hg rfl hdue rfl
    rw [exec_gateListStart hruns hp, Dev.gateListStart_due hg hdue]

end Sys2Proof.Machine
end

