-- ==== Sys2Proof/Proofs/SessionItems.lean ====
section
/-! PROOFS. Session items (R281, R285, R289, R296, R300, R371): what each opcode answers, case by case. -/

namespace Sys2Proof.Machine
open Sys2Proof

/-! ## The rows -/

theorem rowOf_sessionClose : RowOf .sessionClose 0x0003 := fun _ _ _ => rfl
theorem rowOf_nop : RowOf .nop 0x0004 := fun _ _ _ => rfl
theorem rowOf_accountQuery : RowOf .accountQuery 0x0005 := fun _ _ _ => rfl
theorem rowOf_eventSubscribe : RowOf .eventSubscribe 0x0006 := fun _ _ _ => rfl
theorem rowOf_eventAck : RowOf .eventAck 0x0007 := fun _ _ _ => rfl
theorem rowOf_keyWrite : RowOf .keyWrite 0x0008 := fun _ _ _ => rfl

section
variable {d : Dev} {x : ItemIn}

/-! ## SESSION_CLOSE (R285) -/

theorem Dev.itemClose_open {ss : Session} (h : d.session x.slot = some ss) :
    d.itemClose x = (d.putSession x.slot { ss with closing := true }).ends St.ok := by
  simp only [Dev.itemClose, h]

/-! ## ACCOUNT_QUERY (R289) -/

/-- The ledger's entries of a host. -/
def Dev.ledgerOf (d : Dev) (host : Nat) : List LedgerRec := d.cheda.ledger.filter (fun (e : LedgerRec) => e.hostId = host)

/-- The first sequence of a host's entries in serial order; 0 without an entry. -/
def oldestSeq : List LedgerRec → Nat
  | [] => 0
  | e :: es => es.foldl (fun (m : Nat) (y : LedgerRec) => if serialAfter m y.seq then y.seq else m) e.seq

/-- What ACCOUNT_QUERY reads: the oldest sequence, then the entries of the sequences asked for. -/
def accountResult (mine : List LedgerRec) (first n : Nat) : List Byte :=
  let es := mine.filter (fun (e : LedgerRec) => decide ((e.seq + 2 ^ 32 - first) % 2 ^ 32 < n))
  beBytes 4 (oldestSeq mine) ++ beBytes 2 es.length ++ zeros 2 ++ es.flatMap (fun (e : LedgerRec) =>
    beBytes 4 e.seq ++ beBytes 2 e.tag ++ beBytes 2 e.op ++ beBytes 2 e.status ++ beBytes 1 e.unit ++ zeros 1 ++ beBytes 4 e.csn)

theorem Dev.itemAccount_invalid (h : beAt x.par 2 2 = 0 ∨ 64 < beAt x.par 2 2) : d.itemAccount x = d.ends St.valueInvalid :=
  if_pos (by simpa using h)

theorem Dev.itemAccount_ok (hlo : 0 < beAt x.par 2 2) (hhi : beAt x.par 2 2 ≤ 64) :
    d.itemAccount x = d.okWith (accountResult (d.ledgerOf (beAt x.par 0 2)) (beAt x.par 4 4) (beAt x.par 2 2)) :=
  if_neg (by simp only [Bool.or_eq_true, decide_eq_true_eq]; omega)

theorem accountResult_nil (first n : Nat) : accountResult [] first n = zeros 8 := by
  simp [accountResult, oldestSeq]
  rfl

/-! ## EVENT_SUBSCRIBE (R300) -/

theorem Dev.itemSubscribe_ok {ss : Session} (h : d.session x.slot = some ss) (hsev : beAt x.par 0 1 ≤ 5) :
    d.itemSubscribe x = (d.putSession x.slot { ss with minSev := beAt x.par 0 1 }).ends St.ok := by
  simp only [Dev.itemSubscribe, Dev.eventSubscribe, h, if_neg (Nat.not_lt.mpr hsev)]

theorem Dev.itemSubscribe_invalid (h : 5 < beAt x.par 0 1) : d.itemSubscribe x = d.ends St.valueInvalid := by
  cases hs : d.session x.slot with
  | none => simp only [Dev.itemSubscribe, Dev.eventSubscribe, hs]
  | some ss => simp only [Dev.itemSubscribe, Dev.eventSubscribe, hs, if_pos h]

/-! ## EVENT_ACK (R371) -/

/-- The blocks that BLOCK names: one, or all. -/
def ackBlocks (b : Nat) : List Nat := if b = 255 then evBlocks else [b]

/-- The device with the sources of `mask` acknowledged in these blocks, real or injected. -/
def Dev.ackAll (d : Dev) (blocks : List Nat) (mask : Nat) (inj : Bool) : Dev :=
  forEach blocks (fun b (d : Dev) => d.evAck b mask inj) d

/-- AFLAGS 0 stands for 1: bit 0 asks for real sources, bit 1 for injected ones. -/
theorem ackFlags (a : Nat) :
    bit (if a % 4 = 0 then 1 else a) 0 = !decide (a % 4 = 2) ∧ bit (if a % 4 = 0 then 1 else a) 1 = decide (2 ≤ a % 4) := by
  have hmod : a % 4 = 0 ∨ a % 4 = 1 ∨ a % 4 = 2 ∨ a % 4 = 3 := by omega
  have h0 : bit a 0 = decide (a % 4 % 2 = 1) := by simp [bit]
  have h1 : bit a 1 = decide (a % 4 / 2 = 1) := by simp only [bit]; congr 1; simp; omega
  rcases hmod with h | h | h | h
  · simp [h, bit]
  · simp [h, h0, h1]
  · simp [h, h0, h1]
  · simp [h, h0, h1]

theorem Dev.eventAck_ok {par : List Byte} (h : beAt par 0 1 ≤ 44 ∨ beAt par 0 1 = 255) :
    d.eventAck par =
      (let e := if beAt par 1 1 % 4 = 2 then d else d.ackAll (ackBlocks (beAt par 0 1)) (beAt par 2 2) false
       if 2 ≤ beAt par 1 1 % 4 then e.ackAll (ackBlocks (beAt par 0 1)) (beAt par 2 2) true else e, St.ok) := by
  obtain ⟨hreal, hinj⟩ := ackFlags (beAt par 1 1)
  have hblock : ¬ (decide (44 < beAt par 0 1) && decide (beAt par 0 1 ≠ 255)) = true := by
    simp only [Bool.and_eq_true, decide_eq_true_eq]
    omega
  rw [Dev.eventAck, if_neg hblock]
  simp only [hreal, hinj, Bool.not_eq_true', decide_eq_false_iff_not, decide_eq_true_eq, ite_not]
  rfl

theorem Dev.itemEventAck_ok (h : beAt x.par 0 1 ≤ 44 ∨ beAt x.par 0 1 = 255) :
    d.itemEventAck x =
      (let e := if beAt x.par 1 1 % 4 = 2 then d else d.ackAll (ackBlocks (beAt x.par 0 1)) (beAt x.par 2 2) false
       if 2 ≤ beAt x.par 1 1 % 4 then e.ackAll (ackBlocks (beAt x.par 0 1)) (beAt x.par 2 2) true else e).ends St.ok := by
  rw [Dev.itemEventAck, Dev.eventAck_ok h]

theorem Dev.itemEventAck_invalid (h : 44 < beAt x.par 0 1) (hall : beAt x.par 0 1 ≠ 255) : d.itemEventAck x = d.ends St.valueInvalid := by
  have hblock : (decide (44 < beAt x.par 0 1) && decide (beAt x.par 0 1 ≠ 255)) = true := by simp [h, hall]
  rw [Dev.itemEventAck, Dev.eventAck, if_pos hblock]

/-! ## KEY_WRITE (R281) -/

theorem Dev.itemKeyWrite_denied (h : x.priv < beAt x.par 1 1) : d.itemKeyWrite x = d.ends St.privDenied := if_pos h

section
variable (hpriv : beAt x.par 1 1 ≤ x.priv)
include hpriv

theorem Dev.itemKeyWrite_invalid (h : 7 < beAt x.par 0 1 ∨ 3 < beAt x.par 1 1) : d.itemKeyWrite x = d.ends St.valueInvalid :=
  (if_neg (Nat.not_lt.mpr hpriv)).trans (if_pos (by simpa using h))

theorem Dev.itemKeyWrite_asks (hid : beAt x.par 0 1 ≤ 7) (hmax : beAt x.par 1 1 ≤ 3) :
    d.itemKeyWrite x = (d.marlAsk 2 (.key (beAt x.par 0 1)
      (some { key := (x.par.drop 4).take 32, maxPriv := beAt x.par 1 1, perm := beAt x.par 2 1 })) (some x.item)).ends St.pending :=
  (if_neg (Nat.not_lt.mpr hpriv)).trans (if_neg (by simp only [Bool.or_eq_true, decide_eq_true_eq]; omega))
end
end

/-- Settles O42: each row comes to its opcode's meaning, and each clause is one case of that meaning. -/
theorem sessionItemsEnd : Obligations.SessionItemsEnd := by
  refine ⟨?close, ?nop, ?accountInvalid, ?accountEmpty, ?account, ?subscribe, ?subscribeInvalid, ?ack, ?ackInvalid, ?key, ?keyDenied,
    ?keyInvalid⟩
  case close =>
    refine itemEnds_of_runItem rowOf_sessionClose (by decide) fun d x h => ?_
    obtain ⟨ss, hss⟩ := Option.isSome_iff_exists.mp h
    rw [hss]
    exact Dev.itemClose_open hss
  case nop => exact itemEnds_of_runItem rowOf_nop (by decide) fun d x _ => rfl
  case accountInvalid => exact itemEnds_of_runItem rowOf_accountQuery (by decide) fun d x h => Dev.itemAccount_invalid h
  case accountEmpty =>
    refine itemEnds_of_runItem rowOf_accountQuery (by decide) fun d x ⟨hlo, hhi, hnone⟩ => ?_
    have hmine : d.ledgerOf (beAt x.par 0 2) = [] := hnone
    exact (Dev.itemAccount_ok hlo hhi).trans (by rw [hmine, accountResult_nil]; rfl)
  case account =>
    refine itemEnds_of_runItem rowOf_accountQuery (by decide) fun d x ⟨hlo, hhi⟩ => (Dev.itemAccount_ok hlo hhi).trans ?_
    cases hmine : d.ledgerOf (beAt x.par 0 2) with
    | nil => simp only [Dev.ledgerOf] at hmine; simp only [hmine]; rfl
    | cons e es => simp only [Dev.ledgerOf] at hmine; simp only [hmine]; rfl
  case subscribe =>
    refine itemEnds_of_runItem rowOf_eventSubscribe (by decide) fun d x ⟨h, hsev⟩ => ?_
    obtain ⟨ss, hss⟩ := Option.isSome_iff_exists.mp h
    rw [hss]
    exact Dev.itemSubscribe_ok hss hsev
  case subscribeInvalid => exact itemEnds_of_runItem rowOf_eventSubscribe (by decide) fun d x h => Dev.itemSubscribe_invalid h
  case ack => exact itemEnds_of_runItem rowOf_eventAck (by decide) fun d x h => Dev.itemEventAck_ok h
  case ackInvalid => exact itemEnds_of_runItem rowOf_eventAck (by decide) fun d x ⟨h, hall⟩ => Dev.itemEventAck_invalid h hall
  case key => exact itemGoesOn_of_runItem rowOf_keyWrite fun d x ⟨hid, hmax, hpriv⟩ => Dev.itemKeyWrite_asks hpriv hid hmax
  case keyDenied => exact itemEnds_of_runItem rowOf_keyWrite (by decide) fun d x h => Dev.itemKeyWrite_denied h
  case keyInvalid => exact itemEnds_of_runItem rowOf_keyWrite (by decide) fun d x ⟨h, hpriv⟩ => Dev.itemKeyWrite_invalid hpriv h

end Sys2Proof.Machine
end

