-- ==== Sys2Proof/Proofs/SetItems.lean ====
section
/-! PROOFS. Transactions (R291 - R293): what opens, stages, commits and discards one. -/

namespace Sys2Proof.Machine
open Sys2Proof

/-! ## The rows -/

theorem rowOf_beginSet : RowOf .beginSet 0x0010 := fun _ _ _ => rfl
theorem rowOf_commitSet : RowOf .commitSet 0x0011 := fun _ _ _ => rfl
theorem rowOf_abortSet : RowOf .abortSet 0x0012 := fun _ _ _ => rfl
theorem rowOf_draftActivate : RowOf .draftActivate 0x0603 := fun _ _ _ => rfl
theorem rowOf_gateListWrite : RowOf .gateListWrite 0x0800 := fun _ _ _ => rfl

theorem exec_txnIdleTimeout {s : State} (h : s.runs = true) : exec .txnIdleTimeout s = .next (s.put s.dev.txnIdle) :=
  State.run_of_runs _ rfl h

/-- An opcode that a transaction stages when its checks pass. -/
theorem itemStages_of_stageStatus {row : ItemSrc → List Byte → Instr} {op : Nat} {cond : Dev → ItemIn → Prop} (hrow : RowOf row op)
    (hop : stageable.contains op = true) (hst : ∀ d x, cond d x → d.stageStatus x op = St.ok) : ItemStages row op cond := by
  intro s src ss par t hs hreach htxn hcond hcount hbytes
  rw [hrow, State.run_of_runs _ rfl hs, Dev.itemRow_stages _ src ss op par t hreach htxn hop (hst _ _ hcond) hcount hbytes]

section
variable {d : Dev} {x : ItemIn} {t : Txn}

/-! ## The session's own transaction -/

theorem Dev.ownTxn_eq_none {slot : Nat} (h : ∀ t, d.cheda.txn = some t → t.slot ≠ slot ∨ t.commit.isSome = true) : d.ownTxn slot = none := by
  unfold Dev.ownTxn
  split
  next t ht =>
    refine if_neg ?_
    rcases h t ht with h | h
    · simp [h]
    · simp [Option.isNone_iff_eq_none, Option.isSome_iff_ne_none.mp h]
  next => rfl

/-! ## BEGIN_SET (R291) -/

theorem Dev.itemBegin_busy (h : d.cheda.txn.isSome = true) : d.itemBegin x = d.ends St.busy := if_pos h

theorem Dev.itemBegin_ok (h : d.cheda.txn = none) :
    d.itemBegin x =
      (({ d with cheda := { d.cheda with txn := some { slot := x.slot, staged := [], lastTb := d.time.tb, commit := none } } }.setFlag
        F.CHEDA_STAT.TXN_OPEN true).wr F.CHEDA_STAT.TXN_SESSION x.slot).ends St.ok :=
  if_neg (by simp [h])

/-! ## COMMIT_SET (R292) -/

theorem Dev.itemCommitSet_noSet (h : d.ownTxn x.slot = none) : d.itemCommitSet x = d.ends St.noSet := by
  simp only [Dev.itemCommitSet, h]

section
variable (ht : d.ownTxn x.slot = some t)
include ht

theorem Dev.itemCommitSet_standby (ha : d.isActive = false) : d.itemCommitSet x = d.ends St.roleStandby := by
  simp [Dev.itemCommitSet, ht, ha]

variable (ha : d.isActive = true)
include ha

theorem Dev.itemCommitSet_busy (hlock : d.draftLocked = true) (hact : ∃ g ∈ t.staged, g.op = 0x0603) :
    d.itemCommitSet x = d.ends St.busy := by
  have hany : t.staged.any (fun (g : Staged) => decide (g.op = 0x0603)) = true := by simpa using hact
  simp [Dev.itemCommitSet, ht, ha, hlock, hany]

theorem Dev.itemCommitSet_enters (h : (∀ g ∈ t.staged, g.op ≠ 0x0603) ∨ d.draftLocked = false) :
    d.itemCommitSet x =
      (({ d with cheda := { d.cheda with txn := some { t with commit := some x.item } } } : Dev).enqueue (some x.item) .commitSet noPar []
        none false).ends St.pending := by
  have hfree : (t.staged.any (fun (g : Staged) => decide (g.op = 0x0603)) && d.draftLocked) = false := by
    rcases h with h | h
    · rw [List.any_eq_false.mpr (by simpa using h), Bool.false_and]
    · rw [h, Bool.and_false]
  rw [Dev.itemCommitSet, ht]
  simp only [ha, hfree, Bool.not_true, Bool.false_eq_true, if_false]
end

/-! ## ABORT_SET and the idle transaction (R293) -/

theorem Dev.itemAbortSet_noSet (h : d.ownTxn x.slot = none) : d.itemAbortSet x = d.ends St.noSet := by
  simp only [Dev.itemAbortSet, h]

theorem Dev.itemAbortSet_ok (h : (d.ownTxn x.slot).isSome = true) : d.itemAbortSet x = (d.discardTxn St.aborted).ends St.ok := by
  obtain ⟨t, ht⟩ := Option.isSome_iff_exists.mp h
  simp only [Dev.itemAbortSet, ht]

section
variable (ht : d.cheda.txn = some t)
include ht

theorem Dev.txnIdle_due (hopen : t.commit = none)
    (hdue : d.before (t.lastTb + 1000000000 * max 1 (d.rd F.CHEDA_TMO.TXN_IDLE_S)) = true) :
    d.txnIdle = (d.wait (t.lastTb + 1000000000 * max 1 (d.rd F.CHEDA_TMO.TXN_IDLE_S))).discardTxn St.aborted := by
  simp only [Dev.txnIdle, ht, hopen, Option.isSome_none, Bool.false_eq_true, if_false, Dev.fire_of_before _ hdue]

theorem Dev.discardTxn_open (status : Nat) (hopen : t.commit = none) :
    d.discardTxn status = forEach t.staged (fun (g : Staged) (d : Dev) => d.finish g.item status [])
      ((({ d with cheda := { d.cheda with txn := none } }.setFlag F.CHEDA_STAT.TXN_OPEN false).wr F.CHEDA_STAT.TXN_SESSION 0).raise 0x2A 9
        t.slot t.staged.length) := by
  simp only [Dev.discardTxn, ht, hopen, Option.isSome_none, Bool.false_eq_true, if_false]

/-- A session with a transaction and no item held for its group closes: the transaction is discarded, then the slot is free. -/
theorem Dev.closeSession_txn (hheld : AMap.get d.cir.held t.slot [] = []) :
    d.closeSession t.slot =
      (let e := ({ d with cir := { d.cir with held := AMap.del d.cir.held t.slot } } : Dev).discardTxn St.aborted
       { e with cheda := { e.cheda with
         sessions := AMap.del e.cheda.sessions t.slot
         replies := e.cheda.replies.filter (fun (r : ReplyRec) => r.slot ≠ t.slot) } }.gcItems) := by
  simp only [Dev.closeSession, hheld, forEach, List.foldl_nil, ht, if_true]
end

/-! ## Staged items (R291, R316) -/

theorem Dev.stageStatus_draftActivate (ha : d.isActive = true) (hlock : d.draftLocked = false) : d.stageStatus x 0x0603 = St.ok := by
  simp [Dev.stageStatus, ha, hlock]

theorem Dev.stageStatus_gateListWrite (ha : d.isActive = true) (hg : (parseGates x.par).isSome = true) : d.stageStatus x 0x0800 = St.ok := by
  simp [Dev.stageStatus, ha, Option.isSome_iff_ne_none.mp hg]
end

/-- Settles O43: each row comes to its opcode's meaning, or is staged when its checks pass. -/
theorem setItemsAct : Obligations.SetItemsAct := by
  refine ⟨?beginBusy, ?beginOk, ?commitStandby, ?commit, ?commitBusy, ?activate, ?activateNoSet, ?gates, ?gatesNoSet⟩
  case beginBusy => exact itemEnds_of_runItem rowOf_beginSet (by decide) fun d x h => Dev.itemBegin_busy h
  case beginOk => exact itemEnds_of_runItem rowOf_beginSet (by decide) fun d x h => Dev.itemBegin_ok h
  case commitStandby =>
    refine itemEnds_of_runItem rowOf_commitSet (by decide) fun d x ⟨h, ha⟩ => ?_
    obtain ⟨t, ht⟩ := Option.isSome_iff_exists.mp h
    exact Dev.itemCommitSet_standby ht ha
  case commit => exact fun t => itemGoesOn_of_runItem rowOf_commitSet fun d x ⟨ht, ha, h⟩ => Dev.itemCommitSet_enters ht ha h
  case commitBusy =>
    exact itemEnds_of_runItem rowOf_commitSet (by decide) fun d x ⟨t, ht, ha, hlock, hact⟩ => Dev.itemCommitSet_busy ht ha hlock hact
  case activate =>
    exact itemStages_of_stageStatus rowOf_draftActivate (by decide) fun d x ⟨ha, hlock⟩ => Dev.stageStatus_draftActivate ha hlock
  case activateNoSet => exact itemEnds_of_runItem rowOf_draftActivate (by decide) fun d x _ => rfl
  case gates => exact itemStages_of_stageStatus rowOf_gateListWrite (by decide) fun d x ⟨ha, hg⟩ => Dev.stageStatus_gateListWrite ha hg
  case gatesNoSet => exact itemEnds_of_runItem rowOf_gateListWrite (by decide) fun d x _ => rfl

/-- Settles O44: ABORT_SET, a closed session and the idle timer each come to `Dev.discardTxn`; a session without an open transaction of its
own has none to abort or commit. -/
theorem abortIsR293 : Obligations.AbortIsR293 := by
  refine ⟨?discard, ?abort, ?close, ?idle, ?abortNoSet, ?commitNoSet⟩
  case discard =>
    rintro d e t ht hopen rfl
    exact Dev.discardTxn_open ht St.aborted hopen
  case abort => exact itemEnds_of_runItem rowOf_abortSet (by decide) fun d x h => Dev.itemAbortSet_ok h
  case close =>
    rintro d e slot t ht rfl hheld rfl
    exact Dev.closeSession_txn ht hheld
  case idle =>
    rintro s d t due rfl hruns ht hopen rfl hdue
    rw [exec_txnIdleTimeout hruns, Dev.txnIdle_due ht hopen hdue]
  case abortNoSet =>
    exact itemEnds_of_runItem rowOf_abortSet (by decide) fun d x h => Dev.itemAbortSet_noSet (Dev.ownTxn_eq_none h)
  case commitNoSet =>
    exact itemEnds_of_runItem rowOf_commitSet (by decide) fun d x h => Dev.itemCommitSet_noSet (Dev.ownTxn_eq_none h)

end Sys2Proof.Machine
end

