-- ==== Sys2Proof/Proofs/RegisterItems.lean ====
section
/-! PROOFS. Register items (R294) and a single register write (R7): what each answers by the checks of its addresses and of its words. -/

namespace Sys2Proof.Machine
open Sys2Proof

/-! ## The rows -/

theorem rowOf_regRead : RowOf .regRead 0x0100 := fun _ _ _ => rfl
theorem rowOf_regWrite : RowOf .regWrite 0x0101 := fun _ _ _ => rfl
theorem rowOf_regModify : RowOf .regModify 0x0102 := fun _ _ _ => rfl

theorem exec_registerWrite {s : State} (a v : Nat) (h : s.runs = true) : exec (.registerWrite a v) s = .next (s.put (s.dev.regCommand a v)) :=
  State.run_of_runs _ rfl h

section
variable {d : Dev} {x : ItemIn}

/-! ## REG_READ -/

theorem Dev.itemRegRead_ok (h : Dev.regStatus false x (beAt x.par 0 4) (beAt x.par 4 2) = St.ok) :
    d.itemRegRead x =
      (d.regReads (beAt x.par 0 4) (beAt x.par 4 2)).1.okWith (wordBytes (d.regReads (beAt x.par 0 4) (beAt x.par 4 2)).2) :=
  if_neg (not_not.mpr h)

theorem Dev.itemRegRead_refused {st : Nat} (hst : st ≠ St.ok) (h : Dev.regStatus false x (beAt x.par 0 4) (beAt x.par 4 2) = st) :
    d.itemRegRead x = d.ends st := by
  subst h
  exact if_pos hst

/-! ## REG_WRITE, REG_MODIFY -/

section
variable {op : Nat}

theorem Dev.itemRegWrite_refused {st : Nat} (hst : st ≠ St.ok)
    (h : Dev.regStatus true x (d.regItem op x.par).1 (d.regItem op x.par).2.length = st) : d.itemRegWrite x op = d.ends st := by
  subst h
  exact if_pos hst

variable (hgood : Dev.regStatus true x (d.regItem op x.par).1 (d.regItem op x.par).2.length = St.ok)
include hgood

theorem Dev.itemRegWrite_staged (h : d.stagedAddr op x.par = true) : d.itemRegWrite x op = d.ends St.busy :=
  (if_neg (not_not.mpr hgood)).trans (if_pos h)

variable (hfree : d.stagedAddr op x.par = false)
include hfree

theorem Dev.itemRegWrite_written {e : Dev} {mir : List Nat}
    (h : d.regWrites (d.regItem op x.par).1 0 (d.regItem op x.par).2 [] = .ok (e, mir)) :
    d.itemRegWrite x op =
      ((e.mirrorConfig (e.regRecs mir) (some x.item)).finishAcked x.item St.ok
        (if op = 0x0102 then beBytes 4 (d.regVal (d.regItem op x.par).1) else [])).ends St.pending := by
  simp only [Dev.itemRegWrite, hgood, hfree, h, ne_eq, not_true, Bool.false_eq_true, if_false]

theorem Dev.itemRegWrite_error {st i : Nat}
    (h : d.regWrites (d.regItem op x.par).1 0 (d.regItem op x.par).2 [] = .error (st, i)) :
    d.itemRegWrite x op =
      (d.regRejected ((d.regItem op x.par).1 + 4 * i) ((d.regItem op x.par).2.getD i 0) st, st, regRefused op i) := by
  simp only [Dev.itemRegWrite, hgood, hfree, h, ne_eq, not_true, Bool.false_eq_true, if_false]
end

/-! ## A single write (R7) -/

section
variable {e : Dev} {a v : Nat}

theorem Dev.regCommand_taken (h : d.regWrite a v = (e, St.ok)) :
    d.regCommand a v = e.mirrorConfig (if d.regMirrored a || e.regMirrored a then [(a, MirBody.reg (e.mirVal a))] else []) none := by
  rw [Dev.regCommand, Dev.regWrites, h]
  cases d.regMirrored a || e.regMirrored a with
  | false => simp [Dev.regWrites, Dev.regRecs]
  | true => simp [Dev.regWrites, Dev.regRecs]
end
end

/-- Settles O45: each row comes to its opcode's meaning, and each clause is one case of it; a single write is a sequence of one word. -/
theorem registerItemsAct : Obligations.RegisterItemsAct := by
  refine ⟨?read, ?readRefused, ?write, ?writeError, ?modify, ?modifyError, ?refused, fun _ _ => rfl, ?single, ?singleRefused⟩
  case read => exact itemEnds_of_runItem rowOf_regRead (by decide) fun d x h => Dev.itemRegRead_ok h
  case readRefused => exact fun st hok hpend => itemEnds_of_runItem rowOf_regRead hpend fun d x h => Dev.itemRegRead_refused hok h
  case write =>
    exact fun e mir => itemGoesOn_of_runItem rowOf_regWrite fun d x ⟨hgood, hfree, h⟩ => Dev.itemRegWrite_written hgood hfree h
  case writeError =>
    exact fun st i hpend => itemEnds_of_runItem rowOf_regWrite hpend fun d x ⟨hgood, hfree, h⟩ => Dev.itemRegWrite_error hgood hfree h
  case modify =>
    exact fun e mir => itemGoesOn_of_runItem rowOf_regModify fun d x ⟨hgood, hfree, h⟩ => Dev.itemRegWrite_written hgood hfree h
  case modifyError =>
    exact fun st i hpend => itemEnds_of_runItem rowOf_regModify hpend fun d x ⟨hgood, hfree, h⟩ => Dev.itemRegWrite_error hgood hfree h
  case refused =>
    rintro row op (⟨rfl, rfl⟩ | ⟨rfl, rfl⟩)
    · exact ⟨fun st hok hpend => itemEnds_of_runItem rowOf_regWrite hpend fun d x h => Dev.itemRegWrite_refused hok h,
        itemEnds_of_runItem rowOf_regWrite (by decide) fun d x ⟨hgood, h⟩ => Dev.itemRegWrite_staged hgood h⟩
    · exact ⟨fun st hok hpend => itemEnds_of_runItem rowOf_regModify hpend fun d x h => Dev.itemRegWrite_refused hok h,
        itemEnds_of_runItem rowOf_regModify (by decide) fun d x ⟨hgood, h⟩ => Dev.itemRegWrite_staged hgood h⟩
  case single =>
    rintro s d e a v rfl hruns h
    rw [exec_registerWrite a v hruns, Dev.regCommand_taken h]
  case singleRefused =>
    rintro s d e a v st rfl hruns h hst
    rw [exec_registerWrite a v hruns, Dev.regCommand_refused _ a v (by rw [h]; exact hst), h]

end Sys2Proof.Machine
end

