-- ==== Sys2Proof/Proofs/Packets.lean ====
section
/-! PROOFS. Packets, replies and completions: the frame at the head of the queues (R276, R278), the reply and when it leaves (R288), what a
completion tells (R288). -/

namespace Sys2Proof.Machine
open Sys2Proof

/-! ## The commands -/

theorem exec_chedaPacket {s : State} (h : s.runs = true) : exec .chedaPacket s = .next (s.put s.dev.chedaPacket) :=
  State.run_of_runs _ rfl h

theorem exec_replySend {s : State} {slot : Nat} (seq : Nat) (h : s.runs = true) (hs : slot < 17) :
    exec (.replySend slot seq) s = .next (s.put (s.dev.replySend slot seq)) :=
  State.run_of_runs _ (decide_eq_true hs) h

theorem exec_completionSend {s : State} {slot : Nat} (seq : Nat) (h : s.runs = true) (hs : slot < 17) :
    exec (.completionSend slot seq) s = .next (s.put (s.dev.completionSend slot seq)) :=
  State.run_of_runs _ (decide_eq_true hs) h

section
variable {d : Dev}

/-! ## The head of the first occupied queue (R276) -/

theorem Dev.chedaPacket_empty (h : ∀ i < 7, d.rxq (i + 1) = []) : d.chedaPacket = d := by
  have hnone : (List.range 7).find? (fun i => !(d.rxq (i + 1)).isEmpty) = none :=
    List.find?_eq_none.mpr fun i hi => by simp [h i (List.mem_range.mp hi)]
  simp only [Dev.chedaPacket, hnone, ite_self]

section
variable {i : Nat} {r : Dev × Option RxFrame} {f : RxFrame} (hrun : d.coresRun = true)
  (hi : (List.range 7).find? (fun i => !(d.rxq (i + 1)).isEmpty) = some i) (hr : r = d.rxPop (i + 1)) (hf : r.2 = some f)
include hrun hi hr hf

theorem Dev.chedaPacket_packet {a : Addr} {bs : List Byte} (h : r.1.carried f = .packet a bs) :
    d.chedaPacket = r.1.chedaBytes a f.ts bs := by
  subst hr
  simp only [Dev.chedaPacket, hrun, Bool.not_true, Bool.false_eq_true, if_false, hi, hf, h]

theorem Dev.chedaPacket_badDst (h : r.1.carried f = .badDst) : d.chedaPacket = r.1.bump F.CHEDA_CNT_D.BAD_DST 1 := by
  subst hr
  simp only [Dev.chedaPacket, hrun, Bool.not_true, Bool.false_eq_true, if_false, hi, hf, h]

theorem Dev.chedaPacket_other (h : r.1.carried f = .other) : d.chedaPacket = if i = 0 then r.1.assist f else r.1 := by
  subst hr
  simp only [Dev.chedaPacket, hrun, Bool.not_true, Bool.false_eq_true, if_false, hi, hf, h]
end

/-! ## Replies (R288) -/

section
variable {slot seq : Nat} {r : ReplyRec}

section
variable (hr : d.cheda.replies.find? (fun (r : ReplyRec) => r.slot = slot && r.seq = seq && !r.sent) = some r)
include hr

theorem Dev.replySend_final (h : ∀ i ∈ d.replyItems r, i.fin.isSome = true) : d.replySend slot seq = (d.sendReply r).afterReply r := by
  have hdone : d.replyDone r = true := List.all_eq_true.mpr h
  simp only [Dev.replySend, hr, hdone, if_true]

theorem Dev.replySend_due (h : ∃ i ∈ d.replyItems r, i.fin = none)
    (hdue : d.before (r.lastTb + 10000 * max 1 (d.rd F.CHEDA_CFG.REPLY_WAIT)) = true) :
    d.replySend slot seq =
      (let e := d.wait (r.lastTb + 10000 * max 1 (d.rd F.CHEDA_CFG.REPLY_WAIT))
       (e.sendReply r).afterReply r) := by
  have hdone : d.replyDone r = false := by
    obtain ⟨i, hi, hfin⟩ := h
    exact List.all_eq_false.mpr ⟨i, hi, by simp [hfin]⟩
  simp only [Dev.replySend, hr, hdone, Bool.false_eq_true, if_false, Dev.fire_of_before _ hdue]
end

/-! ## Completions (R288) -/

theorem Dev.completionSend_new {ss : Session} {new : List ItemRec}
    (hr : d.cheda.replies.find? (fun (r : ReplyRec) => r.slot = slot && r.seq = seq && r.sent) = some r) (hss : d.session slot = some ss)
    (hnew : new = (d.replyItems r).filter (fun (i : ItemRec) => i.fin.isSome && !i.told)) (hne : new ≠ []) :
    d.completionSend slot seq =
      ((forEach (splitParts (fun (i : ItemRec) => i.entry.length) (d.roomOf ss.addr 2 - 28) new) (fun (p : List ItemRec) (d : Dev) =>
        (((d.sendCheda ss.addr 2 0 (d.packet 2 slot p.length seq 0 1 (p.flatMap ItemRec.entry)) (p.any d.itemResets) none).1).bumpWrap
          F.CHEDA_CNT_E.COMPLETIONS 1).count 0x65) d).tell (new.map (fun (i : ItemRec) => i.id))).gcItems := by
  have hsome : new.isEmpty = false := by simpa using hne
  simp only [Dev.completionSend, hr, hss, ← hnew, hsome, Bool.false_eq_true, if_false]
end
end

/-- Settles O40: the head frame goes by what it carries; a reply leaves when its items are final or its time has come; a completion tells the
items that have become final. -/
theorem packetsAct : Obligations.PacketsAct := by
  refine ⟨?frame, ?none, ?reply, ?completion⟩
  case frame =>
    rintro s d i r f rfl hruns hrun hi hr hf
    rw [exec_chedaPacket hruns]
    refine ⟨fun a bs h => ?packet, fun h => ?badDst, fun h h0 => ?assist, fun h h0 => ?dropped⟩
    case packet => rw [Dev.chedaPacket_packet hrun hi hr hf h]
    case badDst => rw [Dev.chedaPacket_badDst hrun hi hr hf h]
    case assist => rw [Dev.chedaPacket_other hrun hi hr hf h, if_pos h0]
    case dropped => rw [Dev.chedaPacket_other hrun hi hr hf h, if_neg h0]
  case none =>
    intro s hruns h
    rw [exec_chedaPacket hruns, Dev.chedaPacket_empty h, State.put_dev]
  case reply =>
    rintro s d slot seq r rfl hruns hslot hr
    rw [exec_replySend seq hruns hslot]
    refine ⟨fun h => ?final, ?due⟩
    case final => rw [Dev.replySend_final hr h]
    case due =>
      rintro h hdue e rfl
      rw [Dev.replySend_due hr h hdue]
  case completion =>
    rintro s d slot seq r ss new rfl hruns hslot hr hss hnew hne e rfl
    rw [exec_completionSend seq hruns hslot, Dev.completionSend_new hr hss hnew hne]

end Sys2Proof.Machine
end

