-- ==== Sys2Proof/Proofs/Sessions.lean ====
section
/-! PROOFS. Sessions: SESSION_OPEN and SESSION_PROVE (R283), and the timers of sessions and keys (R283, R285). -/

namespace Sys2Proof.Machine
open Sys2Proof

/-! ## The commands -/

theorem exec_sessionOpen {s : State} (src : ItemSrc) (par : List Byte) (h : s.runs = true) :
    exec (.sessionOpen src par) s = .next (s.put (s.dev.itemRow src 0x0001 par)) :=
  State.run_of_runs _ rfl h

theorem exec_sessionProve {s : State} (src : ItemSrc) (par : List Byte) (h : s.runs = true) :
    exec (.sessionProve src par) s = .next (s.put (s.dev.itemRow src 0x0002 par)) :=
  State.run_of_runs _ rfl h

theorem exec_sessionProveTimeout {s : State} {slot : Nat} (h : s.runs = true) (hs : slot < 17) :
    exec (.sessionProveTimeout slot) s = .next (s.put (s.dev.proveTimeout slot)) :=
  State.run_of_runs _ (decide_eq_true hs) h

theorem exec_sessionIdleTimeout {s : State} {slot : Nat} (h : s.runs = true) (hs : slot < 17) :
    exec (.sessionIdleTimeout slot) s = .next (s.put (s.dev.sessionIdle slot)) :=
  State.run_of_runs _ (decide_eq_true hs) h

theorem exec_keyLockoutExpiry {s : State} (key : Nat) (h : s.runs = true) :
    exec (.keyLockoutExpiry key) s = .next (s.put (s.dev.keyLockout key)) :=
  State.run_of_runs _ rfl h

/-! ## An item of session 0 -/

section
variable {d : Dev} {src : ItemSrc} {par : List Byte}

/-- The device when the packet of session 0 has opened its reply. -/
def Dev.replyOpened (d : Dev) (src : ItemSrc) : Dev := (d.openReply 0 src.seq src.addr).count 0x60

/-- The device when the item of that packet has been numbered and entered in the ledger. -/
def Dev.openingBegun (d : Dev) (src : ItemSrc) (op host : Nat) : Dev := ((d.replyOpened src).newItem src op host).1

/-- The item under way. -/
def Dev.openingOf (d : Dev) (src : ItemSrc) (par : List Byte) : ItemIn :=
  { item := (d.replyOpened src).cheda.nextItem, slot := 0, priv := 0, ctrRead := false, src := src, par := par }

theorem Dev.newItem_snd (d : Dev) (src : ItemSrc) (op host : Nat) : (d.newItem src op host).2 = d.cheda.nextItem := rfl

theorem Dev.takeOpening_open (hform : formatGood 0x0001 par = true) :
    (d.replyOpened src).takeOpening src 0x0001 par =
      (Dev.settleItem (d.openingBegun src 0x0001 (beAt par 2 2)) (d.openingOf src par)
        ((d.openingBegun src 0x0001 (beAt par 2 2)).sessionOpen src.addr par), (d.openingOf src par).item) := by
  simp only [Dev.takeOpening, hform, Dev.newItem_snd, Dev.openingBegun, Dev.openingOf, Bool.not_true, Bool.false_eq_true, if_false, if_true]

theorem Dev.takeOpening_prove {ss : Session} (hform : formatGood 0x0002 par = true)
    (hss : (d.replyOpened src).session (beAt par 0 1) = some ss) :
    (d.replyOpened src).takeOpening src 0x0002 par =
      (Dev.settleItem (d.openingBegun src 0x0002 ss.hostId) (d.openingOf src par)
        ((d.openingBegun src 0x0002 ss.hostId).sessionProve src.addr par), (d.openingOf src par).item) := by
  simp [Dev.takeOpening, hform, hss, Dev.newItem_snd, Dev.openingBegun, Dev.openingOf]

/-- A packet of session 0 with an opening opcode: its reply is opened, its one item taken. -/
theorem Dev.itemRow_opening {op : Nat} (hrun : d.coresRun = true) (hslot : src.slot = 0) (hop : op = 0x0001 ∨ op = 0x0002) :
    d.itemRow src op par =
      ((d.replyOpened src).takeOpening src op par).1.replyAdd 0 src.seq ((d.replyOpened src).takeOpening src op par).2 := by
  have hop : (decide (op = 0x0001) || decide (op = 0x0002)) = true := by simpa using hop
  simp only [Dev.itemRow, hrun, hslot, hop, Dev.openingItem, Dev.replyOpened, Bool.not_true, Bool.false_eq_true, if_false, if_true]

/-! ## SESSION_OPEN (R283) -/

section
variable {a : Addr}

theorem Dev.sessionOpen_keyUnknown (h : AMap.find d.nv.keys (beAt par 0 1) = none) : d.sessionOpen a par = (d, St.keyUnknown, []) := by
  simp only [Dev.sessionOpen, h]

variable {k : KeyRec} (hk : AMap.find d.nv.keys (beAt par 0 1) = some k)
include hk

theorem Dev.sessionOpen_denied (h : k.maxPriv < beAt par 1 1 % 4) : d.sessionOpen a par = (d, St.privDenied, []) := by
  simp only [Dev.sessionOpen, hk, h, if_true]

variable (hpriv : beAt par 1 1 % 4 ≤ k.maxPriv)
include hpriv

theorem Dev.sessionOpen_locked (h : (AMap.find d.cheda.locked (beAt par 0 1)).isSome = true) :
    d.sessionOpen a par = (d, St.keyLocked, []) := by
  simp only [Dev.sessionOpen, hk, if_neg (Nat.not_lt.mpr hpriv), h, if_true]

variable (hlock : AMap.find d.cheda.locked (beAt par 0 1) = none)
include hlock

theorem Dev.sessionOpen_full (h : (List.range 16).find? (fun i => (d.session (i + 1)).isNone) = none) :
    d.sessionOpen a par = (d.raise 0x2A 4 (beAt par 2 2) 16, St.sessionFull, []) := by
  simp only [Dev.sessionOpen, hk, if_neg (Nat.not_lt.mpr hpriv), hlock, Option.isSome_none, Bool.false_eq_true, if_false, h]

variable {i : Nat} (hi : (List.range 16).find? (fun i => (d.session (i + 1)).isNone) = some i)
include hi

theorem Dev.sessionOpen_busy (hhost : (d.sessionOfHost (beAt par 2 2)).isSome = true) (htake : bit (beAt par 1 1) 7 = false) :
    d.sessionOpen a par = (d, St.hostIdBusy, []) := by
  simp only [Dev.sessionOpen, hk, if_neg (Nat.not_lt.mpr hpriv), hlock, Option.isSome_none, Bool.false_eq_true, if_false, hi, hhost, htake,
    Bool.not_false, Bool.and_self, if_true]

theorem Dev.sessionOpen_ok {r : List Byte × Dev} {ss : Session} (h : d.sessionOfHost (beAt par 2 2) = none ∨ bit (beAt par 1 1) 7 = true)
    (hr : r = d.drawBytes 16)
    (hss : ss = {
      opening := true, closing := false, keyId := beAt par 0 1, priv := beAt par 1 1 % 4, ctrRead := bit k.perm 0,
      hostId := beAt par 2 2, takeover := bit (beAt par 1 1) 7, hostNonce := (par.drop 4).take 16, devNonce := r.1, sk := [],
      openTb := r.2.time.tb, lastTb := r.2.time.tb, addr := a, hs := none, acc := [], minSev := 5, evSeq := 1, shed := {} }) :
    d.sessionOpen a par =
      (r.2.putSession (i + 1) ss, St.ok, beBytes 1 (i + 1) ++ zeros 3 ++ r.1 ++ beBytes 8 r.2.nv.serial) := by
  have hfree : ((d.sessionOfHost (beAt par 2 2)).isSome && !bit (beAt par 1 1) 7) = false := by rcases h with h | h <;> simp [h]
  simp only [Dev.sessionOpen, hk, if_neg (Nat.not_lt.mpr hpriv), hlock, Option.isSome_none, Bool.false_eq_true, if_false, hi, hfree, hr, hss]
end

/-! ## SESSION_PROVE (R283) -/

section
variable {a : Addr} {ss : Session} (hss : d.session (beAt par 0 1) = some ss) (hopening : ss.opening = true)
include hss hopening

theorem Dev.sessionProve_failed (h : (par.drop 4).take 32 ≠ d.hostProof (beAt par 0 1) ss) :
    d.sessionProve a par = ((d.closeSession (beAt par 0 1)).proofFailed ss.keyId, St.proofFailed, []) := by
  simp [Dev.sessionProve, hss, hopening, h]

theorem Dev.sessionProve_ok {k proof sk : List Byte} (h : (par.drop 4).take 32 = d.hostProof (beAt par 0 1) ss)
    (hhost : d.sessionOfHost ss.hostId = none)
    (hk : k = ((AMap.find d.nv.keys ss.keyId).map (fun (k : KeyRec) => k.key)).getD [])
    (hsk : sk = hmac256 k (ascii ['C', 'H', 'E', 'D', 'A', '-', 'S', 'E', 'S', 'S', 'I', 'O', 'N'] ++ ss.hostNonce ++ ss.devNonce ++
      beBytes 1 (beAt par 0 1)))
    (hproof : proof = hmac256 k (ascii ['C', 'H', 'E', 'D', 'A', '-', 'D', 'E', 'V', 'I', 'C', 'E'] ++ ss.devNonce ++ ss.hostNonce ++
      beBytes 1 (beAt par 0 1))) :
    d.sessionProve a par =
      (d.putSession (beAt par 0 1) { ss with opening := false, sk := sk, addr := a, lastTb := d.time.tb }, St.ok, proof) := by
  subst hk hsk hproof
  simp only [Dev.sessionProve, hss, hopening, h, hhost, Bool.not_true, Bool.false_eq_true, ne_eq, not_true, if_false]
end

/-! ## Timers (R283, R285) -/

section
variable {slot : Nat} {ss : Session} (hss : d.session slot = some ss)
include hss

theorem Dev.proveTimeout_due (hopening : ss.opening = true) (hdue : d.before (ss.openTb + 1000000000) = true) :
    d.proveTimeout slot =
      (((d.wait (ss.openTb + 1000000000)).closeSession slot).bump F.CHEDA_CNT_D.PROOF_FAIL 1).raise 0x2A 1 ss.keyId 2 := by
  simp only [Dev.proveTimeout, hss, hopening, Bool.not_true, Bool.false_eq_true, if_false, Dev.fire_of_before _ hdue]

theorem Dev.sessionIdle_due (hopening : ss.opening = false)
    (hdue : d.before (ss.lastTb + 1000000000 * max 1 (d.rd F.CHEDA_TMO.IDLE_S)) = true) :
    d.sessionIdle slot = (d.wait (ss.lastTb + 1000000000 * max 1 (d.rd F.CHEDA_TMO.IDLE_S))).closeSession slot := by
  simp only [Dev.sessionIdle, hss, hopening, Bool.false_eq_true, if_false, Dev.fire_of_before _ hdue]
end

theorem Dev.keyLockout_due {key t : Nat} (ht : AMap.find d.cheda.locked key = some t) (hdue : d.before (t + 60000000000) = true) :
    d.keyLockout key =
      (let e := d.wait (t + 60000000000)
       { e with cheda := { e.cheda with locked := AMap.del e.cheda.locked key } }) := by
  simp only [Dev.keyLockout, ht, Dev.fire_of_before _ hdue]
end

/-- Settles O41: each item of session 0 comes to its meaning, whose first failing check refuses it; the timers act when they are due. -/
theorem sessionsAct : Obligations.SessionsAct := by
  refine ⟨?opens, ?proves, ?timers, ?lockout⟩
  case opens =>
    intro s src par hruns hrun hslot hform host e b x hfits
    have hb : b = s.dev.openingBegun src 0x0001 host := rfl
    have hx : x = s.dev.openingOf src par := rfl
    have hrow : exec (.sessionOpen src par) s =
        .next (s.put ((Dev.settleItem b x (b.sessionOpen src.addr par)).replyAdd 0 src.seq x.item)) := by
      rw [exec_sessionOpen src par hruns, Dev.itemRow_opening hrun hslot (.inl rfl), Dev.takeOpening_open hform, hb, hx]
    rw [hrow]
    refine ⟨fun hkey => ?unknown, fun k hk => ⟨fun hpriv => ?denied, fun hpriv hlock => ?locked, fun hpriv hlock =>
      ⟨fun hi => ?full, fun i hi => ⟨fun hhost htake => ?busy, fun h r ss hr hss hfit => ?ok⟩⟩⟩⟩
    case unknown => rw [Dev.sessionOpen_keyUnknown hkey, Dev.settle_ends _ _ _ _ _ (by decide) hfits]
    case denied => rw [Dev.sessionOpen_denied hk hpriv, Dev.settle_ends _ _ _ _ _ (by decide) hfits]
    case locked => rw [Dev.sessionOpen_locked hk hpriv hlock, Dev.settle_ends _ _ _ _ _ (by decide) hfits]
    case full => rw [Dev.sessionOpen_full hk hpriv hlock hi, Dev.settle_ends _ _ _ _ _ (by decide) hfits]
    case busy => rw [Dev.sessionOpen_busy hk hpriv hlock hi hhost htake, Dev.settle_ends _ _ _ _ _ (by decide) hfits]
    case ok => rw [Dev.sessionOpen_ok hk hpriv hlock hi h hr hss, Dev.settle_ends _ _ _ _ _ (by decide) hfit]
  case proves =>
    intro s src par ss hruns hrun hslot hform e b x he hb hopening
    have hb' : b = s.dev.openingBegun src 0x0002 ss.hostId := rfl
    have hx : x = s.dev.openingOf src par := rfl
    have hrow : exec (.sessionProve src par) s =
        .next (s.put ((Dev.settleItem b x (b.sessionProve src.addr par)).replyAdd 0 src.seq x.item)) := by
      rw [exec_sessionProve src par hruns, Dev.itemRow_opening hrun hslot (.inr rfl), Dev.takeOpening_prove hform he, hb', hx]
    rw [hrow]
    refine ⟨fun hproof hfits => ?failed, fun hproof hhost k proof sk hk hsk hdev hfits => ?ok⟩
    case failed => rw [Dev.sessionProve_failed hb hopening hproof, Dev.settle_ends _ _ _ _ _ (by decide) hfits]
    case ok => rw [Dev.sessionProve_ok hb hopening hproof hhost hk hsk hdev, Dev.settle_ends _ _ _ _ _ (by decide) hfits]
  case timers =>
    rintro s d slot ss rfl hruns hslot hss
    refine ⟨fun hopening hdue => ?prove, fun hopening hdue => ?idle⟩
    case prove => rw [exec_sessionProveTimeout hruns hslot, Dev.proveTimeout_due hss hopening hdue]
    case idle => rw [exec_sessionIdleTimeout hruns hslot, Dev.sessionIdle_due hss hopening hdue]
  case lockout =>
    rintro s d e key t rfl hruns ht hdue rfl
    rw [exec_keyLockoutExpiry key hruns, Dev.keyLockout_due ht hdue]

end Sys2Proof.Machine
end

