-- ==== Sys2Proof/Proofs/TimeReference.lean ====
section
/-! PROOFS. The reference and REFCLK (R325, R447), PTP messages, PPS edges and the servo's holdover (R326, R327, R329). -/

namespace Sys2Proof.Machine
open Sys2Proof

/-! ## The commands -/

section
variable {s : State} (h : s.runs = true)
include h

theorem exec_refLoss : exec .refLoss s = .next (s.put s.dev.refLoss) := State.run_of_runs _ rfl h
theorem exec_refReturn : exec .refReturn s = .next (s.put s.dev.refReturn) := State.run_of_runs _ rfl h
theorem exec_refclkLoss : exec .refclkLoss s = .next (s.put s.dev.refclkGone) := State.run_of_runs _ rfl h
theorem exec_refclkReturn : exec .refclkReturn s = .next (s.put s.dev.refclkReturn) := State.run_of_runs _ rfl h
theorem exec_ptpMessage : exec .ptpMessage s = .next (s.put s.dev.ptpMessage) := State.run_of_runs _ rfl h
theorem exec_ppsEdge (delay : Nat) : exec (.ppsEdge delay) s = .next (s.put (s.dev.ppsEdge delay)) := State.run_of_runs _ rfl h
theorem exec_servoHoldover : exec .servoHoldover s = .next (s.put s.dev.servoHoldover) := State.run_of_runs _ rfl h

theorem exec_ptpMasterSend {kind : Nat} (hk : kind < 16) : exec (.ptpMasterSend kind) s = .next (s.put (s.dev.ptpMasterSend kind)) :=
  State.run_of_runs _ (decide_eq_true hk) h
end

section
variable {d : Dev}

/-! ## The reference (R325) -/

/-- The device when TB_10M_IN is no longer good. -/
def Dev.refBad (d : Dev) : Dev := { d with time := { d.time with refOkSince := none } }

theorem Dev.refLoss_reported (h : d.flag F.TIME_STAT.REF = false) :
    d.refLoss = (d.refBad.setFlag F.TIME_STAT.REF true).timeEv 1 1 0 :=
  if_neg (ne_true_of_eq_false h)

theorem Dev.refLoss_again (h : d.flag F.TIME_STAT.REF = true) : d.refLoss = d.refBad := if_pos h

theorem Dev.refReturn_timed (h : d.flag F.TIME_STAT.REF = true) (hok : d.time.refOkSince = none) :
    d.refReturn = { d with time := { d.time with refOkSince := some d.time.tb } } :=
  if_neg (by simp [h, hok])

theorem Dev.refReturn_idle (h : d.flag F.TIME_STAT.REF = false ∨ d.time.refOkSince.isSome = true) : d.refReturn = d :=
  if_pos (by simpa using h)

/-! ## REFCLK (R447) -/

/-- The device when REFCLK is lost, reported, and the Weft links are down. -/
def Dev.refclkOff (d : Dev) : Dev :=
  forEach (List.range 16) (fun t (d : Dev) => d.linkDown t) (({ d with time := { d.time with refclk := false } }).raise 0x00 2 0 0)

theorem Dev.refclkLoss_reported (h : d.time.refclk = true) :
    d.refclkLoss = forEach [0, 1, 2] (fun p (d : Dev) =>
      if d.flag (F.MAC_STAT.LINK p) then (d.macDrop p).ptpFallback p else d.macDrop p) d.refclkOff :=
  if_neg (by simp [h])

theorem Dev.refclkLoss_again (h : d.time.refclk = false) : d.refclkLoss = d := if_pos (by simp [h])

theorem Dev.refclkGone_pLost (h : (d.flag (F.MAC_STAT.LINK 2) && !d.refclkLoss.flag (F.MAC_STAT.LINK 2)) = true) :
    d.refclkGone = d.refclkLoss.pLostNow :=
  if_pos h

theorem Dev.refclkGone_pKept (h : (d.flag (F.MAC_STAT.LINK 2) && !d.refclkLoss.flag (F.MAC_STAT.LINK 2)) = false) :
    d.refclkGone = d.refclkLoss :=
  if_neg (ne_true_of_eq_false h)

theorem Dev.refclkGone_again (h : d.time.refclk = false) : d.refclkGone = d := by
  rw [Dev.refclkGone_pKept, Dev.refclkLoss_again h]
  rw [Dev.refclkLoss_again h, Bool.and_not_self]

theorem Dev.refclkReturn_again (h : d.time.refclk = true) : d.refclkReturn = d := if_pos h

theorem Dev.refclkReturn_retrains {e : Dev} (h : d.time.refclk = false) (he : e = { d with time := { d.time with refclk := true } }) :
    d.refclkReturn = forEach e.draftTiles (fun t (d : Dev) => if d.linkUp t then d else d.retrainStart t) e := by
  rw [he]
  exact if_neg (ne_true_of_eq_false h)

/-! ## PTP messages (R329) -/

section
variable {f : RxFrame} (hf : (d.rxPop 0).2 = some f)
include hf

theorem Dev.ptpMessage_notPtp (h : ptpPart (beBytes 2 (parseEth f.bytes).etype ++ (parseEth f.bytes).body) = none) :
    d.ptpMessage = (d.rxPop 0).1.ptpIgnore := by
  simp only [Dev.ptpMessage, hf, h]

variable {m : List Byte} (hm : ptpPart (beBytes 2 (parseEth f.bytes).etype ++ (parseEth f.bytes).body) = some m)
include hm

theorem Dev.ptpMessage_taken (h : f.port = (d.rxPop 0).1.ptpPort) : d.ptpMessage = (d.rxPop 0).1.ptpTake m f.ts := by
  simp only [Dev.ptpMessage, hf, hm, h, ne_eq, not_true, if_false]

theorem Dev.ptpMessage_otherPort (h : f.port ≠ (d.rxPop 0).1.ptpPort) : d.ptpMessage = (d.rxPop 0).1 := by
  simp only [Dev.ptpMessage, hf, hm, if_pos h]
end

/-! ## PPS edges (R326) -/

/-- An accepted edge is time-stamped. -/
def Dev.ppsStamp (d : Dev) : Dev :=
  (({ d with time := { d.time with lastPps := d.time.tb, ppsTb := some d.time.tb } }).wr F.PPS_TS_LO.VAL d.ptpNow).wr F.PPS_TS_HI.VAL
    (d.ptpNow / 2 ^ 32)

/-- The device at an edge `delay` ns from now. -/
def Dev.atEdge (d : Dev) (delay : Nat) : Dev := (d.wait (d.time.tb + delay)).tick 16

/-- The offset of an edge at a PTP time from the nearest second, as PPS_OFS_NS shifts it. -/
def Dev.ppsOffset (d : Dev) (ts : Nat) : Int :=
  ((ts : Int) - clampI (-499999999) 499999999 (d.rdS F.PPS_CFG.PPS_OFS_NS)) % 1000000000

section
variable {delay : Nat} (hdue : d.before (d.time.tb + delay) = true)
include hdue

theorem Dev.ppsEdge_tooSoon {t : Nat} (ht : (d.atEdge delay).time.ppsTb = some t) (h : (d.atEdge delay).time.tb < t + 500000000) :
    d.ppsEdge delay = d.atEdge delay := by
  have hany : ((d.atEdge delay).time.ppsTb.any (fun t => decide ((d.atEdge delay).time.tb < t + 500000000))) = true := by
    rw [ht, Option.any_some]
    exact decide_eq_true h
  rw [Dev.ppsEdge, Dev.fire_of_before _ hdue]
  exact if_pos hany

theorem Dev.ppsEdge_accepted (h : ∀ t, (d.atEdge delay).time.ppsTb = some t → t + 500000000 ≤ (d.atEdge delay).time.tb) :
    d.ppsEdge delay =
      (if (d.atEdge delay).ppsStamp.rd F.TIME_CFG.SRC ≠ 2 then (d.atEdge delay).ppsStamp
       else
         let r := (d.atEdge delay).ppsStamp.ppsOffset (d.atEdge delay).ptpNow
         (d.atEdge delay).ppsStamp.measure (if r ≤ 500000000 then r else r - 1000000000)) := by
  have hany : ((d.atEdge delay).time.ppsTb.any (fun t => decide ((d.atEdge delay).time.tb < t + 500000000))) = false := by
    simpa [Option.any_eq_false] using h
  rw [Dev.ppsEdge, Dev.fire_of_before _ hdue]
  exact if_neg (ne_true_of_eq_false hany)
end

/-! ## The servo's holdover (R327) -/

theorem Dev.servoHoldover_notLocked (h : d.rd F.TIME_STAT.SERVO ≠ 2) : d.servoHoldover = d := if_pos h

section
variable (h : d.rd F.TIME_STAT.SERVO = 2)
include h

theorem Dev.servoHoldover_sync (hsrc : d.rd F.TIME_CFG.SRC = 1) (hdue : d.before (d.time.lastSync + 3 * d.announceNs) = true) :
    d.servoHoldover = (d.wait (d.time.lastSync + 3 * d.announceNs)).servoHold := by
  rw [Dev.servoHoldover, if_neg (not_not_intro h), if_pos hsrc, Dev.fire_of_before _ hdue]

theorem Dev.servoHoldover_pps (hsrc : d.rd F.TIME_CFG.SRC ≠ 1) (hdue : d.before (d.time.lastPps + 3000000000) = true) :
    d.servoHoldover = ((d.wait (d.time.lastPps + 3000000000)).timeEv 6 0 0).servoHold := by
  rw [Dev.servoHoldover, if_neg (not_not_intro h), if_neg hsrc, Dev.fire_of_before _ hdue]
end

/-! ## The clock's own messages (R329) -/

/-- The body of an Announce, after the header. -/
def Dev.announceBody (d : Dev) : List Byte :=
  zeros 10 ++ beBytes 2 (d.rd F.TIME_STAT.UTC_OFFSET) ++ [0] ++ beBytes 1 (d.ownRank.getD 0 0) ++ beBytes 1 248 ++ beBytes 1 0xFE ++
    beBytes 2 0xFFFF ++ beBytes 1 (d.ownRank.getD 4 0) ++ beBytes 8 (d.ptpIdentity / 65536) ++ beBytes 2 0 ++ [0xA0]

section
variable {seq : Nat} {e : Dev}

theorem Dev.ptpMasterSend_announce (h : d.rd F.TIME_STAT.PORT_STATE = 6) (hseq : seq = (d.time.seqAnn + 1) % 65536)
    (he : e = { d with time := { d.time with seqAnn := seq } }) :
    d.ptpMasterSend 0 = e.ptpSend (e.ptpMsg 11 0x0008 seq (min 3 (e.rd F.PTP_PRIO.LOG_ANNOUNCE) : Nat) e.announceBody) := by
  subst he hseq
  exact if_neg (not_not_intro h)

theorem Dev.ptpMasterSend_sync (h : d.rd F.TIME_STAT.PORT_STATE = 6) (hseq : seq = (d.time.seqSync + 1) % 65536)
    (he : e = { d with time := { d.time with seqSync := seq } }) :
    d.ptpMasterSend 1 = e.ptpSend (e.ptpMsg 0 0x0200 seq e.logSync (zeros 10)) := by
  subst he hseq
  exact if_neg (not_not_intro h)

theorem Dev.ptpMasterSend_pdelay (h : d.flag F.TIME_CFG.DELAY_MECH = true) (hseq : seq = (d.time.seqDelay + 1) % 65536)
    (he : e = { d with time := { d.time with seqDelay := seq, lastDelay := some d.time.tb } }) :
    d.ptpMasterSend 2 = e.ptpSend (e.ptpMsg 2 0 seq e.logDelay (zeros 20)) := by
  subst he hseq
  exact if_neg (by simp [h])
end

theorem Dev.ptpMasterSend_endToEnd (h : d.flag F.TIME_CFG.DELAY_MECH = false) : d.ptpMasterSend 2 = d := if_pos (by simp [h])

theorem Dev.ptpMasterSend_notMaster {kind : Nat} (hk : kind < 2) (h : d.rd F.TIME_STAT.PORT_STATE ≠ 6) : d.ptpMasterSend kind = d := by
  match kind, hk with
  | 0, _ => exact if_pos h
  | 1, _ => exact if_pos h

theorem Dev.ptpMasterSend_receiptTimeout : d.ptpMasterSend 3 = d.bmca true := rfl
end

/-- Settles O51: the reference's two commands by TIME_STAT.REF, REFCLK's two by whether it runs. -/
theorem referenceActs : Obligations.ReferenceActs := by
  refine ⟨?loss, ?back, ?refclkLoss, ?refclkBack, fun s hruns => ⟨fun h => ?lossAgain, fun h => ?backAgain⟩⟩
  case loss =>
    rintro s d e rfl hruns rfl
    refine ⟨fun h => ?first, fun h => ?again⟩
    case first => rw [exec_refLoss hruns, Dev.refLoss_reported h, Dev.refBad]
    case again => rw [exec_refLoss hruns, Dev.refLoss_again h, Dev.refBad]
  case back =>
    rintro s d rfl hruns
    refine ⟨fun h hok => ?timed, fun h => ?idle⟩
    case timed => rw [exec_refReturn hruns, Dev.refReturn_timed h hok]
    case idle => rw [exec_refReturn hruns, Dev.refReturn_idle h, State.put_dev]
  case refclkLoss =>
    rintro s d e x rfl hruns hclk he hx
    have hx : x = s.dev.refclkLoss := by rw [hx, he, Dev.refclkLoss_reported hclk, Dev.refclkOff]
    subst hx
    refine ⟨fun h => ?lost, fun h => ?kept⟩
    case lost => rw [exec_refclkLoss hruns, Dev.refclkGone_pLost h]
    case kept => rw [exec_refclkLoss hruns, Dev.refclkGone_pKept h]
  case refclkBack =>
    rintro s d e rfl hruns hclk he
    rw [exec_refclkReturn hruns, Dev.refclkReturn_retrains hclk he]
  case lossAgain => rw [exec_refclkLoss hruns, Dev.refclkGone_again h, State.put_dev]
  case backAgain => rw [exec_refclkReturn hruns, Dev.refclkReturn_again h, State.put_dev]

/-- Settles O52: each message, edge and timer comes to its meaning by its condition. -/
theorem ptpAndServoAct : Obligations.PtpAndServoAct := by
  refine ⟨?message, ?edge, ?soon, ?notLocked, ?holdover, ?announce, ?endToEnd, ?sync, ?pdelay, ?notMaster, ?receipt⟩
  case message =>
    rintro s d r f rfl hruns rfl hf
    refine ⟨fun h => ?notPtp, fun m hm h => ?taken, fun m hm h => ?other⟩
    case notPtp => rw [exec_ptpMessage hruns, Dev.ptpMessage_notPtp hf h]
    case taken => rw [exec_ptpMessage hruns, Dev.ptpMessage_taken hf hm h]
    case other => rw [exec_ptpMessage hruns, Dev.ptpMessage_otherPort hf hm h]
  case edge =>
    rintro s d e w x delay rfl hruns hdue rfl hlast rfl rfl
    have hexec := exec_ppsEdge hruns delay
    rw [Dev.ppsEdge_accepted hdue hlast] at hexec
    refine ⟨fun hsrc => ?stamped, fun hsrc r hr => ?measured⟩
    case stamped => exact hexec.trans (congrArg (fun x => Host.Outcome.next (s.put x)) (if_pos hsrc))
    case measured =>
      subst hr
      exact hexec.trans (congrArg (fun x => Host.Outcome.next (s.put x)) (if_neg (not_not_intro hsrc)))
  case soon =>
    rintro s d e delay t rfl hruns hdue rfl ht hsoon
    rw [exec_ppsEdge hruns, Dev.ppsEdge_tooSoon hdue ht hsoon, Dev.atEdge]
  case notLocked =>
    rintro s hruns h
    rw [exec_servoHoldover hruns, Dev.servoHoldover_notLocked h, State.put_dev]
  case holdover =>
    rintro s d rfl hruns hlocked
    refine ⟨fun hsrc hdue => ?noSync, fun hsrc hdue => ?noPps⟩
    case noSync => rw [exec_servoHoldover hruns, Dev.servoHoldover_sync hlocked hsrc hdue]
    case noPps => rw [exec_servoHoldover hruns, Dev.servoHoldover_pps hlocked hsrc hdue]
  case announce =>
    rintro s d e seq rfl hruns hmaster hseq he
    rw [exec_ptpMasterSend hruns (by decide), Dev.ptpMasterSend_announce hmaster hseq he, Dev.announceBody]
  case endToEnd =>
    rintro s hruns h
    rw [exec_ptpMasterSend hruns (by decide), Dev.ptpMasterSend_endToEnd h, State.put_dev]
  case sync =>
    rintro s d e seq rfl hruns hmaster hseq he
    rw [exec_ptpMasterSend hruns (by decide), Dev.ptpMasterSend_sync hmaster hseq he]
  case pdelay =>
    rintro s d e seq rfl hruns hmech hseq he
    rw [exec_ptpMasterSend hruns (by decide), Dev.ptpMasterSend_pdelay hmech hseq he]
  case notMaster =>
    rintro s kind hruns hkind h
    rw [exec_ptpMasterSend hruns (by omega), Dev.ptpMasterSend_notMaster hkind h, State.put_dev]
  case receipt =>
    rintro s hruns
    rw [exec_ptpMasterSend hruns (by decide), Dev.ptpMasterSend_receiptTimeout]

end Sys2Proof.Machine
end

