-- ==== Sys2Proof/Proofs/TimeRegisters.lean ====
section
/-! PROOFS. TIME_CFG, the latches of TB_NS_LO and the timed pulses (R327, R328, R336, R337). -/

namespace Sys2Proof.Machine
open Sys2Proof

/-! ## The commands -/

section
variable {s : State} (h : s.runs = true)
include h

theorem exec_relock (v : Nat) : exec (.relock v) s = .next (s.put (s.dev.regCommand R.TIME_CFG (putBit v 31 true))) :=
  State.run_of_runs _ rfl h
theorem exec_servoSrcWrite (v : Nat) : exec (.servoSrcWrite v) s = .next (s.put (s.dev.regCommand R.TIME_CFG v)) :=
  State.run_of_runs _ rfl h
theorem exec_tbNsRead : exec .tbNsRead s = .next (s.put (s.dev.regRead R.TB_NS_LO).1) := State.run_of_runs _ rfl h

variable {n : Nat} (hn : n < 4)
include hn

theorem exec_pulseArm_cfg (v : Nat) : exec (.pulseArm n true v) s = .next (s.put (s.dev.regCommand (R.PULSE_CFG n) v)) :=
  State.run_of_runs _ (decide_eq_true hn) h
theorem exec_pulseArm_start (v : Nat) : exec (.pulseArm n false v) s = .next (s.put (s.dev.regCommand (R.PULSE_START_HI n) v)) :=
  State.run_of_runs _ (decide_eq_true hn) h
theorem exec_pulseEdge : exec (.pulseEdge n) s = .next (s.put (s.dev.pulseEdge n)) :=
  State.run_of_runs _ (decide_eq_true hn) h
end

section
variable {d e : Dev}

/-! ## TIME_CFG (R327 - R329) -/

theorem Dev.servoTo_portNow (d : Dev) (s : Nat) : (d.servoTo s).time.portNow = d.time.portNow := by
  rw [Dev.servoTo]
  split
  case isTrue => rfl
  case isFalse => rw [Dev.raise_time, Dev.wr_time]

theorem Dev.servoSrc_portNow (d : Dev) : d.servoSrc.time.portNow = d.time.portNow := by
  rw [Dev.servoSrc]
  split
  case isTrue => rw [Dev.putAdj, Dev.wr_time, Dev.servoTo_portNow]
  case isFalse =>
    split
    case isTrue => rw [Dev.servoTo_portNow]
    case isFalse => rfl

/-- A clock that stays on its port, with no fallback to end, keeps what it has heard there. -/
theorem Dev.ptpPortWritten_same {was : Nat} (hnow : d.time.portNow = none) (h : d.rd F.TIME_CFG.PTP_PORT = was) :
    d.ptpPortWritten was = d := by
  have hend : ({ d with time := { d.time with portNow := none } } : Dev) = d := by rw [← hnow]
  rw [Dev.ptpPortWritten, hend]
  exact if_pos (by rw [Dev.ptpPort, hnow, Option.getD_none, h])

theorem Dev.ptpPort_of_noFallback (h : d.time.portNow = none) : d.ptpPort = d.rd F.TIME_CFG.PTP_PORT := by
  rw [Dev.ptpPort, h, Option.getD_none]

/-- A stored TIME_CFG with SRC acted upon: a change of SRC starts the servo on its source. -/
def Dev.timeCfgSrc (d e : Dev) : Dev := if e.rd F.TIME_CFG.SRC = d.rd F.TIME_CFG.SRC then e else e.servoSrc

/-- A write of TIME_CFG: SRC, then PTP_PORT, then RELOCK. -/
theorem Dev.regCommand_TIME_CFG {v : Nat} {fields : List FRow} (h : regAt R.TIME_CFG = some (.row R.TIME_CFG [] fields))
    (he : e = d.storeWord R.TIME_CFG R.TIME_CFG [] fields v) :
    d.regCommand R.TIME_CFG v =
      (let z := (d.timeCfgSrc e).ptpPortWritten d.ptpPort
       if bit v 31 then z.relock else z) := by
  subst he
  exact Dev.regCommand_atRow h (fun x => x.pairOwned_of_notShared [] (by decide) (by decide)) rfl

/-- With no fallback under way and PTP_PORT as it was, a write of TIME_CFG acts by SRC and RELOCK alone. -/
theorem Dev.regCommand_TIME_CFG_samePort {v : Nat} {fields : List FRow} (h : regAt R.TIME_CFG = some (.row R.TIME_CFG [] fields))
    (he : e = d.storeWord R.TIME_CFG R.TIME_CFG [] fields v) (hnow : d.time.portNow = none)
    (hport : (d.timeCfgSrc e).rd F.TIME_CFG.PTP_PORT = d.rd F.TIME_CFG.PTP_PORT) :
    d.regCommand R.TIME_CFG v = if bit v 31 then (d.timeCfgSrc e).relock else d.timeCfgSrc e := by
  have hstored : e.time.portNow = none := by rw [he, Dev.storeWord_eq, hnow]
  have hkept : (d.timeCfgSrc e).time.portNow = none := by
    rw [Dev.timeCfgSrc]
    split
    case isTrue => exact hstored
    case isFalse => rw [Dev.servoSrc_portNow, hstored]
  rw [Dev.regCommand_TIME_CFG h he, Dev.ptpPort_of_noFallback hnow, Dev.ptpPortWritten_same hkept hport]

theorem Dev.timeCfgSrc_same (h : e.rd F.TIME_CFG.SRC = d.rd F.TIME_CFG.SRC) : d.timeCfgSrc e = e := if_pos h
theorem Dev.timeCfgSrc_changed (h : e.rd F.TIME_CFG.SRC ≠ d.rd F.TIME_CFG.SRC) : d.timeCfgSrc e = e.servoSrc := if_neg h

/-! ## TB_NS_LO (R337) -/

theorem Dev.regRead_TB_NS_LO (d : Dev) : (d.regRead R.TB_NS_LO).1 = d.tbNsRead := by
  obtain ⟨fields, hreg⟩ := regAt_of_rowAt rowAt_TB_NS_LO
  simp only [Dev.regRead, hreg]
  rfl

/-! ## Timed pulses (R336) -/

theorem Dev.regCommand_PULSE_CFG {n v : Nat} {fields : List FRow}
    (h : regAt (R.PULSE_CFG n) = some (.row (R.PULSE_CFG 0) [n] fields)) :
    d.regCommand (R.PULSE_CFG n) v = (d.storeWord (R.PULSE_CFG n) (R.PULSE_CFG 0) [n] fields v).pulseArm n :=
  Dev.regCommand_atRow h (fun x => x.pairOwned_of_notShared [n] (by decide) (by decide)) rfl

theorem Dev.regCommand_PULSE_START_HI {n v : Nat} {fields : List FRow}
    (h : regAt (R.PULSE_START_HI n) = some (.row (R.PULSE_START_HI 0) [n] fields)) :
    d.regCommand (R.PULSE_START_HI n) v = (d.storeWord (R.PULSE_START_HI n) (R.PULSE_START_HI 0) [n] fields v).pulseArm n :=
  Dev.regCommand_atRow h (fun x => x.pairOwned_of_notShared [n] (by decide) (by decide)) rfl

section
variable {n : Nat} (hn : n < 4)
include hn

theorem Dev.pulseArm_off (h : d.rd (F.PULSE_CFG.MODE n) = 0) : d.pulseArm n = (d.putPulse n {}).pulsePin n false := by
  rw [Dev.pulseArm, if_neg (by omega), if_pos h]

theorem Dev.pulseArm_on (h : d.rd (F.PULSE_CFG.MODE n) ≠ 0) :
    d.pulseArm n = (d.pulsePin n (d.pulse n).fallTb.isSome).pulsePlace n 1000 := by
  rw [Dev.pulseArm, if_neg (by omega), if_neg h]

theorem Dev.pulseEdge_falls {t : Nat} (h : (d.pulse n).fallTb = some t) (hdue : d.before t = true) :
    d.pulseEdge n = ((d.wait t).putPulse n { (d.wait t).pulse n with fallTb := none }).pulsePin n false := by
  simp only [Dev.pulseEdge, if_neg (show ¬3 < n by omega), h, Dev.fire_of_before _ hdue]

variable (hlow : (d.pulse n).fallTb = none)
include hlow

theorem Dev.pulseEdge_idle (h : (d.pulse n).armed = false ∨ d.rd (F.PULSE_CFG.MODE n) = 0 ∨ d.rd (F.PULSE_CFG.MODE n) = 3) :
    d.pulseEdge n = d := by
  simp only [Dev.pulseEdge, if_neg (show ¬3 < n by omega), hlow]
  exact if_pos (by simpa [or_assoc] using h)

theorem Dev.pulseEdge_rises {due : Nat} (harmed : (d.pulse n).armed = true) (hoff : d.rd (F.PULSE_CFG.MODE n) ≠ 0)
    (hbeat : d.rd (F.PULSE_CFG.MODE n) ≠ 3) (hat : due = (((d.pulse n).next : Int) - d.time.ofs).toNat) (hdue : d.before due = true) :
    d.pulseEdge n = (d.wait due).pulseRise n := by
  subst hat
  simp only [Dev.pulseEdge, if_neg (show ¬3 < n by omega), hlow, harmed, hoff, hbeat, Dev.fire_of_before _ hdue, Bool.not_true, decide_false,
    Bool.or_false, Bool.false_eq_true, if_false]
end
end

/-- Settles O53: TIME_CFG acts by SRC, PTP_PORT and RELOCK in this order; a pulse's registers arm it by its MODE. -/
theorem timeRegistersAct : Obligations.TimeRegistersAct := by
  refine ⟨?timeCfg, ?latch, ?armCfg, ?armStart, ?idle, ?falls, ?rises⟩
  case timeCfg =>
    rintro s d e v fields rfl hruns hreg
    refine ⟨fun he hsrc hnow hport => ?relock, fun he hsrc hnow hport hv => ?changed, fun he hsrc hnow hport hv => ?same,
      fun c w hc x y hx hy => ?general⟩
    case relock =>
      have hsame := Dev.timeCfgSrc_same hsrc
      rw [exec_relock hruns, Dev.regCommand_TIME_CFG_samePort hreg he hnow (by rw [hsame, hport]), hsame,
        if_pos (bit_putBit_self _ _ _)]
    case changed =>
      have hstart := Dev.timeCfgSrc_changed hsrc
      rw [exec_servoSrcWrite hruns, Dev.regCommand_TIME_CFG_samePort hreg he hnow (by rw [hstart, hport]), hstart,
        if_neg (ne_true_of_eq_false hv)]
    case same =>
      have hsame := Dev.timeCfgSrc_same hsrc
      rw [exec_servoSrcWrite hruns, Dev.regCommand_TIME_CFG_samePort hreg he hnow (by rw [hsame, hport]), hsame,
        if_neg (ne_true_of_eq_false hv)]
    case general =>
      have hexec : exec c s = .next (s.put (s.dev.regCommand R.TIME_CFG w)) := by
        rcases hc with ⟨rfl, rfl⟩ | ⟨rfl, rfl⟩
        · exact exec_relock hruns v
        · exact exec_servoSrcWrite hruns w
      rw [hexec, Dev.regCommand_TIME_CFG hreg hx, Dev.timeCfgSrc, hy]
  case latch =>
    rintro s d p rfl hruns rfl
    rw [exec_tbNsRead hruns, Dev.regRead_TB_NS_LO, Dev.tbNsRead]
  case armCfg =>
    rintro s d e n v fields rfl hruns hn hreg rfl
    refine ⟨fun hmode => ?off, fun hmode => ?on⟩
    case off => rw [exec_pulseArm_cfg hruns hn, Dev.regCommand_PULSE_CFG hreg, Dev.pulseArm_off hn hmode]
    case on => rw [exec_pulseArm_cfg hruns hn, Dev.regCommand_PULSE_CFG hreg, Dev.pulseArm_on hn hmode]
  case armStart =>
    rintro s d e n v fields rfl hruns hn hreg rfl
    refine ⟨fun hmode => ?off, fun hmode => ?on⟩
    case off => rw [exec_pulseArm_start hruns hn, Dev.regCommand_PULSE_START_HI hreg, Dev.pulseArm_off hn hmode]
    case on => rw [exec_pulseArm_start hruns hn, Dev.regCommand_PULSE_START_HI hreg, Dev.pulseArm_on hn hmode]
  case idle =>
    rintro s n hruns hn hlow h
    rw [exec_pulseEdge hruns hn, Dev.pulseEdge_idle hn hlow h, State.put_dev]
  case falls =>
    rintro s d n t rfl hruns hn hfall hdue e rfl
    rw [exec_pulseEdge hruns hn, Dev.pulseEdge_falls hn hfall hdue]
  case rises =>
    rintro s d n due rfl hruns hn hlow harmed hoff hbeat hat hdue
    rw [exec_pulseEdge hruns hn, Dev.pulseEdge_rises hn hlow harmed hoff hbeat hat hdue]

end Sys2Proof.Machine
end

