-- ==== Sys2Proof/Proofs/Resets.lean ====
section
/-! PROOFS. Reset, rails and comparator (R235, R339, R419, R442, R446). -/

namespace Sys2Proof.Machine
open Sys2Proof

/-! ## The commands -/

theorem exec_powerOnReset (s : State) (samples : List Nat) :
    exec (.powerOnReset samples) s = .next (s.put (({ s.dev with sup := {} }).resetAll samples)) :=
  s.raw_acts _ _ rfl

theorem exec_resetN {s : State} (samples : List Nat) (h : s.coreRuns = true) :
    exec (.resetN samples) s = .next (s.put (s.dev.resetAll samples)) :=
  State.core_of_coreRuns _ h

theorem exec_railUndervoltage {s : State} {rail level : Nat} (hr : rail < 12) (hl : level < 3) :
    exec (.railUndervoltage rail level) s = .next (s.put (s.dev.railMonitor rail level)) :=
  s.raw_acts _ _ (by simp [hr, hl])

theorem exec_thermtrip (s : State) (past : Bool) : exec (.thermtrip past) s = .next (s.put (s.dev.thermTrip past)) :=
  s.raw_acts _ _ rfl

section
variable (d : Dev)

/-! ## A reset of the device (R339, R419, R446) -/

theorem Dev.resetAll_of_agree {samples : List Nat} {x : Nat} (hx : samples.getLast? = some x) (h : ∀ y ∈ samples, y % 4 = x % 4) :
    d.resetAll samples =
      ((d.fresh.wr F.SLV_STAT.UNIT_ID (x % 2)).wr F.SLV_STAT.PREFER (x / 2 % 2)).wr F.TETH_CTRL.PLCA_ID (x % 2) := by
  have hall : samples.all (fun y => y % 4 = x % 4) = true := by simpa using h
  rw [Dev.resetAll, Dev.straps, hx, Option.getD_some, if_pos hall, Dev.fresh]

/-- The unit's own reset: every block at its reset, with the straps as last captured. -/
theorem Dev.resetSelf_eq :
    d.resetSelf = ((d.fresh.wr F.SLV_STAT.UNIT_ID (d.strapsNow % 2)).wr F.SLV_STAT.PREFER (d.strapsNow / 2 % 2)).wr F.TETH_CTRL.PLCA_ID
      (d.strapsNow % 2) :=
  d.resetAll_of_agree rfl (by simp)

/-! ## Rails (R442) -/

theorem Dev.railMonitor_inRange (rail : Nat) : d.railMonitor rail 0 = d.withLow (d.sup.low.filter (· ≠ rail)) := rfl

/-- The device when a rail below its low limit has been reported. -/
def Dev.railReported (d : Dev) : Dev := (d.draw (2 ^ 32)).2.raise 0x2C 8 0xFF (d.draw (2 ^ 32)).1

theorem Dev.railMonitor_low {rail : Nat} (h : d.sup.low.contains rail = false) :
    d.railMonitor rail 1 = d.railReported.withLow (d.sup.low ++ [rail]) := by
  have hlow : (if d.sup.low.contains rail then d.sup.low else d.sup.low ++ [rail]) = d.sup.low ++ [rail] := if_neg (ne_true_of_eq_false h)
  rw [← hlow]
  rfl

/-- Below the level of the internal reset the rails hold the unit. -/
def Dev.railHolds (d : Dev) (rail : Nat) : Dev :=
  { d.railReported with sup := { d.sup with
    low := if d.sup.low.contains rail then d.sup.low else d.sup.low ++ [rail]
    held := true } }

theorem Dev.railMonitor_reset (rail : Nat) : d.railMonitor rail 2 = (d.railHolds rail).resetSelf := rfl

/-! ## The comparator (R235) -/

theorem Dev.thermTrip_past (h : d.therm.trip = false) : d.thermTrip true = (d.withTrip true).resetSelf := by
  rw [Dev.thermTrip, if_pos rfl, if_neg (ne_true_of_eq_false h), Dev.withTrip]

theorem Dev.thermTrip_below (h : d.therm.trip = true) :
    d.thermTrip false = ((d.withTrip false).resetAll [d.strapsNow]).raise 0x20 11 0 0 := by
  rw [Dev.thermTrip, if_neg Bool.false_ne_true, if_pos h]
  rfl
end

/-- Settles O8: each value is that of the reset state, which the definitions evaluate. -/
theorem resetLeaves : Obligations.ResetLeaves :=
  ⟨rfl, rfl, rfl, rfl, rfl, fun _ => ⟨rfl, rfl⟩, fun _ _ => rfl, fun _ => rfl, fun _ => ⟨rfl, rfl⟩, rfl, rfl, rfl, rfl, rfl, rfl⟩

/-- Settles O9: a reset leaves what `fresh` keeps and the straps; the rails and the comparator act by the levels they see. -/
theorem resetsTakeEffect : Obligations.ResetsTakeEffect := by
  refine ⟨exec_powerOnReset, fun s samples h => exec_resetN samples h, fun d x samples hx h => d.resetAll_of_agree hx h, ?low, ?reset, ?inRange,
    ?below, ?past⟩
  case low =>
    rintro s rail hrail h
    rw [exec_railUndervoltage hrail (by decide), Dev.railMonitor_low s.dev h, Dev.railReported]
  case reset =>
    rintro s rail hrail
    refine ⟨_, exec_railUndervoltage hrail (by decide), rfl, ?_⟩
    simp [State.put, Dev.railMonitor_reset, Dev.resetSelf_eq, Dev.fresh, Dev.railHolds, Dev.railReported, Dev.draw, Dev.held]
  case inRange =>
    rintro s rail hrail
    rw [exec_railUndervoltage hrail (by decide), Dev.railMonitor_inRange]
  case below =>
    rintro s h
    rw [exec_thermtrip, Dev.thermTrip_below s.dev h]
  case past =>
    rintro s h
    refine ⟨_, exec_thermtrip s true, rfl, ?_⟩
    simp [State.put, Dev.thermTrip_past s.dev h, Dev.resetSelf_eq, Dev.fresh, Dev.withTrip, Dev.held]

end Sys2Proof.Machine
end

