-- ==== Sys2Proof/Proofs/Heartbeats.lean ====
section
/-! PROOFS. Heartbeats and claims, and the loss of a path (R340, R342, R343). -/

namespace Sys2Proof.Machine
open Sys2Proof

/-! ## The commands -/

theorem exec_heartbeatPTimer {s : State} (h : s.fabricRuns = true) : exec .heartbeatPTimer s = .next (s.put s.dev.heartbeatP) :=
  State.live_of_fabricRuns _ rfl h

section
variable {s : State} (h : s.runs = true)
include h

theorem exec_heartbeat {path : Nat} (bs : List Byte) (hp : path < 2) :
    exec (.heartbeat path bs) s = .next (s.put (s.dev.peerFrameIn 1 path bs)) :=
  State.run_of_runs _ (decide_eq_true hp) h
theorem exec_claim {path : Nat} (bs : List Byte) (hp : path < 2) :
    exec (.claim path bs) s = .next (s.put (s.dev.peerFrameIn 2 path bs)) :=
  State.run_of_runs _ (decide_eq_true hp) h
theorem exec_pLost : exec .pLost s = .next (s.put s.dev.pLost) := State.run_of_runs _ rfl h
theorem exec_tLost : exec .tLost s = .next (s.put s.dev.tLost) := State.run_of_runs _ rfl h
end

section
variable {d : Dev}

/-! ## The heartbeat that this unit sends (R342) -/

/-- The heartbeat with the next sequence leaves on MAC_P. -/
def Dev.sendHeartbeatP (d : Dev) : Dev :=
  ((d.updSlv (fun s => { s with hbSeqP := (d.slv.hbSeqP + 1) % 65536, hbTbP := some d.time.tb })).sendP
    (d.hbFrame 1 ((d.slv.hbSeqP + 1) % 65536))).count 0x69

theorem Dev.heartbeatP_early (h : d.rd F.BOOT_STAT.STAGE < 6) : d.heartbeatP = d := if_pos h

section
variable (hstage : 6 ≤ d.rd F.BOOT_STAT.STAGE)
include hstage

theorem Dev.heartbeatP_due {t : Nat} (ht : d.slv.hbTbP = some t) (hdue : d.before (t + 10000) = true) :
    d.heartbeatP = (d.wait (t + 10000)).sendHeartbeatP := by
  simp only [Dev.heartbeatP, if_neg (Nat.not_lt.mpr hstage), ht, Dev.fire_of_before _ hdue, Dev.sendHeartbeatP]

theorem Dev.heartbeatP_first (ht : d.slv.hbTbP = none) (hdue : d.before d.time.tb = true) :
    d.heartbeatP = (d.wait d.time.tb).sendHeartbeatP := by
  simp only [Dev.heartbeatP, if_neg (Nat.not_lt.mpr hstage), ht, Dev.fire_of_before _ hdue, Dev.sendHeartbeatP]
end

/-! ## Frames of the peer (R340, R343) -/

theorem Dev.slvBad_eq (d : Dev) (version : Nat) : d.slvBad version = badFrame d version := rfl

section
variable {kind path : Nat} {bs : List Byte}

theorem Dev.peerFrameIn_bad (h : d.slvGood bs kind (some 46) path = false) : d.peerFrameIn kind path bs = badFrame d (beAt bs 1 1) :=
  if_pos (by simp [h])

variable (hgood : d.slvGood bs kind (some 46) path = true)
include hgood

theorem Dev.peerFrameIn_repeated (h : AMap.find d.slv.seenSeq (path * 2 + kind) = some (beAt bs 10 2)) : d.peerFrameIn kind path bs = d := by
  simp [Dev.peerFrameIn, hgood, h]

/-- The device with a frame's sequence seen and with what its UNIT_ID says of a conflict. -/
def Dev.frameSeen (d : Dev) (kind path : Nat) (bs : List Byte) : Dev :=
  (d.updSlv (fun s => { s with seenSeq := AMap.put s.seenSeq (path * 2 + kind) (beAt bs 10 2) })).updSlv
    (fun s => { s with conflict := decide (beAt bs 4 1 % 2 = d.rd F.SLV_STAT.UNIT_ID) })

variable (hnew : AMap.find d.slv.seenSeq (path * 2 + kind) ≠ some (beAt bs 10 2))
include hnew

theorem Dev.peerFrameIn_new :
    d.peerFrameIn kind path bs =
      (((if decide (beAt bs 4 1 % 2 = d.rd F.SLV_STAT.UNIT_ID) then (d.frameSeen kind path bs).slvEv 1 none
        else d.frameSeen kind path bs).pathHeard path (bits (beAt bs 4 1) 6 4 = Pr.active)).peerSays bs) := by
  rw [Dev.peerFrameIn, if_neg (by simp [hgood])]
  exact if_neg hnew

theorem Dev.peerFrameIn_peer (h : beAt bs 4 1 % 2 ≠ d.rd F.SLV_STAT.UNIT_ID) :
    d.peerFrameIn kind path bs = ((d.frameSeen kind path bs).pathHeard path (bits (beAt bs 4 1) 6 4 = Pr.active)).peerSays bs := by
  rw [Dev.peerFrameIn_new hgood hnew, if_neg (by simp [h])]

theorem Dev.peerFrameIn_conflict (h : beAt bs 4 1 % 2 = d.rd F.SLV_STAT.UNIT_ID) :
    d.peerFrameIn kind path bs =
      (((d.frameSeen kind path bs).slvEv 1 none).pathHeard path (bits (beAt bs 4 1) 6 4 = Pr.active)).peerSays bs := by
  rw [Dev.peerFrameIn_new hgood hnew, if_pos (decide_eq_true h)]
end

/-! ## The loss of a path (R342) -/

theorem Dev.pLost_again (h : d.flag F.SLV_STAT.P_LOST = true) : d.pLost = d := if_pos h
theorem Dev.tLost_again (h : d.flag F.SLV_STAT.T_LOST = true) : d.tLost = d := if_pos h

section
variable (h : d.flag F.SLV_STAT.P_LOST = false)
include h

theorem Dev.pLost_linkDown (hlink : d.flag (F.MAC_STAT.LINK 2) = false) : d.pLost = d.pLostNow := by
  rw [Dev.pLost, if_neg (ne_true_of_eq_false h), if_pos (by simp [hlink])]

theorem Dev.pLost_due (hlink : d.flag (F.MAC_STAT.LINK 2) = true)
    (hdue : d.before (d.slv.lastP + 10000 * max 2 (d.rd F.SLV_CFG.HB_MISS_P)) = true) :
    d.pLost = (d.wait (d.slv.lastP + 10000 * max 2 (d.rd F.SLV_CFG.HB_MISS_P))).pLostNow := by
  rw [Dev.pLost, if_neg (ne_true_of_eq_false h), if_neg (by simp [hlink]), Dev.fire_of_before _ hdue]

theorem Dev.pLostNow_active {e : Dev} (he : e = ((d.setFlag F.SLV_STAT.P_LOST true).bump F.SLV_CNT_B.P_LOSSES 1).pathLoss)
    (hrole : e.role = Pr.active) : d.pLostNow = e.releaseAcks.handingReturn := by
  have hact : e.role ≠ Pr.standby := by rw [hrole]; decide
  rw [Dev.pLostNow, if_neg (ne_true_of_eq_false h), ← he]
  simp only [hact, decide_false, Bool.false_and, Bool.false_eq_true, if_false]
end

theorem Dev.tLost_due {t : Nat} (h : d.flag F.SLV_STAT.T_LOST = false)
    (ht : t = d.slv.lastT + (if d.slv.peerTether then 100000 else 1000000) * max 1 (d.rd F.SLV_CFG.HB_MISS_T)) (hdue : d.before t = true) :
    d.tLost = (((d.wait t).setFlag F.SLV_STAT.T_LOST true).bump F.SLV_CNT_B.T_LOSSES 1).pathLoss := by
  subst ht
  rw [Dev.tLost, if_neg (ne_true_of_eq_false h), Dev.fire_of_before _ hdue]
end

/-- Settles O54: one argument serves heartbeats and claims, which differ in their kind alone. -/
theorem heartbeatsAct : Obligations.HeartbeatsAct := by
  refine ⟨?due, ?first, ?early, ?frames, ?pLost, ?active, ?tLost, fun s hruns => ⟨fun h => ?pAgain, fun h => ?tAgain⟩⟩
  case due =>
    rintro s d e t seq rfl hruns hstage ht hdue rfl rfl
    rw [exec_heartbeatPTimer hruns, Dev.heartbeatP_due hstage ht hdue, Dev.sendHeartbeatP]
  case first =>
    rintro s d e seq rfl hruns hstage ht hdue rfl rfl
    rw [exec_heartbeatPTimer hruns, Dev.heartbeatP_first hstage ht hdue, Dev.sendHeartbeatP]
  case early =>
    rintro s hruns hstage
    rw [exec_heartbeatPTimer hruns, Dev.heartbeatP_early hstage, State.put_dev]
  case frames =>
    rintro row kind hrow s d path bs rfl hruns hpath
    have hexec : exec (row path bs) s = .next (s.put (s.dev.peerFrameIn kind path bs)) := by
      rcases hrow with ⟨rfl, rfl⟩ | ⟨rfl, rfl⟩
      · exact exec_heartbeat hruns bs hpath
      · exact exec_claim hruns bs hpath
    refine ⟨fun h => ?bad, fun hgood hseen => ?again, fun hgood hnew e he => ⟨fun h => ?peer, fun h => ?conflict⟩⟩
    case bad => rw [hexec, Dev.peerFrameIn_bad h]
    case again => rw [hexec, Dev.peerFrameIn_repeated hgood hseen, State.put_dev]
    case peer => rw [hexec, Dev.peerFrameIn_peer hgood hnew h, he, Dev.frameSeen]
    case conflict => rw [hexec, Dev.peerFrameIn_conflict hgood hnew h, he, Dev.frameSeen]
  case pLost =>
    rintro s d rfl hruns h
    refine ⟨fun hlink => ?down, fun hlink t ht hdue => ?late⟩
    case down => rw [exec_pLost hruns, Dev.pLost_linkDown h hlink]
    case late =>
      subst ht
      rw [exec_pLost hruns, Dev.pLost_due h hlink hdue]
  case active =>
    rintro d e h - he hrole
    exact Dev.pLostNow_active h he hrole
  case tLost =>
    rintro s d t rfl hruns h ht hdue
    rw [exec_tLost hruns, Dev.tLost_due h ht hdue]
  case pAgain => rw [exec_pLost hruns, Dev.pLost_again h, State.put_dev]
  case tAgain => rw [exec_tLost hruns, Dev.tLost_again h, State.put_dev]

end Sys2Proof.Machine
end

