-- ==== Sys2Proof/Proofs/RecordBytes.lean ====
section
/-! PROOFS. Big-endian bytes, and the mirror records that are read back from theirs (R5, R346). -/

namespace Sys2Proof.Machine
open Sys2Proof

/-! ## Numbers as bytes (R5) -/

@[simp] theorem beBytes_length (n v : Nat) : (beBytes n v).length = n := by
  induction n with
  | zero => rfl
  | succ n ih => rw [beBytes, List.length_cons, ih]

theorem foldl_beNat (bs : List Byte) (a : Nat) :
    bs.foldl (fun a b => a * 256 + b.toNat) a = a * 256 ^ bs.length + beNat bs := by
  induction bs generalizing a with
  | nil => simp [beNat]
  | cons b bs ih =>
    have hhead : beNat (b :: bs) = b.toNat * 256 ^ bs.length + beNat bs := by
      rw [beNat, List.foldl_cons, ih]
      simp
    rw [List.foldl_cons, ih, hhead, List.length_cons, pow_succ]
    ring

theorem beNat_cons (b : Byte) (bs : List Byte) : beNat (b :: bs) = b.toNat * 256 ^ bs.length + beNat bs := by
  rw [beNat, List.foldl_cons, foldl_beNat]
  simp

theorem beNat_beBytes (n v : Nat) : beNat (beBytes n v) = v % 256 ^ n := by
  induction n with
  | zero => simp [beBytes, beNat, Nat.mod_one]
  | succ n ih =>
    rw [beBytes, beNat_cons, ih, beBytes_length, BitVec.toNat_ofNat, Nat.mod_pow_succ (b := 256), Nat.mul_comm, Nat.add_comm]

section
variable {bs : List Byte} {m n off v : Nat}

theorem take_beBytes_append : (beBytes n v ++ bs).take n = beBytes n v := List.take_left' (beBytes_length n v)
theorem drop_beBytes_append : (beBytes n v ++ bs).drop n = bs := List.drop_left' (beBytes_length n v)

/-- A number read where its bytes begin. -/
theorem beAt_beBytes_append (h : v < 256 ^ n) : beAt (beBytes n v ++ bs) 0 n = v := by
  rw [beAt, List.drop_zero, take_beBytes_append, beNat_beBytes, Nat.mod_eq_of_lt h]

/-- A number read past bytes before it. -/
theorem beAt_append {xs : List Byte} (h : xs.length ≤ off) : beAt (xs ++ bs) off n = beAt bs (off - xs.length) n := by
  rw [beAt, beAt, List.drop_append, List.drop_eq_nil_of_le h, List.nil_append]
end

/-! ## Lists of numbers -/

section
variable {w : Nat}

theorem flatMap_beBytes_length (vs : List Nat) : (vs.flatMap (beBytes w)).length = vs.length * w := by
  simp [List.length_flatMap]

theorem beList_flatMap (vs : List Nat) (rest : List Byte) (h : ∀ v ∈ vs, v < 256 ^ w) :
    beList w vs.length (vs.flatMap (beBytes w) ++ rest) = vs := by
  induction vs with
  | nil => rfl
  | cons v vs ih =>
    obtain ⟨hv, hvs⟩ := List.forall_mem_cons.mp h
    rw [List.flatMap_cons, List.append_assoc, List.length_cons, beList, take_beBytes_append, drop_beBytes_append, beNat_beBytes,
      Nat.mod_eq_of_lt hv, ih hvs]
end

/-! ## Bodies (R346) -/

theorem bytesBody_entry (ws : List Nat) (h : ∀ w ∈ ws, w < 2 ^ 32) :
    bytesBody (bodyKind (.entry ws)) (bodyBytes (.entry ws)) = some (.entry ws) := by
  have hwords : bytesWords (wordsBytes ws) = ws := by
    have hlen : (wordsBytes ws).length / 4 = ws.length := by
      rw [wordsBytes, flatMap_beBytes_length]
      omega
    rw [bytesWords, hlen]
    simpa [wordsBytes] using beList_flatMap (w := 4) ws [] h
  simp only [bodyKind, bodyBytes, bytesBody, hwords]

theorem bytesBody_table (bins : List Nat) (writes : Nat) (hlen : bins.length = 256) (hbins : ∀ b ∈ bins, b < 2 ^ 16)
    (hwrites : writes < 2 ^ 32) :
    bytesBody (bodyKind (.table bins writes)) (bodyBytes (.table bins writes)) = some (.table bins writes) := by
  have hbytes : (bins.flatMap (beBytes 2)).length = 512 := by rw [flatMap_beBytes_length, hlen]
  have hread : beList 2 256 (bins.flatMap (beBytes 2) ++ beBytes 4 writes) = bins := by
    rw [← hlen]
    exact beList_flatMap bins _ hbins
  have hcount : beAt (bins.flatMap (beBytes 2) ++ beBytes 4 writes) 512 4 = writes := by
    rw [beAt_append hbytes.le, hbytes]
    simpa using beAt_beBytes_append (bs := []) (n := 4) hwrites
  simp only [bodyKind, bodyBytes, bytesBody, hread, hcount]

/-! ## Records (R346) -/

theorem bodyKind_lt (b : MirBody) : bodyKind b < 256 := by cases b <;> simp [bodyKind]

/-- RFLAGS of a record. -/
def recFlags (close retry : Bool) : Nat := (if close then 1 else 0) + (if retry then 2 else 0)

theorem recFlags_lt : ∀ close retry : Bool, recFlags close retry < 256 := by decide
theorem bit_recFlags : ∀ close retry : Bool, bit (recFlags close retry) 0 = close ∧ bit (recFlags close retry) 1 = retry := by decide

/-- A record is read back from its bytes, with what follows it, when its fields fit and its body is read back from its own. -/
theorem bytesRec_recBytes (r : MirRec) (rest : List Byte) (htyp : r.typ < 256) (hver : r.version < 2 ^ 32) (hobj : r.obj < 2 ^ 24)
    (hlen : (bodyBytes r.body).length < 65536) (hbody : bytesBody (bodyKind r.body) (bodyBytes r.body) = some r.body) :
    bytesRec (recBytes r ++ rest) = some (some r, rest) := by
  have hkind := bodyKind_lt r.body
  have hobject : r.obj % 2 ^ 24 + bodyKind r.body * 2 ^ 24 < 256 ^ 4 := by omega
  have hbytes : recBytes r ++ rest =
      beBytes 1 r.typ ++ (beBytes 1 (recFlags r.close r.retry) ++ (beBytes 2 (bodyBytes r.body).length ++ (beBytes 4 r.version ++
        (beBytes 4 (r.obj % 2 ^ 24 + bodyKind r.body * 2 ^ 24) ++ (bodyBytes r.body ++ rest))))) := by
    simp only [recBytes, recFlags, List.append_assoc]
  obtain ⟨hclose, hretry⟩ := bit_recFlags r.close r.retry
  have h0 : beAt (recBytes r ++ rest) 0 1 = r.typ := by rw [hbytes, beAt_beBytes_append (n := 1) htyp]
  have h1 : beAt (recBytes r ++ rest) 1 1 = recFlags r.close r.retry := by
    rw [hbytes, beAt_append (by simp)]
    simpa using beAt_beBytes_append (n := 1) (recFlags_lt r.close r.retry)
  have h2 : beAt (recBytes r ++ rest) 2 2 = (bodyBytes r.body).length := by
    rw [hbytes, beAt_append (by simp), beAt_append (by simp)]
    simpa using beAt_beBytes_append (n := 2) hlen
  have h4 : beAt (recBytes r ++ rest) 4 4 = r.version := by
    rw [hbytes, beAt_append (by simp), beAt_append (by simp), beAt_append (by simp)]
    simpa using beAt_beBytes_append (n := 4) hver
  have h8 : beAt (recBytes r ++ rest) 8 4 = r.obj % 2 ^ 24 + bodyKind r.body * 2 ^ 24 := by
    rw [hbytes, beAt_append (by simp), beAt_append (by simp), beAt_append (by simp), beAt_append (by simp)]
    simpa using beAt_beBytes_append (n := 4) hobject
  have hdrop : (recBytes r ++ rest).drop 12 = bodyBytes r.body ++ rest := by
    rw [hbytes]
    simp only [← List.append_assoc _ _ (bodyBytes r.body ++ rest)]
    exact List.drop_left' (by simp)
  have hwhole : ¬(recBytes r ++ rest).length < 12 + (bodyBytes r.body).length := by
    rw [hbytes]
    simp only [List.length_append, beBytes_length]
    omega
  have hobj' : (r.obj % 2 ^ 24 + bodyKind r.body * 2 ^ 24) / 2 ^ 24 = bodyKind r.body ∧
      (r.obj % 2 ^ 24 + bodyKind r.body * 2 ^ 24) % 2 ^ 24 = r.obj := by omega
  rw [bytesRec]
  simp only [h2, if_neg hwhole, h8, hobj'.1, hobj'.2, h0, h1, h4, hclose, hretry, hdrop, List.take_left, hbody, Option.map_some]
  rw [← List.drop_drop, hdrop, List.drop_left]

end Sys2Proof.Machine
end

