-- ==== Sys2Proof/Proofs/Mirror.lean ====
section
/-! PROOFS. The mirror (R346 - R349): records taken, acknowledgements, snapshots, batches, versions sent again, gaps. -/

namespace Sys2Proof.Machine
open Sys2Proof

/-! ## The commands -/

section
variable {s : State} (h : s.runs = true)
include h

theorem exec_mirror (head recs pad : List Byte) :
    exec (.mirror head recs pad) s = .next (s.put (s.dev.mirrorIn (head ++ recs ++ pad))) :=
  State.run_of_runs _ rfl h
theorem exec_ack (bs : List Byte) :
    exec (.ack bs) s = .next (s.put
      (if !s.dev.slvGood bs 0x11 (some 16) 0 then badFrame s.dev (beAt bs 1 1) else (s.dev.takeAck bs).setProgress)) :=
  State.run_of_runs _ rfl h
theorem exec_syncReq (bs : List Byte) : exec (.syncReq bs) s = .next (s.put (s.dev.takeSyncReq bs)) := State.run_of_runs _ rfl h
theorem exec_snapshotSend : exec .snapshotSend s = .next (s.put s.dev.snapSend) := State.run_of_runs _ rfl h
theorem exec_mirrorBatch : exec .mirrorBatch s = .next (s.put s.dev.mirrorBatch) := State.run_of_runs _ rfl h
theorem exec_mirrorResend : exec .mirrorResend s = .next (s.put s.dev.mirrorResend) := State.run_of_runs _ rfl h
theorem exec_mirrorGapTimeout : exec .mirrorGapTimeout s = .next (s.put s.dev.mirrorGap) := State.run_of_runs _ rfl h
end

section
variable {d : Dev} {bs : List Byte}

/-! ## Records in (R346) -/

theorem Dev.mirrorIn_bad (h : d.slvGood bs 0x10 none 0 = false) : d.mirrorIn bs = badFrame d (beAt bs 1 1) := if_pos (by simp [h])

theorem Dev.mirrorIn_notStandby (hgood : d.slvGood bs 0x10 none 0 = true) (h : d.role ≠ Pr.standby) : d.mirrorIn bs = d := by
  rw [Dev.mirrorIn, if_neg (by simp [hgood]), if_pos h]

/-- The device with the records of a MIRROR frame taken. -/
def Dev.recordsTaken (d : Dev) (bs : List Byte) : Dev :=
  forEach (bytesRecs bs.length ((bs.take (beAt bs 6 2)).drop 8)) (fun (r : MirRec) (d : Dev) => d.mirrorRec r) d

theorem Dev.mirrorIn_standby (hgood : d.slvGood bs 0x10 none 0 = true) (h : d.role = Pr.standby) :
    d.mirrorIn bs =
      (if (d.recordsTaken bs).slv.snapDone then
        ((d.recordsTaken bs).applyReady ((d.recordsTaken bs).slv.aside.length + 1)).gapCheck
       else d.recordsTaken bs).syncCheck := by
  rw [Dev.mirrorIn, if_neg (by simp [hgood]), if_neg (not_not_intro h), Dev.recordsTaken]

/-! ## Snapshots (R349) -/

theorem Dev.takeSyncReq_bad (h : d.slvGood bs 0x12 (some 8) 0 = false) : d.takeSyncReq bs = badFrame d (beAt bs 1 1) := if_pos (by simp [h])

section
variable (hgood : d.slvGood bs 0x12 (some 8) 0 = true)
include hgood

theorem Dev.takeSyncReq_notInControl (h : d.controls = false) : d.takeSyncReq bs = d := by
  rw [Dev.takeSyncReq, if_neg (by simp [hgood]), if_pos (by simp [h])]

theorem Dev.takeSyncReq_controls (h : d.controls = true) :
    d.takeSyncReq bs = ((d.updSlv (fun s => { s with snapDue := true })).bump F.SLV_CNT_C.RESYNCS 1).slvEv 9 none := by
  rw [Dev.takeSyncReq, if_neg (by simp [hgood]), if_neg (by simp [h])]
end

theorem Dev.snapSend_none (h : d.slv.snapTaken = none) : d.snapSend = d := by simp only [Dev.snapSend, h]

theorem Dev.snapSend_some {ver : Nat} {recs : List MirRec} (h : d.slv.snapTaken = some (ver, recs)) :
    d.snapSend = (d.updSlv (fun s => { s with snapTaken := none })).sendRecs
      (recs ++ [{ typ := 7, version := ver, obj := 0, close := true, retry := false, body := .mark }]) := by
  simp only [Dev.snapSend, h]

/-! ## Batches (R347) -/

theorem Dev.mirrorBatch_idle (h : d.controls = false ∨ d.pick.num % 16 ≠ 0 ∨ d.pick.started = false) : d.mirrorBatch = d :=
  if_pos (by simpa [or_assoc] using h)

/-- A record of a batch. -/
def batchRec (j obj : Nat) (body : MirBody) : MirRec :=
  { typ := 3, version := j % 2 ^ 32, obj := obj, close := false, retry := false, body := body }

/-- The records of the batch of boundary 16 × j: `n` loops from `first` on, the SHARED channels, the TEC integrators, the close. -/
def Dev.batchRecs (d : Dev) (j first n : Nat) : List MirRec :=
  (List.range (n / 128)).map (fun i => batchRec j (first + 128 * i) (.loops ((List.range 128).map (fun x =>
    (d.loopRd (first + 128 * i + x) (F.LOOP.INTEG (first + 128 * i + x)), d.loopRd (first + 128 * i + x) (F.LOOP.SP (first + 128 * i + x))))))) ++
  ((List.range 48).filter (fun c => d.flag (F.DAC_CH_CFG.SHARED c))).map (fun c =>
    batchRec j c (.dacCode (d.dacNow.rd (F.DAC_CODE.ACTIVE c)))) ++
  (List.range 16).map (fun t => batchRec j t (.tec (d.rd (F.TEC_INTEG.TEC_INTEG t)))) ++
  [{ typ := 3, version := j % 2 ^ 32, obj := 0, close := true, retry := false, body := .mark }]

theorem Dev.mirrorBatch_due {j : Nat} (hctl : d.controls = true) (hnum : d.pick.num = 16 * j) (hstarted : d.pick.started = true) :
    d.mirrorBatch = (d.updSlv (fun s => { s with batchNo := j % 2 ^ 32 })).sendRecs
      (d.batchRecs j ((j - d.slv.restartBatch) % (65536 / d.batchLoops) * d.batchLoops) d.batchLoops) := by
  have hj : j = d.pick.num / 16 := by omega
  have hrem : d.pick.num % 16 = 0 := by omega
  subst hj
  exact if_neg (by simp [hctl, hrem, hstarted])

/-! ## Versions sent again (R348) -/

theorem Dev.mirrorResend_none (h : d.slv.unacked = []) : d.mirrorResend = d := by simp only [Dev.mirrorResend, h]

section
variable {v o : MirVer} {vs : List MirVer} (h : d.slv.unacked = v :: vs)
  (ho : o = vs.foldl (fun (a b : MirVer) => if b.lastTb < a.lastTb then b else a) v) (hdue : d.before (o.lastTb + 200000) = true)
include h ho hdue

theorem Dev.mirrorResend_given (hmany : 5 ≤ o.resends) :
    d.mirrorResend = (((d.wait (o.lastTb + 200000)).setFlag F.SLV_STAT.PEER_BEHIND true).slvEv 8 none).releaseAcks := by
  subst ho
  simp only [Dev.mirrorResend, h, Dev.fire_of_before _ hdue, if_neg (Nat.not_lt.mpr hmany)]

theorem Dev.mirrorResend_again (hfew : o.resends < 5) :
    d.mirrorResend =
      (let e := d.wait (o.lastTb + 200000)
       let recs := o.recs.map (fun (r : MirRec) => { r with retry := true })
       ((((e.updSlv (fun s => { s with unacked := s.unacked.map (fun (x : MirVer) =>
         if x = o then { o with recs := recs, resends := o.resends + 1, lastTb := e.time.tb } else x) })).sendRecs recs).bump
         F.SLV_CNT_C.RESENDS 1).count 0x68)) := by
  subst ho
  simp only [Dev.mirrorResend, h, Dev.fire_of_before _ hdue, if_pos hfew]
end

/-! ## Gaps (R346) -/

theorem Dev.mirrorGap_none (h : d.slv.gapTb = none) : d.mirrorGap = d := by simp only [Dev.mirrorGap, h]

theorem Dev.mirrorGap_due {t : Nat} (h : d.slv.gapTb = some t) (hdue : d.before (t + 1000000) = true) :
    d.mirrorGap = (((d.wait (t + 1000000)).updSlv (fun s => { s with gapTb := none })).mirrorBehind).syncReq := by
  simp only [Dev.mirrorGap, h, Dev.fire_of_before _ hdue]
end

/-- Settles O55: each frame and timer by its conditions; the records by the round trip of their bytes. -/
theorem mirrorActs : Obligations.MirrorActs := by
  refine ⟨?records, ?entry, ?table, ?ack, ?syncReq, ?snapshot, fun s hruns h => ?noSnapshot, fun s hruns h => ?noBatch, ?batch,
    fun s hruns h => ?noResend, ?resend, fun s hruns h => ?noGap, ?gap⟩
  case records =>
    rintro s d bs head recs pad rfl hruns rfl
    refine ⟨fun h => ?bad, fun hgood hrole => ?other, fun hgood hrole e he => ?standby⟩
    case bad => rw [exec_mirror hruns, Dev.mirrorIn_bad h]
    case other => rw [exec_mirror hruns, Dev.mirrorIn_notStandby hgood hrole, State.put_dev]
    case standby => rw [exec_mirror hruns, Dev.mirrorIn_standby hgood hrole, he, Dev.recordsTaken]
  case entry =>
    rintro r ws rest hr htyp hver hobj hws hlen
    refine bytesRec_recBytes r rest htyp hver hobj ?_ (by rw [hr, bytesBody_entry ws hws])
    rw [hr, bodyBytes, wordsBytes, flatMap_beBytes_length]
    omega
  case table =>
    rintro r bins writes rest hr htyp hver hobj hlen hbins hwrites
    refine bytesRec_recBytes r rest htyp hver hobj ?_ (by rw [hr, bytesBody_table bins writes hlen hbins hwrites])
    rw [hr, bodyBytes, List.length_append, flatMap_beBytes_length, beBytes_length, hlen]
    decide
  case ack =>
    rintro s d e bs rfl hruns
    refine ⟨fun h => ?bad, fun hgood he => ?good⟩
    case bad => rw [exec_ack hruns, if_pos (by simp [h])]
    case good => rw [exec_ack hruns, if_neg (by simp [hgood]), he, Dev.takeAck]
  case syncReq =>
    rintro s d bs rfl hruns
    refine ⟨fun h => ?bad, fun hgood h => ?other, fun hgood h => ?control⟩
    case bad => rw [exec_syncReq hruns, Dev.takeSyncReq_bad h]
    case other => rw [exec_syncReq hruns, Dev.takeSyncReq_notInControl hgood h, State.put_dev]
    case control => rw [exec_syncReq hruns, Dev.takeSyncReq_controls hgood h]
  case snapshot =>
    rintro s d ver recs rfl hruns h
    rw [exec_snapshotSend hruns, Dev.snapSend_some h]
  case noSnapshot => rw [exec_snapshotSend hruns, Dev.snapSend_none h, State.put_dev]
  case noBatch => rw [exec_mirrorBatch hruns, Dev.mirrorBatch_idle h, State.put_dev]
  case batch =>
    rintro s d j n first mk rfl hruns hctl hnum hstarted rfl rfl hmk
    obtain rfl : mk = batchRec j := funext fun o => funext fun b => hmk o b
    rw [exec_mirrorBatch hruns, Dev.mirrorBatch_due hctl hnum hstarted, Dev.batchRecs, Dev.batchLoops]
  case noResend => rw [exec_mirrorResend hruns, Dev.mirrorResend_none h, State.put_dev]
  case resend =>
    rintro s d e v o vs rfl hruns h ho hdue rfl
    refine ⟨fun hmany => ?given, fun hfew recs hrecs => ?again⟩
    case given => rw [exec_mirrorResend hruns, Dev.mirrorResend_given h ho hdue hmany]
    case again =>
      subst hrecs
      rw [exec_mirrorResend hruns, Dev.mirrorResend_again h ho hdue hfew]
  case noGap => rw [exec_mirrorGapTimeout hruns, Dev.mirrorGap_none h, State.put_dev]
  case gap =>
    rintro s d t rfl hruns h hdue
    rw [exec_mirrorGapTimeout hruns, Dev.mirrorGap_due h hdue]

end Sys2Proof.Machine
end

