-- ==== Sys2Proof/Proofs/Roles.lean ====
section
/-! PROOFS. Roles of the pair (R344, R352, R354 - R356): resolution, failover, take-back, handover. -/

namespace Sys2Proof.Machine
open Sys2Proof

/-! ## The commands -/

section
variable {s : State} (h : s.runs = true)
include h

theorem exec_roleResolution : exec .roleResolution s = .next (s.put (s.dev.resolve.afterRole s.dev.role)) := State.run_of_runs _ rfl h
theorem exec_resolutionReread : exec .resolutionReread s = .next (s.put (s.dev.reread.afterRole s.dev.role)) := State.run_of_runs _ rfl h
theorem exec_failover : exec .failover s = .next (s.put s.dev.failover) := State.run_of_runs _ rfl h
theorem exec_takebackRequest : exec .takebackRequest s = .next (s.put s.dev.takebackRequest) := State.run_of_runs _ rfl h
theorem exec_linkHandover : exec .linkHandover s = .next (s.put s.dev.linkHandover) := State.run_of_runs _ rfl h
theorem exec_handoverAgree : exec .handoverAgree s = .next (s.put s.dev.handAgree) := State.run_of_runs _ rfl h
theorem exec_handoverDecline : exec .handoverDecline s = .next (s.put s.dev.handDecline) := State.run_of_runs _ rfl h
end

section
variable {d : Dev}

/-- Nothing follows a resolution that leaves the role. -/
theorem Dev.afterRole_self (d : Dev) : d.afterRole d.role = d := by
  have hclaim : (decide (d.role = Pr.claiming) && d.isActive) = false := by
    rw [Dev.isActive]
    by_cases h : d.role = Pr.claiming <;> simp [h]
  rw [Dev.afterRole, if_neg (ne_true_of_eq_false hclaim)]
  by_cases h : d.role = Pr.resolving
  · simp [Dev.isActive, h]
  · rw [if_pos h]

/-! ## Role resolution (R344) -/

theorem Dev.resolve_resolved (h : d.role ≠ Pr.resolving) : d.resolve = d := if_pos (by simp [h])

theorem Dev.resolve_waits (h : d.rd F.BOOT_STAT.STAGE < 6 ∨ d.slv.claiming = true ∨ d.slv.conflict = true) : d.resolve = d :=
  if_pos (by rcases h with h | h | h <;> simp [h])

/-- The peer is heard on a path that is not lost. -/
def Dev.peerHeard (d : Dev) : Bool :=
  (d.slv.heardP && !d.flag F.SLV_STAT.P_LOST) || (d.slv.heardT && !d.flag F.SLV_STAT.T_LOST)

/-- The last instant at which the unit began to listen or heard its peer. -/
def Dev.lastHeard (d : Dev) : Nat := max d.slv.readAt (max d.slv.lastP d.slv.lastT)

/-- Of two units in RESOLVING the preferred one claims; of two alike, the one with UNIT_ID 1. -/
abbrev Dev.ClaimsFirst (d : Dev) : Prop :=
  if d.flag F.SLV_STAT.PREFER = decide (d.slv.peerUnit / 2 = 1) then d.rd F.SLV_STAT.UNIT_ID = 1 else d.flag F.SLV_STAT.PREFER = true

/-- The two units are preferred alike. -/
theorem Dev.prefer_alike (h : d.flag F.SLV_STAT.PREFER = true ↔ d.slv.peerUnit / 2 = 1) :
    d.flag F.SLV_STAT.PREFER = decide (d.slv.peerUnit / 2 = 1) :=
  Bool.eq_iff_iff.mpr (h.trans decide_eq_true_iff.symm)

theorem Dev.claimsFirst_of (h : d.flag F.SLV_STAT.PREFER = true ∧ d.slv.peerUnit / 2 ≠ 1 ∨
    (d.flag F.SLV_STAT.PREFER = true ↔ d.slv.peerUnit / 2 = 1) ∧ d.rd F.SLV_STAT.UNIT_ID = 1) : d.ClaimsFirst := by
  rcases h with ⟨hmine, htheirs⟩ | ⟨hsame, hid⟩
  · simp [Dev.ClaimsFirst, hmine, htheirs]
  · rwa [Dev.ClaimsFirst, if_pos (Dev.prefer_alike hsame)]

theorem Dev.not_claimsFirst_of (h : d.flag F.SLV_STAT.PREFER = false ∧ d.slv.peerUnit / 2 = 1 ∨
    (d.flag F.SLV_STAT.PREFER = true ↔ d.slv.peerUnit / 2 = 1) ∧ d.rd F.SLV_STAT.UNIT_ID ≠ 1) : ¬d.ClaimsFirst := by
  rcases h with ⟨hmine, htheirs⟩ | ⟨hsame, hid⟩
  · simp [Dev.ClaimsFirst, hmine, htheirs]
  · rwa [Dev.ClaimsFirst, if_pos (Dev.prefer_alike hsame)]

section
variable (hrole : d.role = Pr.resolving) (hstage : 6 ≤ d.rd F.BOOT_STAT.STAGE) (hclaiming : d.slv.claiming = false)
  (hconflict : d.slv.conflict = false)
include hrole hstage hclaiming hconflict

/-- The rows of role resolution, from the first one on. -/
theorem Dev.resolve_rows :
    d.resolve =
      if d.peerHeard && (d.rd F.SLV_STAT.PEER_ROLE = Pr.active || d.rd F.SLV_STAT.PEER_ROLE = Pr.handing ||
        d.rd F.SLV_STAT.PEER_ROLE = Pr.claiming) then d.peerChosen
      else if (AMap.find d.slv.silentSince 0).any (fun t => decide (d.time.tb < t + 20000000)) then d
      else if d.draftTiles.any (fun t => d.linkUp t && d.claimHeld t ≠ 0 && !d.flag (F.WEFT_STAT.HOLDER_SILENT t)) then
        (d.updSlv (fun s => { s with silentSince := [(0, d.time.tb)] })).slvEv 2 none
      else if d.peerHeard && d.rd F.SLV_STAT.PEER_ROLE = Pr.resolving then if d.ClaimsFirst then d.raiseClaim else d
      else if d.lastHeard + 20000000 ≤ d.time.tb then d.raiseClaim
      else d := by
  have hopen : ¬(d.role ≠ Pr.resolving || d.rd F.BOOT_STAT.STAGE < 6 || d.slv.claiming || d.slv.conflict) = true := by
    simp [hrole, hclaiming, hconflict, hstage]
  rw [Dev.resolve, if_neg hopen]
  rfl

theorem Dev.resolve_peerLeads (hheard : d.peerHeard = true) (h : d.rd F.SLV_STAT.PEER_ROLE = Pr.active ∨
    d.rd F.SLV_STAT.PEER_ROLE = Pr.handing ∨ d.rd F.SLV_STAT.PEER_ROLE = Pr.claiming) : d.resolve = d.peerChosen := by
  rw [Dev.resolve_rows hrole hstage hclaiming hconflict, if_pos (by simpa [hheard, or_assoc] using h)]

variable (hpeer : d.peerHeard = false ∨ d.rd F.SLV_STAT.PEER_ROLE ≠ Pr.active ∧ d.rd F.SLV_STAT.PEER_ROLE ≠ Pr.handing ∧
  d.rd F.SLV_STAT.PEER_ROLE ≠ Pr.claiming)
include hpeer

theorem Dev.resolve_noLeader :
    d.resolve =
      if (AMap.find d.slv.silentSince 0).any (fun t => decide (d.time.tb < t + 20000000)) then d
      else if d.draftTiles.any (fun t => d.linkUp t && d.claimHeld t ≠ 0 && !d.flag (F.WEFT_STAT.HOLDER_SILENT t)) then
        (d.updSlv (fun s => { s with silentSince := [(0, d.time.tb)] })).slvEv 2 none
      else if d.peerHeard && d.rd F.SLV_STAT.PEER_ROLE = Pr.resolving then if d.ClaimsFirst then d.raiseClaim else d
      else if d.lastHeard + 20000000 ≤ d.time.tb then d.raiseClaim
      else d := by
  have hnone : ¬(d.peerHeard && (d.rd F.SLV_STAT.PEER_ROLE = Pr.active || d.rd F.SLV_STAT.PEER_ROLE = Pr.handing ||
      d.rd F.SLV_STAT.PEER_ROLE = Pr.claiming)) = true := by
    rcases hpeer with h | ⟨hactive, hhanding, hclaims⟩
    · simp [h]
    · simp [hactive, hhanding, hclaims]
  rw [Dev.resolve_rows hrole hstage hclaiming hconflict, if_neg hnone]

theorem Dev.resolve_holderMet {t : Nat} (ht : AMap.find d.slv.silentSince 0 = some t) (h : d.time.tb < t + 20000000) : d.resolve = d := by
  rw [Dev.resolve_noLeader hrole hstage hclaiming hconflict hpeer, ht, Option.any_some, if_pos (decide_eq_true h)]

variable (hread : ∀ t, AMap.find d.slv.silentSince 0 = some t → t + 20000000 ≤ d.time.tb)
include hread

theorem Dev.resolve_read :
    d.resolve =
      if d.draftTiles.any (fun t => d.linkUp t && d.claimHeld t ≠ 0 && !d.flag (F.WEFT_STAT.HOLDER_SILENT t)) then
        (d.updSlv (fun s => { s with silentSince := [(0, d.time.tb)] })).slvEv 2 none
      else if d.peerHeard && d.rd F.SLV_STAT.PEER_ROLE = Pr.resolving then if d.ClaimsFirst then d.raiseClaim else d
      else if d.lastHeard + 20000000 ≤ d.time.tb then d.raiseClaim
      else d := by
  have hold : ((AMap.find d.slv.silentSince 0).any (fun t => decide (d.time.tb < t + 20000000))) = false := by
    simpa [Option.any_eq_false] using hread
  rw [Dev.resolve_noLeader hrole hstage hclaiming hconflict hpeer, if_neg (ne_true_of_eq_false hold)]

theorem Dev.resolve_holder (h : ∃ t ∈ d.draftTiles, d.linkUp t = true ∧ d.claimHeld t ≠ 0 ∧ d.flag (F.WEFT_STAT.HOLDER_SILENT t) = false) :
    d.resolve = (d.updSlv (fun s => { s with silentSince := [(0, d.time.tb)] })).slvEv 2 none := by
  rw [Dev.resolve_read hrole hstage hclaiming hconflict hpeer hread, if_pos (by simpa [and_assoc] using h)]

variable (hfree : ∀ t ∈ d.draftTiles, d.linkUp t = false ∨ d.claimHeld t = 0 ∨ d.flag (F.WEFT_STAT.HOLDER_SILENT t) = true)
include hfree

theorem Dev.resolve_noHolder :
    d.resolve =
      if d.peerHeard && d.rd F.SLV_STAT.PEER_ROLE = Pr.resolving then if d.ClaimsFirst then d.raiseClaim else d
      else if d.lastHeard + 20000000 ≤ d.time.tb then d.raiseClaim
      else d := by
  have hnone : (d.draftTiles.any (fun t => d.linkUp t && d.claimHeld t ≠ 0 && !d.flag (F.WEFT_STAT.HOLDER_SILENT t))) = false := by
    rw [List.any_eq_false]
    intro t ht
    rcases hfree t ht with h | h | h <;> simp [h]
  rw [Dev.resolve_read hrole hstage hclaiming hconflict hpeer hread, if_neg (ne_true_of_eq_false hnone)]

theorem Dev.resolve_tie (hheard : d.peerHeard = true) (hpr : d.rd F.SLV_STAT.PEER_ROLE = Pr.resolving) :
    d.resolve = if d.ClaimsFirst then d.raiseClaim else d := by
  rw [Dev.resolve_noHolder hrole hstage hclaiming hconflict hpeer hread hfree, if_pos (by simp [hheard, hpr])]

theorem Dev.resolve_alone (h : d.peerHeard = false ∨ d.rd F.SLV_STAT.PEER_ROLE ≠ Pr.resolving) :
    d.resolve = if d.lastHeard + 20000000 ≤ d.time.tb then d.raiseClaim else d := by
  rw [Dev.resolve_noHolder hrole hstage hclaiming hconflict hpeer hread hfree, if_neg (by rcases h with h | h <;> simp [h])]
end

theorem Dev.reread_resolved (h : d.role ≠ Pr.resolving) : d.reread = d := if_pos h

theorem Dev.reread_due {t : Nat} (h : d.role = Pr.resolving) (ht : t = (AMap.find d.slv.silentSince 0).getD d.lastHeard)
    (hdue : d.before (t + 20000000) = true) : d.reread = (d.wait (t + 20000000)).resolve := by
  subst ht
  rw [Dev.reread, if_neg (not_not_intro h)]
  exact Dev.fire_of_before _ hdue

/-! ## Failover and take-back (R352, R355) -/

theorem Dev.failover_claims (hrole : d.role = Pr.standby) (h : d.failoverHolds = true) :
    d.failover = d.updSlv (fun s => { s with toClaim := 1 }) :=
  if_pos (by simp [hrole, h])

theorem Dev.failover_idle (h : d.role ≠ Pr.standby ∨ d.failoverHolds = false) : d.failover = d :=
  if_neg (by rcases h with h | h <;> simp [h])

theorem Dev.takebackRequest_asks (hrole : d.role = Pr.standby) (hprefer : d.flag F.SLV_STAT.PREFER = true)
    (hen : d.flag F.SLV_CFG.TAKEBACK_EN = true) (hpeer : d.slv.peerUnit / 2 = 0) (hholds : d.takebackHolds = true)
    (hhealthy : d.healthy = true) : d.takebackRequest = d.updSlv (fun s => { s with wantTb := true }) :=
  if_pos (by simp [hrole, hprefer, hen, hpeer, hholds, hhealthy])

theorem Dev.takebackRequest_idle (h : d.role ≠ Pr.standby ∨ d.flag F.SLV_STAT.PREFER = false ∨ d.flag F.SLV_CFG.TAKEBACK_EN = false ∨
    d.slv.peerUnit / 2 ≠ 0 ∨ d.takebackHolds = false ∨ d.healthy = false) : d.takebackRequest = d :=
  if_neg (by rcases h with h | h | h | h | h | h <;> simp [h])

/-! ## Handover (R354, R356) -/

theorem Dev.linkHandover_idle (h : AMap.find d.slv.linkLostTb 0 = none ∨ d.linkHandHolds = false ∨ d.slv.handTb ≠ none) :
    d.linkHandover = d := by
  cases hfind : AMap.find d.slv.linkLostTb 0 with
  | none => simp only [Dev.linkHandover, hfind]
  | some t =>
    have hstop : (!d.linkHandHolds || d.slv.handTb.isSome) = true := by
      rcases h with h | h | h
      · simp [h] at hfind
      · simp [h]
      · simp [Option.isSome_iff_ne_none.mpr h]
    simp only [Dev.linkHandover, hfind, if_pos hstop]

theorem Dev.linkHandover_due {t : Nat} (hfind : AMap.find d.slv.linkLostTb 0 = some t) (hholds : d.linkHandHolds = true)
    (hhand : d.slv.handTb = none) (hdue : d.before (t + 1000000 * max 1 (min 40 (d.rd F.SLV_TMO.LINK_HOLD_MS))) = true) :
    d.linkHandover = (d.wait (t + 1000000 * max 1 (min 40 (d.rd F.SLV_TMO.LINK_HOLD_MS)))).handStart none 0 := by
  simp only [Dev.linkHandover, hfind, hholds, hhand, Dev.fire_of_before _ hdue, Option.isSome_none, Bool.not_true, Bool.or_self,
    Bool.false_eq_true, if_false]

/-- The pick agreed for a handover: the first beat boundary at or after the lead. -/
def Dev.agreedPick (d : Dev) : Nat :=
  (d.pick.num + (if d.slv.lead = 0 then max 1 (d.rd F.SLV_TMO.HANDOVER_LEAD) else d.slv.lead) * 64 + 63) / 64 * 64

theorem Dev.handAgree_ready {e : Dev} (hactive : d.isActive = true) (hhand : d.slv.handTb.isSome = true) (hled : d.tilth.led = [])
    (hcal : d.cal.runs = []) (hcells : ∀ ca ∈ d.cell.aux, d.cellMode ca.1 ≠ Cm.cal) (hpieces : ∀ p ∈ d.cir.pieces, 2 ≤ p.phase)
    (he : e = d.discardPlans (fun _ => true) 5) :
    d.handAgree = ((({ e with tilth := { e.tilth with rsv := [] } }.wr F.SLV_STAT.ROLE Pr.handing).updSlv
      (fun s => { s with agreed := d.agreedPick, handTb := none })).setFlag F.SLV_STAT.HANDOVER true).slvEv 5 none := by
  subst he
  have hready : ¬(!d.isActive || d.slv.handTb.isNone || !d.tilth.led.isEmpty || !d.cal.runs.isEmpty ||
      d.cell.aux.any (fun (ca : Nat × CellAux) => d.cellMode ca.1 = Cm.cal) ||
      d.cir.pieces.any (fun (p : Piece) => decide (p.phase < 2))) = true := by
    have hset : d.slv.handTb.isNone = false := by simpa [Option.isNone_eq_false_iff] using hhand
    have hcal' : d.cell.aux.any (fun (ca : Nat × CellAux) => d.cellMode ca.1 = Cm.cal) = false := by
      rw [List.any_eq_false]
      exact fun ca hca => by simpa using hcells ca hca
    have hpieces' : d.cir.pieces.any (fun (p : Piece) => decide (p.phase < 2)) = false := by
      rw [List.any_eq_false]
      exact fun p hp => by simpa only [decide_eq_true_eq, not_lt] using hpieces p hp
    rw [hactive, hset, hled, hcal, hcal', hpieces']
    decide
  exact if_neg hready

theorem Dev.handAgree_waits (h : d.isActive = false ∨ d.slv.handTb = none ∨ d.tilth.led ≠ [] ∨ d.cal.runs ≠ [] ∨
    (∃ ca ∈ d.cell.aux, d.cellMode ca.1 = Cm.cal) ∨ ∃ p ∈ d.cir.pieces, p.phase < 2) : d.handAgree = d := by
  have hwait : (!d.isActive || d.slv.handTb.isNone || !d.tilth.led.isEmpty || !d.cal.runs.isEmpty ||
      d.cell.aux.any (fun (ca : Nat × CellAux) => d.cellMode ca.1 = Cm.cal) ||
      d.cir.pieces.any (fun (p : Piece) => decide (p.phase < 2))) = true := by
    simpa only [Bool.or_eq_true, Bool.not_eq_true', Option.isNone_iff_eq_none, List.isEmpty_eq_false_iff, List.any_eq_true,
      decide_eq_true_eq, or_assoc] using h
  exact if_pos hwait

theorem Dev.handDecline_none (h : d.slv.handTb = none) : d.handDecline = d := by simp only [Dev.handDecline, h]

theorem Dev.handDecline_due {e w : Dev} {t : Nat} (h : d.slv.handTb = some t) (hdue : d.before (t + 1000000000) = true)
    (he : e = (d.wait (t + 1000000000)).finishOpt (d.wait (t + 1000000000)).slv.handItem St.aborted [])
    (hw : w = e.updSlv (fun s => { s with handTb := none, handItem := none })) :
    d.handDecline = ({ w with tilth := { w.tilth with stopped := false } }.bump F.SLV_CNT_D.DECLINED 1).slvEv 6 none := by
  subst hw he
  simp only [Dev.handDecline, h, Dev.fire_of_before _ hdue]
end

/-- Settles O56: role resolution by its rows in order, each later command by its conditions. -/
theorem rolesAct : Obligations.RolesAct := by
  refine ⟨?resolved, ?waits, ?rows, ?reread, fun s hruns h => ?rereadIdle, ?standby, fun s hruns h => ⟨?failoverIdle, ?takebackIdle⟩,
    fun s hruns h => ?linkIdle, ?link, ?agree, ?agreeWaits, fun s hruns h => ?declineIdle, ?decline⟩
  case resolved =>
    rintro s d rfl hruns h
    rw [exec_roleResolution hruns, Dev.resolve_resolved h, Dev.afterRole_self, State.put_dev]
  case waits =>
    rintro s d rfl hruns - h
    rw [exec_roleResolution hruns, Dev.resolve_waits h, Dev.afterRole_self, State.put_dev]
  case rows =>
    rintro s d heard pr last rfl hruns hrole hstage hclaiming hconflict rfl rfl rfl
    have hself : s.dev.resolve = s.dev → exec .roleResolution s = .next s := fun h => by
      rw [exec_roleResolution hruns, h, Dev.afterRole_self, State.put_dev]
    have hexec : exec .roleResolution s = .next (s.put (s.dev.resolve.afterRole Pr.resolving)) := by rw [exec_roleResolution hruns, hrole]
    refine ⟨fun hheard hpr => ?leads, fun hpeer => ⟨fun t ht hlt => ?met, fun hread => ⟨fun h => ?holder, fun hfree =>
      ⟨fun hheard hpr h => ?first, fun hheard hpr h => ?second, fun h hlast => ?claims, fun h hlast => ?listens⟩⟩⟩⟩
    case leads => rw [hexec, Dev.resolve_peerLeads hrole hstage hclaiming hconflict hheard hpr]
    case met => exact hself (Dev.resolve_holderMet hrole hstage hclaiming hconflict hpeer ht hlt)
    case holder => rw [hexec, Dev.resolve_holder hrole hstage hclaiming hconflict hpeer hread h]
    case first =>
      rw [hexec, Dev.resolve_tie hrole hstage hclaiming hconflict hpeer hread hfree hheard hpr, if_pos (Dev.claimsFirst_of h)]
    case second =>
      refine hself ?_
      rw [Dev.resolve_tie hrole hstage hclaiming hconflict hpeer hread hfree hheard hpr,
        if_neg (Dev.not_claimsFirst_of h)]
    case claims => rw [hexec, Dev.resolve_alone hrole hstage hclaiming hconflict hpeer hread hfree h,
      if_pos (show s.dev.lastHeard + 20000000 ≤ s.dev.time.tb from hlast)]
    case listens =>
      refine hself ?_
      rw [Dev.resolve_alone hrole hstage hclaiming hconflict hpeer hread hfree h,
        if_neg (show ¬s.dev.lastHeard + 20000000 ≤ s.dev.time.tb from Nat.not_le.mpr hlast)]
  case reread =>
    rintro s d t rfl hruns hrole ht hdue
    rw [exec_resolutionReread hruns, Dev.reread_due hrole ht hdue, hrole]
  case rereadIdle => rw [exec_resolutionReread hruns, Dev.reread_resolved h, Dev.afterRole_self, State.put_dev]
  case standby =>
    rintro s d rfl hruns hrole
    refine ⟨fun h => ?holds, fun h => ?idle, fun hprefer hen hpeer hholds hhealthy => ?asks, fun h => ?asksNot⟩
    case holds => rw [exec_failover hruns, Dev.failover_claims hrole h]
    case idle => rw [exec_failover hruns, Dev.failover_idle (.inr h), State.put_dev]
    case asks => rw [exec_takebackRequest hruns, Dev.takebackRequest_asks hrole hprefer hen hpeer hholds hhealthy]
    case asksNot => rw [exec_takebackRequest hruns, Dev.takebackRequest_idle (.inr h), State.put_dev]
  case failoverIdle => rw [exec_failover hruns, Dev.failover_idle (.inl h), State.put_dev]
  case takebackIdle => rw [exec_takebackRequest hruns, Dev.takebackRequest_idle (.inl h), State.put_dev]
  case linkIdle => rw [exec_linkHandover hruns, Dev.linkHandover_idle h, State.put_dev]
  case link =>
    rintro s d t rfl hruns hfind hholds hhand hdue
    rw [exec_linkHandover hruns, Dev.linkHandover_due hfind hholds hhand hdue]
  case agree =>
    rintro s d e lead a rfl hruns hactive hhand hled hcal hcells hpieces rfl rfl he
    rw [exec_handoverAgree hruns, Dev.handAgree_ready hactive hhand hled hcal hcells hpieces he, Dev.agreedPick]
  case agreeWaits =>
    rintro s d rfl hruns h
    rw [exec_handoverAgree hruns, Dev.handAgree_waits h, State.put_dev]
  case declineIdle => rw [exec_handoverDecline hruns, Dev.handDecline_none h, State.put_dev]
  case decline =>
    rintro s d e w t rfl hruns h hdue he hw
    rw [exec_handoverDecline hruns, Dev.handDecline_due h hdue he hw]

end Sys2Proof.Machine
end

