-- ==== Sys2Proof/Proofs/EventGrants.lean ====
section
/-! PROOFS. What granting an occurrence and leaving a fault state do to a source (R369, R370, R372, R373). -/

namespace Sys2Proof.Machine
open Sys2Proof

/-! ## What the occurrences that are counted leave of a block's sources -/

/-- From `d` to `e`, the occurrences that wait on block `b` only grew, and its rotation, the pending records, and its fault state are the
same. -/
structure EvKept (b : Nat) (d e : Dev) : Prop where
  waiting : ∃ more, AMap.get e.ev.waiting b [] = AMap.get d.ev.waiting b [] ++ more
  rot : e.ev.rot = d.ev.rot
  pend : e.ev.pend = d.ev.pend
  src : e.ev.src = d.ev.src
  active : ∀ inj, e.rd (fActive b inj) = d.rd (fActive b inj)
  unack : ∀ inj, e.rd (fUnack b inj) = d.rd (fUnack b inj)

section
variable {b : Nat} {d e w : Dev}

theorem EvKept.refl (d : Dev) : EvKept b d d := ⟨⟨[], by simp⟩, rfl, rfl, rfl, fun _ => rfl, fun _ => rfl⟩

theorem EvKept.trans (h : EvKept b d e) (k : EvKept b e w) : EvKept b d w := by
  obtain ⟨more, hmore⟩ := h.waiting
  obtain ⟨rest, hrest⟩ := k.waiting
  refine ⟨⟨more ++ rest, ?_⟩, k.rot.trans h.rot, k.pend.trans h.pend, k.src.trans h.src, fun inj => (k.active inj).trans (h.active inj),
    fun inj => (k.unack inj).trans (h.unack inj)⟩
  rw [hrest, hmore, List.append_assoc]

/-- What leaves the events and the registers leaves the sources. -/
theorem EvKept.of_mem (hev : e.ev = d.ev) (hmem : e.mem = d.mem) : EvKept b d e :=
  ⟨⟨[], by rw [hev, List.append_nil]⟩, by rw [hev], by rw [hev], by rw [hev], fun _ => Dev.rd_of_mem _ _ _ hmem,
    fun _ => Dev.rd_of_mem _ _ _ hmem⟩

/-- The same from a device with the same events and registers. -/
theorem EvKept.of_base (h : EvKept b w e) (hev : w.ev = d.ev) (hmem : w.mem = d.mem) : EvKept b d e :=
  (EvKept.of_mem hev hmem).trans h

/-- A write of another field leaves them. -/
theorem EvKept.wr (d : Dev) {f : Fld} (v : Nat) (ha : ∀ inj, (fActive b inj).key ≠ f.key) (hu : ∀ inj, (fUnack b inj).key ≠ f.key) :
    EvKept b d (d.wr f v) :=
  ⟨⟨[], by simp⟩, rfl, rfl, rfl, fun inj => Dev.rd_wr_ne _ _ _ _ (ha inj), fun inj => Dev.rd_wr_ne _ _ _ _ (hu inj)⟩

theorem EvKept.raise (d : Dev) (block src obj val : Nat) : EvKept b d (d.raise block src obj val) := by
  refine ⟨?_, rfl, rfl, rfl, fun _ => rfl, fun _ => rfl⟩
  by_cases h : b = block
  · subst h
    exact ⟨_, AMap.get_put_self _ _ _ _⟩
  · exact ⟨[], by rw [List.append_nil]; exact AMap.get_put_ne _ _ _ _ _ h⟩

theorem EvKept.addCtrs (d : Dev) (sel : Ctr → Bool) (n : Nat) : EvKept b d (d.addCtrs sel n) := by
  unfold Dev.addCtrs
  generalize d.perf.ctrs = l
  induction l generalizing d with
  | nil => exact EvKept.refl d
  | cons kc l ih =>
    rw [List.foldl_cons]
    refine EvKept.trans ?_ (ih _)
    split
    · dsimp only
      split
      · exact (EvKept.raise _ _ _ _ _).of_base rfl rfl
      · exact EvKept.of_mem rfl rfl
    · exact EvKept.refl d

theorem EvKept.countQ (d : Dev) (num inst : Nat) : EvKept b d (d.countQ num inst) := by
  rw [Dev.countQ, Dev.countN]
  exact EvKept.addCtrs _ _ _

theorem EvKept.signal (d : Dev) (sig : Nat) (high : Bool) : EvKept b d (d.signal sig high) := by
  unfold Dev.signal
  dsimp only
  split
  · exact EvKept.refl d
  · exact (EvKept.addCtrs d _ 1).trans (EvKept.of_mem rfl rfl)

theorem EvKept.alertPin (d : Dev) : EvKept b d d.alertPin := EvKept.signal _ _ _

theorem EvKept.logLoam (d : Dev) (r : EvRec) : EvKept b d (d.logLoam r) := by
  rw [Dev.logLoam]
  have hlog : EvKept b d { d with ev := { d.ev with log := keepLast 8388608 (d.ev.log ++ [r]), logNext := d.ev.logNext + 1 } } :=
    ⟨⟨[], by simp⟩, rfl, rfl, rfl, fun _ => rfl, fun _ => rfl⟩
  dsimp only
  split
  · exact hlog.trans (EvKept.raise _ _ _ _ _)
  · exact hlog

theorem EvKept.logMarl (d : Dev) (r : EvRec) : EvKept b d (d.logMarl r) := EvKept.of_mem rfl rfl

theorem EvKept.faultCell (d : Dev) (c cause : Nat) : EvKept b d (d.faultCell c cause) := EvKept.of_mem rfl rfl

theorem EvKept.undoCells (d : Dev) (cells : List Nat) (cause : Nat) : EvKept b d (d.undoCells cells cause) := by
  unfold Dev.undoCells forEach
  induction cells generalizing d with
  | nil => exact EvKept.refl d
  | cons c cells ih =>
    rw [List.foldl_cons]
    refine EvKept.trans ?_ (ih _)
    dsimp only
    split
    · exact EvKept.of_mem rfl rfl
    · exact EvKept.refl d

theorem EvKept.tilthTileFault (d : Dev) (t : Nat) : EvKept b d (d.tilthTileFault t) := by
  rw [Dev.tilthTileFault]
  dsimp only
  split
  · exact (EvKept.undoCells _ _ _).of_base rfl rfl
  · exact EvKept.of_mem rfl rfl

theorem EvKept.isActiveSrc (h : EvKept b d e) (s : Nat) (inj : Bool) : e.isActiveSrc b s inj = d.isActiveSrc b s inj := by
  rw [Dev.isActiveSrc, Dev.isActiveSrc, h.active]
theorem EvKept.isUnack (h : EvKept b d e) (s : Nat) (inj : Bool) : e.isUnack b s inj = d.isUnack b s inj := by
  rw [Dev.isUnack, Dev.isUnack, h.unack]
theorem EvKept.pendRec (h : EvKept b d e) (s : Nat) (inj : Bool) : e.pendRec b s inj = d.pendRec b s inj := by
  rw [Dev.pendRec, Dev.pendRec, h.pend]
theorem EvKept.srcS (h : EvKept b d e) (s : Nat) (inj : Bool) : e.srcS b s inj = d.srcS b s inj := by
  rw [Dev.srcS, Dev.srcS, h.src]
end

/-! ## Fields of other words -/

/-- The word of a key. -/
theorem Fld.key_div {f : Fld} (h : f.lo < 32) : f.key / 32 = f.addr := by
  rw [Fld.key]
  omega

theorem fActive_addr (b : Nat) (inj : Bool) : (fActive b inj).addr = 0x10000 * b + (if inj then 4 else 0) ∧ (fActive b inj).lo = 0 := by
  cases inj <;> simp [fActive, Nat.add_comm]

theorem fUnack_addr (b : Nat) (inj : Bool) : (fUnack b inj).addr = 0x10000 * b + (if inj then 4 else 0) ∧ (fUnack b inj).lo = 16 := by
  cases inj <;> simp [fUnack, Nat.add_comm]

/-- The fault state of a block stands in the first two words of its page. -/
theorem fault_key_ne {b : Nat} {f : Fld} (h : 0x10000 * b + 8 ≤ f.addr) (inj : Bool) :
    (fActive b inj).key ≠ f.key ∧ (fUnack b inj).key ≠ f.key := by
  obtain ⟨haddr, hlo⟩ := fActive_addr b inj
  obtain ⟨huaddr, hulo⟩ := fUnack_addr b inj
  rw [Fld.key, Fld.key, Fld.key, haddr, hlo, huaddr, hulo]
  cases inj
  · simp only [Bool.false_eq_true, if_false]
    omega
  · simp only [if_true]
    omega

/-- A word of a block's page past the first two. -/
theorem le_page {b c : Nat} (hc : 8 ≤ c) : 0x10000 * b + 8 ≤ c + 0x10000 * b := by omega

theorem EvKept.wr_page {b : Nat} (d : Dev) {f : Fld} (v : Nat) (h : 0x10000 * b + 8 ≤ f.addr) : EvKept b d (d.wr f v) :=
  EvKept.wr d v (fun inj => (fault_key_ne h inj).1) (fun inj => (fault_key_ne h inj).2)

theorem EvKept.bump_page {b : Nat} (d : Dev) {f : Fld} (n : Nat) (h : 0x10000 * b + 8 ≤ f.addr) : EvKept b d (d.bump f n) :=
  EvKept.wr_page d _ h

theorem fActive_key_ne_fUnack (b : Nat) (i j : Bool) : (fActive b i).key ≠ (fUnack b j).key := by
  obtain ⟨haddr, hlo⟩ := fActive_addr b i
  obtain ⟨huaddr, hulo⟩ := fUnack_addr b j
  rw [Fld.key, Fld.key, haddr, hlo, huaddr, hulo]
  omega

/-! ## A bit of a fault state -/

theorem bit_mod {v n w : Nat} (h : n < w) : bit (v % 2 ^ w) n = bit v n := by
  rw [bit_eq_testBit, bit_eq_testBit, Nat.testBit_mod_two_pow, decide_eq_true h, Bool.true_and]

section
variable (d : Dev) (b s : Nat) (inj v : Bool)

/-- A source enters or leaves the fault state, with its acknowledgement. -/
def Dev.faultBit : Dev :=
  (d.wr (fActive b inj) (putBit (d.rd (fActive b inj)) s v)).wr (fUnack b inj) (putBit (d.rd (fUnack b inj)) s v)

variable {s} (hs : s < 16)
include hs

theorem Dev.isActiveSrc_faultBit : (d.faultBit b s inj v).isActiveSrc b s inj = v := by
  rw [Dev.isActiveSrc, Dev.faultBit, Dev.rd_wr_ne _ _ _ _ (fActive_key_ne_fUnack b inj inj), Dev.rd_wr_self]
  have hwidth : (fActive b inj).hi - (fActive b inj).lo + 1 = 16 := by cases inj <;> rfl
  rw [hwidth, bit_mod hs, bit_putBit_self]

theorem Dev.isUnack_faultBit : (d.faultBit b s inj v).isUnack b s inj = v := by
  rw [Dev.isUnack, Dev.faultBit, Dev.rd_wr_self]
  have hwidth : (fUnack b inj).hi - (fUnack b inj).lo + 1 = 16 := by cases inj <;> rfl
  rw [hwidth, bit_mod hs, bit_putBit_self]
end

/-! ## The record of an occurrence (R376) -/

section
variable (d : Dev) (b : Nat) (o : Occ) (l : Nat) (esc : Bool)

theorem EvRec.isOf_join (r : EvRec) (s l obj val sent : Nat) (inj esc : Bool) :
    (r.join l esc obj val sent).isOf b s inj = r.isOf b s inj := rfl

theorem Dev.countCoal_ev (s : Nat) : (d.countCoal b s l).ev = d.ev := by
  rw [Dev.countCoal]
  split <;> rfl

/-- A granted occurrence leaves a pending record of its source. -/
theorem Dev.pendRec_record : ((d.record b o l esc).pendRec b o.src o.inj).isSome = true := by
  cases hpend : d.pendRec b o.src o.inj with
  | some r =>
    rw [Dev.pendRec] at hpend
    simp only [Dev.record, Dev.pendRec, hpend, Dev.countCoal_ev]
    rw [List.find?_map, Option.isSome_map]
    refine (congrArg (fun p => (d.ev.pend.find? p).isSome) (funext fun r => ?_)).trans (by rw [hpend]; rfl)
    dsimp only [Function.comp_apply]
    split
    · exact EvRec.isOf_join b r _ _ _ _ _ _ _
    · rfl
  | none =>
    simp only [Dev.record, hpend]
    rw [Dev.pendRec] at hpend
    simp only [Dev.pendRec, List.find?_append, hpend, Option.none_or]
    simp [EvRec.isOf]

theorem Dev.record_waiting : (d.record b o l esc).ev.waiting = d.ev.waiting ∧ (d.record b o l esc).ev.rot = d.ev.rot := by
  cases hpend : d.pendRec b o.src o.inj <;> simp only [Dev.record, hpend, Dev.countCoal_ev, and_self]
end

section
variable (d : Dev) (b s : Nat) (inj : Bool) (l : Nat)

theorem Dev.putLevel_ev : (d.putLevel b s inj l).ev = (d.updSrc b s inj (fun x => { x with lvl := l })).ev := by
  rw [Dev.putLevel]
  cases inj
  · by_cases h : s < 8 <;> simp [h]
  · rfl

theorem Dev.srcS_updSrc (f : SrcS → SrcS) : (d.updSrc b s inj f).srcS b s inj = f (d.srcS b s inj) := by
  rw [Dev.srcS, Dev.updSrc, AMap.get_set_self]

theorem Dev.srcS_putLevel : ((d.putLevel b s inj l).srcS b s inj).lvl = l := by
  rw [Dev.srcS, Dev.putLevel_ev]
  exact congrArg SrcS.lvl (d.srcS_updSrc b s inj _)
end

/-! ## Granting (R373) -/

/-- The occurrence as it is granted: VALUE of class LNK counts those since the last record (R366). -/
def Dev.asGranted (d : Dev) (b : Nat) (o : Occ) : Occ :=
  if (evClass b o.src).1 = 4 && !o.inj then { o with val := ((d.pendRec b o.src false).map (fun (r : EvRec) => r.count)).getD 0 + 1 } else o

theorem Dev.asGranted_src (d : Dev) (b : Nat) (o : Occ) : (d.asGranted b o).src = o.src ∧ (d.asGranted b o).inj = o.inj := by
  rw [Dev.asGranted]
  split <;> exact ⟨rfl, rfl⟩

/-- The occurrence of source `s` is recorded, its level and its fault state set. -/
def Dev.grantMarked (d : Dev) (b s : Nat) (o : Occ) (l : Nat) (esc : Bool) : Dev :=
  let was := (d.srcS b s o.inj).lvl
  ((((d.record b o l esc).putLevel b s o.inj (if was = 7 then l else max l was)).faultBit b s o.inj true)).updSrc b s o.inj (fun x =>
    { x with
      quietFrom := ((d.record b o l esc).putLevel b s o.inj (if was = 7 then l else max l was)).time.tb
      obj := o.obj
      val := o.val })

/-- An injected occurrence is counted; the cell it names faults. -/
def Dev.grantInjected (d : Dev) (b s : Nat) (o : Occ) : Dev :=
  let d := (d.bump (F.EV_INJ_CNT.INJECTED b) 1).countQ 0x75 b
  let c := cellNo (o.obj / 65536 % 65536) (o.obj / 4096 % 16) (o.obj / 4 % 1024)
  if b = 0x0C && s = 0 && o.obj / 4096 % 16 < 15 && o.obj / 4 % 1024 < 256 && o.obj / 65536 < 16 &&
      d.tileRole (o.obj / 65536) ≠ 0 && d.controls && d.tileMode (o.obj / 65536) ≠ Tm.offline then d.faultCell c 4 else d

/-- The first-fault record takes the occurrence (R368). -/
def Dev.firstFault (d : Dev) (b s : Nat) (o : Occ) (l : Nat) : Dev :=
  if d.flag (F.EV_FIRST.VALID b) then d
  else
    let d := (((d.wr (F.EV_FIRST.SOURCE b) s).wr (F.EV_FIRST.SEV b) l).wr (F.EV_FIRST.VALID b) 1).wr (F.EV_FIRST.CLASS b) (evClass b s).1
    let d := { d.wr (F.EV_FIRST_PICK_LO.PICK b) o.pick with ev := { d.ev with firstHi := AMap.set d.ev.firstHi b (o.pick / 2 ^ 32) 0 } }
    (d.wr (F.EV_FIRST_OBJ.OBJECT b) o.obj).wr (F.EV_FIRST_VAL.VALUE b) o.val

/-- A real occurrence is counted, reaches Tilth, the first-fault record and the logs. -/
def Dev.grantReal (d : Dev) (b s : Nat) (o : Occ) (l : Nat) (esc : Bool) : Dev :=
  let d := (d.bump (F.EV_COUNT.OCCUR b s) 1).countQ (0x70 + l) b
  let d := if 0x0D ≤ b && b < 0x1D && 2 ≤ l then d.tilthTileFault (b - 0x0D) else d
  let d := d.firstFault b s o l
  if 3 ≤ l then
    let r : EvRec := { block := b, src := s, sev := l, coal := false, recov := false, esc := esc, inj := false, cls := (evClass b s).1
                       count := 1, pick := o.pick, time := o.time, obj := o.obj, val := o.val, since := d.time.tb, hold := 0 }
    (d.logLoam r).logMarl r
  else d

/-- Granting in its stages. -/
theorem Dev.grantOcc_eq (d : Dev) (b : Nat) (o : Occ) :
    d.grantOcc b o =
      (let x := d.asGranted b o
       let l := d.levelOf b x
       let esc := decide (x.sev.getD (evClass b o.src).2 < l)
       let e := d.grantMarked b o.src x l esc
       (if x.inj then e.grantInjected b o.src x else e.grantReal b o.src x l esc).alertPin) := rfl

section
variable (d : Dev) (b s : Nat) (o : Occ) (l : Nat) (esc : Bool)

theorem EvKept.grantInjected : EvKept b d (d.grantInjected b s o) := by
  have hcount : EvKept b d ((d.bump (F.EV_INJ_CNT.INJECTED b) 1).countQ 0x75 b) :=
    (EvKept.bump_page d 1 (le_page (by decide))).trans (EvKept.countQ _ _ _)
  rw [Dev.grantInjected]
  split
  · exact hcount.trans (EvKept.faultCell _ _ _)
  · exact hcount

theorem EvKept.firstFault : EvKept b d (d.firstFault b s o l) := by
  rw [Dev.firstFault]
  split
  · exact EvKept.refl d
  · have hhead : EvKept b d
        ((((d.wr (F.EV_FIRST.SOURCE b) s).wr (F.EV_FIRST.SEV b) l).wr (F.EV_FIRST.VALID b) 1).wr (F.EV_FIRST.CLASS b) (evClass b s).1) :=
      (EvKept.wr_page d s (le_page (by decide))).trans ((EvKept.wr_page _ l (le_page (by decide))).trans
        ((EvKept.wr_page _ 1 (le_page (by decide))).trans (EvKept.wr_page _ _ (le_page (by decide)))))
    refine hhead.trans ?_
    generalize (((d.wr (F.EV_FIRST.SOURCE b) s).wr (F.EV_FIRST.SEV b) l).wr (F.EV_FIRST.VALID b) 1).wr (F.EV_FIRST.CLASS b) (evClass b s).1 = e
    have hpick : EvKept b e { e.wr (F.EV_FIRST_PICK_LO.PICK b) o.pick with
        ev := { e.ev with firstHi := AMap.set e.ev.firstHi b (o.pick / 2 ^ 32) 0 } } :=
      (EvKept.wr_page e o.pick (le_page (by decide))).trans ⟨⟨[], by simp⟩, rfl, rfl, rfl, fun _ => rfl, fun _ => rfl⟩
    exact hpick.trans ((EvKept.wr_page _ _ (le_page (by decide))).trans (EvKept.wr_page _ _ (le_page (by decide))))

theorem EvKept.grantReal : EvKept b d (d.grantReal b s o l esc) := by
  have hcount : EvKept b d ((d.bump (F.EV_COUNT.OCCUR b s) 1).countQ (0x70 + l) b) :=
    (EvKept.bump_page d 1 ((le_page (by decide)).trans (Nat.le_add_right _ _))).trans (EvKept.countQ _ _ _)
  rw [Dev.grantReal]
  refine hcount.trans ?_
  generalize (d.bump (F.EV_COUNT.OCCUR b s) 1).countQ (0x70 + l) b = e
  have htilth : EvKept b e (if 0x0D ≤ b && b < 0x1D && 2 ≤ l then e.tilthTileFault (b - 0x0D) else e) := by
    split
    · exact EvKept.tilthTileFault _ _
    · exact EvKept.refl e
  refine htilth.trans ?_
  generalize (if 0x0D ≤ b && b < 0x1D && 2 ≤ l then e.tilthTileFault (b - 0x0D) else e) = f
  split
  · exact (EvKept.firstFault f b s o l).trans ((EvKept.logLoam _ _).trans (EvKept.logMarl _ _))
  · exact EvKept.firstFault f b s o l

variable {s}

theorem Dev.isActiveSrc_grantMarked (hs : s < 16) : (d.grantMarked b s o l esc).isActiveSrc b s o.inj = true :=
  Dev.isActiveSrc_faultBit _ b o.inj true hs

theorem Dev.isUnack_grantMarked (hs : s < 16) : (d.grantMarked b s o l esc).isUnack b s o.inj = true :=
  Dev.isUnack_faultBit _ b o.inj true hs

theorem Dev.pendRec_grantMarked (ho : o.src = s) : ((d.grantMarked b s o l esc).pendRec b s o.inj).isSome = true := by
  subst ho
  have hpend : (d.grantMarked b o.src o l esc).ev.pend = (d.record b o l esc).ev.pend := by
    rw [Dev.grantMarked, Dev.updSrc, Dev.faultBit]
    dsimp only [Dev.wr_ev]
    rw [Dev.putLevel_ev]
    rfl
  rw [Dev.pendRec, hpend]
  exact d.pendRec_record b o l esc

theorem Dev.grantMarked_waiting :
    (d.grantMarked b s o l esc).ev.waiting = d.ev.waiting ∧ (d.grantMarked b s o l esc).ev.rot = d.ev.rot := by
  obtain ⟨hwaiting, hrot⟩ := d.record_waiting b o l esc
  rw [Dev.grantMarked, Dev.updSrc, Dev.faultBit]
  dsimp only [Dev.wr_ev]
  rw [Dev.putLevel_ev]
  exact ⟨hwaiting, hrot⟩
end

/-- A granted occurrence: its source is in the fault state and not acknowledged, and a record of it is pending; occurrences that the
counting raises may have joined those that wait. -/
theorem Dev.grantOcc_acts (d : Dev) (b : Nat) (o : Occ) (hs : o.src < 16) :
    (∃ more, AMap.get (d.grantOcc b o).ev.waiting b [] = AMap.get d.ev.waiting b [] ++ more) ∧ (d.grantOcc b o).ev.rot = d.ev.rot ∧
    (d.grantOcc b o).isActiveSrc b o.src o.inj = true ∧ (d.grantOcc b o).isUnack b o.src o.inj = true ∧
    ((d.grantOcc b o).pendRec b o.src o.inj).isSome = true := by
  rw [Dev.grantOcc_eq]
  dsimp only
  obtain ⟨hsrc, hinj⟩ := d.asGranted_src b o
  generalize d.asGranted b o = x at hsrc hinj
  generalize decide (x.sev.getD (evClass b o.src).2 < d.levelOf b x) = esc
  generalize d.levelOf b x = l
  have hkept : EvKept b (d.grantMarked b o.src x l esc)
      (if x.inj then (d.grantMarked b o.src x l esc).grantInjected b o.src x
        else (d.grantMarked b o.src x l esc).grantReal b o.src x l esc).alertPin := by
    refine EvKept.trans ?_ (EvKept.alertPin _)
    split
    · exact EvKept.grantInjected _ b o.src x
    · exact EvKept.grantReal _ b o.src x l esc
  obtain ⟨hwaiting, hrot⟩ := d.grantMarked_waiting b (s := o.src) x l esc
  rw [hkept.isActiveSrc, hkept.isUnack, hkept.pendRec, hkept.rot, hrot, ← hinj]
  refine ⟨?_, rfl, d.isActiveSrc_grantMarked b x l esc hs, d.isUnack_grantMarked b x l esc hs, d.pendRec_grantMarked b x l esc hsrc⟩
  rw [← hwaiting]
  exact hkept.waiting

/-! ## Leaving the fault state (R370) -/

section
variable (d : Dev) (b s : Nat) (inj : Bool)

/-- The boundary that has come finds the source's quiet period past. -/
def Dev.quietPast (d : Dev) (b s : Nat) (inj : Bool) : Prop :=
  (d.srcS b s inj).quietFrom + 1000000 * max 1 (d.rd (F.EV_QUIET.QUIET_MS b)) ≤ d.tbOf d.pick.num

theorem Dev.evRecover_stays (h : d.isActiveSrc b s inj = false ∨ inj = false ∧ d.heldSrc b s = true ∨ ¬d.quietPast b s inj) :
    d.evRecover b s inj = d := by
  refine if_pos ?_
  rcases h with h | ⟨hinj, h⟩ | h
  · simp [h]
  · simp [hinj, h]
  · rw [Bool.or_eq_true]
    exact .inr (decide_eq_true (not_le.mp h))

/-- The source has left the fault state, and a real one counts its recovery. -/
def Dev.recoverCounted (d : Dev) (b s : Nat) (inj : Bool) : Dev :=
  if inj then d.faultBit b s inj false else (d.faultBit b s inj false).bump (F.EV_COUNT.RECOVER b s) 1

/-- The record of a recovery. -/
def Dev.recoverRec (d : Dev) (b s : Nat) (inj : Bool) : EvRec :=
  let x := d.srcS b s inj
  let e := d.recoverCounted b s inj
  { block := b, src := s, sev := x.lvl, coal := false, recov := true, esc := false, inj := inj, cls := (evClass b s).1
    count := 0, pick := e.pick.num, time := e.ptpOf (d.tbOf d.pick.num), obj := x.obj, val := x.val, since := e.time.tb
    hold := match x.sent with
      | some (t, _) => if t + e.coalNs b ≤ e.time.tb then 0 else t + e.coalNs b
      | none => 0 }

/-- A recovery joins the pending record of its source, or is one of its own. -/
def Dev.recoverNoted (e : Dev) (b s : Nat) (inj : Bool) (r : EvRec) : Dev :=
  match e.pendRec b s inj with
  | some _ => { e with ev := { e.ev with pend := e.ev.pend.map (fun (q : EvRec) => if q.isOf b s inj then { q with recov := true } else q) } }
  | none => { e with ev := { e.ev with pend := e.ev.pend ++ [r] } }

/-- A recovery from level 3 or 4 of a real source goes to Marl. -/
def Dev.recoverLogged (e : Dev) (inj : Bool) (l : Nat) (r : EvRec) : Dev := if !inj && 3 ≤ l && l ≤ 4 then e.logMarl r else e

theorem Dev.evRecover_leaves (hstarted : d.pick.started = true) (hactive : d.isActiveSrc b s inj = true)
    (hheld : (d.srcS b s inj).held = false) (hsrc : inj = true ∨ d.heldSrc b s = false) (hquiet : d.quietPast b s inj) :
    d.evRecover b s inj =
      ((((d.recoverCounted b s inj).recoverNoted b s inj (d.recoverRec b s inj)).recoverLogged inj (d.srcS b s inj).lvl
        (d.recoverRec b s inj)).putLevel b s inj 7).alertPin := by
  have hends : ¬(!d.pick.started || !d.isActiveSrc b s inj || (d.srcS b s inj).held || (!inj && d.heldSrc b s) ||
      d.tbOf d.pick.num < (d.srcS b s inj).quietFrom + d.quietNs b) = true := by
    have hlate : ¬d.tbOf d.pick.num < (d.srcS b s inj).quietFrom + d.quietNs b := not_lt.mpr hquiet
    have hstands : (!inj && d.heldSrc b s) = false := by rcases hsrc with h | h <;> simp [h]
    simp [hstarted, hactive, hheld, hstands, hlate]
  exact if_neg hends

variable {s} (hs : s < 16)
include hs

theorem Dev.rd_putLevel (l : Nat) {f : Fld} (hlo : f.lo < 32) (h : f.addr < 0x10000 * b + 8 ∨ 0x10000 * b + 0x10 ≤ f.addr) :
    (d.putLevel b s inj l).rd f = d.rd f := by
  have hlow : s < 8 → f.key ≠ (F.EV_LEVEL_LO.LEVEL b s).key := fun hlt => by
    simp only [Fld.key, R.EV_LEVEL_LO]
    omega
  have hhigh : f.key ≠ (F.EV_LEVEL_HI.LEVEL b s).key := by
    simp only [Fld.key, R.EV_LEVEL_HI]
    omega
  rw [Dev.putLevel]
  split
  · rfl
  · split
    · exact Dev.rd_wr_ne _ _ _ _ (hlow ‹_›)
    · exact Dev.rd_wr_ne _ _ _ _ hhigh

theorem Dev.rd_putLevel_fault (l : Nat) (i : Bool) :
    (d.putLevel b s inj l).rd (fActive b i) = d.rd (fActive b i) ∧ (d.putLevel b s inj l).rd (fUnack b i) = d.rd (fUnack b i) := by
  obtain ⟨haddr, hlo⟩ := fActive_addr b i
  obtain ⟨huaddr, hulo⟩ := fUnack_addr b i
  have hoff : (if i then 4 else 0) < 8 := by cases i <;> decide
  exact ⟨d.rd_putLevel b inj hs l (by omega) (.inl (by omega)), d.rd_putLevel b inj hs l (by omega) (.inl (by omega))⟩
end

theorem fActive_key_ne (b : Nat) {i j : Bool} (h : i ≠ j) : (fActive b i).key ≠ (fActive b j).key ∧ (fActive b i).key ≠ (fUnack b j).key := by
  obtain ⟨haddr, hlo⟩ := fActive_addr b i
  obtain ⟨haddr', hlo'⟩ := fActive_addr b j
  refine ⟨?_, fActive_key_ne_fUnack b i j⟩
  rw [Fld.key, Fld.key, haddr, hlo, haddr', hlo']
  cases i <;> cases j <;> simp at h ⊢

section
variable (e : Dev) (b s : Nat) (inj : Bool) (r : EvRec)

theorem Dev.recoverNoted_mem : (e.recoverNoted b s inj r).mem = e.mem := by
  cases h : e.pendRec b s inj <;> simp only [Dev.recoverNoted, h]

theorem Dev.recoverLogged_mem (l : Nat) : (e.recoverLogged inj l r).mem = e.mem ∧ (e.recoverLogged inj l r).ev = e.ev := by
  rw [Dev.recoverLogged]
  split <;> exact ⟨rfl, rfl⟩

/-- The recovery stands in the pending record of its source. -/
theorem Dev.pendRec_recoverNoted (hof : r.isOf b s inj = true) (hrecov : r.recov = true) :
    ((e.recoverNoted b s inj r).pendRec b s inj).any (fun (q : EvRec) => q.recov) = true := by
  cases hpend : e.pendRec b s inj with
  | some q =>
    simp only [Dev.recoverNoted, hpend]
    rw [Dev.pendRec] at hpend
    simp only [Dev.pendRec, List.find?_map]
    have hsame : ((fun q : EvRec => q.isOf b s inj) ∘ fun (q : EvRec) => if q.isOf b s inj then { q with recov := true } else q) =
        fun q : EvRec => q.isOf b s inj := funext fun q => by
      dsimp only [Function.comp_apply]
      split <;> rfl
    rw [hsame, hpend, Option.map_some, if_pos (List.find?_some hpend)]
    rfl
  | none =>
    simp only [Dev.recoverNoted, hpend]
    rw [Dev.pendRec] at hpend
    simp only [Dev.pendRec, List.find?_append, hpend, Option.none_or, List.find?_cons, hof, Option.any_some, hrecov]
end

/-- A real source whose quiet period is past leaves its fault state: no longer active nor to be acknowledged, at level 7, its recovery
counted and recorded; the injected state of the source stays. -/
theorem Dev.evRecover_acts (d : Dev) (b : Nat) {s : Nat} (hs : s < 16) (hstarted : d.pick.started = true)
    (hactive : d.isActiveSrc b s false = true) (hheld : (d.srcS b s false).held = false) (hsrc : d.heldSrc b s = false)
    (hquiet : d.quietPast b s false) :
    (d.evRecover b s false).isActiveSrc b s false = false ∧ (d.evRecover b s false).isUnack b s false = false ∧
    ((d.evRecover b s false).srcS b s false).lvl = 7 ∧
    (d.evRecover b s false).rd (F.EV_COUNT.RECOVER b s) = min (d.rd (F.EV_COUNT.RECOVER b s) + 1) 65535 ∧
    ((d.evRecover b s false).pendRec b s false).any (fun (r : EvRec) => r.recov) = true ∧
    (d.evRecover b s false).isActiveSrc b s true = d.isActiveSrc b s true := by
  rw [d.evRecover_leaves b s false hstarted hactive hheld (.inr hsrc) hquiet]
  have hnotedMem := (d.recoverCounted b s false).recoverNoted_mem b s false (d.recoverRec b s false)
  have hpend := (d.recoverCounted b s false).pendRec_recoverNoted b s false (d.recoverRec b s false)
    (by simp [EvRec.isOf, Dev.recoverRec]) rfl
  generalize (d.recoverCounted b s false).recoverNoted b s false (d.recoverRec b s false) = noted at hnotedMem hpend
  obtain ⟨hmem, hev⟩ := noted.recoverLogged_mem false (d.recoverRec b s false) (d.srcS b s false).lvl
  rw [hnotedMem] at hmem
  rw [Dev.pendRec, ← hev] at hpend
  generalize noted.recoverLogged false (d.srcS b s false).lvl (d.recoverRec b s false) = e at hmem hpend
  have hkept : EvKept b (e.putLevel b s false 7) (e.putLevel b s false 7).alertPin := EvKept.alertPin _
  have hfault := fun i => e.rd_putLevel_fault b false hs 7 i
  have hcounted : ∀ f : Fld, e.rd f = (d.recoverCounted b s false).rd f := fun f => Dev.rd_of_mem _ _ _ hmem
  have hstate : ∀ i, (d.recoverCounted b s false).rd (fActive b i) = (d.faultBit b s false false).rd (fActive b i) ∧
      (d.recoverCounted b s false).rd (fUnack b i) = (d.faultBit b s false false).rd (fUnack b i) := fun i => by
    have h := fault_key_ne (b := b) (f := F.EV_COUNT.RECOVER b s) ((le_page (by decide)).trans (Nat.le_add_right _ _)) i
    exact ⟨Dev.rd_wr_ne _ _ _ _ h.1, Dev.rd_wr_ne _ _ _ _ h.2⟩
  refine ⟨?active, ?unack, ?level, ?counted, ?pending, ?injected⟩
  case active =>
    rw [hkept.isActiveSrc, Dev.isActiveSrc, (hfault false).1, hcounted, (hstate false).1]
    exact d.isActiveSrc_faultBit b false false hs
  case unack =>
    rw [hkept.isUnack, Dev.isUnack, (hfault false).2, hcounted, (hstate false).2]
    exact d.isUnack_faultBit b false false hs
  case level =>
    rw [hkept.srcS]
    exact e.srcS_putLevel b s false 7
  case counted =>
    have haddr : 0x10000 * b + 0x10 ≤ (F.EV_COUNT.RECOVER b s).addr := (show _ ≤ 0x40 + 0x10000 * b + 0x4 * s by omega)
    have hother := fun i => fault_key_ne (b := b) (f := F.EV_COUNT.RECOVER b s) ((le_page (by decide)).trans (Nat.le_add_right _ _)) i
    have hsame : (e.putLevel b s false 7).alertPin.rd (F.EV_COUNT.RECOVER b s) = e.rd (F.EV_COUNT.RECOVER b s) :=
      (Dev.rd_of_mem _ _ _ (Dev.signal_mem _ _ _)).trans (e.rd_putLevel b false hs 7 (show 16 < 32 by decide) (.inr haddr))
    have hbefore : (d.faultBit b s false false).rd (F.EV_COUNT.RECOVER b s) = d.rd (F.EV_COUNT.RECOVER b s) :=
      (Dev.rd_wr_ne _ _ _ _ (hother false).2.symm).trans (Dev.rd_wr_ne _ _ _ _ (hother false).1.symm)
    have hbump : (d.recoverCounted b s false).rd (F.EV_COUNT.RECOVER b s) = min (d.rd (F.EV_COUNT.RECOVER b s) + 1) 65535 % 65536 := by
      rw [← hbefore]
      exact Dev.rd_wr_self _ _ _
    rw [hsame, hcounted, hbump]
    exact Nat.mod_eq_of_lt (by omega)
  case pending =>
    have hlevel : (e.putLevel b s false 7).ev.pend = e.ev.pend := by rw [Dev.putLevel_ev]; rfl
    rw [hkept.pendRec, Dev.pendRec, hlevel]
    exact hpend
  case injected =>
    obtain ⟨hactiveKey, hunackKey⟩ := fActive_key_ne b (i := true) (j := false) (by decide)
    rw [hkept.isActiveSrc, Dev.isActiveSrc, (hfault true).1, hcounted, (hstate true).1, Dev.faultBit, Dev.rd_wr_ne _ _ _ _ hunackKey,
      Dev.rd_wr_ne _ _ _ _ hactiveKey, Dev.isActiveSrc]

end Sys2Proof.Machine
end

