-- ==== Sys2Proof/Proofs/Events.lean ====
section
/-! PROOFS. Events (R368, R370 - R378, R380): the commands of the arbiters, of the event registers and of the packets. -/

namespace Sys2Proof.Machine
open Sys2Proof

/-! ## The commands -/

section
variable {s : State} (h : s.runs = true)
include h

theorem exec_eventPacketSend : exec .eventPacketSend s = .next (s.put s.dev.eventSend) := State.run_of_runs _ rfl h
theorem exec_summarySend {slot : Nat} (hs : slot < 17) : exec (.summarySend slot) s = .next (s.put (s.dev.summarySend slot)) :=
  State.run_of_runs _ (decide_eq_true hs) h

variable {b : Nat} (hb : b < 45)
include hb

theorem exec_eventGrant : exec (.eventGrant b) s = .next (s.put (s.dev.eventGrant b)) := State.run_of_runs _ (decide_eq_true hb) h
theorem exec_goInject (v : Nat) : exec (.goInject b v) s = .next (s.put (s.dev.regCommand (R.EV_INJECT b) (putBit v 31 true))) :=
  State.run_of_runs _ (decide_eq_true hb) h
theorem exec_unack_real (v : Nat) : exec (.unack b false v) s = .next (s.put (s.dev.regCommand (R.EV_STATUS b) v)) :=
  State.run_of_runs _ (decide_eq_true hb) h
theorem exec_unack_injected (v : Nat) : exec (.unack b true v) s = .next (s.put (s.dev.regCommand (R.EV_INJ_STATUS b) v)) :=
  State.run_of_runs _ (decide_eq_true hb) h
theorem exec_valid (v : Nat) : exec (.valid b v) s = .next (s.put (s.dev.regCommand (R.EV_FIRST b) (putBit v 7 true))) :=
  State.run_of_runs _ (decide_eq_true hb) h
theorem exec_countClr (v : Nat) : exec (.countClr b v) s = .next (s.put (s.dev.regCommand (R.EV_CTRL b) (putBit v 0 true))) :=
  State.run_of_runs _ (decide_eq_true hb) h
theorem exec_handshakeUnanswered : exec (.handshakeUnanswered b) s = .next (s.put (s.dev.handshakeLost b)) :=
  State.run_of_runs _ (decide_eq_true hb) h

variable {src : Nat} (hsrc : src < 16)
include hsrc

theorem exec_eventRecovery : exec (.eventRecovery b src) s = .next (s.put (s.dev.eventRecovery b src)) :=
  State.run_of_runs _ (by simp [hb, hsrc]) h
theorem exec_coalesceHoldExpiry (inj : Bool) : exec (.coalesceHoldExpiry b src inj) s = .next (s.put (s.dev.coalExpiry b src inj)) :=
  State.run_of_runs _ (by simp [hb, hsrc]) h
end

section
variable {d : Dev} {b : Nat}

/-! ## Granting (R372, R373) -/

theorem Dev.eventGrant_none (h : AMap.get d.ev.waiting b [] = []) : d.eventGrant b = d := by
  have hnext : nextOcc (AMap.get d.ev.rot b 15) [] = none := by simp [nextOcc]
  simp only [Dev.eventGrant, h, hnext]

/-- The device when the arbiter has taken an occurrence. -/
def Dev.occTaken (d : Dev) (b : Nat) (o : Occ) : Dev :=
  { d with ev := { d.ev with
    waiting := AMap.set d.ev.waiting b ((AMap.get d.ev.waiting b []).erase o) []
    rot := AMap.put d.ev.rot b o.src } }

theorem Dev.eventGrant_some {o : Occ} (h : nextOcc (AMap.get d.ev.rot b 15) (AMap.get d.ev.waiting b []) = some o) :
    d.eventGrant b = (d.occTaken b o).grantOcc b o := by
  simp only [Dev.eventGrant, h, Dev.occTaken]

theorem Dev.levelOf_escalates {o : Occ} {m : Nat} (hrep : d.isRepeat b o.src o.inj = false)
    (hm : d.classLevel b (evClass b o.src).1 o.inj = some m) :
    d.levelOf b o = min 4 (max (o.sev.getD (evClass b o.src).2) (m + 1)) := by
  simp only [Dev.levelOf, hrep, Bool.false_eq_true, if_false, hm]

/-! ## The event registers (R368, R371, R374) -/

/-- The bits below one that is set. -/
theorem bits_putBit_of_gt (v : Nat) {hi n : Nat} (x : Bool) (h : hi < n) : bits (putBit v n x) hi 0 = bits v hi 0 := by
  have hdvd : 2 ^ (hi + 1) ∣ 2 ^ n := Nat.pow_dvd_pow 2 h
  rw [bits, bits, putBit_eq, pow_zero, Nat.div_one, Nat.div_one, Nat.sub_zero, Nat.add_mod,
    Nat.mod_eq_zero_of_dvd (hdvd.mul_left _), Nat.zero_add, Nat.mod_mod, Nat.mod_mod_of_dvd _ hdvd]

theorem Dev.regCommand_EV_INJECT {v : Nat} {fields : List FRow} (hreg : regAt (R.EV_INJECT b) = some (.row (R.EV_INJECT 0) [b] fields)) :
    d.regCommand (R.EV_INJECT b) (putBit v 31 true) =
      (d.storeWord (R.EV_INJECT b) (R.EV_INJECT 0) [b] fields (putBit v 31 true)).goInject b (putBit v 31 true) := by
  have hgo : bit (putBit v 31 true) 31 = true := bit_putBit_self _ _ _
  refine Dev.regCommand_atRow hreg (fun x => x.pairOwned_of_notShared [b] (by decide) (by decide)) ?_
  exact Prod.ext (if_pos hgo) rfl

/-- The device when EV_INJECT has been written and its SOURCE taken. -/
def Dev.injectStored (d : Dev) (b v : Nat) (fields : List FRow) : Dev :=
  (d.storeWord (R.EV_INJECT b) (R.EV_INJECT 0) [b] fields (putBit v 31 true)).wr (F.EV_INJECT.SOURCE b) (bits v 3 0)

theorem Dev.goInject_bits (d : Dev) (b v : Nat) : d.goInject b (putBit v 31 true) =
    (let e := d.wr (F.EV_INJECT.SOURCE b) (bits v 3 0)
     if e.injecting b then e
     else e.present b { src := bits v 3 0, sev := none, obj := e.rd (F.EV_INJ_ARG.ARG b), val := 0, inj := true, pick := e.pick.num
                        time := e.ptpNow }) := by
  rw [Dev.goInject, bits_putBit_of_gt v true (by decide)]

/-- An occurrence presented takes PICK and TIME of the first one of its handshake (R458). -/
theorem Dev.present_eq (d : Dev) (b : Nat) (o : Occ) :
    d.present b o =
      (let at_ := ((AMap.get d.ev.waiting b []).head?.map (fun (h : Occ) => (h.pick, h.time))).getD (o.pick, o.time)
       { d with ev := { d.ev with waiting := AMap.put d.ev.waiting b (AMap.get d.ev.waiting b [] ++
         [{ o with pick := at_.1, time := at_.2 }]) } }) := by
  cases h : (AMap.get d.ev.waiting b []).head? <;> simp only [Dev.present, h] <;> rfl

section
variable (hb : b < 45)
include hb

theorem Dev.regCommand_EV_STATUS (v : Nat) : d.regCommand (R.EV_STATUS b) v = d.evAck b (bits v 31 16) false := by
  obtain ⟨fields, hreg⟩ := regAt_of_rowAt (rowAt_EV_STATUS b hb)
  exact Dev.regCommand_atRow hreg (fun x => x.pairOwned_of_notShared [b] (by decide) (by decide)) rfl

theorem Dev.regCommand_EV_INJ_STATUS (v : Nat) : d.regCommand (R.EV_INJ_STATUS b) v = d.evAck b (bits v 31 16) true := by
  obtain ⟨fields, hreg⟩ := regAt_of_rowAt (rowAt_EV_INJ_STATUS b hb)
  exact Dev.regCommand_atRow hreg (fun x => x.pairOwned_of_notShared [b] (by decide) (by decide)) rfl

theorem Dev.regCommand_EV_FIRST (v : Nat) : d.regCommand (R.EV_FIRST b) (putBit v 7 true) = d.evFirstClear b := by
  obtain ⟨fields, hreg⟩ := regAt_of_rowAt (rowAt_EV_FIRST b hb)
  exact Dev.regCommand_atRow hreg (fun x => x.pairOwned_of_notShared [b] (by decide) (by decide))
    (Prod.ext (if_pos (bit_putBit_self _ _ _)) rfl)

theorem Dev.regCommand_EV_CTRL (v : Nat) : d.regCommand (R.EV_CTRL b) (putBit v 0 true) = d.evCountClr b := by
  obtain ⟨fields, hreg⟩ := regAt_of_rowAt (rowAt_EV_CTRL b hb)
  exact Dev.regCommand_atRow hreg (fun x => x.pairOwned_of_notShared [b] (by decide) (by decide))
    (Prod.ext (if_pos (bit_putBit_self _ _ _)) rfl)
end

theorem Dev.evAck_bits (d : Dev) (b v : Nat) (inj : Bool) :
    d.evAck b (bits v 31 16) inj = (d.wr (fUnack b inj) (d.rd (fUnack b inj) &&& (65535 - bits v 31 16))).alertPin := by
  rw [Dev.evAck, Nat.mod_eq_of_lt (show bits v 31 16 < 65536 from Nat.mod_lt _ (by decide))]

theorem Dev.evCountClr_asks (h : b ∉ d.ev.clearPend) :
    d.evCountClr b = { d with ev := { d.ev with clearPend := d.ev.clearPend ++ [b] } } :=
  if_neg (by simpa using h)

theorem Dev.evCountClr_asked (h : b ∈ d.ev.clearPend) : d.evCountClr b = d := if_pos (by simpa using h)

/-! ## Recovery (R370) -/

theorem Dev.eventRecovery_eq {src : Nat} (hb : b < 45) (hsrc : src < 16) :
    d.eventRecovery b src = (d.evRecover b src false).evRecover b src true :=
  if_neg (by simp only [Bool.or_eq_true, decide_eq_true_eq]; omega)

/-! ## Pending records (R376, R377) -/

section
variable {src : Nat} {inj : Bool} {r : EvRec} (hr : d.pendRec b src inj = some r)
include hr

theorem Dev.coalExpiry_sendable (h : r.hold ≤ d.time.tb) : d.coalExpiry b src inj = d := by
  simp only [Dev.coalExpiry, hr, if_pos h]

theorem Dev.coalExpiry_due (h : d.time.tb < r.hold) (hdue : d.before r.hold = true) :
    d.coalExpiry b src inj =
      (let e := d.wait r.hold
       { e with ev := { e.ev with pend := e.ev.pend.map (fun (q : EvRec) =>
         if q.isOf b src inj then { q with hold := 0, since := e.time.tb } else q) } }) := by
  simp only [Dev.coalExpiry, hr, if_neg (Nat.not_le.mpr h), Dev.fire_of_before _ hdue]
end

/-- The pending records that no hold keeps. -/
def Dev.sendable (d : Dev) : List EvRec := d.ev.pend.filter (fun (r : EvRec) => decide (r.hold ≤ d.time.tb))

theorem Dev.sendable_eq_nil (h : ∀ r ∈ d.ev.pend, d.time.tb < r.hold) : d.sendable = [] := by
  rw [Dev.sendable, List.filter_eq_nil_iff]
  exact fun r hr => by simpa using h r hr

theorem Dev.sendable_ne_nil (h : ∃ r ∈ d.ev.pend, r.hold ≤ d.time.tb) : d.sendable ≠ [] := by
  obtain ⟨r, hr, hhold⟩ := h
  exact List.ne_nil_of_mem (List.mem_filter.mpr ⟨hr, decide_eq_true hhold⟩)

/-- The records of one session leave in EVENT packets. -/
def Dev.sessionEvents (now : List EvRec) (ks : Nat × Session) (d : Dev) : Dev :=
  if ks.2.opening || 4 < ks.2.minSev || (d.recordsFor ks.2 now).isEmpty then d
  else
    let ps := if d.shedLeft ks.1 ks.2 = {} then splitUpTo 64 (fun _ => 32) (d.roomOf ks.2.addr 3 - 28) (d.recordsFor ks.2 now)
      else splitUpTo 63 (fun _ => 32) (d.roomOf ks.2.addr 3 - 28 - 32) (d.recordsFor ks.2 now)
    forEach ps.zipIdx (fun (x : List EvRec × Nat) (d : Dev) => d.eventPacket ks.1 x.1 (x.2 + 1 = ps.length)) d

/-- A record that has been sent is logged; an injected one of level 3 or 4 goes to Marl. -/
def Dev.eventLogged (r : EvRec) (d : Dev) : Dev :=
  let x := (d.updSrc r.block r.src r.inj (fun x => { x with sent := some (d.time.tb, r.sev) })).logLoam r
  if r.inj && 3 ≤ r.sev && r.sev ≤ 4 then x.logMarl r else x

/-- The records sent leave pending. -/
def Dev.pendLeft (e : Dev) : Dev := { e with ev := { e.ev with pend := e.ev.pend.filter (fun (r : EvRec) => decide (e.time.tb < r.hold)) } }

theorem Dev.eventSend_none (h : d.sendable = []) : d.eventSend = d := if_pos (by rw [Dev.sendable] at h; simp only [h, List.isEmpty_nil])

/-- One session's part of EVENT_PACKET_SEND, in the form of the definition. -/
theorem Dev.sessionEvents_eq (now : List EvRec) (ks : Nat × Session) (d : Dev) :
    Dev.sessionEvents now ks d =
      if ks.2.opening || 4 < ks.2.minSev then d
      else
        let rs := d.recordsFor ks.2 now
        if rs.isEmpty then d
        else
          let room := d.roomOf ks.2.addr 3 - 28
          let most := if d.shedLeft ks.1 ks.2 = ({} : Shed) then 64 else 63
          let ps := splitUpTo most (fun _ => 32) (if most = 64 then room else room - 32) rs
          forEach ps.zipIdx (fun (x : List EvRec × Nat) (d : Dev) => d.eventPacket ks.1 x.1 (x.2 + 1 = ps.length)) d := by
  rw [Dev.sessionEvents]
  by_cases hclosed : (ks.2.opening || decide (4 < ks.2.minSev)) = true
  · rw [hclosed, Bool.true_or]
    rfl
  · by_cases hnone : (d.recordsFor ks.2 now).isEmpty = true
    · simp only [hnone, Bool.or_true, if_true, ite_self]
    · rw [Bool.not_eq_true] at hclosed hnone
      simp only [hclosed, hnone, Bool.or_self, Bool.false_eq_true, if_false]
      by_cases hshed : d.shedLeft ks.1 ks.2 = ({} : Shed)
      · simp only [hshed, if_true]
      · simp only [hshed, if_false, show ¬(63 : Nat) = 64 by decide]

theorem Dev.eventSend_some (h : d.sendable ≠ []) :
    d.eventSend = forEach d.sendable Dev.eventLogged (forEach d.cheda.sessions (Dev.sessionEvents d.sendable) d).pendLeft := by
  have hbody : Dev.sessionEvents d.sendable = _ := funext fun ks => funext fun d' => Dev.sessionEvents_eq d.sendable ks d'
  rw [hbody]
  exact if_neg (by simpa [Dev.sendable] using h)

/-! ## The log (R379) -/

theorem keepLast_append {α : Type} (n : Nat) (l rs : List α) : keepLast n (keepLast n l ++ rs) = keepLast n (l ++ rs) := by
  simp only [keepLast, List.drop_append, List.drop_drop, List.length_append, List.length_drop]
  congr 2 <;> omega

theorem Dev.logLoam_ev (d : Dev) (r : EvRec) :
    (d.logLoam r).ev.log = keepLast 8388608 (d.ev.log ++ [r]) ∧ (d.logLoam r).ev.logNext = d.ev.logNext + 1 ∧
    (d.logLoam r).ev.pend = d.ev.pend := by
  rw [Dev.logLoam]
  dsimp only
  generalize keepLast 8388608 (d.ev.log ++ [r]) = log
  split <;> exact ⟨rfl, rfl, rfl⟩

theorem Dev.eventLogged_ev (r : EvRec) (d : Dev) :
    (Dev.eventLogged r d).ev.log = keepLast 8388608 (d.ev.log ++ [r]) ∧ (Dev.eventLogged r d).ev.logNext = d.ev.logNext + 1 ∧
    (Dev.eventLogged r d).ev.pend = d.ev.pend := by
  have h := (d.updSrc r.block r.src r.inj (fun x => { x with sent := some (d.time.tb, r.sev) })).logLoam_ev r
  rw [Dev.eventLogged]
  split <;> exact h

/-- The records sent stand in the log in their order. -/
theorem Dev.forEach_eventLogged (rs : List EvRec) (d : Dev) (l : List EvRec) (hl : d.ev.log = keepLast 8388608 l) :
    (forEach rs Dev.eventLogged d).ev.log = keepLast 8388608 (l ++ rs) ∧
    (forEach rs Dev.eventLogged d).ev.logNext = d.ev.logNext + rs.length ∧ (forEach rs Dev.eventLogged d).ev.pend = d.ev.pend := by
  induction rs generalizing d l with
  | nil => exact ⟨by rw [List.append_nil]; exact hl, rfl, rfl⟩
  | cons r rs ih =>
    obtain ⟨hlog, hnext, hpend⟩ := Dev.eventLogged_ev r d
    obtain ⟨hlog', hnext', hpend'⟩ := ih (Dev.eventLogged r d) (l ++ [r]) (by rw [hlog, hl, keepLast_append])
    refine ⟨?_, ?_, hpend'.trans hpend⟩
    · rw [List.append_assoc] at hlog'
      exact hlog'
    · refine hnext'.trans ?_
      rw [hnext, List.length_cons]
      omega

/-- With no session subscribed the records sent reach the log alone. -/
theorem Dev.eventSend_unsubscribed (h : d.sendable ≠ []) (hs : ∀ ks ∈ d.cheda.sessions, ks.2.opening = true ∨ 4 < ks.2.minSev) :
    d.eventSend.ev.pend = d.ev.pend.filter (fun (r : EvRec) => decide (d.time.tb < r.hold)) ∧
    d.eventSend.ev.logNext = d.ev.logNext + d.sendable.length ∧ d.eventSend.ev.log = keepLast 8388608 (d.ev.log ++ d.sendable) := by
  have hnone : forEach d.cheda.sessions (Dev.sessionEvents d.sendable) d = d :=
    forEach_of_fixed _ fun ks hks => if_pos (by rcases hs ks hks with hk | hk <;> simp [hk])
  rw [Dev.eventSend_some h, hnone]
  obtain ⟨r, rs, hrs⟩ := List.exists_cons_of_ne_nil h
  rw [hrs]
  obtain ⟨hlog, hnext, hpend⟩ := Dev.eventLogged_ev r d.pendLeft
  obtain ⟨hlog', hnext', hpend'⟩ := Dev.forEach_eventLogged rs (Dev.eventLogged r d.pendLeft) (d.ev.log ++ [r]) hlog
  refine ⟨hpend'.trans hpend, ?_, ?_⟩
  · have hone : (Dev.eventLogged r d.pendLeft).ev.logNext = d.ev.logNext + 1 := hnext
    refine hnext'.trans ?_
    rw [hone, List.length_cons]
    omega
  · rw [List.append_assoc] at hlog'
    exact hlog'

/-! ## Summaries (R378) -/

section
variable {slot : Nat} {ss : Session} (hss : d.session slot = some ss)
include hss

theorem Dev.summarySend_none (h : ss.opening = true ∨ 4 < ss.minSev ∨ d.shedLeft slot ss = {}) : d.summarySend slot = d := by
  by_cases hclosed : (ss.opening || decide (4 < ss.minSev)) = true
  · simp only [Dev.summarySend, hss, if_pos hclosed]
  · have hshed : d.shedLeft slot ss = {} := by
      rcases h with h | h | h
      · simp [h] at hclosed
      · simp [h] at hclosed
      · exact h
    simp only [Dev.summarySend, hss, if_neg hclosed]
    simp [Dev.eventPacket, hss, hshed]

theorem Dev.summarySend_sends (hopen : ss.opening = false) (hsev : ss.minSev ≤ 4) (hshed : d.shedLeft slot ss ≠ {}) {e : Dev} {f : TxFrame}
    (he : e = d.putSession slot { ss with evSeq := (ss.evSeq + 1) % 2 ^ 32 })
    (hf : f = e.mkFrame ss.addr.port 3 ss.addr.mac (ss.addr.tag.map (fun t => t % 4096))
      (e.chedaBody ss.addr (d.packet 4 slot 1 ss.evSeq 0 1 (d.summaryBytes (d.shedLeft slot ss))))) :
    d.summarySend slot =
      ((e.enqueueTx ss.addr.port 3 { f with slot := slot, sum := d.shedLeft slot ss }).1.count 0x76).count 0x77 := by
  subst hf he
  have hcloses : ¬(ss.opening || decide (4 < ss.minSev)) = true := by simp [hopen, hsev]
  simp only [Dev.summarySend, hss, if_neg hcloses]
  simp [Dev.eventPacket, hss, hshed]
end

/-! ## Handshakes (R380) -/

theorem Dev.handshakeLost_raises (hb : b < 45) : d.handshakeLost b = d.raise b 14 0 0 := if_neg (by omega)
end

/-- Settles O57: the arbiters by what a grant does to its source, recovery by what it leaves, the registers and packets by their cases. -/
theorem eventsAct : Obligations.EventsAct := by
  refine ⟨?grant, fun d b m o hrep hm => Dev.levelOf_escalates hrep hm, ?inject, ?acks, ?first, ?recovery, ?hold, ?packets, ?summary,
    fun s b hruns hb => ?handshake⟩
  case grant =>
    rintro s d b rfl hruns hb
    refine ⟨fun h => ?none, fun o ho hsrc => ?some⟩
    case none => rw [exec_eventGrant hruns hb, Dev.eventGrant_none h, State.put_dev]
    case some =>
      obtain ⟨hwaiting, hrot, hacts⟩ := (s.dev.occTaken b o).grantOcc_acts b o hsrc
      refine ⟨_, exec_eventGrant hruns hb, rfl, ?_⟩
      simp only [State.put, Dev.eventGrant_some ho]
      refine ⟨?_, ?_, hacts⟩
      · simpa [Dev.occTaken] using hwaiting
      · rw [hrot]
        exact AMap.get_put_self _ _ _ _
  case inject =>
    rintro s d e b v fields rfl hruns hb hreg rfl
    refine ⟨fun hwaits => ?waits, fun hfree at_ hat => ?presents⟩
    case waits =>
      rw [exec_goInject hruns hb, Dev.regCommand_EV_INJECT hreg, Dev.goInject_bits]
      exact congrArg (fun x => Host.Outcome.next (s.put x)) (if_pos (by simpa [Dev.injecting] using hwaits))
    case presents =>
      subst hat
      rw [exec_goInject hruns hb, Dev.regCommand_EV_INJECT hreg, Dev.goInject_bits]
      refine congrArg (fun x => Host.Outcome.next (s.put x)) ((if_neg ?_).trans (Dev.present_eq _ _ _))
      simpa [Dev.injecting] using hfree
  case acks =>
    rintro s d b v rfl hruns hb
    refine ⟨?real, ?injected, fun h => ?asks, fun h => ?asked⟩
    case real => rw [exec_unack_real hruns hb, Dev.regCommand_EV_STATUS hb, Dev.evAck_bits]; rfl
    case injected => rw [exec_unack_injected hruns hb, Dev.regCommand_EV_INJ_STATUS hb, Dev.evAck_bits]; rfl
    case asks => rw [exec_countClr hruns hb, Dev.regCommand_EV_CTRL hb, Dev.evCountClr_asks h]
    case asked => rw [exec_countClr hruns hb, Dev.regCommand_EV_CTRL hb, Dev.evCountClr_asked h, State.put_dev]
  case first =>
    rintro s d e x b v rfl hruns hb rfl rfl
    rw [exec_valid hruns hb, Dev.regCommand_EV_FIRST hb, Dev.evFirstClear]
  case recovery =>
    rintro s d b src rfl hruns hb hsrc hinj
    have hexec := exec_eventRecovery hruns hb hsrc
    rw [Dev.eventRecovery_eq hb hsrc] at hexec
    refine ⟨fun h => ?stays, fun hstarted hactive hheld hstands hquiet => ?leaves⟩
    case stays =>
      have hreal : s.dev.evRecover b src false = s.dev :=
        s.dev.evRecover_stays b src false (h.imp id (Or.imp (fun hs => ⟨rfl, hs⟩) not_le.mpr))
      rw [hexec, hreal, s.dev.evRecover_stays b src true (.inl hinj), State.put_dev]
    case leaves =>
      obtain ⟨hact, hunack, hlevel, hcount, hpend, hother⟩ := s.dev.evRecover_acts b hsrc hstarted hactive hheld hstands hquiet
      rw [(s.dev.evRecover b src false).evRecover_stays b src true (.inl (hother.trans hinj))] at hexec
      exact ⟨_, hexec, rfl, hact, hunack, hlevel, hcount, hpend⟩
  case hold =>
    rintro s d e b src inj r rfl hruns hb hsrc hr
    refine ⟨fun h => ?sendable, fun h hdue he => ?due⟩
    case sendable => rw [exec_coalesceHoldExpiry hruns hb hsrc, Dev.coalExpiry_sendable hr h, State.put_dev]
    case due =>
      subst he
      rw [exec_coalesceHoldExpiry hruns hb hsrc, Dev.coalExpiry_due hr h hdue]
  case packets =>
    rintro s d rfl hruns
    refine ⟨fun h => ?none, fun now hnow hsome e he => ?send, fun hsome hsessions now hnow => ?unsubscribed⟩
    case none => rw [exec_eventPacketSend hruns, Dev.eventSend_none (Dev.sendable_eq_nil h), State.put_dev]
    case send =>
      subst he hnow
      rw [exec_eventPacketSend hruns, Dev.eventSend_some hsome]
      rfl
    case unsubscribed =>
      subst hnow
      exact ⟨_, exec_eventPacketSend hruns, rfl, Dev.eventSend_unsubscribed (Dev.sendable_ne_nil hsome) hsessions⟩
  case summary =>
    rintro s d slot ss rfl hruns hslot hss
    refine ⟨fun h => ?none, fun hopen hsev hshed e f he hf => ?sends⟩
    case none => rw [exec_summarySend hruns hslot, Dev.summarySend_none hss h, State.put_dev]
    case sends => rw [exec_summarySend hruns hslot, Dev.summarySend_sends hss hopen hsev hshed he hf]
  case handshake => rw [exec_handshakeUnanswered hruns hb, Dev.handshakeLost_raises hb]

end Sys2Proof.Machine
end

