-- ==== Sys2Proof/Proofs/ServiceItems.lean ====
section
/-! PROOFS. Monitor, gate, time, pair and start-up items (R296, R316, R332, R360, R361, R379, R391, R392, R410, R422): what each opcode
answers, case by case. -/

namespace Sys2Proof.Machine
open Sys2Proof

/-! ## The rows -/

theorem rowOf_counterRead : RowOf .counterRead 0x0700 := fun _ _ _ => rfl
theorem rowOf_histoRead : RowOf .histoRead 0x0701 := fun _ _ _ => rfl
theorem rowOf_statsClear : RowOf .statsClear 0x0702 := fun _ _ _ => rfl
theorem rowOf_logRead : RowOf .logRead 0x0703 := fun _ _ _ => rfl
theorem rowOf_traceRead : RowOf .traceRead 0x0704 := fun _ _ _ => rfl
theorem rowOf_gateListRead : RowOf .gateListRead 0x0801 := fun _ _ _ => rfl
theorem rowOf_timeStep : RowOf .timeStep 0x0802 := fun _ _ _ => rfl
theorem rowOf_pairStatus : RowOf .pairStatus 0x0900 := fun _ _ _ => rfl
theorem rowOf_pairHandover : RowOf .pairHandover 0x0901 := fun _ _ _ => rfl
theorem rowOf_configSave : RowOf .configSave 0x0A00 := fun _ _ _ => rfl
theorem rowOf_firmwareWrite : RowOf .firmwareWrite 0x0A01 := fun _ _ _ => rfl
theorem rowOf_firmwareActivate : RowOf .firmwareActivate 0x0A02 := fun _ _ _ => rfl
theorem rowOf_systemReset : RowOf .systemReset 0x0A03 := fun _ _ _ => rfl
theorem rowOf_debugUnlock : RowOf .debugUnlock 0x0A04 := fun _ _ _ => rfl

section
variable {d : Dev} {x : ItemIn}

/-! ## Counters, histograms, clears, logs (R379, R391, R392) -/

theorem Dev.itemCounterRead_ok (hn : 0 < beAt x.par 1 1) (hmax : beAt x.par 0 1 + beAt x.par 1 1 ≤ 64) :
    d.itemCounterRead x = d.okWith
      (beBytes 8 d.perf.snap.pick ++ (List.range (beAt x.par 1 1)).flatMap (fun i => ctrEntry d.perf.snap (beAt x.par 0 1 + i))) := by
  rw [Dev.itemCounterRead, Dev.counterRead, if_neg (by simp only [Bool.or_eq_true, decide_eq_true_eq]; omega)]
  rfl

theorem Dev.itemCounterRead_invalid (h : beAt x.par 1 1 = 0 ∨ 64 < beAt x.par 0 1 + beAt x.par 1 1) :
    d.itemCounterRead x = d.ends St.valueInvalid := by
  rw [Dev.itemCounterRead, Dev.counterRead, if_pos (by simpa using h)]
  rfl

theorem Dev.itemHistoRead_ok (h : beAt x.par 0 1 ≤ 34) :
    d.itemHistoRead x = d.okWith (beBytes 8 d.perf.snap.pick ++ histoEntry d.perf.snap (beAt x.par 0 1)) := by
  rw [Dev.itemHistoRead, Dev.histoRead, if_neg (Nat.not_lt.mpr h)]
  rfl

theorem Dev.itemHistoRead_invalid (h : 34 < beAt x.par 0 1) : d.itemHistoRead x = d.ends St.valueInvalid := by
  rw [Dev.itemHistoRead, Dev.histoRead, if_pos h]
  rfl

/-- The request of STATS_CLEAR. -/
def ItemIn.clearReq (x : ItemIn) : ClearReq :=
  { scope := beAt x.par 0 1, classes := beAt x.par 2 2, cmask := beAt x.par 4 8, umask := beAt x.par 12 8, item := x.item }

theorem Dev.itemStatsClear_asks {r : ClearReq} (hr : r = x.clearReq) (hlo : 0 < r.scope) (hhi : r.scope < 8) (hmask : r.umask < 2 ^ 35) :
    d.itemStatsClear x = ({ d with perf := { d.perf with clears := d.perf.clears ++ [r] } } : Dev).ends St.pending := by
  subst hr
  have hgood : ¬(decide (x.clearReq.scope % 8 = 0) || decide (7 < x.clearReq.scope) || decide (2 ^ 35 ≤ x.clearReq.umask)) = true := by
    simp only [Bool.or_eq_true, decide_eq_true_eq]
    omega
  exact congrArg (fun p : Dev × Nat => p.1.ends p.2) (if_neg hgood)

theorem Dev.itemStatsClear_invalid (h : beAt x.par 0 1 = 0 ∨ 7 < beAt x.par 0 1 ∨ 2 ^ 35 ≤ beAt x.par 12 8) :
    d.itemStatsClear x = d.ends St.valueInvalid := by
  have hbad : (decide (x.clearReq.scope % 8 = 0) || decide (7 < x.clearReq.scope) || decide (2 ^ 35 ≤ x.clearReq.umask)) = true := by
    simp only [Bool.or_eq_true, decide_eq_true_eq]
    change (beAt x.par 0 1 % 8 = 0 ∨ 7 < beAt x.par 0 1) ∨ 2 ^ 35 ≤ beAt x.par 12 8
    omega
  exact congrArg (fun p : Dev × Nat => p.1.ends p.2) (if_pos hbad)

theorem Dev.itemLogRead_invalid (h : 1 < beAt x.par 0 1 ∨ beAt x.par 2 2 = 0 ∨ 43 < beAt x.par 2 2) :
    d.itemLogRead x = d.ends St.valueInvalid := by
  rw [Dev.itemLogRead, Dev.logRead, if_pos (by simpa [or_assoc] using h)]
  rfl

theorem Dev.itemLogRead_ok (hlog : beAt x.par 0 1 ≤ 1) (hn : 0 < beAt x.par 2 2) (hmax : beAt x.par 2 2 ≤ 43) :
    d.itemLogRead x = d.okWith (
      let recs := if beAt x.par 0 1 = 0 then d.ev.log else d.nv.faultLog
      let next := if beAt x.par 0 1 = 0 then d.ev.logNext else d.nv.faultNext
      let oldest := next - recs.length
      let start := if beAt x.par 4 8 = 2 ^ 64 - 1 then max oldest (next - beAt x.par 2 2) else max (beAt x.par 4 8) oldest
      let rs := (recs.drop (start - oldest)).take (beAt x.par 2 2)
      beBytes 8 start ++ beBytes 8 oldest ++ beBytes 2 rs.length ++ zeros 6 ++ rs.flatMap EvRec.bytes) := by
  rw [Dev.itemLogRead, Dev.logRead, if_neg (by simp only [Bool.or_eq_true, decide_eq_true_eq]; omega)]
  rfl

/-! ## Traces (R410) -/

/-- The most records that TRACE_READ answers: the blocks of an exported ring, or what fits a reply. -/
def traceMost (exp src : Nat) : Nat := if exp % 2 = 1 then 2048 else if src = 0 then 87 else 7

theorem bit_zero_eq (v : Nat) : bit v 0 = decide (v % 2 = 1) := by rw [bit, pow_zero, Nat.div_one]

theorem Dev.itemTraceRead_invalid (h : 1 < beAt x.par 0 1 ∨ beAt x.par 2 2 = 0 ∨ traceMost (beAt x.par 1 1) (beAt x.par 0 1) < beAt x.par 2 2) :
    d.itemTraceRead x = d.ends St.valueInvalid := by
  refine if_pos ?_
  simp only [bit_zero_eq, Bool.or_eq_true, decide_eq_true_eq]
  exact or_assoc.mpr h

section
variable (hsrc : beAt x.par 0 1 ≤ 1) (hn : 0 < beAt x.par 2 2)
include hsrc hn

theorem Dev.traceForm {most : Nat} (hmax : beAt x.par 2 2 ≤ most) :
    ¬(decide (1 < beAt x.par 0 1) || decide (beAt x.par 2 2 = 0) || decide (most < beAt x.par 2 2)) = true := by
  simp only [Bool.or_eq_true, decide_eq_true_eq]
  omega

theorem Dev.itemTraceRead_records (hexp : beAt x.par 1 1 % 2 = 0) (hmax : beAt x.par 2 2 ≤ (if beAt x.par 0 1 = 0 then 87 else 7)) :
    d.itemTraceRead x = d.okWith (
      let r := d.traceSpan (beAt x.par 0 1) (beAt x.par 4 8) (beAt x.par 2 2)
      beBytes 8 r.1 ++ beBytes 8 r.2.1 ++ beBytes 2 r.2.2 ++ zeros 6 ++ (d.ringBytes (beAt x.par 0 1) r.1 r.2.2).flatten) := by
  have hbit : bit (beAt x.par 1 1) 0 = false := by rw [bit_zero_eq]; simp [hexp]
  simp only [Dev.itemTraceRead, hbit, Bool.false_eq_true, if_false, if_neg (Dev.traceForm hsrc hn hmax), Bool.false_and]
  rfl

variable (hexp : beAt x.par 1 1 % 2 = 1) (hmax : beAt x.par 2 2 ≤ 2048)
include hexp hmax

theorem Dev.itemTraceRead_busy (h : d.loam.export_ ≠ none) : d.itemTraceRead x = d.ends St.busy := by
  have hbit : bit (beAt x.par 1 1) 0 = true := by rw [bit_zero_eq]; simp [hexp]
  simp only [Dev.itemTraceRead, hbit, if_true, if_neg (Dev.traceForm hsrc hn hmax), Bool.true_and,
    if_pos (Option.isSome_iff_ne_none.mpr h)]

theorem Dev.itemTraceRead_exports (h : d.loam.export_ = none) :
    d.itemTraceRead x = (
      let r := d.traceSpan (beAt x.par 0 1) (beAt x.par 4 8) (beAt x.par 2 2 * 65536)
      let e : Dev := { d with loam := { d.loam with export_ := some { src := beAt x.par 0 1, slot := x.slot, start := r.1, count := r.2.2,
                                                                      item := x.item, pick := d.pick.num, time := d.ptpNow } } }
      (e.setFlag F.TRACE_STAT.EXPORTING true).updItem x.item (fun (i : ItemRec) => { i with
        result := beBytes 8 r.1 ++ beBytes 8 r.2.1 ++ beBytes 2 (min r.2.2 65535) ++ zeros 6 })).ends St.pending := by
  have hbit : bit (beAt x.par 1 1) 0 = true := by rw [bit_zero_eq]; simp [hexp]
  simp only [Dev.itemTraceRead, hbit, if_true, if_neg (Dev.traceForm hsrc hn hmax), Bool.true_and, h, Option.isSome_none,
    Bool.false_eq_true, if_false]
  rfl
end

/-! ## Gate lists (R316) -/

theorem Dev.itemGateRead_invalid (h : 1 < beAt x.par 0 1 ∨ 1 < beAt x.par 1 1) : d.itemGateRead x = d.ends St.valueInvalid :=
  if_pos (by simpa using h)

section
variable (hport : beAt x.par 0 1 ≤ 1) (hsel : beAt x.par 1 1 ≤ 1)
include hport hsel

theorem Dev.gateForm : ¬(decide (1 < beAt x.par 0 1) || decide (1 < beAt x.par 1 1)) = true := by
  simp only [Bool.or_eq_true, decide_eq_true_eq]
  omega

theorem Dev.itemGateRead_none (h : AMap.find (if beAt x.par 1 1 = 0 then d.sched.oper else d.sched.await) (beAt x.par 0 1) = none) :
    d.itemGateRead x = d.okWith [0] := by
  simp only [Dev.itemGateRead, if_neg (Dev.gateForm hport hsel), h]

theorem Dev.itemGateRead_some {g : GateList}
    (h : AMap.find (if beAt x.par 1 1 = 0 then d.sched.oper else d.sched.await) (beAt x.par 0 1) = some g) :
    d.itemGateRead x = d.okWith (beBytes 1 ((if g.enable then 1 else 0) + 2) ++ beBytes 1 g.entries.length ++ zeros 2 ++ beBytes 8 g.start ++
      beBytes 4 g.cycle ++ g.entries.flatMap (fun (e : Nat × Nat) => beBytes 1 e.1 ++ zeros 3 ++ beBytes 4 e.2)) := by
  simp only [Dev.itemGateRead, if_neg (Dev.gateForm hport hsel), h]
end

/-! ## TIME_STEP (R332) -/

section
variable {item mode value rx : Nat}

theorem Dev.timeStep_invalidMode (h : 3 < mode) : d.timeStep item mode value rx = d.finish item St.valueInvalid [] := by
  match mode, h with
  | _ + 4, h => simp only [Dev.timeStep, if_pos h]

theorem Dev.timeStep_unmeasured (h : d.time.meas = none) : d.timeStep item 3 value rx = d.finish item St.valueInvalid [] := by
  simp [Dev.timeStep, h]

/-- A mode with a value: the step is placed unless one is pending or PTP time would leave its range. -/
theorem Dev.timeStep_value {v : Int} (h : d.stepValue mode value = some v) :
    d.timeStep item mode value rx =
      if d.time.step.isSome then d.finish item St.busy []
      else if !d.stepFits (d.pick.num + 2) mode v then d.finish item St.valueInvalid []
      else (d.updItem item (fun r => { r with result := beBytes 8 rx })).placeStep (if mode = 2 then 2 else 1) v (some item) := by
  match mode, h with
  | 1, h =>
    obtain rfl : toS 64 value = v := Option.some_inj.mp h
    rfl
  | 2, h =>
    obtain rfl : (value : Int) = v := Option.some_inj.mp h
    rfl
  | 3, h =>
    have hv : d.time.meas.map (fun m => -m) = some v := h
    simp only [Dev.timeStep, hv]
    rfl
end

/-! ## PAIR_HANDOVER (R361) -/

/-- The peer is in STANDBY with a full copy, and heard. -/
def Dev.PeerReady (d : Dev) : Prop := d.rd F.SLV_STAT.PEER_ROLE = Pr.standby ∧ d.flag F.SLV_STAT.P_LOST = false ∧ d.slv.peerMirror = 2

theorem Dev.itemHandover_standby (h : d.isActive = false) : d.itemHandover x = d.ends St.roleStandby := by
  rw [Dev.itemHandover, Dev.pairHandover, if_pos (by simp [h])]

section
variable (hactive : d.isActive = true)
include hactive

theorem Dev.itemHandover_refused (h : d.rd F.SLV_STAT.PEER_ROLE ≠ Pr.standby ∨ d.flag F.SLV_STAT.P_LOST = true ∨ d.slv.peerMirror ≠ 2) :
    d.itemHandover x = d.ends St.modeRefused := by
  rw [Dev.itemHandover, Dev.pairHandover, if_neg (by simp [hactive]), if_pos (by simpa [or_assoc] using h)]

variable (hpeer : d.PeerReady)
include hpeer

theorem Dev.itemHandover_peerReady :
    d.itemHandover x =
      (let r := if d.slv.handTb.isSome || d.slv.agreed ≠ 0 then (d, St.busy) else (d.handStart (some x.item) (beAt x.par 0 2), St.pending)
       r.1.ends r.2) := by
  obtain ⟨hrole, hlost, hmirror⟩ := hpeer
  rw [Dev.itemHandover, Dev.pairHandover, if_neg (by simp [hactive]), if_neg (by simp [hrole, hlost, hmirror])]

theorem Dev.itemHandover_busy (h : d.slv.handTb ≠ none ∨ d.slv.agreed ≠ 0) : d.itemHandover x = d.ends St.busy := by
  have hbusy : (d.slv.handTb.isSome || decide (d.slv.agreed ≠ 0)) = true := by
    rcases h with h | h
    · rw [Option.isSome_iff_ne_none.mpr h, Bool.true_or]
    · rw [decide_eq_true h, Bool.or_true]
  rw [Dev.itemHandover_peerReady hactive hpeer, if_pos hbusy]

theorem Dev.itemHandover_starts (hhand : d.slv.handTb = none) (hagreed : d.slv.agreed = 0) :
    d.itemHandover x = (d.handStart (some x.item) (beAt x.par 0 2)).ends St.pending := by
  rw [Dev.itemHandover_peerReady hactive hpeer, if_neg (by simp [hhand, hagreed])]
end

/-! ## The unit (R296, R422) -/

theorem Dev.itemFirmwareWrite_invalid (h : beAt x.par 4 2 < 4 ∨ 1024 < beAt x.par 4 2 ∨ beAt x.par 4 2 % 4 ≠ 0 ∨
    2 ^ 26 < beAt x.par 0 4 + beAt x.par 4 2) : d.itemFirmwareWrite x = d.ends St.valueInvalid :=
  if_pos (by simpa only [Bool.or_eq_true, decide_eq_true_eq, or_assoc] using h)

theorem Dev.itemFirmwareWrite_ok (hlo : 4 ≤ beAt x.par 4 2) (hhi : beAt x.par 4 2 ≤ 1024) (hmod : beAt x.par 4 2 % 4 = 0)
    (hend : beAt x.par 0 4 + beAt x.par 4 2 ≤ 2 ^ 26) :
    d.itemFirmwareWrite x = (
      let m := (x.par.drop 8).zipIdx.foldl (fun (m : List (Nat × Nat)) (bi : Byte × Nat) =>
        AMap.set m (beAt x.par 0 4 + bi.2) bi.1.toNat 0) d.boot.staging
      ({ d with boot := { d.boot with staging := m } } : Dev)).ends St.ok :=
  if_neg (by simp only [Bool.or_eq_true, decide_eq_true_eq]; omega)

theorem Dev.itemFirmwareActivate_bad (h : 2 ^ 26 < beAt x.par 0 4 ∨ Config.imageGood d.boot.staging (beAt x.par 0 4) = false) :
    d.itemFirmwareActivate x = (d.raise 0x01 1 (1 - d.rd F.BOOT_STAT.SLOT) 0).ends St.valueInvalid :=
  if_pos (by simpa only [Bool.or_eq_true, decide_eq_true_eq, Bool.not_eq_true'] using h)

section
variable (hsize : beAt x.par 0 4 ≤ 2 ^ 26) (hgood : Config.imageGood d.boot.staging (beAt x.par 0 4) = true)
include hsize hgood

theorem Dev.firmwareForm : ¬(decide (2 ^ 26 < beAt x.par 0 4) || !Config.imageGood d.boot.staging (beAt x.par 0 4)) = true := by
  rw [hgood, Bool.not_true, Bool.or_false, decide_eq_true_eq]
  exact Nat.not_lt.mpr hsize

theorem Dev.itemFirmwareActivate_old (h : Config.imageSecVer d.boot.staging % 2 ^ 32 < d.nv.fuse) :
    d.itemFirmwareActivate x =
      (d.raise 0x01 8 (1 - d.rd F.BOOT_STAT.SLOT) (Config.imageSecVer d.boot.staging % 2 ^ 32)).ends St.valueInvalid :=
  (if_neg (Dev.firmwareForm hsize hgood)).trans (if_pos h)

theorem Dev.itemFirmwareActivate_asks {i : Image} (higood : i.good = true) (hver : i.version = Config.imageVersion d.boot.staging % 2 ^ 32)
    (hsec : i.secVer = Config.imageSecVer d.boot.staging % 2 ^ 32) (hfuse : d.nv.fuse ≤ i.secVer) :
    d.itemFirmwareActivate x = (
      let e : Dev := if bit (beAt x.par 4 1) 0 = true then { d with boot := { d.boot with bootNow := some x.item } } else d
      e.marlAsk 5 (.image (1 - d.rd F.BOOT_STAT.SLOT) i) (some x.item)).ends St.pending := by
  obtain ⟨version, secVer, good⟩ := i
  obtain rfl : good = true := higood
  obtain rfl : version = _ := hver
  obtain rfl : secVer = _ := hsec
  exact (if_neg (Dev.firmwareForm hsize hgood)).trans (if_neg (Nat.not_lt.mpr hfuse))
end

theorem Dev.itemDebug_challenge (h : beAt x.par 0 1 = 0) :
    d.itemDebug x =
      (let e := (d.drawBytes 32).2
       { e with boot := { e.boot with challenge := some (d.drawBytes 32).1 } } : Dev).okWith (d.drawBytes 32).1 := by
  simp only [Dev.itemDebug, h]

theorem Dev.itemDebug_unlocks {c : List Byte} (h : beAt x.par 0 1 = 1) (hc : d.boot.challenge = some c)
    (hsig : Config.debugSigGood (c ++ beBytes 8 d.nv.serial) (x.par.drop 4) = true) :
    d.itemDebug x = (({ d with boot := { d.boot with challenge := none, unlocked := true } } : Dev).raise 0x01 6 x.slot 0).ends St.ok := by
  simp only [Dev.itemDebug, h, hc, hsig, if_true]

theorem Dev.itemDebug_refuses (h : beAt x.par 0 1 = 1)
    (hsig : ∀ c, d.boot.challenge = some c → Config.debugSigGood (c ++ beBytes 8 d.nv.serial) (x.par.drop 4) = false) :
    d.itemDebug x = (({ d with boot := { d.boot with challenge := none } } : Dev).raise 0x01 7 x.slot 0).ends St.valueInvalid := by
  cases hc : d.boot.challenge with
  | none => simp only [Dev.itemDebug, h, hc, Bool.false_eq_true, if_false]
  | some c => simp only [Dev.itemDebug, h, hc, hsig c hc, Bool.false_eq_true, if_false]

theorem Dev.itemDebug_locks (h : beAt x.par 0 1 = 2) :
    d.itemDebug x = ({ d with boot := { d.boot with unlocked := false, challenge := none } } : Dev).ends St.ok := by
  simp only [Dev.itemDebug, h]

theorem Dev.itemDebug_invalid (h : 2 < beAt x.par 0 1) : d.itemDebug x = d.ends St.valueInvalid := by
  obtain ⟨n, hn⟩ : ∃ n, beAt x.par 0 1 = n + 3 := ⟨beAt x.par 0 1 - 3, by omega⟩
  simp only [Dev.itemDebug, hn]
end

/-- Settles O50: each row comes to its opcode's meaning, and each clause is one case of that meaning. -/
theorem serviceItemsAct : Obligations.ServiceItemsAct := by
  refine ⟨?counters, ?countersInvalid, ?histoInvalid, ?histo, ?clear, ?clearInvalid, ?logInvalid, ?log, ?traceInvalid, ?traceBusy, ?trace,
    ?exports, ?gateNone, ?gate, ?gateInvalid, ?stepRead, ?stepMode, ?step, ?stepRange, ?stepBusy, ?stepUnmeasured, ?status, ?handStandby, ?hand,
    ?handRefused, ?handBusy, ?save, ?firmware, ?firmwareInvalid, ?activateBad, ?activateOld, ?activate, ?reset, ?challenge, ?unlock, ?unlockBad,
    ?lock, ?debugInvalid⟩
  case counters => exact itemEnds_of_runItem rowOf_counterRead (by decide) fun d x ⟨hn, hmax⟩ => Dev.itemCounterRead_ok hn hmax
  case countersInvalid => exact itemEnds_of_runItem rowOf_counterRead (by decide) fun d x h => Dev.itemCounterRead_invalid h
  case histoInvalid => exact itemEnds_of_runItem rowOf_histoRead (by decide) fun d x h => Dev.itemHistoRead_invalid h
  case histo => exact itemEnds_of_runItem rowOf_histoRead (by decide) fun d x h => Dev.itemHistoRead_ok h
  case clear =>
    exact fun r => itemGoesOn_of_runItem rowOf_statsClear fun d x ⟨hr, hlo, hhi, hmask⟩ => Dev.itemStatsClear_asks hr hlo hhi hmask
  case clearInvalid => exact itemEnds_of_runItem rowOf_statsClear (by decide) fun d x h => Dev.itemStatsClear_invalid h
  case logInvalid => exact itemEnds_of_runItem rowOf_logRead (by decide) fun d x h => Dev.itemLogRead_invalid h
  case log => exact itemEnds_of_runItem rowOf_logRead (by decide) fun d x ⟨hlog, hn, hmax⟩ => Dev.itemLogRead_ok hlog hn hmax
  case traceInvalid => exact itemEnds_of_runItem rowOf_traceRead (by decide) fun d x h => Dev.itemTraceRead_invalid h
  case traceBusy =>
    exact itemEnds_of_runItem rowOf_traceRead (by decide) fun d x ⟨hsrc, hexp, hn, hmax, h⟩ => Dev.itemTraceRead_busy hsrc hn hexp hmax h
  case trace =>
    exact itemEnds_of_runItem rowOf_traceRead (by decide) fun d x ⟨hsrc, hexp, hn, hmax⟩ => Dev.itemTraceRead_records hsrc hn hexp hmax
  case exports =>
    exact itemGoesOn_of_runItem rowOf_traceRead fun d x ⟨hsrc, hexp, hn, hmax, h⟩ => Dev.itemTraceRead_exports hsrc hn hexp hmax h
  case gateNone =>
    exact itemEnds_of_runItem rowOf_gateListRead (by decide) fun d x ⟨hport, hsel, h⟩ => Dev.itemGateRead_none hport hsel h
  case gate =>
    exact fun g => itemEnds_of_runItem rowOf_gateListRead (by decide) fun d x ⟨hport, hsel, h⟩ => Dev.itemGateRead_some hport hsel h
  case gateInvalid => exact itemEnds_of_runItem rowOf_gateListRead (by decide) fun d x h => Dev.itemGateRead_invalid h
  case stepRead =>
    refine itemGoesOn_of_runItem rowOf_timeStep fun d x h => ?_
    rw [show d.runItem x 0x0802 = d.itemTimeStep x from rfl, Dev.itemTimeStep, h]
    rfl
  case stepMode =>
    refine itemGoesOn_of_runItem rowOf_timeStep fun d x h => ?_
    rw [show d.runItem x 0x0802 = d.itemTimeStep x from rfl, Dev.itemTimeStep, Dev.timeStep_invalidMode h]
  case step =>
    refine fun v => itemGoesOn_of_runItem rowOf_timeStep fun d x ⟨hv, hnone, hfits⟩ => ?_
    rw [show d.runItem x 0x0802 = d.itemTimeStep x from rfl, Dev.itemTimeStep, Dev.timeStep_value hv, if_neg (by simp [hnone]),
      if_neg (by simp [hfits])]
  case stepRange =>
    refine fun v => itemGoesOn_of_runItem rowOf_timeStep fun d x ⟨hv, hnone, hfits⟩ => ?_
    rw [show d.runItem x 0x0802 = d.itemTimeStep x from rfl, Dev.itemTimeStep, Dev.timeStep_value hv, if_neg (by simp [hnone]),
      if_pos (by simp [hfits])]
  case stepBusy =>
    refine itemGoesOn_of_runItem rowOf_timeStep fun d x ⟨hv, hpend⟩ => ?_
    obtain ⟨v, hv⟩ := Option.isSome_iff_exists.mp hv
    rw [show d.runItem x 0x0802 = d.itemTimeStep x from rfl, Dev.itemTimeStep, Dev.timeStep_value hv,
      if_pos (Option.isSome_iff_ne_none.mpr hpend)]
  case stepUnmeasured =>
    refine itemGoesOn_of_runItem rowOf_timeStep fun d x ⟨hmode, hnone⟩ => ?_
    rw [show d.runItem x 0x0802 = d.itemTimeStep x from rfl, Dev.itemTimeStep, hmode, Dev.timeStep_unmeasured hnone]
  case status => exact itemEnds_of_runItem rowOf_pairStatus (by decide) fun d x _ => rfl
  case handStandby => exact itemEnds_of_runItem rowOf_pairHandover (by decide) fun d x h => Dev.itemHandover_standby h
  case hand =>
    exact itemGoesOn_of_runItem rowOf_pairHandover fun d x ⟨hactive, hrole, hlost, hmirror, hhand, hagreed⟩ =>
      Dev.itemHandover_starts hactive ⟨hrole, hlost, hmirror⟩ hhand hagreed
  case handRefused =>
    exact itemEnds_of_runItem rowOf_pairHandover (by decide) fun d x ⟨hactive, h⟩ => Dev.itemHandover_refused hactive h
  case handBusy =>
    exact itemEnds_of_runItem rowOf_pairHandover (by decide) fun d x ⟨hactive, hrole, hlost, hmirror, h⟩ =>
      Dev.itemHandover_busy hactive ⟨hrole, hlost, hmirror⟩ h
  case save => exact itemGoesOn_of_runItem rowOf_configSave fun d x _ => rfl
  case firmware =>
    exact itemEnds_of_runItem rowOf_firmwareWrite (by decide) fun d x ⟨hlo, hhi, hmod, hend⟩ => Dev.itemFirmwareWrite_ok hlo hhi hmod hend
  case firmwareInvalid => exact itemEnds_of_runItem rowOf_firmwareWrite (by decide) fun d x h => Dev.itemFirmwareWrite_invalid h
  case activateBad => exact itemEnds_of_runItem rowOf_firmwareActivate (by decide) fun d x h => Dev.itemFirmwareActivate_bad h
  case activateOld =>
    exact itemEnds_of_runItem rowOf_firmwareActivate (by decide) fun d x ⟨hsize, hgood, h⟩ => Dev.itemFirmwareActivate_old hsize hgood h
  case activate =>
    exact fun i => itemGoesOn_of_runItem rowOf_firmwareActivate fun d x ⟨hgood, hsize, higood, hver, hsec, hfuse⟩ =>
      Dev.itemFirmwareActivate_asks hsize hgood higood hver hsec hfuse
  case reset => exact itemEnds_of_runItem rowOf_systemReset (by decide) fun d x _ => rfl
  case challenge => exact itemEnds_of_runItem rowOf_debugUnlock (by decide) fun d x h => Dev.itemDebug_challenge h
  case unlock =>
    exact fun c => itemEnds_of_runItem rowOf_debugUnlock (by decide) fun d x ⟨h, hc, hsig⟩ => Dev.itemDebug_unlocks h hc hsig
  case unlockBad => exact itemEnds_of_runItem rowOf_debugUnlock (by decide) fun d x ⟨h, hsig⟩ => Dev.itemDebug_refuses h hsig
  case lock => exact itemEnds_of_runItem rowOf_debugUnlock (by decide) fun d x h => Dev.itemDebug_locks h
  case debugInvalid => exact itemEnds_of_runItem rowOf_debugUnlock (by decide) fun d x h => Dev.itemDebug_invalid h

end Sys2Proof.Machine
end

