-- ==== Sys2Proof/Proofs/Monitors.lean ====
section
/-! PROOFS. Counters, histograms and dumps (R383 - R389, R393 - R395): selections, latched reads, samples, and the dump that is due. -/

namespace Sys2Proof.Machine
open Sys2Proof

/-! ## The commands -/

section
variable {s : State} (h : s.runs = true)
include h

theorem exec_bobbinSnapshot : exec .bobbinSnapshot s = .next (s.put s.dev.bobbin) := State.run_of_runs _ rfl h

theorem exec_histoCfgWrite {u : Nat} (v : Nat) (hu : u < 35) : exec (.histoCfgWrite u v) s = .next (s.put (s.dev.regCommand (R.HISTO_CFG u) v)) :=
  State.run_of_runs _ (decide_eq_true hu) h

variable {n : Nat} (v : Nat) (hn : n < 64)
include hn

theorem exec_perfSelWrite : exec (.perfSelWrite n v) s = .next (s.put (s.dev.regCommand (R.PERF_SEL n) v)) :=
  State.run_of_runs _ (decide_eq_true hn) h
theorem exec_perfCntRead : exec (.perfCntRead n) s = .next (s.put (s.dev.regRead (R.PERF_CNT_LO n)).1) :=
  State.run_of_runs _ (decide_eq_true hn) h
theorem exec_ovf : exec (.ovf n v) s = .next (s.put (s.dev.regCommand (R.PERF_CNT_HI n) (putBit v 31 true))) :=
  State.run_of_runs _ (decide_eq_true hn) h
end

section
variable {d : Dev}

/-! ## Samples (R389, R390) -/

theorem Dev.histo_shed (u b : Nat) (h : 1 ≤ d.throttlePick) : d.histo u b = d := if_pos h

/-- A sample that brings neither its bin nor SAMPLES to the top. -/
theorem Dev.histo_adds {u b : Nat} {h : Histo} (hh : h = AMap.get d.perf.histos u {}) (hlevel : d.throttlePick = 0)
    (hbin : AMap.get h.bins b 0 + 1 < 2 ^ 48 - 1) (hsamples : h.samples + 1 < 2 ^ 64 - 1) :
    d.histo u b =
      { d with perf := { d.perf with histos := AMap.put d.perf.histos u
                                       { h with bins := AMap.put h.bins b (AMap.get h.bins b 0 + 1), samples := h.samples + 1 } } } := by
  subst hh
  simp only [Dev.histo, if_neg (show ¬d.throttlePick ≥ 1 by omega), min_eq_left hbin.le, min_eq_left hsamples.le,
    decide_eq_false hbin.ne, decide_eq_false hsamples.ne, Bool.or_false, Bool.false_and, Bool.false_eq_true, if_false]

theorem sat16_of_range {x : Int} (hlo : -32768 ≤ x) (hhi : x ≤ 32767) : sat16 x = x := by
  simp only [sat16, satI]
  omega

theorem Dev.wordHisto_input {k input : Nat} {code : Int} (h : input = (AMap.get d.perf.histos (33 + k) {}).input) (hlo : -32768 ≤ code)
    (hhi : code ≤ 32767) : d.wordHisto k input code = d.histo (33 + k) ((code + 32768).toNat / 2048) := by
  rw [Dev.wordHisto, if_pos h.symm, sat16_of_range hlo hhi]

theorem Dev.wordHisto_other {k input : Nat} (code : Int) (h : input ≠ (AMap.get d.perf.histos (33 + k) {}).input) :
    d.wordHisto k input code = d := if_neg h.symm

/-! ## Selections and settings (R383 - R385, R389) -/

/-- A selection as it is stored: it counts from the next boundary. -/
def Dev.perfSelect (d : Dev) (n v : Nat) : Dev :=
  let e := (((d.wr (F.PERF_SEL.EVENT n) (bits v 7 0)).wr (F.PERF_SEL.MODE n) (bits v 9 8)).wr (F.PERF_SEL.POL n) (bits v 12 12)).wr
    (F.PERF_SEL.QUAL n) (bits v 21 16)
  { e with perf := { e.perf with selPend := e.perf.selPend ++ [n] } }

theorem Dev.regCommand_PERF_SEL {n : Nat} (v : Nat) (hn : n < 64) : d.regCommand (R.PERF_SEL n) v = d.perfSel n v := by
  obtain ⟨fields, hreg⟩ := regAt_of_rowAt (rowAt_PERF_SEL n hn)
  exact Dev.regCommand_atRow hreg (fun x => x.pairOwned_of_notShared [n] (by decide) (by decide)) rfl

section
variable {n v : Nat} (hn : n < 64)
include hn

/-- What the selected MODE and EVENT say of a selection. -/
theorem Dev.perfSel_eq : d.perfSel n v =
    (match bits v 9 8 with
    | 0 => if evAssigned (bits v 7 0) then d.perfSelect n v else (d.perfSelect n v).raise 0x2B 6 n 1
    | 3 => d.perfSelect n v
    | _ => if bits v 7 0 ≤ 22 then d.perfSelect n v else (d.perfSelect n v).raise 0x2B 11 n (bits v 7 0)) :=
  if_neg (by omega)

theorem Dev.perfSel_taken (h : bits v 9 8 = 3 ∨ bits v 9 8 = 0 ∧ evAssigned (bits v 7 0) = true ∨ 1 ≤ bits v 9 8 ∧ bits v 7 0 ≤ 22) :
    d.perfSel n v = d.perfSelect n v := by
  rw [Dev.perfSel_eq hn]
  rcases h with hmode | ⟨hmode, hev⟩ | ⟨hmode, hev⟩
  · simp only [hmode]
  · rw [hmode]
    exact if_pos hev
  · split
    next h0 => omega
    next => rfl
    next => exact if_pos hev

theorem Dev.perfSel_unassigned (hmode : bits v 9 8 = 0) (hev : evAssigned (bits v 7 0) = false) :
    d.perfSel n v = (d.perfSelect n v).raise 0x2B 6 n 1 := by
  rw [Dev.perfSel_eq hn, hmode]
  exact if_neg (by simp [hev])

theorem Dev.perfSel_noSource (hmode : bits v 9 8 = 1 ∨ bits v 9 8 = 2) (hev : 22 < bits v 7 0) :
    d.perfSel n v = (d.perfSelect n v).raise 0x2B 11 n (bits v 7 0) := by
  rw [Dev.perfSel_eq hn]
  rcases hmode with hmode | hmode <;> rw [hmode] <;> exact if_neg (Nat.not_le.mpr hev)

theorem Dev.regCommand_PERF_CNT_HI_ovf : d.regCommand (R.PERF_CNT_HI n) (putBit v 31 true) = d.ovfClear n := by
  obtain ⟨fields, hreg⟩ := regAt_of_rowAt (rowAt_PERF_CNT_HI n hn)
  exact Dev.regCommand_atRow hreg (fun x => x.pairOwned_of_notShared [n] (by decide) (by decide))
    (Prod.ext (if_pos (bit_putBit_self v 31 true)) rfl)

theorem Dev.regRead_PERF_CNT_LO : (d.regRead (R.PERF_CNT_LO n)).1 = d.perfCntRead n := by
  obtain ⟨fields, hreg⟩ := regAt_of_rowAt (rowAt_PERF_CNT_LO n hn)
  simp only [Dev.regRead, hreg]
  rfl
end

section
variable {u v : Nat} (hu : u < 35)
include hu

theorem Dev.histoCfg_refused (hword : 33 ≤ u) (hinput : 30 ≤ bits v 12 8) : d.histoCfg u v = (d, St.valueInvalid) := by
  rw [Dev.histoCfg, if_neg (by omega), if_pos (by simp [hword, hinput])]

theorem Dev.histoCfg_taken {e : Dev} (h : u < 33 ∨ bits v 12 8 < 30)
    (he : e = ((d.wr (F.HISTO_CFG.SHIFT u) (bits v 3 0)).wr (F.HISTO_CFG.INPUT u) (bits v 12 8)).wr (F.HISTO_CFG.BASE u) (bits v 31 16)) :
    d.histoCfg u v = ({ e with perf := { e.perf with cfgPend := e.perf.cfgPend ++ [u] } }, St.ok) := by
  subst he
  rw [Dev.histoCfg, if_neg (by omega), if_neg (by simp only [Bool.and_eq_true, decide_eq_true_eq]; omega)]

theorem Dev.regCommand_HISTO_CFG {e : Dev} (h : d.histoCfg u v = (e, St.ok)) : d.regCommand (R.HISTO_CFG u) v = e := by
  obtain ⟨fields, hreg⟩ := regAt_of_rowAt (rowAt_HISTO_CFG u hu)
  exact Dev.regCommand_atRow hreg (fun x => x.pairOwned_of_notShared [u] (by decide) (by decide)) h

theorem Dev.regRejected_HISTO_CFG (st : Nat) : d.regRejected (R.HISTO_CFG u) v st = d := by
  apply Dev.regRejected_none <;> simp only [R.HISTO_CFG, R.SV_INJ] <;> omega

theorem Dev.regCommand_HISTO_CFG_refused (h : d.histoCfg u v = (d, St.valueInvalid)) : d.regCommand (R.HISTO_CFG u) v = d := by
  have hwrite : d.regWrite (R.HISTO_CFG u) v = (d, St.valueInvalid) :=
    d.regWrite_row _ v _ _ _ (rowAt_HISTO_CFG u hu)
      (by rw [d.pairOwned_of_notShared [u] (by decide) (by decide), Bool.false_and]) fun fields => h
  rw [d.regCommand_refused _ v (by rw [hwrite]; exact (by decide : St.valueInvalid ≠ St.ok)), Dev.regRejected_HISTO_CFG hu]
end

/-! ## The dump that is due (R393 - R395, R397) -/

theorem Dev.bobbin_none (h : d.perf.dump = none) : d.bobbin = d := by
  simp only [Dev.bobbin, h]

section
variable {e : Dev} {slot seq : Nat} {sn : Snap} (h : d.perf.dump = some (seq, sn)) (he : e = { d with perf := { d.perf with dump := none } })
  (hslot : slot = d.rd F.BOB_CFG.BOB_SESSION)
include h he hslot

theorem Dev.bobbin_unsent (hout : slot = 0 ∨ 16 < slot) : d.bobbin = e := by
  subst he hslot
  simp only [Dev.bobbin, h]
  exact if_pos (by simp only [Bool.or_eq_true, decide_eq_true_eq]; exact hout)

variable (hlo : slot ≠ 0) (hhi : slot ≤ 16)
include hlo hhi

/-- A dump that has a slot is built for the session that stands there. -/
theorem Dev.bobbin_slot : d.bobbin =
    (match d.session slot with
    | none => e.bump F.BOB_CNT.SKIP 1
    | some s =>
      if s.opening then e.bump F.BOB_CNT.SKIP 1
      else if s.priv = 0 && !s.ctrRead then (e.bump F.BOB_CNT.SKIP 1).raise 0x2B 7 slot 0
      else
        let r := e.dumpParts 0xB1 slot 4 seq sn s ((List.range 64).map (fun n => ctrEntry sn n) ++ sn.words.map (fun w => beBytes 4 w))
        let r := if r.2 && e.flag F.BOB_CFG.HISTO_EN then
            r.1.dumpParts 0xB2 slot 5 seq sn s ((List.range 35).map (fun u => histoEntry sn u))
          else r
        if r.2 then r.1 else (r.1.bump F.BOB_CNT.DROP 1).raise 0x2B 2 slot seq) := by
  subst he hslot
  unfold Dev.bobbin
  rw [h]
  exact if_neg (by simp only [Bool.or_eq_true, decide_eq_true_eq]; exact not_or.mpr ⟨hlo, Nat.not_lt.mpr hhi⟩)

theorem Dev.bobbin_noSession (hs : d.session slot = none) : d.bobbin = e.bump F.BOB_CNT.SKIP 1 := by
  rw [Dev.bobbin_slot h he hslot hlo hhi, hs]

section
variable {ss : Session} (hs : d.session slot = some ss)
include hs

theorem Dev.bobbin_opening (hopen : ss.opening = true) : d.bobbin = e.bump F.BOB_CNT.SKIP 1 := by
  rw [Dev.bobbin_slot h he hslot hlo hhi, hs]
  exact if_pos hopen

variable (hopen : ss.opening = false)
include hopen

theorem Dev.bobbin_noRight (hpriv : ss.priv = 0) (hread : ss.ctrRead = false) :
    d.bobbin = (e.bump F.BOB_CNT.SKIP 1).raise 0x2B 7 slot 0 := by
  rw [Dev.bobbin_slot h he hslot hlo hhi, hs]
  exact (if_neg (by simp [hopen])).trans (if_pos (by simp [hpriv, hread]))

theorem Dev.bobbin_sent {q r : Dev × Bool} (hright : ss.priv ≠ 0 ∨ ss.ctrRead = true)
    (hq : q = e.dumpParts 0xB1 slot 4 seq sn ss ((List.range 64).map (fun n => ctrEntry sn n) ++ sn.words.map (fun w => beBytes 4 w)))
    (hr : r = (if q.2 && e.flag F.BOB_CFG.HISTO_EN then
      q.1.dumpParts 0xB2 slot 5 seq sn ss ((List.range 35).map (fun u => histoEntry sn u)) else q)) :
    d.bobbin = (if r.2 then r.1 else (r.1.bump F.BOB_CNT.DROP 1).raise 0x2B 2 slot seq) := by
  have hmay : ¬(decide (ss.priv = 0) && !ss.ctrRead) = true := by
    rcases hright with hpriv | hread
    · simp [hpriv]
    · simp [hread]
  rw [Dev.bobbin_slot h he hslot hlo hhi, hs, hr, hq]
  exact (if_neg (by simp [hopen])).trans (if_neg hmay)
end
end
end

/-- Settles O58: each command comes to one function of the counters' block, and each clause is one case of it. -/
theorem monitorsAct : Obligations.MonitorsAct := by
  refine ⟨?samples, ?words, ?selection, ?reads, ?settings, ?dump⟩
  case samples =>
    rintro d u b h hh
    exact ⟨Dev.histo_shed u b, Dev.histo_adds hh⟩
  case words =>
    rintro d k input code
    exact ⟨Dev.wordHisto_input, Dev.wordHisto_other code⟩
  case selection =>
    rintro s d e w n v rfl hruns hn rfl rfl
    rw [exec_perfSelWrite hruns v hn, Dev.regCommand_PERF_SEL v hn]
    refine ⟨fun h => ?_, fun hmode hev => ?_, fun hmode hev => ?_⟩
    · rw [Dev.perfSel_taken hn h]
      rfl
    · rw [Dev.perfSel_unassigned hn hmode hev]
      rfl
    · rw [Dev.perfSel_noSource hn hmode hev]
      rfl
  case reads =>
    rintro s d n v rfl hruns hn
    rw [exec_perfCntRead hruns hn, Dev.regRead_PERF_CNT_LO hn, exec_ovf hruns v hn, Dev.regCommand_PERF_CNT_HI_ovf hn]
    exact ⟨rfl, rfl⟩
  case settings =>
    rintro s d e u v rfl hruns hu
    rw [exec_histoCfgWrite hruns v hu]
    refine ⟨fun hword hinput => ?_, fun h he => ?_⟩
    · rw [Dev.regCommand_HISTO_CFG_refused hu (Dev.histoCfg_refused hu hword hinput), State.put_dev]
    · rw [Dev.regCommand_HISTO_CFG hu (Dev.histoCfg_taken hu h he)]
  case dump =>
    rintro s d e slot seq sn rfl hruns
    rw [exec_bobbinSnapshot hruns]
    refine ⟨fun h => ?_, fun h he hslot => ⟨fun hout => ?_, fun hlo hhi hs => ?_, fun hlo hhi ss hs hopen => ?_, fun hlo hhi ss r hs hopen =>
      ⟨fun hpriv hread => ?_, fun hright q hq hr => ?_⟩⟩⟩
    · rw [Dev.bobbin_none h, State.put_dev]
    · rw [Dev.bobbin_unsent h he hslot hout]
    · rw [Dev.bobbin_noSession h he hslot hlo hhi hs]
    · rw [Dev.bobbin_opening h he hslot hlo hhi hs hopen]
    · rw [Dev.bobbin_noRight h he hslot hlo hhi hs hopen hpriv hread]
    · rw [Dev.bobbin_sent h he hslot hlo hhi hs hopen hright hq hr]

end Sys2Proof.Machine
end

