-- ==== Sys2Proof/Proofs/Stores.lean ====
section
/-! PROOFS. Reed and Loam (R402 - R407, R410): requests, locks, timers, master resets, windows, errors of Loam and the end
of an exported ring. -/

namespace Sys2Proof.Machine
open Sys2Proof

/-! ## The commands -/

section
variable {s : State} (h : s.runs = true)
include h

theorem exec_traceExportEnd : exec .traceExportEnd s = .next (s.put s.dev.traceExportEnd) := State.run_of_runs _ rfl h

theorem exec_reedLockTimeout {t : Nat} (ht : t < 10) : exec (.reedLockTimeout t) s = .next (s.put (s.dev.reedLockTimeout t)) :=
  State.run_of_runs _ (decide_eq_true ht) h

theorem exec_reedWinWrite {n : Nat} (ctl : Bool) (v : Nat) (hn : n < 16) :
    exec (.reedWinWrite n ctl v) s = .next (s.put (s.dev.regCommand (if ctl then R.REED_WIN_CTL n else R.REED_WIN_BASE n) v)) :=
  State.run_of_runs _ (decide_eq_true hn) h

variable {m : Nat} (hm : m < 12)
include hm

theorem exec_reedRequest (addr : Nat) (write : Bool) (words : List Nat) (count : Nat) (lock unlock barrier : Bool) :
    exec (.reedRequest m addr write words count lock unlock barrier) s =
      .next (s.put (s.dev.reedRequest (reqOf m addr write words count lock unlock barrier))) :=
  State.run_of_runs _ (decide_eq_true hm) h

theorem exec_masterReset (addr : Nat) (words : List Nat) (item : Option Nat) :
    exec (.masterReset m addr words item) s = .next (s.put (s.dev.masterReset m addr words item)) :=
  State.run_of_runs _ (decide_eq_true hm) h

theorem exec_dramError (addr : Nat) (corrected : Bool) :
    exec (.dramError m addr corrected) s = .next (s.put (s.dev.dramError m addr corrected)) :=
  State.run_of_runs _ (decide_eq_true hm) h

variable {t : Nat} (ht : t < 10)
include ht

theorem exec_starve : exec (.starve m t) s = .next (s.put (s.dev.reedStarve m t)) :=
  State.run_of_runs _ (by rw [decide_eq_true hm, decide_eq_true ht]; rfl) h
theorem exec_orderHoldLong : exec (.orderHoldLong m t) s = .next (s.put (s.dev.reedHoldLong m t)) :=
  State.run_of_runs _ (by rw [decide_eq_true hm, decide_eq_true ht]; rfl) h
end

section
variable {d : Dev}

/-! ## A request is refused or joins those that wait (R399, R402, R403) -/

/-- The words that a request moves. -/
def ReedReq.size (r : ReedReq) : Nat := if r.write then r.words.length else r.count

/-- A request as it joins those that wait. -/
def ReedReq.from (r : ReedReq) (tb : Nat) : ReedReq := { r with sinceTb := tb, starved := false, longHeld := false }

theorem Dev.reedRequest_misaligned {r : ReedReq} (h : r.addr % 4 ≠ 0) : d.reedRequest r = d := if_pos (by simp [h])

section
variable {r : ReedReq} (hm : r.master < 12) (ha : r.addr % 4 = 0)
include hm ha

/-- A well-formed request goes by the outcome of its checks. -/
theorem Dev.reedRequest_checked {x : Nat × Option Nat} (hx : (if r.barrier then (0, none) else if 4 * r.size = 0 then (0, some 5)
      else d.reedCheck r.master r.addr (4 * r.size) r.write) = x) :
    d.reedRequest r = (match x.2 with
      | some src => (d.raise 0x02 src (r.addr % 2 ^ 32) x.1).reedError r.master r.addr x.1
      | none => ({ d with reed := { d.reed with waiting := d.reed.waiting ++ [r.from d.time.tb] } } : Dev).reedDrain
          (d.reed.waiting.length + 1)) := by
  subst hx
  rw [Dev.reedRequest, if_neg (by simp [ha, Nat.not_le.mpr hm])]
  simp only [List.length_append, List.length_singleton] <;>
    rfl

theorem Dev.reedRequest_joins (h : r.barrier = true ∨ (r.size ≠ 0 ∧ (d.reedCheck r.master r.addr (4 * r.size) r.write).2 = none)) :
    d.reedRequest r =
      ({ d with reed := { d.reed with waiting := d.reed.waiting ++ [r.from d.time.tb] } } : Dev).reedDrain (d.reed.waiting.length + 1) := by
  rw [Dev.reedRequest_checked hm ha rfl]
  cases hbar : r.barrier with
  | true => rfl
  | false =>
    obtain ⟨hsize, hcheck⟩ := h.resolve_left (by simp [hbar])
    simp only [Bool.false_eq_true, if_false, if_neg (show ¬4 * r.size = 0 by omega), hcheck]

variable (hbar : r.barrier = false)
include hbar

theorem Dev.reedRequest_refused {src t : Nat} (hsize : r.size ≠ 0) (h : d.reedCheck r.master r.addr (4 * r.size) r.write = (t, some src)) :
    d.reedRequest r = (d.raise 0x02 src (r.addr % 2 ^ 32) t).reedError r.master r.addr t :=
  Dev.reedRequest_checked hm ha (x := (t, some src)) (by rw [hbar, if_neg Bool.false_ne_true, if_neg (by omega), h])

theorem Dev.reedRequest_empty (hsize : r.size = 0) :
    d.reedRequest r = (d.raise 0x02 5 (r.addr % 2 ^ 32) 0).reedError r.master r.addr 0 :=
  Dev.reedRequest_checked hm ha (x := (0, some 5)) (by rw [hbar, if_neg Bool.false_ne_true, if_pos (by omega)])
end

/-- The target that the checks answer is the one that serves the address. -/
theorem Dev.reedCheck_target (d : Dev) (m a n : Nat) (write : Bool) : (d.reedCheck m a n write).1 = (targetOf a).getD 15 := by
  simp only [Dev.reedCheck, apply_ite Prod.fst, ite_self]

/-! ## The grant of a single request (R403 - R405) -/

section
variable {q : ReedReq}

theorem Dev.reedDrain_blocked (hw : d.reed.waiting = [q]) (h : d.grantable 0 q = false) : d.reedDrain 1 = d := by
  simp [Dev.reedDrain, hw, h]

theorem Dev.reedDrain_grants (hw : d.reed.waiting = [q]) (h : d.grantable 0 q = true) (hbar : q.barrier = false) :
    d.reedDrain 1 = ({ d with reed := { d.reed with waiting := [] } } : Dev).reedGrant (ReedReq_target q) q := by
  simp [Dev.reedDrain, hw, h, hbar]

theorem Dev.grantable_lockedOut {l : ReedLock} (i : Nat) (hl : AMap.find d.reed.locks (ReedReq_target q) = some l) (hne : l.master ≠ q.master) :
    d.grantable i q = false := by
  simp [Dev.grantable, Dev.lockedOut, hl, hne]

theorem Dev.grantable_alone (hlocks : d.reed.locks = []) (hlock : q.lock = false) (hbar : q.barrier = false) : d.grantable 0 q = true := by
  simp [Dev.grantable, Dev.lockedOut, Dev.orderHeld, hlocks, hlock, hbar, AMap.find]

/-- A request granted outside a lock: its words are moved at once. -/
theorem Dev.reedGrant_unlocked {t : Nat} (hfree : AMap.find d.reed.locks t = none) (hlock : q.lock = false) :
    d.reedGrant t q =
      (let e : Dev := { d with reed := { d.reed with rot := AMap.put d.reed.rot t q.master } }
       if q.write then
         let x := e.reedWrites (q.words.zipIdx.map (fun (vi : Nat × Nat) => (q.addr + 4 * vi.2, vi.1)))
         if x.2 then x.1.reedAnswer q [] else (x.1.raise 0x02 5 (q.addr % 2 ^ 32) t).reedError q.master q.addr t
       else match e.reedReads q.addr q.count with
         | (d, some ws) => d.reedAnswer q ws
         | (d, none) => (d.raise 0x02 5 (q.addr % 2 ^ 32) t).reedError q.master q.addr t) := by
  unfold Dev.reedGrant
  simp only [hfree, hlock, Bool.false_eq_true, if_false] <;>
    rfl

variable {t : Nat} {e : Dev} (hfree : AMap.find d.reed.locks t = none) (hlock : q.lock = false)
  (he : e = { d with reed := { d.reed with rot := AMap.put d.reed.rot t q.master } })
include hfree hlock he

theorem Dev.reedGrant_writeOne {v : Nat} (hwrite : q.write = true) (hwords : q.words = [v]) (hok : (e.reedWrite q.addr v).2 = true) :
    d.reedGrant t q = (e.reedWrite q.addr v).1.reedAnswer q [] := by
  subst he
  have hwrites : ∀ x : Dev, (x.reedWrite q.addr v).2 = true → x.reedWrites [(q.addr, v)] = ((x.reedWrite q.addr v).1, true) := by
    intro x hx
    rw [Dev.reedWrites]
    generalize x.reedWrite q.addr v = r at hx
    obtain ⟨y, ok⟩ := r
    obtain rfl : ok = true := hx
    rfl
  rw [Dev.reedGrant_unlocked hfree hlock]
  simp only [hwrite, if_true, hwords, List.zipIdx_cons, List.zipIdx_nil, List.map_cons, List.map_nil, Nat.mul_zero, Nat.add_zero, hwrites _ hok]

theorem Dev.reedGrant_readOne {v : Nat} (hwrite : q.write = false) (hcount : q.count = 1) (hok : (e.reedRead q.addr).2 = some v) :
    d.reedGrant t q = (e.reedRead q.addr).1.reedAnswer q [v] := by
  subst he
  have hreads : ∀ x : Dev, (x.reedRead q.addr).2 = some v → x.reedReads q.addr 1 = ((x.reedRead q.addr).1, some [v]) := by
    intro x hx
    rw [Dev.reedReads]
    generalize x.reedRead q.addr = r at hx
    obtain ⟨y, w⟩ := r
    obtain rfl : w = some v := hx
    rfl
  rw [Dev.reedGrant_unlocked hfree hlock]
  simp only [hwrite, Bool.false_eq_true, if_false, hcount, hreads _ hok]

theorem Dev.reedGrant_readError (hwrite : q.write = false) (hcount : q.count = 1) (hbad : (e.reedRead q.addr).2 = none) :
    d.reedGrant t q = ((e.reedRead q.addr).1.raise 0x02 5 (q.addr % 2 ^ 32) t).reedError q.master q.addr t := by
  subst he
  have hreads : ∀ x : Dev, (x.reedRead q.addr).2 = none → x.reedReads q.addr 1 = ((x.reedRead q.addr).1, none) := by
    intro x hx
    rw [Dev.reedReads]
    generalize x.reedRead q.addr = r at hx
    obtain ⟨y, w⟩ := r
    obtain rfl : w = none := hx
    rfl
  rw [Dev.reedGrant_unlocked hfree hlock]
  simp only [hwrite, Bool.false_eq_true, if_false, hcount, hreads _ hbad]
end

/-- The only request that waits, held by no lock or order, is granted at once. -/
theorem Dev.reedRequest_granted {r : ReedReq} {t : Nat} (hm : r.master < 12) (ha : r.addr % 4 = 0) (hbar : r.barrier = false)
    (hsize : r.size ≠ 0) (hcheck : d.reedCheck r.master r.addr (4 * r.size) r.write = (t, none)) (hwait : d.reed.waiting = [])
    (hlocks : d.reed.locks = []) (hlock : r.lock = false) : d.reedRequest r = d.reedGrant t (r.from d.time.tb) := by
  have ht : ReedReq_target (r.from d.time.tb) = t := (d.reedCheck_target r.master r.addr _ r.write).symm.trans (congrArg Prod.fst hcheck)
  have hempty : ({ d with reed := { d.reed with waiting := [] } } : Dev) = d := by rw [← hwait]
  rw [Dev.reedRequest_joins hm ha (.inr ⟨hsize, congrArg Prod.snd hcheck⟩), hwait]
  refine (Dev.reedDrain_grants (q := r.from d.time.tb) rfl (by exact Dev.grantable_alone hlocks hlock hbar) hbar).trans ?_
  rw [ht]
  exact congrArg (fun x : Dev => x.reedGrant t (r.from d.time.tb)) hempty

theorem Dev.reedRequest_lockedOut {r : ReedReq} {t : Nat} {l : ReedLock} (hm : r.master < 12) (ha : r.addr % 4 = 0) (hsize : r.size ≠ 0)
    (hcheck : d.reedCheck r.master r.addr (4 * r.size) r.write = (t, none)) (hwait : d.reed.waiting = [])
    (hl : AMap.find d.reed.locks t = some l) (hne : l.master ≠ r.master) :
    d.reedRequest r = { d with reed := { d.reed with waiting := [r.from d.time.tb] } } := by
  have ht : ReedReq_target (r.from d.time.tb) = t := (d.reedCheck_target r.master r.addr _ r.write).symm.trans (congrArg Prod.fst hcheck)
  rw [Dev.reedRequest_joins hm ha (.inr ⟨hsize, congrArg Prod.snd hcheck⟩), hwait]
  exact Dev.reedDrain_blocked (q := r.from d.time.tb) rfl (Dev.grantable_lockedOut 0 (by rw [ht]; exact hl) hne)

/-! ## Timers (R403 - R405) -/

theorem Dev.reedLockTimeout_none {t : Nat} (h : AMap.find d.reed.locks t = none) : d.reedLockTimeout t = d := by
  simp only [Dev.reedLockTimeout, h]

theorem Dev.reedLockTimeout_ends {t : Nat} {l : ReedLock} (h : AMap.find d.reed.locks t = some l) (hdue : d.before (l.sinceTb + 10000) = true) :
    d.reedLockTimeout t =
      (let e := d.wait (l.sinceTb + 10000)
       let x := (({ e with reed := { e.reed with locks := AMap.del e.reed.locks t } } : Dev).raise 0x02 2 ((l.writes.headD (0, 0)).1 % 2 ^ 32)
         l.master).reedError l.master ((l.writes.headD (0, 0)).1) t
       x.reedDrain x.reed.waiting.length) := by
  simp only [Dev.reedLockTimeout, h, Dev.fire_of_before _ hdue]

theorem Dev.reedStarve_none {m t : Nat} (h : ∀ x ∈ d.reed.waiting, x.master = m → ReedReq_target x = t → x.starved = true) :
    d.reedStarve m t = d := by
  have hnone : d.reed.waiting.find? (fun (x : ReedReq) => x.master = m && ReedReq_target x = t && !x.starved) = none := by
    rw [List.find?_eq_none]
    intro x hx hcond
    simp only [Bool.and_eq_true, decide_eq_true_eq, Bool.not_eq_true'] at hcond
    obtain ⟨⟨hxm, hxt⟩, hfresh⟩ := hcond
    rw [h x hx hxm hxt] at hfresh
    exact Bool.noConfusion hfresh
  simp only [Dev.reedStarve, hnone]

theorem Dev.reedStarve_reports {m t : Nat} {q : ReedReq}
    (h : d.reed.waiting.find? (fun (x : ReedReq) => x.master = m && ReedReq_target x = t && !x.starved) = some q)
    (hdue : d.before (q.sinceTb + 100000) = true) :
    d.reedStarve m t = (let e := d.wait (q.sinceTb + 100000)
      (e.markReq q (fun (x : ReedReq) => { x with starved := true })).raise 0x02 8 t (e.time.tb - q.sinceTb)) := by
  simp only [Dev.reedStarve, h, Dev.fire_of_before _ hdue]

theorem Dev.reedHoldLong_none {m t : Nat} (h : d.reed.waiting = []) : d.reedHoldLong m t = d := by
  simp only [Dev.reedHoldLong, h, List.zipIdx_nil, List.find?_nil]

theorem Dev.reedHoldLong_reports {m t i : Nat} {q : ReedReq}
    (h : d.reed.waiting.zipIdx.find? (fun (ri : ReedReq × Nat) => ri.1.master = m && ReedReq_target ri.1 = t && !ri.1.longHeld &&
      d.orderHeld (d.reed.waiting.take ri.2) ri.1) = some (q, i))
    (hdue : d.before (q.sinceTb + 50001) = true) :
    d.reedHoldLong m t = (let e := d.wait (q.sinceTb + 50001)
      (e.markReq q (fun (x : ReedReq) => { x with longHeld := true })).raise 0x02 3 t (e.time.tb - q.sinceTb)) := by
  simp only [Dev.reedHoldLong, h, Dev.fire_of_before _ hdue]

/-! ## Windows (R402) -/

section
variable {e : Dev} {n v : Nat} (hn : n < 16)
include hn

theorem Dev.regRejected_window {a : Nat} (st : Nat) (ha : a = R.REED_WIN_BASE n ∨ a = R.REED_WIN_CTL n) :
    d.regRejected a v st = d.raise 0x02 7 n 1 := by
  have hform : 0x20400 + 0x10 * n ≤ a ∧ a ≤ 0x20404 + 0x10 * n := by
    rcases ha with rfl | rfl <;> simp only [R.REED_WIN_BASE, R.REED_WIN_CTL] <;> omega
  rw [Dev.regRejected, if_pos (by simp only [Bool.and_eq_true, decide_eq_true_eq]; omega), show (a - 0x20400) / 16 = n by omega]

/-- A register of a window takes a word that leaves the window well formed, and otherwise reports the refusal alone. -/
theorem Dev.regCommand_window {a base : Nat} (hrow : rowAt a = some (base, [n])) (hbase : base = R.REED_WIN_BASE 0 ∨ base = R.REED_WIN_CTL 0)
    (ha : a = R.REED_WIN_BASE n ∨ a = R.REED_WIN_CTL n)
    (hw : ∀ fields, d.rowWrite a base [n] fields v = if e.winOk n then (e, St.ok) else (d.raise 0x02 7 n 1, St.valueInvalid)) :
    d.regCommand a v = if e.winOk n then e else d.raise 0x02 7 n 1 := by
  have hown : ∀ x : Dev, x.pairOwned base [n] = false := by
    intro x
    rcases hbase with rfl | rfl <;> exact x.pairOwned_of_notShared [n] (by decide) (by decide)
  by_cases hok : e.winOk n = true
  · rw [if_pos hok]
    exact Dev.regCommand_plain d e a v base [n] hrow (hown d) (hown e) fun fields => (hw fields).trans (if_pos hok)
  · rw [if_neg hok]
    have hwrite : d.regWrite a v = (d.raise 0x02 7 n 1, St.valueInvalid) :=
      d.regWrite_row a v base [n] _ hrow (by rw [hown, Bool.false_and]) fun fields => (hw fields).trans (if_neg hok)
    rw [d.regCommand_refused a v (by rw [hwrite]; exact (by decide : St.valueInvalid ≠ St.ok)), Dev.regRejected_window hn _ ha]

theorem Dev.regCommand_REED_WIN_BASE (he : e = d.wr (F.REED_WIN_BASE.BASE n) (bits v 27 0)) :
    d.regCommand (R.REED_WIN_BASE n) v = if e.winOk n then e else d.raise 0x02 7 n 1 := by
  subst he
  exact Dev.regCommand_window hn (rowAt_REED_WIN_BASE n hn) (.inl rfl) (.inl rfl) fun fields => rfl

theorem Dev.regCommand_REED_WIN_CTL
    (he : e = ((((d.wr (F.REED_WIN_CTL.SIZE_LOG2 n) (bits v 5 0)).wr (F.REED_WIN_CTL.MASTERS n) (bits v 27 16)).setFlag
      (F.REED_WIN_CTL.READ n) (bit v 28)).setFlag (F.REED_WIN_CTL.WRITE n) (bit v 29)).setFlag (F.REED_WIN_CTL.EN n) (bit v 31)) :
    d.regCommand (R.REED_WIN_CTL n) v = if e.winOk n then e else d.raise 0x02 7 n 1 := by
  subst he
  exact Dev.regCommand_window hn (rowAt_REED_WIN_CTL n hn) (.inr rfl) (.inr rfl) fun fields => rfl
end

/-! ## Loam (R407) -/

theorem Dev.reedError_loam (d : Dev) (m a t : Nat) : (d.reedError m a t).loam = d.loam := by
  unfold Dev.reedError
  split <;> rfl

theorem Dev.dramError_outside {m addr : Nat} (corrected : Bool) (h : addr < 0x100000000 ∨ 0x200000000 ≤ addr) :
    d.dramError m addr corrected = d := if_pos (by simpa only [Bool.or_eq_true, decide_eq_true_eq] using h)

section
variable {m o : Nat} (ho : o < 2 ^ 32)
include ho

theorem Dev.loamForm : ¬(decide (0x100000000 + o < 0x100000000) || decide (0x200000000 ≤ 0x100000000 + o)) = true := by
  simp only [Bool.or_eq_true, decide_eq_true_eq]
  omega

theorem Dev.dramError_corrected : d.dramError m (0x100000000 + o) true = d.raise 0x03 1 o 0 := by
  rw [Dev.dramError, if_neg (Dev.loamForm ho), if_pos rfl, Nat.add_sub_cancel_left, Nat.mod_eq_of_lt ho]

variable (hm : m < 12) {e : Dev} (he : e = (d.raise 0x03 2 o 0).reedError m (0x100000000 + o) 4)
include hm he

/-- An uncorrected error: the master's read ends, and the row is retired while spare rows last. -/
theorem Dev.dramError_uncorrected :
    d.dramError m (0x100000000 + o) false =
      if d.loam.retired.contains (o / 2048) then e
      else if 4096 ≤ d.loam.retired.length then e.raise 0x03 9 o 0
      else
        let x := ({ e with loam := { e.loam with retired := d.loam.retired ++ [o / 2048] } } : Dev).raise 0x03 8 o 0
        if d.loam.retired.length + 1 = 4096 then x.raise 0x03 9 o 0 else x := by
  have hloam : e.loam = d.loam := by rw [he, Dev.reedError_loam, Dev.raise_loam]
  rw [Dev.dramError, if_neg (Dev.loamForm ho), if_neg Bool.false_ne_true]
  simp only [Nat.add_sub_cancel_left, Nat.mod_eq_of_lt ho, if_pos hm, ← he, hloam, Dev.raise_loam, List.length_append, List.length_singleton]

theorem Dev.dramError_again (h : d.loam.retired.contains (o / 2048) = true) : d.dramError m (0x100000000 + o) false = e :=
  (Dev.dramError_uncorrected ho hm he).trans (if_pos h)

variable (hnew : d.loam.retired.contains (o / 2048) = false)
include hnew

theorem Dev.dramError_noSpare (h : 4096 ≤ d.loam.retired.length) : d.dramError m (0x100000000 + o) false = e.raise 0x03 9 o 0 := by
  rw [Dev.dramError_uncorrected ho hm he, if_neg (by rw [hnew]; exact Bool.false_ne_true), if_pos h]

theorem Dev.dramError_retires (h : d.loam.retired.length < 4095) : d.dramError m (0x100000000 + o) false =
    ({ e with loam := { e.loam with retired := d.loam.retired ++ [o / 2048] } } : Dev).raise 0x03 8 o 0 := by
  rw [Dev.dramError_uncorrected ho hm he, if_neg (by rw [hnew]; exact Bool.false_ne_true), if_neg (by omega)]
  exact if_neg (by omega)

theorem Dev.dramError_lastSpare (h : d.loam.retired.length = 4095) : d.dramError m (0x100000000 + o) false =
    (({ e with loam := { e.loam with retired := d.loam.retired ++ [o / 2048] } } : Dev).raise 0x03 8 o 0).raise 0x03 9 o 0 := by
  rw [Dev.dramError_uncorrected ho hm he, if_neg (by rw [hnew]; exact Bool.false_ne_true), if_neg (by omega)]
  exact if_pos (by omega)
end

/-! ## The ring has been exported (R410) -/

theorem Dev.traceExportEnd_none (h : d.loam.export_ = none) : d.traceExportEnd = d := by
  simp only [Dev.traceExportEnd, h]

section
variable {x : Export} (h : d.loam.export_ = some x)
include h

theorem Dev.traceExportEnd_sends {ss : Session} {ps : List (List (List Byte))} {e : Dev} (hs : d.session x.slot = some ss)
    (hps : ps = splitUpTo 65535 List.length (d.roomOf ss.addr 7 - 44) (d.ringBytes x.src x.start x.count))
    (he : e = (let f := d.exportFrames ss x ps.length ps.zipIdx x.start
               ({ f with loam := { f.loam with export_ := none } } : Dev).setFlag F.TRACE_STAT.EXPORTING false)) :
    d.traceExportEnd = e.finish x.item St.ok (((e.item x.item).map (fun (r : ItemRec) => r.result)).getD []) := by
  subst he hps
  simp only [Dev.traceExportEnd, h, hs]

theorem Dev.traceExportEnd_noSession {e : Dev} (hs : d.session x.slot = none)
    (he : e = ({ d with loam := { d.loam with export_ := none } } : Dev).setFlag F.TRACE_STAT.EXPORTING false) :
    d.traceExportEnd = e.finish x.item St.ok (((e.item x.item).map (fun (r : ItemRec) => r.result)).getD []) := by
  subst he
  simp only [Dev.traceExportEnd, h, hs]
end
end

/-- Settles O59: a request goes by its checks and, when it is the only one that waits, by the grant that follows; every other clause is one
case of its function. -/
theorem storesAct : Obligations.StoresAct := by
  refine ⟨?request, ?alone, ?lock, ?timers, ?masterReset, ?window, ?loam, ?outside, ?exports⟩
  case request =>
    rintro s d m addr write words count lock unlock barrier rfl hruns hm
    rw [exec_reedRequest hruns hm]
    refine ⟨fun ha => ?_, fun ha h => ?_, fun ha hbar hsize => ?_⟩
    · rw [Dev.reedRequest_misaligned (r := reqOf m addr write words count lock unlock barrier) ha, State.put_dev]
    · rw [Dev.reedRequest_joins (r := reqOf m addr write words count lock unlock barrier) hm ha h]
      rfl
    · rw [Dev.reedRequest_empty (r := reqOf m addr write words count lock unlock barrier) hm ha hbar hsize]
      rfl
  case alone =>
    rintro s d m addr write words count lock unlock rfl hruns hm ha hwords hcount
    have hsize : (reqOf m addr write words count lock unlock false).size ≠ 0 := by
      cases write with
      | true => exact mt List.length_eq_zero_iff.mp (hwords rfl)
      | false => exact hcount rfl
    rw [exec_reedRequest hruns hm]
    refine ⟨fun src t hcheck => ?_, fun t hcheck hwait => ⟨fun l hl hne => ?_, fun hlocks hlock e he =>
      ⟨fun v x hwrite hw hx hok => ?_, fun v x hwrite hc hx hok => ?_, fun x hwrite hc hx hbad => ?_⟩⟩⟩
    · rw [Dev.reedRequest_refused (r := reqOf m addr write words count lock unlock false) hm ha rfl hsize hcheck]
      rfl
    · rw [Dev.reedRequest_lockedOut (r := reqOf m addr write words count lock unlock false) hm ha hsize hcheck hwait hl hne]
      rfl
    all_goals
      have hfree : AMap.find s.dev.reed.locks t = none := by rw [hlocks]; rfl
      rw [Dev.reedRequest_granted (r := reqOf m addr write words count lock unlock false) hm ha rfl hsize hcheck hwait hlocks hlock]
      subst hx
    · rw [Dev.reedGrant_writeOne hfree hlock he hwrite hw hok]
      rfl
    · rw [Dev.reedGrant_readOne hfree hlock he hwrite hc hok]
      rfl
    · rw [Dev.reedGrant_readError hfree hlock he hwrite hc hbad]
      rfl
  case lock =>
    rintro s d e t l rfl hruns ht
    rw [exec_reedLockTimeout hruns ht]
    refine ⟨fun h => ?_, fun h hdue he => ?_⟩
    · rw [Dev.reedLockTimeout_none h, State.put_dev]
    · rw [Dev.reedLockTimeout_ends h hdue, he]
  case timers =>
    rintro s d e m t q rfl hruns hm ht
    rw [exec_starve hruns hm ht, exec_orderHoldLong hruns hm ht]
    refine ⟨fun h => ?_, fun h => ?_, fun h hdue he => ?_, fun i h hdue he => ?_⟩
    · rw [Dev.reedStarve_none h, State.put_dev]
    · rw [Dev.reedHoldLong_none h, State.put_dev]
    · rw [Dev.reedStarve_reports h hdue, he]
    · rw [Dev.reedHoldLong_reports h hdue, he]
  case masterReset =>
    rintro s d m addr words item rfl hruns hm
    rw [exec_masterReset hruns hm]
    have hburst : ∀ (c : Nat × Option Nat) (x y : Dev), (if words.isEmpty then x else if c.2.isSome then x else y) =
        if words = [] ∨ c.2 ≠ none then x else y := by
      intro c x y
      by_cases hw : words = []
      · simp [hw]
      · cases c.2 <;> simp [hw]
    simp only [Dev.masterReset, if_neg (Nat.not_le.mpr hm), Bool.or_eq_true, Bool.and_eq_true, decide_eq_true_eq, hburst] <;>
      rfl
  case window =>
    rintro s d e n v rfl hruns hn
    refine ⟨fun he => ?_, fun he => ?_⟩
    · rw [exec_reedWinWrite hruns false v hn]
      exact congrArg (fun x => Host.Outcome.next (s.put x)) (Dev.regCommand_REED_WIN_BASE hn he)
    · rw [exec_reedWinWrite hruns true v hn]
      exact congrArg (fun x => Host.Outcome.next (s.put x)) (Dev.regCommand_REED_WIN_CTL hn he)
  case loam =>
    rintro s d e m o rfl hruns hm ho
    rw [exec_dramError hruns hm, exec_dramError hruns hm]
    refine ⟨?_, fun he => ⟨fun h => ?_, fun hnew h => ?_, fun hnew h => ?_, fun hnew h => ?_⟩⟩
    · rw [Dev.dramError_corrected ho]
    · rw [Dev.dramError_again ho hm he h]
    · rw [Dev.dramError_retires ho hm he hnew h]
    · rw [Dev.dramError_lastSpare ho hm he hnew h]
    · rw [Dev.dramError_noSpare ho hm he hnew h]
  case outside =>
    rintro s m addr corrected hruns hm h
    rw [exec_dramError hruns hm, Dev.dramError_outside corrected h, State.put_dev]
  case exports =>
    rintro s d e x rfl hruns
    rw [exec_traceExportEnd hruns]
    refine ⟨fun h => ?_, fun ss ps h hs hps he => ?_, fun h hs he => ?_⟩
    · rw [Dev.traceExportEnd_none h, State.put_dev]
    · rw [Dev.traceExportEnd_sends h hs hps he]
    · rw [Dev.traceExportEnd_noSession h hs he]

end Sys2Proof.Machine
end

