-- ==== Sys2Proof/Proofs/Marl.lean ====
section
/-! PROOFS. Marl (R411, R412, R414): which operation starts, what a round comes to, and when the fault-log buffer is flushed. -/

namespace Sys2Proof.Machine
open Sys2Proof

/-! ## The commands -/

section
variable {s : State} (h : s.coreRuns = true)
include h

theorem exec_marlOperationStart : exec .marlOperationStart s = .next (s.put s.dev.marlStart) := State.core_of_coreRuns _ h
theorem exec_marlRoundDone (good : Bool) : exec (.marlRoundDone good) s = .next (s.put (s.dev.marlRound good)) :=
  State.core_of_coreRuns _ h
theorem exec_marlLogFlush : exec .marlLogFlush s = .next (s.put s.dev.marlFlush) := State.core_of_coreRuns _ h
end

section
variable {d : Dev}

/-! ## The next operation by rank (R414) -/

theorem Dev.marlStart_idle (h : d.therm.shut ≠ 0 ∨ d.marl.queue = []) : d.marlStart = d := by
  by_cases hshut : d.therm.shut = 0
  · simp only [Dev.marlStart, hshut, ne_eq, not_true, if_false, h.resolve_left (not_not_intro hshut)]
  · exact if_pos hshut

section
variable {q op : MarlOp} {qs : List MarlOp} {e : Dev} (hshut : d.therm.shut = 0) (hqueue : d.marl.queue = q :: qs)
  (hop : op = qs.foldl (fun (b : MarlOp) (x : MarlOp) => if x.rank < b.rank then x else b) q)
include hshut hqueue hop

section
variable (he : e = { d with
  marl := { d.marl with queue := d.marl.queue.erase op, run := some { op := op, step := 0, left := 1 }, below := d.marl.run }
  nv := { d.nv with open_ := d.nv.open_ + 1 } })
include he

theorem Dev.marlStart_first (hrun : d.marl.run = none) : d.marlStart = e.marlStat := by
  subst he hop
  simp [Dev.marlStart, hshut, hqueue, hrun]

/-- An operation of rank 1 is placed between two rounds of another. -/
theorem Dev.marlStart_placed {r : MarlRun} (hrun : d.marl.run = some r) (hrank : op.rank = 1) (hother : 1 < r.op.rank)
    (hbelow : d.marl.below = none) : d.marlStart = e.marlStat := by
  subst he hop
  simp [Dev.marlStart, hshut, hqueue, hrun, hrank, hother, hbelow]
end

theorem Dev.marlStart_waits {r : MarlRun} (hrun : d.marl.run = some r)
    (h : op.rank ≠ 1 ∨ r.op.rank ≤ 1 ∨ d.marl.below.isSome = true) : d.marlStart = d := by
  subst hop
  have hbusy : (!(decide ((qs.foldl (fun (b : MarlOp) (x : MarlOp) => if x.rank < b.rank then x else b) q).rank = 1 ∧ 1 < r.op.rank) &&
      d.marl.below.isNone)) = true := by
    rw [Bool.not_eq_true', Bool.and_eq_false_iff, decide_eq_false_iff_not]
    rcases h with hrank | hlow | hbelow
    · exact .inl fun hc => hrank hc.1
    · exact .inl fun hc => Nat.not_lt.mpr hlow hc.2
    · rw [Option.isSome_iff_ne_none, ne_eq, ← Option.isNone_iff_eq_none, Bool.not_eq_true] at hbelow
      exact .inr hbelow
  simp only [Dev.marlStart, hshut, ne_eq, not_true, if_false, hqueue, hrun, hbusy, if_true]
end

/-! ## Rounds (R411, R412) -/

theorem Dev.marlRound_none (good : Bool) (h : d.marl.run = none) : d.marlRound good = d := by
  simp only [Dev.marlRound, h]

/-- The device with a round of an erase step counted in the wear of its region. -/
def Dev.marlWear (d : Dev) (r : MarlRun) : Dev :=
  let wear := AMap.get d.nv.wear r.op.kind.region 0 + (if r.left = 1 then 1 else 0)
  if r.step = 1 then { d with nv := { d.nv with wear := AMap.put d.nv.wear r.op.kind.region wear } } else d

theorem Dev.marlWear_erase {r : MarlRun} (h : r.step ≠ 1) : d.marlWear r = d := if_neg h

theorem Dev.marlWear_therm (d : Dev) (r : MarlRun) : (d.marlWear r).therm = d.therm := by
  rw [Dev.marlWear]
  split <;> rfl

section
variable {r : MarlRun} (hrun : d.marl.run = some r)
include hrun

/-- A good round goes by the shut-down, by the rounds left of its step and by the steps left. -/
theorem Dev.marlRound_good :
    d.marlRound true =
      (let w := d.marlWear r
       if d.therm.shut ≠ 0 && (1 < r.left || r.step ≠ 3) then
         ({ w with marl := { w.marl with run := none, below := none, queue := [] } } : Dev).marlStat
       else if 1 < r.left then ({ w with marl := { w.marl with run := some { r with left := r.left - 1 } } } : Dev).marlStat
       else match r.next with
         | some n => ({ w with marl := { w.marl with run := some n } } : Dev).marlStat
         | none => ((w.marlEndRun).marlCommit r.op).marlStat) := by
  rw [← d.marlWear_therm r]
  unfold Dev.marlRound
  simp only [hrun, if_true] <;>
    rfl

theorem Dev.marlRound_shut (hshut : d.therm.shut ≠ 0) (h : 1 < r.left ∨ r.step ≠ 3) :
    d.marlRound true = (let w := d.marlWear r
      ({ w with marl := { w.marl with run := none, below := none, queue := [] } } : Dev).marlStat) := by
  rw [Dev.marlRound_good hrun]
  exact if_pos (by simpa [hshut] using h)

theorem Dev.marlRound_left (hshut : d.therm.shut = 0) (hleft : 1 < r.left) :
    d.marlRound true = (let w := d.marlWear r
      ({ w with marl := { w.marl with run := some { r with left := r.left - 1 } } } : Dev).marlStat) := by
  rw [Dev.marlRound_good hrun]
  exact (if_neg (by simp [hshut])).trans (if_pos hleft)

variable (hleft : r.left ≤ 1)
include hleft

theorem Dev.marlRound_next {n : MarlRun} (hshut : d.therm.shut = 0) (hnext : r.next = some n) :
    d.marlRound true = (let w := d.marlWear r
      ({ w with marl := { w.marl with run := some n } } : Dev).marlStat) := by
  rw [Dev.marlRound_good hrun, hnext]
  exact (if_neg (by simp [hshut])).trans (if_neg (Nat.not_lt.mpr hleft))

theorem Dev.marlRound_commits {e : Dev} (hstep : r.step = 3)
    (he : e = { d with
      marl := { d.marl with run := d.marl.below, below := none }
      nv := { d.nv with open_ := d.nv.open_ - 1 } }) : d.marlRound true = (e.marlCommit r.op).marlStat := by
  subst he
  have hnext : r.next = none := by simp [MarlRun.next, hstep]
  rw [Dev.marlRound_good hrun, hnext, Dev.marlWear_erase (by omega)]
  exact (if_neg (by simp [hstep, Nat.not_lt.mpr hleft])).trans (if_neg (Nat.not_lt.mpr hleft))
end

section
variable {r : MarlRun} (hrun : d.marl.run = some r) {x : Dev} (hx : x = d.raise 0x04 (if r.step = 1 then 1 else 0) r.op.kind.region 0)
include hrun hx

theorem Dev.marlRound_noSpare (h : d.nv.spares = 0) :
    d.marlRound false = ((x.marlEndRun).marlFailed r.op St.marlError).marlStat := by
  subst hx
  unfold Dev.marlRound
  simp only [hrun, Bool.false_eq_true, if_false]
  exact if_pos h

variable {y : Dev} (h : d.nv.spares ≠ 0)
  (hy : y = ({ x with nv := { x.nv with spares := d.nv.spares - 1 } } : Dev).raise 0x04 4 r.op.kind.region (d.nv.spares - 1))
include h hy

/-- A failed round takes a spare block, and reports the last of them or that few are left. -/
theorem Dev.marlRound_spare :
    d.marlRound false = (if d.nv.spares - 1 = 0 then y.raise 0x04 6 0 0
      else if d.nv.spares - 1 < 32 then y.raise 0x04 5 (d.nv.spares - 1) 0 else y).marlStat := by
  subst hx hy
  unfold Dev.marlRound
  simp only [hrun, Bool.false_eq_true, if_false]
  exact if_neg h
end

/-! ## The fault-log buffer (R412) -/

theorem Dev.marlFlush_idle (h : d.marl.buf = [] ∨ ∃ o ∈ d.marl.queue, o.kind = .faultLog) : d.marlFlush = d :=
  if_pos (by simpa using h)

theorem Dev.marlFlush_asks {e : Dev} (hbuf : d.marl.buf ≠ []) (hqueue : ∀ o ∈ d.marl.queue, o.kind ≠ .faultLog)
    (h : 512 ≤ d.marl.buf.length ∧ e = d ∨
      d.marl.buf.length < 512 ∧ d.before (d.marl.bufTb + 1000000000) = true ∧ e = d.wait (d.marl.bufTb + 1000000000)) :
    d.marlFlush = e.marlAsk 1 .faultLog none := by
  have hgo : ¬(d.marl.buf.isEmpty || d.marl.queue.any (fun (o : MarlOp) => o.kind = .faultLog)) = true := by
    simpa [hbuf] using hqueue
  rcases h with ⟨hfull, rfl⟩ | ⟨hpart, hdue, rfl⟩
  · rw [Dev.marlFlush, if_neg hgo, if_neg (Nat.not_lt.mpr hfull)]
  · rw [Dev.marlFlush, if_neg hgo, if_pos hpart, Dev.fire_of_before _ hdue]
end

/-- Settles O60: the start goes by the operation of the best rank, a round by what is left of its step, a failed one by the spares. -/
theorem marlActs : Obligations.MarlActs := by
  refine ⟨?start, ?round, ?flush⟩
  case start =>
    rintro s d e op q qs rfl hruns
    rw [exec_marlOperationStart hruns]
    refine ⟨fun h => ?_, fun hshut hqueue hop he => ⟨fun hrun => ?_, fun r hrun => ⟨fun hrank hother hbelow => ?_, fun h => ?_⟩⟩⟩
    · rw [Dev.marlStart_idle h, State.put_dev]
    · rw [Dev.marlStart_first hshut hqueue hop he hrun]
    · rw [Dev.marlStart_placed hshut hqueue hop he hrun hrank hother hbelow]
    · rw [Dev.marlStart_waits hshut hqueue hop hrun h, State.put_dev]
  case round =>
    rintro s d e w x y r rfl hruns
    simp only [exec_marlRoundDone hruns]
    refine ⟨fun hrun good => ?_, fun hrun n1 n2 hn1 hn2 wear hwear hw => ?_⟩
    · rw [Dev.marlRound_none good hrun, State.put_dev]
    · obtain rfl : w = s.dev.marlWear r := by rw [hw, hwear, Dev.marlWear]
      subst hn1 hn2
      refine ⟨fun hshut h => ?_, fun hshut hleft => ?_, fun hshut hleft hstep => ?_, fun hshut hleft hstep => ?_, fun hshut hleft hstep => ?_,
        fun hleft hstep he => ?_, fun hspares hx => ?_, fun hspares hx hy => ⟨fun h => ?_, fun h => ?_, fun hlo hhi => ?_⟩⟩
      · rw [Dev.marlRound_shut hrun hshut h]
      · rw [Dev.marlRound_left hrun hshut hleft]
      · rw [Dev.marlRound_next hrun hleft hshut (if_pos hstep), Dev.marlWear_erase (by omega)]
      · rw [Dev.marlRound_next hrun hleft hshut ((if_neg (by omega)).trans (if_pos hstep))]
      · rw [Dev.marlRound_next hrun hleft hshut ((if_neg (by omega)).trans ((if_neg (by omega)).trans (if_pos hstep))),
          Dev.marlWear_erase (by omega)]
      · rw [Dev.marlRound_commits hrun hleft hstep he]
      · rw [Dev.marlRound_noSpare hrun hx hspares]
      · rw [Dev.marlRound_spare hrun hx hspares hy, if_neg (by omega), if_neg (by omega)]
      · rw [Dev.marlRound_spare hrun hx hspares hy, if_pos (by omega)]
      · rw [Dev.marlRound_spare hrun hx hspares hy, if_neg (by omega), if_pos (by omega)]
  case flush =>
    rintro s d rfl hruns
    rw [exec_marlLogFlush hruns]
    refine ⟨fun h => ?_, fun hbuf hqueue e h => ?_⟩
    · rw [Dev.marlFlush_idle h, State.put_dev]
    · rw [Dev.marlFlush_asks hbuf hqueue h]
      rfl

end Sys2Proof.Machine
end

