-- ==== Sys2Proof/Proofs/SupplyBoot.lean ====
section
/-! PROOFS. Supplies, secure boot and self-test (R419 - R421, R423, R444). -/

namespace Sys2Proof.Machine
open Sys2Proof

/-! ## The commands -/

section
variable {s : State} (h : s.runs = true)
include h

theorem exec_vidNotReached : exec .vidNotReached s = .next (s.put s.dev.vidNotReached) := State.run_of_runs _ rfl h
theorem exec_secureBoot (good : Bool) : exec (.secureBoot good) s = .next (s.put (s.dev.secureBoot good)) := State.run_of_runs _ rfl h
theorem exec_selfTest (failed : Nat) (bursts : List Nat) (cals : List (Int × Int)) :
    exec (.selfTest failed bursts cals) s = .next (s.put (s.dev.selfTest failed bursts cals)) := State.run_of_runs _ rfl h
end

theorem exec_vidStep {s : State} (ok : Bool) : exec (.vidStep ok) s = .next (s.put (s.dev.vidStep ok)) := State.raw_acts s _ _ rfl

/-- What each round of a loop leaves alone, the loop leaves alone. -/
theorem forEach_keeps {α β γ : Type} (g : β → γ) {f : α → β → β} (h : ∀ a b, g (f a b) = g b) (l : List α) (b : β) :
    g (forEach l f b) = g b := by
  induction l generalizing b with
  | nil => rfl
  | cons a l ih => exact (ih (f a b)).trans (h a b)

section
variable {d : Dev}

/-! ## The core supply (R419, R444) -/

theorem Dev.vidNotReached_late {e : Dev} (hstage : d.stage = 1) (hlate : d.boot.vidLate = false) (hdue : d.before 5000000 = true)
    (he : e = d.wait 5000000) : d.vidNotReached = { e.raise 0x2C 4 0xFF 800 with boot := { e.boot with vidLate := true } } := by
  subst he
  rw [Dev.vidNotReached, if_neg (by simp [hstage, hlate]), Dev.fire_of_before _ hdue]

theorem Dev.vidStep_moves {ok : Bool} {v : Nat} {w e r : Dev} (hheld : d.held = false) (hstage : 2 < d.stage)
    (hdue : d.before (d.sup.vidTb + 1000000) = true) (hne : d.sup.vid ≠ d.vidTarget)
    (hv : v = (if d.sup.vid < d.vidTarget then min d.vidTarget (d.sup.vid + 10) else max d.vidTarget (d.sup.vid - 10)))
    (hw : w = d.wait (d.sup.vidTb + 1000000)) (he : e = { w with sup := { w.sup with vid := v, vidTb := w.time.tb } })
    (hr : r = (if ok then e else e.raise 0x2C 11 0xFF v)) :
    d.vidStep ok = if v = d.vidTarget then r.raise 0x2C 3 0 v else r := by
  subst hr he hw hv
  obtain ⟨⟨hshut, htrip⟩, hsup⟩ : (d.therm.shut ≠ 3 ∧ d.therm.trip = false) ∧ d.sup.held = false := by simpa [Dev.held] using hheld
  have hgo : ¬(decide (d.vidTarget = d.sup.vid) || d.therm.trip || d.sup.held ||
      decide (d.rd F.BOOT_STAT.STAGE ≤ 2) && decide (d.therm.shut = 0)) = true := by
    rw [decide_eq_false hne.symm, htrip, hsup, decide_eq_false (show ¬d.rd F.BOOT_STAT.STAGE ≤ 2 from Nat.not_le.mpr hstage)]
    exact Bool.false_ne_true
  exact (if_neg hgo).trans (Dev.fireHeld_of_runs _ hheld hdue)

/-! ## Secure boot (R420) -/

theorem Dev.marlStat_nv (d : Dev) : d.marlStat.nv = d.nv := by
  simp [Dev.marlStat]

theorem Dev.marlMount_nv (d : Dev) : d.marlMount.nv = { d.nv with open_ := 0 } := by
  rw [Dev.marlMount, Dev.marlStat_nv, forEach_keeps (fun x : Dev => x.nv) fun _ x => x.raise_nv _ _ _ _, Dev.wr_nv]

theorem Dev.bootMount_nv (d : Dev) : (d.setStage 2).marlMount.nv = { d.nv with open_ := 0 } := Dev.marlMount_nv _

theorem Dev.secureBoot_image {good : Bool} {k : Nat} {i : Image} {m w e : Dev} (hstage : d.stage = 1) (hslots : d.nv.slots = [(k, i)])
    (hgood : i.good = true) (hsec : d.nv.fuse ≤ i.secVer) (hpref : d.nv.preferred = k) (hm : m = (d.setStage 2).marlMount)
    (hw : w = (m.wr F.BOOT_STAT.SLOT k).wr F.BOOT_VER.VERSION i.version) (he : e = { w with boot := { w.boot with image := some i } }) :
    d.secureBoot good = (e.loadConfig good).setStage 3 := by
  have hnv : m.nv = { d.nv with open_ := 0 } := by rw [hm, Dev.bootMount_nv]
  have hold : ¬i.secVer < d.nv.fuse := Nat.not_lt.mpr hsec
  subst he hw hpref
  rw [Dev.secureBoot, if_neg (by simp [hstage]), ← hm]
  simp only [hnv, hslots, forEach, List.foldl, hold, hgood, Bool.not_true, Bool.false_eq_true, if_false, List.filter_cons, List.filter_nil,
    Dev.imageGood, decide_eq_true hsec, Bool.and_true, if_true, Dev.wr_nv]

theorem Dev.secureBoot_noImage (hstage : d.stage = 1) (hslots : d.nv.slots = []) :
    d.secureBoot true = (((((d.setStage 2).marlMount).loadMarl true (fun k => stationKeys.contains k)).raise 0x01 3 0 0).setFlag
      F.BOOT_STAT.RECOVERY true) := by
  have hnv : ((d.setStage 2).marlMount).nv.slots = [] := by rw [Dev.bootMount_nv, hslots]
  rw [Dev.secureBoot, if_neg (by simp [hstage])]
  simp only [hnv, forEach, List.foldl, List.filter_nil, if_true]

/-! ## The first test that fails (R423) -/

theorem firstFailed_reported {failed : Nat} {slow conv : Bool}
    (h : failed = 1 ∨ failed ≠ 0 ∧ slow = false ∧ (conv = false ∨ failed ≤ 4)) : firstFailed failed slow conv = failed := by
  rcases h with rfl | ⟨hne, rfl, rfl | hle⟩
  · cases slow <;> cases conv <;> rfl
  · simp [firstFailed, hne]
  · cases conv
    · simp [firstFailed, hne]
    · simpa [firstFailed, hne] using hle

theorem firstFailed_slow {failed : Nat} {conv : Bool} (h : failed ≠ 1) : firstFailed failed true conv = 2 := by
  by_cases h0 : failed = 0
  · cases conv <;> simp [firstFailed, h0]
  · cases conv <;> simp [firstFailed, h0] <;> omega

theorem firstFailed_converter {failed : Nat} (h : failed = 0 ∨ 4 < failed) : firstFailed failed false true = 4 := by
  rcases h with rfl | h
  · rfl
  · simpa [firstFailed, show failed ≠ 0 by omega] using h.le

/-! ## Self-test (R423) -/

section
variable {failed : Nat} {bursts : List Nat} {cals : List (Int × Int)} {b e : Dev} {slow conv : Bool} (hstage : d.stage = 3)
  (hheld : d.boot.held = false) (hwait : d.rd F.BOOT_STAT.WAIT ≠ 4)
  (hb : b = forEach bursts.zipIdx (fun (pe : Nat × Nat) (d : Dev) => d.refBurst pe.2 pe.1) d)
  (he : e = forEach cals.zipIdx (fun (ck : (Int × Int) × Nat) (d : Dev) =>
    if ck.2 < 2 then (d.svCalTake ck.2 ck.1.1 ck.1.2).updConv ck.2 (fun c => { c with spoilt := true }) else d) b)
  (hslow : slow = bursts.zipIdx.any (fun (pe : Nat × Nat) => d.burstSlow pe.2 pe.1))
  (hconv : conv = (List.range 2).any (fun k => e.rd (F.SV_STAT.CAL_RESULT k) ≠ 1))
include hstage hheld hwait hb he hslow hconv

/-- The tests are made, and the first that fails decides. -/
theorem Dev.selfTest_judged :
    d.selfTest failed bursts cals =
      if firstFailed failed slow conv ≠ 0 then (e.raise 0x01 11 (firstFailed failed slow conv) 0).setWait 4
      else if e.flag F.START_CFG.AUTO then e.startStage4
      else { e.setWait 3 with boot := { (e.setWait 3).boot with held := true, waitNext := 0 } } := by
  subst hslow hconv he hb
  exact if_neg (by simp [hstage, hheld, hwait])

theorem Dev.selfTest_fails {n : Nat} (hn : n ≠ 0) (h : firstFailed failed slow conv = n) :
    d.selfTest failed bursts cals = (e.raise 0x01 11 n 0).setWait 4 := by
  rw [Dev.selfTest_judged hstage hheld hwait hb he hslow hconv, h, if_pos hn]

variable (h : firstFailed failed slow conv = 0)
include h

theorem Dev.selfTest_passes_auto (hauto : e.flag F.START_CFG.AUTO = true) : d.selfTest failed bursts cals = e.startStage4 := by
  rw [Dev.selfTest_judged hstage hheld hwait hb he hslow hconv, if_neg (not_not_intro h), if_pos hauto]

theorem Dev.selfTest_passes_holds (hauto : e.flag F.START_CFG.AUTO = false) :
    d.selfTest failed bursts cals = { e.setWait 3 with boot := { (e.setWait 3).boot with held := true, waitNext := 0 } } := by
  rw [Dev.selfTest_judged hstage hheld hwait hb he hslow hconv, if_neg (not_not_intro h), if_neg (by simp [hauto])]
end
end

/-- Settles O11: each command in the stage and with the images, tests and codes of its clause. -/
theorem supplyAndBootActs : Obligations.SupplyAndBootActs := by
  refine ⟨?late, ?vid, ?image, ?noImage, ?test⟩
  case late =>
    rintro s hruns hstage hlate hdue e he
    rw [exec_vidNotReached hruns, Dev.vidNotReached_late hstage hlate hdue he]
  case vid =>
    rintro s ok v hruns hstage hdue hne hv w e hw he r hr
    have hheld : s.dev.held = false := by simpa only [State.runs, Bool.not_eq_true'] using hruns
    rw [exec_vidStep, Dev.vidStep_moves hheld hstage hdue hne hv hw he hr]
  case image =>
    rintro s good k i hruns hstage hslots hgood hsec hpref m w e hm hw he
    rw [exec_secureBoot hruns, Dev.secureBoot_image hstage hslots hgood hsec hpref hm hw he]
  case noImage =>
    rintro s hruns hstage hslots
    rw [exec_secureBoot hruns, Dev.secureBoot_noImage hstage hslots]
  case test =>
    rintro s failed bursts cals hruns hstage hheld hwait b e hb he slow conv hslow hconv
    rw [exec_selfTest hruns]
    refine ⟨fun h => ?_, fun hne h => ?_, fun hfailed h hc => ?_, fun h0 h hc hauto => ?_, fun h0 h hc hauto => ?_⟩
    · rw [Dev.selfTest_fails hstage hheld hwait hb he hslow hconv (by omega) (firstFailed_reported h)]
    · rw [Dev.selfTest_fails hstage hheld hwait hb he hslow hconv (n := 2) (by decide) (by rw [h, firstFailed_slow hne])]
    · rw [Dev.selfTest_fails hstage hheld hwait hb he hslow hconv (n := 4) (by decide) (by rw [h, hc, firstFailed_converter hfailed])]
    · rw [Dev.selfTest_passes_auto hstage hheld hwait hb he hslow hconv (by rw [h0, h, hc]; rfl) hauto]
    · rw [Dev.selfTest_passes_holds hstage hheld hwait hb he hslow hconv (by rw [h0, h, hc]; rfl) hauto]

end Sys2Proof.Machine
end

