-- ==== Sys2Proof/Proofs/StartUpStages.lean ====
section
/-! PROOFS. The stages of start-up from the hold after self-test to READY (R417, R424, R428, R429, R434, R439). -/

namespace Sys2Proof.Machine
open Sys2Proof

/-! ## The commands -/

section
variable {s : State} (h : s.runs = true)
include h

theorem exec_go (v : Nat) : exec (.go v) s = .next (s.put (s.dev.regCommand R.START_CTRL (putBit v 0 true))) := State.run_of_runs _ rfl h
theorem exec_tileDiscovery : exec .tileDiscovery s = .next (s.put s.dev.tileDiscovery) := State.run_of_runs _ rfl h
theorem exec_discoverTimeout : exec .discoverTimeout s = .next (s.put s.dev.discoverTimeout) := State.run_of_runs _ rfl h
theorem exec_bootOk : exec .bootOk s = .next (s.put s.dev.bootOk) := State.run_of_runs _ rfl h

theorem exec_thermalSettled {t : Nat} (ht : t < 16) : exec (.thermalSettled t) s = .next (s.put (s.dev.thermalSettled t)) :=
  State.run_of_runs _ (decide_eq_true ht) h
theorem exec_calDeferred {t : Nat} (ht : t < 16) : exec (.calDeferred t) s = .next (s.put (s.dev.calDeferred t)) :=
  State.run_of_runs _ (decide_eq_true ht) h
end

section
variable {s : State} (h : s.fabricRuns = true) {t : Nat} (ht : t < 16)
include h ht

theorem exec_tileWake : exec (.tileWake t) s = .next (s.put (s.dev.tileWake t)) := State.live_of_fabricRuns _ (decide_eq_true ht) h
theorem exec_loopsEnable : exec (.loopsEnable t) s = .next (s.put (s.dev.loopsEnable t)) := State.live_of_fabricRuns _ (decide_eq_true ht) h
end

section
variable {d : Dev}

/-! ## Holds (R439) -/

theorem Dev.regCommand_START_CTRL_go (d : Dev) (v : Nat) : d.regCommand R.START_CTRL (putBit v 0 true) = d.go := by
  obtain ⟨fields, hreg⟩ := regAt_of_rowAt rowAt_START_CTRL
  exact Dev.regCommand_atRow hreg (fun x => x.pairOwned_of_notShared [] (by decide) (by decide))
    (Prod.ext (if_pos (bit_putBit_self v 0 true)) rfl)

theorem Dev.go_notHeld (h : d.boot.held = false) : d.go = d := if_pos (by simp [h])

theorem Dev.setWait_stage (d : Dev) (n : Nat) : (d.setWait n).stage = d.stage := d.rd_wr_ne _ _ _ (by decide)

section
variable {w e : Dev} (hheld : d.boot.held = true) (hw : w = d.setWait d.boot.waitNext)
  (he : e = { w with boot := { w.boot with held := false, waitNext := 0 } })
include hheld hw he

/-- A hold that ends goes on with what follows its stage. -/
theorem Dev.go_held : d.go = if d.stage = 3 then e.startStage4 else if d.stage = 5 then e.startResolution else e := by
  subst he hw
  rw [← d.setWait_stage d.boot.waitNext]
  exact if_neg (by simp [hheld])

theorem Dev.go_stage3 (hstage : d.stage = 3) : d.go = e.startStage4 := (Dev.go_held hheld hw he).trans (if_pos hstage)

theorem Dev.go_stage5 (hstage : d.stage = 5) : d.go = e.startResolution :=
  (Dev.go_held hheld hw he).trans ((if_neg (by omega)).trans (if_pos hstage))
end

/-! ## Stage 5 (R424) -/

theorem Dev.tileDiscovery_ends (hstage : d.stage = 5) (hheld : d.boot.held = false) (hwait : d.rd F.BOOT_STAT.WAIT ≠ 1)
    (hdone : d.discoveryDone = true) : d.tileDiscovery = d.endStage5 := by
  have hnone : ¬(d.boot.held && decide (d.boot.waitNext = 1)) = true := by
    rw [hheld]
    exact Bool.false_ne_true
  simp only [Dev.tileDiscovery, if_neg hwait, if_neg hnone, ite_self]
  exact if_pos (by simp [hstage, hheld, hdone])

theorem Dev.discoverTimeout_ends (hstage : d.stage = 5) (hheld : d.boot.held = false)
    (hdue : d.before (d.boot.stageTb + 1000000000 * max 1 (d.rd F.START_CFG.DISCOVER_S)) = true) :
    d.discoverTimeout = (d.wait (d.boot.stageTb + 1000000000 * max 1 (d.rd F.START_CFG.DISCOVER_S))).endStage5 := by
  rw [Dev.discoverTimeout, if_neg (by simp [hstage, hheld]), Dev.fire_of_before _ hdue]

/-! ## A tile that settles, and one that does not (R429) -/

section
variable {t : Nat} {x : TileStart} (hx : d.tileStart t = some x) (hstage : x.stage = 8) (hsettled : x.settled = false)
  (hdeferred : x.deferred = false)
include hx hstage hsettled hdeferred

theorem Dev.thermalSettled_starts (hactive : d.isActive = true) (hmode : d.tileMode t = Tm.fenced) (hstill : d.isSettled x = true)
    (hwake : ∀ w, x.wakeEnd = some w → d.time.tb ≤ w + 1000000000 * d.rd F.START_CFG.STABLE_MAX_S) :
    d.thermalSettled t = (((d.updStart t (fun y => { y with settled := true, temps := [] })).startCal
      { tile := t, cell := none, pass := 0, item := none, fails := 0, aborted := false, stage8 := true }).startWake t (some Tm.cal) [] false) := by
  have hlate : x.wakeEnd.any (fun w => decide (w + 1000000000 * d.rd F.START_CFG.STABLE_MAX_S < d.time.tb)) = false := by
    cases hend : x.wakeEnd with
    | none => rfl
    | some w => exact decide_eq_false (Nat.not_lt.mpr (hwake w hend))
  simp only [Dev.thermalSettled, hx, hlate]
  exact if_neg (by simp [hstage, hsettled, hdeferred, hactive, hmode, hstill])

theorem Dev.calDeferred_reports {w : Nat} (hend : x.wakeEnd = some w)
    (hdue : d.before (w + 1000000000 * d.rd F.START_CFG.STABLE_MAX_S) = true) :
    d.calDeferred t = (((d.wait (w + 1000000000 * d.rd F.START_CFG.STABLE_MAX_S)).updStart t
      (fun y => { y with deferred := true, temps := [] })).raise 0x2C 10 t 0) := by
  have hgo : ¬(decide (x.stage ≠ 8) || x.settled || x.deferred) = true := by simp [hstage, hsettled, hdeferred]
  simp only [Dev.calDeferred, hx, if_neg hgo, hend, Dev.fire_of_before _ hdue]
end

/-! ## Stages 9 and 10 of a tile (R434, R435) -/

theorem Dev.loopsEnable_runs {t : Nat} {x : TileStart} {e : Dev} (hx : d.tileStart t = some x) (hstage : x.stage = 9)
    (hactive : d.isActive = true) (hmode : d.tileMode t = Tm.fenced) (hband : d.therm.bandKnown.contains t = true)
    (he : e = ((if (d.loadRecords t).boot.crcBad then d.loadRecords t else (d.loadRecords t).treadleLoad t).enableLoops t).updStart t
      (fun y => { y with stage := 10 })) :
    d.loopsEnable t = (if e.flag F.START_CFG.AUTO_ACTIVATE then e.startWake t (some Tm.active) [] false else e).showStage := by
  have hgo : ¬(decide (x.stage ≠ 9) || !d.isActive || decide (d.tileMode t ≠ Tm.fenced) || !d.therm.bandKnown.contains t) = true := by
    rw [hactive, hband]
    simp [hstage, hmode]
  simp only [Dev.loopsEnable, hx, if_neg hgo, ← he]

/-! ## READY and READY_STANDBY (R417) -/

theorem Dev.bootOk_reports {n : Nat} {e w : Dev} (hraised : d.boot.okRaised = false) (hready : d.readyStage = some n)
    (he : e = (if n = 11 then (d.setStage n).raiseFuse else d.setStage n))
    (hw : w = e.setFlag F.BOOT_STAT.WARM (n = 11 && !e.boot.calibrated)) :
    d.bootOk = { w with boot := { w.boot with okRaised := true } }.raise 0x01 0 n 0 := by
  subst hw he
  simp only [Dev.bootOk, hraised, Bool.false_eq_true, if_false, hready]
end

/-- Settles O12: each clause is the case of its command's function that its hypotheses select. -/
theorem startUpMovesOn : Obligations.StartUpMovesOn := by
  refine ⟨?notHeld, ?held, ?discovered, ?timeout, ?wake, ?settled, ?deferred, ?loops, ?ready⟩
  case notHeld =>
    rintro s v hruns hheld
    rw [exec_go hruns, Dev.regCommand_START_CTRL_go, Dev.go_notHeld hheld, State.put_dev]
  case held =>
    rintro s v hruns hheld w e hw he
    rw [exec_go hruns, Dev.regCommand_START_CTRL_go]
    refine ⟨fun hstage => ?_, fun hstage => ?_⟩
    · rw [Dev.go_stage3 hheld hw he hstage]
    · rw [Dev.go_stage5 hheld hw he hstage]
  case discovered =>
    rintro s hruns hstage hheld hwait hdone
    rw [exec_tileDiscovery hruns, Dev.tileDiscovery_ends hstage hheld hwait hdone]
  case timeout =>
    rintro s hruns hstage hheld hdue
    rw [exec_discoverTimeout hruns, Dev.discoverTimeout_ends hstage hheld hdue]
  case wake =>
    rintro s t hruns ht _ _ _ _
    exact exec_tileWake hruns ht
  case settled =>
    rintro s t x hruns ht hx hstage hsettled hdeferred hactive hmode hstill hwake
    rw [exec_thermalSettled hruns ht, Dev.thermalSettled_starts hx hstage hsettled hdeferred hactive hmode hstill hwake]
  case deferred =>
    rintro s t w x hruns ht hx hstage hsettled hdeferred hend hdue
    rw [exec_calDeferred hruns ht, Dev.calDeferred_reports hx hstage hsettled hdeferred hend hdue]
  case loops =>
    rintro s t x hruns ht hx hstage hactive hmode hband e he
    rw [exec_loopsEnable hruns ht, Dev.loopsEnable_runs hx hstage hactive hmode hband he]
  case ready =>
    rintro s n hruns hraised hready e w he hw
    rw [exec_bootOk hruns, Dev.bootOk_reports hraised hready he hw]

end Sys2Proof.Machine
end

