-- ==== Sys2Proof/Proofs/Calibration.lean ====
section
/-! PROOFS. Calibration (R431, R433): a pass that begins, a run that ends, ABORT and SAVE. -/

namespace Sys2Proof.Machine
open Sys2Proof

/-! ## The commands -/

section
variable {s : State} (h : s.fabricRuns = true) {t : Nat} (ht : t < 16)
include h ht

theorem exec_calPass {q : Nat} (cells : List CellMeas) (ports : List PortMeas) (wit : Nat) (hq : q < 17) :
    exec (.calPass t q cells ports wit) s = .next (s.put (s.dev.calPass t q cells ports wit)) :=
  State.live_of_fabricRuns _ (by rw [decide_eq_true ht, decide_eq_true hq]; rfl) h

theorem exec_calibrationEnd : exec (.calibrationEnd t) s = .next (s.put (s.dev.calibrationEnd t)) :=
  State.live_of_fabricRuns _ (decide_eq_true ht) h
end

section
variable {s : State} (h : s.runs = true) (v : Nat)
include h

theorem exec_abort : exec (.abort v) s = .next (s.put (s.dev.regCommand R.CAL_CTRL (putBit v 0 true))) := State.run_of_runs _ rfl h
theorem exec_save : exec (.save v) s = .next (s.put (s.dev.regCommand R.CAL_CTRL (putBit v 1 true))) := State.run_of_runs _ rfl h
end

section
variable {d : Dev}

/-! ## A pass begins (R431) -/

section
variable {t q wit : Nat} {cells : List CellMeas} {ports : List PortMeas}

theorem Dev.calPass_standby (hrole : d.role = Pr.standby) (hq : q < 16) :
    d.calPass t q cells ports wit = forEach (cells.filter (fun (m : CellMeas) => cellTile m.cell = t && calPassOf m.cell = q))
      (fun m (d : Dev) => (d.takeMeas m true).1) d :=
  (if_pos hrole).trans (if_pos hq)

variable (hrole : d.role ≠ Pr.standby)
include hrole

theorem Dev.calPass_noRun (h : d.cal.runs.find? (fun (r : CalRun) => r.tile = t && decide (r.pass = q)) = none) :
    d.calPass t q cells ports wit = d := by
  simp only [Dev.calPass, if_neg hrole, h]

section
variable {r : CalRun} (h : d.cal.runs.find? (fun (r : CalRun) => r.tile = t && decide (r.pass = q)) = some r)
include h

theorem Dev.calPass_lit (hlit : r.lit = true) : d.calPass t q cells ports wit = d := by
  simp only [Dev.calPass, if_neg hrole, h, hlit, Bool.or_true, if_true]

theorem Dev.calPass_cellNotReady {c : Nat} (hcell : r.cell = some c) (hmode : d.cellMode c ≠ Cm.cal) : d.calPass t q cells ports wit = d := by
  simp only [Dev.calPass, if_neg hrole, h, hcell, decide_eq_false hmode, Bool.not_false, Bool.or_true, Bool.true_or, if_true]

theorem Dev.calPass_tileNotReady (hcell : r.cell = none) (hmode : d.tileMode t ≠ Tm.cal) : d.calPass t q cells ports wit = d := by
  simp only [Dev.calPass, if_neg hrole, h, hcell, decide_eq_false hmode, Bool.not_false, Bool.or_true, Bool.true_or, if_true]

variable (hactive : d.isActive = true) (hlit : r.lit = false)
include hactive hlit

section
variable {job : Nat → CalJob}
  (hjob : ∀ c, job c = { cell := c, step := 0, point := 0, left := 0
                         meas := (cells.filter (fun (m : CellMeas) => cellTile m.cell = t && calPassOf m.cell = q)).find?
                           (fun (m : CellMeas) => m.cell = c) })
include hjob

theorem Dev.calPass_cell {c : Nat} (hcell : r.cell = some c) (hmode : d.cellMode c = Cm.cal) :
    d.calPass t q cells ports wit = d.passOpen { r with work := [job c] } (calSource (c % 3840) 0 true true) [] := by
  simp only [Dev.calPass, if_neg hrole, h, hcell, hactive, decide_eq_true hmode, hlit, Bool.not_true, Bool.or_false, Bool.false_eq_true,
    if_false, hjob]

theorem Dev.calPass_cells {e : Dev} {cs : List Nat} (hcell : r.cell = none) (hmode : d.tileMode t = Tm.cal)
    (he : e = (d.wr F.CAL_STAT.TILE t).wr F.CAL_STAT.PASS q)
    (hcs : cs = ((List.range 3840).map (fun i => t * 3840 + i)).filter (fun c => calPassOf c = q && e.cellMode c = Cm.parked)) (hq : q ≠ 16) :
    d.calPass t q cells ports wit = e.passOpen { r with work := cs.map job } (calSource 0 q false true) cs := by
  rw [funext hjob]
  simp only [Dev.calPass, if_neg hrole, h, hcell, hactive, decide_eq_true hmode, hlit, Bool.not_true, Bool.or_false, Bool.false_eq_true,
    if_false, if_neg hq, ← he, ← hcs]
end

theorem Dev.calPass_ports {e : Dev} (hcell : r.cell = none) (hmode : d.tileMode t = Tm.cal)
    (he : e = (d.wr F.CAL_STAT.TILE t).wr F.CAL_STAT.PASS q) (hq : q = 16) :
    d.calPass t q cells ports wit = e.passOpen { r with ports := ports, wit := wit } (calSource 0 16 false true) [] := by
  simp only [Dev.calPass, if_neg hrole, h, hcell, hactive, decide_eq_true hmode, hlit, Bool.not_true, Bool.or_false, Bool.false_eq_true,
    if_false, if_pos hq, ← he]
end
end

/-! ## A run ends (R433) -/

section
variable {t : Nat}

theorem Dev.calibrationEnd_shadow (hrole : d.role = Pr.standby) (h : (AMap.find d.cal.recs.heads t).isSome = true) :
    d.calibrationEnd t = (d.holdCal t true).marlAsk 3 .cal none := (if_pos hrole).trans (if_pos h)

theorem Dev.calibrationEnd_noShadow (hrole : d.role = Pr.standby) (h : AMap.find d.cal.recs.heads t = none) : d.calibrationEnd t = d :=
  (if_pos hrole).trans (if_neg (by simp [h]))

variable (hrole : d.role ≠ Pr.standby)
include hrole

theorem Dev.calibrationEnd_noRun (h : d.cal.runs.find? (fun (r : CalRun) => r.tile = t && r.pass = 17) = none) : d.calibrationEnd t = d := by
  simp only [Dev.calibrationEnd, if_neg hrole, h]

variable {r : CalRun} {e : Dev} (h : d.cal.runs.find? (fun (r : CalRun) => r.tile = t && r.pass = 17) = some r)
  (he : e = ({ d with cal := { d.cal with runs := d.cal.runs.filter (fun (x : CalRun) => x ≠ r) } } : Dev).setFlag
    F.CAL_STAT.RUNNING (!(d.cal.runs.filter (fun (x : CalRun) => x ≠ r)).isEmpty))
include h he

theorem Dev.calibrationEnd_cell (hcell : r.cell.isSome = true) :
    d.calibrationEnd t = (e.marlAsk 3 .cal none).finishOpt r.item St.ok [] := by
  obtain ⟨c, hc⟩ := Option.isSome_iff_exists.mp hcell
  simp only [Dev.calibrationEnd, if_neg hrole, h, hc, ← he]

theorem Dev.calibrationEnd_tile {w x : Dev} (hcell : r.cell = none)
    (hw : w = (e.setFlag (F.TILE_MODE.CAL_VALID t) (decide (r.fails ≤ e.rd F.CAL_CFG.FAIL_MAX))).holdCal t false)
    (hx : x = { w with boot := { w.boot with
      calibrated := true
      tiles := w.boot.tiles.map (fun (ts : Nat × TileStart) =>
        if ts.1 = t && ts.2.stage = 8 then (t, { ts.2 with stage := if r.fails ≤ w.rd F.CAL_CFG.FAIL_MAX then 9 else 8 }) else ts) } }) :
    d.calibrationEnd t = ((x.tileTrigger t Tm.fenced false []).marlAsk 3 .cal none).finishOpt r.item St.ok [] := by
  simp only [Dev.calibrationEnd, if_neg hrole, h, hcell, ← he, ← hw, ← hx]
end

/-! ## ABORT and SAVE (R433) -/

theorem Dev.regCommand_CAL_CTRL_abort (v : Nat) (hactive : d.isActive = true) :
    d.regCommand R.CAL_CTRL (putBit v 0 true) = if bit v 1 && !d.calAbort.marlHas .cal then d.calAbort.calSave else d.calAbort := by
  refine Dev.regCommand_cal d _ _ rowAt_CAL_CTRL hactive fun fields => ?_
  have hwrite : d.rowWrite R.CAL_CTRL R.CAL_CTRL [] fields (putBit v 0 true) =
      (let e := if bit (putBit v 0 true) 0 then d.calAbort else d
       (if bit (putBit v 0 true) 1 && !e.marlHas .cal then e.calSave else e, St.ok)) := rfl
  rw [hwrite, bit_putBit_self, bit_putBit_of_gt v true (by decide)]
  rfl

theorem Dev.regCommand_CAL_CTRL_save {v : Nat} (hactive : d.isActive = true) (habort : bit v 0 = false) (hnone : d.marlHas .cal = false) :
    d.regCommand R.CAL_CTRL (putBit v 1 true) = d.marlAsk 3 .cal none := by
  refine Dev.regCommand_cal d _ _ rowAt_CAL_CTRL hactive fun fields => ?_
  have hwrite : d.rowWrite R.CAL_CTRL R.CAL_CTRL [] fields (putBit v 1 true) =
      (let e := if bit (putBit v 1 true) 0 then d.calAbort else d
       (if bit (putBit v 1 true) 1 && !e.marlHas .cal then e.calSave else e, St.ok)) := rfl
  rw [hwrite, bit_putBit_self, bit_putBit_of_lt v true (by decide), habort]
  exact Prod.ext (if_pos (by simp [hnone])) rfl

theorem Dev.regCommand_CAL_CTRL_refused (v : Nat) (h : d.isActive = false) : d.regCommand R.CAL_CTRL v = d := by
  have hwrite : d.regWrite R.CAL_CTRL v = (d, St.roleStandby) := d.regWrite_standby _ v _ _ rowAt_CAL_CTRL rfl h
  rw [d.regCommand_refused _ v (by rw [hwrite]; exact (by decide : St.roleStandby ≠ St.ok))]
  apply Dev.regRejected_none <;> decide
end

/-- A write of CAL_CTRL on a unit that is not in pair role ACTIVE changes nothing, held or not. -/
theorem State.run_CAL_CTRL_refused (s : State) (v : Nat) (h : s.dev.isActive = false) :
    s.run true (fun d => d.regCommand R.CAL_CTRL v) = .next s := by
  by_cases hruns : s.runs = true
  · rw [State.run_of_runs _ rfl hruns, Dev.regCommand_CAL_CTRL_refused v h, State.put_dev]
  · have hheld : s.dev.held = true := by simpa [State.runs] using hruns
    exact s.run_held true _ hheld

/-- Settles O13: a pass by the run that is at it and its mode, an end by the run whose passes are done, ABORT and SAVE by CAL_CTRL. -/
theorem calibrationActs : Obligations.CalibrationActs := by
  refine ⟨?pass, ?shadowPass, ?shadowEnd, ?noShadow, ?runEnd, ?abort, ?save, ?refused⟩
  case pass =>
    rintro s t q wit cells ports job hruns ht hq hactive hrole hjob
    rw [exec_calPass hruns ht cells ports wit hq]
    refine ⟨fun h => ?_, fun r h => ⟨fun hlit => ?_, fun c hlit hcell => ⟨fun hmode => ?_, fun hmode => ?_⟩, fun hlit hcell hmode => ?_,
      fun hlit hcell hmode d cs hd hcs => ⟨fun hq16 => ?_, fun hq16 => ?_⟩⟩⟩
    · rw [Dev.calPass_noRun hrole h, State.put_dev]
    · rw [Dev.calPass_lit hrole h hlit, State.put_dev]
    · rw [Dev.calPass_cellNotReady hrole h hcell hmode, State.put_dev]
    · rw [Dev.calPass_cell hrole h hactive hlit hjob hcell hmode]
    · rw [Dev.calPass_tileNotReady hrole h hcell hmode, State.put_dev]
    · rw [Dev.calPass_ports hrole h hactive hlit hcell hmode hd hq16]
    · rw [Dev.calPass_cells hrole h hactive hlit hjob hcell hmode hd hcs hq16]
  case shadowPass =>
    rintro s t q wit cells ports hruns ht hq hrole
    rw [exec_calPass hruns ht cells ports wit (by omega), Dev.calPass_standby hrole hq]
  case shadowEnd =>
    rintro s t hruns ht hrole h
    rw [exec_calibrationEnd hruns ht, Dev.calibrationEnd_shadow hrole h]
  case noShadow =>
    rintro s t hruns ht hrole h
    rw [exec_calibrationEnd hruns ht, Dev.calibrationEnd_noShadow hrole h, State.put_dev]
  case runEnd =>
    rintro s t hruns ht hrole
    rw [exec_calibrationEnd hruns ht]
    refine ⟨fun h => ?_, fun r e h he => ⟨fun hcell => ?_, fun hcell w x hw hx => ?_⟩⟩
    · rw [Dev.calibrationEnd_noRun hrole h, State.put_dev]
    · rw [Dev.calibrationEnd_cell hrole h he hcell]
    · rw [Dev.calibrationEnd_tile hrole h he hcell hw hx]
  case abort =>
    rintro s v hruns hactive
    rw [exec_abort hruns, Dev.regCommand_CAL_CTRL_abort v hactive]
  case save =>
    rintro s v hruns hactive habort hnone
    rw [exec_save hruns, Dev.regCommand_CAL_CTRL_save hactive habort hnone]
  case refused =>
    rintro s v h
    exact ⟨State.run_CAL_CTRL_refused s _ h, State.run_CAL_CTRL_refused s _ h⟩

end Sys2Proof.Machine
end
